-- ==== Sys2Proof/Word.lean ====
section
/-! DEFINITION. The word types of the module (spec 00, R1) and their plainest arithmetic. -/

namespace Sys2Proof

/-- One byte, the smallest addressable unit of every memory of the module. -/
abbrev Byte := BitVec 8

/-- A 16-bit word: a BF16 number, a scale, a packed head-record scale. -/
abbrev W16 := BitVec 16

/-- A 32-bit word: an FP32 number, a register, half of a step-op field. -/
abbrev W32 := BitVec 32

/-- A 64-bit word: a sync counter, a fabric time in ns, a 64-bit register. -/
abbrev W64 := BitVec 64

/-- The bits `[hi:lo]` of `n`, both ends included (R1, R2). -/
def bits (n hi lo : Nat) : Nat := (n / 2 ^ lo) % 2 ^ (hi + 1 - lo)

/-- Bit `b` of `n`. -/
def bitAt (n b : Nat) : Bool := (n / 2 ^ b) % 2 == 1

/-- `n` with the bits `[hi:lo]` replaced by the low bits of `v`. -/
def setBits (n hi lo v : Nat) : Nat :=
  n - bits n hi lo * 2 ^ lo + v % 2 ^ (hi + 1 - lo) * 2 ^ lo

/-- A Bool as the bit the manual writes. -/
def bit (b : Bool) : Nat := if b then 1 else 0

/-- `n` held at or below `m` (saturation, R7). -/
def satTo (m n : Nat) : Nat := if n ≤ m then n else m

/-- `n` rounded up to a multiple of `m`. -/
def alignUp (n m : Nat) : Nat := (n + m - 1) / m * m

/-- The quotient rounded up. -/
def ceilDiv (n m : Nat) : Nat := (n + m - 1) / m

end Sys2Proof
end

