-- ==== Sys2Proof/Syntax.lean ====
section
/-! DEFINITION. The commands of the module: one constructor for each row of spec/opcode_table.json, in its order. -/

namespace Sys2Proof

/-- The storage errors a command meets, which are the cells' and not the command's: words of T0 (tile, byte offset, the batt that a line
of a stream buffer holds, uncorrectable, R66); sectors of T1 (address; 0 corrected, 1 read well on a retry, 2 lost; the opcode of the NBU
command that read it, 0 for a controller access, R122, R371); lines of T2 (line, the die charged, uncorrectable, R85, R328); bytes of
the stored batts of a page that read otherwise than they were written (page, byte offset, byte read, R59); page table entries (span,
page) that fail their CRC (R95); and host bytes that come in poisoned TLPs (address, count, R198). -/
structure Errs where
  t0 : List (Nat × Nat × Nat × Bool)
  t1 : List (Nat × Nat × Nat)
  t2 : List (Nat × Nat × Bool)
  batts : List (Nat × Nat × BitVec 8)
  ptes : List (Nat × Nat)
  host : List (Nat × Nat)
  deriving DecidableEq, Repr

/-- No storage error. -/
def noErrs : Errs := ⟨[], [], [], [], [], []⟩

/-- One query head of an attention operation (R131, R133): A8 values and scale, or, for a BF16 span, the widened BF16 elements; its bias
table; and the poison of each. -/
structure QHead where
  a8 : List Int
  scale : W32
  bf : List W32
  psn : Bool
  bias : List W16
  biasPsn : Bool
  deriving DecidableEq, Repr

/-- An attention operation as dispatched (Table 8-1), with its snapshot (R148): reader limit, GEN, and whether tentative rows are read; and
the CONTEXT that its records carry (R139). -/
structure AttnReq where
  fn : Nat
  span : Nat
  slot : Nat
  head : Nat
  heads : List QHead
  sQk : W32
  posQ : Nat
  posBase : Nat
  posStride : Nat
  window : Nat
  sinks : Nat
  segStart : Nat
  ranges : List (Nat × Nat)
  oBf16 : Bool
  dim : Nat
  epoch : Nat
  limit : Nat
  gen : Nat
  tent : Bool
  ctx : Nat
  deriving DecidableEq, Repr

/-- A page as its owner sends it to a lender (R99, R104): the owner's node, function and span with the geometry that its rows need, the page
with its scales, the table its batts are coded by (generation, counts and symbols, R48), and the batts. They travel and are held encrypted
under the function's T3 key; what the key hides from others is not written here. -/
structure LentIn where
  node : Nat
  fn : Nat
  span : Nat
  maxTokens : Nat
  layerSlots : Nat
  kvHeads : Nat
  dim : Nat
  fmt : Nat
  ilog : Nat
  page : Nat
  pk : Nat
  pv : Nat
  gen : Nat
  counts : List Nat
  syms : List Nat
  batts : List (List (BitVec 8))
  deriving DecidableEq, Repr

/-- What a hidden flow's WRITE to a protection copy says beside its payload, the row (R319, R320): the copy's number at its holder and the span's
shape, with the data nodes of a coded group, for a SPAN_PROTECT; the row's place, the primary's HORIZON and HORIZON_GEN, and P_K and P_V on a
page's first row; or that the copy ends. Where it stands in the packet, the spec does not say.
DESIGN CHOICE (unsafe): log entry 144. -/
inductive CopyMsg where
  | set (copy span slots tokens kvHeads dim fmt ilog : Nat) (nodes : List Nat) (second : Bool)
  | row (copy slot row horizon gen : Nat) (scales : Option (Nat × Nat))
  | free (copy : Nat)
  deriving DecidableEq, Repr

/-- A command: one whole and indivisible step of the module (95_what_each_step_holds.md). -/
inductive Instr where
  /-- CTX_OPEN (R176). Host descriptor that opens a context on a loaded program, allocates its T1 region and makes it resident or parked. -/
  | ctxOpen (fn ring num handle region : Nat) (queues : List Nat) (poisoned : List (Nat × Nat))
  /-- CTX_CLOSE (R176). Host descriptor that moves a context to ABORTING, with or without ABORT, and frees it once its items retire. -/
  | ctxClose (fn ring num : Nat)
  /-- CTX_STEP (R181). Host descriptor that runs one decode step of a context from a named phase or from ENTRY. -/
  | ctxStep (fn ring num : Nat) (crcFails : Bool)
  /-- SPAN_CREATE (R88). Host descriptor that creates a span and returns its number and base KV address. -/
  | spanCreate (fn ring num span base : Nat)
  /-- SPAN_FREE (R92). Host descriptor that moves a span to FREEING, releases and scrubs its pages, and returns its descriptor and extent. -/
  | spanFree (fn ring num : Nat)
  /-- SPAN_PROTECT (R319). Host descriptor that sets a span's protection to none, mirror or coded and completes after catch-up. -/
  | spanProtect (fn ring num answer : Nat)
  /-- KV_WRITE (R209). Host descriptor that writes FP32 rows, head-record rows or one archive record into a span. -/
  | kvWrite (fn ring num : Nat) (errs : Errs)
  /-- KV_COMMIT (R146). Host descriptor that advances a span's HORIZON. -/
  | kvCommit (fn ring num : Nat)
  /-- KV_REWIND (R146). Host descriptor that lowers APPENDED and increments HORIZON_GEN. -/
  | kvRewind (fn ring num : Nat)
  /-- ATTN_QUERY (R210). Host descriptor that runs attention for a query group and writes records or finished outputs to host memory. -/
  | attnQuery (fn ring num : Nat) (errs : Errs)
  /-- PROGRAM_LOAD (R177). Host descriptor that copies a step program image into T1 and validates it in full. -/
  | programLoad (fn ring num frame : Nat) (poisoned : List (Nat × Nat))
  /-- BUNDLE_LOAD (R297). Host descriptor that delivers one piece of a Yalua bundle for checking, decryption and placement. -/
  | bundleLoad (fn ring num handle : Nat) (sigOk unwrapOk : Bool) (sections : List (Bool × List (BitVec 8))) (frames : List Nat) (poisoned : List (Nat × Nat))
  /-- COPY (R211). Host descriptor that moves bytes between host, local and fabric addresses. -/
  | copy (fn ring num : Nat) (errs : Errs)
  /-- SYNC_OP_ADD (R194). SYNC_OP descriptor of KIND ADD that adds to a sync counter. -/
  | syncOpAdd (fn ring num : Nat)
  /-- SYNC_OP_WAIT (R194). SYNC_OP descriptor of KIND WAIT that waits until a counter reaches a threshold or times out. -/
  | syncOpWait (fn ring num : Nat)
  /-- SYNC_OP_SET (R194). SYNC_OP descriptor of KIND SET that sets a counter that has no waiter and no armed trigger. -/
  | syncOpSet (fn ring num : Nat)
  /-- SYNC_OP_ARM (R196). SYNC_OP descriptor of KIND ARM that checks a trigger body and arms a trigger on a counter. -/
  | syncOpArm (fn ring num : Nat)
  /-- SYNC_OP_READ (R208). SYNC_OP descriptor of KIND READ that returns a counter's value in RESULT. -/
  | syncOpRead (fn ring num : Nat)
  /-- EP_CREATE (R245). Host descriptor that creates an endpoint with a new generation. -/
  | epCreate (fn ring num pick : Nat)
  /-- EP_DESTROY (R246). Host descriptor that stops an endpoint, aborts its work requests, and writes back and releases its state. -/
  | epDestroy (fn ring num : Nat)
  /-- EP_POST_WRITE (R251). EP_POST of OP WRITE that sends data to a remote region as WRITE packets. -/
  | epPostWrite (fn ring num : Nat) (errs : Errs)
  /-- EP_POST_READ (R251). EP_POST of OP READ that reads a remote region into LOCAL_ADDR. -/
  | epPostRead (fn ring num : Nat)
  /-- EP_POST_WRITE_IMM (R251). EP_POST of OP WRITE_IMM that writes data and then delivers an immediate. -/
  | epPostWriteImm (fn ring num : Nat) (errs : Errs)
  /-- EP_POST_FETCH_ADD (R251). EP_POST of OP FETCH_ADD that performs a remote 64-bit fetch-add. -/
  | epPostFetchAdd (fn ring num : Nat)
  /-- EP_POST_COMPARE_SWAP (R251). EP_POST of OP COMPARE_SWAP that performs a remote 64-bit compare-and-swap. -/
  | epPostCompareSwap (fn ring num : Nat)
  /-- REGION_SET (R248). EP_POST of OP 5 that sets a region table entry and returns its key. -/
  | regionSet (fn ring num : Nat)
  /-- REGION_CLEAR (R248). EP_POST of OP 6 that waits for executing requests in a region, then frees its entry. -/
  | regionClear (fn ring num : Nat)
  /-- FENCE (R119). Host FENCE descriptor that orders its ring and, with NBU set, covers the function's NBU commands. -/
  | fence (fn ring num : Nat)
  /-- NOP (R208). Host NOP descriptor that completes with no effect. -/
  | nop (fn ring num : Nat)
  /-- SQ_TAIL (R205). Doorbell write that posts submission descriptors to a ring after validity checks. -/
  | sqTail (fn ring size value : Nat)
  /-- CQ_HEAD (R205). Doorbell write that reports completion records consumed, freeing completion slots. -/
  | cqHead (fn ring size value : Nat)
  /-- DESCRIPTOR_FETCH (R206). The module fetches and accepts the next descriptor of a ring once a reservation is made and fetching is allowed. -/
  | descriptorFetch (fn ring : Nat) (readError : Bool)
  /-- HELD_RECORD_DRAIN (R215). Held completion and event records of a ring are delivered in order as slots free and the ring is enabled. -/
  | heldRecordDrain (fn ring : Nat)
  /-- RING_ENABLE (R204). Write of HI_RING_CTL.ENABLE to 1 that starts a ring with its counts restarted at 0. -/
  | ringEnable (fn ring value : Nat)
  /-- RING_DISABLE (R206). Write of HI_RING_CTL.ENABLE to 0 that stops a ring. -/
  | ringDisable (fn ring value : Nat)
  /-- RESUME (R206). W1S write to HI_RING_CTL.RESUME that resumes fetching at FETCHED after a fetch error. -/
  | resume (fn ring : Nat)
  /-- WIN_SYNC (R203). Write of 1 to HI_WIN_SYNC.SYNC that reads 1 until earlier host accesses of the function complete. -/
  | winSync (fn : Nat)
  /-- COAL_TIME_EXPIRY (R218). Expiry of a completion ring's COAL_TIME that signals its MSI-X vector. -/
  | coalTimeExpiry (fn ring : Nat)
  /-- INITIATE_FLR (R219). Function-level reset of one function that aborts its contexts, frees its spans and endpoints, and discards its completions. -/
  | initiateFlr (fn : Nat)
  /-- RESET_DONE (R219). Completion of a function-level reset, reported as a RESET_DONE event with the discard count. -/
  | resetDone (fn : Nat)
  /-- DL_DOWN (R200). The host data link goes down, taken as a host reset, and completions are held. -/
  | dlDown (hostRef : Bool)
  /-- LINK_TRAINED (R200). The host link trains again, and a ring may be enabled to receive held records. -/
  | linkTrained (rate width : Nat) (hostRef : Bool)
  /-- HOT_RESET (R343). PCIe hot reset, taken as a host reset of every function's host interface. -/
  | hotReset
  /-- D3HOT_TO_D0 (R198). A function returns from D3hot to D0, which acts as a function-level reset. -/
  | d3hotToD0 (fn : Nat)
  /-- MV_TILE (R69). Step op that runs a tile matrix-vector product over a streamed tile tensor for B activation rows. -/
  | mvTile (handle : Nat) (stepwise : Bool) (errs : Errs)
  /-- MV_BANK (R114). Step op that runs a matrix-vector product on bank-resident weights, reduced along the chains. -/
  | mvBank (handle : Nat) (wset : List (List Nat)) (errs : Errs)
  /-- BANK_CMDS (R111). Step op that issues a list of native or K6-format NBU commands. -/
  | bankCmds (handle : Nat) (errs : Errs) (fails : List (Nat × Nat))
  /-- NBU_FENCE (R119). Step op that waits for the context's earlier NBU commands and invalidates read buffers. -/
  | nbuFence (handle : Nat)
  /-- STREAM_HINT (R76). Step op that starts a stream buffer's fetch of a tile tensor ahead of use. -/
  | streamHint (handle : Nat)
  /-- TILE_COPY (R179). Step op that copies bytes between buffers on tiles. -/
  | tileCopy (handle act_ : Nat) (errs : Errs)
  /-- GATHER_ROW (R372). TILE_COPY with GATHER_ROW that copies the table row selected by a token id. -/
  | gatherRow (handle : Nat) (errs : Errs)
  /-- NORM (R73). Step op that computes an RMS or layer norm on tiles or banks. -/
  | norm (handle : Nat) (bf : Bool) (errs : Errs)
  /-- ELEMWISE_ADD (R73). ELEMWISE step op of kind ADD on tiles. -/
  | elemwiseAdd (handle : Nat) (bf bz : Bool) (errs : Errs)
  /-- ELEMWISE_MUL (R73). ELEMWISE step op of kind MUL on tiles. -/
  | elemwiseMul (handle : Nat) (bf bz : Bool) (errs : Errs)
  /-- ELEMWISE_SCALE (R73). ELEMWISE step op of kind SCALE on tiles. -/
  | elemwiseScale (handle : Nat) (bf : Bool) (errs : Errs)
  /-- SILU_GATE (R73). ELEMWISE step op of kind SILU_GATE that forms the gated activation. -/
  | siluGate (handle : Nat) (bf bz : Bool) (errs : Errs)
  /-- CONVERT (R73). ELEMWISE step op of kind CONVERT between FP32, BF16 and A8. -/
  | convert (handle : Nat) (errs : Errs)
  /-- SUM_PARTS (R71). ELEMWISE step op of kind SUM_PARTS that combines split-row parts and applies the activation scale. -/
  | sumParts (handle : Nat) (errs : Errs)
  /-- ELEMWISE_BANK_SCALE (R112). ELEMWISE_BANK step op of kind SCALE, run in place in the banks. -/
  | elemwiseBankScale (handle : Nat) (bf : Bool) (errs : Errs)
  /-- ELEMWISE_BANK_ADD (R112). ELEMWISE_BANK step op of kind ADD, run in place in the banks. -/
  | elemwiseBankAdd (handle : Nat) (bf bz : Bool) (errs : Errs)
  /-- ELEMWISE_BANK_MUL (R112). ELEMWISE_BANK step op of kind MUL, run in place in the banks. -/
  | elemwiseBankMul (handle : Nat) (bf bz : Bool) (errs : Errs)
  /-- ROUTE (R74). Step op that selects the top-k experts and their gate weights. -/
  | route (handle : Nat) (errs : Errs)
  /-- ATTN (R184). Step op that runs attention for a query group through a span binding. -/
  | attn (handle : Nat) (bf : Bool) (errs : Errs)
  /-- ATTN_MERGE (R149). Step op that merges partial records from a receive queue, checking epoch and generation. -/
  | attnMerge (handle : Nat)
  /-- SEND (R263). Step op that sends data as a memory-semantic bulk copy. -/
  | send (handle remote act_ table tgen : Nat) (errs : Errs)
  /-- BULK_COPY_LIST (R265). SEND with VAR[2] set that sends the segments of a bulk copy list. -/
  | bulkCopyList (handle : Nat) (errs : Errs)
  /-- RING (R157). Step op that runs a ring-mode attention over a sharded sequence. -/
  | ring (handle : Nat) (members : List Nat) (position : Nat) (bothWays : Bool) (span slot kvHeads dim fmt ilog : Nat) (strided : Bool) (length queries hPerKv posQ0 sQk bias window sinks segStart : Nat) (oBf16 tentative : Bool) (epoch slots slotBytes creditFwd creditBwd : Nat) (errs : Errs)
  /-- KV_APPEND (R146). Step op that quantises and appends a row to a span, optionally committing it. -/
  | kvAppend (handle : Nat) (errs : Errs)
  /-- HZN_COMMIT (R188). HZN step op of mode COMMIT applied to every span of its binding mask. -/
  | hznCommit (handle : Nat)
  /-- HZN_REWIND (R188). HZN step op of mode REWIND applied to every span of its binding mask. -/
  | hznRewind (handle : Nat)
  /-- HZN_ACCEPT (R188). HZN step op of mode ACCEPT that commits and rewinds from a verify result and sets ACCEPTED. -/
  | hznAccept (handle : Nat)
  /-- COLLECTIVE_SUM (R165). COLLECTIVE step op of kind SUM toward the group's root. -/
  | collectiveSum (handle : Nat) (errs : Errs)
  /-- ALL_SUM (R165). COLLECTIVE step op of kind ALL_SUM: a sum followed by a broadcast. -/
  | allSum (handle : Nat) (errs : Errs)
  /-- COLLECTIVE_BROADCAST (R165). COLLECTIVE step op of kind BROADCAST from the root. -/
  | collectiveBroadcast (handle : Nat) (errs : Errs)
  /-- COLLECTIVE_GATHER (R165). COLLECTIVE step op of kind GATHER to the root in member order. -/
  | collectiveGather (handle : Nat) (errs : Errs)
  /-- SYNC_ADD (R194). Step op that adds to a local or remote sync counter. -/
  | syncAdd (handle : Nat)
  /-- SYNC_WAIT (R194). Step op that holds the context WAITING until a counter reaches a threshold. -/
  | syncWait (handle : Nat)
  /-- SYNC_ARM (R196). Step op that checks a trigger body and arms a trigger. -/
  | syncArm (handle : Nat)
  /-- SYNC_SET (R194). Step op that sets a counter that has no waiter and no armed trigger. -/
  | syncSet (handle : Nat)
  /-- SAMPLE_FULL (R186). SAMPLE stage FULL that selects a token from the whole vocabulary and writes TOKEN. -/
  | sampleFull (handle : Nat) (errs : Errs)
  /-- SAMPLE_LOCAL (R186). SAMPLE stage LOCAL that writes the K best logit pairs of its slice. -/
  | sampleLocal (handle : Nat) (errs : Errs)
  /-- SAMPLE_SELECT (R186). SAMPLE stage SELECT that selects a token from gathered pairs and writes TOKEN. -/
  | sampleSelect (handle : Nat) (errs : Errs)
  /-- VERIFY (R187). Step op that checks drafts against sampled tokens and sets ACCEPTED and TOKEN. -/
  | verify (handle : Nat) (errs : Errs)
  /-- STEP_NOP (R183). Step op NOP with no effect. -/
  | stepNop (handle : Nat)
  /-- SEQUENCER_SELECT (R189). A free step sequencer selects the next READY context of its die under the scheduling policy. -/
  | sequencerSelect (die seq : Nat)
  /-- QUANTUM_EXPIRY (R190). A RUNNING context's quantum expires, and it stops issuing at its next op. -/
  | quantumExpiry (handle : Nat)
  /-- PHASE_ITERATION_END (R178). All ops of a phase iteration retire, and the context moves to the next iteration, the next phase or the step end. -/
  | phaseIterationEnd (handle : Nat)
  /-- SLOT_BOUNDARY (R191). Fabric time reaches a fixed-slot boundary, and ownership of issue passes to the next slot. -/
  | slotBoundary (time : Nat)
  /-- SLOT_GUARD (R191). The last GUARD ns of a slot begin, and no new op issues. -/
  | slotGuard (time : Nat)
  /-- UNPARK (R175). A parked context becomes resident once a hardware context and slices are free. -/
  | unpark (handle : Nat) (crcFails : Bool)
  /-- UNPARK_WAIT_EXPIRY (R175). UNPARK_WAIT expires without residency, and the CTX_STEP completes with ST_RETRY_LATER. -/
  | unparkWaitExpiry (handle time : Nat)
  /-- CONTEXT_ABORT_DONE (R176). The last item of an ABORTING context retires, and the context reaches FREE. -/
  | contextAbortDone (handle : Nat)
  /-- SYNC_WAIT_TIMEOUT (R194). A SYNC_WAIT times out, and the context returns to READY with the op failed. -/
  | syncWaitTimeout (isDesc : Bool) (a b c : Nat)
  /-- TRIGGER_FIRE (R196). An armed trigger fires when its counter meets its threshold, and its body is checked and run. -/
  | triggerFire (counter : Nat) (crcFails : Bool)
  /-- STREAM_FILL (R75). The streaming engine reads the next batt into a stream buffer once the buffer has room. -/
  | streamFill (tile buffer : Nat) (errs : Errs)
  /-- TABLE_MISS (R51). An expander table miss loads a code table into an unpinned slot, stalling the tile. -/
  | tableMiss (tile fn table generation : Nat)
  /-- EXPANDER_DECODE (R54). An expander decodes one batt in exactly 32 TCLK cycles once its fill, table and predecessor are ready. -/
  | expanderDecode (tile buffer : Nat) (errs : Errs)
  /-- TILE_SELF_CHECK (R80). A tile runs its self-check at cold start, module reset and deep-nap exit. -/
  | tileSelfCheck (tile : Nat) (pass : Bool) (time : Nat)
  /-- TILE_WIN_WRITE (R78). Write to TILE_WIN that reconfigures the window only while DRAIN and IDLE are 1. -/
  | tileWinWrite (src tile value : Nat)
  /-- TILE_STREAM_WRITE (R78). Write to TILE_STREAM that sets MAX_OUTSTANDING and T2_ALLOW. -/
  | tileStreamWrite (src tile value : Nat)
  /-- TCLK_CHANGE (R17). The tile clock switches PLLs to a new frequency, stalling tiles for at most 1 µs. -/
  | tclkChange (time : Nat)
  /-- ATTN_SLICE (R138). NBU command that computes attention partials over a bank pair's rows and merges them on the chain. -/
  | attnSlice (stack pair fn hw span slot head kvs heads operand seq : Nat) (sQk posQ posBase posStride window sinks segStart first limit : Nat) (tentative fresh : Bool) (faults : List (Nat × Nat))
  /-- NBU_KV_APPEND (R112). NBU command KV_APPEND that quantises a row slice into head records and writes whole sectors. -/
  | nbuKvAppend (stack pair fn hw span slot row operand seq : Nat) (faults : List (Nat × Nat))
  /-- MV_SLICE (R114). NBU command that multiplies weight segments by an activation slice and passes parts to the chain. -/
  | mvSlice (stack pair fn hw format rowAddr length segments rowBase operand seq : Nat) (faults : List (Nat × Nat))
  /-- NBU_ELEMWISE (R112). NBU command ELEMWISE that scales, adds or multiplies a vector in place. -/
  | nbuElemwise (stack pair fn hw format rowAddr length kind constant operand seq : Nat) (faults : List (Nat × Nat))
  /-- SUMSQ (R114). NBU command that sends a sum of squares to the chain. -/
  | sumsq (stack pair fn hw format rowAddr length count seq : Nat) (faults : List (Nat × Nat))
  /-- NORM_APPLY (R112). NBU command that applies a norm factor and gamma in place. -/
  | normApply (stack pair fn hw format rowAddr length count gamma operand seq : Nat) (faults : List (Nat × Nat))
  /-- LOCAL_COPY (R112). NBU command that copies sectors within a bank pair. -/
  | localCopy (stack pair fn hw rowAddr length destination seq : Nat) (faults : List (Nat × Nat))
  /-- FILL (R112). NBU command that fills sectors with a repeated pattern, used to scrub freed frames. -/
  | fill (stack pair fn hw rowAddr length pattern seq : Nat)
  /-- SCRUB (R125). NBU SCRUB stride of patrol scrub that writes back corrected sectors and poisons uncorrectable ones. -/
  | scrub (faults : List (Nat × Nat)) (time : Nat)
  /-- SELF_CHECK (R128). NBU self-check run at start, on deep-nap exit and once per period. -/
  | selfCheck (stack nbu : Nat) (pass : Bool) (time : Nat)
  /-- PSEUDO_CHANNEL_RETIRE (R129). A pseudo-channel reaching PC_UE_LIMIT is evacuated by migration and then retired. -/
  | pseudoChannelRetire (pc time : Nat)
  /-- REFRESH_DUE (R124). A bank pair's refresh falls due, and it is postponed, issued between strides or suspends a stride. -/
  | refreshDue (stack pair mode : Nat)
  /-- GOVERNOR_WINDOW (R127). A new 1 µs governor window opens, and held transfers are admitted oldest first within floors. -/
  | governorWindow (stack : Nat) (arrivals : List (Bool × Nat))
  /-- NBU_MODE_CHANGE (R117). Write of NBU_STACK_CTL that changes MODE only if DRAIN and IDLE read 1 before the write. -/
  | nbuModeChange (src stack value : Nat)
  /-- AGE_PERIOD (R97). An ageing period ends, and each page's age bucket advances or returns to 0. -/
  | agePeriod (time : Nat)
  /-- DEMOTE (R99). The paging engine demotes a page from the twilight list when free frames or granules fall below the watermark. -/
  | demote (fromT2 : Bool) (errs : Errs)
  /-- PROMOTE (R101). The paging engine promotes a T2 or T3 page to T1. -/
  | promote (span page : Nat) (errs : Errs)
  /-- MIGRATION_SWITCH (R100). A migration copy completes, and the entry is switched and the source freed. -/
  | migrationSwitch (span page : Nat) (lent : Option (Nat × LentIn)) (errs : Errs)
  /-- FRAME_WAIT_TIMEOUT (R102). No frame or granule frees within 100 µs, and the needing op completes with ST_RETRY_LATER. -/
  | frameWaitTimeout (byContext : Bool) (a ring num : Nat)
  /-- LENDING_SETUP (R103). The operator sets up a lending over Barnopa, and the vaults exchange the T3 key. -/
  | lendingSetup (lender : Bool) (node gib : Nat) (t1 : Bool) (fns : List Nat)
  /-- RECALL_NOTICE (R103). A recall notice arrives, and the borrower moves the named pages by preference order. -/
  | recallNotice (node : Nat) (handles : List Nat) (time : Nat)
  /-- RECALL_DEADLINE (R103). A recall notice expires, and pages still at the lender are discarded and holed. -/
  | recallDeadline (lender : Bool) (node time : Nat)
  /-- REMOTE_TIMEOUT (R145). REMOTE_TIMEOUT expires for a remote partial or a held newer record, and the op completes with ST_TIMEOUT. -/
  | remoteTimeout (what key time : Nat)
  /-- ATTN_REQ (R145). A remote partial request arrives at a lender, which decrypts, computes and returns records. -/
  | attnReq (node id : Nat) (handles : List Nat) (req : AttnReq) (errs : Errs)
  /-- PARTIAL_DATA (R145). Partial records answering an ATTN_REQ arrive at the borrower. -/
  | partialData (id status : Nat) (records : List (List (BitVec 8)))
  /-- RING_PAGE (R159). A ring page is wholly written into a receive slot and is computed on and forwarded. -/
  | ringPage (handle : Nat) (header table : List (BitVec 8)) (batts : List (List (BitVec 8) × Bool)) (time : Nat)
  /-- RING_CLOSE (R161). A ring close message arrives carrying an origin's generation. -/
  | ringClose (handle origin gen epoch time : Nat)
  /-- RING_ABORT_NOTICE (R163). A ring abort notice arrives, and the member frees its slots and completes with ST_ABORTED. -/
  | ringAbortNotice (handle : Nat)
  /-- COLL (R166). A collective contribution or broadcast arrives at a tree node and is combined or forwarded. -/
  | coll (group id kind count : Nat) (bf16 : Bool) (epoch member : Nat) (down : Bool) (elems : List (BitVec 32 × Bool)) (time : Nat)
  /-- COLL_TIMEOUT (R167). A tree node waits COLL_TIMEOUT for a contribution and sends a timeout marker both ways. -/
  | collTimeout (group id epoch time : Nat)
  /-- COLL_TIMEOUT_MARKER (R167). A collective timeout or mismatch marker arrives, and the member's op completes. -/
  | collTimeoutMarker (group id epoch source st : Nat)
  /-- DATA_FLIT (R227). A data flit arrives and is accepted in sequence or rejected, requesting replay. -/
  | dataFlit (port vc : Nat) (fill : Bool) (codewords : List (Nat × Bool)) (flit : List (BitVec 8)) (time : Nat)
  /-- IDLE (R225). An IDLE control flit arrives. -/
  | idle (port : Nat) (codewords : List (Nat × Bool)) (flit : List (BitVec 8)) (time : Nat)
  /-- REPLAY (R227). A REPLAY control flit arrives before replayed data flits. -/
  | replay (port : Nat) (codewords : List (Nat × Bool)) (flit : List (BitVec 8)) (time : Nat)
  /-- SYNC (R240). A SYNC control flit arrives, and the time servo forms an offset from its timestamps. -/
  | sync (port : Nat) (codewords : List (Nat × Bool)) (flit : List (BitVec 8)) (arrival : Nat)
  /-- HELLO (R225). A HELLO control flit arrives during training or reform with the peer's identity and credits. -/
  | hello (port : Nat) (codewords : List (Nat × Bool)) (flit : List (BitVec 8)) (time : Nat)
  /-- LINK_WORD (R226). A link word is assembled from SB bits, carrying acknowledgements, NAK and credits. -/
  | linkWord (port : Nat) (sb : List Nat) (rejected : Bool)
  /-- REPLAY_WAIT_EXPIRY (R227). REPLAY_WAIT passes without a REPLAY, and the NAK is repeated. -/
  | replayWaitExpiry (port : Nat)
  /-- SYNC_PERIOD (R225). TIME_CTL.PERIOD elapses, and a SYNC flit is sent. -/
  | syncPeriod (port time : Nat)
  /-- HELLO_REPEAT (R225). Every 1 µs during training and reform, an unanswered HELLO is repeated. -/
  | helloRepeat (port : Nat)
  /-- HOLDOVER_EXPIRY (R240). After 1 ms of holdover, IN_SPEC falls to 0. -/
  | holdoverExpiry (time : Nat)
  /-- LANE_BURST (R230). A lane error burst halts the port and starts a retrain. -/
  | laneBurst (port lane symbols : Nat) (lost : Bool) (time : Nat)
  /-- RETRAIN_DONE (R230). A lane retrain converges, and the port resumes with a replay. -/
  | retrainDone (port lane time : Nat)
  /-- REFORM_DONE (R231). A port finishes reforming at the widest usable width. -/
  | reformDone (port time : Nat)
  /-- LOSS_OF_SIGNAL (R232). Every lane of a port loses signal, and the port goes down with packets re-routed. -/
  | lossOfSignal (port time : Nat)
  /-- NO_FLIT_TIMEOUT (R232). No flit is accepted for 10 µs on an up port, and the port goes down. -/
  | noFlitTimeout (port time : Nat)
  /-- TRAINING_ATTEMPT (R232). Every 100 ms an enabled down port attempts training. -/
  | trainingAttempt (port time : Nat)
  /-- TRAINING_DONE (R221). Link training ends, bringing the port up or setting TRAIN_FAIL or MISWIRE. -/
  | trainingDone (port : Nat) (converged : Bool) (time : Nat)
  /-- FABRIC_REFERENCE_LOST (R18). The fabric reference is lost, ports go idle and the module takes a module reset. -/
  | fabricReferenceLost
  /-- WRITE (R257). A WRITE packet arrives and is checked, executed or recognised as a duplicate, and answered. -/
  | write (port vc : Nat) (header payload : List (BitVec 8)) (copy : Option CopyMsg) (errs : Errs) (time : Nat)
  /-- HANDOFF_RECORD (R318). A hand-off record WRITE arrives and moves a span between INCOMPLETE and OPEN. -/
  | handoffRecord (port vc : Nat) (header payload : List (BitVec 8)) (errs : Errs) (time : Nat)
  /-- WRITE_IMM (R253). A WRITE_IMM packet arrives, and its immediate is delivered when EXP passes it. -/
  | writeImm (port vc : Nat) (header payload : List (BitVec 8)) (errs : Errs) (time : Nat)
  /-- READ (R257). A READ packet arrives and is answered with READ_DATA. -/
  | read (port vc : Nat) (header payload : List (BitVec 8)) (errs : Errs) (time : Nat)
  /-- ATOMIC (R251). An ATOMIC packet arrives and is applied once, with duplicates answered from the result cache. -/
  | atomic (port vc : Nat) (header payload : List (BitVec 8)) (errs : Errs) (time : Nat)
  /-- ATOMIC_COMB (R268). An ATOMIC_COMB packet arrives, and the target adds once and answers each contributor. -/
  | atomicComb (port vc : Nat) (header payload : List (BitVec 8)) (errs : Errs) (time : Nat)
  /-- ABSORB (R267). An ABSORB packet arrives, and the target records the absorbed PSNs as executed. -/
  | absorb (port vc : Nat) (header payload : List (BitVec 8)) (time : Nat)
  /-- PARTIAL (R279). A PARTIAL packet arrives and is delivered to the receive queue its ADDR names. -/
  | partialPkt (port vc : Nat) (header payload : List (BitVec 8)) (time : Nat)
  /-- FLOW_RESET (R258). A CONTROL packet marked FLOW_RESET resets a hidden flow's target entry. -/
  | flowReset (port vc : Nat) (header payload : List (BitVec 8)) (time : Nat)
  /-- ACK (R257). An ACK arrives and answers a request packet. -/
  | ack (port vc : Nat) (header payload : List (BitVec 8)) (time : Nat)
  /-- READ_DATA (R254). READ_DATA arrives, and its data are written locally. -/
  | readData (port vc : Nat) (header payload : List (BitVec 8)) (time : Nat)
  /-- ATOMIC_DATA (R254). ATOMIC_DATA arrives with a fetched value. -/
  | atomicData (port vc : Nat) (header payload : List (BitVec 8)) (time : Nat)
  /-- RETRY (R261). A RETRY answer arrives, and the packet is resent after the back-off hint. -/
  | retry (port vc : Nat) (header payload : List (BitVec 8)) (time : Nat)
  /-- RETRY_BACKOFF_EXPIRY (R261). The back-off hint passes, and a RETRY-answered packet is resent. -/
  | retryBackoffExpiry (isEp : Bool) (id psn time : Nat)
  /-- NO_ROUTE (R238). A no-route response arrives, and the request completes with ST_EPOCH_STALE. -/
  | noRoute (port vc : Nat) (header payload : List (BitVec 8)) (time : Nat)
  /-- ACK_TIMEOUT (R258). ACK_TIMEOUT passes, and unanswered packets are retransmitted or the work fails at RETRY_LIMIT. -/
  | ackTimeout (isEp : Bool) (id time : Nat)
  /-- MISS_FETCH_DONE (R260). An endpoint state fetch completes, and waiting packets are handled in arrival order. -/
  | missFetchDone (isEp : Bool) (id time : Nat)
  /-- MISS_FETCH_TIMEOUT (R260). A waiting packet's state fetch exceeds 50 µs, and the packet is answered RETRY. -/
  | missFetchTimeout (isEp : Bool) (id time : Nat)
  /-- BUCKET_SEND (R281). A charged packet leaves at injection once its token bucket permits it. -/
  | bucketSend (time : Nat)
  /-- INJECTION_WINDOW (R303). A 1 µs injection-ceiling window opens, and held originated requests may leave. -/
  | injectionWindow (time : Nat)
  /-- QUEUE_APPEND (R272). A producer appends a cell to a queue once LIMIT and pool room allow. -/
  | queueAppend (queue handle : Nat) (bytes : List (BitVec 8)) (poison first last opEnd abandon : Bool) (node contrib time : Nat)
  /-- TAKE (R275). Consumer operation that moves HEAD past one complete item. -/
  | take (queue time : Nat)
  /-- MARK (R275). Consumer operation that sets MARK to HEAD. -/
  | mark (queue : Nat)
  /-- REWIND (R275). Consumer operation that sets HEAD to MARK. -/
  | rewind (queue time : Nat)
  /-- RELEASE (R275). Consumer operation that moves MARK forward and frees cells before it. -/
  | release (queue position time : Nat)
  /-- UNMARK (R275). Consumer operation that clears MARKED and frees cells before HEAD. -/
  | unmark (queue : Nat)
  /-- QM_FLUSH (R276). Write of QM_FLUSH with GO that flushes a non-fixed queue. -/
  | qmFlush (src value : Nat)
  /-- STALE_TIMEOUT (R278). A queue's stale timer fires and takes the action FORCE, FLUSH or NOTIFY. -/
  | staleTimeout (queue time : Nat)
  /-- TELEMETRY_SAMPLE (R284). Every 1.024 µs, queues are sampled and telemetry records are written. -/
  | telemetrySample (time : Nat)
  /-- QSTAT_AVG_READ (R284). Read of QSTAT_AVG that returns averages and restarts the statistics. -/
  | qstatAvgRead (src : Nat)
  /-- SHQ_CFG_WRITE (R282). Write of SHQ_CFG that reloads the token bucket per TOKEN_INIT. -/
  | shqCfgWrite (src queue value : Nat)
  /-- SWAP (R283). W1S write of SHP_GATE_CTL.SWAP that activates the inactive gate list at its next cycle start. -/
  | swap (src port value : Nat)
  /-- GATE_CYCLE_START (R283). A gate list cycle begins, applying a pending swap. -/
  | gateCycleStart (port time : Nat)
  /-- MAP_STAGE (R313). The fabric manager stages a new composition map with an epoch and APPLY_AT. -/
  | mapStage (epoch applyAt : Nat) (lost : List Nat) (groups members targets : List (Nat × Nat)) (time : Nat)
  /-- MAP_APPLY (R313). Fabric time reaches APPLY_AT, the staged map is applied and the drain window opens. -/
  | mapApply (time : Nat)
  /-- DRAIN_WINDOW_CLOSE (R313). The drain window closes, and previous-epoch requests become stale. -/
  | drainWindowClose (time : Nat)
  /-- NEWER_EPOCH_HOLD_EXPIRY (R314). A held newer-epoch request is not reached within MER_DRAIN and is answered ST_RETRY_LATER. -/
  | newerEpochHoldExpiry (time : Nat)
  /-- REBUILD (R322). Copy holders stream a lost node's spans to the rebuild target, which creates and logs them. -/
  | rebuild (holder : Bool) (node old fn : Nat) (body : List (BitVec 8)) (gen mode : Nat) (members lost : List Nat) (rows : List ((Nat × Nat) × List (Nat × List (BitVec 8)))) (scales : List (Nat × (Nat × Nat))) (span base : Nat)
  /-- ERROR_LOG_EVENT (R326). At most once per 1 ms while entries arrive, an ERROR_LOG event is raised. -/
  | errorLogEvent (fn time : Nat)
  /-- TLS_CONNECT (R290). A Barnopa TLS session is opened with mutual authentication or closed. -/
  | tlsConnect (close terms : Bool) (anchor : Nat) (certOk : Bool)
  /-- CLAIM (R291). A claim session with the claim code installs trust anchors and the alias certificate. -/
  | claim (codeOk : Bool) (anchors : List Nat) (certOk : Bool)
  /-- RELEASE_CLAIM (R291). Barnopa command that erases credentials and keys at the next cold start. -/
  | releaseClaim
  /-- CONSTELLATION_CEREMONY (R292). The membership ceremony generates, wraps and seals a constellation key on every member. -/
  | constellationCeremony (id : Nat) (members : List Nat) (rekey stepsOk : Bool)
  /-- RELEASE_TOKEN (R294). A signed release token arrives, and the vault releases a constellation. -/
  | releaseToken (id keyGen : Nat) (sigOk idOk : Bool) (blocks : List (List Nat))
  /-- RELEASE_REVOKE (R295). Barnopa command that withdraws a release at once. -/
  | releaseRevoke (id : Nat)
  /-- FIRMWARE_INSTALL (R302). A signed image is installed through Barnopa into the slot not running. -/
  | firmwareInstall (version svn : Nat) (sigOk : Bool)
  /-- COMMIT_SVN (R302). Barnopa command that blows anti-rollback fuses up to the running image's version. -/
  | commitSvn
  /-- CLEAR_RETIREMENT (R309). Barnopa command that clears retirement entries at the next module reset or cold start. -/
  | clearRetirement (kind unit_ : Nat)
  /-- WATCHDOG_EXPIRY (R304). The 1 s firmware heartbeat is missed, and firmware restarts from the verified slot. -/
  | watchdogExpiry
  /-- GET_VERSION (R288). SPDM request GET_VERSION answered by the module. -/
  | getVersion (src : Nat)
  /-- GET_CAPABILITIES (R288). SPDM request GET_CAPABILITIES answered by the module. -/
  | getCapabilities (src : Nat)
  /-- NEGOTIATE_ALGORITHMS (R288). SPDM request NEGOTIATE_ALGORITHMS answered by the module. -/
  | negotiateAlgorithms (src : Nat)
  /-- GET_DIGESTS (R288). SPDM request GET_DIGESTS answered by the module. -/
  | getDigests (src : Nat)
  /-- GET_CERTIFICATE (R288). SPDM request GET_CERTIFICATE that returns a certificate chain slot. -/
  | getCertificate (src slot : Nat)
  /-- CHALLENGE (R288). SPDM request CHALLENGE signed with the device identity key. -/
  | challenge (src slot nonce : Nat)
  /-- GET_MEASUREMENTS (R289). SPDM request GET_MEASUREMENTS that returns signed measurement blocks. -/
  | getMeasurements (src index : Nat) (signed : Bool) (nonce : Nat)
  /-- SPDM_UNSUPPORTED_REQUEST (R288). An SPDM request outside the supported set is answered with ERROR(UnsupportedRequest). -/
  | spdmUnsupportedRequest (src : Nat)
  /-- MODULE_RESET (R343). Barnopa MODULE_RESET that resets everything except the management island and storage. -/
  | moduleReset (fails : List Nat) (edgeFails : Bool)
  /-- RESET_N (R343). RESET_N held low for at least 1 µs, which causes a module reset. -/
  | resetN (lowNs : Nat) (fails : List Nat) (edgeFails : Bool)
  /-- PORT_RESET (R343). Barnopa PORT_RESET that takes one port down and retrains it. -/
  | portReset (port time : Nat)
  /-- POWER_OFF (R347). Barnopa POWER_OFF that runs the power-down sequence. -/
  | powerOff
  /-- PERST_N (R343). PERST_N low, which causes a host reset. -/
  | perstN
  /-- COLD_START (R346). Input enters range with PWR_EN high, and the power-up sequence runs to A0. -/
  | coldStart (lowNs : Nat) (leakLow : Bool) (refs : Bool × Bool × Bool) (junction : Nat) (fails : List Nat) (edgeFails : Bool)
  /-- PWR_EN_FALL (R347). PWR_EN falls, and the power-down sequence runs to Off. -/
  | pwrEnFall
  /-- INPUT_FAULT (R330). Input outside its range for 1 ms turns the main rails off in hardware. -/
  | inputFault (below40 : Bool)
  /-- LEAK_N (R340). LEAK_N held low for 10 µs takes the module to Off. -/
  | leakN (lowNs : Nat)
  /-- THERMAL_TRIP (R339). A junction at 120 °C or DRAM at 115 °C asserts THERM_TRIP_N and turns the rails off. -/
  | thermalTrip (cdMax pdMax dramMax : Nat) (afterLeak : Bool)
  /-- SOFT_THROTTLE (R339). A junction reaching 100 °C starts the soft throttle. -/
  | softThrottle (cdMax pdMax time : Nat)
  /-- SOFT_THROTTLE_STEP (R339). Each soft-throttle interval lowers or, after recovery, raises TCLK by 25 MHz. -/
  | softThrottleStep (cdMax pdMax time : Nat)
  /-- STACK_HOT (R339). A DRAM die above 105 °C scales its stack's governor allowance. -/
  | stackHot (stack temp time : Nat)
  /-- DRAM_ABOVE_85 (R123). A DRAM die above 85 °C halves the refresh interval. -/
  | dramAbove85 (stack temp time : Nat)
  /-- CEILING_EVENT (R331). A 10 µs power window above the effective ceiling drops TCLK to 0.6 GHz and stops background work. -/
  | ceilingEvent (watts cdMax pdMax time : Nat)
  /-- CEILING_RECOVERY_STEP (R331). During ceiling recovery, the stack factor is restored and TCLK rises 25 MHz per 100 µs. -/
  | ceilingRecoveryStep (watts cdMax pdMax time : Nat)
  /-- LEVEL_WINDOW (R333). A 100 ms level-mode window ends, and power status is reported and the target adjusted. -/
  | levelWindow (watts vin inlet outlet : Nat) (filling : Bool) (compacted recodedSpans : List Nat) (recodedTensors : List (Nat × Nat)) (time : Nat)
  /-- LEVEL_TCLK_STEP (R335). Level mode lowers or raises TCLK by 25 MHz every 10 ms outside its band. -/
  | levelTclkStep (watts time : Nat)
  /-- PWR_CEIL_WRITE (R332). Write of PWR_CEIL.CEIL within 800 W to the fused value. -/
  | pwrCeilWrite (src value : Nat)
  /-- LVL_SET_WRITE (R333). Write of LVL_SET that changes the set point or slew. -/
  | lvlSetWrite (src value : Nat)
  /-- NAP_ENTRY (R341). After NAP_IDLE µs of idleness with NAP_EN set, the module enters N1. -/
  | napEntry (idleUs time : Nat)
  /-- DEEP_REQ (R342). Write of PWR_CTL.DEEP_REQ, and the module enters N2 once idle. -/
  | deepReq (src value : Nat)
  /-- NAP_EXIT (R342). A descriptor, doorbell, request, trigger or management command starts the exit from N1 or N2. -/
  | napExit (time : Nat)
  /-- NAP_EXIT_DONE (R341). A nap exit completes, including self-checks from N2, and the module is in A0. -/
  | napExitDone (tiles nbus : List Nat) (time : Nat)
  /-- SMBUS_STATE_READ (R364). SMBus read command 0x01 that returns the state byte. -/
  | smbusStateRead
  /-- SMBUS_FRU_READ (R364). SMBus read command 0x02 that returns the FRU record. -/
  | smbusFruRead
  /-- SMBUS_POWER_READ (R364). SMBus read command 0x03 that returns input power. -/
  | smbusPowerRead
  /-- SMBUS_WRITE (R364). Any SMBus write, which is negative-acknowledged. -/
  | smbusWrite
  /-- LOCK_SET (R354). Write of 1 to a block's LOCK bit that locks its RWL fields. -/
  | lockSet (src addr value : Nat)
  /-- W1C_CLEAR (R355). Write of 1 to W1C bits that clears them and may raise a further MODULE event. -/
  | w1cClear (src addr size value : Nat)
  /-- RC_READ (R4). Read of an RC field that returns its value and clears it. -/
  | rcRead (src addr size : Nat)
  /-- BAD_ACCESS (R350). An access of a wrong size or alignment, or to an unimplemented offset, is discarded and counted. -/
  | badAccess (src addr size : Nat) (write : Bool) (value : Nat)
  /-- REGISTER_WRITE (R4). Write to a register field with no row of its own, applied per its access code, lock and range checks. -/
  | registerWrite (src addr size value : Nat)
  /-- RETRAIN_TIMEOUT (R231). A lane retrain attempt fails to converge within 1 ms, and after three such failures the lane is retired and the port reforms. -/
  | retrainTimeout (port lane time : Nat)
  /-- FAILURE_WINDOW_EXPIRY (R128). A failure event leaves the rolling 24-hour window, lowering FAIL_COUNT of a tile or NBU or the uncorrectable-row count of a pseudo-channel. -/
  | failureWindowExpiry (time : Nat)
  /-- DRAM_TEMPERATURE_FALL (R339). A DRAM die cools back below 85 °C or 105 °C, restoring the refresh interval or the stack governor allowance and clearing STACK_HOT. -/
  | dramTemperatureFall (stack temp time : Nat)
  /-- PERST_N_RELEASE (R362). PERST_N rises, ending the host reset, and the PCIe link starts training, held internally if released too early. -/
  | perstNRelease
  /-- THERM_TRIP_RELEASE (R362). After PWR_EN has been held low for 10 ms following a thermal trip, THERM_TRIP_N is released. -/
  | thermTripRelease (lowNs : Nat)
  /-- FABRIC_REFERENCE_RETURN (R18). The 156.25 MHz fabric reference comes into tolerance, and the management controller releases the blocks it held in reset. -/
  | fabricReferenceReturn (fails : List Nat) (edgeFails : Bool)
  /-- RECALL (R103). A lender ends a loan in part or in whole by sending a recall notice that names up to RECALL_TRANCHE pages. -/
  | recall (node : Nat) (handles : List Nat)
  /-- RECALL_ACKNOWLEDGEMENT (R103). The borrower's acknowledgement of switched recalled pages arrives at the lender, which then frees and scrubs the capacity. -/
  | recallAcknowledgement (node : Nat) (handles : List Nat) (last : Bool)
  /-- LENT_PAGE_RELEASE (R92). A borrower's release of its T3 pages arrives at the lender, which frees and scrubs them. -/
  | lentPageRelease (node : Nat) (handles : List Nat)
  /-- BORROWER_FLR_NOTICE (R301). A borrower's notice of its function's function-level reset arrives at the lender, which erases that function's lent T3 key. -/
  | borrowerFlrNotice (node fn : Nat)
  /-- RESTORE_FROM_REPLICA (R299). A module requests weight pages from a constellation peer, whose vault encrypts them under the link key for transfer and decryption. -/
  | restoreFromReplica (sending : Bool) (fn node id keyGen base : Nat) (packets : List (List (BitVec 8) × Bool × Bool))
  /-- CONSTELLATION_MEMBER_REMOVAL (R293). The operator removes a member from a constellation, which erases the constellation key from that member's vault. -/
  | constellationMemberRemoval (id : Nat)
  /-- OPERATOR_CONFIGURATION_CHANGE (R294). The operator changes the configuration held in management storage, such as publisher keys or trust anchors, so measurement block 5 changes and every release is lost. -/
  | operatorConfigurationChange (anchors : Option (List Nat)) (publishers : Option (List (Nat × Nat))) (config : Option (List (Nat × (Nat × Nat))))
  deriving DecidableEq, Repr

end Sys2Proof
end

