-- ==== Sys2Proof/Decode.lean ====
section
/-! DEFINITION. The decoder of the table's bits. No row of spec/opcode_table.json gives bits: the module is a block that takes
commands, and no word spells one. -/

namespace Sys2Proof

/-- The command a word of `nbits` bits spells by the table's bits: none, since no row has any. -/
def decodeTableWord (_nbits _w : Nat) : Option Instr := none

end Sys2Proof
end

