-- ==== Sys2Proof/Config.lean ====
section
/-! DEFINITION. The constants the spec leaves open. The opaque ones have no body: a statement about them holds for every value. -/

namespace Sys2Proof

/-- A free number for a value the spec leaves open: the n-th value taken is `Config.freeNat n`.
DESIGN CHOICE (safe): log entry 4. -/
opaque Config.freeNat : Nat → Nat

/-- A free bit, taken in the same way.
DESIGN CHOICE (safe): log entry 4. -/
opaque Config.freeBit : Nat → Bool

/-- A free byte, taken in the same way.
DESIGN CHOICE (safe): log entry 4. -/
opaque Config.freeByte : Nat → BitVec 8

/-- The code lengths that the module gives the symbols of a span's histogram when it makes the span's code table (R60): any lengths that
make a valid table; the second argument is the histogram.
DESIGN CHOICE (safe): log entry 26. -/
opaque Config.codeLens : Nat → List Nat → List Nat

/-- What the fuses of this module hold where the manual says only "Fused": 0 the serial number (Table 18-3), 1 the SHA-384 digest of
the device identity key as a 384-bit number (R287).
DESIGN CHOICE (unsafe): log entry 3. -/
opaque Config.fused : Nat → Nat

/-- What the arguments of a native ATTN_SLICE or KV_APPEND command (R111, Table 7-4) stand for: the packing is not given. The first
number selects the quantity, the others are ARG0 and ARG1.
DESIGN CHOICE (safe): log entry 39. -/
opaque Config.nbuArg : Nat → Nat → Nat → Nat

end Sys2Proof
end

