-- ==== Sys2Proof/Machine/Tab.lean ====
section
/-! DEFINITION. Sparse tables: a list of (key, value) pairs in one canonical form, keys strictly rising and no entry equal
to what an unlisted key reads as. Memory, the register store and every table of the module are held in it. -/

namespace Sys2Proof.Machine

variable {V : Type}

/-- The entry of a key, if it is listed. -/
def Tab.find? (k : Nat) : List (Nat × V) → Option V
  | [] => none
  | (k', v) :: r => if k = k' then some v else Tab.find? k r

/-- The value of a key; an unlisted key reads as `d`. -/
def Tab.get (d : V) (k : Nat) (t : List (Nat × V)) : V := (Tab.find? k t).getD d

/-- The table without a key. -/
def Tab.del (k : Nat) (t : List (Nat × V)) : List (Nat × V) := t.filter (fun p => p.1 != k)

/-- The table with a key listed at a value, in key order. -/
def Tab.ins (k : Nat) (v : V) : List (Nat × V) → List (Nat × V)
  | [] => [(k, v)]
  | (k', v') :: r =>
    if k < k' then (k, v) :: (k', v') :: r
    else if k = k' then (k, v) :: r
    else (k', v') :: Tab.ins k v r

/-- Write with a default: writing what an unlisted key reads as removes the entry. -/
def Tab.put [DecidableEq V] (d : V) (k : Nat) (v : V) (t : List (Nat × V)) : List (Nat × V) :=
  if v = d then Tab.del k t else Tab.ins k v t

/-- Change the entry of a key, if it is listed. -/
def Tab.upd (k : Nat) (f : V → V) (t : List (Nat × V)) : List (Nat × V) :=
  t.map (fun p => if p.1 = k then (p.1, f p.2) else p)

/-- The keys strictly rise. -/
def Tab.sorted (t : List (Nat × V)) : Bool :=
  match t with
  | [] => true
  | [_] => true
  | (a, _) :: (b, w) :: r => decide (a < b) && Tab.sorted ((b, w) :: r)

/-- The canonical form: keys strictly rising and no entry equal to what an unlisted key reads as. -/
def Tab.wf [DecidableEq V] (d : V) (t : List (Nat × V)) : Bool :=
  Tab.sorted t && t.all (fun p => p.2 != d)

/-- The lowest number at or above `n` that no key of a sorted table uses. -/
def Tab.freeFrom (n : Nat) : List (Nat × V) → Nat
  | [] => n
  | (k, _) :: r => if k = n then Tab.freeFrom (n + 1) r else Tab.freeFrom n r

/-- Sets of numbers, kept as strictly rising lists. -/
def NSet.has (n : Nat) (s : List Nat) : Bool := s.contains n

/-- A number added to a set. -/
def NSet.add (n : Nat) : List Nat → List Nat
  | [] => [n]
  | a :: r => if n < a then n :: a :: r else if n = a then a :: r else a :: NSet.add n r

/-- A number taken out of a set. -/
def NSet.del (n : Nat) (s : List Nat) : List Nat := s.filter (fun a => a != n)

/-- The `n` numbers from `a` on. -/
def rangeFrom (a n : Nat) : List Nat := (List.range n).map (fun i => a + i)

end Sys2Proof.Machine
end

