-- ==== Sys2Proof/Machine/Numeric.lean ====
section
/-! DEFINITION. The number formats and the arithmetic of chapter 03: S8, BF16 and FP32, the two rounding rules (R25, R26), the
scale-selection rule (R27), the quantising steps (R32), the special functions (R34), and the reduction orders of R31 and R72.
FP32 numbers are their 32 bits; every operation forms the exact result as an integer times a power of two and rounds once. -/

namespace Sys2Proof.Machine

/-- An FP32 number taken apart: a NaN, an infinity, or the exact value (−1)^s · m · 2^e. -/
inductive Fp where
  | nan
  | inf (s : Bool)
  | fin (s : Bool) (m : Nat) (e : Int)
  deriving DecidableEq, Repr

/-- The canonical quiet NaN of FP32 (R26). -/
def fNaN : W32 := 0x7FC00000#32

/-- FP32 one. -/
def fOne : W32 := 0x3F800000#32

/-- An FP32 zero of a sign. -/
def fZero (s : Bool) : W32 := if s then 0x80000000#32 else 0#32

/-- An FP32 infinity of a sign. -/
def fInf (s : Bool) : W32 := if s then 0xFF800000#32 else 0x7F800000#32

/-- The fields of an FP32 number (Table 3-1). -/
def fDec (x : W32) : Fp :=
  let n := x.toNat
  let s := bitAt n 31
  let e := bits n 30 23
  let f := bits n 22 0
  if e = 255 then (if f = 0 then .inf s else .nan)
  else if e = 0 then .fin s f (-149)
  else .fin s (f + 2 ^ 23) ((e : Int) - 150)

/-- Is the number finite? -/
def fFinite (x : W32) : Bool := bits x.toNat 30 23 != 255

/-- Is it a NaN? -/
def fIsNaN (x : W32) : Bool := bits x.toNat 30 23 == 255 && bits x.toNat 22 0 != 0

/-- Is it a zero of either sign? -/
def fIsZero (x : W32) : Bool := bits x.toNat 30 0 == 0

/-- The magnitude of a number: its sign bit cleared. -/
def fAbs (x : W32) : W32 := x &&& 0x7FFFFFFF#32

/-- The number with its sign bit changed. -/
def fNeg (x : W32) : W32 := x ^^^ 0x80000000#32

/-- Nearest-even rounding to FP32 (R26) of (−1)^s · (m + t) · 2^e, where `t` is zero, or, with `sticky`, some amount strictly
between 0 and 1. Subnormal results are kept; beyond the largest finite value the result is an infinity. -/
def fRound (s : Bool) (m : Nat) (e : Int) (sticky : Bool) : W32 :=
  if m = 0 then fZero s
  else
    let q : Int := max ((Nat.log2 m : Int) + e - 23) (-149)
    let up : Nat × Int :=
      if q ≤ e then (m * 2 ^ (e - q).toNat, q)
      else
        let k := (q - e).toNat
        let a := m / 2 ^ k
        let r := m % 2 ^ k
        let h := 2 ^ (k - 1)
        let inc := h < r || (r == h && (sticky || a % 2 == 1))
        (if inc then a + 1 else a, q)
    let (a, q) := if up.1 ≥ 2 ^ 24 then (up.1 / 2, up.2 + 1) else up
    let sgn := if s then 2 ^ 31 else 0
    if a < 2 ^ 23 then BitVec.ofNat 32 (sgn + a)
    else if q + 150 ≥ 255 then fInf s
    else BitVec.ofNat 32 (sgn + (q + 150).toNat * 2 ^ 23 + (a - 2 ^ 23))

/-- Nearest-even rounding of an integer times a power of two; `z` is the sign of a zero. -/
def fOfInt (n : Int) (e : Int) (z : Bool := false) : W32 :=
  if n = 0 then fZero z else fRound (decide (n < 0)) n.natAbs e false

/-- The signed integer of a sign and a magnitude. -/
def sgnInt (s : Bool) (m : Nat) : Int := if s then -(m : Int) else m

/-- The exact sum of two dyadic numbers, rounded once. An exact zero is +0 unless both terms are −0. -/
def fSum (s₁ : Bool) (m₁ : Nat) (e₁ : Int) (s₂ : Bool) (m₂ : Nat) (e₂ : Int) : W32 :=
  let e := min e₁ e₂
  let a := sgnInt s₁ (m₁ * 2 ^ (e₁ - e).toNat) + sgnInt s₂ (m₂ * 2 ^ (e₂ - e).toNat)
  fOfInt a e (s₁ && s₂ && m₁ == 0 && m₂ == 0)

/-- FP32 addition (R26). -/
def fAdd (x y : W32) : W32 :=
  match fDec x, fDec y with
  | .nan, _ => fNaN
  | _, .nan => fNaN
  | .inf a, .inf b => if a == b then fInf a else fNaN
  | .inf a, .fin _ _ _ => fInf a
  | .fin _ _ _, .inf b => fInf b
  | .fin s m e, .fin t n f => fSum s m e t n f

/-- FP32 multiplication (R26). -/
def fMul (x y : W32) : W32 :=
  match fDec x, fDec y with
  | .nan, _ => fNaN
  | _, .nan => fNaN
  | .inf a, .inf b => fInf (a != b)
  | .inf a, .fin t n _ => if n = 0 then fNaN else fInf (a != t)
  | .fin s m _, .inf b => if m = 0 then fNaN else fInf (s != b)
  | .fin s m e, .fin t n f => fRound (s != t) (m * n) (e + f) false

/-- FP32 subtraction. -/
def fSub (x y : W32) : W32 := if fIsNaN y then fNaN else fAdd x (fNeg y)

/-- The fused multiply-add x·y + z, computed exactly and rounded once (R26, R31). -/
def fFma (x y z : W32) : W32 :=
  match fDec x, fDec y, fDec z with
  | .nan, _, _ => fNaN
  | _, .nan, _ => fNaN
  | _, _, .nan => fNaN
  | .inf a, .inf b, .inf c => if (a != b) == c then fInf c else fNaN
  | .inf a, .inf b, .fin _ _ _ => fInf (a != b)
  | .inf a, .fin t n _, .inf c => if n = 0 then fNaN else if (a != t) == c then fInf c else fNaN
  | .inf a, .fin t n _, .fin _ _ _ => if n = 0 then fNaN else fInf (a != t)
  | .fin s m _, .inf b, .inf c => if m = 0 then fNaN else if (s != b) == c then fInf c else fNaN
  | .fin s m _, .inf b, .fin _ _ _ => if m = 0 then fNaN else fInf (s != b)
  | .fin _ _ _, .fin _ _ _, .inf c => fInf c
  | .fin s m e, .fin t n f, .fin u k g => fSum (s != t) (m * n) (e + f) u k g

/-- The correctly rounded FP32 quotient (R26): `div32` of chapter 03. -/
def fDiv (x y : W32) : W32 :=
  match fDec x, fDec y with
  | .nan, _ => fNaN
  | _, .nan => fNaN
  | .inf _, .inf _ => fNaN
  | .inf a, .fin t _ _ => fInf (a != t)
  | .fin s _ _, .inf b => fZero (s != b)
  | .fin s m e, .fin t n f =>
    if n = 0 then (if m = 0 then fNaN else fInf (s != t))
    else if m = 0 then fZero (s != t)
    else fRound (s != t) (m * 2 ^ 64 / n) (e - f - 64) (m * 2 ^ 64 % n != 0)

/-- The order of the values of two numbers that are not NaN (−0 = +0). -/
def fKey (x : W32) : Int :=
  let n := bits x.toNat 30 0
  if bitAt x.toNat 31 then -(n : Int) else n

/-- x < y on values that are not NaN. -/
def fLt (x y : W32) : Bool := fKey x < fKey y

/-- The larger of two values that are not NaN; the first when they are equal. -/
def fMax (x y : W32) : W32 := if fLt x y then y else x

/-- An integer of the module's exact sums as FP32 (R30: exact below 2^24). -/
def fNat (n : Nat) : W32 := fOfInt n 0

/-! Reciprocal, reciprocal square root and exp (R34, Table 3-7). -/

/-- The reciprocal unit: the exact 1 ÷ x rounded once. -/
def fRecip (x : W32) : W32 := fDiv fOne x

/-- The largest r below 2^k with r² ≤ n, bit by bit. -/
def isqrtGo (n : Nat) : Nat → Nat → Nat
  | 0, r => r
  | k + 1, r => let c := r + 2 ^ k; isqrtGo n k (if c * c ≤ n then c else r)

/-- The integer square root of a number below 2^(2·96). -/
def isqrt (n : Nat) : Nat := isqrtGo n 96 0

/-- The reciprocal square root unit: the exact 1 ÷ √x rounded once. -/
def fRsqrt (x : W32) : W32 :=
  match fDec x with
  | .nan => fNaN
  | .inf s => if s then fNaN else fZero false
  | .fin s m e =>
    if m = 0 then fInf s
    else if s then fNaN
    else
      let (m, e) := if e % 2 = 0 then (m, e) else (m * 2, e - 1)
      let n := 2 ^ 128 / m
      let r := isqrt n
      fRound false r (-64 - e / 2) (r * r * m != 2 ^ 128)

/-- The sum of the first terms of the exponential series at y, in units of 2^−p, each term rounded down (`up = 0`) or up
(`up = 1`); the second number is the last term. -/
def expSeries (p y up : Nat) : Nat → Nat → Nat → Nat → Nat × Nat
  | 0, _, t, a => (a, t)
  | k + 1, n, t, a =>
    let t' := (t * y / 2 ^ p + up) / (n + 1) + up
    expSeries p y up k (n + 1) t' (a + t')

/-- Squaring k times, in units of 2^−p. -/
def sqTimes (p up : Nat) : Nat → Nat → Nat
  | 0, v => v
  | k + 1, v => sqTimes p up k (v * v / 2 ^ p + up)

/-- Bounds below and above e^(m·2^e) for m·2^e at most 128, in units of 2^−p. -/
def expBounds (p m : Nat) (e : Int) : Nat × Nat :=
  let y := if 0 ≤ e then m * 2 ^ (e.toNat + p) / 2 ^ 9 else m * 2 ^ p / 2 ^ ((-e).toNat + 9)
  let lo := (expSeries p y 0 (p / 2) 0 (2 ^ p) (2 ^ p)).1
  let (h, t) := expSeries p (y + 1) 1 (p / 2) 0 (2 ^ p) (2 ^ p)
  (sqTimes p 0 9 lo, sqTimes p 1 9 (h + t))

/-- exp to nearest-even: the bounds are narrowed until both round to one number. -/
def expGo (s : Bool) (m : Nat) (e : Int) : Nat → Nat → W32
  | 0, p => fRound false (expBounds p m e).1 (-(p : Int)) true
  | k + 1, p =>
    let (lo, hi) := expBounds p m e
    let (lo, hi) := if s then (2 ^ (2 * p) / hi, 2 ^ (2 * p) / lo + 1) else (lo, hi)
    let a := fRound false lo (-(p : Int)) true
    let b := fRound false hi (-(p : Int)) false
    if a = b then a else expGo s m e k (2 * p)

/-- The exp unit (Table 3-7). Within 2^−26 of zero the result rounds to 1. -/
def fExp (x : W32) : W32 :=
  match fDec x with
  | .nan => fNaN
  | .inf s => if s then 0#32 else fInf false
  | .fin s m e =>
    if m = 0 then fOne
    else if s && fLt x 0xC2B00000#32 then 0#32
    else if !s && !fLt x 0x42B170A4#32 then fInf false
    else if fLt (fAbs x) 0x32800000#32 then fOne
    else expGo s m e 4 256

/-! BF16, S8 and the narrow integers. -/

/-- BF16 widened exactly to FP32. -/
def fOfBf16 (x : W16) : W32 := x.setWidth 32 <<< 16

/-- FP32 to BF16 by nearest-even (R26). -/
def bf16OfF (x : W32) : W16 :=
  if fIsNaN x then 0x7FC0#16
  else
    let n := x.toNat
    BitVec.ofNat 16 ((n + 2 ^ 15 - 1 + bits n 16 16) / 2 ^ 16)

/-- The value of an S8 pattern as FP32 (R24): exact, or NaN. −0 is treated as +0 (Table 3-2). -/
def s8Value (p : Byte) : W32 :=
  let n := p.toNat
  let s := bitAt n 7
  let e := bits n 6 3
  let m := bits n 2 0
  if e = 15 ∧ m = 7 then fNaN
  else if e = 0 then (if m = 0 then 0#32 else fRound s m (-9) false)
  else fRound s (8 + m) ((e : Int) - 10) false

/-- The signed value of a two's complement field of `w` bits. -/
def sInt (w n : Nat) : Int := if n % 2 ^ w < 2 ^ (w - 1) then (n % 2 ^ w : Nat) else ((n % 2 ^ w : Nat) : Int) - 2 ^ w

/-- Nearest-away rounding of a finite number to an integer (R25), exact. -/
def fRna (x : W32) : Int :=
  match fDec x with
  | .fin s m e =>
    let a := if 0 ≤ e then m * 2 ^ e.toNat else (m + 2 ^ ((-e).toNat - 1)) / 2 ^ (-e).toNat
    sgnInt s a
  | _ => 0

/-- Nearest-away then clamp (R25): the value and whether it was clamped. -/
def rnaClamp (x : W32) (qmax : Nat) : Int × Bool :=
  let n := fRna x
  if n > qmax then (qmax, true) else if n < -(qmax : Int) then (-(qmax : Int), true) else (n, false)

/-- The smallest S8 pattern from `p` on whose value is at least `t`, trying `k` patterns. -/
def s8Search (t : W32) : Nat → Nat → Nat
  | 0, p => p
  | k + 1, p => if fLt (s8Value (BitVec.ofNat 8 p)) t then s8Search t k (p + 1) else p

/-- The scale-selection rule (R27): the smallest S8 value at least `t`, and whether it was limited to 448. -/
def s8Select (t : W32) : Byte × Bool :=
  if fLt 0x43E00000#32 t then (0x7E#8, true) else (BitVec.ofNat 8 (s8Search t 0x7E 0), false)

/-- The largest magnitude among the finite numbers of a list; +0 for none (R33). -/
def fAmax (xs : List W32) : W32 :=
  xs.foldl (fun a x => if fFinite x then fMax a (fAbs x) else a) 0#32

/-- What a quantising step makes of one group or vector. `bad` marks the elements that poison their value group (R33); `sat`
counts the saturations of each element (R35), to be dropped in poisoned groups (R36). -/
structure Quantised where
  vals : List Int
  scale : W32
  code : Byte
  bad : List Bool
  sat : List Bool
  scaleSat : Bool
  deriving DecidableEq, Repr

/-- One element: its operand must be finite (R25, R33). -/
def quantElem (op : W32 → W32) (qmax : Nat) (v : W32) : Int × Bool × Bool :=
  if !fFinite v then (0, true, false)
  else
    let q := op v
    if !fFinite q then (0, true, false)
    else let (n, c) := rnaClamp q qmax; (n, false, c)

/-- quantise_a8 (R32): A8 values and the FP32 vector scale. -/
def quantiseA8 (xs : List W32) : Quantised :=
  let amax := fAmax xs
  if fIsZero amax then
    ⟨xs.map (fun _ => 0), 0#32, 0, xs.map (fun x => !fFinite x), xs.map (fun _ => false), false⟩
  else
    let r := fDiv 0x42FE0000#32 amax
    let es := xs.map (quantElem (fun v => fMul v r) 127)
    ⟨es.map (·.1), fDiv amax 0x42FE0000#32, 0, es.map (·.2.1), es.map (·.2.2), false⟩

/-- Is a page scale positive and finite? -/
def scaleGood (p : W32) : Bool := fFinite p && !bitAt p.toNat 31 && !fIsZero p

/-- quantise_kv_group (R32): 32 elements against a page scale. A page scale that is not positive and finite poisons the
group, selects no scale and counts nothing.
DEDUCED (unsafe): log entry 118. -/
def quantiseKvGroup (xs : List W32) (p : W32) (qmax : Nat) : Quantised :=
  if !scaleGood p then ⟨xs.map (fun _ => 0), 0#32, 0, xs.map (fun _ => true), xs.map (fun _ => false), false⟩
  else
    let q := fMul (fNat qmax) p
    let (c, cs) := s8Select (fDiv (fAmax xs) q)
    let s := s8Value c
    let eff := fMul s p
    if fIsZero eff then
      ⟨xs.map (fun _ => 0), s, c, xs.map (fun x => !fFinite x), xs.map (fun _ => false), cs⟩
    else
      let es := xs.map (quantElem (fun v => fDiv v eff) qmax)
      ⟨es.map (·.1), s, c, es.map (·.2.1), es.map (·.2.2), cs⟩

/-- The least exponent from `e` on, trying `k`, with 2^e · q ≥ m · 2^f. -/
def pageExp (m q : Nat) (f : Int) : Nat → Int → Int
  | 0, e => e
  | k + 1, e =>
    let lo := min e f
    if m * 2 ^ (f - lo).toNat ≤ q * 2 ^ (e - lo).toNat then e else pageExp m q f k (e + 1)

/-- page_scale (R32): the power of two that leaves 16 times headroom, held to the exponents −126 to 127. -/
def pageScale (amax : W32) (qmax : Nat) : W32 :=
  match fDec amax with
  | .fin _ m e =>
    if m = 0 then fOne
    else
      let q := qmax * 16
      let x := pageExp m q e 4 ((Nat.log2 m : Int) + e - Nat.log2 q - 1)
      fRound false 1 (max (-126) (min 127 x)) false
  | _ => fOne

/-! Dot products and reductions (R30, R31, R71, R72). -/

/-- The exact integer sum of products of two lists. -/
def intDot (w a : List Int) : Int := (List.zipWith (· * ·) w a).foldl (· + ·) 0

/-- One group of a row: its exact sum is scaled into the accumulator by one fused multiply-add (R31). -/
def dotGroup (w a : List Int) (s8 : Byte) (blk acc : W32) : W32 :=
  fFma (fOfInt (intDot w a) 0) (fMul (s8Value s8) blk) acc

/-- dot_row without its final activation scaling: groups of `g` elements in ascending order, block scale b covering the groups
256b to 256b + 255. -/
def dotGroups (g : Nat) : List Int → List Int → List Byte → List W32 → Nat → W32 → W32
  | _, _, [], _, _, acc => acc
  | w, a, s :: ss, blks, k, acc =>
    let blk := blks.getD (k / 256) 0#32
    dotGroups g (w.drop g) (a.drop g) ss blks (k + 1) (dotGroup (w.take g) (a.take g) s blk acc)

/-- The BF16 dot product: exact products, ascending element order, one rounding an element (R31). -/
def dotBf16 (w a : List W32) : W32 := (List.zip w a).foldl (fun acc p => fFma p.1 p.2 acc) 0#32

/-- Serial sum in ascending order from the first element (sum_parts of R71 without its scaling). -/
def serialSum : List W32 → W32
  | [] => 0#32
  | x :: xs => xs.foldl fAdd x

/-- The `n` lane accumulators after a list, in ascending element order (R72). -/
def laneAcc (n : Nat) (f : W32 → W32 → W32) : List W32 → Nat → List W32 → List W32
  | [], _, lanes => lanes
  | x :: xs, i, lanes => laneAcc n f xs (i + 1) (lanes.set (i % n) (f x (lanes.getD (i % n) 0#32)))

/-- Pairwise stages: lane j and lane j + w, halving w (R72). -/
def pairStages : Nat → List W32 → W32
  | 0, l => l.headD 0#32
  | k + 1, l => let w := 2 ^ k; pairStages k (List.zipWith fAdd (l.take w) (l.drop w))

/-- lane_sum (R72). -/
def laneSum (xs : List W32) : W32 :=
  pairStages 6 (laneAcc 64 (fun x acc => fAdd acc x) xs 0 (List.replicate 64 0#32))

/-- lane_sumsq (R72). -/
def laneSumsq (xs : List W32) : W32 :=
  pairStages 6 (laneAcc 64 (fun x acc => fFma x x acc) xs 0 (List.replicate 64 0#32))

/-- SiLU gate of one element (R73). -/
def siluGate (g u : W32) : W32 :=
  fMul (fMul g (fRecip (fAdd fOne (fExp (fNeg g))))) u

/-- Insertion of a scored index into a list sorted by descending score, lower index first among equals. -/
def rankIns (x : W32 × Nat) : List (W32 × Nat) → List (W32 × Nat)
  | [] => [x]
  | y :: r => if fLt y.1 x.1 || (fKey y.1 == fKey x.1 && x.2 < y.2) then x :: y :: r else y :: rankIns x r

/-- Scores with their indices, best first, ties to the lower index (R74, R186). -/
def rankAll (l : List (W32 × Nat)) : List (W32 × Nat) := l.foldr rankIns []

/-- Expert routing (R73, R74): the k best experts in rank order and their gate weights. -/
def routeTopK (logits : List W32) (k : Nat) : List Nat × List W32 :=
  let top := (rankAll (logits.zipIdx)).take k
  let mx := (top.map (·.1)).headD 0#32
  let w := top.map (fun p => fExp (fSub p.1 mx))
  let r := fRecip (w.foldl fAdd 0#32)
  (top.map (·.2), w.map (fun x => fMul x r))

end Sys2Proof.Machine
end

