-- ==== Sys2Proof/Machine/Batt.lean ====
section
/-! DEFINITION. Batt coding (chapter 04): the CRC of R44, code tables (R48 to R50), batts and their faults (R42 to R47, R53,
R55 to R57), read and written as byte lists. -/

namespace Sys2Proof.Machine

/-! Little-endian fields (R1). -/

/-- The number a list of bytes holds, least significant byte first. -/
def leNat : List Byte → Nat
  | [] => 0
  | b :: r => b.toNat + 256 * leNat r

/-- `n` as `k` bytes, least significant first. -/
def leBytes : Nat → Nat → List Byte
  | 0, _ => []
  | k + 1, n => BitVec.ofNat 8 n :: leBytes k (n / 256)

/-- The `n`-byte field at byte `o` of a structure. -/
def fieldAt (bs : List Byte) (o n : Nat) : Nat := leNat ((bs.drop o).take n)

/-- Are the `n` bytes at byte `o` all zero? -/
def zeroAt (bs : List Byte) (o n : Nat) : Bool := ((bs.drop o).take n).all (fun b => b == 0#8)

/-- Bytes with zeros after them up to `n` in all, cut at `n`. -/
def padTo (n : Nat) (bs : List Byte) : List Byte := (bs ++ List.replicate (n - bs.length) 0#8).take n

/-! CRC-16 (R44): polynomial 0x1021, initial value 0xFFFF, no reflection, no final XOR. -/

/-- One bit of the CRC. -/
def crcBit (c : Nat) : Nat := if c < 2 ^ 15 then c * 2 else Nat.xor (c * 2 % 2 ^ 16) 0x1021

/-- One byte, most significant bit first. -/
def crcByte (c : Nat) (b : Byte) : Nat :=
  crcBit (crcBit (crcBit (crcBit (crcBit (crcBit (crcBit (crcBit (Nat.xor c (b.toNat * 256)))))))))

/-- The CRC-16 of a list of bytes in ascending order. -/
def crc16 (bs : List Byte) : Nat := bs.foldl crcByte 0xFFFF

/-! Code tables. -/

/-- A code table (Table 4-4): `counts` are the numbers of codes of lengths 1 to 12, `syms` the symbols in canonical order. -/
structure CodeTable where
  id : Nat
  gen : Nat
  wide : Bool
  counts : List Nat
  syms : List Nat
  deriving DecidableEq, Repr

/-- The largest length with a non-zero count. -/
def maxLen (counts : List Nat) : Nat :=
  (counts.zipIdx).foldl (fun a p => if p.1 = 0 then a else p.2 + 1) 0

/-- The completeness sum of R50. -/
def kraftSum (counts : List Nat) : Nat :=
  (counts.zipIdx).foldl (fun a p => a + p.1 * 2 ^ (11 - p.2)) 0

/-- Are the members of a list all different? -/
def allDistinct : List Nat → Bool
  | [] => true
  | a :: r => !r.contains a && allDistinct r

/-- A 320-byte table record, if it is valid (R49, R50). -/
def parseTable (bs : List Byte) : Option CodeTable :=
  let counts := (List.range 12).map (fun l => fieldAt bs (8 + 2 * l) 2)
  let nsym := fieldAt bs 6 2
  let syms := ((bs.drop 32).take nsym).map (·.toNat)
  let width := fieldAt bs 4 1
  if bs.length = 320 ∧ crc16 (bs.take 318) = fieldAt bs 318 2 ∧ zeroAt bs 288 30 ∧ width ≤ 1 ∧
     2 ≤ nsym ∧ nsym ≤ 256 ∧ counts.foldl (· + ·) 0 = nsym ∧ maxLen counts = fieldAt bs 5 1 ∧
     allDistinct syms ∧ (width = 1 ∨ syms.all (· < 16)) ∧ kraftSum counts = 4096 ∧
     zeroAt bs (32 + nsym) (256 - nsym) then
    some ⟨fieldAt bs 0 2, fieldAt bs 2 2, width == 1, counts, syms⟩
  else none

/-- canonical_codes (R48): each symbol with its codeword and length, shortest first. -/
def canonicalGo : List Nat → Nat → List Nat → Nat → List (Nat × Nat × Nat)
  | [], _, _, _ => []
  | c :: cs, len, syms, code =>
    ((syms.take c).zipIdx.map (fun p => (p.1, code + p.2, len))) ++
      canonicalGo cs (len + 1) (syms.drop c) ((code + c) * 2)

/-- The codewords of a table. -/
def CodeTable.codes (t : CodeTable) : List (Nat × Nat × Nat) := canonicalGo t.counts 1 t.syms 0

/-- The bits of a number, most significant first. -/
def bitsMsb : Nat → Nat → List Bool
  | 0, _ => []
  | k + 1, n => bitAt n k :: bitsMsb k n

/-- The bits of bytes, most significant bit of the first byte first (R46). -/
def bitsOfBytes (bs : List Byte) : List Bool := bs.flatMap (fun b => bitsMsb 8 b.toNat)

/-- The number whose bits a list gives, most significant first. -/
def natOfBits (l : List Bool) : Nat := l.foldl (fun a b => 2 * a + bit b) 0

/-- Bytes filled from bit 7 down, the last completed with zero bits (R46). -/
def bytesOfBits : Nat → List Bool → List Byte
  | 0, _ => []
  | _ + 1, [] => []
  | k + 1, l => BitVec.ofNat 8 (natOfBits (l.take 8 ++ List.replicate (8 - (l.take 8).length) false)) :: bytesOfBits k (l.drop 8)

/-- One symbol of a canonical code: the lengths are tried in ascending order. -/
def decodeSym : List Nat → List Nat → Nat → Nat → List Bool → Option (Nat × List Bool)
  | [], _, _, _, _ => none
  | _ :: _, _, _, _, [] => none
  | c :: cs, syms, first, code, b :: r =>
    let code := 2 * code + bit b
    if code - first < c then some (syms.getD (code - first) 0, r)
    else decodeSym cs (syms.drop c) ((first + c) * 2) code r

/-- Up to `n` symbols of a substream, and the bits left. -/
def decodeSyms (t : CodeTable) : Nat → List Bool → List Nat × List Bool
  | 0, bs => ([], bs)
  | n + 1, bs =>
    match decodeSym t.counts t.syms 0 0 bs with
    | none => ([], bs)
    | some (s, r) => let (l, r') := decodeSyms t n r; (s :: l, r')

/-- The table of a width in which symbol v has a code of `lens`[v] bits: symbols in order of length, then of value (R48). -/
def tableOfLens (id gen : Nat) (wide : Bool) (lens : List Nat) : CodeTable :=
  ⟨id, gen, wide, (List.range 12).map (fun l => lens.countP (fun n => n == l + 1)),
    (List.range 12).flatMap (fun l => (lens.zipIdx.filter (fun p => p.1 == l + 1)).map (·.2))⟩

/-- Do code lengths make a valid table of a whole alphabet of `n` symbols (R50, R60)? -/
def lensOk (n : Nat) (lens : List Nat) : Bool :=
  lens.length == n && lens.all (fun l => decide (1 ≤ l) && decide (l ≤ 12)) && (lens.map (fun l => 2 ^ (12 - l))).foldl (· + ·) 0 == 4096

/-- How often each symbol of a width occurs. -/
def histogram (wide : Bool) (syms : List Nat) : List Nat := (List.range (if wide then 256 else 16)).map (fun v => syms.countP (fun x => x == v))

/-- The 320-byte record of a table (Table 4-4). -/
def tableRecord (t : CodeTable) : List Byte :=
  let b := leBytes 2 t.id ++ leBytes 2 t.gen ++ leBytes 1 (bit t.wide) ++ leBytes 1 (maxLen t.counts) ++ leBytes 2 t.syms.length ++
    padTo 24 (t.counts.flatMap (leBytes 2)) ++ padTo 256 (t.syms.map (fun v => BitVec.ofNat 8 v)) ++ List.replicate 30 0#8
  b ++ leBytes 2 (crc16 b)

/-! Batts. -/

/-- The header of a batt (Table 4-2). -/
structure BattHeader where
  raw : Bool
  wide : Bool
  final : Bool
  content : Nat
  tableId : Nat
  tableGen : Nat
  count : Nat
  units : Nat
  good : Bool
  deriving DecidableEq, Repr

/-- The header fields; `good` says that the CRC, the version and the reserved fields are right. -/
def parseHeader (bs : List Byte) : BattHeader :=
  let ty := fieldAt bs 0 1
  let cnt := fieldAt bs 6 2
  { raw := bitAt ty 0, wide := bitAt ty 1, final := bitAt ty 2, content := bits ty 4 3,
    tableId := fieldAt bs 2 2, tableGen := fieldAt bs 4 2, count := bits cnt 14 0, units := fieldAt bs 8 2,
    good := crc16 (padTo 30 bs) == fieldAt bs 30 2 && fieldAt bs 1 1 == 1 && bits ty 7 5 == 0 &&
      bits ty 4 3 != 3 && !bitAt cnt 15 && zeroAt bs 10 20 }

/-- The bytes a batt occupies: 32 + 16U raw, 160 + 16U coded (R67). -/
def BattHeader.size (h : BattHeader) : Nat := (if h.raw then 32 else 160) + 16 * h.units

/-- ⌈N × w ÷ 128⌉, the payload units of a raw batt (R47). -/
def rawUnits (wide : Bool) (n : Nat) : Nat := ceilDiv (n * (if wide then 8 else 4)) 128

/-- A fault of a batt (Table 4-5): its KIND, the substream of a decode fault, and the first affected position (R58: 16,384
when none was zeroed). -/
structure BattFault where
  kind : Nat
  sub : Nat
  first : Nat
  deriving DecidableEq, Repr

/-- Does the kind carry ST_BATT_LENGTH (Table 4-5)? -/
def BattFault.isLength (f : BattFault) : Bool := 3 ≤ f.kind

/-- What the operation expects of a batt: the width and content of its tensor, whether it is the last, and its N. -/
structure BattWant where
  wide : Bool
  content : Nat
  last : Bool
  count : Nat
  deriving DecidableEq, Repr

/-- The nth of a tensor of `total` symbols (R42): what its header must say. -/
def battWant (wide : Bool) (content total b : Nat) : BattWant :=
  let left := total - 16384 * b
  ⟨wide, content, decide (left ≤ 16384), min left 16384⟩

/-- The symbols of a payload in index order, raw (R47). -/
def rawSyms (wide : Bool) (n : Nat) (bs : List Byte) : List Nat :=
  if wide then (bs.take n).map (·.toNat)
  else (bs.flatMap (fun b => [b.toNat % 16, b.toNat / 16])).take n

/-- Substream symbol lists put back in index order, n mod 64 at a time (R42). -/
def interleave : Nat → List (List Nat) → List Nat
  | 0, _ => []
  | k + 1, ls => ls.filterMap List.head? ++ interleave k (ls.map List.tail)

/-- The symbols of substream i of a batt of n (R42). -/
def subCount (n i : Nat) : Nat := if i < n then ceilDiv (n - i) 64 else 0

/-- SS_END[i] of a coded batt (R45); SS_END[−1] is 0. -/
def ssEnd (bs : List Byte) (i : Nat) : Nat := fieldAt bs (32 + 2 * i) 2

/-- SS_END[i − 1]. -/
def ssStart (bs : List Byte) (i : Nat) : Nat := if i = 0 then 0 else ssEnd bs (i - 1)

/-- The offsets checks of Table 4-5 for a coded batt. -/
def offsetsBad (bs : List Byte) (n u : Nat) : Bool :=
  (List.range 64).any (fun i => ssEnd bs i < ssStart bs i || (subCount n i == 0 && ssEnd bs i != ssStart bs i)) ||
    16 * u < ssEnd bs 63 || 16 ≤ 16 * u - ssEnd bs 63

/-- One substream decoded: symbols, those it should have, and the bits left. -/
def subDecode (t : CodeTable) (bs : List Byte) (n i : Nat) : List Nat × Nat × List Bool :=
  let want := subCount n i
  let p := decodeSyms t want (bitsOfBytes ((bs.drop (160 + ssStart bs i)).take (ssEnd bs i - ssStart bs i)))
  (p.1, want, p.2)

/-- The fault of decoded substreams, lowest kind first, then lowest substream (R55, R57). -/
def decodeFault (subs : List (List Nat × Nat × List Bool)) (pad : Bool) : Option BattFault :=
  let ix := subs.zipIdx
  let short := ix.filter (fun p => p.1.1.length < p.1.2.1)
  let long := ix.filter (fun p => p.1.1.length = p.1.2.1 ∧ 8 ≤ p.1.2.2.length)
  let pads := ix.filter (fun p => p.1.2.2.any id)
  match short, long, pads with
  | s :: _, _, _ =>
    some ⟨6, s.2, (short.map (fun p => p.2 + 64 * p.1.1.length)).foldl min 16384⟩
  | [], l :: _, _ => some ⟨7, l.2, 16384⟩
  | [], [], p :: _ => some ⟨8, p.2, 16384⟩
  | [], [], [] => if pad then some ⟨8, 0, 16384⟩ else none

/-- A batt decoded: its symbols, zeros from the first affected position of a fault on, and the fault (R54 to R57). A batt of
a bad count supplies the positions its tensor has there.
DESIGN CHOICE (unsafe): log entry 131. -/
def decodeBatt (want : BattWant) (look : Nat → Nat → Option CodeTable) (bs : List Byte) : List Nat × Option BattFault :=
  let h := parseHeader bs
  let zeros (k : Nat) : List Nat × Option BattFault := (List.replicate want.count 0, some ⟨k, 0, 0⟩)
  let t := look h.tableId h.tableGen
  if !h.good || (h.raw && (h.tableId != 0 || h.tableGen != 0)) || h.wide != want.wide || h.content != want.content then zeros 1
  else if !h.raw && (t.map (·.wide)) != some h.wide then zeros 2
  else if h.count == 0 || 16384 < h.count || h.final != want.last || h.count != want.count then zeros 3
  else if !h.raw && decide (32 + 16 * rawUnits h.wide h.count ≤ 160 + 16 * h.units) then zeros 4
  else if h.raw then
    let need := ceilDiv (h.count * (if h.wide then 8 else 4)) 8
    if h.units != rawUnits h.wide h.count then zeros 5
    else
      let pay := padTo (16 * h.units) (bs.drop 32)
      let oddBad := !h.wide && h.count % 2 == 1 && 15 < (pay.getD (need - 1) 0#8).toNat
      let pad := !zeroAt pay need (16 * h.units - need) || oddBad
      (rawSyms h.wide h.count pay, if pad then some ⟨8, 0, 16384⟩ else none)
  else if offsetsBad bs h.count h.units then zeros 5
  else
    match t with
    | none => zeros 2
    | some t =>
      let subs := (List.range 64).map (subDecode t bs h.count)
      let f := decodeFault subs (!zeroAt bs (160 + ssEnd bs 63) (16 * h.units - ssEnd bs 63))
      let full := subs.map (fun p => p.1 ++ List.replicate (p.2.1 - p.1.length) 0)
      let syms := (interleave 256 full).take h.count
      match f with
      | some ⟨6, i, a⟩ => (syms.take a ++ List.replicate (h.count - a) 0, some ⟨6, i, a⟩)
      | f => (syms, f)

/-! The module's own encoder (R53), which emits a raw batt whenever the coded one would not be smaller. -/

/-- A header with its CRC. -/
def headerBytes (raw wide final : Bool) (content tid tgen n u : Nat) : List Byte :=
  let h := leBytes 1 (bit raw + 2 * bit wide + 4 * bit final + 8 * content) ++ leBytes 1 1 ++ leBytes 2 tid ++
    leBytes 2 tgen ++ leBytes 2 n ++ leBytes 2 u ++ List.replicate 20 0#8
  h ++ leBytes 2 (crc16 h)

/-- Symbols packed as a raw payload packs them (R47). -/
def packSyms (wide : Bool) : List Nat → List Byte
  | [] => []
  | [a] => [BitVec.ofNat 8 a]
  | a :: b :: r =>
    if wide then BitVec.ofNat 8 a :: packSyms wide (b :: r) else BitVec.ofNat 8 (a % 16 + 16 * b) :: packSyms wide r

/-- A raw batt. -/
def encodeRaw (wide final : Bool) (content : Nat) (syms : List Nat) : List Byte :=
  let u := rawUnits wide syms.length
  headerBytes true wide final content 0 0 syms.length u ++ padTo (16 * u) (packSyms wide syms)

/-- The bits of a symbol's codeword. -/
def codeBits (codes : List (Nat × Nat × Nat)) (s : Nat) : List Bool :=
  match codes.find? (fun c => c.1 == s) with
  | some (_, c, l) => bitsMsb l c
  | none => []

/-- The ith substream of the symbols, coded. -/
def subEncode (codes : List (Nat × Nat × Nat)) (syms : List Nat) (i : Nat) : List Byte :=
  let b := ((syms.zipIdx.filter (fun p => p.2 % 64 = i)).map (·.1)).flatMap (codeBits codes)
  bytesOfBits (b.length / 8 + 1) b

/-- Running sums of lengths: SS_END. -/
def runSums : Nat → List Nat → List Nat
  | _, [] => []
  | a, x :: r => (a + x) :: runSums (a + x) r

/-- A batt of symbols under a table, or raw as R53 requires. -/
def encodeBatt (t : Option CodeTable) (wide final : Bool) (content : Nat) (syms : List Nat) : List Byte :=
  let raw := encodeRaw wide final content syms
  match t with
  | none => raw
  | some t =>
    let codes := t.codes
    if !syms.all (fun s => codes.any (fun c => c.1 == s)) || t.wide != wide then raw
    else
      let subs := (List.range 64).map (subEncode codes syms)
      let ends := runSums 0 (subs.map List.length)
      let len := ends.getLastD 0
      let u := ceilDiv len 16
      if 32 + 16 * rawUnits wide syms.length ≤ 160 + 16 * u then raw
      else headerBytes false wide final content t.id t.gen syms.length u ++ ends.flatMap (leBytes 2) ++
        padTo (16 * u) subs.flatten

/-- A symbol sequence cut at 16,384 (R42), each batt encoded; `k` bounds the batts. -/
def encodeBatts (t : Option CodeTable) (wide : Bool) (content : Nat) : Nat → List Nat → List (List Byte)
  | 0, _ => []
  | _ + 1, [] => []
  | k + 1, syms =>
    encodeBatt t wide (decide (syms.length ≤ 16384)) content (syms.take 16384) :: encodeBatts t wide content k (syms.drop 16384)

/-- The batts of a symbol sequence back to back. -/
def encodeTensor (t : Option CodeTable) (wide : Bool) (content : Nat) : Nat → List Nat → List Byte
  | 0, _ => []
  | _ + 1, [] => []
  | k + 1, syms =>
    encodeBatt t wide (decide (syms.length ≤ 16384)) content (syms.take 16384) ++
      encodeTensor t wide content k (syms.drop 16384)

end Sys2Proof.Machine
end

