-- ==== Sys2Proof/Machine/Registers.lean ====
section
/-! DEFINITION. Every register field of the module: its PF0 BAR0 address, bits, access code and reset value, from the register
tables of the owning chapters and the block map of Table 18-2 (R352). Reserved fields are not listed: they read 0 and a write
to them is discarded (R8). -/

namespace Sys2Proof.Machine

/-- The access codes of Table 0-1 (R4). -/
inductive Access where
  | ro | rw | rwl | wo | w1c | w1s | rc
  deriving DecidableEq, Repr

/-- A register field. `addr` is the PF0 BAR0 byte address of its register (of entry 0, 0 of a repeated register), `lo` its
lowest bit, `wd` its width, `rst` its Reset column; a repeated register has `n1` entries `s1` bytes apart, each perhaps of
`n2` entries `s2` bytes apart; `rstep` is what the reset value rises by from one entry to the next (SYNC_FN only). -/
structure Fld where
  addr : Nat
  lo : Nat
  wd : Nat
  acc : Access
  rst : Nat
  s1 : Nat
  n1 : Nat
  s2 : Nat
  n2 : Nat
  rstep : Nat
  deriving DecidableEq, Repr

/-- A register of Table 18-2: its row there (the block, R355), address, width in bits, repetition and fields. -/
structure RegInfo where
  row : Nat
  addr : Nat
  wd : Nat
  s1 : Nat
  n1 : Nat
  s2 : Nat
  n2 : Nat
  flds : List Fld
  deriving DecidableEq, Repr

/-- A field, unrepeated unless said. -/
def fld (addr lo wd : Nat) (acc : Access) (rst : Nat) (s1 : Nat := 0) (n1 : Nat := 1) (s2 : Nat := 0) (n2 : Nat := 1)
    (rstep : Nat := 0) : Fld :=
  ⟨addr, lo, wd, acc, rst, s1, n1, s2, n2, rstep⟩


/-! Block 0 of Table 18-2: ID and capability. -/

def R.ID_PART.PART : Fld := fld 0x0 0 16 .ro 0x4b38
def R.ID_PART.STEPPING : Fld := fld 0x0 16 8 .ro 1
def R.ID_PART.BOARD : Fld := fld 0x0 24 8 .ro 1
def R.ID_SERIAL.SERIAL : Fld := fld 0x8 0 64 .ro 0
def R.ID_FW.VERSION : Fld := fld 0x10 0 16 .ro 0
def R.ID_FW.SLOT : Fld := fld 0x10 16 1 .ro 0
def R.CAP_COMPUTE.TILES : Fld := fld 0x20 0 9 .ro 0x100
def R.CAP_COMPUTE.NBUS : Fld := fld 0x20 9 14 .ro 0x2000
def R.CAP_COMPUTE.STACKS : Fld := fld 0x20 23 5 .ro 0x10
def R.CAP_MEM.T1_GIB : Fld := fld 0x28 0 16 .ro 0x400
def R.CAP_MEM.T2_GIB : Fld := fld 0x28 16 16 .ro 0x900
def R.CAP_FABRIC.PORTS : Fld := fld 0x30 0 5 .ro 0x10
def R.CAP_FABRIC.LANES : Fld := fld 0x30 5 7 .ro 0x40
def R.CAP_FABRIC.TOPOLOGIES : Fld := fld 0x30 12 3 .ro 7
def R.CAP_FABRIC.EP_RESIDENT : Fld := fld 0x30 15 15 .ro 0x4000
def R.CAP_HOST.FUNCTIONS : Fld := fld 0x38 0 7 .ro 0x40
def R.CAP_HOST.MSIX : Fld := fld 0x38 7 12 .ro 0x800
def R.CAP_HOST.CTX_HW : Fld := fld 0x38 19 13 .ro 0x1000
def R.CAP_HOST.CTX_PARKED : Fld := fld 0x38 32 19 .ro 0x40000
def R.ID_LOCK_DISC.COUNT : Fld := fld 0x40 0 32 .rc 0
def R.ID_LOCK_ADDR.OFFSET : Fld := fld 0x44 0 26 .ro 0
def R.ID_LOCK_ADDR.SOURCE : Fld := fld 0x44 26 1 .ro 0
def R.ID_BAD_ACCESS.COUNT : Fld := fld 0x48 0 32 .rc 0
def R.ALERT_STAT.BLOCKS : Fld := fld 0x100 0 18 .ro 0
def R.ALERT_MASK.HOST : Fld := fld 0x108 0 18 .rw 0x3ffff
def R.ALERT_MGMT.MGMT : Fld := fld 0x110 0 18 .ro 0x3ffff

/-! Block 1 of Table 18-2: Reset and power. -/

def R.PWR_CTL.NAP_EN : Fld := fld 0x10000 0 1 .rw 0
def R.PWR_CTL.DEEP_REQ : Fld := fld 0x10000 1 1 .rw 0
def R.PWR_CTL.NAP_IDLE : Fld := fld 0x10000 2 16 .rw 0x3e8
def R.PWR_STAT.STATE : Fld := fld 0x10004 0 2 .ro 0
def R.PWR_STAT.EXITING : Fld := fld 0x10004 2 1 .ro 0
def R.PWR_STAT.RESET_CAUSE : Fld := fld 0x10004 8 4 .ro 0
def R.PWR_NAP_CNT.COUNT : Fld := fld 0x10008 0 32 .rc 0
def R.PWR_DEEP_CNT.COUNT : Fld := fld 0x1000c 0 32 .rc 0

/-! Block 2 of Table 18-2: Clock. -/

def R.CLK_STAT.TCLK : Fld := fld 0x20000 0 5 .ro 0x10
def R.CLK_STAT.CHANGING : Fld := fld 0x20000 5 1 .ro 0
def R.CLK_STAT.FABRIC_REF : Fld := fld 0x20000 6 1 .ro 0
def R.CLK_STAT.HOST_REF : Fld := fld 0x20000 7 1 .ro 0
def R.CLK_STAT.PLL_LOCK : Fld := fld 0x20000 8 8 .ro 0

/-! Block 3 of Table 18-2: Tiles. -/

def R.TILE_CTL.LOCK : Fld := fld 0x100000 0 1 .w1s 0 (s1 := 4096) (n1 := 256)
def R.TILE_CTL.DRAIN : Fld := fld 0x100000 1 1 .rw 0 (s1 := 4096) (n1 := 256)
def R.TILE_CTL.IDLE : Fld := fld 0x100000 2 1 .ro 1 (s1 := 4096) (n1 := 256)
def R.TILE_WIN.WIN_SIZE : Fld := fld 0x100004 0 5 .rwl 0x10 (s1 := 4096) (n1 := 256)
def R.TILE_WIN.WIN_BUFS : Fld := fld 0x100004 5 2 .rwl 1 (s1 := 4096) (n1 := 256)
def R.TILE_STREAM.MAX_OUTSTANDING : Fld := fld 0x100008 0 4 .rwl 0xc (s1 := 4096) (n1 := 256)
def R.TILE_STREAM.T2_ALLOW : Fld := fld 0x100008 4 1 .rwl 1 (s1 := 4096) (n1 := 256)
def R.TILE_STAT.IN_SERVICE : Fld := fld 0x100010 0 1 .ro 1 (s1 := 4096) (n1 := 256)
def R.TILE_STAT.RETIRED : Fld := fld 0x100010 1 1 .ro 0 (s1 := 4096) (n1 := 256)
def R.TILE_STAT.FAIL_COUNT : Fld := fld 0x100010 2 2 .ro 0 (s1 := 4096) (n1 := 256)
def R.TILE_STAT.CONTEXT : Fld := fld 0x100010 4 12 .ro 0 (s1 := 4096) (n1 := 256)
def R.TILE_ECC_CNT.CORRECTED : Fld := fld 0x100018 0 16 .rc 0 (s1 := 4096) (n1 := 256)
def R.TILE_ECC_CNT.UNCORRECTED : Fld := fld 0x100018 16 16 .rc 0 (s1 := 4096) (n1 := 256)
def R.TILE_ECC_ADDR.OFFSET : Fld := fld 0x10001c 0 23 .ro 0 (s1 := 4096) (n1 := 256)
def R.TILE_ECC_ADDR.VALID : Fld := fld 0x10001c 23 1 .w1c 0 (s1 := 4096) (n1 := 256)
def R.TILE_STREAM_CNT.HINTS : Fld := fld 0x100020 0 24 .ro 0 (s1 := 4096) (n1 := 256)
def R.TILE_STREAM_CNT.DEMAND : Fld := fld 0x100020 24 24 .ro 0 (s1 := 4096) (n1 := 256)
def R.TILE_STREAM_CNT.HINT_DISCARD : Fld := fld 0x100020 48 16 .ro 0 (s1 := 4096) (n1 := 256)
def R.TILE_STALL_CNT.WINDOW : Fld := fld 0x100028 0 32 .ro 0 (s1 := 4096) (n1 := 256)
def R.TILE_STALL_CNT.TABLE : Fld := fld 0x100028 32 32 .ro 0 (s1 := 4096) (n1 := 256)
def R.TILE_ERR.CFG_REJECT : Fld := fld 0x100030 0 1 .w1c 0 (s1 := 4096) (n1 := 256)
def R.TILE_ERR.FAULT : Fld := fld 0x100030 1 1 .w1c 0 (s1 := 4096) (n1 := 256)
def R.EXP_STAT.SLOT_VALID : Fld := fld 0x100800 0 16 .ro 0 (s1 := 4096) (n1 := 256)
def R.EXP_STAT.IN_FLIGHT : Fld := fld 0x100800 16 2 .ro 0 (s1 := 4096) (n1 := 256)
def R.EXP_BATT_CNT.BATTS : Fld := fld 0x100808 0 40 .ro 0 (s1 := 4096) (n1 := 256)
def R.EXP_BATT_CNT.RAW : Fld := fld 0x100808 40 24 .ro 0 (s1 := 4096) (n1 := 256)
def R.EXP_FAULT_CNT.FAULTS : Fld := fld 0x100810 0 16 .rc 0 (s1 := 4096) (n1 := 256)
def R.EXP_FAULT_CNT.MISSES : Fld := fld 0x100810 16 16 .rc 0 (s1 := 4096) (n1 := 256)
def R.EXP_MM_STAT.VALID : Fld := fld 0x100820 0 1 .w1c 0 (s1 := 4096) (n1 := 256)
def R.EXP_MM_STAT.OVERRUN : Fld := fld 0x100820 1 1 .w1c 0 (s1 := 4096) (n1 := 256)
def R.EXP_MM_STAT.KIND : Fld := fld 0x100820 2 4 .ro 0 (s1 := 4096) (n1 := 256)
def R.EXP_MM_STAT.SUBSTREAM : Fld := fld 0x100820 6 6 .ro 0 (s1 := 4096) (n1 := 256)
def R.EXP_MM_STAT.FUNCTION : Fld := fld 0x100820 12 6 .ro 0 (s1 := 4096) (n1 := 256)
def R.EXP_MM_STAT.CONTEXT : Fld := fld 0x100820 18 12 .ro 0 (s1 := 4096) (n1 := 256)
def R.EXP_MM_TENSOR.TENSOR : Fld := fld 0x100824 0 32 .ro 0 (s1 := 4096) (n1 := 256)
def R.EXP_MM_BATT.BATT : Fld := fld 0x100828 0 32 .ro 0 (s1 := 4096) (n1 := 256)
def R.EXP_MM_POS.FIRST_ZERO : Fld := fld 0x10082c 0 15 .ro 0 (s1 := 4096) (n1 := 256)

/-! Block 5 of Table 18-2: NBU. -/

def R.NBU_STACK_CTL.LOCK : Fld := fld 0x300000 0 1 .w1s 0 (s1 := 256) (n1 := 16)
def R.NBU_STACK_CTL.MODE : Fld := fld 0x300000 1 1 .rwl 0 (s1 := 256) (n1 := 16)
def R.NBU_STACK_CTL.DRAIN : Fld := fld 0x300000 2 1 .rw 0 (s1 := 256) (n1 := 16)
def R.NBU_STACK_CTL.IDLE : Fld := fld 0x300000 3 1 .ro 1 (s1 := 256) (n1 := 16)
def R.NBU_GOV_BUDGET.ALLOWANCE : Fld := fld 0x300004 0 22 .rwl 0x3d0900 (s1 := 256) (n1 := 16)
def R.NBU_GOV_FLOOR.EXT_FLOOR : Fld := fld 0x300008 0 7 .rwl 4 (s1 := 256) (n1 := 16)
def R.NBU_GOV_FLOOR.INT_FLOOR : Fld := fld 0x300008 8 7 .rwl 4 (s1 := 256) (n1 := 16)
def R.NBU_REF_CTL.POSTPONE_MAX : Fld := fld 0x30000c 0 3 .rwl 4 (s1 := 256) (n1 := 16)
def R.NBU_GOV_STAT.HELD_WINDOWS : Fld := fld 0x300010 0 32 .rc 0 (s1 := 256) (n1 := 16)
def R.NBU_GOV_LAST.EXT_SECTORS : Fld := fld 0x300018 0 17 .ro 0 (s1 := 256) (n1 := 16)
def R.NBU_GOV_LAST.INT_SECTORS : Fld := fld 0x300018 32 19 .ro 0 (s1 := 256) (n1 := 16)
def R.NBU_ERR_CNT.CORRECTED : Fld := fld 0x300020 0 16 .rc 0 (s1 := 256) (n1 := 16)
def R.NBU_ERR_CNT.UNCORRECTED : Fld := fld 0x300020 16 16 .rc 0 (s1 := 256) (n1 := 16)
def R.NBU_ERR.CFG_REJECT : Fld := fld 0x300024 0 1 .w1c 0 (s1 := 256) (n1 := 16)
def R.NBU_ERR.RETIRE_EVENT : Fld := fld 0x300024 1 1 .w1c 0 (s1 := 256) (n1 := 16)
def R.NBU_ERR_CAP.VALID : Fld := fld 0x300028 0 1 .w1c 0 (s1 := 256) (n1 := 16)
def R.NBU_ERR_CAP.OVERRUN : Fld := fld 0x300028 1 1 .w1c 0 (s1 := 256) (n1 := 16)
def R.NBU_ERR_CAP.BANK_PAIR : Fld := fld 0x300028 2 9 .ro 0 (s1 := 256) (n1 := 16)
def R.NBU_ERR_CAP.BANK : Fld := fld 0x300028 11 1 .ro 0 (s1 := 256) (n1 := 16)
def R.NBU_ERR_CAP.ROW : Fld := fld 0x300028 12 15 .ro 0 (s1 := 256) (n1 := 16)
def R.NBU_ERR_CAP.OPCODE : Fld := fld 0x300028 27 8 .ro 0 (s1 := 256) (n1 := 16)
def R.NBU_ERR_CAP.FUNCTION : Fld := fld 0x300028 35 6 .ro 0 (s1 := 256) (n1 := 16)
def R.NBU_ERR_CAP.CONTEXT : Fld := fld 0x300028 41 12 .ro 0 (s1 := 256) (n1 := 16)
def R.NBU_ERR_CAP.MODULE : Fld := fld 0x300028 53 1 .ro 0 (s1 := 256) (n1 := 16)
def R.NBU_SEQ_CAP.SEQ : Fld := fld 0x300030 0 16 .ro 0 (s1 := 256) (n1 := 16)
def R.NBU_PC_STAT.PC_RETIRED : Fld := fld 0x300034 0 32 .ro 0 (s1 := 256) (n1 := 16)
def R.NBU_RETIRED.NBU_MAP : Fld := fld 0x300040 0 32 .ro 0 (s1 := 256) (n1 := 16) (s2 := 4) (n2 := 16)
def R.NBU_SCRUB.PERIOD : Fld := fld 0x301000 0 8 .rwl 0x18
def R.NBU_SELFCHECK.PERIOD : Fld := fld 0x301004 0 11 .rwl 0x3c
def R.NBU_SELFCHECK.FAIL_LIMIT : Fld := fld 0x301004 11 2 .rwl 3
def R.NBU_SELFCHECK.PC_UE_LIMIT : Fld := fld 0x301004 13 4 .rwl 4
def R.NBU_SEL.STACK : Fld := fld 0x301010 0 4 .rw 0
def R.NBU_SEL.NBU : Fld := fld 0x301010 4 9 .rw 0
def R.NBU_INFO.FAIL_COUNT : Fld := fld 0x301018 0 2 .ro 0
def R.NBU_INFO.RETIRED : Fld := fld 0x301018 2 1 .ro 0
def R.NBU_INFO.RETRIES : Fld := fld 0x301018 16 16 .ro 0
def R.NBU_INFO.SUSPENSIONS : Fld := fld 0x301018 32 32 .ro 0

/-! Block 7 of Table 18-2: Paging and KV, attention, ring. -/

def R.PAGE_CTL.LOCK : Fld := fld 0x500000 0 1 .w1s 0
def R.PAGE_CTL.MIG_ENABLE : Fld := fld 0x500000 1 1 .rwl 1
def R.PAGE_CTL.SCRUB_BUSY : Fld := fld 0x500000 2 1 .ro 0
def R.PAGE_AGE.AGE_PERIOD : Fld := fld 0x500004 0 16 .rwl 0x3e8
def R.PAGE_AGE.DEMOTE_MIN_AGE : Fld := fld 0x500004 16 3 .rwl 2
def R.PAGE_LOWATER.FRAMES : Fld := fld 0x500008 0 25 .rwl 0x40000
def R.PAGE_HIWATER.FRAMES : Fld := fld 0x50000c 0 25 .rwl 0x80000
def R.PAGE_T2_WATER.LOW : Fld := fld 0x500010 0 30 .rwl 0x1000000
def R.PAGE_T2_WATER.HIGH : Fld := fld 0x500010 32 30 .rwl 0x2000000
def R.PAGE_STAT.T1_FREE : Fld := fld 0x500018 0 25 .ro 0
def R.PAGE_STAT.T2_FREE : Fld := fld 0x500018 32 30 .ro 0
def R.PAGE_SYS.SYS_PAGES : Fld := fld 0x500020 0 25 .ro 0
def R.PAGE_DEMOTE_CNT.COUNT : Fld := fld 0x500028 0 32 .rc 0
def R.PAGE_PROMOTE_CNT.COUNT : Fld := fld 0x50002c 0 32 .rc 0
def R.PAGE_MIG_ABORT_CNT.COUNT : Fld := fld 0x500030 0 32 .rc 0
def R.PAGE_DISPLACE_CNT.COUNT : Fld := fld 0x500034 0 32 .rc 0
def R.PAGE_FALLBACK_CNT.COUNT : Fld := fld 0x500038 0 32 .rc 0
def R.PAGE_ERR.CFG_REJECT : Fld := fld 0x50003c 0 1 .w1c 0
def R.PAGE_ERR.PTE_CRC : Fld := fld 0x50003c 1 1 .w1c 0
def R.PAGE_T3_STAT.BORROWED : Fld := fld 0x500040 0 24 .ro 0
def R.PAGE_T3_STAT.LENT : Fld := fld 0x500040 24 24 .ro 0
def R.PAGE_T3_STAT.OFFERED : Fld := fld 0x500040 48 16 .ro 0
def R.PAGE_RECALL.RECALL_TRANCHE : Fld := fld 0x500048 0 24 .ro 0x10000
def R.ATTN_CTL.REMOTE_TIMEOUT : Fld := fld 0x500800 0 16 .rwl 0x7d0
def R.ATTN_STALE_CNT.COUNT : Fld := fld 0x500804 0 32 .rc 0
def R.ATTN_EPOCH_CNT.COUNT : Fld := fld 0x500808 0 32 .rc 0
def R.ATTN_BAD_CNT.COUNT : Fld := fld 0x50080c 0 32 .rc 0
def R.ATTN_REMOTE_REQ_CNT.COUNT : Fld := fld 0x500810 0 32 .rc 0
def R.ATTN_REMOTE_SRV_CNT.COUNT : Fld := fld 0x500814 0 32 .rc 0
def R.ATTN_REDISPATCH_CNT.COUNT : Fld := fld 0x500818 0 32 .rc 0
def R.RING_CNT.COUNT : Fld := fld 0x500820 0 32 .rc 0
def R.RING_STALE_CNT.COUNT : Fld := fld 0x500824 0 32 .rc 0
def R.RING_EPOCH_CNT.COUNT : Fld := fld 0x500828 0 32 .rc 0
def R.RING_PAGE_CNT.COUNT : Fld := fld 0x50082c 0 32 .rc 0
def R.FN_T1_PAGES : Fld := fld 0x501000 0 25 .ro 0 (s1 := 64) (n1 := 64)
def R.FN_T2_GRANULES : Fld := fld 0x501004 0 30 .ro 0 (s1 := 64) (n1 := 64)
def R.FN_T3_PAGES : Fld := fld 0x501008 0 32 .ro 0 (s1 := 64) (n1 := 64)
def R.FN_PIN_PAGES : Fld := fld 0x50100c 0 25 .ro 0 (s1 := 64) (n1 := 64)
def R.FN_T1_CEIL : Fld := fld 0x501010 0 25 .rwl 0x1000000 (s1 := 64) (n1 := 64)
def R.FN_T1_RESERVE : Fld := fld 0x501014 0 25 .rwl 0 (s1 := 64) (n1 := 64)
def R.FN_T2_CEIL : Fld := fld 0x501018 0 30 .rwl 0x24000000 (s1 := 64) (n1 := 64)
def R.FN_T2_RESERVE : Fld := fld 0x50101c 0 30 .rwl 0 (s1 := 64) (n1 := 64)
def R.FN_T3_CEIL : Fld := fld 0x501020 0 32 .rwl 0xffffffff (s1 := 64) (n1 := 64)
def R.FN_PIN_BUDGET : Fld := fld 0x501024 0 25 .rwl 0 (s1 := 64) (n1 := 64)
def R.FN_DEMOTE_CNT : Fld := fld 0x501028 0 32 .rc 0 (s1 := 64) (n1 := 64)
def R.FN_DISPLACE_CNT : Fld := fld 0x50102c 0 32 .rc 0 (s1 := 64) (n1 := 64)

/-! Block 8 of Table 18-2: Context and scheduler. -/

def R.SCHED_CTL.LOCK : Fld := fld 0x600000 0 1 .w1s 0
def R.SCHED_CTL.POLICY : Fld := fld 0x600000 1 1 .rwl 0
def R.SCHED_CTL.QUANTUM : Fld := fld 0x600000 2 8 .rwl 0x32
def R.SCHED_CTL.SLOT_COUNT : Fld := fld 0x600000 10 7 .rwl 0
def R.SCHED_GUARD.GUARD : Fld := fld 0x600004 0 16 .rwl 0x1388
def R.SCHED_GUARD.UNPARK_WAIT : Fld := fld 0x600004 16 16 .rwl 0x64
def R.SCHED_STAT.RESIDENT : Fld := fld 0x600008 0 13 .ro 0
def R.SCHED_STAT.READY : Fld := fld 0x600008 13 13 .ro 0
def R.SCHED_STAT.RUNNING : Fld := fld 0x600008 26 7 .ro 0
def R.SCHED_STAT.PARKED : Fld := fld 0x600008 33 19 .ro 0
def R.SCHED_SWITCH_CNT.COUNT : Fld := fld 0x600010 0 32 .rc 0
def R.SCHED_QUANTUM_CNT.COUNT : Fld := fld 0x600014 0 32 .rc 0
def R.SCHED_PARK_CNT.COUNT : Fld := fld 0x600018 0 32 .rc 0
def R.SCHED_UNPARK_CNT.COUNT : Fld := fld 0x60001c 0 32 .rc 0
def R.SCHED_OVERRUN_CNT.COUNT : Fld := fld 0x600020 0 32 .rc 0
def R.SCHED_ERR.CFG_REJECT : Fld := fld 0x600024 0 1 .w1c 0
def R.SCHED_SLOT.LEN : Fld := fld 0x600100 0 16 .rwl 0 (s1 := 8) (n1 := 64)
def R.SCHED_SLOT.FUNCTION : Fld := fld 0x600100 16 6 .rwl 0 (s1 := 8) (n1 := 64)
def R.SCHED_SLOT.YIELD : Fld := fld 0x600100 22 1 .rwl 0 (s1 := 8) (n1 := 64)
def R.SCHED_SLOT.CTX_VALID : Fld := fld 0x600100 23 1 .rwl 0 (s1 := 8) (n1 := 64)
def R.SCHED_SLOT.CONTEXT : Fld := fld 0x600100 24 19 .rwl 0 (s1 := 8) (n1 := 64)
def R.FN_CTX_HW : Fld := fld 0x601000 0 13 .ro 0 (s1 := 32) (n1 := 64)
def R.FN_CTX_PARKED : Fld := fld 0x601004 0 19 .ro 0 (s1 := 32) (n1 := 64)
def R.FN_CTX_HW_CEIL : Fld := fld 0x601008 0 13 .rwl 0x40 (s1 := 32) (n1 := 64)
def R.FN_CTX_PARK_CEIL : Fld := fld 0x60100c 0 19 .rwl 0x1000 (s1 := 32) (n1 := 64)
def R.FN_SCHED.WEIGHT : Fld := fld 0x601010 0 8 .rwl 1 (s1 := 32) (n1 := 64)
def R.FN_SAT_CNT : Fld := fld 0x601014 0 32 .rc 0 (s1 := 32) (n1 := 64)
def R.FN_TRIG_CEIL : Fld := fld 0x601018 0 17 .rwl 0x400 (s1 := 32) (n1 := 64)

/-! Block 9 of Table 18-2: Host interface. -/

def R.HI_CTL.LOCK : Fld := fld 0x700000 0 1 .w1s 0
def R.HI_CTL.VF_VECTORS : Fld := fld 0x700000 1 5 .rwl 0x10
def R.HI_STAT.LINK_UP : Fld := fld 0x700004 0 1 .ro 0
def R.HI_STAT.RATE : Fld := fld 0x700004 1 3 .ro 0
def R.HI_STAT.WIDTH : Fld := fld 0x700004 4 5 .ro 0
def R.HI_STAT.NUM_VFS : Fld := fld 0x700004 9 6 .ro 0
def R.HI_OVF_STAT.HELD : Fld := fld 0x700008 0 21 .ro 0
def R.HI_OVF_STAT.RESERVED : Fld := fld 0x700008 21 21 .ro 0
def R.HI_ERR.CFG_REJECT : Fld := fld 0x700010 0 1 .w1c 0
def R.HI_SQ_BASE.SQ_LOG2 : Fld := fld 0x780000 0 5 .rw 4 (s1 := 8192) (n1 := 64) (s2 := 64) (n2 := 64)
def R.HI_SQ_BASE.ADDR : Fld := fld 0x780000 12 52 .rw 0 (s1 := 8192) (n1 := 64) (s2 := 64) (n2 := 64)
def R.HI_CQ_BASE.CQ_LOG2 : Fld := fld 0x780008 0 5 .rw 4 (s1 := 8192) (n1 := 64) (s2 := 64) (n2 := 64)
def R.HI_CQ_BASE.ADDR : Fld := fld 0x780008 12 52 .rw 0 (s1 := 8192) (n1 := 64) (s2 := 64) (n2 := 64)
def R.HI_RING_CTL.ENABLE : Fld := fld 0x780010 0 1 .rw 0 (s1 := 8192) (n1 := 64) (s2 := 64) (n2 := 64)
def R.HI_RING_CTL.VECTOR : Fld := fld 0x780010 1 11 .rw 0 (s1 := 8192) (n1 := 64) (s2 := 64) (n2 := 64)
def R.HI_RING_CTL.COAL_COUNT : Fld := fld 0x780010 12 8 .rw 0 (s1 := 8192) (n1 := 64) (s2 := 64) (n2 := 64)
def R.HI_RING_CTL.COAL_TIME : Fld := fld 0x780010 20 10 .rw 0 (s1 := 8192) (n1 := 64) (s2 := 64) (n2 := 64)
def R.HI_RING_CTL.RESUME : Fld := fld 0x780010 30 1 .w1s 0 (s1 := 8192) (n1 := 64) (s2 := 64) (n2 := 64)
def R.HI_RING_STAT.FETCHED : Fld := fld 0x780018 0 32 .ro 0 (s1 := 8192) (n1 := 64) (s2 := 64) (n2 := 64)
def R.HI_RING_STAT.IDLE : Fld := fld 0x780018 32 1 .ro 1 (s1 := 8192) (n1 := 64) (s2 := 64) (n2 := 64)
def R.HI_RING_STAT.FETCH_ERR : Fld := fld 0x780018 33 1 .w1c 0 (s1 := 8192) (n1 := 64) (s2 := 64) (n2 := 64)
def R.HI_RING_STAT.DB_REJECT : Fld := fld 0x780018 34 1 .w1c 0 (s1 := 8192) (n1 := 64) (s2 := 64) (n2 := 64)
def R.HI_RING_CQ.PRODUCED : Fld := fld 0x780020 0 32 .ro 0 (s1 := 8192) (n1 := 64) (s2 := 64) (n2 := 64)
def R.HI_RING_CQ.HELD : Fld := fld 0x780020 32 21 .ro 0 (s1 := 8192) (n1 := 64) (s2 := 64) (n2 := 64)
def R.HI_FN_LIMIT.RINGS_MAX : Fld := fld 0x781000 0 7 .rwl 0x40 (s1 := 8192) (n1 := 64)
def R.HI_FN_LIMIT.OVF_QUOTA : Fld := fld 0x781000 7 21 .rwl 0x4000 (s1 := 8192) (n1 := 64)
def R.HI_FN_EVT.EVT_RING : Fld := fld 0x781008 0 6 .rw 0 (s1 := 8192) (n1 := 64)
def R.HI_FN_EVT.EVT_ENABLE : Fld := fld 0x781008 6 1 .rw 0 (s1 := 8192) (n1 := 64)
def R.HI_FN_STAT.RESERVED : Fld := fld 0x781010 0 21 .ro 0 (s1 := 8192) (n1 := 64)
def R.HI_FN_STAT.HELD : Fld := fld 0x781010 21 21 .ro 0 (s1 := 8192) (n1 := 64)
def R.HI_FN_STAT.EVT_LOST : Fld := fld 0x781010 42 1 .w1c 0 (s1 := 8192) (n1 := 64)
def R.HI_FN_STAT.CFG_REJECT : Fld := fld 0x781010 43 1 .w1c 0 (s1 := 8192) (n1 := 64)
def R.HI_FN_EVT_LOST.COUNT : Fld := fld 0x781018 0 32 .rc 0 (s1 := 8192) (n1 := 64)
def R.HI_FN_DB_CNT.COUNT : Fld := fld 0x78101c 0 32 .rc 0 (s1 := 8192) (n1 := 64)
def R.HI_WIN_SYNC.SYNC : Fld := fld 0x781020 0 1 .w1s 0 (s1 := 8192) (n1 := 64)
def R.HI_ARCH_BASE.ADDR : Fld := fld 0x781040 12 52 .rw 0 (s1 := 8192) (n1 := 64)
def R.HI_ARCH_CTL.SLOTS : Fld := fld 0x781048 0 16 .rw 0 (s1 := 8192) (n1 := 64)
def R.HI_ARCH_HEAD.ARCH_HEAD : Fld := fld 0x781050 0 32 .rw 0 (s1 := 8192) (n1 := 64)
def R.HI_ARCH_TAIL.ARCH_TAIL : Fld := fld 0x781054 0 32 .ro 0 (s1 := 8192) (n1 := 64)
def R.WIN_BASE.VALID : Fld := fld 0x781800 0 1 .rw 0 (s1 := 8192) (n1 := 64) (s2 := 16) (n2 := 128)
def R.WIN_BASE.READ : Fld := fld 0x781800 1 1 .rw 0 (s1 := 8192) (n1 := 64) (s2 := 16) (n2 := 128)
def R.WIN_BASE.WRITE : Fld := fld 0x781800 2 1 .rw 0 (s1 := 8192) (n1 := 64) (s2 := 16) (n2 := 128)
def R.WIN_BASE.BASE : Fld := fld 0x781800 12 52 .rw 0 (s1 := 8192) (n1 := 64) (s2 := 16) (n2 := 128)
def R.WIN_LIMIT.LIMIT : Fld := fld 0x781808 12 52 .rw 0 (s1 := 8192) (n1 := 64) (s2 := 16) (n2 := 128)

/-! Block 10 of Table 18-2: Fabric ports. -/

def R.PORT_CTL.LOCK : Fld := fld 0x800000 0 1 .w1s 0 (s1 := 256) (n1 := 16)
def R.PORT_CTL.ENABLE : Fld := fld 0x800000 1 1 .rwl 1 (s1 := 256) (n1 := 16)
def R.PORT_CTL.VARIANT : Fld := fld 0x800000 2 2 .rwl 0 (s1 := 256) (n1 := 16)
def R.PORT_CTL.MAX_WIDTH : Fld := fld 0x800000 4 2 .rwl 2 (s1 := 256) (n1 := 16)
def R.PORT_CTL.LOOPBACK : Fld := fld 0x800000 6 1 .rwl 0 (s1 := 256) (n1 := 16)
def R.PORT_STAT.STATE : Fld := fld 0x800004 0 3 .ro 0 (s1 := 256) (n1 := 16)
def R.PORT_STAT.WIDTH : Fld := fld 0x800004 3 2 .ro 3 (s1 := 256) (n1 := 16)
def R.PORT_STAT.IN_SERVICE : Fld := fld 0x800004 5 4 .ro 0xf (s1 := 256) (n1 := 16)
def R.PORT_STAT.RETIRED : Fld := fld 0x800004 9 4 .ro 0 (s1 := 256) (n1 := 16)
def R.PORT_STAT.PEER_NODE : Fld := fld 0x800004 13 15 .ro 0 (s1 := 256) (n1 := 16)
def R.PORT_STAT.PEER_PORT : Fld := fld 0x800004 28 4 .ro 0 (s1 := 256) (n1 := 16)
def R.PORT_VC_CFG.RX_CELLS_0 : Fld := fld 0x800008 0 8 .rwl 0x10 (s1 := 256) (n1 := 16)
def R.PORT_VC_CFG.RX_CELLS_1 : Fld := fld 0x800008 8 8 .rwl 0x10 (s1 := 256) (n1 := 16)
def R.PORT_VC_CFG.RX_CELLS_2 : Fld := fld 0x800008 16 8 .rwl 0x10 (s1 := 256) (n1 := 16)
def R.PORT_VC_CFG.RX_CELLS_3 : Fld := fld 0x800008 24 8 .rwl 0x10 (s1 := 256) (n1 := 16)
def R.PORT_VC_CFG.RX_CELLS_4 : Fld := fld 0x800008 32 8 .rwl 0x10 (s1 := 256) (n1 := 16)
def R.PORT_VC_CFG.RX_CELLS_5 : Fld := fld 0x800008 40 8 .rwl 0x10 (s1 := 256) (n1 := 16)
def R.PORT_VC_CFG.RX_CELLS_6 : Fld := fld 0x800008 48 8 .rwl 0x10 (s1 := 256) (n1 := 16)
def R.PORT_VC_CFG.RX_CELLS_7 : Fld := fld 0x800008 56 8 .rwl 0x10 (s1 := 256) (n1 := 16)
def R.PORT_LANE_CFG.BURST_SYM : Fld := fld 0x800010 0 16 .rwl 0x1000 (s1 := 256) (n1 := 16)
def R.PORT_LANE_CFG.TIME_ASYM : Fld := fld 0x800010 16 16 .rwl 0 (s1 := 256) (n1 := 16)
def R.PORT_LINK_CFG.REPLAY_WAIT : Fld := fld 0x800018 0 8 .rwl 0x14 (s1 := 256) (n1 := 16)
def R.PORT_FEC_CNT.CORRECTED : Fld := fld 0x800020 0 32 .rc 0 (s1 := 256) (n1 := 16)
def R.PORT_FEC_CNT.UNCORRECTABLE : Fld := fld 0x800020 32 32 .rc 0 (s1 := 256) (n1 := 16)
def R.PORT_RETRY_CNT.REPLAYS : Fld := fld 0x800028 0 16 .rc 0 (s1 := 256) (n1 := 16)
def R.PORT_RETRY_CNT.BAD_ACK : Fld := fld 0x800028 16 16 .rc 0 (s1 := 256) (n1 := 16)
def R.PORT_RETRAIN_CNT.RETRAINS : Fld := fld 0x80002c 0 16 .rc 0 (s1 := 256) (n1 := 16)
def R.PORT_RETRAIN_CNT.DOWNS : Fld := fld 0x80002c 16 16 .rc 0 (s1 := 256) (n1 := 16)
def R.PORT_ERR_CNT.CTRL_BAD : Fld := fld 0x800030 0 16 .rc 0 (s1 := 256) (n1 := 16)
def R.PORT_ERR_CNT.WORD_BAD : Fld := fld 0x800030 16 16 .rc 0 (s1 := 256) (n1 := 16)
def R.PORT_ERR.CFG_REJECT : Fld := fld 0x800038 0 1 .w1c 0 (s1 := 256) (n1 := 16)
def R.PORT_ERR.TRAIN_FAIL : Fld := fld 0x800038 1 1 .w1c 0 (s1 := 256) (n1 := 16)
def R.PORT_ERR.MISWIRE : Fld := fld 0x800038 2 1 .w1c 0 (s1 := 256) (n1 := 16)
def R.PORT_ERR.LANE_RETIRED : Fld := fld 0x800038 3 1 .w1c 0 (s1 := 256) (n1 := 16)

/-! Block 11 of Table 18-2: Router. -/

def R.ROUTE_CTL.LOCK : Fld := fld 0x900000 0 1 .w1s 0
def R.ROUTE_CTL.TOPOLOGY : Fld := fld 0x900000 1 2 .rwl 0
def R.ROUTE_CTL.DIM_X : Fld := fld 0x900000 3 5 .rwl 0
def R.ROUTE_CTL.DIM_Y : Fld := fld 0x900000 8 5 .rwl 0
def R.ROUTE_CTL.DIM_Z : Fld := fld 0x900000 13 5 .rwl 0
def R.ROUTE_CTL.ADAPTIVE : Fld := fld 0x900000 18 1 .rwl 1
def R.ROUTE_NODE.NODE : Fld := fld 0x900004 0 15 .rwl 0
def R.ROUTE_NOROUTE_CNT.COUNT : Fld := fld 0x900010 0 32 .rc 0
def R.ROUTE_DETOUR_CNT.COUNT : Fld := fld 0x900014 0 32 .rc 0
def R.ROUTE_ESCAPE_CNT.COUNT : Fld := fld 0x900018 0 32 .rc 0
def R.ROUTE_ERR.CFG_REJECT : Fld := fld 0x90001c 0 1 .w1c 0
def R.ROUTE_GROUP.PORTS : Fld := fld 0x901000 0 16 .rwl 0 (s1 := 4) (n1 := 256)
def R.ROUTE_GROUP.VALID : Fld := fld 0x901000 16 1 .rwl 0 (s1 := 4) (n1 := 256)
def R.ROUTE_MEMBER.PORTS : Fld := fld 0x901400 0 16 .rwl 0 (s1 := 4) (n1 := 128)
def R.ROUTE_MEMBER.VALID : Fld := fld 0x901400 16 1 .rwl 0 (s1 := 4) (n1 := 128)
def R.TIME_CTL.ROOT : Fld := fld 0x904000 0 1 .rwl 0
def R.TIME_CTL.PERIOD : Fld := fld 0x904000 8 16 .rwl 0x7d
def R.TIME_NOW.NS : Fld := fld 0x904008 0 64 .ro 0
def R.TIME_STAT.LOCKED : Fld := fld 0x904010 0 1 .ro 0
def R.TIME_STAT.HOLDOVER : Fld := fld 0x904010 1 1 .ro 0
def R.TIME_STAT.IN_SPEC : Fld := fld 0x904010 2 1 .ro 0
def R.TIME_STAT.HOPS : Fld := fld 0x904010 3 6 .ro 0x3f
def R.TIME_STAT.PARENT : Fld := fld 0x904010 9 4 .ro 0
def R.TIME_STAT.LAST_OFFSET : Fld := fld 0x904010 32 32 .ro 0
def R.MER_CUR.EPOCH : Fld := fld 0x906000 0 16 .ro 0
def R.MER_CUR.PREV : Fld := fld 0x906000 16 16 .ro 0
def R.MER_CTL.DRAIN : Fld := fld 0x906004 0 16 .rwl 0x7d0
def R.MER_STAT.DRAINING : Fld := fld 0x906008 0 1 .ro 0
def R.MER_STAT.STAGED : Fld := fld 0x906008 1 1 .ro 0
def R.MER_STAT.STAGED_EPOCH : Fld := fld 0x906008 16 16 .ro 0
def R.MER_APPLY.APPLY_AT : Fld := fld 0x906010 0 64 .ro 0
def R.MER_STALE_CNT.COUNT : Fld := fld 0x906018 0 32 .rc 0
def R.MER_LAG_CNT.COUNT : Fld := fld 0x90601c 0 32 .rc 0
def R.MER_LOST.NODE_MAP : Fld := fld 0x907000 0 32 .ro 0 (s1 := 4) (n1 := 1024)
def R.COMB_CTL.LOCK : Fld := fld 0x908000 0 1 .w1s 0
def R.COMB_CTL.PART_MERGE : Fld := fld 0x908000 1 1 .rwl 1
def R.COMB_CTL.COLL_TIMEOUT : Fld := fld 0x908000 16 16 .rwl 0x7d0
def R.COMB_STAT.USED : Fld := fld 0x908004 0 12 .ro 0
def R.COMB_STAT.RESERVED_ENTRIES : Fld := fld 0x908004 16 12 .ro 0
def R.COMB_PART_CNT.COUNT : Fld := fld 0x908008 0 32 .rc 0
def R.COMB_COLL_CNT.COUNT : Fld := fld 0x90800c 0 32 .rc 0
def R.COMB_TIMEOUT_CNT.COUNT : Fld := fld 0x908010 0 32 .rc 0
def R.COMB_ERR.CFG_REJECT : Fld := fld 0x908014 0 1 .w1c 0
def R.COMB_ERR.COLL_TIMEOUT : Fld := fld 0x908014 1 1 .w1c 0
def R.COMB_ERR.COLL_MISMATCH : Fld := fld 0x908014 2 1 .w1c 0

/-! Block 12 of Table 18-2: Endpoints. -/

def R.EP_CTL.LOCK : Fld := fld 0xa00000 0 1 .w1s 0
def R.EP_TIMING.ACK_TIMEOUT : Fld := fld 0xa00004 0 16 .rwl 0x40
def R.EP_TIMING.RETRY_LIMIT : Fld := fld 0xa00004 16 4 .rwl 7
def R.EP_TIMING.RNR_LIMIT : Fld := fld 0xa00004 20 4 .rwl 7
def R.EP_MISS.BACKOFF : Fld := fld 0xa00008 0 16 .rwl 0x14
def R.EP_STAT.RESIDENT : Fld := fld 0xa00010 0 15 .ro 0
def R.EP_STAT.TOTAL : Fld := fld 0xa00010 15 21 .ro 0
def R.EP_STAT.MISSQ_PD0 : Fld := fld 0xa00010 36 13 .ro 0
def R.EP_STAT.MISSQ_PD1 : Fld := fld 0xa00010 49 13 .ro 0
def R.EP_DUP_CNT.COUNT : Fld := fld 0xa00020 0 32 .rc 0
def R.EP_WINDOW_DROP_CNT.COUNT : Fld := fld 0xa00024 0 32 .rc 0
def R.EP_GEN_DROP_CNT.COUNT : Fld := fld 0xa00028 0 32 .rc 0
def R.EP_MISS_CNT.COUNT : Fld := fld 0xa0002c 0 32 .rc 0
def R.EP_RETRY_LATER_CNT.COUNT : Fld := fld 0xa00030 0 32 .rc 0
def R.EP_STALE_CNT.COUNT : Fld := fld 0xa00034 0 32 .rc 0
def R.EP_BAD_CNT.COUNT : Fld := fld 0xa00038 0 32 .rc 0
def R.EP_COMB_READ_CNT.COUNT : Fld := fld 0xa0003c 0 32 .rc 0
def R.EP_COMB_ADD_CNT.COUNT : Fld := fld 0xa00040 0 32 .rc 0
def R.EP_ERR.CFG_REJECT : Fld := fld 0xa00044 0 1 .w1c 0
def R.EP_ERR.WRITEBACK : Fld := fld 0xa00044 1 1 .w1c 0
def R.FN_EP : Fld := fld 0xa01000 0 21 .ro 0 (s1 := 512) (n1 := 64)
def R.FN_EP_CEIL : Fld := fld 0xa01004 0 21 .rwl 0x4000 (s1 := 512) (n1 := 64)
def R.FN_REGIONS_MAX : Fld := fld 0xa01008 0 25 .rwl 0x10000 (s1 := 512) (n1 := 64)
def R.FN_PD_MAX : Fld := fld 0xa0100c 0 16 .rwl 0x100 (s1 := 512) (n1 := 64)
def R.FN_PREPOST : Fld := fld 0xa01010 0 17 .ro 0 (s1 := 512) (n1 := 64)
def R.FN_PREPOST_CEIL : Fld := fld 0xa01014 0 17 .rwl 0x400 (s1 := 512) (n1 := 64)
def R.FN_REGIONS : Fld := fld 0xa01018 0 25 .ro 0 (s1 := 512) (n1 := 64)
def R.FWIN_CTL.VALID : Fld := fld 0xa01100 0 1 .rwl 0 (s1 := 512) (n1 := 64) (s2 := 32) (n2 := 8)
def R.FWIN_CTL.READ : Fld := fld 0xa01100 1 1 .rwl 0 (s1 := 512) (n1 := 64) (s2 := 32) (n2 := 8)
def R.FWIN_CTL.WRITE : Fld := fld 0xa01100 2 1 .rwl 0 (s1 := 512) (n1 := 64) (s2 := 32) (n2 := 8)
def R.FWIN_CTL.ATOMIC : Fld := fld 0xa01100 3 1 .rwl 0 (s1 := 512) (n1 := 64) (s2 := 32) (n2 := 8)
def R.FWIN_CTL.NODE_LO : Fld := fld 0xa01100 16 15 .rwl 0 (s1 := 512) (n1 := 64) (s2 := 32) (n2 := 8)
def R.FWIN_NODE_HI.NODE_HI : Fld := fld 0xa01104 0 15 .rwl 0 (s1 := 512) (n1 := 64) (s2 := 32) (n2 := 8)
def R.FWIN_BASE.BASE : Fld := fld 0xa01108 12 36 .rwl 0 (s1 := 512) (n1 := 64) (s2 := 32) (n2 := 8)
def R.FWIN_LIMIT.LIMIT : Fld := fld 0xa01110 12 36 .rwl 0 (s1 := 512) (n1 := 64) (s2 := 32) (n2 := 8)

/-! Block 13 of Table 18-2: Queues and cell pool. -/

def R.QM_CTL.LOCK : Fld := fld 0xb00000 0 1 .w1s 0
def R.QM_CTL.SHARED_MIN : Fld := fld 0xb00000 1 16 .rwl 0x1000
def R.QM_BATCH.TIMEOUT : Fld := fld 0xb00004 0 17 .rwl 1
def R.QM_POOL_STAT.FREE : Fld := fld 0xb00010 0 17 .ro 0x10000 (s1 := 8) (n1 := 2)
def R.QM_POOL_STAT.RESERVED : Fld := fld 0xb00010 17 17 .ro 0 (s1 := 8) (n1 := 2)
def R.QM_POOL_STAT.SHARED_USED : Fld := fld 0xb00010 34 17 .ro 0 (s1 := 8) (n1 := 2)
def R.QM_FLUSH.QUEUE : Fld := fld 0xb00020 0 16 .wo 0
def R.QM_FLUSH.GO : Fld := fld 0xb00020 16 1 .wo 0
def R.QM_FLUSH_CNT.COUNT : Fld := fld 0xb00024 0 32 .rc 0
def R.QM_TIMEOUT_CNT.COUNT : Fld := fld 0xb00028 0 32 .rc 0
def R.QM_ERR.CFG_REJECT : Fld := fld 0xb0002c 0 1 .w1c 0
def R.QM_ERR.NO_MARK : Fld := fld 0xb0002c 1 1 .w1c 0
def R.QM_ERR.STALE : Fld := fld 0xb0002c 2 1 .w1c 0
def R.QD_SEL.QUEUE : Fld := fld 0xb00040 0 16 .rw 0
def R.QD_DATA.DESCRIPTOR : Fld := fld 0xb00048 0 64 .ro 0 (s1 := 8) (n1 := 4)
def R.QSTAT_SEL.QUEUE : Fld := fld 0xb00080 0 16 .rw 0
def R.QSTAT_DEPTH.MIN : Fld := fld 0xb00088 0 17 .ro 0
def R.QSTAT_DEPTH.MAX : Fld := fld 0xb00088 32 17 .ro 0
def R.QSTAT_DELAY.MIN : Fld := fld 0xb00090 0 32 .ro 0
def R.QSTAT_DELAY.MAX : Fld := fld 0xb00090 32 32 .ro 0
def R.QSTAT_AVG.AVG_DEPTH : Fld := fld 0xb00098 0 17 .rc 0
def R.QSTAT_AVG.AVG_DELAY : Fld := fld 0xb00098 32 32 .rc 0
def R.QSTAT_CNT.SAMPLES : Fld := fld 0xb000a0 0 32 .ro 0
def R.QTEL_BASE.LOG2 : Fld := fld 0xb000c0 0 5 .rw 0xa
def R.QTEL_BASE.ENABLE : Fld := fld 0xb000c0 5 1 .rw 0
def R.QTEL_BASE.ADDR : Fld := fld 0xb000c0 12 36 .rw 0
def R.QTEL_TAIL.TAIL : Fld := fld 0xb000c8 0 32 .ro 0
def R.QTEL_HEAD.HEAD : Fld := fld 0xb000cc 0 32 .rw 0
def R.QTEL_LOST.COUNT : Fld := fld 0xb000d0 0 32 .rc 0
def R.QTEL_LIST.QUEUE : Fld := fld 0xb00100 0 16 .rw 0 (s1 := 4) (n1 := 256)
def R.QTEL_LIST.VALID : Fld := fld 0xb00100 16 1 .rw 0 (s1 := 4) (n1 := 256)
def R.FN_QCELLS : Fld := fld 0xb01000 0 17 .ro 0 (s1 := 16) (n1 := 64)
def R.FN_QCELL_CEIL : Fld := fld 0xb01004 0 17 .rwl 0x4000 (s1 := 16) (n1 := 64)

/-! Block 14 of Table 18-2: Shaper. -/

def R.SHP_CTL.LOCK : Fld := fld 0xc00000 0 1 .w1s 0
def R.SHP_CLASS_MAP.CLASS_0 : Fld := fld 0xc00008 0 3 .rwl 1
def R.SHP_CLASS_MAP.CLASS_1 : Fld := fld 0xc00008 3 3 .rwl 1
def R.SHP_CLASS_MAP.CLASS_2 : Fld := fld 0xc00008 6 3 .rwl 1
def R.SHP_CLASS_MAP.CLASS_3 : Fld := fld 0xc00008 9 3 .rwl 1
def R.SHP_CLASS_MAP.CLASS_4 : Fld := fld 0xc00008 12 3 .rwl 1
def R.SHP_CLASS_MAP.CLASS_5 : Fld := fld 0xc00008 15 3 .rwl 1
def R.SHP_CLASS_MAP.CLASS_6 : Fld := fld 0xc00008 18 3 .rwl 5
def R.SHP_CLASS_MAP.CLASS_7 : Fld := fld 0xc00008 21 3 .rwl 5
def R.SHP_CLASS_MAP.CLASS_8 : Fld := fld 0xc00008 24 3 .rwl 5
def R.SHP_CLASS_MAP.CLASS_9 : Fld := fld 0xc00008 27 3 .rwl 6
def R.SHP_CLASS_MAP.CLASS_10 : Fld := fld 0xc00008 30 3 .rwl 7
def R.SHP_CLASS_MAP.CLASS_11 : Fld := fld 0xc00008 33 3 .rwl 7
def R.SHP_CLASS_MAP.CLASS_12 : Fld := fld 0xc00008 36 3 .rwl 7
def R.SHP_CLASS_MAP.CLASS_13 : Fld := fld 0xc00008 39 3 .rwl 7
def R.SHP_CLASS_MAP.CLASS_14 : Fld := fld 0xc00008 42 3 .rwl 7
def R.SHP_CLASS_MAP.CLASS_15 : Fld := fld 0xc00008 45 3 .rwl 7
def R.SHP_ERR.CFG_REJECT : Fld := fld 0xc00010 0 1 .w1c 0
def R.SHP_PORT_CLS.WEIGHT_0 : Fld := fld 0xc00100 0 7 .rwl 1 (s1 := 16) (n1 := 16)
def R.SHP_PORT_CLS.STRICT_0 : Fld := fld 0xc00100 7 1 .rwl 0 (s1 := 16) (n1 := 16)
def R.SHP_PORT_CLS.WEIGHT_1 : Fld := fld 0xc00100 8 7 .rwl 1 (s1 := 16) (n1 := 16)
def R.SHP_PORT_CLS.STRICT_1 : Fld := fld 0xc00100 15 1 .rwl 0 (s1 := 16) (n1 := 16)
def R.SHP_PORT_CLS.WEIGHT_2 : Fld := fld 0xc00100 16 7 .rwl 1 (s1 := 16) (n1 := 16)
def R.SHP_PORT_CLS.STRICT_2 : Fld := fld 0xc00100 23 1 .rwl 0 (s1 := 16) (n1 := 16)
def R.SHP_PORT_CLS.WEIGHT_3 : Fld := fld 0xc00100 24 7 .rwl 1 (s1 := 16) (n1 := 16)
def R.SHP_PORT_CLS.STRICT_3 : Fld := fld 0xc00100 31 1 .rwl 0 (s1 := 16) (n1 := 16)
def R.SHP_PORT_CLS.WEIGHT_4 : Fld := fld 0xc00100 32 7 .rwl 1 (s1 := 16) (n1 := 16)
def R.SHP_PORT_CLS.STRICT_4 : Fld := fld 0xc00100 39 1 .rwl 0 (s1 := 16) (n1 := 16)
def R.SHP_PORT_CLS.WEIGHT_5 : Fld := fld 0xc00100 40 7 .rwl 1 (s1 := 16) (n1 := 16)
def R.SHP_PORT_CLS.STRICT_5 : Fld := fld 0xc00100 47 1 .rwl 0 (s1 := 16) (n1 := 16)
def R.SHP_PORT_CLS.WEIGHT_6 : Fld := fld 0xc00100 48 7 .rwl 1 (s1 := 16) (n1 := 16)
def R.SHP_PORT_CLS.STRICT_6 : Fld := fld 0xc00100 55 1 .rwl 1 (s1 := 16) (n1 := 16)
def R.SHP_PORT_CLS.WEIGHT_7 : Fld := fld 0xc00100 56 7 .rwl 1 (s1 := 16) (n1 := 16)
def R.SHP_PORT_CLS.STRICT_7 : Fld := fld 0xc00100 63 1 .rwl 1 (s1 := 16) (n1 := 16)
def R.SHP_GATE_CTL.GATE_EN : Fld := fld 0xc00108 0 1 .rwl 0 (s1 := 16) (n1 := 16)
def R.SHP_GATE_CTL.ACTIVE : Fld := fld 0xc00108 1 1 .ro 0 (s1 := 16) (n1 := 16)
def R.SHP_GATE_CTL.SWAP : Fld := fld 0xc00108 2 1 .w1s 0 (s1 := 16) (n1 := 16)
def R.SHP_GATE_CTL.LEN_A : Fld := fld 0xc00108 3 8 .rwl 0 (s1 := 16) (n1 := 16)
def R.SHP_GATE_CTL.LEN_B : Fld := fld 0xc00108 11 8 .rwl 0 (s1 := 16) (n1 := 16)
def R.SHP_GATE_BASE.OFFSET : Fld := fld 0xc00800 0 24 .rwl 0 (s1 := 8) (n1 := 16)
def R.SHP_SEL.QUEUE : Fld := fld 0xc04000 0 12 .rwl 0 (s1 := 1024) (n1 := 2) (s2 := 2) (n2 := 512)
def R.SHP_SEL.VALID : Fld := fld 0xc04000 15 1 .rwl 0 (s1 := 1024) (n1 := 2) (s2 := 2) (n2 := 512)
def R.SHP_GCL.ENTRY : Fld := fld 0xc08000 0 32 .rwl 0 (s1 := 2048) (n1 := 16) (s2 := 4) (n2 := 512)
def R.SHQ_CFG.RATE : Fld := fld 0xc10000 0 20 .rwl 0xc3500 (s1 := 16) (n1 := 8192)
def R.SHQ_CFG.SHAPE_EN : Fld := fld 0xc10000 20 1 .rwl 0 (s1 := 16) (n1 := 8192)
def R.SHQ_CFG.TOKEN_INIT : Fld := fld 0xc10000 21 1 .rwl 0 (s1 := 16) (n1 := 8192)
def R.SHQ_CFG.BURST : Fld := fld 0xc10000 32 25 .rwl 0x1000000 (s1 := 16) (n1 := 8192)
def R.SHQ_STAT.TOKENS : Fld := fld 0xc10008 0 25 .ro 0 (s1 := 16) (n1 := 8192)
def R.SHQ_HELD.COUNT : Fld := fld 0xc1000c 0 32 .rc 0 (s1 := 16) (n1 := 8192)

/-! Block 15 of Table 18-2: Sync counters. -/

def R.SYNC_CTL.LOCK : Fld := fld 0xd00000 0 1 .w1s 0
def R.SYNC_STAT.ARMED : Fld := fld 0xd00008 0 17 .ro 0
def R.SYNC_FIRE_CNT.COUNT : Fld := fld 0xd00010 0 32 .rc 0
def R.SYNC_TIMEOUT_CNT.COUNT : Fld := fld 0xd00014 0 32 .rc 0
def R.SYNC_ERR.CFG_REJECT : Fld := fld 0xd00018 0 1 .w1c 0
def R.SYNC_ERR.OVERFLOW : Fld := fld 0xd00018 1 1 .w1c 0
def R.SYNC_ERR.SET_REJECT : Fld := fld 0xd00018 2 1 .w1c 0
def R.SYNC_FN_BASE.SYNC_BASE : Fld := fld 0xd01000 0 17 .rwl 0 (s1 := 16) (n1 := 64) (rstep := 0x800)
def R.SYNC_FN_COUNT.SYNC_COUNT : Fld := fld 0xd01000 32 18 .rwl 0x800 (s1 := 16) (n1 := 64)

/-! Block 16 of Table 18-2: Security. -/

def R.SEC_STAT.CLAIMED : Fld := fld 0xe00000 0 1 .ro 0
def R.SEC_STAT.FW_SLOT : Fld := fld 0xe00000 1 1 .ro 0
def R.SEC_STAT.SVN : Fld := fld 0xe00000 8 8 .ro 0
def R.SEC_STAT.SEALED : Fld := fld 0xe00000 16 5 .ro 0
def R.SEC_STAT.RELEASED : Fld := fld 0xe00000 21 5 .ro 0
def R.SEC_STAT.AUTH_FAIL : Fld := fld 0xe00000 32 16 .rc 0
def R.SEC_ID.ID_DIGEST : Fld := fld 0xe00010 0 64 .ro 0 (s1 := 8) (n1 := 6)
def R.SEC_CONST.CONSTELLATION_ID : Fld := fld 0xe00100 0 32 .ro 0 (s1 := 16) (n1 := 16)
def R.SEC_CONST.KEY_GEN : Fld := fld 0xe00100 32 32 .ro 0 (s1 := 16) (n1 := 16)
def R.SEC_CONST_HI.VALID : Fld := fld 0xe00108 0 1 .ro 0 (s1 := 16) (n1 := 16)
def R.SEC_CONST_HI.RELEASED : Fld := fld 0xe00108 1 1 .ro 0 (s1 := 16) (n1 := 16)
def R.SEC_CONST_HI.MEMBERS : Fld := fld 0xe00108 2 15 .ro 0 (s1 := 16) (n1 := 16)
def R.BRIM_STAT.INJECT_HELD : Fld := fld 0xe00200 0 32 .rc 0
def R.BRIM_STAT.WATCHDOG : Fld := fld 0xe00200 32 16 .rc 0

/-! Block 17 of Table 18-2: Telemetry and level mode, faults. -/

def R.LVL_CTL.LOCK : Fld := fld 0xf00000 0 1 .w1s 0
def R.LVL_CTL.ENABLE : Fld := fld 0xf00000 1 1 .rwl 0
def R.LVL_CTL.FILL_EN : Fld := fld 0xf00000 2 1 .rwl 0
def R.LVL_CTL.TCLK_MIN : Fld := fld 0xf00000 3 5 .rwl 8
def R.LVL_CTL.TCLK_MAX : Fld := fld 0xf00000 8 5 .rwl 0x10
def R.LVL_SET.SET_W : Fld := fld 0xf00004 0 12 .rwl 0x672
def R.LVL_SET.SLEW : Fld := fld 0xf00004 16 12 .rwl 0x32
def R.LVL_FILL.MAX_W : Fld := fld 0xf00008 0 12 .rwl 0xc8
def R.PWR_CEIL.CEIL : Fld := fld 0xf0000c 0 12 .rwl 0x834
def R.PWR_CEIL.FUSED : Fld := fld 0xf0000c 12 12 .ro 0x834
def R.PWR_MEAS.INPUT_W : Fld := fld 0xf00010 0 12 .ro 0
def R.PWR_MEAS.WINDOW_W : Fld := fld 0xf00010 12 12 .ro 0
def R.PWR_MEAS.HEAT_W : Fld := fld 0xf00010 24 12 .ro 0
def R.PWR_MEAS.VIN : Fld := fld 0xf00010 36 13 .ro 0
def R.PWR_ENERGY.HEAT_J : Fld := fld 0xf00018 0 64 .ro 0
def R.LVL_STAT.HOLDING : Fld := fld 0xf00020 0 1 .ro 0
def R.LVL_STAT.BELOW : Fld := fld 0xf00020 1 1 .ro 0
def R.LVL_STAT.ABOVE : Fld := fld 0xf00020 2 1 .ro 0
def R.LVL_STAT.ADMIT_HELD : Fld := fld 0xf00020 3 1 .ro 0
def R.LVL_STAT.FILLING : Fld := fld 0xf00020 4 1 .ro 0
def R.LVL_STAT.CEIL_WIN : Fld := fld 0xf00020 5 1 .ro 0
def R.LVL_STAT.TCLK : Fld := fld 0xf00020 6 5 .ro 0x10
def R.THERM_STAT.INLET : Fld := fld 0xf00028 0 8 .ro 0
def R.THERM_STAT.OUTLET : Fld := fld 0xf00028 8 8 .ro 0
def R.THERM_STAT.CD_MAX : Fld := fld 0xf00028 16 8 .ro 0
def R.THERM_STAT.PD_MAX : Fld := fld 0xf00028 24 8 .ro 0
def R.THERM_STAT.STACK_MAX : Fld := fld 0xf00028 32 8 .ro 0
def R.THERM_STAT.SOFT_THROTTLE : Fld := fld 0xf00028 40 1 .ro 0
def R.THERM_STAT.STACK_HOT : Fld := fld 0xf00028 41 1 .ro 0
def R.CEIL_CNT.COUNT : Fld := fld 0xf00030 0 32 .rc 0
def R.THERM_CNT.SOFT : Fld := fld 0xf00034 0 16 .rc 0
def R.THERM_CNT.STACK : Fld := fld 0xf00034 16 16 .rc 0
def R.LVL_ERR.CFG_REJECT : Fld := fld 0xf00038 0 1 .w1c 0
def R.FLT_CTL.LOCK : Fld := fld 0xf08000 0 1 .w1s 0
def R.FLT_CTL.TILE_FAIL_LIMIT : Fld := fld 0xf08000 1 2 .rwl 3
def R.FLT_CTL.T2_DIE_LIMIT : Fld := fld 0xf08000 3 8 .rwl 0x10
def R.FLT_PROT.PROT_CEIL : Fld := fld 0xf08004 0 25 .rwl 0x400000
def R.FLT_PROT_STAT.PROT_USED : Fld := fld 0xf08008 0 25 .ro 0
def R.FLT_ERR.CFG_REJECT : Fld := fld 0xf0800c 0 1 .w1c 0
def R.FLT_STAT.TILES : Fld := fld 0xf08010 0 9 .ro 0
def R.FLT_STAT.NBUS : Fld := fld 0xf08010 9 14 .ro 0
def R.FLT_STAT.PCS : Fld := fld 0xf08010 23 10 .ro 0
def R.FLT_STAT.T2_RANKS : Fld := fld 0xf08010 33 6 .ro 0
def R.FLT_STAT.LANES : Fld := fld 0xf08010 39 7 .ro 0
def R.FLT_STAT.PORTS : Fld := fld 0xf08010 46 5 .ro 0
def R.FLT_RET_T2.RANK_MAP : Fld := fld 0xf08040 0 48 .ro 0
def R.FLT_RET_LANE.LANE_MAP : Fld := fld 0xf08048 0 64 .ro 0
def R.FLT_MOD_HEAD.HEAD : Fld := fld 0xf08080 0 32 .rw 0
def R.FLT_MOD_TAIL.TAIL : Fld := fld 0xf08084 0 32 .ro 0
def R.FLT_MOD_LOST.COUNT : Fld := fld 0xf08088 0 32 .rc 0
def R.FLT_RET_TILE.TILE_MAP : Fld := fld 0xf08020 0 32 .ro 0 (s1 := 4) (n1 := 8)
def R.FLT_MOD_ENTRY.ENTRY : Fld := fld 0xf080c0 0 64 .ro 0 (s1 := 8) (n1 := 8)
def R.FLT_FN_HEAD.HEAD : Fld := fld 0xf0c000 0 32 .rw 0 (s1 := 256) (n1 := 64)
def R.FLT_FN_TAIL.TAIL : Fld := fld 0xf0c004 0 32 .ro 0 (s1 := 256) (n1 := 64)
def R.FLT_FN_LOST.COUNT : Fld := fld 0xf0c008 0 32 .rc 0 (s1 := 256) (n1 := 64)
def R.FLT_FN_ENTRY.ENTRY : Fld := fld 0xf0c040 0 64 .ro 0 (s1 := 256) (n1 := 64) (s2 := 8) (n2 := 8)

/-- The registers of block 0 (ID and capability). -/
def regRow0 : List RegInfo := [
  ⟨0, 0x0, 32, 0, 1, 0, 1, [R.ID_PART.PART, R.ID_PART.STEPPING, R.ID_PART.BOARD]⟩,
  ⟨0, 0x8, 64, 0, 1, 0, 1, [R.ID_SERIAL.SERIAL]⟩,
  ⟨0, 0x10, 32, 0, 1, 0, 1, [R.ID_FW.VERSION, R.ID_FW.SLOT]⟩,
  ⟨0, 0x20, 64, 0, 1, 0, 1, [R.CAP_COMPUTE.TILES, R.CAP_COMPUTE.NBUS, R.CAP_COMPUTE.STACKS]⟩,
  ⟨0, 0x28, 64, 0, 1, 0, 1, [R.CAP_MEM.T1_GIB, R.CAP_MEM.T2_GIB]⟩,
  ⟨0, 0x30, 64, 0, 1, 0, 1, [R.CAP_FABRIC.PORTS, R.CAP_FABRIC.LANES, R.CAP_FABRIC.TOPOLOGIES, R.CAP_FABRIC.EP_RESIDENT]⟩,
  ⟨0, 0x38, 64, 0, 1, 0, 1, [R.CAP_HOST.FUNCTIONS, R.CAP_HOST.MSIX, R.CAP_HOST.CTX_HW, R.CAP_HOST.CTX_PARKED]⟩,
  ⟨0, 0x40, 32, 0, 1, 0, 1, [R.ID_LOCK_DISC.COUNT]⟩,
  ⟨0, 0x44, 32, 0, 1, 0, 1, [R.ID_LOCK_ADDR.OFFSET, R.ID_LOCK_ADDR.SOURCE]⟩,
  ⟨0, 0x48, 32, 0, 1, 0, 1, [R.ID_BAD_ACCESS.COUNT]⟩,
  ⟨0, 0x100, 64, 0, 1, 0, 1, [R.ALERT_STAT.BLOCKS]⟩,
  ⟨0, 0x108, 64, 0, 1, 0, 1, [R.ALERT_MASK.HOST]⟩,
  ⟨0, 0x110, 64, 0, 1, 0, 1, [R.ALERT_MGMT.MGMT]⟩]

/-- The registers of block 1 (Reset and power). -/
def regRow1 : List RegInfo := [
  ⟨1, 0x10000, 32, 0, 1, 0, 1, [R.PWR_CTL.NAP_EN, R.PWR_CTL.DEEP_REQ, R.PWR_CTL.NAP_IDLE]⟩,
  ⟨1, 0x10004, 32, 0, 1, 0, 1, [R.PWR_STAT.STATE, R.PWR_STAT.EXITING, R.PWR_STAT.RESET_CAUSE]⟩,
  ⟨1, 0x10008, 32, 0, 1, 0, 1, [R.PWR_NAP_CNT.COUNT]⟩,
  ⟨1, 0x1000c, 32, 0, 1, 0, 1, [R.PWR_DEEP_CNT.COUNT]⟩]

/-- The registers of block 2 (Clock). -/
def regRow2 : List RegInfo := [
  ⟨2, 0x20000, 32, 0, 1, 0, 1, [R.CLK_STAT.TCLK, R.CLK_STAT.CHANGING, R.CLK_STAT.FABRIC_REF, R.CLK_STAT.HOST_REF, R.CLK_STAT.PLL_LOCK]⟩]

/-- The registers of block 3 (Tiles). -/
def regRow3 : List RegInfo := [
  ⟨3, 0x100000, 32, 4096, 256, 0, 1, [R.TILE_CTL.LOCK, R.TILE_CTL.DRAIN, R.TILE_CTL.IDLE]⟩,
  ⟨3, 0x100004, 32, 4096, 256, 0, 1, [R.TILE_WIN.WIN_SIZE, R.TILE_WIN.WIN_BUFS]⟩,
  ⟨3, 0x100008, 32, 4096, 256, 0, 1, [R.TILE_STREAM.MAX_OUTSTANDING, R.TILE_STREAM.T2_ALLOW]⟩,
  ⟨3, 0x100010, 32, 4096, 256, 0, 1, [R.TILE_STAT.IN_SERVICE, R.TILE_STAT.RETIRED, R.TILE_STAT.FAIL_COUNT, R.TILE_STAT.CONTEXT]⟩,
  ⟨3, 0x100018, 32, 4096, 256, 0, 1, [R.TILE_ECC_CNT.CORRECTED, R.TILE_ECC_CNT.UNCORRECTED]⟩,
  ⟨3, 0x10001c, 32, 4096, 256, 0, 1, [R.TILE_ECC_ADDR.OFFSET, R.TILE_ECC_ADDR.VALID]⟩,
  ⟨3, 0x100020, 64, 4096, 256, 0, 1, [R.TILE_STREAM_CNT.HINTS, R.TILE_STREAM_CNT.DEMAND, R.TILE_STREAM_CNT.HINT_DISCARD]⟩,
  ⟨3, 0x100028, 64, 4096, 256, 0, 1, [R.TILE_STALL_CNT.WINDOW, R.TILE_STALL_CNT.TABLE]⟩,
  ⟨3, 0x100030, 32, 4096, 256, 0, 1, [R.TILE_ERR.CFG_REJECT, R.TILE_ERR.FAULT]⟩,
  ⟨3, 0x100800, 32, 4096, 256, 0, 1, [R.EXP_STAT.SLOT_VALID, R.EXP_STAT.IN_FLIGHT]⟩,
  ⟨3, 0x100808, 64, 4096, 256, 0, 1, [R.EXP_BATT_CNT.BATTS, R.EXP_BATT_CNT.RAW]⟩,
  ⟨3, 0x100810, 32, 4096, 256, 0, 1, [R.EXP_FAULT_CNT.FAULTS, R.EXP_FAULT_CNT.MISSES]⟩,
  ⟨3, 0x100820, 32, 4096, 256, 0, 1, [R.EXP_MM_STAT.VALID, R.EXP_MM_STAT.OVERRUN, R.EXP_MM_STAT.KIND, R.EXP_MM_STAT.SUBSTREAM, R.EXP_MM_STAT.FUNCTION, R.EXP_MM_STAT.CONTEXT]⟩,
  ⟨3, 0x100824, 32, 4096, 256, 0, 1, [R.EXP_MM_TENSOR.TENSOR]⟩,
  ⟨3, 0x100828, 32, 4096, 256, 0, 1, [R.EXP_MM_BATT.BATT]⟩,
  ⟨3, 0x10082c, 32, 4096, 256, 0, 1, [R.EXP_MM_POS.FIRST_ZERO]⟩]

/-- The registers of block 5 (NBU). -/
def regRow5 : List RegInfo := [
  ⟨5, 0x300000, 32, 256, 16, 0, 1, [R.NBU_STACK_CTL.LOCK, R.NBU_STACK_CTL.MODE, R.NBU_STACK_CTL.DRAIN, R.NBU_STACK_CTL.IDLE]⟩,
  ⟨5, 0x300004, 32, 256, 16, 0, 1, [R.NBU_GOV_BUDGET.ALLOWANCE]⟩,
  ⟨5, 0x300008, 32, 256, 16, 0, 1, [R.NBU_GOV_FLOOR.EXT_FLOOR, R.NBU_GOV_FLOOR.INT_FLOOR]⟩,
  ⟨5, 0x30000c, 32, 256, 16, 0, 1, [R.NBU_REF_CTL.POSTPONE_MAX]⟩,
  ⟨5, 0x300010, 32, 256, 16, 0, 1, [R.NBU_GOV_STAT.HELD_WINDOWS]⟩,
  ⟨5, 0x300018, 64, 256, 16, 0, 1, [R.NBU_GOV_LAST.EXT_SECTORS, R.NBU_GOV_LAST.INT_SECTORS]⟩,
  ⟨5, 0x300020, 32, 256, 16, 0, 1, [R.NBU_ERR_CNT.CORRECTED, R.NBU_ERR_CNT.UNCORRECTED]⟩,
  ⟨5, 0x300024, 32, 256, 16, 0, 1, [R.NBU_ERR.CFG_REJECT, R.NBU_ERR.RETIRE_EVENT]⟩,
  ⟨5, 0x300028, 64, 256, 16, 0, 1, [R.NBU_ERR_CAP.VALID, R.NBU_ERR_CAP.OVERRUN, R.NBU_ERR_CAP.BANK_PAIR, R.NBU_ERR_CAP.BANK, R.NBU_ERR_CAP.ROW, R.NBU_ERR_CAP.OPCODE, R.NBU_ERR_CAP.FUNCTION, R.NBU_ERR_CAP.CONTEXT, R.NBU_ERR_CAP.MODULE]⟩,
  ⟨5, 0x300030, 32, 256, 16, 0, 1, [R.NBU_SEQ_CAP.SEQ]⟩,
  ⟨5, 0x300034, 32, 256, 16, 0, 1, [R.NBU_PC_STAT.PC_RETIRED]⟩,
  ⟨5, 0x300040, 32, 256, 16, 4, 16, [R.NBU_RETIRED.NBU_MAP]⟩,
  ⟨5, 0x301000, 32, 0, 1, 0, 1, [R.NBU_SCRUB.PERIOD]⟩,
  ⟨5, 0x301004, 32, 0, 1, 0, 1, [R.NBU_SELFCHECK.PERIOD, R.NBU_SELFCHECK.FAIL_LIMIT, R.NBU_SELFCHECK.PC_UE_LIMIT]⟩,
  ⟨5, 0x301010, 32, 0, 1, 0, 1, [R.NBU_SEL.STACK, R.NBU_SEL.NBU]⟩,
  ⟨5, 0x301018, 64, 0, 1, 0, 1, [R.NBU_INFO.FAIL_COUNT, R.NBU_INFO.RETIRED, R.NBU_INFO.RETRIES, R.NBU_INFO.SUSPENSIONS]⟩]

/-- The registers of block 7 (Paging and KV, attention, ring). -/
def regRow7 : List RegInfo := [
  ⟨7, 0x500000, 32, 0, 1, 0, 1, [R.PAGE_CTL.LOCK, R.PAGE_CTL.MIG_ENABLE, R.PAGE_CTL.SCRUB_BUSY]⟩,
  ⟨7, 0x500004, 32, 0, 1, 0, 1, [R.PAGE_AGE.AGE_PERIOD, R.PAGE_AGE.DEMOTE_MIN_AGE]⟩,
  ⟨7, 0x500008, 32, 0, 1, 0, 1, [R.PAGE_LOWATER.FRAMES]⟩,
  ⟨7, 0x50000c, 32, 0, 1, 0, 1, [R.PAGE_HIWATER.FRAMES]⟩,
  ⟨7, 0x500010, 64, 0, 1, 0, 1, [R.PAGE_T2_WATER.LOW, R.PAGE_T2_WATER.HIGH]⟩,
  ⟨7, 0x500018, 64, 0, 1, 0, 1, [R.PAGE_STAT.T1_FREE, R.PAGE_STAT.T2_FREE]⟩,
  ⟨7, 0x500020, 32, 0, 1, 0, 1, [R.PAGE_SYS.SYS_PAGES]⟩,
  ⟨7, 0x500028, 32, 0, 1, 0, 1, [R.PAGE_DEMOTE_CNT.COUNT]⟩,
  ⟨7, 0x50002c, 32, 0, 1, 0, 1, [R.PAGE_PROMOTE_CNT.COUNT]⟩,
  ⟨7, 0x500030, 32, 0, 1, 0, 1, [R.PAGE_MIG_ABORT_CNT.COUNT]⟩,
  ⟨7, 0x500034, 32, 0, 1, 0, 1, [R.PAGE_DISPLACE_CNT.COUNT]⟩,
  ⟨7, 0x500038, 32, 0, 1, 0, 1, [R.PAGE_FALLBACK_CNT.COUNT]⟩,
  ⟨7, 0x50003c, 32, 0, 1, 0, 1, [R.PAGE_ERR.CFG_REJECT, R.PAGE_ERR.PTE_CRC]⟩,
  ⟨7, 0x500040, 64, 0, 1, 0, 1, [R.PAGE_T3_STAT.BORROWED, R.PAGE_T3_STAT.LENT, R.PAGE_T3_STAT.OFFERED]⟩,
  ⟨7, 0x500048, 32, 0, 1, 0, 1, [R.PAGE_RECALL.RECALL_TRANCHE]⟩,
  ⟨7, 0x500800, 32, 0, 1, 0, 1, [R.ATTN_CTL.REMOTE_TIMEOUT]⟩,
  ⟨7, 0x500804, 32, 0, 1, 0, 1, [R.ATTN_STALE_CNT.COUNT]⟩,
  ⟨7, 0x500808, 32, 0, 1, 0, 1, [R.ATTN_EPOCH_CNT.COUNT]⟩,
  ⟨7, 0x50080c, 32, 0, 1, 0, 1, [R.ATTN_BAD_CNT.COUNT]⟩,
  ⟨7, 0x500810, 32, 0, 1, 0, 1, [R.ATTN_REMOTE_REQ_CNT.COUNT]⟩,
  ⟨7, 0x500814, 32, 0, 1, 0, 1, [R.ATTN_REMOTE_SRV_CNT.COUNT]⟩,
  ⟨7, 0x500818, 32, 0, 1, 0, 1, [R.ATTN_REDISPATCH_CNT.COUNT]⟩,
  ⟨7, 0x500820, 32, 0, 1, 0, 1, [R.RING_CNT.COUNT]⟩,
  ⟨7, 0x500824, 32, 0, 1, 0, 1, [R.RING_STALE_CNT.COUNT]⟩,
  ⟨7, 0x500828, 32, 0, 1, 0, 1, [R.RING_EPOCH_CNT.COUNT]⟩,
  ⟨7, 0x50082c, 32, 0, 1, 0, 1, [R.RING_PAGE_CNT.COUNT]⟩,
  ⟨7, 0x501000, 32, 64, 64, 0, 1, [R.FN_T1_PAGES]⟩,
  ⟨7, 0x501004, 32, 64, 64, 0, 1, [R.FN_T2_GRANULES]⟩,
  ⟨7, 0x501008, 32, 64, 64, 0, 1, [R.FN_T3_PAGES]⟩,
  ⟨7, 0x50100c, 32, 64, 64, 0, 1, [R.FN_PIN_PAGES]⟩,
  ⟨7, 0x501010, 32, 64, 64, 0, 1, [R.FN_T1_CEIL]⟩,
  ⟨7, 0x501014, 32, 64, 64, 0, 1, [R.FN_T1_RESERVE]⟩,
  ⟨7, 0x501018, 32, 64, 64, 0, 1, [R.FN_T2_CEIL]⟩,
  ⟨7, 0x50101c, 32, 64, 64, 0, 1, [R.FN_T2_RESERVE]⟩,
  ⟨7, 0x501020, 32, 64, 64, 0, 1, [R.FN_T3_CEIL]⟩,
  ⟨7, 0x501024, 32, 64, 64, 0, 1, [R.FN_PIN_BUDGET]⟩,
  ⟨7, 0x501028, 32, 64, 64, 0, 1, [R.FN_DEMOTE_CNT]⟩,
  ⟨7, 0x50102c, 32, 64, 64, 0, 1, [R.FN_DISPLACE_CNT]⟩]

/-- The registers of block 8 (Context and scheduler). -/
def regRow8 : List RegInfo := [
  ⟨8, 0x600000, 32, 0, 1, 0, 1, [R.SCHED_CTL.LOCK, R.SCHED_CTL.POLICY, R.SCHED_CTL.QUANTUM, R.SCHED_CTL.SLOT_COUNT]⟩,
  ⟨8, 0x600004, 32, 0, 1, 0, 1, [R.SCHED_GUARD.GUARD, R.SCHED_GUARD.UNPARK_WAIT]⟩,
  ⟨8, 0x600008, 64, 0, 1, 0, 1, [R.SCHED_STAT.RESIDENT, R.SCHED_STAT.READY, R.SCHED_STAT.RUNNING, R.SCHED_STAT.PARKED]⟩,
  ⟨8, 0x600010, 32, 0, 1, 0, 1, [R.SCHED_SWITCH_CNT.COUNT]⟩,
  ⟨8, 0x600014, 32, 0, 1, 0, 1, [R.SCHED_QUANTUM_CNT.COUNT]⟩,
  ⟨8, 0x600018, 32, 0, 1, 0, 1, [R.SCHED_PARK_CNT.COUNT]⟩,
  ⟨8, 0x60001c, 32, 0, 1, 0, 1, [R.SCHED_UNPARK_CNT.COUNT]⟩,
  ⟨8, 0x600020, 32, 0, 1, 0, 1, [R.SCHED_OVERRUN_CNT.COUNT]⟩,
  ⟨8, 0x600024, 32, 0, 1, 0, 1, [R.SCHED_ERR.CFG_REJECT]⟩,
  ⟨8, 0x600100, 64, 8, 64, 0, 1, [R.SCHED_SLOT.LEN, R.SCHED_SLOT.FUNCTION, R.SCHED_SLOT.YIELD, R.SCHED_SLOT.CTX_VALID, R.SCHED_SLOT.CONTEXT]⟩,
  ⟨8, 0x601000, 32, 32, 64, 0, 1, [R.FN_CTX_HW]⟩,
  ⟨8, 0x601004, 32, 32, 64, 0, 1, [R.FN_CTX_PARKED]⟩,
  ⟨8, 0x601008, 32, 32, 64, 0, 1, [R.FN_CTX_HW_CEIL]⟩,
  ⟨8, 0x60100c, 32, 32, 64, 0, 1, [R.FN_CTX_PARK_CEIL]⟩,
  ⟨8, 0x601010, 32, 32, 64, 0, 1, [R.FN_SCHED.WEIGHT]⟩,
  ⟨8, 0x601014, 32, 32, 64, 0, 1, [R.FN_SAT_CNT]⟩,
  ⟨8, 0x601018, 32, 32, 64, 0, 1, [R.FN_TRIG_CEIL]⟩]

/-- The registers of block 9 (Host interface). -/
def regRow9 : List RegInfo := [
  ⟨9, 0x700000, 32, 0, 1, 0, 1, [R.HI_CTL.LOCK, R.HI_CTL.VF_VECTORS]⟩,
  ⟨9, 0x700004, 32, 0, 1, 0, 1, [R.HI_STAT.LINK_UP, R.HI_STAT.RATE, R.HI_STAT.WIDTH, R.HI_STAT.NUM_VFS]⟩,
  ⟨9, 0x700008, 64, 0, 1, 0, 1, [R.HI_OVF_STAT.HELD, R.HI_OVF_STAT.RESERVED]⟩,
  ⟨9, 0x700010, 32, 0, 1, 0, 1, [R.HI_ERR.CFG_REJECT]⟩,
  ⟨9, 0x780000, 64, 8192, 64, 64, 64, [R.HI_SQ_BASE.SQ_LOG2, R.HI_SQ_BASE.ADDR]⟩,
  ⟨9, 0x780008, 64, 8192, 64, 64, 64, [R.HI_CQ_BASE.CQ_LOG2, R.HI_CQ_BASE.ADDR]⟩,
  ⟨9, 0x780010, 32, 8192, 64, 64, 64, [R.HI_RING_CTL.ENABLE, R.HI_RING_CTL.VECTOR, R.HI_RING_CTL.COAL_COUNT, R.HI_RING_CTL.COAL_TIME, R.HI_RING_CTL.RESUME]⟩,
  ⟨9, 0x780018, 64, 8192, 64, 64, 64, [R.HI_RING_STAT.FETCHED, R.HI_RING_STAT.IDLE, R.HI_RING_STAT.FETCH_ERR, R.HI_RING_STAT.DB_REJECT]⟩,
  ⟨9, 0x780020, 64, 8192, 64, 64, 64, [R.HI_RING_CQ.PRODUCED, R.HI_RING_CQ.HELD]⟩,
  ⟨9, 0x781000, 32, 8192, 64, 0, 1, [R.HI_FN_LIMIT.RINGS_MAX, R.HI_FN_LIMIT.OVF_QUOTA]⟩,
  ⟨9, 0x781008, 32, 8192, 64, 0, 1, [R.HI_FN_EVT.EVT_RING, R.HI_FN_EVT.EVT_ENABLE]⟩,
  ⟨9, 0x781010, 64, 8192, 64, 0, 1, [R.HI_FN_STAT.RESERVED, R.HI_FN_STAT.HELD, R.HI_FN_STAT.EVT_LOST, R.HI_FN_STAT.CFG_REJECT]⟩,
  ⟨9, 0x781018, 32, 8192, 64, 0, 1, [R.HI_FN_EVT_LOST.COUNT]⟩,
  ⟨9, 0x78101c, 32, 8192, 64, 0, 1, [R.HI_FN_DB_CNT.COUNT]⟩,
  ⟨9, 0x781020, 32, 8192, 64, 0, 1, [R.HI_WIN_SYNC.SYNC]⟩,
  ⟨9, 0x781040, 64, 8192, 64, 0, 1, [R.HI_ARCH_BASE.ADDR]⟩,
  ⟨9, 0x781048, 32, 8192, 64, 0, 1, [R.HI_ARCH_CTL.SLOTS]⟩,
  ⟨9, 0x781050, 32, 8192, 64, 0, 1, [R.HI_ARCH_HEAD.ARCH_HEAD]⟩,
  ⟨9, 0x781054, 32, 8192, 64, 0, 1, [R.HI_ARCH_TAIL.ARCH_TAIL]⟩,
  ⟨9, 0x781800, 64, 8192, 64, 16, 128, [R.WIN_BASE.VALID, R.WIN_BASE.READ, R.WIN_BASE.WRITE, R.WIN_BASE.BASE]⟩,
  ⟨9, 0x781808, 64, 8192, 64, 16, 128, [R.WIN_LIMIT.LIMIT]⟩]

/-- The registers of block 10 (Fabric ports). -/
def regRow10 : List RegInfo := [
  ⟨10, 0x800000, 32, 256, 16, 0, 1, [R.PORT_CTL.LOCK, R.PORT_CTL.ENABLE, R.PORT_CTL.VARIANT, R.PORT_CTL.MAX_WIDTH, R.PORT_CTL.LOOPBACK]⟩,
  ⟨10, 0x800004, 32, 256, 16, 0, 1, [R.PORT_STAT.STATE, R.PORT_STAT.WIDTH, R.PORT_STAT.IN_SERVICE, R.PORT_STAT.RETIRED, R.PORT_STAT.PEER_NODE, R.PORT_STAT.PEER_PORT]⟩,
  ⟨10, 0x800008, 64, 256, 16, 0, 1, [R.PORT_VC_CFG.RX_CELLS_0, R.PORT_VC_CFG.RX_CELLS_1, R.PORT_VC_CFG.RX_CELLS_2, R.PORT_VC_CFG.RX_CELLS_3, R.PORT_VC_CFG.RX_CELLS_4, R.PORT_VC_CFG.RX_CELLS_5, R.PORT_VC_CFG.RX_CELLS_6, R.PORT_VC_CFG.RX_CELLS_7]⟩,
  ⟨10, 0x800010, 32, 256, 16, 0, 1, [R.PORT_LANE_CFG.BURST_SYM, R.PORT_LANE_CFG.TIME_ASYM]⟩,
  ⟨10, 0x800018, 32, 256, 16, 0, 1, [R.PORT_LINK_CFG.REPLAY_WAIT]⟩,
  ⟨10, 0x800020, 64, 256, 16, 0, 1, [R.PORT_FEC_CNT.CORRECTED, R.PORT_FEC_CNT.UNCORRECTABLE]⟩,
  ⟨10, 0x800028, 32, 256, 16, 0, 1, [R.PORT_RETRY_CNT.REPLAYS, R.PORT_RETRY_CNT.BAD_ACK]⟩,
  ⟨10, 0x80002c, 32, 256, 16, 0, 1, [R.PORT_RETRAIN_CNT.RETRAINS, R.PORT_RETRAIN_CNT.DOWNS]⟩,
  ⟨10, 0x800030, 32, 256, 16, 0, 1, [R.PORT_ERR_CNT.CTRL_BAD, R.PORT_ERR_CNT.WORD_BAD]⟩,
  ⟨10, 0x800038, 32, 256, 16, 0, 1, [R.PORT_ERR.CFG_REJECT, R.PORT_ERR.TRAIN_FAIL, R.PORT_ERR.MISWIRE, R.PORT_ERR.LANE_RETIRED]⟩]

/-- The registers of block 11 (Router). -/
def regRow11 : List RegInfo := [
  ⟨11, 0x900000, 32, 0, 1, 0, 1, [R.ROUTE_CTL.LOCK, R.ROUTE_CTL.TOPOLOGY, R.ROUTE_CTL.DIM_X, R.ROUTE_CTL.DIM_Y, R.ROUTE_CTL.DIM_Z, R.ROUTE_CTL.ADAPTIVE]⟩,
  ⟨11, 0x900004, 32, 0, 1, 0, 1, [R.ROUTE_NODE.NODE]⟩,
  ⟨11, 0x900010, 32, 0, 1, 0, 1, [R.ROUTE_NOROUTE_CNT.COUNT]⟩,
  ⟨11, 0x900014, 32, 0, 1, 0, 1, [R.ROUTE_DETOUR_CNT.COUNT]⟩,
  ⟨11, 0x900018, 32, 0, 1, 0, 1, [R.ROUTE_ESCAPE_CNT.COUNT]⟩,
  ⟨11, 0x90001c, 32, 0, 1, 0, 1, [R.ROUTE_ERR.CFG_REJECT]⟩,
  ⟨11, 0x901000, 32, 4, 256, 0, 1, [R.ROUTE_GROUP.PORTS, R.ROUTE_GROUP.VALID]⟩,
  ⟨11, 0x901400, 32, 4, 128, 0, 1, [R.ROUTE_MEMBER.PORTS, R.ROUTE_MEMBER.VALID]⟩,
  ⟨11, 0x904000, 32, 0, 1, 0, 1, [R.TIME_CTL.ROOT, R.TIME_CTL.PERIOD]⟩,
  ⟨11, 0x904008, 64, 0, 1, 0, 1, [R.TIME_NOW.NS]⟩,
  ⟨11, 0x904010, 64, 0, 1, 0, 1, [R.TIME_STAT.LOCKED, R.TIME_STAT.HOLDOVER, R.TIME_STAT.IN_SPEC, R.TIME_STAT.HOPS, R.TIME_STAT.PARENT, R.TIME_STAT.LAST_OFFSET]⟩,
  ⟨11, 0x906000, 32, 0, 1, 0, 1, [R.MER_CUR.EPOCH, R.MER_CUR.PREV]⟩,
  ⟨11, 0x906004, 32, 0, 1, 0, 1, [R.MER_CTL.DRAIN]⟩,
  ⟨11, 0x906008, 32, 0, 1, 0, 1, [R.MER_STAT.DRAINING, R.MER_STAT.STAGED, R.MER_STAT.STAGED_EPOCH]⟩,
  ⟨11, 0x906010, 64, 0, 1, 0, 1, [R.MER_APPLY.APPLY_AT]⟩,
  ⟨11, 0x906018, 32, 0, 1, 0, 1, [R.MER_STALE_CNT.COUNT]⟩,
  ⟨11, 0x90601c, 32, 0, 1, 0, 1, [R.MER_LAG_CNT.COUNT]⟩,
  ⟨11, 0x907000, 32, 4, 1024, 0, 1, [R.MER_LOST.NODE_MAP]⟩,
  ⟨11, 0x908000, 32, 0, 1, 0, 1, [R.COMB_CTL.LOCK, R.COMB_CTL.PART_MERGE, R.COMB_CTL.COLL_TIMEOUT]⟩,
  ⟨11, 0x908004, 32, 0, 1, 0, 1, [R.COMB_STAT.USED, R.COMB_STAT.RESERVED_ENTRIES]⟩,
  ⟨11, 0x908008, 32, 0, 1, 0, 1, [R.COMB_PART_CNT.COUNT]⟩,
  ⟨11, 0x90800c, 32, 0, 1, 0, 1, [R.COMB_COLL_CNT.COUNT]⟩,
  ⟨11, 0x908010, 32, 0, 1, 0, 1, [R.COMB_TIMEOUT_CNT.COUNT]⟩,
  ⟨11, 0x908014, 32, 0, 1, 0, 1, [R.COMB_ERR.CFG_REJECT, R.COMB_ERR.COLL_TIMEOUT, R.COMB_ERR.COLL_MISMATCH]⟩]

/-- The registers of block 12 (Endpoints). -/
def regRow12 : List RegInfo := [
  ⟨12, 0xa00000, 32, 0, 1, 0, 1, [R.EP_CTL.LOCK]⟩,
  ⟨12, 0xa00004, 32, 0, 1, 0, 1, [R.EP_TIMING.ACK_TIMEOUT, R.EP_TIMING.RETRY_LIMIT, R.EP_TIMING.RNR_LIMIT]⟩,
  ⟨12, 0xa00008, 32, 0, 1, 0, 1, [R.EP_MISS.BACKOFF]⟩,
  ⟨12, 0xa00010, 64, 0, 1, 0, 1, [R.EP_STAT.RESIDENT, R.EP_STAT.TOTAL, R.EP_STAT.MISSQ_PD0, R.EP_STAT.MISSQ_PD1]⟩,
  ⟨12, 0xa00020, 32, 0, 1, 0, 1, [R.EP_DUP_CNT.COUNT]⟩,
  ⟨12, 0xa00024, 32, 0, 1, 0, 1, [R.EP_WINDOW_DROP_CNT.COUNT]⟩,
  ⟨12, 0xa00028, 32, 0, 1, 0, 1, [R.EP_GEN_DROP_CNT.COUNT]⟩,
  ⟨12, 0xa0002c, 32, 0, 1, 0, 1, [R.EP_MISS_CNT.COUNT]⟩,
  ⟨12, 0xa00030, 32, 0, 1, 0, 1, [R.EP_RETRY_LATER_CNT.COUNT]⟩,
  ⟨12, 0xa00034, 32, 0, 1, 0, 1, [R.EP_STALE_CNT.COUNT]⟩,
  ⟨12, 0xa00038, 32, 0, 1, 0, 1, [R.EP_BAD_CNT.COUNT]⟩,
  ⟨12, 0xa0003c, 32, 0, 1, 0, 1, [R.EP_COMB_READ_CNT.COUNT]⟩,
  ⟨12, 0xa00040, 32, 0, 1, 0, 1, [R.EP_COMB_ADD_CNT.COUNT]⟩,
  ⟨12, 0xa00044, 32, 0, 1, 0, 1, [R.EP_ERR.CFG_REJECT, R.EP_ERR.WRITEBACK]⟩,
  ⟨12, 0xa01000, 32, 512, 64, 0, 1, [R.FN_EP]⟩,
  ⟨12, 0xa01004, 32, 512, 64, 0, 1, [R.FN_EP_CEIL]⟩,
  ⟨12, 0xa01008, 32, 512, 64, 0, 1, [R.FN_REGIONS_MAX]⟩,
  ⟨12, 0xa0100c, 32, 512, 64, 0, 1, [R.FN_PD_MAX]⟩,
  ⟨12, 0xa01010, 32, 512, 64, 0, 1, [R.FN_PREPOST]⟩,
  ⟨12, 0xa01014, 32, 512, 64, 0, 1, [R.FN_PREPOST_CEIL]⟩,
  ⟨12, 0xa01018, 32, 512, 64, 0, 1, [R.FN_REGIONS]⟩,
  ⟨12, 0xa01100, 32, 512, 64, 32, 8, [R.FWIN_CTL.VALID, R.FWIN_CTL.READ, R.FWIN_CTL.WRITE, R.FWIN_CTL.ATOMIC, R.FWIN_CTL.NODE_LO]⟩,
  ⟨12, 0xa01104, 32, 512, 64, 32, 8, [R.FWIN_NODE_HI.NODE_HI]⟩,
  ⟨12, 0xa01108, 64, 512, 64, 32, 8, [R.FWIN_BASE.BASE]⟩,
  ⟨12, 0xa01110, 64, 512, 64, 32, 8, [R.FWIN_LIMIT.LIMIT]⟩]

/-- The registers of block 13 (Queues and cell pool). -/
def regRow13 : List RegInfo := [
  ⟨13, 0xb00000, 32, 0, 1, 0, 1, [R.QM_CTL.LOCK, R.QM_CTL.SHARED_MIN]⟩,
  ⟨13, 0xb00004, 32, 0, 1, 0, 1, [R.QM_BATCH.TIMEOUT]⟩,
  ⟨13, 0xb00010, 64, 8, 2, 0, 1, [R.QM_POOL_STAT.FREE, R.QM_POOL_STAT.RESERVED, R.QM_POOL_STAT.SHARED_USED]⟩,
  ⟨13, 0xb00020, 32, 0, 1, 0, 1, [R.QM_FLUSH.QUEUE, R.QM_FLUSH.GO]⟩,
  ⟨13, 0xb00024, 32, 0, 1, 0, 1, [R.QM_FLUSH_CNT.COUNT]⟩,
  ⟨13, 0xb00028, 32, 0, 1, 0, 1, [R.QM_TIMEOUT_CNT.COUNT]⟩,
  ⟨13, 0xb0002c, 32, 0, 1, 0, 1, [R.QM_ERR.CFG_REJECT, R.QM_ERR.NO_MARK, R.QM_ERR.STALE]⟩,
  ⟨13, 0xb00040, 32, 0, 1, 0, 1, [R.QD_SEL.QUEUE]⟩,
  ⟨13, 0xb00048, 64, 8, 4, 0, 1, [R.QD_DATA.DESCRIPTOR]⟩,
  ⟨13, 0xb00080, 32, 0, 1, 0, 1, [R.QSTAT_SEL.QUEUE]⟩,
  ⟨13, 0xb00088, 64, 0, 1, 0, 1, [R.QSTAT_DEPTH.MIN, R.QSTAT_DEPTH.MAX]⟩,
  ⟨13, 0xb00090, 64, 0, 1, 0, 1, [R.QSTAT_DELAY.MIN, R.QSTAT_DELAY.MAX]⟩,
  ⟨13, 0xb00098, 64, 0, 1, 0, 1, [R.QSTAT_AVG.AVG_DEPTH, R.QSTAT_AVG.AVG_DELAY]⟩,
  ⟨13, 0xb000a0, 32, 0, 1, 0, 1, [R.QSTAT_CNT.SAMPLES]⟩,
  ⟨13, 0xb000c0, 64, 0, 1, 0, 1, [R.QTEL_BASE.LOG2, R.QTEL_BASE.ENABLE, R.QTEL_BASE.ADDR]⟩,
  ⟨13, 0xb000c8, 32, 0, 1, 0, 1, [R.QTEL_TAIL.TAIL]⟩,
  ⟨13, 0xb000cc, 32, 0, 1, 0, 1, [R.QTEL_HEAD.HEAD]⟩,
  ⟨13, 0xb000d0, 32, 0, 1, 0, 1, [R.QTEL_LOST.COUNT]⟩,
  ⟨13, 0xb00100, 32, 4, 256, 0, 1, [R.QTEL_LIST.QUEUE, R.QTEL_LIST.VALID]⟩,
  ⟨13, 0xb01000, 32, 16, 64, 0, 1, [R.FN_QCELLS]⟩,
  ⟨13, 0xb01004, 32, 16, 64, 0, 1, [R.FN_QCELL_CEIL]⟩]

/-- The registers of block 14 (Shaper). -/
def regRow14 : List RegInfo := [
  ⟨14, 0xc00000, 32, 0, 1, 0, 1, [R.SHP_CTL.LOCK]⟩,
  ⟨14, 0xc00008, 64, 0, 1, 0, 1, [R.SHP_CLASS_MAP.CLASS_0, R.SHP_CLASS_MAP.CLASS_1, R.SHP_CLASS_MAP.CLASS_2, R.SHP_CLASS_MAP.CLASS_3, R.SHP_CLASS_MAP.CLASS_4, R.SHP_CLASS_MAP.CLASS_5, R.SHP_CLASS_MAP.CLASS_6, R.SHP_CLASS_MAP.CLASS_7, R.SHP_CLASS_MAP.CLASS_8, R.SHP_CLASS_MAP.CLASS_9, R.SHP_CLASS_MAP.CLASS_10, R.SHP_CLASS_MAP.CLASS_11, R.SHP_CLASS_MAP.CLASS_12, R.SHP_CLASS_MAP.CLASS_13, R.SHP_CLASS_MAP.CLASS_14, R.SHP_CLASS_MAP.CLASS_15]⟩,
  ⟨14, 0xc00010, 32, 0, 1, 0, 1, [R.SHP_ERR.CFG_REJECT]⟩,
  ⟨14, 0xc00100, 64, 16, 16, 0, 1, [R.SHP_PORT_CLS.WEIGHT_0, R.SHP_PORT_CLS.STRICT_0, R.SHP_PORT_CLS.WEIGHT_1, R.SHP_PORT_CLS.STRICT_1, R.SHP_PORT_CLS.WEIGHT_2, R.SHP_PORT_CLS.STRICT_2, R.SHP_PORT_CLS.WEIGHT_3, R.SHP_PORT_CLS.STRICT_3, R.SHP_PORT_CLS.WEIGHT_4, R.SHP_PORT_CLS.STRICT_4, R.SHP_PORT_CLS.WEIGHT_5, R.SHP_PORT_CLS.STRICT_5, R.SHP_PORT_CLS.WEIGHT_6, R.SHP_PORT_CLS.STRICT_6, R.SHP_PORT_CLS.WEIGHT_7, R.SHP_PORT_CLS.STRICT_7]⟩,
  ⟨14, 0xc00108, 32, 16, 16, 0, 1, [R.SHP_GATE_CTL.GATE_EN, R.SHP_GATE_CTL.ACTIVE, R.SHP_GATE_CTL.SWAP, R.SHP_GATE_CTL.LEN_A, R.SHP_GATE_CTL.LEN_B]⟩,
  ⟨14, 0xc00800, 32, 8, 16, 0, 1, [R.SHP_GATE_BASE.OFFSET]⟩,
  ⟨14, 0xc04000, 16, 1024, 2, 2, 512, [R.SHP_SEL.QUEUE, R.SHP_SEL.VALID]⟩,
  ⟨14, 0xc08000, 32, 2048, 16, 4, 512, [R.SHP_GCL.ENTRY]⟩,
  ⟨14, 0xc10000, 64, 16, 8192, 0, 1, [R.SHQ_CFG.RATE, R.SHQ_CFG.SHAPE_EN, R.SHQ_CFG.TOKEN_INIT, R.SHQ_CFG.BURST]⟩,
  ⟨14, 0xc10008, 32, 16, 8192, 0, 1, [R.SHQ_STAT.TOKENS]⟩,
  ⟨14, 0xc1000c, 32, 16, 8192, 0, 1, [R.SHQ_HELD.COUNT]⟩]

/-- The registers of block 15 (Sync counters). -/
def regRow15 : List RegInfo := [
  ⟨15, 0xd00000, 32, 0, 1, 0, 1, [R.SYNC_CTL.LOCK]⟩,
  ⟨15, 0xd00008, 32, 0, 1, 0, 1, [R.SYNC_STAT.ARMED]⟩,
  ⟨15, 0xd00010, 32, 0, 1, 0, 1, [R.SYNC_FIRE_CNT.COUNT]⟩,
  ⟨15, 0xd00014, 32, 0, 1, 0, 1, [R.SYNC_TIMEOUT_CNT.COUNT]⟩,
  ⟨15, 0xd00018, 32, 0, 1, 0, 1, [R.SYNC_ERR.CFG_REJECT, R.SYNC_ERR.OVERFLOW, R.SYNC_ERR.SET_REJECT]⟩,
  ⟨15, 0xd01000, 64, 16, 64, 0, 1, [R.SYNC_FN_BASE.SYNC_BASE, R.SYNC_FN_COUNT.SYNC_COUNT]⟩]

/-- The registers of block 16 (Security). -/
def regRow16 : List RegInfo := [
  ⟨16, 0xe00000, 64, 0, 1, 0, 1, [R.SEC_STAT.CLAIMED, R.SEC_STAT.FW_SLOT, R.SEC_STAT.SVN, R.SEC_STAT.SEALED, R.SEC_STAT.RELEASED, R.SEC_STAT.AUTH_FAIL]⟩,
  ⟨16, 0xe00010, 64, 8, 6, 0, 1, [R.SEC_ID.ID_DIGEST]⟩,
  ⟨16, 0xe00100, 64, 16, 16, 0, 1, [R.SEC_CONST.CONSTELLATION_ID, R.SEC_CONST.KEY_GEN]⟩,
  ⟨16, 0xe00108, 64, 16, 16, 0, 1, [R.SEC_CONST_HI.VALID, R.SEC_CONST_HI.RELEASED, R.SEC_CONST_HI.MEMBERS]⟩,
  ⟨16, 0xe00200, 64, 0, 1, 0, 1, [R.BRIM_STAT.INJECT_HELD, R.BRIM_STAT.WATCHDOG]⟩]

/-- The registers of block 17 (Telemetry and level mode, faults). -/
def regRow17 : List RegInfo := [
  ⟨17, 0xf00000, 32, 0, 1, 0, 1, [R.LVL_CTL.LOCK, R.LVL_CTL.ENABLE, R.LVL_CTL.FILL_EN, R.LVL_CTL.TCLK_MIN, R.LVL_CTL.TCLK_MAX]⟩,
  ⟨17, 0xf00004, 32, 0, 1, 0, 1, [R.LVL_SET.SET_W, R.LVL_SET.SLEW]⟩,
  ⟨17, 0xf00008, 32, 0, 1, 0, 1, [R.LVL_FILL.MAX_W]⟩,
  ⟨17, 0xf0000c, 32, 0, 1, 0, 1, [R.PWR_CEIL.CEIL, R.PWR_CEIL.FUSED]⟩,
  ⟨17, 0xf00010, 64, 0, 1, 0, 1, [R.PWR_MEAS.INPUT_W, R.PWR_MEAS.WINDOW_W, R.PWR_MEAS.HEAT_W, R.PWR_MEAS.VIN]⟩,
  ⟨17, 0xf00018, 64, 0, 1, 0, 1, [R.PWR_ENERGY.HEAT_J]⟩,
  ⟨17, 0xf00020, 32, 0, 1, 0, 1, [R.LVL_STAT.HOLDING, R.LVL_STAT.BELOW, R.LVL_STAT.ABOVE, R.LVL_STAT.ADMIT_HELD, R.LVL_STAT.FILLING, R.LVL_STAT.CEIL_WIN, R.LVL_STAT.TCLK]⟩,
  ⟨17, 0xf00028, 64, 0, 1, 0, 1, [R.THERM_STAT.INLET, R.THERM_STAT.OUTLET, R.THERM_STAT.CD_MAX, R.THERM_STAT.PD_MAX, R.THERM_STAT.STACK_MAX, R.THERM_STAT.SOFT_THROTTLE, R.THERM_STAT.STACK_HOT]⟩,
  ⟨17, 0xf00030, 32, 0, 1, 0, 1, [R.CEIL_CNT.COUNT]⟩,
  ⟨17, 0xf00034, 32, 0, 1, 0, 1, [R.THERM_CNT.SOFT, R.THERM_CNT.STACK]⟩,
  ⟨17, 0xf00038, 32, 0, 1, 0, 1, [R.LVL_ERR.CFG_REJECT]⟩,
  ⟨17, 0xf08000, 32, 0, 1, 0, 1, [R.FLT_CTL.LOCK, R.FLT_CTL.TILE_FAIL_LIMIT, R.FLT_CTL.T2_DIE_LIMIT]⟩,
  ⟨17, 0xf08004, 32, 0, 1, 0, 1, [R.FLT_PROT.PROT_CEIL]⟩,
  ⟨17, 0xf08008, 32, 0, 1, 0, 1, [R.FLT_PROT_STAT.PROT_USED]⟩,
  ⟨17, 0xf0800c, 32, 0, 1, 0, 1, [R.FLT_ERR.CFG_REJECT]⟩,
  ⟨17, 0xf08010, 64, 0, 1, 0, 1, [R.FLT_STAT.TILES, R.FLT_STAT.NBUS, R.FLT_STAT.PCS, R.FLT_STAT.T2_RANKS, R.FLT_STAT.LANES, R.FLT_STAT.PORTS]⟩,
  ⟨17, 0xf08040, 64, 0, 1, 0, 1, [R.FLT_RET_T2.RANK_MAP]⟩,
  ⟨17, 0xf08048, 64, 0, 1, 0, 1, [R.FLT_RET_LANE.LANE_MAP]⟩,
  ⟨17, 0xf08080, 32, 0, 1, 0, 1, [R.FLT_MOD_HEAD.HEAD]⟩,
  ⟨17, 0xf08084, 32, 0, 1, 0, 1, [R.FLT_MOD_TAIL.TAIL]⟩,
  ⟨17, 0xf08088, 32, 0, 1, 0, 1, [R.FLT_MOD_LOST.COUNT]⟩,
  ⟨17, 0xf08020, 32, 4, 8, 0, 1, [R.FLT_RET_TILE.TILE_MAP]⟩,
  ⟨17, 0xf080c0, 64, 8, 8, 0, 1, [R.FLT_MOD_ENTRY.ENTRY]⟩,
  ⟨17, 0xf0c000, 32, 256, 64, 0, 1, [R.FLT_FN_HEAD.HEAD]⟩,
  ⟨17, 0xf0c004, 32, 256, 64, 0, 1, [R.FLT_FN_TAIL.TAIL]⟩,
  ⟨17, 0xf0c008, 32, 256, 64, 0, 1, [R.FLT_FN_LOST.COUNT]⟩,
  ⟨17, 0xf0c040, 64, 256, 64, 8, 8, [R.FLT_FN_ENTRY.ENTRY]⟩]

/-- Every register, block by block. -/
def regTable : List RegInfo :=
  regRow0 ++ regRow1 ++ regRow2 ++ regRow3 ++ regRow5 ++ regRow7 ++ regRow8 ++ regRow9 ++ regRow10 ++ regRow11 ++ regRow12 ++ regRow13 ++ regRow14 ++ regRow15 ++ regRow16 ++ regRow17

end Sys2Proof.Machine
end

