-- ==== Sys2Proof/Machine/State.lean ====
section
/-! DEFINITION. The state of the module: plain data holding every register, memory, queue, table and mode the spec names, the
reasons a command can stop, and the state after reset. Tables are sparse lists in the canonical form of Machine/Tab.lean. -/

namespace Sys2Proof.Machine

open Sys2Proof

/-- Why the module stops. No command of the spec leaves it without a next state, so there is no reason (log entry 2).
DESIGN CHOICE (safe): log entry 2. -/
inductive Fault where
  deriving DecidableEq, Repr

/-- Why a command is refused.
DESIGN CHOICE (safe): log entry 2. -/
inductive Refusal where
  /-- Raised by the dispatcher alone, for a command that has no meaning yet. Safe: the model stops. -/
  | notModelled (mnemonic : String)
  deriving DecidableEq, Repr

/-! Status codes (R213). -/

/-- The status codes of Table 11-6, in the order of their values. -/
inductive Status where
  | ok | poison | battLength | horizon | displaced | incompleteSpan | epochStale | retryLater | protection | flushed
  | timeout | aborted | keyUnavailable | deviceFault | invalid
  deriving DecidableEq, Repr

/-! Who an item belongs to. -/

/-- What waits or acts: a host descriptor (function, ring, number), a step op of a context (handle), or neither. -/
inductive Who where
  | desc (fn ring num : Nat)
  | ctx (h : Nat)
  | module
  deriving DecidableEq, Repr

/-! Memory (chapter 06). -/

/-- Kinds of fixed regions of T1 and T2 (R83). -/
inductive RegionKind where
  /-- a program image: read-only once loaded -/
  | image
  /-- a context's T1 region -/
  | context
  /-- weights and code tables of a bundle whose LAST piece has been accepted -/
  | bundle
  /-- a bundle's, while its pieces arrive -/
  | loading
  /-- the system area -/
  | system
  deriving DecidableEq, Repr

/-- A fixed region: its base local address, its bytes, its function, and what it holds (program slot, handle or bundle). -/
structure Region where
  base : Nat
  size : Nat
  fn : Nat
  kind : RegionKind
  owner : Nat
  deriving DecidableEq, Repr

/-- The use of a T1 page frame or of a T2 granule run. An unlisted one is free once the start scrub has ended. -/
inductive FrameUse where
  | page (fn span page : Nat)
  /-- destination of a migration in progress, or held for a lent page -/
  | dest (fn span page : Nat)
  | pageTable
  | lent (handle : Nat)
  | scrub
  deriving DecidableEq, Repr

/-- Span states (Table 6-4). -/
inductive SpanSt where
  | free | open | incomplete | freeing
  deriving DecidableEq, Repr

/-- Element formats of a span (Table 6-4). -/
inductive KvFmt where
  | kv8 | kv4 | bf16
  deriving DecidableEq, Repr

/-- Protection modes (R319). -/
inductive Prot where
  | none | mirror | coded
  deriving DecidableEq, Repr

/-- A span descriptor (Table 6-4); `lastRewind` is the fabric time of the last rewind (R146) and `tables` are the generations of its code
table that are held with it (R51, R52, R60). -/
structure Span where
  fn : Nat
  st : SpanSt
  maxTokens : Nat
  layerSlots : Nat
  kvHeads : Nat
  dim : Nat
  fmt : KvFmt
  ilog : Nat
  fixedScale : Bool
  pin : Bool
  t2Attn : Bool
  holed : Bool
  prot : Prot
  base : Nat
  fixedPk : Nat
  fixedPv : Nat
  horizon : Nat
  gen : Nat
  appended : Nat
  tableGen : Nat
  start : Nat
  ptBase : Nat
  handoff : Nat
  lastRewind : Option Nat
  tables : List CodeTable
  deriving DecidableEq, Repr

/-- Page states (Table 6-5). -/
inductive PgSt where
  | unbacked | t1 | t2 | t3 | holed | archived
  deriving DecidableEq, Repr

/-- A page table entry (Table 6-5), with what the module keeps beside it: whether the page was accessed in this ageing period,
the order in which it entered its bucket (R97, R98), which row positions have been written below APPENDED (ROWS counts them, R147), and,
while the page is below T1, its plain contents and poisoned sectors
(the batts decode to them; R59, R60).  -/
structure Pte where
  pk : Nat
  pv : Nat
  st : PgSt
  mig : Bool
  tent : Bool
  psn : Bool
  recalling : Bool
  age : Nat
  battGen : Nat
  frame : Nat
  granule : Nat
  count : Nat
  node : Nat
  handle : Nat
  written : List Nat
  crcBad : Bool
  accessed : Bool
  entered : Nat
  image : List Host.Cell
  imagePsn : List Nat
  deriving DecidableEq, Repr

/-- What a migration moves (R100). -/
inductive MigKind where
  | t1t2 | t2t3 | t2t1 | t3t1 | t3t2 | t3t3 | t1t1 | t2t2
  deriving DecidableEq, Repr

/-- A migration in progress: its kind and its destination. -/
structure Mig where
  kind : MigKind
  frame : Nat
  granule : Nat
  count : Nat
  node : Nat
  handle : Nat
  deriving DecidableEq, Repr

/-- A lending this module has made, or an offer made to it (R103): the peer, the GiB, and whether idle T1 may be lent. -/
structure Lending where
  node : Nat
  gib : Nat
  t1 : Bool
  deriving DecidableEq, Repr

/-- A page this module holds for a borrower (R103, R104): what the borrower sent, where it lies, and whether it has been recalled.
DEDUCED (unsafe): log entry 55. -/
structure LentPage where
  page : LentIn
  inT1 : Bool
  at_ : Nat
  count : Nat
  recalled : Bool
  deriving DecidableEq, Repr

/-- A recall notice received (R103): from which lender, until when, and the pages (page keys) still there. -/
structure RecallIn where
  node : Nat
  deadline : Nat
  pages : List Nat
  deriving DecidableEq, Repr

/-- What a protection copy records of a member it covers (R320): its span, HORIZON and HORIZON_GEN of the last row applied, and the scales
P_K and P_V of each page. -/
structure CopyMember where
  span : Nat
  horizon : Nat
  gen : Nat
  scales : List (Nat × (Nat × Nat))
  deriving DecidableEq, Repr

/-- A protection copy held here (R319, R320): a mirror of one node's span, or, with the eight data nodes ascending, the parity P0 or
(`second`) P1 of a coded group; and its members by node. Copy c lies in the pages of span 2^18 + c, which no function owns or can name, so
its pages age and are demoted as any page is.
DESIGN CHOICE (unsafe): log entry 144. -/
structure ProtCopy where
  nodes : List Nat
  second : Bool
  members : List (Nat × CopyMember)
  deriving DecidableEq, Repr

/-- A sector of T1 or T0 that NBU results have been written to and no fence has covered (R118, R119): for which functions and contexts, and
the values it held before each of them. -/
structure Unfenced where
  by_ : List (Nat × Nat)
  olds : List (List Byte × Bool)
  deriving DecidableEq, Repr

/-- The memory tiers. `mem` holds T0, T1 and T2 bytes by local address, an unlisted byte reading 0 (R93, R344, R346); `psn` the
32-byte lines (address div 32) that are poisoned (R39); `remap` the frame remap table (R129); `fresh` that the scrub of T1 and T2 at start has ended (R346).
DEDUCED (unsafe): log entry 7. -/
structure Memory where
  mem : List Host.Cell
  psn : List Nat
  unfenced : List (Nat × Unfenced)
  remap : List (Nat × Nat)
  fresh1 : Bool
  fresh2 : Bool
  regions : List Region
  frames : List (Nat × FrameUse)
  runs : List (Nat × (Nat × FrameUse))
  deriving DecidableEq, Repr

/-- Spans, pages, migrations, lending, protection. Pages are keyed span × 2^31 + virtual page; `tables` maps a page-table unit
(span × 2^20 + page div 2,048) to its frame; `waits` are the items waiting for a frame, or (true) for granules (R102), each with the keys
of the pages it holds meanwhile (R98);
`prot` the members that hold a protected span's copies (R319); `demoting1` and `demoting2` that the engine is demoting from T1, T2 until the high
mark (R99); `t3keys` the functions whose T3 key exists (R300) and `lentKeys` the lent keys held, node × 64 + function (R301). -/
structure Paging where
  spans : List (Nat × Span)
  ptes : List (Nat × Pte)
  migs : List (Nat × Mig)
  tables : List (Nat × Nat)
  tick : Nat
  waits : List (Who × (Bool × List Nat))
  offers : List (Nat × Lending)
  lendings : List (Nat × Lending)
  lent : List (Nat × LentPage)
  recallsIn : List RecallIn
  prot : List (Nat × List Nat)
  copies : List (Nat × ProtCopy)
  demoting1 : Bool
  demoting2 : Bool
  t3keys : List Nat
  lentKeys : List Nat
  deriving DecidableEq, Repr

/-! The host interface (chapter 11). -/

/-- A completion or event record on its way to the host (Table 11-5, R212), with its interrupt request (R217, R218). -/
structure Rec where
  tag : Nat
  seq : Nat
  status : Status
  opcode : Nat
  event : Bool
  detail : Nat
  result : List Byte
  irq : Bool
  deriving DecidableEq, Repr

/-- An accepted descriptor: its number and 64 bytes, its place in the order of acceptance, and whether it has started (R206,
R207). -/
structure AccDesc where
  num : Nat
  bytes : List Byte
  order : Nat
  started : Bool
  deriving DecidableEq, Repr

/-- A ring pair (R204 to R206, R215, R218): counts, the doorbell values, the descriptors accepted and not completed, the held
records, records written since the last signal, and how often the ring has been enabled again: descriptor n of that pass is number
`pass` × 2^32 + n, so that descriptors in flight from an earlier pass keep numbers of their own. -/
structure Ring where
  fetched : Nat
  tail : Nat
  head : Nat
  produced : Nat
  stopped : Bool
  acc : List AccDesc
  held : List Rec
  unsig : Nat
  pass : Nat
  deriving DecidableEq, Repr

/-- What a function's host side holds beside its registers: its event count, events lost since the last delivered, records of
events waiting while events are disabled, a reset in progress with its discard count, error-log entries added since the last
ERROR_LOG event, the time of that event, and whether a ring of the function has been enabled since the host link went down (R200). -/
structure FnHost where
  events : Nat
  lost : Nat
  waiting : List Rec
  resetting : Option Nat
  logAdded : Nat
  logEvt : Nat
  ringUp : Bool
  deriving DecidableEq, Repr

/-- The host interface. `hostMem` is the model's own: the memory of the host as the module's reads and writes see it; so is
`tlpPsn`, the host bytes (address, count) that come in poisoned TLPs during the command that runs (R198): empty between commands.
DESIGN CHOICE (unsafe): log entry 6. DESIGN CHOICE (unsafe): log entry 98. -/
structure HostIf where
  rings : List (Nat × Ring)
  fns : List (Nat × FnHost)
  msix : List (Nat × Nat)
  msixPba : List Nat
  accepted : Nat
  numVfs : Nat
  linkDown : Bool
  hostMem : List Host.Cell
  tlpPsn : List (Nat × Nat)
  deriving DecidableEq, Repr

/-! Error logs (chapter 16). -/

/-- An error log entry (Table 16-9). -/
structure LogEntry where
  time : Nat
  code : Nat
  status : Status
  flags : Nat
  fn : Nat
  unitKind : Nat
  unit_ : Nat
  context : Nat
  object : Nat
  address : Nat
  detail : List Byte
  lost : Nat
  epoch : Nat
  deriving DecidableEq, Repr

/-- A log: its entries from HEAD on, HEAD and TAIL counts, entries dropped since the last written. -/
structure Log where
  entries : List LogEntry
  head : Nat
  tail : Nat
  dropped : Nat
  deriving DecidableEq, Repr

/-- The logs, the entries kept in management storage, the retirement tables kept there, and the failure times of the rolling
24-hour windows: tiles, NBUs, rows of pseudo-channels, T2 dies (R309, R325). `latest` is the last fault entered in a log since the present
command began: what a MODULE event that the command raises tells of (Table 11-8). -/
structure Faults where
  fnLogs : List (Nat × Log)
  modLog : Log
  kept : List LogEntry
  retTiles : List Nat
  retNbus : List Nat
  retPcs : List Nat
  retRanks : List Nat
  retLanes : List Nat
  clearAsked : List Nat
  tileFails : List (Nat × List Nat)
  nbuFails : List (Nat × List Nat)
  pcRows : List (Nat × List (Nat × Nat))
  t2Lines : List (Nat × List (Nat × Nat))
  deadDies : List Nat
  erasure : List Nat
  latest : Option LogEntry
  deriving DecidableEq, Repr

/-! Contexts and programs (chapter 10). -/

/-- Context states (Table 10-2). -/
inductive CtxSt where
  | free | idle | ready | running | waiting | parked | aborting
  deriving DecidableEq, Repr

/-- A span binding (Table 10-3). -/
structure Binding where
  span : Nat
  valid : Bool
  posBase : Nat
  posStride : Nat
  segStart : Nat
  deriving DecidableEq, Repr

/-- What started the step in progress: a CTX_STEP descriptor or a START_PHASE trigger. -/
inductive StepSrc where
  | desc (fn ring num : Nat)
  | trigger (fn counter : Nat)
  deriving DecidableEq, Repr

/-- A step in progress: what started it, the status of the ops retired so far (R181), whether one asked for a retry, and whether
issue has stopped. -/
structure Step where
  src : StepSrc
  status : Status
  retry : Bool
  stopped : Bool
  deriving DecidableEq, Repr

/-- A step that waits for its context to be idle and resident: what asked for it, its phase (0xFFFF for ENTRY) and the token of
SET_TOKEN. -/
structure QStep where
  src : StepSrc
  phase : Nat
  token : Option Nat
  deriving DecidableEq, Repr

/-- A context (Tables 10-1, 10-3): the state record with its private resume state: poisoned lines of PROGRAM_AREA, the step in
progress, the ops issued and not retired, steps that wait, its receive queues, the ring it was opened on, its scheduling, and whether the
STATE_CRC of its parked record has been judged. -/
structure Ctx where
  fn : Nat
  st : CtxSt
  hw : Nat
  resident : Bool
  program : Nat
  phase : Nat
  op : Nat
  iter : Nat
  home : Nat
  retries : Nat
  seed : Nat
  stepCtr : Nat
  position : Nat
  token : Nat
  sat : Nat
  accepted : Nat
  lastStatus : Status
  faultPhase : Nat
  faultOp : Nat
  workKib : Nat
  t1Base : Nat
  binds : List Binding
  area : List Byte
  areaPsn : List Nat
  step : Option Step
  inflight : List Nat
  queued : List QStep
  queues : List Nat
  ring : Nat
  abort : Bool
  closer : Option Who
  failed : Bool
  badRecord : Bool
  slot : Nat
  quantumOver : Bool
  idleSince : Nat
  unparkSince : Option Nat
  sequencer : Option Nat
  judged : Bool := false
  deriving DecidableEq, Repr

/-- A loaded program (R177): its function and number, where its image lies, its bytes, and the GROUP_IDs of the
groups this module was a member of when it was loaded, each with its member index (R165). -/
structure Program where
  fn : Nat
  id : Nat
  base : Nat
  size : Nat
  groups : List (Nat × Nat)
  deriving DecidableEq, Repr

/-- An armed trigger (R196): the arming function and context, its counter and threshold, body kind and body bytes. Triggers are
keyed in the order of arming. -/
structure Trigger where
  fn : Nat
  ctx : Option Nat
  counter : Nat
  threshold : Nat
  kind : Nat
  body : List Byte
  deriving DecidableEq, Repr

/-- A waiter on a counter (R194): who, the threshold, and the timeout in µs (0 for none). -/
structure Waiter where
  who : Who
  counter : Nat
  threshold : Nat
  timeout : Nat
  deriving DecidableEq, Repr

/-- Contexts, programs, the scheduler and the sync counters. -/
structure Sched where
  ctxs : List (Nat × Ctx)
  programs : List (Nat × Program)
  slices : List (Nat × List (Nat × (Nat × Nat)))
  deficits : List (Nat × Nat)
  slot : Nat
  slotEnd : Nat
  guard : Bool
  counters : List (Nat × Nat)
  triggers : List (Nat × Trigger)
  waiters : List Waiter
  armTick : Nat
  idleTick : Nat
  deriving DecidableEq, Repr

/-! Queues of cells and shaping (chapter 14). -/

/-- An item of a queue: its bytes behind the length slot (or the packet), poison, the node it came from and the contributions it stands
for (R168), the bytes of stream it takes, where it starts in the stream, and whether it is the marker of a flush (R274, R276). -/
structure QItem where
  bytes : List Byte
  psn : Bool
  node : Nat
  contrib : Nat
  start : Nat
  size : Nat
  marker : Bool
  deriving DecidableEq, Repr

/-- A queue (Table 14-3): who owns it, its flags, and its stream positions in bytes since it was opened: MARK, HEAD and TAIL. `items`
are the complete items not yet freed, oldest first; `openItem` is the item the producer has open; `dropping` that the producer's item
was dropped by a flush; `spare` that the cell at TAIL is already held (after a flush); `restart` when the stale timer restarted,
`headSince` when the head item became the head, `flushed` that a flush came since the last sample; then the statistics of R284. -/
structure Queue where
  fn : Nat
  module_ : Bool
  slots : Bool
  marked : Bool
  action : Nat
  statEn : Bool
  fixed : Bool
  mark : Nat
  head : Nat
  tail : Nat
  items : List QItem
  openItem : Option (Nat × List Byte)
  dropping : Bool
  spare : Bool
  reserve : Nat
  limit : Nat
  timeout : Nat
  restart : Nat
  headSince : Nat
  flushed : Bool
  depthMin : Nat
  depthMax : Nat
  depthSum : Nat
  delayMin : Nat
  delayMax : Nat
  delaySum : Nat
  samples : Nat
  deriving DecidableEq, Repr

/-- A token bucket (R281): tokens in 1/8,000 byte, and the time they were last brought up to date.
DESIGN CHOICE (unsafe): log entry 34. -/
structure Bucket where
  tokens : Nat
  last : Nat
  deriving DecidableEq, Repr

/-- The queue manager and shaper: open queues by number (a fixed queue is listed once it holds anything), RX_CELLS × 16 of each port's
VCs as taken at link-up (key port × 8 + VC), the buckets, and the sample times so far (R284), which an unlisted fixed queue has met empty. -/
structure QueueMgr where
  queues : List (Nat × Queue)
  rx : List (Nat × Nat)
  buckets : List (Nat × Bucket)
  ticks : Nat
  deriving DecidableEq, Repr

/-! Near-bank units, attention, ring mode, collectives (chapters 07 to 09). -/

/-- A partial of one query head (R137): running maximum, sum of weights, weighted sum, poison, whether any of that poison came from a
batt fault (R40), the rows read: the lowest and one above the highest, equal when none, and whether a merge formed it (R140). -/
structure Partial where
  m : W32
  l : W32
  o : List W32
  psn : Bool
  batt : Bool
  first : Nat
  last : Nat
  merged : Bool
  deriving DecidableEq, Repr

/-- What one stack's NBUs share or pass on (R110, R114): the operand buffer as last broadcast with the activation scale; what each NBU (by
bank pair) gives to the chain: parts of output rows, a sum of squares with its element count, and partials of query heads; whether the
chain head leaves the activation scale out, and whether its rows leave it as BF16 (Table 7-3); and the transfers held by the governor, oldest
first, each external (true) or internal and its sectors (R127). -/
structure StackSt where
  opBuf : List (Byte × Bool)
  scale : W32 × Bool
  rows : List (Nat × List (Nat × (W32 × Bool)))
  sumsq : List (Nat × ((W32 × Bool) × Nat))
  parts : List (Nat × List (Nat × Partial))
  noScale : Bool
  outBf : Bool
  held : List (Bool × Nat)
  deriving DecidableEq, Repr

/-- The stacks; refreshes postponed for a bank pair (key stack × 512 + n); and of each NBU the reads that succeeded on a retry and its
suspended strides (NBU_INFO). -/
structure NbuSt where
  perStack : List (Nat × StackSt)
  postponed : List (Nat × Nat)
  retries : List (Nat × Nat)
  suspensions : List (Nat × Nat)
  deriving DecidableEq, Repr

/-- A remote partial request outstanding at a lender (R145): its pages, and the answer's partials, one for each head. -/
structure RemoteReq where
  node : Nat
  pages : List Nat
  first : Nat
  answer : Option (List Partial)
  deriving DecidableEq, Repr

/-- An attention operation that waits for lenders: who asked and at which op, what was computed here for each head, the requests out, the
status met so far, the time of dispatch, the saturations of its queries (R36) and whether a chain computed any of it (R118). -/
structure AttnWait where
  who : Who
  idx : Nat
  req : AttnReq
  own : List Partial
  remotes : List (Nat × RemoteReq)
  status : Status
  since : Nat
  sat : Nat
  chain : Bool
  deriving DecidableEq, Repr

/-- A partial record received for a merge (Table 8-5): where from, its fields, and the contributions it stands for (R168). -/
structure PartRec where
  node : Nat
  ctx : Nat
  qhead : Nat
  kvHead : Nat
  tent : Bool
  oBf16 : Bool
  merged : Bool
  gen : Nat
  epoch : Nat
  contrib : Nat
  part : Partial
  deriving DecidableEq, Repr

/-- A merge op in progress: records accepted in order of arrival, newer ones held with the time each came, the status met so far, the
heads of rejected records, the contributions received and the op's epoch. -/
structure MergeSt where
  got : List PartRec
  newer : List (PartRec × Nat)
  status : Status
  bad : List Nat
  count : Nat
  epoch : Nat
  deriving DecidableEq, Repr

/-- The parameters of a ring op (Table 9-2), as its record in PROGRAM_AREA gives them, with the bytes of a slot and the sync counters to which
the successor and the predecessor return slot credits.
DESIGN CHOICE (safe): log entry 24. -/
structure RingParams where
  members : List Nat
  position : Nat
  bothWays : Bool
  span : Nat
  slot : Nat
  kvHeads : Nat
  dim : Nat
  fmt : KvFmt
  ilog : Nat
  strided : Bool
  length : Nat
  queries : Nat
  hPerKv : Nat
  posQ0 : Nat
  sQk : W32
  bias : Nat
  window : Nat
  sinks : Nat
  segStart : Nat
  oBf16 : Bool
  tentative : Bool
  epoch : Nat
  slots : Nat
  slotBytes : Nat
  creditFwd : Nat
  creditBwd : Nat
  deriving DecidableEq, Repr

/-- The page partials of a ring: the step and direction and page they belong to, the bytes the page takes in its slot, and a partial for each
(token, head). -/
structure RingPart where
  step : Nat
  dir : Nat
  vpage : Nat
  size : Nat
  parts : List Partial
  deriving DecidableEq, Repr

/-- A page that waits to be sent to a neighbour (R159): the half it belongs to, counted from the member's own as 1, and its direction; its
header, the code table record before it (or none), and its batts, each with whether it holds poison. -/
structure RingSend where
  half : Nat
  dir : Nat
  header : List Byte
  table : List Byte
  batts : List (List Byte × Bool)
  deriving DecidableEq, Repr

/-- A message of a ring as it arrives: a page (R158), or a close of an origin (R161). -/
inductive RingMsg where
  | page (header table : List Byte) (batts : List (List Byte × Bool))
  | close (origin gen epoch : Nat)
  deriving DecidableEq, Repr

/-- A ring op in progress on this member: the context's handle and op, its parameters and queries, page partials so far, the header GEN
of each origin and its close value, the halves (origin × 2 + direction) wholly received, the time of the last page or close, the code table
records by half, the pages that wait to be sent, the credit counters' values at the start, and the (step, direction) of the halves wholly
received whose slot is not yet free. -/
structure RingSt where
  idx : Nat
  par : RingParams
  req : AttnReq
  rows : List RingPart
  gens : List (Nat × Nat)
  closes : List (Nat × Nat)
  halves : List Nat
  last : Nat
  tables : List (Nat × List Byte)
  queue : List RingSend
  base : Nat × Nat
  owed : List (Nat × Nat)
  deriving DecidableEq, Repr

/-- A collective at this node (R165 to R167): its kind (0 SUM, 1 ALL_SUM, 2 BROADCAST, 3 GATHER), element count, BF16 setting and epoch;
this member's contribution and its children's, each by member index and elements with poison; the waiting op; the slot of the program whose
op was issued here; a marker's status that came before the op; whether the node's own part has gone up; and the time of its first
contribution. -/
structure CollSt where
  kind : Nat
  count : Nat
  bf16 : Bool
  epoch : Nat
  own : Option (List (W32 × Bool))
  kids : List (Nat × List (W32 × Bool))
  who : Option (Nat × Nat)
  prog : Option Nat
  failed : Option Status
  sentUp : Bool
  since : Nat
  deriving DecidableEq, Repr

/-- Attention, merges (key handle × 65,536 + op), rings (key handle) and collectives (key of GROUP_ID, collective id as STEP_CTR × 65,536 + op,
and epoch) in progress; requests are numbered; and ring messages held, each with its arrival and the handle: of a newer epoch (R314), or of a
ring whose op is not issued yet. -/
structure AttnSt where
  waits : List (Nat × AttnWait)
  nextReq : Nat
  merges : List (Nat × MergeSt)
  rings : List (Nat × RingSt)
  colls : List ((Nat × Nat × Nat) × CollSt)
  ringIn : List (Nat × (Nat × RingMsg))
  deriving DecidableEq, Repr

/-! Tiles (chapters 04, 05). -/

/-- A stream of a tile tensor in a stream buffer (R75 to R77): its descriptor's address and TABLE_GEN, the function and context, whether
T2 may be read, its scale records, how many batts have been read and which are held, how many decoded, the symbols
decoded with their poison, the batt faults met, and the op that claims it. -/
structure StreamSt where
  desc : Nat
  tgen : Nat
  fn : Nat
  ctx : Nat
  t2 : Bool
  scales : List (Byte × Bool)
  next : Nat
  held : List (Nat × List (Byte × Bool))
  decoded : Nat
  syms : List (Nat × Bool)
  status : Status
  claim : Option (Nat × Nat)
  deriving DecidableEq, Repr

/-- An entry of the tensor table directory (R51): a table of a loaded model, and where its record lies in T1. -/
structure TblEnt where
  fn : Nat
  id : Nat
  gen : Nat
  addr : Nat
  deriving DecidableEq, Repr

/-- A table in an expander slot (R51). -/
structure SlotEnt where
  slot : Nat
  fn : Nat
  id : Nat
  gen : Nat
  deriving DecidableEq, Repr

/-- Tiles: streams and queued hints by tile × 4 + buffer, a hint being a descriptor address with its function and context; expander
slots by tile, least recently used first; and the tensor table directory. -/
structure Tiles where
  streams : List (Nat × StreamSt)
  hints : List (Nat × (Nat × Nat × Nat))
  slots : List (Nat × List SlotEnt)
  dir : List TblEnt
  deriving DecidableEq, Repr

/-! Remote access (chapter 13). -/

/-- A packet: its transport header (Table 13-2) and payload, and what it says of a protection copy. -/
structure Pkt where
  ty : Nat
  combine : Bool
  poison : Bool
  trunc : Bool
  detoured : Bool
  detours : Nat
  epLayer : Bool
  fence : Bool
  dst : Nat
  src : Nat
  epoch : Nat
  contrib : Nat
  status : Nat
  ep : Nat
  psn : Nat
  key : Nat
  addr : Nat
  data : List Byte
  copy : Option CopyMsg := none
  deriving DecidableEq, Repr

/-- What takes effect when EXP passes a packet (R252): a write's share of its work request's bytes, an immediate, or a counter add. -/
inductive Late where
  | put (key addr bytes : Nat)
  | imm (value key addr bytes src : Nat)
  | cadd (counter : Nat)
  deriving DecidableEq, Repr

/-- A request packet of a requester: which work it belongs to, where its data go within it, when it was last sent, retransmissions,
RETRY answers, and until when it backs off (R258, R261). -/
structure SentPkt where
  pkt : Pkt
  work : Nat
  off : Nat
  since : Nat
  tries : Nat
  rnr : Nat
  hold : Option Nat
  deriving DecidableEq, Repr

/-- The numbered stream of an endpoint or hidden flow. As target: EXP, the executed PSNs of the window with their statuses, the last 16
atomic results, effects waiting for EXP, fenced requests, bytes written since the last immediate and where they end (key × 2^64 + address). As requester: the next PSN,
packets unanswered and packets that wait. Its state's residency: resident, being fetched, the miss queue with arrival times and dies, last use. -/
structure Conn where
  exp : Nat
  ran : List (Nat × Status)
  results : List (Nat × Nat)
  late : List (Nat × Late)
  fenced : List Pkt
  wrote : Nat
  runEnd : Nat
  psn : Nat
  sent : List SentPkt
  queue : List SentPkt
  resident : Bool
  fetching : Bool
  missq : List (Nat × Nat × Pkt)
  used : Nat
  deriving DecidableEq, Repr

/-- An endpoint (R245). -/
structure Endpoint where
  fn : Nat
  gen : Nat
  pd : Nat
  node : Nat
  remEp : Nat
  modOwned : Bool
  immCq : Bool
  immSync : Bool
  ring : Nat
  ctr : Nat
  stateAddr : Nat
  err : Bool
  imms : Nat
  conn : Conn
  deriving DecidableEq, Repr

/-- A region table entry (R248): kind 0 local, 1 host memory, 2 span rows. An entry not in use keeps its generation. -/
structure RegEnt where
  used : Bool
  gen : Nat
  kind : Nat
  pd : Nat
  rights : Nat
  base : Nat
  len : Nat
  deriving DecidableEq, Repr

/-- A work request or memory-semantic operation in progress: who waits (and which op of a context), the function, packets unanswered,
the status so far, where data read go (host or local address), pieces done as (offset, bytes), and the fetched value. -/
structure Work where
  who : Who
  idx : Nat
  fn : Nat
  kind : Nat
  left : Nat
  status : Status
  toHost : Bool
  addr : Nat
  pieces : List (Nat × Nat)
  result : Nat
  deriving DecidableEq, Repr

/-- A triggered work request waiting for its trigger (R255): function, ring, number, endpoint, tag and counter, and its trigger's key; or a
trigger that fired before its work request was posted. -/
structure PrePost where
  fn : Nat
  ring : Nat
  num : Nat
  ep : Nat
  tag : Nat
  counter : Nat
  trigger : Nat
  deriving DecidableEq, Repr

/-- Remote access: endpoints, last generations of endpoint numbers, hidden flows by peer node, regions (function × 2^24 + index), work,
pre-posted work requests, fired triggers of kind 2 without one, requests of a newer epoch held (with their arrival, R314), and packets that
waited for the state of an endpoint since destroyed (its number, arrival and die; R262). -/
structure Transport where
  eps : List (Nat × Endpoint)
  gens : List (Nat × Nat)
  flows : List (Nat × Conn)
  regions : List (Nat × RegEnt)
  works : List (Nat × Work)
  nextWork : Nat
  pre : List PrePost
  fired : List PrePost
  newer : List (Nat × Pkt)
  orphans : List (Nat × (Nat × Nat × Pkt))
  tick : Nat
  deriving DecidableEq, Repr

/-! Ports, links, router and fabric time (chapter 12). -/

/-- A data flit sent and not acknowledged (R227): VC, FILL, its 256 bytes, and the queue positions that its acknowledgement releases
(output queue, end of a packet within its stream). -/
structure TxFlit where
  vc : Nat
  fill : Bool
  bytes : List Byte
  ends : List (Nat × Nat)
  deriving DecidableEq, Repr

/-- A port's link (R221 to R232, R240). Transmit: data flits sent, those unacknowledged, credits held and the last cumulative count received
of each VC, the VC served last, the packet in progress of each VC as (VC, (class, bytes sent)), the round-robin deficits of VC × 8 + class; flits
sent since training mod 128, the link word being sent, the ACK_SEQ and ACK_VALID and the counts of freed cells that link words have told so far,
whether the next is to carry NAK. Receive: data flits expected next, whether any was accepted, NAK, replayed flits still to discard, cells
freed of each VC, bytes of the head flit of a VC's buffer already consumed, what has left the buffer of a packet still coming in, by VC, link
words seen. Then the time of the last accepted flit, the peer's HELLO (lanes, variant, credits) if it came, lane retrain failures in a
row and retrain times by lane, the lanes that halt the port, and the last SYNC received: its TX_TIME, its arrival, its HOPS and LOCKED. `since` is when the port went down or reformed. -/
structure Port where
  txSeq : Nat
  unacked : List TxFlit
  credits : List Nat
  lastCred : List Nat
  rr : Nat
  cur : List (Nat × (Nat × Nat))
  deficits : List (Nat × Nat)
  txFlits : Nat
  txWord : Nat
  told : Nat × Bool
  toldFreed : List Nat
  nakDue : Bool
  rxSeq : Nat
  rxAny : Bool
  nak : Bool
  drop : Nat
  freed : List Nat
  skip : List (Nat × Nat)
  coming : List (Nat × List Byte)
  words : Nat
  lastFlit : Nat
  hello : Option (Nat × Nat × List Nat)
  fails : List (Nat × Nat)
  retrains : List (Nat × List Nat)
  halted : List Nat
  reform : Bool
  syncTx : Nat
  syncRx : Nat
  peerHops : Nat
  peerLocked : Bool
  since : Nat
  deriving DecidableEq, Repr

/-- A packet that waits at injection (R281, R303): the function it is sent for, if any, and whether it has been counted as held. -/
structure Inject where
  fn : Option Nat
  pkt : Pkt
  counted : Bool
  deriving DecidableEq, Repr

/-- A combine entry (R267): the read forwarded first, when, and the reads absorbed since. -/
structure Comb where
  first : Pkt
  time : Nat
  absorbed : List Pkt
  deriving DecidableEq, Repr

/-- The fabric side: ports, packets waiting at injection, request packets injected by each port in the present window with whether the
window has been counted as held, the servo of fabric time (its parent port, offsets in a row within 1 ns and beyond 10 ns, when holdover
began, the fraction of a ns in 2^-32 and the rate correction in 1/1,000 ppm), and the combine entries of reads. -/
structure Fabric where
  ports : List (Nat × Port)
  inject : List Inject
  window : List (Nat × Nat)
  held : Bool
  parent : Option Nat
  good : Nat
  bad : Nat
  holdover : Option Nat
  frac : Nat
  rate : Int
  comb : List Comb
  deriving DecidableEq, Repr

/-! Meridian epochs (chapter 16). -/

/-- A composition map (R313): its epoch, APPLY_AT, the lost nodes, the group and member routing entries (PORTS with VALID), and the
rebuild target of each lost node. -/
structure FabMap where
  epoch : Nat
  applyAt : Nat
  lost : List Nat
  groups : List (Nat × Nat)
  members : List (Nat × Nat)
  targets : List (Nat × Nat)
  deriving DecidableEq, Repr

/-- The map staged, whether any map has been applied since the last reset, the rebuild targets of the current map, and when its drain
window closes. -/
structure Meridian where
  staged : Option FabMap
  held : Bool
  targets : List (Nat × Nat)
  drainEnd : Nat
  deriving DecidableEq, Repr

/-! Power (chapter 17). -/

/-- What is running (R18, R310, Table 17-6): nothing but the management island in Off; all else held in reset while the fabric reference is
not in tolerance; out of service; or the module is on, in A0, N1 or N2 as PWR_STAT says. -/
inductive PowSt where
  | off | held | outOfService | on
  deriving DecidableEq, Repr

/-- Power, ceilings, level mode and temperatures (R331 to R342). `cause` is what RESET_CAUSE will read at the next start; `needCycle` that a
cold start needs PWR_EN taken low for 10 ms and raised again; `tclkTo` the TCLK change in progress and `tclkNext` the target that
waits behind it; `lvlTclk` the frequency level mode calls for; `target` its target in 1/10 W and whether it moved in the last window; `ceil` 0, or 1 from a
ceiling event until recovery begins, or 2 while it goes on, `halved` that the stacks' allowances are halved by it, `hot` that a temperature raised it, `lowAt` when TCLK
reached 0.6 GHz, `calm` since when the recovery conditions hold, `lastStep` the time of the last step; `ceilIn` and `thermIn` that a ceiling event or
a throttle fell in the present 100 ms window; `cool` since when every junction is below 95 °C, `rising` that TCLK rises after a soft throttle;
`dram` the temperature of each stack's hottest die where known; `tenths` the tenths of a joule behind HEAT_J; `exitAt` when a nap exit is done.
DESIGN CHOICE (unsafe): log entry 19. -/
structure Power where
  st : PowSt
  cause : Nat
  thermLatch : Bool
  leakLatch : Bool
  needCycle : Bool
  tclkTo : Option Nat
  tclkNext : Option Nat
  lvlTclk : Nat
  target : Nat
  moved : Bool
  ceil : Nat
  halved : Bool
  hot : Bool
  lowAt : Option Nat
  calm : Option Nat
  lastStep : Nat
  ceilIn : Bool
  thermIn : Bool
  cool : Option Nat
  rising : Bool
  softStep : Nat
  lvlStep : Nat
  dram : List (Nat × Nat)
  tenths : Nat
  exitAt : Nat
  deriving DecidableEq, Repr

/-! Security (chapter 15). -/

/-- A sealed constellation of the vault (R292): its identifier, key generation, members and whether it is released (R294). -/
structure Constellation where
  id : Nat
  keyGen : Nat
  members : List Nat
  released : Bool
  deriving DecidableEq, Repr

/-- A firmware image of slot A or B (R302): its version, security version and whether its signature is valid. -/
structure Firmware where
  version : Nat
  svn : Nat
  valid : Bool
  deriving DecidableEq, Repr

/-- A bundle being loaded (R297): its function, the bytes accepted so far, whether header and manifest have passed checks 1 to 5, how many
of its sections are placed, and the tables of its directory entries, usable from LAST on. -/
structure BundleSt where
  fn : Nat
  bytes : List Byte
  checked : Bool
  placed : Nat
  tables : List TblEnt
  deriving DecidableEq, Repr

/-- The vault, the credentials and the firmware (R287 to R304). `anchors` are the operator's trust anchors, `alias` that the alias
certificate is held, `publishers` the publisher keys by slot, `sessions` the Barnopa sessions open, `sealed` the vault's slots,
`svn` the anti-rollback fuses, `slots` the images of A (0) and B (1), `running` and `preferred` their slots, `bundles` the
bundles being loaded by handle, `sent` the counter of link-key packets (R299), `releaseAsked` that the next cold start
unclaims the module, and `config` the operator's register values, in the order they are applied: address, bytes, value. -/
structure Security where
  claimed : Bool
  anchors : List Nat
  alias_ : Bool
  publishers : List (Nat × Nat)
  sessions : Nat
  sealed : List (Nat × Constellation)
  svn : Nat
  slots : List (Nat × Firmware)
  running : Nat
  preferred : Nat
  bundles : List (Nat × BundleSt)
  sent : Nat
  releaseAsked : Bool
  config : List (Nat × (Nat × Nat))
  deriving DecidableEq, Repr

/-- What the SPDM responder answers (R288, R289). A digest is given as the content it is of: it changes exactly when that does. -/
inductive SpdmReply where
  /-- SPDM 1.3 -/
  | version (major minor : Nat)
  /-- CERT_CAP, CHAL_CAP, MEAS_CAP with signatures, MEAS_FRESH_CAP -/
  | capabilities (cert chal measSig measFresh : Bool)
  /-- ECDSA P-384 with SHA-384, measurement hash SHA-384 -/
  | algorithms
  /-- the certificate slots that hold a chain -/
  | digests (slots : List Nat)
  /-- a slot's chain -/
  | certificate (slot : Nat)
  /-- a CHALLENGE signed with the device identity key: slot, nonce -/
  | challengeAuth (slot nonce : Nat)
  /-- measurement blocks by index, signed or not, with the nonce -/
  | measurements (signed : Bool) (nonce : Nat) (blocks : List (Nat × List Nat))
  /-- ERROR(UnsupportedRequest) -/
  | unsupported
  /-- an error for a slot that holds no chain or a block that does not exist -/
  | invalid
  deriving DecidableEq, Repr

/-! Pins (chapter 19). -/

/-- The levels of the sideband pins (R359, R362, R363), each a Bool that is true while the pin is high; `slotId` the six SLOT_ID
straps. `hostRef` is the level that matters of the host reference's pins: whether the 100 MHz reference is in tolerance (R18).
DESIGN CHOICE (unsafe in part): log entry 16. -/
structure Pins where
  pwrEn : Bool
  pwrGood : Bool
  resetN : Bool
  perstN : Bool
  alertN : Bool
  thermTripN : Bool
  leakN : Bool
  hostRef : Bool
  slotId : Nat
  deriving DecidableEq, Repr

/-! What the module sends to the outside. -/

/-- Something the module sends or signals outside, in the order it happens.
DESIGN CHOICE (safe): log entry 8. DESIGN CHOICE (safe): log entry 60. -/
inductive Out where
  /-- an MSI-X message of a function's vector (R218) -/
  | msix (fn vector : Nat)
  /-- a completion held while the host link is down, reported over Barnopa (R215): function, ring, TAG, STATUS -/
  | heldReport (fn ring tag : Nat) (st : Status)
  /-- a demoted page's batts sent to a lender, encrypted (R99, R104): lender, its handle, the page -/
  | t3Store (node handle : Nat) (page : LentIn)
  /-- pages released at a lender (R92, R103): lender, handles -/
  | t3Release (node : Nat) (handles : List Nat)
  /-- the borrower's acknowledgement of a recall (R103) -/
  | recallAck (node : Nat) (handles : List Nat)
  /-- a recall notice sent to a borrower (R103) -/
  | recallNotice (node : Nat) (handles : List Nat)
  /-- a remote partial request to a lender (R145): request number, lender, its page handles, and the operation: row ranges, query group,
  BIAS entries, S_QK, positions, masks, GEN and EPOCH -/
  | attnReq (id node : Nat) (handles : List Nat) (req : AttnReq)
  /-- records returned to a borrower (R145): borrower, request number, status, one record a head -/
  | partialData (node id : Nat) (st : Status) (records : List (List Byte))
  /-- an error status answered to a peer's request (R145, R249): node, request number, status -/
  | answer (node id : Nat) (st : Status)
  /-- a partial record sent to a receive queue at a node (R139, R279), with the combine bit -/
  | record (node queue : Nat) (combine : Bool) (bytes : List Byte)
  /-- committed rows sent to a mirror or parity member (R319): member, span, layer slot, row, HORIZON, HORIZON_GEN, P_K and P_V on a page's
  first row, row bytes -/
  | protRow (node span slot row horizon gen : Nat) (scales : Option (Nat × Nat)) (bytes : List (Byte × Bool))
  /-- a protection request to a member (R319, R320): member, span, how many members it names, MAX_TOKENS, LAYER_SLOTS, ROW_BYTES -/
  | protect (node span mode tokens slots rowBytes : Nat)
  /-- a ring page sent to a neighbour (R158): node, header, the code table record before it (or none), and its batts, each with whether it
  holds poison -/
  | ringPage (node : Nat) (header table : List Byte) (batts : List (List Byte × Bool))
  /-- a ring close message (R161): node, origin's ring position and HORIZON_GEN, epoch -/
  | ringClose (node origin gen epoch : Nat)
  /-- a ring abort notice (R163) -/
  | ringAbort (node : Nat)
  /-- a slot credit returned to a ring neighbour as an add of 1 to a sync counter of its function (R159): node, counter -/
  | slotCredit (node counter : Nat)
  /-- a collective contribution up the tree, or a result down it (R165 to R167): node, group, collective id, epoch, kind, BF16, the
  member it is of, elements -/
  | coll (node group id epoch kind : Nat) (bf16 down : Bool) (member : Nat) (elems : List (W32 × Bool))
  /-- a collective marker (R167): node, group, collective id, epoch, timeout or mismatch or epoch -/
  | collMarker (node group id epoch : Nat) (st : Status)
  /-- a packet that this module sends to itself by the local port (R234) -/
  | packet (p : Pkt)
  /-- a packet addressed to this module whose last flit has arrived on a port: it goes on to the transport -/
  | arrived (port : Nat) (bytes : List Byte)
  /-- a flit sent on a port: control or data, VC, FILL and SB of its control byte, 256 bytes (R223, R225, R226) -/
  | flit (port : Nat) (control : Bool) (vc : Nat) (fill : Bool) (sb : Nat) (bytes : List Byte)
  /-- IDLE flits sent one after another on a port (R223): the SB bits of each -/
  | idles (port : Nat) (sb : List Nat)
  /-- an ALERT_STAT bit that rose, reported over Barnopa (R355) -/
  | alertRise (block : Nat)
  /-- a queue's stale timer fired with NOTIFY: logged to PF0 and the operator (R278) -/
  | staleQueue (queue : Nat)
  /-- the packetiser sends whole records of a send queue: queue, their bytes (R278) -/
  | packetised (queue : Nat) (bytes : List Byte)
  /-- what a read of a function's BAR0 returns (R4, R350); function 64 is the management controller -/
  | readData (fn addr value : Nat)
  /-- the answer of a Barnopa command to the operator: taken or refused -/
  | barnopa (ok : Bool)
  /-- rows of a lost node's span streamed to its rebuild target (R322): target, lost node, its span, (slot, row), row bytes -/
  | rebuildRow (target node span slot row : Nat) (bytes : List Byte)
  /-- the report at the end of a 100 ms window, over the telemetry ring and Barnopa (R337): input W, heat W, joules -/
  | powerReport (input heat joules : Nat)
  /-- an SPDM answer over a function's DOE mailbox, or (function 64) over Barnopa (R288) -/
  | spdm (fn : Nat) (r : SpdmReply)
  /-- SLOT_ID, reported over Barnopa with every session (R359) -/
  | slotId (slot : Nat)
  /-- the alias certificate request of a claim session (R291) -/
  | aliasRequest
  /-- a packet of weights encrypted under the link key (R299): node, constellation, generation, the vault's counter, what it encrypts, and
  whether that holds poison (R39) -/
  | linkPacket (node id keyGen counter : Nat) (bytes : List Byte) (poison : Bool)
  /-- the end of a transfer of weights from a replica (R299): node, base of the region, status -/
  | restored (node base : Nat) (st : Status)
  /-- an SMBus read acknowledged with its data, or an SMBus transfer negative-acknowledged (R364) -/
  | smbus (data : Option (List Byte))
  /-- work in flight at a module reset, reported over Barnopa (R311): function, reservations, held records -/
  | workInFlight (fn reserved held : Nat)
  /-- the notice of a function's reset that a borrower sends to a lender (R301): lender, function -/
  | resetNotice (node fn : Nat)
  /-- a log entry reported to the operator (R308, R325) -/
  | report (code : Nat)
  deriving DecidableEq, Repr

/-- The state of the module. -/
structure State where
  /-- the commands that are waiting, first in, first out -/
  pending : List Instr
  /-- free values taken so far (the model's own) -/
  freeCtr : Nat
  regs : List (Nat × Nat)
  mm : Memory
  pg : Paging
  host : HostIf
  flt : Faults
  sch : Sched
  qm : QueueMgr
  nbu : NbuSt
  attn : AttnSt
  tl : Tiles
  tr : Transport
  fab : Fabric
  mer : Meridian
  pow : Power
  sec : Security
  pins : Pins
  out : List Out
  deriving DecidableEq, Repr

/-- The fixed part of the system area (R84): the highest 1 GiB of T1. Where it lies and how large it is are the model's choice
(log entry 13).
DESIGN CHOICE (unsafe): log entry 13. -/
def sysRegion : Region := ⟨0x01FFC0000000, 0x40000000, 0, .system, 0⟩

/-- The module right after a cold start has reached A0 (R344, R346): every register at its Reset column, memory clear and
waiting to be scrubbed, nothing created, opened or loaded. Values no rule gives are named in the assumption log.
DESIGN CHOICE (unsafe): log entry 3. DESIGN CHOICE (unsafe): log entry 19. -/
def State.reset : State where
  pending := []
  freeCtr := 0
  regs := []
  mm := { mem := [], psn := [], unfenced := [], remap := [], fresh1 := false, fresh2 := false, regions := [sysRegion],
          frames := [], runs := [] }
  pg := { spans := [], ptes := [], migs := [], tables := [], tick := 0, waits := [], offers := [], lendings := [], lent := [],
          recallsIn := [], prot := [], copies := [], demoting1 := false, demoting2 := false, t3keys := [], lentKeys := [] }
  host := { rings := [], fns := [], msix := [], msixPba := [], accepted := 0, numVfs := 0, linkDown := true, hostMem := [], tlpPsn := [] }
  flt := { fnLogs := [], modLog := ⟨[], 0, 0, 0⟩, kept := [], retTiles := [], retNbus := [], retPcs := [], retRanks := [],
           retLanes := [], clearAsked := [], tileFails := [], nbuFails := [], pcRows := [], t2Lines := [], deadDies := [],
           erasure := [], latest := none }
  sch := { ctxs := [], programs := [], slices := [], deficits := [], slot := 0, slotEnd := 0, guard := false, counters := [],
           triggers := [], waiters := [], armTick := 0, idleTick := 0 }
  qm := { queues := [], rx := [], buckets := [], ticks := 0 }
  nbu := { perStack := [], postponed := [], retries := [], suspensions := [] }
  attn := { waits := [], nextReq := 0, merges := [], rings := [], colls := [], ringIn := [] }
  tl := { streams := [], hints := [], slots := [], dir := [] }
  tr := { eps := [], gens := [], flows := [], regions := [], works := [], nextWork := 0, pre := [], fired := [], newer := [], orphans := [], tick := 0 }
  fab := { ports := [], inject := [], window := [], held := false, parent := none, good := 0, bad := 0, holdover := none, frac := 0, rate := 0, comb := [] }
  mer := { staged := none, held := false, targets := [], drainEnd := 0 }
  pow := { st := .on, cause := 0, thermLatch := false, leakLatch := false, needCycle := false, tclkTo := none, tclkNext := none,
           lvlTclk := 16, target := 0, moved := false, ceil := 0, halved := false, hot := false, lowAt := none, calm := none, lastStep := 0,
           ceilIn := false, thermIn := false, cool := none, rising := false, softStep := 0, lvlStep := 0, dram := [], tenths := 0, exitAt := 0 }
  sec := { claimed := false, anchors := [], alias_ := false, publishers := [], sessions := 0, sealed := [], svn := 0,
           slots := [(0, ⟨0, 0, true⟩)], running := 0, preferred := 0, bundles := [], sent := 0, releaseAsked := false, config := [] }
  pins := { pwrEn := true, pwrGood := true, resetN := true, perstN := true, alertN := true, thermTripN := true, leakN := true,
            hostRef := false, slotId := 63 }
  out := []

end Sys2Proof.Machine
end

