-- ==== Sys2Proof/Machine/Ops.lean ====
section
/-! DEFINITION. The named operations over registers, memory, logs, rings and completions that every command uses. -/

namespace Sys2Proof.Machine

open Sys2Proof

/-! Status order (R214). -/

/-- The value of a status code (Table 11-6). -/
def Status.val : Status → Nat
  | .ok => 0x00 | .poison => 0x01 | .battLength => 0x02 | .horizon => 0x03 | .displaced => 0x04
  | .incompleteSpan => 0x05 | .epochStale => 0x06 | .retryLater => 0x07 | .protection => 0x08 | .flushed => 0x09
  | .timeout => 0x0A | .aborted => 0x0B | .keyUnavailable => 0x0C | .deviceFault => 0x0D | .invalid => 0x0E

/-- The place of a status in the order of R214, the first to apply lowest. -/
def Status.rank : Status → Nat
  | .invalid => 1 | .protection => 2 | .keyUnavailable => 3 | .incompleteSpan => 4 | .aborted => 5 | .deviceFault => 6
  | .retryLater => 7 | .flushed => 8 | .displaced => 9 | .epochStale => 10 | .horizon => 11 | .timeout => 12
  | .battLength => 13 | .poison => 14 | .ok => 15

/-- The status of an item to which both apply (R214).
DEDUCED (unsafe): log entry 125. -/
def Status.worse (a b : Status) : Status := if b.rank < a.rank then b else a

/-- Status of a result: poison if any of it is. -/
def psnStatus (p : Bool) : Status := if p then .poison else .ok

/-! Registers. -/

/-- The bit address of a field of entry (i, j): where the register store keeps it. -/
def Fld.key (f : Fld) (i j : Nat) : Nat := (f.addr + i * f.s1 + j * f.s2) * 8 + f.lo

/-- The reset value of a field of entry i. -/
def Fld.rstOf (f : Fld) (i : Nat) : Nat := f.rst + i * f.rstep

/-- The all-ones value of a field. -/
def Fld.max (f : Fld) : Nat := 2 ^ f.wd - 1

/-- A field of entry (i, j). -/
def State.fld (s : State) (f : Fld) (i : Nat := 0) (j : Nat := 0) : Nat := Tab.get (f.rstOf i) (f.key i j) s.regs

/-- A bit field read as a Bool. -/
def State.flag (s : State) (f : Fld) (i : Nat := 0) (j : Nat := 0) : Bool := s.fld f i j == 1

/-- A field set. -/
def State.setFld (s : State) (f : Fld) (v : Nat) (i : Nat := 0) (j : Nat := 0) : State :=
  { s with regs := Tab.put (f.rstOf i) (f.key i j) (v % 2 ^ f.wd) s.regs }

/-- A counter increased, saturating at its all-ones value (R7). -/
def State.incFld (s : State) (f : Fld) (n : Nat := 1) (i : Nat := 0) (j : Nat := 0) : State :=
  s.setFld f (satTo f.max (s.fld f i j + n)) i j

/-- A register's fields at an entry returned to default (R9). -/
def State.defaultReg (s : State) (r : RegInfo) (i j : Nat) : State :=
  { s with regs := r.flds.foldl (fun t f => Tab.del (f.key i j) t) s.regs }

/-- Every field whose bit address lies in a byte range returned to default. -/
def State.defaultRange (s : State) (lo hi : Nat) : State :=
  { s with regs := s.regs.filter (fun p => !(lo * 8 ≤ p.1 && p.1 < hi * 8)) }

/-! Free values (Config). -/

/-- The counter of free values moved past `n` more.
DESIGN CHOICE (safe): log entry 4. -/
def State.takeFree (s : State) (n : Nat := 1) : State := { s with freeCtr := s.freeCtr + n }

/-- A number the module picks (R88, R172): what the command says, or, where that is not free, the lowest free one.
DESIGN CHOICE (unsafe in part): log entry 5. -/
def pickFree {V : Type} (t : List (Nat × V)) (lo hi pick : Nat) : Option Nat :=
  if lo ≤ pick ∧ pick < hi ∧ (Tab.find? pick t).isNone then some pick
  else
    let n := Tab.freeFrom lo t
    if n < hi then some n else none

/-! Outside. -/

/-- Something sent outside.
DESIGN CHOICE (safe): log entry 8. -/
def State.emit (s : State) (o : Out) : State := { s with out := s.out ++ [o] }

end Sys2Proof.Machine
end

