-- ==== Sys2Proof/Machine/HostOps.lean ====
section
/-! DEFINITION. Host memory under the window tables (R201), completion and event records (R212 to R218), MSI-X, and the error
logs (R325, R326). -/

namespace Sys2Proof.Machine

open Sys2Proof

/-! Bytes of sparse memories. -/

/-- Bytes read from a sparse memory; an unlisted byte reads 0.
DESIGN CHOICE (unsafe): log entry 6. -/
def cellsRead (m : List Host.Cell) (a n : Nat) : List Byte := (rangeFrom a n).map (fun x => Tab.get 0#8 x m)

/-- Bytes written to a sparse memory, which keeps its canonical form. -/
def cellsWrite (m : List Host.Cell) (a : Nat) : List Byte → List Host.Cell
  | [] => m
  | b :: r => cellsWrite (Tab.put 0#8 a b m) (a + 1) r

/-- The bytes of a range set to zero. -/
def cellsClear (m : List Host.Cell) (a n : Nat) : List Host.Cell := m.filter (fun p => !(a ≤ p.1 && p.1 < a + n))

/-! The window table. -/

/-- Does window entry k of function f admit the bytes (R201)? -/
def winAdmits (s : State) (f k a n : Nat) (write : Bool) : Bool :=
  s.flag R.WIN_BASE.VALID f k && (if write then s.flag R.WIN_BASE.WRITE f k else s.flag R.WIN_BASE.READ f k) &&
    decide (s.fld R.WIN_BASE.BASE f k * 4096 ≤ a) && decide (a + n ≤ s.fld R.WIN_LIMIT.LIMIT f k * 4096 + 4096)

/-- May the module make this host access for function f: wholly inside one valid entry with the right (R201)?
DEDUCED (unsafe): log entry 114. -/
def winOk (s : State) (f a n : Nat) (write : Bool) : Bool :=
  n == 0 || (List.range 128).any (fun k => winAdmits s f k a n write)

/-- What a function's host side holds when nothing is listed for it. -/
def fnHost0 : FnHost := ⟨0, 0, [], none, 0, 0, false⟩

/-- The host side of a function. -/
def State.fnHost (s : State) (f : Nat) : FnHost := Tab.get fnHost0 f s.host.fns

/-- The host side of a function changed. -/
def State.setFnHost (s : State) (f : Nat) (h : FnHost) : State :=
  { s with host := { s.host with fns := Tab.put fnHost0 f h s.host.fns } }

/-- A function whose reset is in progress issues no new host access (R219); with the link down nothing is issued. -/
def hostUp (s : State) (f : Nat) : Bool := !s.host.linkDown && (s.fnHost f).resetting.isNone

/-- Host bytes read for a function, or none where the window table forbids it. -/
def hostRead (s : State) (f a n : Nat) : Option (List Byte) :=
  if hostUp s f && winOk s f a n false then some (cellsRead s.host.hostMem a n) else none

/-- Does a host byte come in a poisoned TLP (R198)? -/
def tlpBad (s : State) (a : Nat) : Bool := s.host.tlpPsn.any (fun q => decide (q.1 ≤ a) && decide (a < q.1 + q.2))

/-- Does any of a range of host bytes come in a poisoned TLP? -/
def hostPsn (s : State) (a n : Nat) : Bool := (rangeFrom a n).any (tlpBad s)

/-- Host bytes read for a function with their poison (R37, R198), or none where the window table forbids it. -/
def hostReadP (s : State) (f a n : Nat) : Option (List (Byte × Bool)) :=
  (hostRead s f a n).map (fun bs => bs.zipIdx.map (fun b => (b.1, tlpBad s (a + b.2))))

/-- The command that runs meets poisoned TLPs. -/
def withTlp (l : List (Nat × Nat)) (s : State) : State := { s with host := { s.host with tlpPsn := l } }

/-- Host bytes written for a function, or none where the window table forbids it. -/
def hostWrite (s : State) (f a : Nat) (bs : List Byte) : Option State :=
  if hostUp s f && winOk s f a bs.length true then
    some { s with host := { s.host with hostMem := cellsWrite s.host.hostMem a bs } }
  else none

/-! Rings. -/

/-- A ring when nothing is listed for it. -/
def ring0 : Ring := ⟨0, 0, 0, 0, false, [], [], 0, 0⟩

/-- The key of ring r of function f. -/
def ringKey (f r : Nat) : Nat := f * 64 + r

/-- Ring r of function f. -/
def State.ring (s : State) (f r : Nat) : Ring := Tab.get ring0 (ringKey f r) s.host.rings

/-- Ring r of function f changed. -/
def State.setRing (s : State) (f r : Nat) (g : Ring) : State :=
  { s with host := { s.host with rings := Tab.put ring0 (ringKey f r) g s.host.rings } }

/-- The rings of a function that hold anything. -/
def State.ringsOf (s : State) (f : Nat) : List Ring :=
  (s.host.rings.filter (fun p => p.1 / 64 = f)).map (·.2)

/-- Reservations of a function: descriptors accepted and not completed (R215). -/
def reservedOf (s : State) (f : Nat) : Nat := ((s.ringsOf f).map (fun r => r.acc.length)).foldl (· + ·) 0

/-- Held records of a function, events waiting for a ring included (R215, R217). -/
def heldOf (s : State) (f : Nat) : Nat :=
  ((s.ringsOf f).map (fun r => r.held.length)).foldl (· + ·) (s.fnHost f).waiting.length

/-- Is the quota of a function full (R215)? -/
def quotaFull (s : State) (f : Nat) : Bool := decide (s.fld R.HI_FN_LIMIT.OVF_QUOTA f ≤ reservedOf s f + heldOf s f)

/-! MSI-X (R218). The table holds four double words a vector; the vector control word resets to masked. -/

/-- The reset value of a double word of the MSI-X table: the mask bit of vector control is 1.
PRESUMED (unsafe): log entry 20. -/
def msixDefault (w : Nat) : Nat := if w = 3 then 1 else 0

/-- The key of double word w of vector v of function f. -/
def msixKey (f v w : Nat) : Nat := (f * 2048 + v) * 4 + w

/-- A double word of the MSI-X table. -/
def msixWord (s : State) (f v w : Nat) : Nat := Tab.get (msixDefault w) (msixKey f v w) s.host.msix

/-- Vectors of a function's table (R218). -/
def vectorsOf (s : State) (f : Nat) : Nat :=
  let v := s.fld R.HI_CTL.VF_VECTORS
  if f = 0 then 2048 - 63 * v else v

/-- A vector signalled: sent, or pended while it is masked. -/
def signalVec (s : State) (f v : Nat) : State :=
  if bitAt (msixWord s f v 3) 0 then { s with host := { s.host with msixPba := NSet.add (f * 2048 + v) s.host.msixPba } }
  else s.emit (.msix f v)

/-- A completion ring's vector signalled, its count of unsignalled records restarted. -/
def signalRing (s : State) (f r : Nat) : State :=
  let g := s.ring f r
  signalVec (s.setRing f r { g with unsig := 0 }) f (s.fld R.HI_RING_CTL.VECTOR f r)

/-! Records. -/

/-- The 32 bytes of a record as record number n of a ring of 2^lg records (Table 11-5). -/
def recBytes (c : Rec) (ovf : Bool) (n lg detail : Nat) : List Byte :=
  leBytes 4 c.tag ++ leBytes 4 c.seq ++ leBytes 1 c.status.val ++ leBytes 1 c.opcode ++
    leBytes 1 (bit c.event + 2 * bit ovf + 128 * ((n / 2 ^ lg + 1) % 2)) ++ leBytes 1 0 ++ leBytes 4 detail ++
    padTo 16 c.result

/-- A record written to its completion ring, unless no slot is free or the window table forbids the write. A delivered event
carries the events lost before it (R217). -/
def putRec (s : State) (f r : Nat) (c : Rec) (ovf : Bool) : Option State :=
  let g := s.ring f r
  let lg := s.fld R.HI_CQ_BASE.CQ_LOG2 f r
  if !s.flag R.HI_RING_CTL.ENABLE f r || decide (2 ^ lg ≤ (g.produced + 2 ^ 32 - g.head) % 2 ^ 32) then none
  else
    let h := s.fnHost f
    let detail := if c.event then h.lost else c.detail
    match hostWrite s f (s.fld R.HI_CQ_BASE.ADDR f r * 4096 + g.produced % 2 ^ lg * 32) (recBytes c ovf g.produced lg detail) with
    | none => none
    | some s =>
      let s := s.setRing f r { g with produced := (g.produced + 1) % 2 ^ 32, unsig := g.unsig + 1 }
      some (if c.event then s.setFnHost f { h with lost := 0 } else s)

/-- May a record be tried on its ring: enabled, link up, a slot free (R215)? Only the window can then forbid it. -/
def slotFree (s : State) (f r : Nat) : Bool :=
  let g := s.ring f r
  hostUp s f && s.flag R.HI_RING_CTL.ENABLE f r &&
    decide ((g.produced + 2 ^ 32 - g.head) % 2 ^ 32 < 2 ^ s.fld R.HI_CQ_BASE.CQ_LOG2 f r)

/-- The interrupt of a record just written directly (R218). -/
def recIrq (s : State) (f r : Nat) (c : Rec) : State :=
  let cnt := s.fld R.HI_RING_CTL.COAL_COUNT f r
  let tm := s.fld R.HI_RING_CTL.COAL_TIME f r
  if c.irq || c.event || (cnt == 0 && tm == 0) || (cnt != 0 && decide (cnt ≤ (s.ring f r).unsig)) then signalRing s f r
  else s

/-- Is the host link down as a function sees it: until the link has trained and a ring of the function has been enabled (R200)? -/
def linkDownFor (s : State) (f : Nat) : Bool := s.host.linkDown || !(s.fnHost f).ringUp

/-- A record delivered directly, or held on its ring's overflow list (R215). While the link is down a held record is also
reported over Barnopa. -/
def deliver (s : State) (f r : Nat) (c : Rec) : State :=
  let g := s.ring f r
  let hold (s : State) : State :=
    let s := s.setRing f r { (s.ring f r) with held := (s.ring f r).held ++ [c] }
    if linkDownFor s f then s.emit (.heldReport f r c.tag c.status) else s
  if !g.held.isEmpty || !slotFree s f r then hold s
  else
    match putRec s f r c false with
    | some s => recIrq s f r c
    | none => hold (s.setFld R.HI_RING_STAT.FETCH_ERR 1 f r)

/-- Held records of a ring delivered in order while slots are free (R215), `k` at most.
DEDUCED (unsafe): log entry 120. -/
def drainGo (f r : Nat) : Nat → State → State
  | 0, s => s
  | k + 1, s =>
    match (s.ring f r).held with
    | [] => s
    | c :: rest =>
      if !slotFree s f r then s
      else
        match putRec s f r c true with
        | none => s.setFld R.HI_RING_STAT.FETCH_ERR 1 f r
        | some s => drainGo f r k (s.setRing f r { (s.ring f r) with held := rest })

/-- A drain of held records: it signals once, after its last record (R218). -/
def drainHeld (s : State) (f r : Nat) : State :=
  let n := (s.ring f r).held.length
  let t := drainGo f r n s
  if (t.ring f r).held.length < n then signalRing t f r else t

/-! Logs (R325, R326). -/

/-- An empty log. -/
def log0 : Log := ⟨[], 0, 0, 0⟩

/-- An entry added to a log of a size: dropped and counted where the log is full. -/
def logAdd (size : Nat) (l : Log) (e : LogEntry) : Log × Bool :=
  if size ≤ l.entries.length then ({ l with dropped := l.dropped + 1 }, false)
  else ({ l with entries := l.entries ++ [{ e with lost := min l.dropped 65535 }], tail := (l.tail + 1) % 2 ^ 32, dropped := 0 }, true)

/-- The log of a function. -/
def State.fnLog (s : State) (f : Nat) : Log := Tab.get log0 f s.flt.fnLogs

/-- An entry to a function's log, with the LOST counter and the count for the next ERROR_LOG event. -/
def logFnRaw (s : State) (f : Nat) (e : LogEntry) : State :=
  let r := logAdd 1024 (s.fnLog f) e
  let s := { s with flt := { s.flt with fnLogs := Tab.put log0 f r.1 s.flt.fnLogs, latest := some e } }
  if r.2 then let h := s.fnHost f; s.setFnHost f { h with logAdded := h.logAdded + 1 }
  else s.incFld R.FLT_FN_LOST.COUNT 1 f

/-- An entry to the module log; the last 4,096 are kept in management storage (R325). -/
def logMod (s : State) (e : LogEntry) : State :=
  let r := logAdd 16384 s.flt.modLog e
  let s := { s with flt := { s.flt with modLog := r.1, latest := some e, kept := (s.flt.kept ++ [e]).drop (s.flt.kept.length + 1 - 4096) } }
  let s := if r.2 then s else s.incFld R.FLT_MOD_LOST.COUNT 1
  s.emit (.report e.code)

/-- Fabric time in ns (R239).
DESIGN CHOICE (unsafe): log entry 9. -/
def State.now (s : State) : Nat := s.fld R.TIME_NOW.NS

/-- The current meridian epoch (R313). -/
def State.epoch (s : State) : Nat := s.fld R.MER_CUR.EPOCH

/-- Does the current map mark a node lost (R316)? -/
def nodeLost (s : State) (n : Nat) : Bool := bitAt (s.fld R.MER_LOST.NODE_MAP (n / 32)) (n % 32)

/-- Is an epoch newer than the module's by 1 to 2^15 (Table 16-4)? -/
def epochNewer (s : State) (r : Nat) : Bool :=
  let d := (r + 2 ^ 16 - s.epoch) % 2 ^ 16
  decide (1 ≤ d) && decide (d ≤ 2 ^ 15) && r != s.fld R.MER_CUR.PREV

/-- Fault codes of the class Permanent (Table 16-1). -/
def permanentCode (c : Nat) : Bool :=
  [0x02, 0x03, 0x07, 0x09, 0x0C, 0x0E, 0x0F, 0x11, 0x12, 0x13, 0x14, 0x15, 0x17, 0x1B, 0x1C, 0x1D, 0x20, 0x21].contains c

/-- An entry with nothing but its code, status, class and function: the rest is filled in by the fault's own rule. -/
def entry0 (s : State) (code : Nat) (st : Status) (f : Nat) : LogEntry :=
  ⟨s.now, code, st, bit (permanentCode code), f, 0, 0, 2 ^ 19 - 1, 0, 0, [], 0, s.epoch⟩

/-! Events (R217). -/

/-- An event record of a function (Table 11-8). -/
def eventRec (s : State) (f code : Nat) (st : Status) (result : List Byte) : Rec :=
  ⟨code, (s.fnHost f).events % 2 ^ 32, st, 0, true, 0, result, true⟩

/-- An event of a function: to the ring of EVT_RING, or waiting in the overflow area while events are disabled. One that
finds the quota full is written to the function's error log as fault 0x24, which may itself give an ERROR_LOG event; `k`
bounds that chain. -/
def eventGo : Nat → Nat → Nat → Status → List Byte → State → State
  | 0, _, _, _, _, s => s
  | k + 1, f, code, st, result, s =>
    let c := eventRec s f code st result
    let h := s.fnHost f
    if h.resetting.isSome then s
    else if quotaFull s f then
      let first := (s.fnLog f).head == (s.fnLog f).tail
      let e := { entry0 s 0x24 st f with detail := leBytes 2 code ++ (padTo 14 result) }
      let s := s.setFnHost f { h with lost := h.lost + 1 }
      let s := (s.incFld R.HI_FN_EVT_LOST.COUNT 1 f).setFld R.HI_FN_STAT.EVT_LOST 1 f
      let s := logFnRaw s f e
      if first then
        let h := s.fnHost f
        eventGo k f 0x02 st (leBytes 4 h.logAdded) (s.setFnHost f { h with logAdded := 0, logEvt := s.now })
      else s
    else
      let s := s.setFnHost f { h with events := h.events + 1 }
      if s.flag R.HI_FN_EVT.EVT_ENABLE f then deliver s f (s.fld R.HI_FN_EVT.EVT_RING f) c
      else
        let s := s.setFnHost f { (s.fnHost f) with waiting := h.waiting ++ [c] }
        if linkDownFor s f then s.emit (.heldReport f (s.fld R.HI_FN_EVT.EVT_RING f) c.tag c.status) else s

/-- An event raised to a function. -/
def raiseEvent (s : State) (f code : Nat) (st : Status) (result : List Byte) : State := eventGo 3 f code st result s

/-- The ERROR_LOG event of a function, giving the entries added since the last one.
DESIGN CHOICE (unsafe in part): log entry 29. -/
def errorLogEvent (s : State) (f : Nat) (st : Status) : State :=
  let h := s.fnHost f
  raiseEvent (s.setFnHost f { h with logAdded := 0, logEvt := s.now }) f 0x02 st (leBytes 4 h.logAdded)

/-- A fault entry to a function's log; going from empty to non-empty raises ERROR_LOG at once (R326). -/
def logFn (s : State) (f : Nat) (e : LogEntry) : State :=
  if 64 ≤ f then logMod s { e with fn := 0, flags := setBits e.flags 2 2 1 } else
  let first := (s.fnLog f).head == (s.fnLog f).tail
  let s := logFnRaw s f e
  if first then errorLogEvent s f e.status else s

/-- A module-wide fault: to the module log only, with FLAGS.MODULE_WIDE (R325). -/
def logModule (s : State) (e : LogEntry) : State := logMod s { e with flags := setBits e.flags 2 2 1 }

/-- A permanent fault of a channel that a function owns the work of: both logs (R325). -/
def logBoth (s : State) (f : Nat) (e : LogEntry) : State := logMod (logFn s f e) e

/-- Events waiting in the overflow area join the held records of their ring once events are enabled (R215, R217).
DEDUCED (unsafe): log entry 120. -/
def flushEvents (s : State) (f : Nat) : State :=
  let h := s.fnHost f
  if s.flag R.HI_FN_EVT.EVT_ENABLE f && !h.waiting.isEmpty then
    let r := s.fld R.HI_FN_EVT.EVT_RING f
    let s := s.setFnHost f { h with waiting := [] }
    drainHeld (s.setRing f r { (s.ring f r) with held := (s.ring f r).held ++ h.waiting }) f r
  else s

/-! Completion of descriptors (R207, R212, R215). -/

/-- An accepted descriptor. -/
def findDesc (s : State) (f r n : Nat) : Option AccDesc := (s.ring f r).acc.find? (fun d => d.num == n)

/-- A descriptor completes: its reservation becomes its record. During a reset of its function the record is discarded and
counted instead (R215, R219). A descriptor that has already completed does nothing. -/
def complete (s : State) (f r n : Nat) (st : Status) (detail : Nat := 0) (result : List Byte := []) : State :=
  match findDesc s f r n with
  | none => s
  | some d =>
    let g := s.ring f r
    let s := s.setRing f r { g with acc := g.acc.filter (fun x => x.num != n) }
    match (s.fnHost f).resetting with
    | some k => s.setFnHost f { (s.fnHost f) with resetting := some (k + 1) }
    | none =>
      deliver s f r ⟨fieldAt d.bytes 4 4, n % 2 ^ 32, st, fieldAt d.bytes 0 1, false, detail, result, bitAt (fieldAt d.bytes 1 1) 0⟩

/-- A descriptor that completes later is marked as started. -/
def markStarted (s : State) (f r n : Nat) : State :=
  let g := s.ring f r
  s.setRing f r { g with acc := g.acc.map (fun d => if d.num = n then { d with started := true } else d) }

/-- Is the module in A0, neither napping nor leaving a nap (R341)?
DEDUCED (unsafe): log entry 90. -/
def inA0 (s : State) : Bool := s.fld R.PWR_STAT.STATE == 0

/-- May descriptor n of a ring start now (the ring lists its descriptors in the order of their acceptance): in A0 (work that arrives in a nap waits for the exit, R342), after every earlier one of the ring has
started, and with FLAGS.ORDER, or as a FENCE, only after every earlier one has completed (R207)? A FENCE completes as it starts.
DEDUCED (unsafe): log entry 115. -/
def mayStart (s : State) (f r n : Nat) : Bool :=
  let acc := (s.ring f r).acc
  match acc.find? (fun d => d.num == n) with
  | none => false
  | some d =>
    let ordered := bitAt (fieldAt d.bytes 1 1) 1 || fieldAt d.bytes 0 1 == 0x3E
    inA0 s && (acc.takeWhile (fun e => e.num != n)).all (fun e => !ordered && e.started)

end Sys2Proof.Machine
end

