-- ==== Sys2Proof/Machine/MemOps.lean ====
section
/-! DEFINITION. The local address map and the memory tiers (chapter 06): bytes with their poison marks (R39), page frames,
granules, fixed regions, pages and the allocator (R86, R87, R95, R96, R102, R106). -/

namespace Sys2Proof.Machine

open Sys2Proof

/-- A byte with its poison mark. -/
abbrev PByte := Byte × Bool

/-- Bytes that carry no poison. -/
def cleanBytes (bs : List Byte) : List PByte := bs.map (fun b => (b, false))

/-- The bytes, poison marks dropped. -/
def rawBytes (bs : List PByte) : List Byte := bs.map (·.1)

/-- The bytes as they may leave for the host: poisoned ones are zeros (R39). -/
def hostBytes (bs : List PByte) : List Byte := bs.map (fun b => if b.2 then 0#8 else b.1)

/-- Is any byte poisoned? -/
def anyPsn (bs : List PByte) : Bool := bs.any (·.2)

/-! The address map (Table 6-1). -/

/-- The ranges of the local address map. -/
inductive AddrClass where
  | t0 | t1 | t2 | t2Absent | kv | config | absent
  deriving DecidableEq, Repr

/-- The start of T1. -/
def t1Base : Nat := 0x010000000000

/-- The start of T2. -/
def t2Base : Nat := 0x040000000000

/-- The start of KV space. -/
def kvBase : Nat := 0x100000000000

/-- The end of KV space. -/
def kvEnd : Nat := 0x500000000000

/-- The start of module configuration space. -/
def configBase : Nat := 0xF00000000000

/-- The range an address lies in. -/
def addrClass (a : Nat) : AddrClass :=
  if a < 0x80000000 then .t0
  else if t1Base ≤ a ∧ a < 0x020000000000 then .t1
  else if t2Base ≤ a ∧ a < 0x064000000000 then .t2
  else if 0x064000000000 ≤ a ∧ a < 0x080000000000 then .t2Absent
  else if kvBase ≤ a ∧ a < kvEnd then .kv
  else if configBase ≤ a ∧ a < 0xF00100000000 then .config
  else .absent

/-- The tile whose T0 holds an address (R10). -/
def tileOf (a : Nat) : Nat := a / 0x800000

/-- T1 frames, T2 granules. -/
def totalFrames : Nat := 16777216

/-- T2 granules in all (R87). -/
def totalGranules : Nat := 603979776

/-- The T1 physical address of a frame. -/
def frameAddr (n : Nat) : Nat := t1Base + n * 65536

/-- The T1 address behind the frame remap table (R129). -/
def remapAddr (s : State) (a : Nat) : Nat :=
  if addrClass a = .t1 then
    match Tab.find? ((a - t1Base) / 65536) s.mm.remap with
    | some f => frameAddr f + (a - t1Base) % 65536
    | none => a
  else a

/-! Bytes and poison of T0, T1 and T2. The poison mark of a line is kept by address div 32; a T2 line marks both halves. -/

/-- Is the line of an address poisoned? -/
def linePsn (s : State) (a : Nat) : Bool := NSet.has (a / 32) s.mm.psn

/-- Bytes as the banks and cells hold them.
DEDUCED (unsafe): log entry 7. -/
def pread (s : State) (a n : Nat) : List PByte :=
  (rangeFrom a n).map (fun x => let x := remapAddr s x; (Tab.get 0#8 x s.mm.mem, linePsn s x))

/-- Bytes as a tile or a controller's read buffer sees them: a sector that no fence has covered may show its earlier value
(R118); `free` chooses for the nth such read. -/
def preadCtl (s : State) (a n : Nat) : List PByte × State :=
  let secs := (rangeFrom a n).map (fun x => remapAddr s x / 32)
  if secs.all (fun k => (Tab.find? k s.mm.unfenced).isNone) then (pread s a n, s)
  else
    ((rangeFrom a n).map (fun x =>
      let x := remapAddr s x
      match Tab.find? (x / 32) s.mm.unfenced with
      | some u =>
        (match u.olds[Config.freeNat (s.freeCtr + (x / 32 - a / 32)) % (u.olds.length + 1)]? with
         | some o => (o.1.getD (x % 32) 0#8, o.2)
         | none => (Tab.get 0#8 x s.mm.mem, linePsn s x))
      | none => (Tab.get 0#8 x s.mm.mem, linePsn s x)), s.takeFree (n / 32 + 2))

/-- The bytes a line holds in poison storage: its 32-byte lines marked. -/
def markLine (s : State) (a w : Nat) : State :=
  let l := a / 32
  let p := NSet.add l s.mm.psn
  { s with mm := { s.mm with psn := if w = 64 then NSet.add (l + 1) p else p } }

/-- The marks of a line cleared. -/
def clearLine (s : State) (a w : Nat) : State :=
  let l := a / 32
  let p := NSet.del l s.mm.psn
  { s with mm := { s.mm with psn := if w = 64 then NSet.del (l + 1) p else p } }

/-- The width of a line where poison is kept: 64 bytes in T2, 32 elsewhere (R39). -/
def lineWidth (a : Nat) : Nat := if addrClass a = .t2 then 64 else 32

/-- Bytes of one line written (R39, R66, R120): poison among them poisons the line; a whole clean line clears its mark; a part
written to a poisoned line is lost. The second part says that bytes of a T1 sector were lost, so that the writer retires with ST_POISON.
DEDUCED (unsafe): log entry 94. DEDUCED (unsafe): log entry 130. -/
def writeLine (s : State) (a : Nat) (bs : List PByte) : State × Bool :=
  let a := remapAddr s a
  let w := lineWidth a
  let l := a / w * w
  if anyPsn bs then (markLine s l w, false)
  else if bs.length = w then
    let s := clearLine s l w
    ({ s with mm := { s.mm with mem := cellsWrite s.mm.mem a (rawBytes bs) } }, false)
  else if linePsn s l then (s, addrClass l == .t1)
  else ({ s with mm := { s.mm with mem := cellsWrite s.mm.mem a (rawBytes bs) } }, false)

/-- Bytes written line by line; `k` bounds the lines. -/
def pwriteGo : Nat → State → Nat → List PByte → State × Bool
  | 0, s, _, _ => (s, false)
  | _ + 1, s, _, [] => (s, false)
  | k + 1, s, a, b :: bs =>
    let w := lineWidth a
    let n := w - a % w
    let (s, x) := writeLine s a ((b :: bs).take n)
    let (s, y) := pwriteGo k s (a + n) ((b :: bs).drop n)
    (s, x || y)

/-- Bytes written to T0, T1 or T2; the second part says that some of T1 were lost to poison, so that the writer retires with
ST_POISON (R120). -/
def pwrite (s : State) (a : Nat) (bs : List PByte) : State × Bool := pwriteGo (bs.length + 1) s a bs

/-- A write whose lost bytes do not matter to the writer's status. -/
def pwrite' (s : State) (a : Nat) (bs : List PByte) : State := (pwrite s a bs).1

/-- The sectors an NBU is about to write: their earlier values are kept until a fence (R118). -/
def noteUnfenced (s : State) (fn ctx a n : Nat) : State :=
  let secs := if n = 0 then [] else (rangeFrom (a / 32) ((a + n - 1) / 32 + 1 - a / 32)).map (fun k => remapAddr s (k * 32) / 32)
  let u := secs.foldl (fun t k =>
    let w : Unfenced := (Tab.find? k t).getD ⟨[], []⟩
    Tab.ins k ⟨w.by_ ++ [(fn, ctx)], w.olds ++ [(cellsRead s.mm.mem (k * 32) 32, NSet.has k s.mm.psn)]⟩ t) s.mm.unfenced
  { s with mm := { s.mm with unfenced := u } }

/-- An NBU result written to a bank: unseen by tile and controller reads until a fence. -/
def nbuWrite (s : State) (fn ctx a : Nat) (bs : List PByte) : State × Bool :=
  pwrite (noteUnfenced s fn ctx a bs.length) a bs

/-- A fence over the commands of a context, or of a function (R119): read-buffer lines of every sector that one of them wrote are
invalidated. -/
def fenceSectors (s : State) (covers : Nat × Nat → Bool) : State :=
  { s with mm := { s.mm with unfenced := s.mm.unfenced.filter (fun p => !p.2.by_.any covers) } }

/-- Read-buffer lines of a range invalidated (R209). -/
def invalidate (s : State) (a n : Nat) : State :=
  { s with mm := { s.mm with unfenced := s.mm.unfenced.filter (fun p => !(a / 32 ≤ p.1 && p.1 * 32 < a + n)) } }

/-- A range of storage set to zero and its poison cleared: a scrub (R93). -/
def scrubRange (s : State) (a n : Nat) : State :=
  { s with mm := { s.mm with
      mem := cellsClear s.mm.mem a n
      psn := s.mm.psn.filter (fun l => !(a / 32 ≤ l && l * 32 < a + n))
      unfenced := s.mm.unfenced.filter (fun p => !(a / 32 ≤ p.1 && p.1 * 32 < a + n)) } }

/-! Fixed regions (R83). -/

/-- The fixed region that holds a range wholly. -/
def regionAt (s : State) (a n : Nat) : Option Region :=
  s.mm.regions.find? (fun r => decide (r.base ≤ a) && decide (a + n ≤ r.base + r.size))

/-- The frames a region of T1 takes. -/
def Region.framesOf (r : Region) : Nat := if addrClass r.base = .t1 then ceilDiv r.size 65536 else 0

/-- The granules a region of T2 takes. -/
def Region.granulesOf (r : Region) : Nat := if addrClass r.base = .t2 then ceilDiv r.size 4096 else 0

/-- Does a T1 frame lie in a fixed region? -/
def frameInRegion (s : State) (n : Nat) : Bool :=
  s.mm.regions.any (fun r => decide (r.base < frameAddr n + 65536) && decide (frameAddr n < r.base + r.size))

/-- The pseudo-channel of a frame: stack × 32 + bank pair div 16 (Table 7-1). -/
def framePc (n : Nat) : Nat := n / 2 ^ 20 * 32 + n / 2 ^ 11 % 512 / 16

/-- Is a pseudo-channel retired, or being evacuated for retirement? -/
def pcClosed (s : State) (pc : Nat) : Bool := NSet.has pc s.flt.retPcs || bitAt (s.fld R.NBU_PC_STAT.PC_RETIRED (pc / 32)) (pc % 32)

/-- Is a T1 frame scrubbed and free (R93)? -/
def frameFree (s : State) (n : Nat) : Bool :=
  s.mm.fresh1 && (Tab.find? n s.mm.frames).isNone && !frameInRegion s n && !pcClosed s (framePc n) &&
    (Tab.find? n s.mm.remap).isNone && !s.mm.remap.any (fun p => p.2 == n)

/-- The lowest free frame from `n` on, trying `k`. -/
def firstFree (s : State) : Nat → Nat → Option Nat
  | 0, _ => none
  | k + 1, n => if frameFree s n then some n else firstFree s k (n + 1)

/-- The bank pair of a rotation index, as the number of its first frame (R96): stack q mod 16, bank pair q div 16. -/
def rotPair (q : Nat) : Nat := q % 16 * 2 ^ 20 + q / 16 * 2 ^ 11

/-- The frame for a page of rotation index q (R96): in the preferred pair, else in the pair of the next index with a free one;
the second part says that it was not the preferred pair. -/
def placeFrame (s : State) : Nat → Nat → Bool → Option (Nat × Bool)
  | 0, _, _ => none
  | k + 1, q, off =>
    match firstFree s 2048 (rotPair q) with
    | some f => some (f, off)
    | none => placeFrame s k ((q + 1) % 8192) true

/-- Free T1 frames (PAGE_STAT.T1_FREE). -/
def t1Free (s : State) : Nat :=
  if !s.mm.fresh1 then 0
  else
    totalFrames - (s.mm.regions.map Region.framesOf).foldl (· + ·) 0 - s.mm.frames.length - s.mm.remap.length -
      32768 * (List.range 512).countP (fun pc => pcClosed s pc)

/-- The frames a function holds: KV pages and fixed regions (R106). -/
def fnT1 (s : State) (f : Nat) : Nat :=
  (s.mm.frames.countP (fun p => match p.2 with | .page g _ _ => g == f | .dest g _ _ => g == f | _ => false)) +
    ((s.mm.regions.filter (fun r => r.fn = f ∧ r.kind ≠ .system)).map Region.framesOf).foldl (· + ·) 0

/-- The T1 frames of the system area: its fixed part and the page-table units (R84, R90). -/
def sysFrames (s : State) : Nat :=
  ((s.mm.regions.filter (fun r => r.kind = .system)).map Region.framesOf).foldl (· + ·) 0 +
    s.mm.frames.countP (fun p => p.2 == .pageTable)

/-- A frame given a use. -/
def useFrame (s : State) (n : Nat) (u : FrameUse) : State :=
  { s with mm := { s.mm with frames := Tab.ins n u s.mm.frames } }

/-- A frame freed: it waits to be scrubbed (R93). -/
def dropFrame (s : State) (n : Nat) : State := useFrame s n .scrub

/-- Are n frames of T1 from g on free for a fixed region (R83, R93)? -/
def framesFree (s : State) (g n : Nat) : Bool :=
  s.mm.fresh1 && decide (g + n ≤ totalFrames) &&
    s.mm.frames.all (fun p => decide (p.1 < g) || decide (g + n ≤ p.1)) &&
    s.mm.remap.all (fun p => (decide (p.1 < g) || decide (g + n ≤ p.1)) && (decide (p.2 < g) || decide (g + n ≤ p.2))) &&
    s.mm.regions.all (fun r => addrClass r.base ≠ .t1 || decide (r.base + r.size ≤ frameAddr g) || decide (frameAddr (g + n) ≤ r.base)) &&
    (List.range 512).all (fun pc =>
      let a := pc / 32 * 2 ^ 20 + pc % 32 * 32768
      !pcClosed s pc || decide (a + 32768 ≤ g) || decide (g + n ≤ a))

/-- A free run of n frames: where the command says, or else the lowest behind a used one (log entry 5).
DESIGN CHOICE (unsafe in part): log entry 5. -/
def findFrames (s : State) (n pick : Nat) : Option Nat :=
  if framesFree s pick n then some pick
  else
    let starts := 0 :: (s.mm.frames.map (fun p => p.1 + 1) ++ s.mm.remap.map (fun p => p.1 + 1) ++ s.mm.remap.map (fun p => p.2 + 1) ++
      (s.mm.regions.filter (fun r => addrClass r.base = .t1)).map (fun r => ceilDiv (r.base + r.size - t1Base) 65536) ++
      ((List.range 512).filter (fun pc => pcClosed s pc)).map (fun pc => pc / 32 * 2 ^ 20 + pc % 32 * 32768 + 32768))
    match starts.filter (fun g => framesFree s g n) with
    | [] => none
    | g :: r => some (r.foldl min g)

/-- A fixed region of T1 made for a function; a region of no bytes takes none. -/
def allocRegion (s : State) (f size : Nat) (kind : RegionKind) (owner pick : Nat) : Option (Nat × State) :=
  if size = 0 then some (0, s)
  else
    match findFrames s (ceilDiv size 65536) pick with
    | none => none
    | some g => some (frameAddr g, { s with mm := { s.mm with regions := s.mm.regions ++ [⟨frameAddr g, size, f, kind, owner⟩] } })

/-- A frame of a region freed, or the frame that its contents were moved to (R129). -/
def dropRemapped (s : State) (k : Nat) : State :=
  match Tab.find? k s.mm.remap with
  | some b => dropFrame { s with mm := { s.mm with remap := Tab.del k s.mm.remap } } b
  | none => dropFrame s k

/-- The frames of a region scrubbed and free again, the region gone (R93, R176). -/
def freeRegion (s : State) (base : Nat) : State :=
  match s.mm.regions.find? (fun r => r.base == base) with
  | none => s
  | some r =>
    let n := r.framesOf
    let s := { s with mm := { s.mm with regions := s.mm.regions.filter (fun r => r.base != base) } }
    (rangeFrom ((r.base - t1Base) / 65536) n).foldl dropRemapped s

/-! T2 granules. -/

/-- Is a granule run free of every listed run and region, and outside retired ranks and ranks under erasure (R328)? -/
def runFree (s : State) (g n : Nat) : Bool :=
  s.mm.fresh2 && decide (g + n ≤ totalGranules) &&
    s.mm.runs.all (fun p => decide (p.1 + p.2.1 ≤ g) || decide (g + n ≤ p.1)) &&
    s.mm.regions.all (fun r => addrClass r.base ≠ .t2 || decide (r.base + r.size ≤ t2Base + g * 4096) ||
      decide (t2Base + (g + n) * 4096 ≤ r.base)) &&
    (List.range n).all (fun i =>
      let u := g + i
      let rk := u % 24 * 2 + u / 24 % 2
      !NSet.has rk s.flt.retRanks && !NSet.has rk s.flt.erasure)

/-- A free run of n granules, first fit: at 0, or behind a listed run or region.
DESIGN CHOICE (unsafe in part): log entry 5. -/
def findRun (s : State) (n : Nat) : Option Nat :=
  let starts := 0 :: (s.mm.runs.map (fun p => p.1 + p.2.1) ++
    (s.mm.regions.filter (fun r => addrClass r.base = .t2)).map (fun r => ceilDiv (r.base + r.size - t2Base) 4096))
  let after := starts.flatMap (fun g => rangeFrom g 49)
  (after.filter (fun g => runFree s g n)).head?

/-- Free T2 granules (PAGE_STAT.T2_FREE). -/
def t2Free (s : State) : Nat :=
  if !s.mm.fresh2 then 0
  else
    totalGranules - (s.mm.runs.map (fun p => p.2.1)).foldl (· + ·) 0 -
      (s.mm.regions.map Region.granulesOf).foldl (· + ·) 0 - 12582912 * s.flt.retRanks.length

/-- The T2 granules of a function. -/
def fnT2 (s : State) (f : Nat) : Nat :=
  ((s.mm.runs.filter (fun p => match p.2.2 with | .page g _ _ => g == f | .dest g _ _ => g == f | _ => false)).map
    (fun p => p.2.1)).foldl (· + ·) 0 +
    ((s.mm.regions.filter (fun r => r.fn = f ∧ r.kind ≠ .system)).map Region.granulesOf).foldl (· + ·) 0

/-- A granule run given a use. -/
def useRun (s : State) (g n : Nat) (u : FrameUse) : State :=
  { s with mm := { s.mm with runs := Tab.ins g (n, u) s.mm.runs } }

/-- A granule run freed: it waits to be scrubbed. -/
def dropRun (s : State) (g : Nat) : State :=
  match Tab.find? g s.mm.runs with
  | some (n, _) => useRun s g n .scrub
  | none => s

/-! Spans and pages (R88, R89, R95). -/

/-- A span by number. -/
def State.span? (s : State) (n : Nat) : Option Span := Tab.find? n s.pg.spans

/-- A span's descriptor written. -/
def State.setSpan (s : State) (n : Nat) (x : Span) : State :=
  { s with pg := { s.pg with spans := Tab.ins n x s.pg.spans } }

/-- The bytes of a head record (Table 3-4). -/
def headBytes (fmt : KvFmt) (d : Nat) : Nat :=
  match fmt with
  | .kv8 => 2 * d + 2 * (d / 32)
  | .kv4 => d + 2 * (d / 32)
  | .bf16 => 4 * d

/-- ROW_BYTES (Table 6-3). -/
def Span.rowBytes (x : Span) : Nat := x.kvHeads * headBytes x.fmt x.dim

/-- Pages across which rows are dealt. -/
def Span.interleave (x : Span) : Nat := 2 ^ x.ilog

/-- RPP, the rows per page (R89). -/
def Span.rpp (x : Span) : Nat := 65536 / x.rowBytes

/-- GROUPS (R89). -/
def Span.groups (x : Span) : Nat := ceilDiv x.maxTokens (x.interleave * x.rpp)

/-- Pages of one layer slot. -/
def Span.slotPages (x : Span) : Nat := x.groups * x.interleave

/-- Pages of the span region. -/
def Span.pages (x : Span) : Nat := x.layerSlots * x.slotPages

/-- The page (over the whole span) and the byte within it where a row starts: row_address of R89. -/
def Span.rowAt (x : Span) (l r : Nat) : Nat × Nat :=
  let i := x.interleave
  let g := r / (i * x.rpp)
  let c := r % i
  let k := r / i % x.rpp
  (l * x.slotPages + g * i + c, k * x.rowBytes)

/-- row_address (R89). -/
def Span.rowAddress (x : Span) (l r : Nat) : Nat := let p := x.rowAt l r; x.base + p.1 * 65536 + p.2

/-- The key of a page. -/
def pageKey (span p : Nat) : Nat := span * 2 ^ 31 + p

/-- An unbacked page's entry. -/
def pte0 : Pte := ⟨0, 0, .unbacked, false, false, false, false, 0, 0, 0, 0, 0, 0, 0, [], false, false, 0, [], []⟩

/-- The span whose pages hold protection copy c. -/
def copySpan (c : Nat) : Nat := 2 ^ 18 + c

/-- 64 KiB units held for copies (FLT_PROT_STAT.PROT_USED): their backed pages in T1 and T2. -/
def copyUnits (s : State) : Nat := s.pg.ptes.countP (fun p => decide (pageKey (copySpan 0) 0 ≤ p.1) && (p.2.st == .t1 || p.2.st == .t2))

/-- The entry of a page. -/
def State.pte (s : State) (span p : Nat) : Pte := Tab.get pte0 (pageKey span p) s.pg.ptes

/-- The entry of a page written. -/
def State.setPte (s : State) (span p : Nat) (e : Pte) : State :=
  { s with pg := { s.pg with ptes := Tab.put pte0 (pageKey span p) e s.pg.ptes } }

/-- The pages of a span that have an entry. -/
def State.pagesOf (s : State) (span : Nat) : List (Nat × Pte) :=
  (s.pg.ptes.filter (fun p => p.1 / 2 ^ 31 = span)).map (fun p => (p.1 % 2 ^ 31, p.2))

/-- A page marked as accessed in this ageing period (R97). -/
def touch (s : State) (span p : Nat) : State :=
  let e := s.pte span p
  if e.st = .unbacked then s else s.setPte span p { e with accessed := true }

/-- The rotation index of a page (R96). -/
def rotIndex (x : Span) (p : Nat) : Nat := (p % x.slotPages + x.start + 512 * (p / x.slotPages)) % 8192

/-- The order in which pages enter buckets moves on.
DEDUCED (unsafe): log entry 123. -/
def tickPage (s : State) : State := { s with pg := { s.pg with tick := s.pg.tick + 1 } }

/-! The rows of an operation (R136). -/

/-- The rows read: the union of the ranges below the reader limit, each once, ascending. -/
def rowsRead (x : Span) (q : AttnReq) : List Nat :=
  (List.range (min q.limit x.maxTokens)).filter (fun r => q.ranges.any (fun g => g.1 ≤ r && r < g.2))

/-- The pages of an operation, ascending, each with its rows ascending. -/
def pagesRead (x : Span) (q : AttnReq) : List (Nat × List Nat) :=
  let rs := (rowsRead x q).map (fun r => ((x.rowAt q.slot r).1, r))
  ((rs.map (·.1)).foldr NSet.add []).map (fun p => (p, (rs.filter (fun t => t.1 = p)).map (·.2)))

/-- The pages that running operations hold (R98): those that wait for frames, for lenders, or for the members of a ring. -/
def heldKeys (s : State) : List Nat :=
  let reads (q : AttnReq) : List Nat := match s.span? q.span with
    | some x => (pagesRead x q).map (fun p => pageKey q.span p.1)
    | none => []
  s.pg.waits.flatMap (·.2.2) ++ s.attn.waits.flatMap (fun w => reads w.2.req) ++ s.attn.rings.flatMap (fun g => reads g.2.req)

/-- Pages of a function in T1 that its own ceiling may demote, oldest bucket first, whatever the bucket (R106). -/
def ownEligible (s : State) (f : Nat) (tier : PgSt) : List (Nat × Pte) :=
  s.pg.ptes.filter (fun p =>
    p.2.st == tier && !p.2.mig && !p.2.tent && !p.2.psn && !p.2.crcBad && !(heldKeys s).contains p.1 &&
      match s.span? (p.1 / 2 ^ 31) with
      | some x => x.fn == f && !x.pin
      | none => false)

/-- The oldest of a list of pages: highest bucket, then earliest entry. -/
def oldest : List (Nat × Pte) → Option (Nat × Pte)
  | [] => none
  | p :: r =>
    match oldest r with
    | none => some p
    | some q => if p.2.age > q.2.age || (p.2.age == q.2.age && p.2.entered ≤ q.2.entered) then some p else some q

/-- A page's bytes in T1. -/
def pageBytes (s : State) (e : Pte) : List Host.Cell :=
  (s.mm.mem.filter (fun c => frameAddr e.frame ≤ c.1 && c.1 < frameAddr e.frame + 65536)).map
    (fun c => (c.1 - frameAddr e.frame, c.2))

/-- A page's poisoned sectors in T1, numbered within the page. -/
def pagePsn (s : State) (e : Pte) : List Nat :=
  (s.mm.psn.filter (fun l => frameAddr e.frame / 32 ≤ l && l < frameAddr e.frame / 32 + 2048)).map
    (fun l => l - frameAddr e.frame / 32)

/-- A page image laid into a frame. -/
def layPage (s : State) (frame : Nat) (img : List Host.Cell) (psn : List Nat) : State :=
  let a := frameAddr frame
  { s with mm := { s.mm with
      mem := img.foldl (fun m c => Tab.put 0#8 (a + c.1) c.2 m) (cellsClear s.mm.mem a 65536)
      psn := psn.foldl (fun m l => NSet.add (a / 32 + l) m) (s.mm.psn.filter (fun l => !(a / 32 ≤ l && l < a / 32 + 2048))) } }

/-! Counts in service (R14, R309, R353). -/

/-- 24 hours: the rolling window of failures (R80, R128, R129, R328). -/
def dayNs : Nat := 86400000000000

/-- The bits at 1 among the lowest `n` of a number. -/
def ones (n v : Nat) : Nat := (List.range n).countP (fun i => bitAt v i)

/-- NBUs out of service: retired ones and those of retired pseudo-channels (R128, R129). -/
def nbusOut (s : State) : Nat :=
  (List.range 8192).countP (fun u =>
    bitAt (s.fld R.NBU_RETIRED.NBU_MAP (u / 512) (u % 512 / 32)) (u % 32) || bitAt (s.fld R.NBU_PC_STAT.PC_RETIRED (u / 512)) (u % 512 / 16))

/-- The ports with no lane in service. -/
def portsOut (s : State) : Nat := (List.range 16).countP (fun p => (List.range 4).all (fun l => NSet.has (p * 4 + l) s.flt.retLanes))

/-- A bit map of the members of a set from `a` to `a` + n − 1. -/
def mapOf (a n : Nat) (l : List Nat) : Nat := ((l.filter (fun x => a ≤ x ∧ x < a + n)).map (fun x => 2 ^ (x - a))).foldl (· + ·) 0

/-- The capability registers and the retirement registers of chapter 16 brought to what is in service (R309, R353): at start, and with
every retirement. -/
def syncRetired (s : State) : State :=
  let tiles := s.flt.retTiles.length
  let pcs := ((List.range 16).map (fun k => ones 32 (s.fld R.NBU_PC_STAT.PC_RETIRED k))).foldl (· + ·) 0
  let nbus := (List.range 256).foldl (fun n i => n + ones 32 (s.fld R.NBU_RETIRED.NBU_MAP (i / 16) (i % 16))) 0
  let s := ((s.setFld R.CAP_COMPUTE.TILES (256 - tiles)).setFld R.CAP_COMPUTE.NBUS (8192 - nbusOut s)).setFld R.CAP_MEM.T1_GIB (1024 - 2 * pcs)
  let s := s.setFld R.CAP_MEM.T2_GIB (2304 - 48 * s.flt.retRanks.length)
  let s := (s.setFld R.CAP_FABRIC.PORTS (16 - portsOut s)).setFld R.CAP_FABRIC.LANES (64 - s.flt.retLanes.length)
  let s := ((s.setFld R.FLT_STAT.TILES tiles).setFld R.FLT_STAT.NBUS nbus).setFld R.FLT_STAT.PCS pcs
  let s := ((s.setFld R.FLT_STAT.T2_RANKS s.flt.retRanks.length).setFld R.FLT_STAT.LANES s.flt.retLanes.length).setFld R.FLT_STAT.PORTS (portsOut s)
  let s := (List.range 8).foldl (fun s k => s.setFld R.FLT_RET_TILE.TILE_MAP (mapOf (32 * k) 32 s.flt.retTiles) k) s
  (s.setFld R.FLT_RET_T2.RANK_MAP (mapOf 0 48 s.flt.retRanks)).setFld R.FLT_RET_LANE.LANE_MAP (mapOf 0 64 s.flt.retLanes)

end Sys2Proof.Machine
end

