-- ==== Sys2Proof/Machine/PageOps.lean ====
section
/-! DEFINITION. Backing, demotion and promotion of pages (R90, R96, R99 to R102, R105, R106) as the operations the KV, attention
and paging commands share. -/

namespace Sys2Proof.Machine

open Sys2Proof

/-- What an operation that needs a page answers: done, held until a frame or granule frees (R102), or displaced (R105). -/
inductive PgRes where
  | ok (s : State)
  | wait
  | displaced
  deriving DecidableEq, Repr

/-! The batts of pages (R52, R60). A page below T1 is held as its plain contents; its stored batts are those contents coded under the
generation of the span's table that its entry names. -/

/-- Is a span coded by bytes, or (KV4) by nibbles (R42, R60)? -/
def Span.wide (x : Span) : Bool := x.fmt != .kv4

/-- The 64 KiB of a page from its cells. -/
def imageBytes (img : List Host.Cell) : List Byte := (List.range 65536).map (fun i => Tab.get 0#8 i img)

/-- The symbols of a page's bytes. -/
def pageSyms (x : Span) (bs : List Byte) : List Nat := rawSyms x.wide (if x.wide then 65536 else 131072) bs

/-- A generation of a span's code table (R51: TABLE_ID 0xFFFF). -/
def Span.table (x : Span) (gen : Nat) : Option CodeTable := x.tables.find? (fun t => t.gen == gen)

/-- A code table made by the module from a histogram (R60): the whole alphabet, codes of at most 12 bits. Which lengths it chooses is free.
DESIGN CHOICE (safe): log entry 26. -/
def madeTable (id : Nat) (wide : Bool) (gen : Nat) (hist : List Nat) (ctr : Nat) : CodeTable :=
  let lens := Config.codeLens ctr hist
  let n := if wide then 256 else 16
  tableOfLens id gen wide (if lensOk n lens then lens else List.replicate n (if wide then 8 else 4))

/-- The batts of a page's bytes under a table, 4 of bytes or 8 of nibbles. -/
def codePage (x : Span) (t : Option CodeTable) (bs : List Byte) : List (List Byte) := encodeBatts t x.wide 2 9 (pageSyms x bs)

/-- The stored batts of a page below T1. -/
def storedBatts (x : Span) (e : Pte) : List (List Byte) := codePage x (x.table e.battGen) (imageBytes e.image)

/-- The bytes that batts take in all. -/
def battsLen (bs : List (List Byte)) : Nat := (bs.map List.length).foldl (· + ·) 0

/-- A page's plain contents and poisoned sectors, wherever it lies. -/
def pageImage (s : State) (e : Pte) : List Host.Cell × List Nat := if e.st = .t1 then (pageBytes s e, pagePsn s e) else (e.image, e.imagePsn)

/-- The span with its code table made, if it has none yet, from the page about to be demoted (R60). -/
def withTable (s : State) (x : Span) (e : Pte) : Span :=
  if x.tableGen ≠ 0 then x
  else { x with tableGen := 1, tables := [madeTable 0xFFFF x.wide 1 (histogram x.wide (pageSyms x (imageBytes (pageImage s e).1))) s.freeCtr] }

/-- The granules that a page takes once coded under the newest generation of its span's table: 1 to 17 (R87). -/
def codedGranules (s : State) (x : Span) (e : Pte) : Nat :=
  max 1 (min 17 (ceilDiv (battsLen (codePage x (x.table x.tableGen) (imageBytes (pageImage s e).1))) 4096))

/-- The event of a displaced page (R105): its state becomes archived (where it may be kept) or holed, the span's HOLED bit is set, the counters count,
and the owner receives DISPLACED. A protection copy's page has no owner to tell.
DESIGN CHOICE (safe): log entry 26. -/
def displaceAs (s : State) (span p : Nat) (keep : Bool) : State :=
  match s.span? span with
  | none => s
  | some x =>
    let f := x.fn
    let e := s.pte span p
    if 64 ≤ f then (s.setPte span p { e with st := .holed, mig := false, image := [], imagePsn := [] }).incFld R.PAGE_DISPLACE_CNT.COUNT else
    let slots := s.fld R.HI_ARCH_CTL.SLOTS f
    let tail := s.fld R.HI_ARCH_TAIL.ARCH_TAIL f
    let room := keep && decide ((tail + 2 ^ 32 - s.fld R.HI_ARCH_HEAD.ARCH_HEAD f) % 2 ^ 32 < slots)
    let k := if slots = 0 then 0 else tail % slots
    let addr := s.fld R.HI_ARCH_BASE.ADDR f * 4096 + 69632 * k
    let batts := storedBatts x e
    let hdr := leBytes 4 e.pk ++ leBytes 4 e.pv ++ leBytes 1 5 ++ leBytes 1 e.age ++ leBytes 2 e.battGen ++ leBytes 4 0 ++
      leBytes 8 0 ++ leBytes 2 e.written.length ++ leBytes 4 0
    let hdr := hdr ++ leBytes 2 (crc16 hdr) ++ leBytes 4 span ++ leBytes 2 (p / x.slotPages) ++ leBytes 4 (p % x.slotPages) ++
      leBytes 2 batts.length ++ leBytes 4 (battsLen batts) ++ List.replicate 206 0#8
    let bs := hdr ++ leBytes 2 (crc16 hdr)
    let body := (List.range (battsLen batts)).map (fun i => Config.freeByte (s.freeCtr + i))
    let wrote := if room then hostWrite { s with pg := { s.pg with t3keys := NSet.add f s.pg.t3keys } } f addr (bs ++ body) else none
    let s := if room then { s with pg := { s.pg with t3keys := NSet.add f s.pg.t3keys } } else s
    let (s, arch) := match wrote with
      | some t => ((t.takeFree 65792).setFld R.HI_ARCH_TAIL.ARCH_TAIL (tail + 1) f, true)
      | none => (s, false)
    let e := { e with st := if arch then .archived else .holed, mig := false, recalling := false, handle := k,
                      image := if arch then e.image else [], imagePsn := if arch then e.imagePsn else [] }
    let s := (s.setPte span p e).setSpan span { x with holed := true }
    let s := (s.incFld R.PAGE_DISPLACE_CNT.COUNT).incFld R.FN_DISPLACE_CNT 1 f
    raiseEvent s f 0x01 .displaced (leBytes 4 span ++ leBytes 2 (p / x.slotPages) ++ leBytes 4 (p % x.slotPages) ++
      leBytes 1 (bit arch) ++ leBytes 1 0 ++ leBytes 4 (if arch then k else 0))

/-! Pages at a lender (R103, R104). -/

/-- The number of a span's element format (Table 11-4). -/
def KvFmt.code : KvFmt → Nat
  | .kv8 => 0
  | .kv4 => 1
  | .bf16 => 2

/-- The format of a number. -/
def fmtOfCode (n : Nat) : KvFmt := if n = 0 then .kv8 else if n = 1 then .kv4 else .bf16

/-- A page as it is sent to a lender. -/
def lentIn (s : State) (span p : Nat) (x : Span) (e : Pte) : LentIn :=
  let t := x.table e.battGen
  { node := s.fld R.ROUTE_NODE.NODE, fn := x.fn, span := span, maxTokens := x.maxTokens, layerSlots := x.layerSlots, kvHeads := x.kvHeads,
    dim := x.dim, fmt := x.fmt.code, ilog := x.ilog, page := p, pk := e.pk, pv := e.pv, gen := e.battGen,
    counts := (t.map (·.counts)).getD [], syms := (t.map (·.syms)).getD [], batts := storedBatts x e }

/-- The span that a lent page's rows are laid out by, as its lender knows it. -/
def lentSpan (l : LentIn) : Span :=
  { fn := l.fn, st := .open, maxTokens := l.maxTokens, layerSlots := l.layerSlots, kvHeads := l.kvHeads, dim := l.dim, fmt := fmtOfCode l.fmt,
    ilog := l.ilog, fixedScale := false, pin := false, t2Attn := true, holed := false, prot := .none, base := 0, fixedPk := 0, fixedPv := 0,
    horizon := l.maxTokens, gen := 0, appended := l.maxTokens, tableGen := l.gen, start := 0, ptBase := 0, handoff := 0, lastRewind := none,
    tables := if l.counts.isEmpty then [] else [⟨0xFFFF, l.gen, fmtOfCode l.fmt != .kv4, l.counts, l.syms⟩] }

/-- The span that lays out a protection copy's rows (R319): of no function (64), outside KV space. -/
def copyShape (slots tokens kvHeads dim fmt ilog : Nat) : Span :=
  { fn := 64, st := .open, maxTokens := tokens, layerSlots := slots, kvHeads := kvHeads, dim := dim, fmt := fmtOfCode fmt,
    ilog := ilog % 4, fixedScale := false, pin := false, t2Attn := true, holed := false, prot := .none, base := 2 ^ 64, fixedPk := 0, fixedPv := 0,
    horizon := 0, gen := 0, appended := 0, tableGen := 0, start := 0, ptBase := 0, handoff := 0, lastRewind := none, tables := [] }

/-- A page displaced (R105): archived where the function has room in an archive ring, otherwise holed. -/
def displace (s : State) (span p : Nat) : State := displaceAs s span p true

/-- Counts of a page demoted; a protection copy's page is no function's. -/
def countDemote (s : State) (f : Nat) : State :=
  let s := s.incFld R.PAGE_DEMOTE_CNT.COUNT
  if f < 64 then s.incFld R.FN_DEMOTE_CNT 1 f else s

/-- The migration of a page, if one is in progress. -/
def migOf (s : State) (span p : Nat) : Option Mig := Tab.find? (pageKey span p) s.pg.migs

/-- The migration of a page forgotten. -/
def dropMig (s : State) (span p : Nat) : State :=
  { s with pg := { s.pg with migs := Tab.del (pageKey span p) s.pg.migs } }

/-- The destination of a migration given up: its frame or run waits to be scrubbed, lent capacity is released. -/
def freeDest (s : State) (m : Mig) : State :=
  match m.kind with
  | .t1t2 | .t2t2 | .t3t2 => dropRun s m.granule
  | .t2t1 | .t3t1 | .t1t1 => dropFrame s m.frame
  | .t2t3 | .t3t3 => s.emit (.t3Release m.node [m.handle])

/-- The source of a page freed after its switch. -/
def freeSource (s : State) (e : Pte) : State :=
  match e.st with
  | .t1 => dropFrame s e.frame
  | .t2 => dropRun s e.granule
  | .t3 => s.emit (.t3Release e.node [e.handle])
  | _ => s

/-- Steps 2 and 3 of a migration (R100): the entry is switched in one write, MIG cleared, the source freed. -/
def switchPage (s : State) (span p : Nat) (m : Mig) : State :=
  let e := s.pte span p
  let f := match s.span? span with | some x => x.fn | none => 0
  let gen := match s.span? span with | some x => x.tableGen | none => 0
  let img := if e.st = .t1 then pageBytes s e else e.image
  let psn := if e.st = .t1 then pagePsn s e else e.imagePsn
  let t := tickPage (dropMig (freeSource s e) span p)
  let e := { e with mig := false, recalling := false, entered := t.pg.tick }
  match m.kind with
  | .t1t2 | .t2t2 | .t3t2 =>
    let t := useRun t m.granule m.count (.page f span p)
    let t := t.setPte span p { e with st := .t2, frame := 0, granule := m.granule, count := m.count, battGen := if m.kind = .t1t2 then gen else e.battGen, image := img,
                                      imagePsn := psn, node := 0, handle := 0 }
    if m.kind = .t1t2 then countDemote t f else t
  | .t2t3 | .t3t3 =>
    let t := t.setPte span p { e with st := .t3, granule := 0, node := m.node, handle := m.handle, image := img, imagePsn := psn }
    let t := match s.span? span with | some x => t.emit (.t3Store m.node m.handle (lentIn s span p x e)) | none => t
    if m.kind = .t2t3 then countDemote t f else t
  | .t2t1 | .t3t1 =>
    let t := layPage (useFrame t m.frame (.page f span p)) m.frame img psn
    (t.setPte span p { e with st := .t1, frame := m.frame, granule := 0, count := 0, node := 0, handle := 0, image := [],
                              imagePsn := [] }).incFld R.PAGE_PROMOTE_CNT.COUNT
  | .t1t1 =>
    let t := layPage (useFrame t m.frame (.page f span p)) m.frame img psn
    t.setPte span p { e with frame := m.frame }

/-! T3 capacity. -/

/-- Pages lent to us by a lender, migrations to it included. -/
def t3Used (s : State) (node : Nat) : Nat :=
  s.pg.ptes.countP (fun p => p.2.st == .t3 && p.2.node == node) +
    s.pg.migs.countP (fun m => (m.2.kind == .t2t3 || m.2.kind == .t3t3) && m.2.node == node)

/-- A lender with free capacity, other than one: the lowest node (16,384 pages a GiB).
DESIGN CHOICE (unsafe): log entry 54. -/
def t3Room (s : State) (not : Option Nat) : Option Nat :=
  (s.pg.offers.find? (fun o => some o.1 != not && decide (t3Used s o.1 < o.2.gib * 16384))).map (·.1)

/-- T3 pages of a function. -/
def fnT3 (s : State) (f : Nat) : Nat :=
  s.pg.ptes.countP (fun p => p.2.st == .t3 && (match s.span? (p.1 / 2 ^ 31) with | some x => x.fn == f | none => false))

/-- A migration begun: MIG set (R100). -/
def setMig (s : State) (span p : Nat) (m : Mig) : State :=
  let s := s.setPte span p { s.pte span p with mig := true }
  { s with pg := { s.pg with migs := Tab.ins (pageKey span p) m s.pg.migs } }

/-- A migration to a lender begun: the function's T3 key exists from then on (R300). The lender's page handle is the lender's to give.
DESIGN CHOICE (safe): log entry 53. -/
def startT3 (s : State) (span p : Nat) (kind : MigKind) (node : Nat) : State :=
  let f := match s.span? span with | some x => x.fn | none => 0
  let s := { s with pg := { s.pg with t3keys := NSet.add f s.pg.t3keys } }
  setMig s.takeFree span p ⟨kind, 0, 0, (s.pte span p).count, node, Config.freeNat s.freeCtr % 2 ^ 32⟩

/-- Room in T2 for n granules of a function: while they would take it past its ceiling, its own oldest page of T2 goes to T3 at once (R106),
unless demotion is off (R107); `k` bounds the pages.
DESIGN CHOICE (unsafe): log entry 54. -/
def makeT2RoomGo (f n : Nat) : Nat → State → Option State
  | 0, _ => none
  | k + 1, s =>
    if fnT2 s f + n ≤ s.fld R.FN_T2_CEIL f then some s
    else
      match oldest (ownEligible s f .t2), t3Room s none with
      | some (q, _), some node =>
        if s.fld R.FN_T3_CEIL f ≤ fnT3 s f ∨ !s.flag R.PAGE_CTL.MIG_ENABLE then none
        else
          let s := startT3 s (q / 2 ^ 31) (q % 2 ^ 31) .t2t3 node
          match migOf s (q / 2 ^ 31) (q % 2 ^ 31) with
          | some m => makeT2RoomGo f n k (switchPage s (q / 2 ^ 31) (q % 2 ^ 31) m)
          | none => none
      | _, _ => none

/-- Room in T2 for n granules of a function.
DESIGN CHOICE (unsafe): log entry 54. -/
def makeT2Room (s : State) (f n : Nat) : Option State := makeT2RoomGo f n (n + 1) s

/-- Step 1 of a demotion to T2: the span's code table is made at its first (R60), a run is found within the
function's ceiling (R106) and MIG set (R100). -/
def startDemoteT2 (s : State) (span p : Nat) : Option State :=
  match s.span? span with
  | none => none
  | some x =>
    let x := withTable s x (s.pte span p)
    let n := codedGranules s x (s.pte span p)
    match makeT2Room s x.fn n with
    | none => none
    | some s =>
    match findRun s n with
    | none => none
    | some g =>
      let s := s.takeFree.setSpan span x
      let s := useRun s g n (.dest x.fn span p)
      let s := s.setPte span p { (s.pte span p) with mig := true }
      some { s with pg := { s.pg with migs := Tab.ins (pageKey span p) ⟨.t1t2, 0, g, n, 0, 0⟩ s.pg.migs } }

/-- A demotion of a page abandoned (Table 6-6). -/
def abandonDemote (s : State) (span p : Nat) : State :=
  match migOf s span p with
  | none => s
  | some m =>
    let s := dropMig (freeDest s m) span p
    (s.setPte span p { (s.pte span p) with mig := false }).incFld R.PAGE_MIG_ABORT_CNT.COUNT

/-- The function's own oldest eligible page of T1 demoted at once for the function's own ceiling (R106), unless demotion is off (R107). -/
def demoteOwn (s : State) (f : Nat) : Option State :=
  if !s.flag R.PAGE_CTL.MIG_ENABLE then none
  else
    match oldest (ownEligible s f .t1) with
    | none => none
    | some (k, _) =>
      match startDemoteT2 s (k / 2 ^ 31) (k % 2 ^ 31) with
      | none => none
      | some s => (migOf s (k / 2 ^ 31) (k % 2 ^ 31)).map (switchPage s (k / 2 ^ 31) (k % 2 ^ 31))

/-- Room in T1 for n frames of a function: while they would take it past its ceiling, its own oldest page is demoted (R106); `k` bounds the
pages. None where the op must wait (R102). -/
def makeT1RoomGo (f n : Nat) : Nat → State → Option State
  | 0, _ => none
  | k + 1, s => if fnT1 s f + n ≤ s.fld R.FN_T1_CEIL f then some s else (demoteOwn s f).bind (makeT1RoomGo f n k)

/-- Room in T1 for n frames of a function. -/
def makeT1Room (s : State) (f n : Nat) : Option State := makeT1RoomGo f n (n + 1) s

/-- A fixed region of T1 made for a function within its ceiling (R83, R106); none where the op must wait (R102). -/
def makeRegion (s : State) (f size : Nat) (kind : RegionKind) (owner pick : Nat) : Option (Nat × State) :=
  (makeT1Room s f (ceilDiv size 65536)).bind (fun s => allocRegion s f size kind owner pick)

/-- A T1 frame for a page (R96, R102, R106): none where the op must wait. -/
def allocFrame (s : State) (f q : Nat) : Option (Nat × State) :=
  if !s.mm.fresh1 then none else
  match makeT1Room s f 1 with
  | none => none
  | some s =>
    match placeFrame s 8192 q false with
    | none => none
    | some (n, off) => some (n, if off then s.incFld R.PAGE_FALLBACK_CNT.COUNT else s)

/-- A frame for a page-table unit, taken from the high bank pairs downward (R90).
DESIGN CHOICE (unsafe): log entry 27. -/
def sysFrame (s : State) : Nat → Option Nat
  | 0 => none
  | k + 1 =>
    match firstFree s 2048 (k * 2048) with
    | some f => some f
    | none => sysFrame s k

/-- The page-table unit of a page backed on first touch (R90).
DESIGN CHOICE (unsafe): log entry 27. -/
def backTable (s : State) (span p : Nat) : Option State :=
  let u := span * 2 ^ 20 + p / 2048
  if (Tab.find? u s.pg.tables).isSome then some s
  else
    match (if s.mm.fresh1 then sysFrame s 8192 else none) with
    | none => none
    | some f =>
      let s := useFrame s f .pageTable
      let s := { s with pg := { s.pg with tables := Tab.ins u f s.pg.tables } }
      match s.span? span with
      | some x => some (if x.ptBase = 0 then s.setSpan span { x with ptBase := frameAddr f } else s)
      | none => some s

/-- The fixed page scales of a span, or zeros that the first row replaces (R32). -/
def firstScales (x : Span) : Nat × Nat := if x.fixedScale then (x.fixedPk, x.fixedPv) else (0, 0)

/-- One page backed in T1 (R90). -/
def backPage (s : State) (span p : Nat) : Option State :=
  match s.span? span with
  | none => none
  | some x =>
    if (s.pte span p).st ≠ .unbacked then some s
    else
      match backTable s span p with
      | none => none
      | some s =>
        match allocFrame s x.fn (rotIndex x p) with
        | none => none
        | some (f, s) =>
          let s := tickPage (useFrame s f (.page x.fn span p))
          some (s.setPte span p { pte0 with st := .t1, frame := f, pk := (firstScales x).1, pv := (firstScales x).2,
                                            accessed := true, entered := s.pg.tick })

/-- Pages backed one after another, all or none (R90). -/
def backAll (span : Nat) : List Nat → State → Option State
  | [], s => some s
  | p :: r, s =>
    match backPage s span p with
    | none => none
    | some s => backAll span r s

/-- The pages of the page group of a page (R89). -/
def groupPages (x : Span) (p : Nat) : List Nat :=
  let i := x.interleave
  rangeFrom (p / i * i) i

/-- A page of T2 or T3 promoted to T1 at once for an op that needs it (R101). A promotion in progress is switched first; a demotion in progress
is abandoned, but a page of T1 is read where it is and its copy goes on (Table 6-6). -/
def promoteNow (s : State) (span p : Nat) (write : Bool) : PgRes :=
  match s.span? span with
  | none => .displaced
  | some x =>
    let e := s.pte span p
    match migOf s span p with
    | some m =>
      if m.kind = .t2t1 ∨ m.kind = .t3t1 then .ok (switchPage s span p m)
      else if e.st = .t1 then .ok (if write then abandonDemote s span p else s)
      else
        let s := abandonDemote s span p
        match allocFrame s x.fn (rotIndex x p) with
        | none => .wait
        | some (f, s) => .ok (switchPage s span p ⟨if e.st = .t3 then .t3t1 else .t2t1, f, 0, 0, 0, 0⟩)
    | none =>
      match e.st with
      | .t1 => .ok s
      | .t2 | .t3 =>
        match allocFrame s x.fn (rotIndex x p) with
        | none => .wait
        | some (f, s) => .ok (switchPage s span p ⟨if e.st = .t3 then .t3t1 else .t2t1, f, 0, 0, 0, 0⟩)
      | .unbacked => .ok s
      | .holed | .archived => .displaced

/-- A page ready to be written in T1: backed with its group on first touch, or promoted (R90, R101); a demotion of it is
abandoned and counted (Table 6-6). -/
def pageForWrite (s : State) (span p : Nat) : PgRes :=
  match s.span? span with
  | none => .displaced
  | some x =>
    match (s.pte span p).st with
    | .unbacked =>
      match backAll span (groupPages x p) s with
      | some s => .ok s
      | none => .wait
    | .holed | .archived => .displaced
    | _ => promoteNow s span p true

/-- Where an op waits for a frame or granule (R102), holding the pages of the keys meanwhile. -/
def waitFrame (s : State) (w : Who) (t2 : Bool) (keys : List Nat) : State :=
  if s.pg.waits.any (fun p => p.1 == w) then s
  else { s with pg := { s.pg with waits := s.pg.waits ++ [(w, t2, keys)] } }

/-- A wait ended. -/
def endWait (s : State) (w : Who) : State :=
  { s with pg := { s.pg with waits := s.pg.waits.filter (fun p => p.1 != w) } }

/-- All that waits to be scrubbed is scrubbed: frames by zero fill, granules by zero lines (R93). The start scrub of the whole
of T1 and T2 (R346) ends with it. -/
def scrubAll (s : State) : State :=
  let s := (s.mm.frames.filter (fun p => p.2 == .scrub)).foldl (fun s p => scrubRange s (frameAddr p.1) 65536) s
  let s := (s.mm.runs.filter (fun p => p.2.2 == .scrub)).foldl (fun s p => scrubRange s (t2Base + p.1 * 4096) (p.2.1 * 4096)) s
  { s with mm := { s.mm with
      fresh1 := true, fresh2 := true
      frames := s.mm.frames.filter (fun p => p.2 != .scrub)
      runs := s.mm.runs.filter (fun p => p.2.2 != .scrub) } }

/-- Does anything wait to be scrubbed (PAGE_CTL.SCRUB_BUSY)? -/
def scrubBusy (s : State) : Bool :=
  !s.mm.fresh1 || !s.mm.fresh2 || s.mm.frames.any (fun p => p.2 == .scrub) || s.mm.runs.any (fun p => p.2.2 == .scrub)

end Sys2Proof.Machine
end

