-- ==== Sys2Proof/Machine/Program.lean ====
section
/-! DEFINITION. Step programs: reading a loaded image, and the checks of PROGRAM_LOAD (R165, R177 to R186, R279). -/

namespace Sys2Proof.Machine

open Sys2Proof

/-- The program header (Table 10-4). -/
structure ProgHdr where
  id : Nat
  version : Nat
  phases : Nat
  buffers : Nat
  ops : Nat
  tileSets : Nat
  groups : Nat
  ctxBytes : Nat
  workKib : Nat
  winSize : Nat
  winBufs : Nat
  entry : Nat
  tables : Nat
  deriving DecidableEq, Repr

/-- The header fields of an image. -/
def parseHdr (b : List Byte) : ProgHdr :=
  { id := fieldAt b 0 2, version := fieldAt b 2 1, phases := fieldAt b 4 2, buffers := fieldAt b 6 2, ops := fieldAt b 8 4,
    tileSets := fieldAt b 12 2, groups := fieldAt b 14 2, ctxBytes := fieldAt b 16 4, workKib := fieldAt b 20 2,
    winSize := fieldAt b 22 1, winBufs := fieldAt b 23 1, entry := fieldAt b 24 2, tables := fieldAt b 26 2 }

/-- A phase table entry (R178). -/
structure Phase where
  first : Nat
  count : Nat
  repeat_ : Nat
  next : Nat
  retry : Bool
  deriving DecidableEq, Repr

/-- A phase entry of 16 bytes. -/
def parsePhase (b : List Byte) : Phase :=
  ⟨fieldAt b 0 4, fieldAt b 4 2, fieldAt b 6 2, fieldAt b 8 2, bitAt (fieldAt b 10 1) 0⟩

/-- A buffer table entry (R179). -/
structure Buf where
  base : Nat
  kind : Nat
  size : Nat
  stride : Nat
  deriving DecidableEq, Repr

/-- A buffer entry of 16 bytes. -/
def parseBuf (b : List Byte) : Buf := ⟨fieldAt b 0 6, fieldAt b 6 1, fieldAt b 8 4, fieldAt b 12 2⟩

/-- A step op (Table 10-5). -/
structure Op where
  opcode : Nat
  dep : Nat
  iter : Bool
  var : Nat
  unit_ : Nat
  src0 : Nat
  src1 : Nat
  dst : Nat
  aux : Nat
  arg0 : Nat
  arg1 : Nat
  arg2 : Nat
  arg3 : Nat
  arg4 : Nat
  deriving DecidableEq, Repr

/-- A step op of 32 bytes. -/
def parseOp (b : List Byte) : Op :=
  let f := fieldAt b 1 1
  { opcode := fieldAt b 0 1, dep := bits f 1 0, iter := bitAt f 2, var := bits f 7 3, unit_ := fieldAt b 2 2,
    src0 := fieldAt b 4 2, src1 := fieldAt b 6 2, dst := fieldAt b 8 2, aux := fieldAt b 10 2, arg0 := fieldAt b 12 4,
    arg1 := fieldAt b 16 4, arg2 := fieldAt b 20 4, arg3 := fieldAt b 24 4, arg4 := fieldAt b 28 4 }

/-- A VAR bit of an op. -/
def Op.varBit (o : Op) (n : Nat) : Bool := bitAt o.var n

/-- A collective group record (R177): members are node numbers with their parents' member indices. -/
structure Group where
  id : Nat
  root : Nat
  depth : Nat
  members : List (Nat × Nat)
  deriving DecidableEq, Repr

/-- The bytes of a group record of `n` members. -/
def groupBytes (n : Nat) : Nat := alignUp (8 + 4 * n) 16

/-- Does member i reach the member `root` by its parents within `k` steps (R165: a tree)? The root's own parent, FFFFH, is no member. -/
def reachesRoot (ms : List (Nat × Nat)) (root : Nat) : Nat → Nat → Bool
  | 0, i => i == root
  | k + 1, i => i == root || reachesRoot ms root k ((ms.getD i (0, 0xFFFF)).2)

/-- `k` group records from a byte on; none where one is malformed. The second part is the byte after them. -/
def parseGroups (b : List Byte) : Nat → Nat → Option (List Group × Nat)
  | 0, o => some ([], o)
  | k + 1, o =>
    let n := fieldAt b (o + 2) 2
    let root := fieldAt b (o + 4) 2
    let depth := fieldAt b (o + 6) 1
    let ms := (List.range n).map (fun i => (fieldAt b (o + 8 + 4 * i) 2, fieldAt b (o + 10 + 4 * i) 2))
    if 1 ≤ n ∧ n ≤ 32768 ∧ root < n ∧ 1 ≤ depth ∧ depth ≤ 16 ∧ fieldAt b (o + 7) 1 = 0 ∧
       zeroAt b (o + 8 + 4 * n) (groupBytes n - 8 - 4 * n) ∧
       ms.zipIdx.all (fun m => decide (m.1.1 < 32768) && (if m.2 = root then m.1.2 == 0xFFFF else decide (m.1.2 < n))) ∧
       (List.range n).all (reachesRoot ms root n) then
      match parseGroups b k (o + groupBytes n) with
      | some (r, e) => some (⟨fieldAt b o 2, root, depth, ms⟩ :: r, e)
      | none => none
    else none

/-- A program read from its image. -/
structure Prog where
  hdr : ProgHdr
  phases : List Phase
  bufs : List Buf
  tileSets : List Nat
  groups : List Group
  tables : List CodeTable
  ops : List Op
  size : Nat
  deriving DecidableEq, Repr

/-- Consecutive pieces of `w` bytes from a byte on. -/
def pieces (b : List Byte) (o w n : Nat) : List (List Byte) := (List.range n).map (fun i => (b.drop (o + w * i)).take w)

/-- An image taken apart, where its tables lie within it (R177). -/
def parseProg (b : List Byte) : Option Prog :=
  let h := parseHdr b
  let pO := 32
  let bO := pO + 16 * h.phases
  let tO := bO + 16 * h.buffers
  let gO := tO + 32 * h.tileSets
  match parseGroups b h.groups gO with
  | none => none
  | some (gs, aO) =>
    let oO := aO + 320 * h.tables
    if b.length < oO + 32 * h.ops then none
    else
      some { hdr := h, phases := (pieces b pO 16 h.phases).map parsePhase, bufs := (pieces b bO 16 h.buffers).map parseBuf,
             tileSets := (pieces b tO 32 h.tileSets).map leNat, groups := gs,
             tables := (pieces b aO 320 h.tables).filterMap parseTable, ops := (pieces b oO 32 h.ops).map parseOp,
             size := b.length }

/-! The checks of PROGRAM_LOAD. -/

/-- A buffer entry within its kind's ranges (R179, R279). -/
def bufValid (p : Prog) (raw : List Byte) (b : Buf) : Bool :=
  zeroAt raw 7 1 && zeroAt raw 14 2 &&
    match b.kind with
    | 0 => decide (b.base + b.size ≤ p.size)
    | 1 => true
    | 2 => true
    | 3 => decide (b.base + b.size ≤ 1536)
    | 4 => true
    | 5 => true
    | 6 =>
      bits b.base 15 0 % 4 == 0 && decide (bits b.base 15 0 < 1536) && decide (1 ≤ bits b.base 32 16) &&
        decide (bits b.base 32 16 ≤ 65000) && bits b.base 47 33 == 0 && b.size % 256 == 0 && decide (256 ≤ b.size) &&
        decide (b.size ≤ 1048576) && b.stride == 0
    | _ => false

/-- A handle within its range: none, or a buffer of the table (R179). -/
def hdl (p : Prog) (h : Nat) : Bool := h == 0xFFFF || decide (h < p.bufs.length)

/-- An operand an op needs: a buffer of one of some kinds, whose extent of `n` bytes lies within SIZE (R179) from the offset of
iteration `it` on. A receive queue has no extent. -/
def need (p : Prog) (it h n : Nat) (kinds : List Nat) : Bool :=
  match p.bufs[h]? with
  | some b => h != 0xFFFF && kinds.contains b.kind && decide (it * b.stride * 64 + n ≤ b.size)
  | none => false

/-- As `need`, or no buffer. -/
def needOr (p : Prog) (it h n : Nat) (kinds : List Nat) : Bool := h == 0xFFFF || need p it h n kinds

/-- Kinds of buffers that hold data. A store to KIND 0 is refused when the op runs (R83).
DEDUCED (unsafe): log entry 113. -/
def dataKinds : List Nat := [0, 1, 2, 3]

/-- Bytes of an element of a NORM or ELEMWISE output: FP32, BF16 or A8 with its vector scale behind it (R73).
DESIGN CHOICE (unsafe): log entry 12. -/
def outBytes (fmt n : Nat) : Nat := if fmt = 0 then 4 * n else if fmt = 1 then 2 * n else alignUp n 4 + 4

/-- A node number, or none. -/
def nodeOrNone (n : Nat) : Bool := n == 0xFFFF || decide (n < 32768)

/-- A tile set index of an op (Table 10-5). -/
def tileSetOk (p : Prog) (o : Op) : Bool := decide (o.unit_ < 256) && decide (o.unit_ < p.hdr.tileSets)

/-- The checks of SAMPLE and VERIFY arguments (R186): modes, K, INV_TEMP and TOP_P where they are used. -/
def sampleArgsOk (mode k : Nat) (invT topP : Nat) (uses : Bool) : Bool :=
  let t := BitVec.ofNat 32 invT
  let q := BitVec.ofNat 32 topP
  decide (mode ≤ 2) && decide (1 ≤ k) && decide (k ≤ 64) &&
    (!uses || mode == 0 || (fFinite t && fLt 0#32 t)) &&
    (!uses || mode != 2 || (fFinite q && fLt 0#32 q && !fLt fOne q))

/-- The bits set in a mask of n bits. -/
def maskCount (n m : Nat) : Nat := (List.range n).countP (fun i => bitAt m i)

/-- Bytes of one iteration of the descriptor array of a tile op: one descriptor for each tile of its set (R179). -/
def descBytes (p : Prog) (o : Op) : Nat := 64 * maskCount 256 (p.tileSets.getD o.unit_ 0)

/-- No unused field of an op is set: which of SRC0, SRC1, DST, AUX, ARG0 to ARG4 and UNIT are used. -/
def unusedZero (o : Op) (u s0 s1 d a a0 a1 a2 a3 a4 : Bool) : Bool :=
  (u || o.unit_ == 0) && (s0 || o.src0 == 0) && (s1 || o.src1 == 0) && (d || o.dst == 0) && (a || o.aux == 0) &&
    (a0 || o.arg0 == 0) && (a1 || o.arg1 == 0) && (a2 || o.arg2 == 0) && (a3 || o.arg3 == 0) && (a4 || o.arg4 == 0)

/-- One op against Table 10-6 (R177, R179, R182, R183); `last` is the last iteration of the phases that hold it.
DEDUCED (unsafe): log entry 113. -/
def opValid (p : Prog) (last : Nat) (o : Op) : Bool :=
  let it := if o.iter then last else 0
  let d (h n : Nat) : Bool := need p it h n dataKinds
  let dOr (h n : Nat) : Bool := needOr p it h n dataKinds
  decide (o.dep ≤ 2) &&
  match o.opcode with
  | 0x01 => decide (o.var < 4) && tileSetOk p o && d o.src0 1 && need p it o.src1 (descBytes p o) [4] && d o.dst 1 && decide (o.aux < 4) &&
      decide (1 ≤ o.arg0) && decide (o.arg0 ≤ 64) && unusedZero o true true true true true true false false false false
  | 0x02 => decide (o.var < 4) && d o.src0 1 && need p it o.src1 (16 * maskCount 16 o.unit_) [5] && d o.dst 1 &&
      unusedZero o true true true true false false false false false false
  | 0x03 => decide (o.var < 2) && d o.src0 (o.arg0 * (if o.varBit 0 then 16 else 32)) &&
      unusedZero o true true false false false true false false false false
  | 0x04 => o.var == 0 && unusedZero o false false false false false false false false false false
  | 0x05 => o.var == 0 && tileSetOk p o && need p it o.src1 (descBytes p o) [4] && decide (o.aux < 4) &&
      unusedZero o true false true false true false false false false false
  | 0x06 => decide (o.var < 2) && tileSetOk p o && d o.src0 (if o.varBit 0 then 0 else o.arg0) && d o.dst o.arg0 &&
      hdl p o.src1 && (!o.varBit 0 || dOr o.src1 4) && unusedZero o true true true true false true false false false false
  | 0x08 =>
      let n := o.arg1
      let f := o.var / 4 % 4
      decide (o.var < 16) && decide (f ≤ 2) && decide (1 ≤ n) && (o.varBit 1 || tileSetOk p o) && d o.src0 (2 * n) && d o.src1 (4 * n) &&
        hdl p o.aux && (!o.varBit 0 || d o.aux (4 * n)) && d o.dst (outBytes f n) &&
        unusedZero o true true true true true true true false false false
  | 0x09 =>
      let n := o.arg1
      let k := o.var % 8
      let f := o.var / 8
      decide (k ≤ 5) && decide (f ≤ 2) && tileSetOk p o &&
        d o.src0 (if k = 5 then 4 * n * o.arg2 else if k = 4 ∧ f ≠ 0 then 4 * n else 2 * n) && hdl p o.src1 && hdl p o.aux &&
        (!(k == 0 || k == 1 || k == 3) || d o.src1 (2 * n)) && (!(k == 2 || k == 5) || dOr o.aux 4) &&
        (k != 5 || (decide (2 ≤ o.arg2) && decide (o.arg2 ≤ 256))) && d o.dst (outBytes f n) &&
        unusedZero o true true true true true true true true false false
  | 0x0A => decide (o.var ≤ 2) && d o.src0 (2 * o.arg1) && hdl p o.src1 && (o.var == 0 || d o.src1 (2 * o.arg1)) &&
      unusedZero o true true true false false true true false false false
  | 0x0B => o.var == 0 && tileSetOk p o && decide (2 ≤ o.arg1) && decide (o.arg1 ≤ 512) && decide (1 ≤ o.arg0) &&
      decide (o.arg0 ≤ 8) && decide (o.arg0 ≤ o.arg1) && d o.src0 (4 * o.arg1) &&
      d o.dst (6 * o.arg0 + 2 * (o.arg0 % 2)) && unusedZero o true true false true false true true false false false
  | 0x10 => decide (o.var < 4) && d o.src0 1 && d o.src1 (128 * (bits o.arg0 20 15 + 1)) && dOr o.dst 1 && decide (o.aux < 8) &&
      bits o.arg0 31 27 == 0 && decide (bits o.arg0 8 0 < 256) && bits o.arg2 31 28 == 0 && decide (bits o.arg2 22 0 ≤ 4194304) &&
      decide (bits o.arg2 27 23 ≤ 16) && fFinite (BitVec.ofNat 32 o.arg1) && nodeOrNone (bits o.arg3 15 0) &&
      unusedZero o false true true true true true true true true false
  | 0x11 => decide (o.var < 8) && need p it o.src0 0 [6] && d o.dst 1 && (decide (o.aux < 8) || o.aux == 0xFFFF) &&
      decide (1 ≤ o.arg0) && decide (1 ≤ o.arg1) && decide (o.arg1 ≤ 64) &&
      unusedZero o false true false true true true true true false false
  | 0x12 => decide (o.var < 8) && d o.src0 (if o.varBit 2 then 56 else o.arg2) && (!o.varBit 2 || o.arg2 == 0) &&
      (o.varBit 2 || decide (o.arg0 < 32768)) &&
      unusedZero o false true false false true true true true false false
  | 0x13 => o.var == 0 && d o.src0 1 && d o.dst 1 && need p it o.aux 1 [3] &&
      unusedZero o false true false true true false false false false false
  | 0x14 => decide (o.var < 2) && d o.src0 1 && decide (o.aux < 8) && bits o.arg0 31 13 == 0 && decide (bits o.arg0 8 0 < 256) &&
      unusedZero o false true false false true true false false false false
  | 0x15 => decide (o.var ≤ 2) && hdl p o.src0 && (o.var != 2 || d o.src0 4) && decide (o.arg0 < 256) && decide (o.arg1 < 16) &&
      unusedZero o false true false false false true true false false false
  | 0x18 => decide (o.var < 8) && decide (o.arg0 < 65536) && p.groups.any (fun g => g.id == o.arg0) && decide (1 ≤ o.arg1) &&
      decide (o.arg1 ≤ 262144) && dOr o.src0 (o.arg1 * (if o.varBit 2 then 2 else 4)) && dOr o.dst 1 &&
      unusedZero o false true false true false true true false false false
  | 0x20 => o.var == 0 && nodeOrNone o.aux && unusedZero o false false false false true true true false false false
  | 0x21 => o.var == 0 && unusedZero o false false false false false true true true true false
  | 0x22 => decide (o.var < 4) && d o.src0 32 && unusedZero o false true false false false true true true false false
  | 0x23 => o.var == 0 && unusedZero o false false false false false true true true false false
  | 0x30 =>
      let st := o.var % 4
      let mode := o.var / 4 % 4
      let cnt := bits o.arg4 19 0
      decide (o.var < 16) && decide (st ≤ 2) && tileSetOk p o && sampleArgsOk mode o.arg0 o.arg1 o.arg2 (st != 1) &&
        decide (1 ≤ cnt) && (st != 1 || decide (o.arg0 ≤ cnt)) && (st != 2 || o.arg3 == 0) && bits o.arg4 31 24 == 0 &&
        d o.src0 (cnt * (if st = 2 then 8 else 4)) && d o.dst (if st = 1 then 8 * o.arg0 else 4) &&
        unusedZero o true true false true false true true true true true
  | 0x31 =>
      decide (o.var < 16) && o.var % 4 == 0 && sampleArgsOk (o.var / 4) o.arg0 o.arg1 o.arg2 true && bits o.arg3 31 20 == 0 &&
        decide (o.arg0 ≤ o.arg3) && d o.src0 (16 * o.arg3) && d o.src1 4 && d o.dst 8 &&
        unusedZero o false true true true false true true true true false
  | 0x3F => o.var == 0 && unusedZero o false false false false false false false false false false
  | _ => false

/-- The last iteration in which an op of the image runs: of the phases that hold it, the largest REPEAT − 1. -/
def lastIter (p : Prog) (i : Nat) : Nat :=
  p.phases.foldl (fun m f => if f.first ≤ i ∧ i < f.first + f.count then max m (f.repeat_ - 1) else m) 0

/-- The header against Table 10-4. -/
def hdrValid (b : List Byte) : Bool :=
  let h := parseHdr b
  h.version == 1 && zeroAt b 3 1 && zeroAt b 28 2 && crc16 (b.take 30) == fieldAt b 30 2 &&
    decide (1 ≤ h.phases) && decide (h.phases ≤ 4096) && decide (1 ≤ h.buffers) && decide (1 ≤ h.ops) &&
    decide (h.ops ≤ 1048576) && decide (h.tileSets ≤ 256) && decide (h.groups ≤ 64) && h.ctxBytes % 65536 == 0 &&
    decide (h.ctxBytes ≤ 2 ^ 30) && h.workKib % 64 == 0 && decide (h.winSize ≤ 28) && decide (h.winBufs ≤ 2) &&
    (h.winSize == 0 || decide (2 ^ h.winBufs ≤ h.winSize)) &&
    decide (h.workKib + 256 * h.winSize ≤ 8192) && decide (h.entry < h.phases)

/-- A whole image against R177: the program it holds, or none.
DEDUCED (unsafe): log entry 113. -/
def validProg (b : List Byte) : Option Prog :=
  if b.length < 32 || !hdrValid b then none
  else
    match parseProg b with
    | none => none
    | some p =>
      let bO := 32 + 16 * p.hdr.phases
      let phs := (pieces b 32 16 p.hdr.phases).zip p.phases
      let bfs := (pieces b bO 16 p.hdr.buffers).zip p.bufs
      if p.tables.length = p.hdr.tables ∧ p.tables.all (fun c => decide (1 ≤ c.id) && decide (c.id ≤ 0xFFFE)) ∧ allDistinct (p.groups.map (·.id)) ∧
         phs.all (fun q => decide (1 ≤ q.2.count) && decide (1 ≤ q.2.repeat_) && decide (q.2.first + q.2.count ≤ p.hdr.ops) &&
           (q.2.next == 0xFFFF || decide (q.2.next < p.hdr.phases)) && decide (fieldAt q.1 10 1 < 2) && zeroAt q.1 11 5) ∧
         bfs.all (fun q => bufValid p q.1 q.2) ∧ p.ops.zipIdx.all (fun q => opValid p (lastIter p q.2) q.1) then some p
      else none

/-- The image of a loaded program. -/
def progImage (s : State) (q : Program) : List Byte := rawBytes (pread s q.base q.size)

/-- A loaded program by slot, read from its image. -/
def progOf (s : State) (n : Nat) : Option (Program × Prog) :=
  match Tab.find? n s.sch.programs with
  | none => none
  | some q => (parseProg (progImage s q)).map (fun p => (q, p))

end Sys2Proof.Machine
end

