-- ==== Sys2Proof/Machine/CtxOps.lean ====
section
/-! DEFINITION. Contexts as the step ops and the scheduler use them: the state record (R173), work-region slices (R65), parking
(R175), operands of step ops (R179), issue and retirement (R178, R180, R181). -/

namespace Sys2Proof.Machine

open Sys2Proof

/-- A context by handle. -/
def State.ctx? (s : State) (h : Nat) : Option Ctx := Tab.find? h s.sch.ctxs

/-- A context's record written. -/
def State.setCtx (s : State) (h : Nat) (c : Ctx) : State := { s with sch := { s.sch with ctxs := Tab.ins h c s.sch.ctxs } }

/-- A context's record changed, if it exists. -/
def State.updCtx (s : State) (h : Nat) (f : Ctx → Ctx) : State := { s with sch := { s.sch with ctxs := Tab.upd h f s.sch.ctxs } }

/-- Contexts of a function that are resident, and that are parked. -/
def residentOf (s : State) (f : Nat) : Nat := s.sch.ctxs.countP (fun p => p.2.fn == f && p.2.resident)

/-- Parked contexts of a function. -/
def parkedOf (s : State) (f : Nat) : Nat := s.sch.ctxs.countP (fun p => p.2.fn == f && p.2.st == .parked)

/-- The combine entries that loaded groups reserve (COMB_STAT.RESERVED_ENTRIES). -/
def combReserved (s : State) : Nat :=
  (s.sch.programs.map (fun q =>
    match parseProg (progImage s q.2) with
    | some p => ((p.groups.filter (fun g => q.2.groups.any (fun x => x.1 == g.id))).map (·.depth)).foldl (· + ·) 0
    | none => 0)).foldl (· + ·) 0

/-! Tiles and slices. -/

/-- Is a tile retired (R80)? -/
def tileRetired (s : State) (t : Nat) : Bool := s.flag R.TILE_STAT.RETIRED t

/-- The tile that runs the share of tile t: itself, or while it is retired the next in-service tile of its die (R80). -/
def bindGo (s : State) : Nat → Nat → Nat
  | 0, t => t
  | k + 1, t => if tileRetired s t then bindGo s k (t / 64 * 64 + (t + 1) % 64) else t

/-- The tile on which tile t's share is bound.
DEDUCED (unsafe): log entry 50. -/
def bindTile (s : State) (t : Nat) : Nat := bindGo s 64 t

/-- The tiles of a mask, ascending. -/
def maskTiles (m : Nat) : List Nat := (List.range 256).filter (fun t => bitAt m t)

/-- Every tile of a program's tile sets (R175). -/
def progTiles (p : Prog) : List Nat := (List.range 256).filter (fun t => p.tileSets.any (fun m => bitAt m t))

/-- The bytes of a tile's window region (R64).
DEDUCED (unsafe): log entry 101. -/
def winBytes (s : State) (t : Nat) : Nat := s.fld R.TILE_WIN.WIN_SIZE t * 262144

/-- The slices on a physical tile: (handle × 256 + tile, (offset in T0, bytes)). -/
def slicesOn (s : State) (t : Nat) : List (Nat × (Nat × Nat)) := Tab.get [] t s.sch.slices

/-- Does a range of T0 lie clear of the slices on a tile? -/
def sliceClear (s : State) (t a n : Nat) : Bool :=
  (slicesOn s t).all (fun p => decide (p.2.1 + p.2.2 ≤ a) || decide (a + n ≤ p.2.1))

/-- A free slice of n bytes in the work region of a tile, at 64 KiB steps.
DESIGN CHOICE (unsafe in part): log entry 5. -/
def findSlice (s : State) (t n : Nat) : Option Nat :=
  let w := winBytes s t
  ((List.range 129).map (fun i => w + 65536 * i)).find? (fun a => decide (a + n ≤ 8388608) && sliceClear s t a n)

/-- One slice allotted. -/
def allotSlice (s : State) (h kib t : Nat) : Option State :=
  (findSlice s (bindTile s t) (kib * 1024)).map (fun a =>
    { s with sch := { s.sch with
        slices := Tab.put [] (bindTile s t) (Tab.ins (h * 256 + t) (a, kib * 1024) (slicesOn s (bindTile s t))) s.sch.slices } })

/-- Slices on every tile of a list, all or none. -/
def allotAll (h kib : Nat) : List Nat → State → Option State
  | [], s => some s
  | t :: r, s => (allotSlice s h kib t).bind (allotAll h kib r)

/-- Where the slice of a context for tile t lies: a local address and its bytes. -/
def sliceAt (s : State) (h t : Nat) : Option (Nat × Nat) :=
  let b := bindTile s t
  match Tab.find? (h * 256 + t) (slicesOn s b) with
  | some (a, n) => some (b * 8388608 + a, n)
  | none => none

/-- A context's slices scrubbed and freed (R175, R176). -/
def freeSlices (s : State) (h : Nat) : State :=
  let s := s.sch.slices.foldl (fun s e =>
    (e.2.filter (fun p => p.1 / 256 = h)).foldl (fun s p => scrubRange s (e.1 * 8388608 + p.2.1) p.2.2) s) s
  let left := s.sch.slices.map (fun e => (e.1, e.2.filter (fun p => p.1 / 256 ≠ h)))
  { s with sch := { s.sch with slices := left.filter (fun e => !e.2.isEmpty) } }

/-! Parking (R175). -/

/-- Has the context an armed trigger whose body starts a phase of it? -/
def hasStartTrigger (s : State) (h : Nat) : Bool :=
  s.sch.triggers.any (fun p => p.2.kind == 1 && fieldAt p.2.body 0 4 == h)

/-- The lowest free save-area slot, of 262,144 (R172).
DESIGN CHOICE (unsafe in part): log entry 5. -/
def freeSlot (s : State) : Option Nat :=
  let used := (s.sch.ctxs.filter (fun p => p.2.st == .parked)).map (fun p => p.2.slot)
  (List.range (used.length + 1)).find? (fun n => !used.contains n && decide (n < 262144))

/-- A context parked: its record goes to a save-area slot, its hardware number and slices are released.
DEDUCED (unsafe): log entry 31. -/
def park (s : State) (h : Nat) : State :=
  match freeSlot s with
  | none => s
  | some n =>
    let s := freeSlices s h
    (s.updCtx h (fun c => { c with st := .parked, resident := false, hw := 0, slot := n, sequencer := none, judged := false })).incFld
      R.SCHED_PARK_CNT.COUNT

/-- May this context be parked to make room for context h of function f, when only function `only`'s contexts are candidates?
DEDUCED (unsafe): log entry 121. -/
def parkable (s : State) (only : Option Nat) (f : Nat) (isParked : Bool) (p : Nat × Ctx) : Bool :=
  p.2.st == .idle && p.2.resident && !hasStartTrigger s p.1 && (freeSlot s).isSome &&
    (match only with | some g => p.2.fn == g | none => true) &&
    (decide (parkedOf s p.2.fn < s.fld R.FN_CTX_PARK_CEIL p.2.fn) || (p.2.fn == f && isParked))

/-- The candidate whose last step ended longest ago, the lower handle on a tie.
DEDUCED (unsafe): log entry 121. -/
def longestIdle : List (Nat × Ctx) → Option Nat
  | [] => none
  | p :: r =>
    match longestIdle r with
    | none => some p.1
    | some h =>
      match r.find? (fun q => q.1 == h) with
      | some q => if p.2.idleSince ≤ q.2.idleSince then some p.1 else some h
      | none => some p.1

/-- The lowest free hardware context number. -/
def freeHw (s : State) : Option Nat :=
  let used := (s.sch.ctxs.filter (fun p => p.2.resident)).map (fun p => p.2.hw)
  (List.range (used.length + 1)).find? (fun n => !used.contains n && decide (n < 4096))

/-- A context given a hardware number and slices, if they are free. -/
def takeResources (s : State) (h : Nat) (c : Ctx) : Option State :=
  match freeHw s, progOf s c.program with
  | some hw, some (_, p) =>
    match allotAll h c.workKib (progTiles p) s with
    | some s => some (s.setCtx h { c with resident := true, hw := hw, st := .idle, unparkSince := none })
    | none => none
  | _, _ => none

/-- A context made resident, parking candidates as R175 says; `k` bounds the parkings. -/
def residentGo (h : Nat) : Nat → State → Option State
  | 0, _ => none
  | k + 1, s =>
    match s.ctx? h with
    | none => none
    | some c =>
      let atCeil := decide (s.fld R.FN_CTX_HW_CEIL c.fn ≤ residentOf s c.fn)
      let got := if atCeil then none else takeResources s h c
      match got with
      | some s => some s
      | none =>
        let only := if atCeil then some c.fn else none
        let cands := s.sch.ctxs.filter (fun p => p.1 != h && parkable s only c.fn (c.st == .parked) p)
        match longestIdle cands with
        | none => none
        | some g => residentGo h k (park s g)

/-- A context made resident, if hardware context and slices can be had, and level mode does not hold back admission (R335).
DEDUCED (unsafe): log entry 121. -/
def makeResident (s : State) (h : Nat) : Option State :=
  if s.flag R.LVL_STAT.ADMIT_HELD then none else residentGo h (s.sch.ctxs.length + 1) s

/-! Operands of step ops (R179). -/

/-- An op of a context as it runs: the handle, the context's record at issue, its program, the op and its index in the phase. -/
structure OpCtx where
  h : Nat
  c : Ctx
  q : Program
  p : Prog
  o : Op
  idx : Nat
  deriving DecidableEq, Repr

/-- Where an operand lies. -/
inductive Loc where
  | mem (a : Nat)
  | area (o : Nat)
  deriving DecidableEq, Repr

/-- The iteration offset of an op's handles. -/
def OpCtx.iterOff (k : OpCtx) (b : Buf) : Nat := if k.o.iter then k.c.iter * b.stride * 64 else 0

/-- The tile whose slice an op without a tile set uses: the lowest of the program's tile sets.
DESIGN CHOICE (unsafe): log entry 28. -/
def OpCtx.anyTile (k : OpCtx) : Nat := (progTiles k.p).headD 0

/-- The tiles of an op's tile set. -/
def OpCtx.tiles (k : OpCtx) : List Nat := maskTiles (k.p.tileSets.getD k.o.unit_ 0)

/-- Bytes `off` to `off + n` of the buffer of a handle, for tile t, if they lie within SIZE and within the context's region or
slice, and clear of the window region (R64); none is ST_PROTECTION. -/
def operand (s : State) (k : OpCtx) (hd t off n : Nat) (write : Bool) : Option Loc :=
  match k.p.bufs[hd]? with
  | none => none
  | some b =>
    let o := k.iterOff b + off
    if b.size < o + n then none
    else
      let a := b.base + o
      match b.kind with
      | 0 => if write || k.q.size < a + n then none else some (.mem (k.q.base + a))
      | 1 => if k.p.hdr.ctxBytes < a + n then none else some (.mem (k.c.t1Base + a))
      | 2 =>
        match sliceAt s k.h t with
        | some (w, m) => if m < a + n ∨ (n ≠ 0 ∧ (w + a) % 8388608 < winBytes s (w / 8388608)) then none else some (.mem (w + a))
        | none => none
      | 3 => if 1536 < a + n then none else some (.area a)
      | _ => none

/-- Bytes of PROGRAM_AREA with their poison. -/
def areaRead (c : Ctx) (o n : Nat) : List PByte :=
  (rangeFrom o n).map (fun x => (c.area.getD x 0#8, NSet.has (x / 32) c.areaPsn))

/-- A list with bytes put in from a position on. -/
def putBytes (l : List Byte) (o : Nat) : List Byte → List Byte
  | [] => l
  | b :: r => putBytes (l.set o b) (o + 1) r

/-- Bytes written to PROGRAM_AREA, its lines behaving as T0 lines (R39, R173); `k` bounds the lines. -/
def areaGo : Nat → Ctx → Nat → List PByte → Ctx
  | 0, c, _, _ => c
  | _ + 1, c, _, [] => c
  | k + 1, c, o, b :: bs =>
    let n := 32 - o % 32
    let part := (b :: bs).take n
    let l := o / 32
    let c :=
      if anyPsn part then { c with areaPsn := NSet.add l c.areaPsn }
      else if part.length = 32 then
        { c with areaPsn := NSet.del l c.areaPsn, area := putBytes c.area o (rawBytes part) }
      else if NSet.has l c.areaPsn then c
      else { c with area := putBytes c.area o (rawBytes part) }
    areaGo k c (o + n) ((b :: bs).drop n)

/-- Bytes written to PROGRAM_AREA. -/
def areaWrite (c : Ctx) (o : Nat) (bs : List PByte) : Ctx := areaGo (bs.length + 1) c o bs

/-- An operand read by a tile or the controller; the second part is the state, moved on where a read was free to show an
earlier value (R118). -/
def locRead (s : State) (h : Nat) (l : Loc) (n : Nat) : List PByte × State :=
  match l with
  | .mem a => preadCtl s a n
  | .area o =>
    match s.ctx? h with
    | some c => (areaRead c o n, s)
    | none => ([], s)

/-- An operand written; the second part says that bytes were lost to poison in storage (R120). -/
def locWrite (s : State) (h : Nat) (l : Loc) (bs : List PByte) : State × Bool :=
  match l with
  | .mem a => pwrite s a bs
  | .area o => (s.updCtx h (fun c => areaWrite c o bs), false)

/-! Issue and retirement. -/

/-- What an op answers: retired with a status and its saturations, or still waiting. -/
inductive OpOut where
  | done (s : State) (st : Status) (sat : Nat)
  | wait (s : State)
  deriving DecidableEq, Repr

/-- The op at an index of the context's present phase. -/
def opAt (p : Prog) (c : Ctx) (idx : Nat) : Option Op :=
  match p.phases[c.phase]? with
  | some f => if idx < f.count then p.ops[f.first + idx]? else none
  | none => none

/-- May the op at the context's OP field start (R180)? -/
def depOk (c : Ctx) (o : Op) : Bool :=
  if o.dep = 0 then c.op == 0 || !NSet.has (c.op - 1) c.inflight
  else if o.dep = 2 then c.inflight.isEmpty
  else true

/-- Is a context held by the units its ops wait for: no further op of the iteration may start before one of them retires (R174)? -/
def heldByUnit (s : State) (c : Ctx) : Bool :=
  !c.inflight.isEmpty &&
    match progOf s c.program, c.step with
    | some (_, p), some e => e.stopped || (match opAt p c c.op with | some o => !depOk c o | none => true)
    | _, _ => true

/-- A WAITING context whose condition is met is READY (Table 10-2). -/
def wake (s : State) (h : Nat) : State :=
  match s.ctx? h with
  | none => s
  | some c =>
    if c.st ≠ .waiting ∨ heldByUnit s c ∨ s.sch.waiters.any (fun w => w.who == .ctx h) then s
    else
      let s := { s with sch := { s.sch with idleTick := s.sch.idleTick + 1 } }
      s.updCtx h (fun c => { c with st := .ready, idleSince := s.sch.idleTick })

/-- A RUNNING context whose ops are held by units is WAITING and gives up its sequencer (Table 10-2). -/
def holdCtx (s : State) (h : Nat) : State :=
  match s.ctx? h with
  | none => s
  | some c => if c.st = .running ∧ heldByUnit s c then s.setCtx h { c with st := .waiting, sequencer := none } else s

/-- An op's retirement recorded (R36, R178, R181): its saturations are added, and its status joins the step's. -/
def retireOp (s : State) (h idx : Nat) (st : Status) (sat : Nat) : State :=
  match s.ctx? h with
  | none => s
  | some c =>
    let c := { c with sat := satTo (2 ^ 32 - 1) (c.sat + sat), inflight := NSet.del idx c.inflight }
    match c.step with
    | none => s.setCtx h c
    | some e =>
      let retry : Bool := match progOf s c.program with
        | some (_, p) => (match p.phases[c.phase]? with | some f => f.retry | none => false)
        | none => false
      if st = .ok ∨ st = .poison ∨ st = .battLength then
        s.setCtx h { c with step := some (if e.stopped then e else { e with status := e.status.worse st }) }
      else if (st == .horizon || st == .epochStale) && retry && decide (c.retries < 3) && !e.stopped then
        s.setCtx h { c with step := some { e with retry := true } }
      else if e.stopped then s.setCtx h c
      else s.setCtx h { c with step := some { e with status := st, stopped := true }, faultPhase := c.phase, faultOp := idx }

/-- An op retires; a context that waited for it may go on. -/
def retire (s : State) (h idx : Nat) (st : Status) (sat : Nat) : State := wake (retireOp s h idx st sat) h

/-- May a context issue in the present slot (R191)? Under the work-conserving policy always. -/
def mayIssue (s : State) (h : Nat) (c : Ctx) : Bool :=
  if !s.flag R.SCHED_CTL.POLICY then true
  else
    let j := s.sch.slot
    let owns (g : Nat) (d : Ctx) : Bool :=
      d.fn == s.fld R.SCHED_SLOT.FUNCTION j && (!s.flag R.SCHED_SLOT.CTX_VALID j || g == s.fld R.SCHED_SLOT.CONTEXT j)
    !s.sch.guard && (owns h c ||
      (s.flag R.SCHED_SLOT.YIELD j && !s.sch.ctxs.any (fun p => owns p.1 p.2 && p.2.st == .ready)))

/-- An answer of an op taken up: retirement, or the op stays in flight (it has been since it was issued), which may hold its context. -/
def settle (h idx : Nat) : OpOut → State
  | .done s st sat => retire s h idx st sat
  | .wait s => holdCtx s h

/-- The first op in flight that a command names. -/
def inflightOp (p : Prog) (c : Ctx) (sel : Op → Bool) : Option (Nat × Op) :=
  (c.inflight.filterMap (fun i => (opAt p c i).map (fun o => (i, o)))).find? (fun q => sel q.2)

/-- A step op of a context runs: the op at OP, if it is the one named and may issue; otherwise one of the same kind that is in
flight and waits. Where neither is so, nothing happens.
DESIGN CHOICE (safe): log entry 2. -/
def runOp (s : State) (h : Nat) (sel : Op → Bool) (body : OpCtx → State → OpOut) : State :=
  match (if inA0 s then s.ctx? h else none) with
  | none => s
  | some c =>
    match c.step, progOf s c.program with
    | some e, some (q, p) =>
      let cur := match opAt p c c.op with
        | some o => if c.st == .running && !e.stopped && sel o && depOk c o && mayIssue s h c then some o else none
        | none => none
      match cur with
      | some o =>
        let s := s.setCtx h { c with op := c.op + 1, inflight := NSet.add c.op c.inflight }
        settle h c.op (body ⟨h, c, q, p, o, c.op⟩ s)
      | none =>
        match inflightOp p c sel with
        | some (i, o) => settle h i (body ⟨h, c, q, p, o, i⟩ s)
        | none => s
    | _, _ => s

/-- The completion record of a step (Tables 11-5, 11-7): to its descriptor, or, for a START_PHASE trigger, to the ring the
context was opened on, with TAG and SEQ free (they come from no descriptor).
DESIGN CHOICE (unsafe): log entry 15. DESIGN CHOICE (unsafe): log entry 30. -/
def completeStep (s : State) (c : Ctx) (src : StepSrc) (st : Status) : State :=
  let detail := if st = .ok then 0 else c.faultPhase * 65536 + c.faultOp
  let res := leBytes 4 c.token ++ leBytes 4 c.position ++ leBytes 2 c.accepted
  match src with
  | .desc f r n => complete s f r n st detail res
  | .trigger f _ =>
    let t := Config.freeNat s.freeCtr % 2 ^ 32
    let q := Config.freeNat (s.freeCtr + 1) % 2 ^ 32
    deliver (s.takeFree 2) f c.ring ⟨t, q, st, 0x03, false, detail, res, false⟩

/-- The end of a step that started (R181). -/
def endStep (s : State) (h : Nat) : State :=
  match s.ctx? h with
  | none => s
  | some c =>
    match c.step with
    | none => s
    | some e =>
      let good := e.status = .ok ∨ e.status = .poison ∨ e.status = .battLength
      let c := { c with position := if good then (c.position + 1 + c.accepted) % 2 ^ 32 else c.position,
                        stepCtr := (c.stepCtr + 1) % 2 ^ 64, lastStatus := e.status }
      let s := completeStep s c e.src e.status
      let s := { s with sch := { s.sch with idleTick := s.sch.idleTick + 1 } }
      s.setCtx h { c with accepted := 0, st := .idle, step := none, inflight := [], sequencer := none, retries := 0,
                          quantumOver := false, idleSince := s.sch.idleTick }

/-- A step starts at a phase (R181). -/
def startStep (s : State) (h phase : Nat) (src : StepSrc) : State :=
  let s := { s with sch := { s.sch with idleTick := s.sch.idleTick + 1 } }
  s.updCtx h (fun c => { c with st := .ready, phase := phase, op := 0, iter := 0, retries := 0, accepted := 0,
                                faultPhase := 0xFFFF, faultOp := 0xFFFF, step := some ⟨src, .ok, false, false⟩,
                                inflight := [], idleSince := s.sch.idleTick, sequencer := none, quantumOver := false })

/-! Fixed slots (R191). -/

/-- The slot lengths of the cycle, in ns. -/
def slotLens (s : State) : List Nat := (List.range (s.fld R.SCHED_CTL.SLOT_COUNT)).map (fun j => s.fld R.SCHED_SLOT.LEN j * 1000)

/-- The slot that holds a place in the cycle, with its end. -/
def slotAt : List Nat → Nat → Nat → Nat → Nat × Nat
  | [], j, b, _ => (j, b)
  | l :: r, j, b, t => if t < b + l then (j, b + l) else slotAt r (j + 1) (b + l) t

/-- The slot of a fabric time: its number and the fabric time of its end. -/
def slotOf (s : State) (t : Nat) : Nat × Nat :=
  let ls := slotLens s
  let cyc := ls.foldl (· + ·) 0
  if cyc = 0 then (0, t) else let q := slotAt ls 0 0 (t % cyc); (q.1, t - t % cyc + q.2)

/-- The slot of the present fabric time runs. -/
def takeSlot (s : State) : State :=
  let q := slotOf s s.now
  { s with sch := { s.sch with slot := q.1, slotEnd := q.2, guard := false } }

end Sys2Proof.Machine
end

