-- ==== Sys2Proof/Machine/KvOps.lean ====
section
/-! DEFINITION. KV rows: head records (R29, R32), the horizon (R146, R147), rows read back, and the order in which pages are
touched. -/

namespace Sys2Proof.Machine

open Sys2Proof

/-- Consecutive pieces of `n` elements; `k` bounds their number. -/
def chunks {α : Type} (n : Nat) : Nat → List α → List (List α)
  | 0, _ => []
  | _ + 1, [] => []
  | k + 1, l => l.take n :: chunks n k (l.drop n)

/-- Pieces of `n`. -/
def chunk {α : Type} (n : Nat) (l : List α) : List (List α) := chunks n l.length l

/-- An FP32 element with its poison. -/
abbrev PElem := W32 × Bool

/-- FP32 elements from bytes: an element is poisoned when a byte of its value group of 32 is (R37, R38). -/
def elemsOf (bs : List PByte) : List PElem :=
  (chunk 128 bs).flatMap (fun g => let p := anyPsn g; (chunk 4 g).map (fun w => (BitVec.ofNat 32 (leNat (rawBytes w)), p)))

/-- BF16 elements from bytes, widened. -/
def elemsBf (bs : List PByte) : List PElem :=
  (chunk 64 bs).flatMap (fun g => let p := anyPsn g; (chunk 2 g).map (fun w => (fOfBf16 (BitVec.ofNat 16 (leNat (rawBytes w))), p)))

/-- Bytes of a vector of n elements, BF16 or FP32. -/
def vecBytes (bf : Bool) (n : Nat) : Nat := (if bf then 2 else 4) * n

/-- The elements of a vector's bytes, BF16 widened exactly or FP32 (R73). -/
def vecElems (bf : Bool) (bs : List PByte) : List PElem := if bf then elemsBf bs else elemsOf bs

/-- The bytes of elements of `w` bytes each, a poisoned element's bytes marked. -/
def bytesOf (w : Nat) (es : List (Nat × Bool)) : List PByte := es.flatMap (fun e => (leBytes w e.1).map (fun b => (b, e.2)))

/-- Poison spread over value groups of 32 elements (R37). -/
def spread (ps : List Bool) : List Bool := (chunk 32 ps).flatMap (fun g => let p := g.any id; g.map (fun _ => p))

/-! Head records. -/

/-- Elements packed at their width (R23): two KV4 elements to a byte. -/
def packVals (kv4 : Bool) : List (Int × Bool) → List PByte
  | a :: b :: r =>
    if kv4 then (BitVec.ofInt 4 b.1 ++ BitVec.ofInt 4 a.1, a.2 || b.2) :: packVals kv4 r
    else (BitVec.ofInt 8 a.1, a.2) :: (BitVec.ofInt 8 b.1, b.2) :: packVals kv4 r
  | [a] => [(if kv4 then (BitVec.ofInt 4 a.1).setWidth 8 else BitVec.ofInt 8 a.1, a.2)]
  | [] => []

/-- One K or V tensor of a head quantised or converted (R32): element bytes, scale bytes, saturations, poison. -/
def putTensor (fmt : KvFmt) (p : W32) (es : List PElem) : List PByte × List PByte × Nat × Bool :=
  match fmt with
  | .bf16 => (bytesOf 2 (List.zipWith (fun (e : PElem) p => ((bf16OfF e.1).toNat, p)) es (spread (es.map (·.2)))), [], 0, es.any (·.2))
  | _ =>
    let qmax := if fmt = .kv4 then 7 else 127
    let gs := (chunk 32 es).map (fun g =>
      let q := quantiseKvGroup (g.map (·.1)) p qmax
      let bad := g.any (·.2) || q.bad.any id
      (packVals (fmt = .kv4) (q.vals.map (fun v => (v, bad))), (q.code, bad),
        (if bad then 0 else q.sat.countP id + (if q.scaleSat then 1 else 0)), bad))
    (gs.flatMap (·.1), gs.map (·.2.1), (gs.map (·.2.2.1)).foldl (· + ·) 0, gs.any (·.2.2.2))

/-- A row's head records: bytes, saturations, poison. `es` is KV_HEADS × (K then V) × D elements (R209). A page scale that is not
positive and finite poisons every record, and nothing is counted (R32, Table 3-8).
DEDUCED (unsafe): log entry 118. -/
def putRow (x : Span) (pk pv : W32) (es : List PElem) : List PByte × Nat × Bool :=
  let hs := (chunk (2 * x.dim) es).map (fun h =>
    let k := putTensor x.fmt pk (h.take x.dim)
    let v := putTensor x.fmt pv (h.drop x.dim)
    (k.1 ++ v.1 ++ k.2.1 ++ v.2.1, k.2.2.1 + v.2.2.1, k.2.2.2 || v.2.2.2))
  if x.fmt ≠ .bf16 ∧ (!scaleGood pk || !scaleGood pv) then ((hs.flatMap (·.1)).map (fun b => (b.1, true)), 0, true)
  else (hs.flatMap (·.1), (hs.map (·.2.1)).foldl (· + ·) 0, hs.any (·.2.2))

/-- The page scales that the first row written to a page sets (R32).
DEDUCED (unsafe): log entry 129. -/
def rowScales (x : Span) (es : List PElem) : Nat × Nat :=
  let qmax := if x.fmt = .kv4 then 7 else 127
  let hs := chunk (2 * x.dim) es
  let am (f : List PElem → List PElem) : W32 := fAmax ((hs.flatMap f).map (·.1))
  ((pageScale (am (fun h => h.take x.dim)) qmax).toNat, (pageScale (am (fun h => h.drop x.dim)) qmax).toNat)

/-! ROWS and TENT (R147). -/

/-- The row at position k of a page of a layer slot. -/
def pageRowNo (x : Span) (p k : Nat) : Nat := ((p % x.slotPages) / x.interleave * x.rpp + k) * x.interleave + p % x.interleave

/-- Row positions of a page below a row count. -/
def rowsBelow (x : Span) (p n : Nat) : Nat := (List.range x.rpp).countP (fun k => decide (pageRowNo x p k < n ∧ pageRowNo x p k < x.maxTokens))

/-- A page's ROWS after a change of APPENDED, and its TENT bit. -/
def fixTent (x : Span) (p : Nat) (e : Pte) : Pte :=
  let w := e.written.filter (fun k => pageRowNo x p k < x.appended)
  { e with written := w, tent := decide (w.length ≠ rowsBelow x p x.horizon) }

/-- A span's counters changed: every backed page's ROWS and TENT follow. -/
def setCounters (s : State) (n : Nat) (x : Span) : State :=
  let s := s.setSpan n x
  { s with pg := { s.pg with ptes := s.pg.ptes.map (fun q =>
      if q.1 / 2 ^ 31 = n ∧ q.2.st ≠ .unbacked then (q.1, fixTent x (q.1 % 2 ^ 31) q.2) else q) } }

/-- Is any sector of a page of T1 poisoned (PTE POISON, R98)? -/
def fixPsn (s : State) (n p : Nat) : State :=
  let e := s.pte n p
  if e.st = .t1 then s.setPte n p { e with psn := !(pagePsn s e).isEmpty } else s

/-! Protection copies follow committed rows (R147, R319). -/

/-- Row r of slot l as stored, with its poison. -/
def rowBytesAt (s : State) (n l r : Nat) : List PByte :=
  match s.span? n with
  | none => []
  | some x =>
    let q := x.rowAt l r
    let e := s.pte n q.1
    if e.st = .t1 then pread s (frameAddr e.frame + q.2) x.rowBytes
    else (rangeFrom q.2 x.rowBytes).map (fun i => (Tab.get 0#8 i e.image, NSet.has (i / 32) e.imagePsn))

/-- P_K and P_V that go with row r of slot l: on a page's first row (R319). -/
def rowScalesAt (s : State) (n l r : Nat) : Option (Nat × Nat) :=
  match s.span? n with
  | none => none
  | some x => if r / x.interleave % x.rpp = 0 then let e := s.pte n (x.rowAt l r).1; some (e.pk, e.pv) else none

/-- Rows of bytes added: XOR, byte by byte, poison spreading (R320). -/
def prowXor (a b : List PByte) : List PByte := List.zipWith (fun x y => (x.1 ^^^ y.1, x.2 || y.2)) a b

/-- Has row r of slot l been written? -/
def rowWritten (s : State) (n l r : Nat) : Bool :=
  match s.span? n with
  | none => false
  | some x => (s.pte n (x.rowAt l r).1).written.contains (r / x.interleave % x.rpp)

/-- Written rows of every slot from one row to another sent to the span's copies: to the mirror, or to both parity members. -/
def sendRows (s : State) (n a b : Nat) (slots : List Nat) : State :=
  match s.span? n, Tab.find? n s.pg.prot with
  | some x, some q =>
    let dsts := if x.prot = .mirror then q.take 1 else if x.prot = .coded then q.drop 7 else []
    let rs := slots.flatMap (fun l => ((rangeFrom a (b - a)).filter (fun r => rowWritten s n l r)).map (fun r => (l, r)))
    rs.foldl (fun s lr => dsts.foldl (fun s m =>
      s.emit (.protRow m n lr.1 lr.2 x.horizon x.gen (rowScalesAt s n lr.1 lr.2) (rowBytesAt s n lr.1 lr.2))) s) s
  | _, _ => s

/-- A committed row rewritten: a mirror receives the new row, parity members the XOR of the old and the new (R319). -/
def resendRow (s : State) (n l r : Nat) (old : List PByte) : State :=
  match s.span? n, Tab.find? n s.pg.prot with
  | some x, some q =>
    let new := rowBytesAt s n l r
    let send (m : Nat) (b : List PByte) (s : State) : State := s.emit (.protRow m n l r x.horizon x.gen (rowScalesAt s n l r) b)
    if x.prot = .mirror then (q.take 1).foldl (fun s m => send m new s) s
    else if x.prot = .coded then (q.drop 7).foldl (fun s m => send m (prowXor old new) s) s
    else s
  | _, _ => s

/-- What a row held before, as the copies have it: zeros where it was not yet written. -/
def oldRow (s : State) (n l r : Nat) (x : Span) : List PByte :=
  if rowWritten s n l r then rowBytesAt s n l r else List.replicate x.rowBytes (0#8, false)

/-- HORIZON moved up to n; rows that are now both written and committed go to the copies. -/
def commitTo (s : State) (n : Nat) (x : Span) (h : Nat) : State :=
  sendRows (setCounters s n { x with horizon := h }) n x.horizon h (List.range x.layerSlots)

/-! The operations of Table 8-8. -/

/-- Who may act on a span (Table 6-1, R91, R92, R146): the span, or the status that refuses. -/
def spanFor (s : State) (f n : Nat) : Except Status Span :=
  match s.span? n with
  | none => .error .invalid
  | some x =>
    if x.st = .freeing ∨ x.st = .free then .error .invalid
    else if x.fn ≠ f then .error .protection
    else if x.st = .incomplete then .error .incompleteSpan
    else .ok x

/-- The span of an operation: parameters out of range come before the rights to the span and its state (R131, R214). -/
def spanIf (s : State) (f n : Nat) (ok : Span → Bool) : Except Status Span :=
  match s.span? n with
  | none => .error .invalid
  | some x => if x.st ≠ .freeing ∧ x.st ≠ .free ∧ ok x = false then .error .invalid else spanFor s f n

/-- KV_COMMIT to n. -/
def kvCommitTo (s : State) (n : Nat) (x : Span) (h : Nat) : State × Status :=
  if x.appended < h then (s, .invalid)
  else if h ≤ x.horizon then (s, .ok)
  else (commitTo s n x h, .ok)

/-- KV_REWIND to n. Rewinds of one span are applied at least 16 ns apart: one arriving sooner waits until then. -/
def kvRewindTo (s : State) (n : Nat) (x : Span) (h : Nat) : State × Status :=
  if h < x.horizon ∨ x.appended < h then (s, .invalid)
  else
    let at_ := match x.lastRewind with | some t => max s.now (t + 16) | none => s.now
    (setCounters s n { x with appended := h, gen := (x.gen + 1) % 2 ^ 32, lastRewind := some at_ }, .ok)

/-- What writing a row answers: written (lost to poison in storage or not), or it must wait for a frame, or the page is gone. -/
inductive RowRes where
  | ok (s : State) (psn : Bool) (sat : Nat)
  | wait
  | displaced

/-- The bytes of a row placed in its page's frame, by an NBU or by the controller.
DEDUCED (unsafe): log entry 35. -/
def placeRow (s : State) (n l r : Nat) (x : Span) (nbu : Option Nat) (mk : Pte → List PByte × Nat × Bool × Pte) : RowRes :=
  let q := x.rowAt l r
  match pageForWrite s n q.1 with
  | .wait => .wait
  | .displaced => .displaced
  | .ok s =>
    let (bs, sat, psn, e) := mk (s.pte n q.1)
    let k := r / x.interleave % x.rpp
    let s := s.setPte n q.1 { e with written := NSet.add k e.written, accessed := true }
    let a := frameAddr e.frame + q.2
    let (s, lost) := match nbu with
      | some c => nbuWrite s x.fn c a bs
      | none => let w := pwrite s a bs; (invalidate w.1 a bs.length, w.2)
    .ok (fixPsn s n q.1) (psn || lost) sat

/-- A row of FP32 elements written: the first row of an auto-scaled page sets the page scales. -/
def writeRow (s : State) (n l r : Nat) (x : Span) (nbu : Option Nat) (es : List PElem) : RowRes :=
  placeRow s n l r x nbu (fun e =>
    let e := if x.fixedScale || x.fmt = .bf16 || e.pk ≠ 0 then e else { e with pk := (rowScales x es).1, pv := (rowScales x es).2 }
    let w := putRow x (BitVec.ofNat 32 e.pk) (BitVec.ofNat 32 e.pv) es
    (w.1, w.2.1, w.2.2, e))

/-- A row of head records written as given (R209); on a page whose fixed scale is bad every record is poisoned (Table 3-8). -/
def writeRecords (s : State) (n l r : Nat) (x : Span) (bs : List PByte) : RowRes :=
  placeRow s n l r x none (fun e =>
    let bad := x.fixedScale && x.fmt ≠ .bf16 && (!scaleGood (BitVec.ofNat 32 e.pk) || !scaleGood (BitVec.ofNat 32 e.pv))
    (bs.map (fun b => (b.1, b.2 || bad)), 0, bad || anyPsn bs, e))

/-- KV append of row r to slot l (Table 8-8): the answer as an op's. `commit` commits the row in the same step. -/
def kvAppendRow (s : State) (f n l r : Nat) (es : List PElem) (commit : Bool) (nbu : Nat) : OpOut :=
  match spanFor s f n with
  | .error st => .done s st 0
  | .ok x =>
    if x.layerSlots ≤ l ∨ x.appended < r ∨ x.maxTokens ≤ r then .done s .invalid 0
    else
      match writeRow s n l r x (some nbu) es with
      | .wait => .wait s
      | .displaced => .done s .displaced 0
      | .ok t psn sat =>
        let x := match t.span? n with | some y => y | none => x
        let t := setCounters t n { x with appended := max x.appended (r + 1) }
        let y := { x with appended := max x.appended (r + 1) }
        let t := if commit && decide (y.horizon < r + 1) then commitTo t n y (r + 1)
                 else if r < y.horizon then resendRow t n l r (oldRow s n l r x) else t
        .done t (if psn then .poison else .ok) sat

/-! Batt faults of pages (R56, R58, R59). -/

/-- The bytes of a page that batt b of it carries (R60). -/
def battBytes (x : Span) (b : Nat) : Nat × Nat := if x.fmt = .kv4 then (8192 * b, 8192 * b + 8192) else (16384 * b, 16384 * b + 16384)

/-- The bytes of a value group of a head record (R37, Table 3-4), as runs (offset, length): its elements, and its S8 scale. -/
def groupRuns (x : Span) (j : Nat) : List (Nat × Nat) :=
  match x.fmt with
  | .bf16 => [(64 * j, 64)]
  | _ =>
    let w := if x.fmt = .kv4 then 16 else 32
    [(w * j, w), (2 * (x.dim / 32) * w + j, 1)]

/-- The value groups of a page: every head record of every row it can hold. -/
def pageGroups (x : Span) : List (List (Nat × Nat)) :=
  (List.range x.rpp).flatMap (fun r => (List.range x.kvHeads).flatMap (fun h => (List.range (2 * (x.dim / 32))).map (fun j =>
    (groupRuns x j).map (fun g => (r * x.rowBytes + h * headBytes x.fmt x.dim + g.1, g.2)))))

/-- The sectors that a run of a page's bytes touches. -/
def runSectors (g : Nat × Nat) : List Nat := if g.2 = 0 then [] else rangeFrom (g.1 / 32) ((g.1 + g.2 - 1) / 32 + 1 - g.1 / 32)

/-- Poison of batt b of a page: its bytes, and every byte of a value group that has a part in it (R42, R56). -/
def poisonPart (x : Span) (psn : List Nat) (b : Nat) : List Nat :=
  let r := battBytes x b
  let gs := (pageGroups x).filter (fun g => g.any (fun y => decide (y.1 < r.2) && decide (r.1 < y.1 + y.2)))
  (gs.flatMap (fun g => g.flatMap runSectors) ++ runSectors (r.1, r.2 - r.1)).foldl (fun l k => NSet.add k l) psn

/-- The batts of a page that stored bytes o to o + n − 1 belong to. -/
def battsAt (x : Span) (e : Pte) (o n : Nat) : List Nat :=
  let ls := (storedBatts x e).map List.length
  let ends := runSums 0 ls
  (List.range ls.length).filter (fun b => decide (o < ends.getD b 0) && decide (ends.getD b 0 - ls.getD b 0 < o + n))

/-- A page whose stored bytes come with poison: the value groups of the batts that hold it are poison (R37, R56). -/
def loseBatts (x : Span) (e : Pte) (bs : List PByte) : Pte :=
  let hit := ((bs.zipIdx.filter (fun b => b.1.2)).flatMap (fun b => battsAt x e b.2 1)).foldr NSet.add []
  if hit.isEmpty then e else { e with imagePsn := hit.foldl (poisonPart x) e.imagePsn, psn := true }

/-- A batt fault of a page logged to the span's owner as 0x13 (R58); DETAIL holds the batt, the KIND, the substream and the first affected
position.
DESIGN CHOICE (unsafe): log entry 22. -/
def logBatt (s : State) (f ctx n a b : Nat) (x : BattFault) : State :=
  let l := leBytes 4 b ++ leBytes 1 x.kind ++ leBytes 1 x.sub ++ leBytes 2 x.first ++ leBytes 8 0
  logFn s f { entry0 s 0x13 (if x.isLength then .battLength else .poison) f with context := ctx, object := n, address := a, detail := l }

/-- Bytes of batt b, which starts at stored byte o, as the decoder reads them: some may differ from what was written. -/
def battRead (bs : List Byte) (o : Nat) (bad : List (Nat × Byte)) : List Byte :=
  bs.zipIdx.map (fun p => match bad.find? (fun q => q.1 == o + p.2) with | some q => q.2 | none => p.1)

/-- The span's own tables, as a page's batts name them (R51). -/
def spanLook (x : Span) (id gen : Nat) : Option CodeTable := if id = 0xFFFF then x.table gen else none

/-- One batt of a page decoded (R54 to R57): the symbols and the fault, if any. -/
def decodePart (x : Span) (b : Nat) (bs : List Byte) : List Nat × Option BattFault :=
  decodeBatt (battWant x.wide 2 (if x.wide then 65536 else 131072) b) (spanLook x) bs

/-- A page's cells with the bytes of batt b replaced by decoded symbols. -/
def putPart (x : Span) (img : List Host.Cell) (b : Nat) (syms : List Nat) : List Host.Cell :=
  (packSyms x.wide syms).zipIdx.foldl (fun m p => Tab.put 0#8 ((battBytes x b).1 + p.2) p.1 m) img

/-- A page below T1 read by the paging engine's decoders (R59): where stored bytes read otherwise than they were written, the batts that hold
them decode to what they now say; a faulted batt's value groups are poison and its fault is logged to the span's owner. Answers the state
and the faulted batts. `ctx` is the context of the operation that decodes, if one does.
DESIGN CHOICE (safe): log entry 25. -/
def decodeBatts (s : State) (ctx n p : Nat) (bad : List (Nat × Byte)) : State × List Nat :=
  match s.span? n with
  | none => (s, [])
  | some x =>
    let bs := storedBatts x (s.pte n p)
    let ends := runSums 0 (bs.map List.length)
    let hit := (List.range bs.length).filter (fun b => bad.any (fun q => decide (ends.getD b 0 - (bs.getD b []).length ≤ q.1) && decide (q.1 < ends.getD b 0)))
    hit.foldl (fun acc b =>
      let r := decodePart x b (battRead (bs.getD b []) (ends.getD b 0 - (bs.getD b []).length) bad)
      let e := acc.1.pte n p
      let e := { e with image := putPart x e.image b r.1 }
      match r.2 with
      | none => (acc.1.setPte n p e, acc.2)
      | some f =>
        let e := { e with imagePsn := poisonPart x e.imagePsn b, psn := true }
        (logBatt (acc.1.setPte n p e) x.fn ctx n (x.base + p * 65536) b f, acc.2 ++ [b])) (s, [])

/-- A page decoded where it lies in T2 or T3. -/
def decodeStored (s : State) (ctx n p : Nat) (bad : List (Nat × Byte)) : State × List Nat :=
  if (s.pte n p).st ≠ .t2 ∧ (s.pte n p).st ≠ .t3 then (s, []) else decodeBatts s ctx n p bad

/-- A page as its batts decode: its plain contents, with the value groups of batts that fault or were lost poisoned, and the faults by batt. A
lost batt supplies no fault of its own.
DESIGN CHOICE (safe): log entry 132. -/
def readBatts (x : Span) (e : Pte) (batts : List (List Byte × Bool)) : Pte × List (Nat × BattFault) :=
  batts.zipIdx.foldl (fun acc b =>
    let r := decodePart x b.2 b.1.1
    let e := { acc.1 with image := putPart x acc.1.image b.2 r.1 }
    let p := { e with imagePsn := poisonPart x e.imagePsn b.2 }
    match b.1.2, r.2 with
    | true, _ => (p, acc.2)
    | false, some f => (p, acc.2 ++ [(b.2, f)])
    | false, none => (e, acc.2)) (e, [])

/-- A page held for a borrower as its lender's vault and tiles read it (R145, R301). `psn` are the stored bytes that the lender's storage has
lost. -/
def lentRead (l : LentIn) (bad : List (Nat × Byte)) (psn : Nat → Bool) : Pte × List Nat :=
  let ends := runSums 0 (l.batts.map List.length)
  let r := readBatts (lentSpan l) { pte0 with st := .t2, pk := l.pk, pv := l.pv } (l.batts.zipIdx.map (fun b =>
    let o := ends.getD b.2 0 - b.1.length
    (battRead b.1 o bad, (List.range b.1.length).any (fun i => psn (o + i)))))
  (r.1, r.2.map (·.1))

/-- The stored bytes of a page that read otherwise, out of those an operation meets. -/
def badOf (bad : List (Nat × Nat × Byte)) (p : Nat) : List (Nat × Byte) := (bad.filter (fun q => q.1 == p)).map (·.2)

/-- A page read for a promotion (R59); the context is none's.
DESIGN CHOICE (safe): log entry 25. -/
def poisonBatts (s : State) (n p : Nat) (bad : List (Nat × Byte)) : State := (decodeStored s (2 ^ 19 - 1) n p bad).1

/-! Rows read back. -/

/-- Bytes of a page wherever it lies; an unbacked page reads zeros; a page whose entry fails its CRC reads as poison (R90, R95).
DEDUCED (unsafe): log entry 38. -/
def pageRead (s : State) (e : Pte) (o n : Nat) : List PByte :=
  let bs := match e.st with
    | .t1 => pread s (frameAddr e.frame + o) n
    | .unbacked => List.replicate n (0#8, false)
    | _ => (rangeFrom o n).map (fun i => (Tab.get 0#8 i e.image, NSet.has (i / 32) e.imagePsn))
  if e.crcBad then bs.map (fun b => (b.1, true)) else bs

/-- Elements of a packed tensor as integers. -/
def unpackVals (kv4 : Bool) (bs : List PByte) : List Int :=
  if kv4 then bs.flatMap (fun b => [sInt 4 b.1.toNat, sInt 4 (b.1.toNat / 16)]) else bs.map (fun b => sInt 8 b.1.toNat)

/-- A head record taken apart: K and V as integers (or widened BF16), their S8 scales, and poison, a NaN scale among it. -/
structure HeadRec where
  k : List Int
  v : List Int
  ks : List Byte
  vs : List Byte
  kb : List W32
  vb : List W32
  psn : Bool

/-- A head record of `headBytes` bytes (Table 3-4). -/
def parseHead (x : Span) (bs : List PByte) : HeadRec :=
  let d := x.dim
  let raw := rawBytes bs
  match x.fmt with
  | .bf16 =>
    let w (o : Nat) : List W32 := (List.range d).map (fun i => fOfBf16 (BitVec.ofNat 16 (fieldAt raw (o + 2 * i) 2)))
    ⟨[], [], [], [], w 0, w (2 * d), anyPsn bs⟩
  | _ =>
    let kv4 := x.fmt = .kv4
    let n := if x.fmt = .kv4 then d / 2 else d
    let ks := (raw.drop (2 * n)).take (d / 32)
    let vs := (raw.drop (2 * n + d / 32)).take (d / 32)
    let nan := (ks ++ vs).any (fun c => c == 0x7F#8 || c == 0xFF#8)
    ⟨unpackVals kv4 (bs.take n), unpackVals kv4 ((bs.drop n).take n), ks, vs, [], [], anyPsn bs || nan⟩

end Sys2Proof.Machine
end

