-- ==== Sys2Proof/Machine/Errors.lean ====
section
/-! DEFINITION. Storage errors that a command meets: T0 words (R66), T1 sectors (R122, R371), T2 lines (R85, R328) and stored batts
(R59), and the tile failures that follow (R80). -/

namespace Sys2Proof.Machine

open Sys2Proof

/-! T1 sectors. -/

/-- The T1 local address of a byte of a bank pair (R86, R109). -/
def pairAddr (stack pair off : Nat) : Nat := t1Base + stack * 2 ^ 36 + pair * 2 ^ 27 + off

/-- The stack and bank pair of a T1 local address. -/
def stackOf (a : Nat) : Nat := (a - t1Base) / 2 ^ 36 % 16

/-- The bank pair within its stack. -/
def pairOf (a : Nat) : Nat := (a - t1Base) / 2 ^ 27 % 512

/-- The function that owns a T1 address, if any. -/
def ownerOf (s : State) (a : Nat) : Option Nat :=
  match regionAt s a 1 with
  | some r => if r.kind = .system then none else some r.fn
  | none => match Tab.find? ((a - t1Base) / 65536) s.mm.frames with | some (.page f _ _) => some f | _ => none

/-! The stacks. -/

/-- A stack with nothing broadcast and an empty chain. -/
def stack0 : StackSt := ⟨[], (0#32, false), [], [], [], false, false, []⟩

/-- A stack's shared part. -/
def State.stack (s : State) (k : Nat) : StackSt := Tab.get stack0 k s.nbu.perStack

/-- A stack's shared part written. -/
def State.setStack (s : State) (k : Nat) (x : StackSt) : State :=
  { s with nbu := { s.nbu with perStack := Tab.put stack0 k x s.nbu.perStack } }

/-- External traffic put to the governor of a T1 address's stack (R79, R126, R164): sectors that wait for the next window. -/
def extTraffic (s : State) (a n : Nat) : State :=
  if addrClass a ≠ .t1 ∨ n = 0 then s
  else
    let k := stackOf a
    s.setStack k { s.stack k with held := (s.stack k).held ++ [(true, (a + n - 1) / 32 + 1 - a / 32)] }

/-! Uncorrectable sectors (R122, R371). -/

/-- Who met a sector: opcode, function, hardware context, module-owned work, SEQ (R371). -/
structure Met where
  op : Nat
  fn : Nat
  ctx : Nat
  module_ : Bool
  seq : Nat
  deriving DecidableEq, Repr

/-- A row of a bank pair that failed is remembered for 24 hours (R129). -/
def notePcRow (s : State) (pc row : Nat) : State :=
  let l := Tab.get [] pc s.flt.pcRows
  { s with flt := { s.flt with pcRows := Tab.ins pc (l.filter (fun p => p.1 != row) ++ [(row, s.now)]) s.flt.pcRows } }

/-- The handle of the context of a function that has a hardware number; all ones for none. -/
def handleOfHw (s : State) (fn hw : Nat) : Nat :=
  ((s.sch.ctxs.find? (fun p => p.2.fn == fn && p.2.resident && p.2.hw == hw)).map (·.1)).getD (2 ^ 19 - 1)

/-- The capture of a stack: its first uncorrectable sector, of bank pair `n` at offset `off`, and who met it; a further one sets OVERRUN (R371). -/
def captureSector (s : State) (m : Met) (k n off : Nat) : State :=
  if s.flag R.NBU_ERR_CAP.VALID k then s.setFld R.NBU_ERR_CAP.OVERRUN 1 k
  else
    let s := (((s.setFld R.NBU_ERR_CAP.VALID 1 k).setFld R.NBU_ERR_CAP.BANK_PAIR n k).setFld R.NBU_ERR_CAP.BANK (off / 32 % 2) k).setFld
      R.NBU_ERR_CAP.ROW (off / 4096) k
    let s := ((s.setFld R.NBU_ERR_CAP.OPCODE m.op k).setFld R.NBU_ERR_CAP.FUNCTION m.fn k).setFld R.NBU_ERR_CAP.CONTEXT m.ctx k
    (s.setFld R.NBU_ERR_CAP.MODULE (bit m.module_) k).setFld R.NBU_SEQ_CAP.SEQ m.seq k

/-- The log entry 0x0C of an uncorrectable sector, which carries the values of the capture (R371).
DESIGN CHOICE (unsafe): log entry 22. -/
def lostEntry (s : State) (m : Met) (a f : Nat) : LogEntry :=
  let off := a % 2 ^ 27
  { entry0 s 0x0C .poison f with
      unitKind := 2, unit_ := stackOf a * 512 + pairOf a, address := a, context := if m.module_ then 2 ^ 19 - 1 else handleOfHw s m.fn m.ctx
      detail := leBytes 4 (off / 4096) ++ leBytes 1 (off / 32 % 2) ++ leBytes 1 m.op ++ leBytes 2 m.ctx ++ leBytes 1 m.fn ++
        leBytes 1 (bit m.module_) ++ leBytes 2 m.seq ++ leBytes 4 0 }

/-- An uncorrectable sector at a T1 address: poison, the capture, the count and the log entry.
DESIGN CHOICE (unsafe): log entry 22. -/
def sectorLost (s : State) (m : Met) (addr : Nat) : State :=
  let a := remapAddr s addr
  let k := stackOf a
  let n := pairOf a
  let off := a % 2 ^ 27
  let s := captureSector ((markLine s a 32).incFld R.NBU_ERR_CNT.UNCORRECTED 1 k) m k n off
  let s := notePcRow s (k * 32 + n / 16) ((n % 16 * 2 + off / 32 % 2) * 32768 + off / 4096)
  let f := (ownerOf s a).getD m.fn
  let e := lostEntry s m a f
  if m.module_ && (ownerOf s a).isNone then logModule s e else logFn s f e

/-- A sector used corrected (fault 0x0A) or read on a retry (0x0B): counted where an NBU read it, and logged to its owner (R122, R308). -/
def sectorSaved (s : State) (m : Met) (a kind : Nat) : State :=
  let u := stackOf a * 512 + pairOf a
  let s :=
    if m.op = 0 then s
    else if kind = 0 then s.incFld R.NBU_ERR_CNT.CORRECTED 1 (stackOf a)
    else { s with nbu := { s.nbu with retries := Tab.put 0 u (satTo 65535 (Tab.get 0 u s.nbu.retries + 1)) s.nbu.retries } }
  let f := (ownerOf s a).getD m.fn
  let e : LogEntry := { entry0 s (0x0A + kind) .ok f with
    flags := if kind = 1 then 8 else 0, unitKind := 2, unit_ := u, address := a, context := if m.module_ then 2 ^ 19 - 1 else handleOfHw s m.fn m.ctx }
  if m.module_ && (ownerOf s a).isNone then logModule s e else logFn s f e

/-- Sectors read that needed correction (kind 0), a retry (1), or were lost (2): (T1 address, kind) (R122). A sector that is poison is
read as poison and reported no more (R121).
DESIGN CHOICE (safe): log entry 25. -/
def sectorFaults (s : State) (m : Met) (fs : List (Nat × Nat)) : State :=
  fs.foldl (fun s f =>
    let a := remapAddr s f.1
    if addrClass f.1 ≠ .t1 ∨ linePsn s a then s
    else if f.2 < 2 then sectorSaved s m a f.2
    else sectorLost s m f.1) s

/-- Does a range meet a lost sector? -/
def lostIn (fs : List (Nat × Nat)) (a n : Nat) : Bool :=
  fs.any (fun f => f.2 == 2 && decide (f.1 / 32 * 32 < a + n) && decide (a < f.1 / 32 * 32 + 32))

/-! Streams and buffers of a tile, as far as errors in them need. -/

/-- The key of a tile's stream buffer.
DEDUCED (unsafe): log entry 50. -/
def bufKey (t b : Nat) : Nat := t * 4 + b

/-- The stream buffers of a tile, and the bytes of each (R64). -/
def bufCount (s : State) (t : Nat) : Nat := 2 ^ s.fld R.TILE_WIN.WIN_BUFS t

/-- Bytes of one stream buffer. -/
def bufBytes (s : State) (t : Nat) : Nat := winBytes s t / bufCount s t

/-- A stream by its key. -/
def stream? (s : State) (k : Nat) : Option StreamSt := Tab.find? k s.tl.streams

/-- A stream written. -/
def setStream (s : State) (k : Nat) (x : StreamSt) : State := { s with tl := { s.tl with streams := Tab.ins k x s.tl.streams } }

/-- The times of a list that lie in the rolling window. -/
def within (now : Nat) (l : List Nat) : List Nat := l.filter (fun t => now < t + dayNs)

/-! Self-check and retirement (R80, R309). -/

/-- A slice of a tile that is being retired moved to the tile that runs its share from now on, where that has room: the retirement changes
no result (R80).
DEDUCED (unsafe): log entry 127. -/
def moveSlice (s : State) (t : Nat) (p : Nat × (Nat × Nat)) : State :=
  let b := bindTile s (p.1 % 256)
  match findSlice s b p.2.2 with
  | none => s
  | some a =>
    let bs := pread s (t * 8388608 + p.2.1) p.2.2
    let s := { s with sch := { s.sch with slices := Tab.put [] b (Tab.ins p.1 (a, p.2.2) (slicesOn s b)) s.sch.slices } }
    pwrite' s (b * 8388608 + a) bs

/-- The slices of a retired tile moved. -/
def moveSlices (s : State) (t : Nat) : State :=
  let l := slicesOn s t
  l.foldl (fun s p => moveSlice s t p) { s with sch := { s.sch with slices := Tab.put [] t [] s.sch.slices } }

/-- A tile retired (fault 0x09): its share is bound to another tile of its die.
DEDUCED (unsafe): log entry 127. -/
def retireTile (s : State) (t : Nat) : State :=
  if tileRetired s t then s
  else
    let s := { s with flt := { s.flt with retTiles := NSet.add t s.flt.retTiles } }
    let s := (s.setFld R.TILE_STAT.RETIRED 1 t).setFld R.TILE_STAT.IN_SERVICE 0 t
    let s := moveSlices (syncRetired s) t
    logModule s { entry0 s 0x09 .ok 0 with flags := 3, unitKind := 1, unit_ := t }

/-- A tile failure event (R80): faults 0x07 and 0x08. -/
def tileFailure (s : State) (t code : Nat) : State :=
  let l := within s.now (Tab.get [] t s.flt.tileFails) ++ [s.now]
  let s := { s with flt := { s.flt with tileFails := Tab.put [] t l s.flt.tileFails } }
  let s := (s.setFld R.TILE_ERR.FAULT 1 t).setFld R.TILE_STAT.FAIL_COUNT (min 3 l.length) t
  let s := logModule s { entry0 s code .ok 0 with unitKind := 1, unit_ := t }
  if s.fld R.FLT_CTL.TILE_FAIL_LIMIT ≤ l.length then retireTile s t else s

/-! T0 words (R66). A word in the window region holds a line of the scale records or of a batt of the buffer's stream (R75). -/

/-- The scale records of a buffer's stream poisoned in the line of 32 bytes at an offset. -/
def poisonScales (s : State) (k o : Nat) : State :=
  match stream? s k with
  | none => s
  | some x => setStream s k { x with scales := x.scales.zipIdx.map (fun b => (b.1.1, b.1.2 || decide (b.2 / 32 = o / 32))) }

/-- A batt of a buffer's stream poisoned: as it is held, and its symbols where it has been decoded. -/
def poisonBatt (s : State) (k b : Nat) : State :=
  match stream? s k with
  | none => s
  | some x =>
    let syms := x.syms.take (16384 * b) ++ ((x.syms.drop (16384 * b)).take 16384).map (fun v => (v.1, true)) ++ x.syms.drop (16384 * (b + 1))
    let held := x.held.map (fun q => if q.1 = b then (q.1, q.2.map (fun y => (y.1, true))) else q)
    setStream s k { x with syms := syms, held := held, status := if b < x.decoded then x.status.worse .poison else x.status }

/-- Does the window line at an offset of a tile already hold poison, or the T0 line elsewhere? -/
def t0Poisoned (s : State) (w : Nat × Nat × Nat × Bool) : Bool :=
  let (t, o, b, _) := w
  if winBytes s t ≤ o then linePsn s (t * 8388608 + o)
  else match stream? s (bufKey t (o / bufBytes s t)) with
    | none => false
    | some x =>
      let i := o % bufBytes s t
      if i < x.scales.length then anyPsn ((x.scales.drop (i / 32 * 32)).take 32)
      else x.held.any (fun q => q.1 == b && anyPsn q.2) || ((x.syms.drop (16384 * b)).take 16384).any (·.2)

/-- A T0 word met: a single-bit error is corrected, written back and counted; a double-bit error poisons its line, is counted and
captured.
DEDUCED (unsafe): log entry 94. -/
def t0Word (s : State) (w : Nat × Nat × Nat × Bool) : State :=
  let (t, o, b, double) := w
  if 256 ≤ t ∨ 2 ^ 23 ≤ o then s
  else if !double then logModule (s.incFld R.TILE_ECC_CNT.CORRECTED 1 t) { entry0 s 0x06 .ok 0 with unitKind := 1, unit_ := t }
  else
    let s := s.incFld R.TILE_ECC_CNT.UNCORRECTED 1 t
    let s := if s.flag R.TILE_ECC_ADDR.VALID t then s
             else (s.setFld R.TILE_ECC_ADDR.OFFSET (o / 32 * 32) t).setFld R.TILE_ECC_ADDR.VALID 1 t
    if winBytes s t ≤ o then { s with mm := { s.mm with psn := NSet.add ((t * 2 ^ 23 + o) / 32) s.mm.psn } }
    else
      let k := bufKey t (o / bufBytes s t)
      let i := o % bufBytes s t
      match stream? s k with
      | some x => if i < x.scales.length then poisonScales s k i else poisonBatt s k b
      | none => s

/-- The T0 words an op meets.
DESIGN CHOICE (safe): log entry 25. -/
def t0Words (ws : List (Nat × Nat × Nat × Bool)) (s : State) : State := ws.foldl t0Word s

/-- The tile failure events of an op's uncorrectable words, at its end: those whose line was not already poison when the op met it (R80).
DEDUCED (unsafe): log entry 94. -/
def t0Fails (ws : List (Nat × Nat × Nat × Bool)) (before s : State) : State :=
  ws.foldl (fun s w => if w.2.2.2 ∧ w.1 < 256 ∧ w.2.1 < 2 ^ 23 ∧ !t0Poisoned before w then tileFailure s w.1 0x07 else s) s

/-! T2 lines in error and failed T2 dies (R85, R328). A migration that reads T2 meets lines that the symbol code corrects, each charged to
a die of the line's rank, and lines it cannot correct, each with the sector of the page that it spoils. -/

/-- The rank of a granule: DM × 2 + rank. -/
def rankOf (u : Nat) : Nat := u % 24 * 2 + u / 24 % 2

/-- Does a run of granules touch a rank? -/
def touches (rk g n : Nat) : Bool := (List.range (min n 48)).any (fun i => rankOf (g + i) = rk)

/-- The run that holds a granule, and its use. -/
def runOfGranule (s : State) (u : Nat) : Option (Nat × (Nat × FrameUse)) := s.mm.runs.find? (fun p => p.1 ≤ u && decide (u < p.1 + p.2.1))

/-- A T2 die failed (fault 0x11): its symbols are erasures from now on.
DEDUCED (unsafe): log entry 95. -/
def failDie (s : State) (rk die : Nat) : State :=
  let s := { s with flt := { s.flt with deadDies := NSet.add (rk * 64 + die) s.flt.deadDies, erasure := NSet.add rk s.flt.erasure } }
  logModule s { entry0 s 0x11 .ok 0 with unitKind := 4, unit_ := rk }

/-- The function, span and page of a T2 line, where a page holds it. -/
def lineOwner (s : State) (line : Nat) : Nat × Option (Nat × Nat) :=
  match runOfGranule s (line / 64) with
  | some (_, (_, .page f span p)) => (f, some (span, p))
  | _ => (0, none)

/-- A corrected T2 line (fault 0x10), charged to a die: the die fails at T2_DIE_LIMIT distinct lines within 24 hours.
DEDUCED (unsafe): log entry 95. -/
def correctLine (s : State) (l : Nat × Nat) : State :=
  let (line, die) := l
  let rk := rankOf (line / 64)
  let k := rk * 64 + die % 64
  if NSet.has k s.flt.deadDies then s
  else
    let old := (Tab.get [] k s.flt.t2Lines).filter (fun r => r.1 != line && decide (s.now < r.2 + dayNs))
    let s := { s with flt := { s.flt with t2Lines := Tab.ins k (old ++ [(line, s.now)]) s.flt.t2Lines } }
    let f := (lineOwner s line).1
    let s := logFn s f { entry0 s 0x10 .ok f with unitKind := 4, unit_ := rk, address := t2Base + line * 64 }
    if s.fld R.FLT_CTL.T2_DIE_LIMIT ≤ old.length + 1 then failDie s rk (die % 64) else s

/-- An uncorrectable T2 line (fault 0x12): its poison marker is written. Where the line holds batts of a page, the value groups of those
batts are poison from now on (R37, R39, R56).
DEDUCED (unsafe): log entry 95. -/
def loseLine (s : State) (line : Nat) : State :=
  let (f, o) := lineOwner s line
  let s := match o with
    | some (span, p) =>
      let e := s.pte span p
      (match s.span? span with
       | some x => if e.st = .t2 then s.setPte span p { e with imagePsn := (battsAt x e ((line - 64 * e.granule) * 64) 64).foldl (poisonPart x) e.imagePsn, psn := true }
                   else s
       | none => s)
    | none => markLine s (t2Base + line * 64) 64
  logFn s f { entry0 s 0x12 .poison f with unitKind := 4, unit_ := rankOf (line / 64), address := t2Base + line * 64 }

/-- The T2 lines that a read meets: a line corrected is charged to a die, a line lost is marked. -/
def t2Lines (ls : List (Nat × Nat × Bool)) (s : State) : State :=
  ls.foldl (fun s l => if l.2.2 then loseLine s l.1 else correctLine s (l.1, l.2.1)) s

/-! Page table entries (R95). -/

/-- A page table entry that fails its CRC: its page's rows read as poison, the page leaves migration, and the owner's log and PAGE_ERR tell
of it (fault 0x14). -/
def pteFails (s : State) (p : Nat × Nat) : State :=
  match s.span? p.1 with
  | none => s
  | some x =>
    if (Tab.find? (pageKey p.1 p.2) s.pg.ptes).isNone ∨ (s.pte p.1 p.2).crcBad then s
    else
      let s := match migOf s p.1 p.2 with
        | some m => dropMig (freeDest s m) p.1 p.2
        | none => s
      let s := s.setPte p.1 p.2 { s.pte p.1 p.2 with crcBad := true, mig := false }
      logFn (s.setFld R.PAGE_ERR.PTE_CRC 1) x.fn
        { entry0 s 0x14 .poison x.fn with object := p.1, address := x.base + p.2 * 65536 }

/-! Draining stacks, and chain results that no fence has covered. -/

/-- The controller issues no command to a stack that drains (Table 7-10). -/
def drains (s : State) (stack : Nat) : Bool := s.flag R.NBU_STACK_CTL.DRAIN stack

/-- Does any stack of a mask drain? -/
def maskDrains (s : State) (m : Nat) : Bool := (List.range 16).any (fun k => bitAt m k && drains s k)

/-- The stack of a frame (Table 7-1). -/
def frameStack (f : Nat) : Nat := f / 2 ^ 20

/-- Does a page lie in T1 on a stack that drains? -/
def pageDrains (s : State) (n p : Nat) : Bool := (s.pte n p).st == .t1 && drains s (frameStack (s.pte n p).frame)

/-- A chain result written at a destination: not visible until fenced (R118). -/
def chainStore (s : State) (k : OpCtx) (l : Loc) (bs : List PByte) : State × Bool :=
  match l with
  | .mem a => nbuWrite s k.c.fn k.h a bs
  | .area _ => locWrite s k.h l bs

/-! What a step op meets. -/

/-- The errors of a step op applied to the storage it is about to read (R371: who met them).
DESIGN CHOICE (safe): log entry 25. -/
def errsMet (k : OpCtx) (e : Errs) (s : State) : State :=
  let s := t0Words e.t0 s
  let s := e.t1.foldl (fun s f => sectorFaults s ⟨f.2.2, k.c.fn, k.c.hw, false, if f.2.2 = 0 then 0 else k.idx⟩ [(f.1, f.2.1)]) s
  e.ptes.foldl pteFails (t2Lines e.t2 s)

/-- A step op that meets storage errors. While it waits it has read nothing. -/
def withErrs (e : Errs) (body : OpCtx → State → OpOut) (k : OpCtx) (s : State) : OpOut :=
  match body k (errsMet k e s) with
  | .done t st n => .done (t0Fails e.t0 s t) st n
  | .wait _ => body k s

/-- A step op that has read its operands by the time it waits for others: what it reads, it reads in this command.
DESIGN CHOICE (safe): log entry 25. -/
def readErrs (e : Errs) (body : OpCtx → State → OpOut) (k : OpCtx) (s : State) : OpOut :=
  match body k (errsMet k e s) with
  | .done t st n => .done (t0Fails e.t0 s t) st n
  | .wait t => .wait (t0Fails e.t0 s t)

/-- The errors that a command of a function, not of a context, meets: controller accesses of that function (R371). -/
def errsOf (f : Nat) (e : Errs) (s : State) : State :=
  let s := t0Words e.t0 s
  let s := e.t1.foldl (fun s x => sectorFaults s ⟨x.2.2, f, 0, false, 0⟩ [(x.1, x.2.1)]) s
  e.ptes.foldl pteFails (t2Lines e.t2 s)

/-- The errors that module-owned work meets (R371). -/
def errsModule (e : Errs) (s : State) : State :=
  let s := e.t1.foldl (fun s x => sectorFaults s ⟨x.2.2, 0, 0, true, 0⟩ [(x.1, x.2.1)]) s
  e.ptes.foldl pteFails (t2Lines e.t2 s)

end Sys2Proof.Machine
end

