-- ==== Sys2Proof/Machine/QueueOps.lean ====
section
/-! DEFINITION. The queue manager's operations: cells, reserves and the shared remainder (R271, R272), items and slots (R274), the
consumer's operations (R275) and flush (R276). -/

namespace Sys2Proof.Machine

open Sys2Proof

/-! Fixed queues (Table 14-1). -/

/-- The die of a queue. -/
def queueDie (q : Nat) : Nat := q / 32768

/-- The local number of a queue. -/
def queueLocal (q : Nat) : Nat := q % 32768

/-- Is a queue fixed? -/
def queueFixed (q : Nat) : Bool := decide (queueLocal q < 1024)

/-- The output queue of port p, VC v, class c. -/
def outQueue (p v c : Nat) : Nat := p / 8 * 32768 + p % 8 * 64 + v * 8 + c

/-- The receive buffer of port p, VC v. -/
def rxQueue (p v : Nat) : Nat := p / 8 * 32768 + 512 + p % 8 * 8 + v

/-- The cells taken at link-up by the receive buffer of port p, VC v (R228, Table 14-2).
DEDUCED (unsafe): log entry 32. -/
def rxCells (s : State) (p v : Nat) : Nat := Tab.get 0 (p * 8 + v) s.qm.rx

/-- RESERVE of a fixed queue. The 64 output queues of one port share 2,048 cells, which `portOver` counts. -/
def fixedReserve (s : State) (q : Nat) : Nat :=
  let l := queueLocal q
  if l < 512 then 0
  else if l < 576 then rxCells s (queueDie q * 8 + (l - 512) / 8) (l % 8)
  else if l = 576 then 4096
  else if l = 577 ∧ queueDie q = 0 then 256
  else 0

/-- An empty queue at a time. -/
def emptyQueue (now : Nat) : Queue :=
  { fn := 0, module_ := true, slots := false, marked := false, action := 2, statEn := true, fixed := false, mark := 0, head := 0, tail := 0,
    items := [], openItem := none, dropping := false, spare := false, reserve := 0, limit := 0, timeout := 65000, restart := now,
    headSince := now, flushed := false, depthMin := 0, depthMax := 0, depthSum := 0, delayMin := 0, delayMax := 0, delaySum := 0,
    samples := 0 }

/-- A fixed queue that holds nothing yet. Completion staging holds records behind length slots; the others hold packets. -/
def fixedQueue (s : State) (q : Nat) : Queue :=
  { emptyQueue s.now with fixed := true, slots := queueLocal q == 577, reserve := fixedReserve s q, limit := fixedReserve s q, samples := s.qm.ticks }

/-- A queue: one that is listed, or a fixed one. -/
def State.queue? (s : State) (q : Nat) : Option Queue :=
  match Tab.find? q s.qm.queues with
  | some x => some x
  | none => if queueFixed q && decide (q < 65536) then some (fixedQueue s q) else none

/-- A queue written. -/
def State.setQueue (s : State) (q : Nat) (x : Queue) : State :=
  { s with qm := { s.qm with queues := Tab.ins q x s.qm.queues } }

/-! Cells. -/

/-- The oldest byte of the stream that a queue still holds. -/
def Queue.oldest (x : Queue) : Nat := if x.marked then x.mark else x.head

/-- DEPTH: the cells not yet freed (R275). -/
def Queue.depth (x : Queue) : Nat := (if x.spare then x.tail / 256 + 1 else ceilDiv x.tail 256) - x.oldest / 256

/-- Does a queue hold bytes? -/
def Queue.nonEmpty (x : Queue) : Bool := decide (x.oldest < x.tail)

/-- The open queues of a die. -/
def dieQueues (s : State) (d : Nat) : List (Nat × Queue) := s.qm.queues.filter (fun p => queueDie p.1 = d)

/-- The cells of the output queues of port k of a die. -/
def portDepth (s : State) (d k : Nat) : Nat :=
  (((dieQueues s d).filter (fun p => queueLocal p.1 < 512 ∧ queueLocal p.1 / 64 = k)).map (fun p => p.2.depth)).foldl (· + ·) 0

/-- The sum of all reserves on a die (R272). -/
def reservedCells (s : State) (d : Nat) : Nat :=
  8 * 2048 + ((List.range 65).map (fun i => fixedReserve s (d * 32768 + 512 + i))).foldl (· + ·) 0 +
    fixedReserve s (d * 32768 + 577) + (((dieQueues s d).filter (fun p => !queueFixed p.1)).map (fun p => p.2.reserve)).foldl (· + ·) 0

/-- The cells taken from the shared remainder of a die. -/
def sharedUsed (s : State) (d : Nat) : Nat :=
  ((List.range 8).map (fun k => portDepth s d k - 2048)).foldl (· + ·) 0 +
    (((dieQueues s d).filter (fun p => 512 ≤ queueLocal p.1)).map (fun p => p.2.depth - p.2.reserve)).foldl (· + ·) 0

/-- The free cells of the shared remainder of a die. -/
def sharedFree (s : State) (d : Nat) : Nat := 65536 - reservedCells s d - sharedUsed s d

/-- The packets that wait on a die for the state of their stream (R260), each with its arrival time. -/
def missPkts (s : State) (d : Nat) : List (Nat × Pkt) :=
  ((s.tr.eps.flatMap (fun p => p.2.conn.missq) ++ s.tr.flows.flatMap (fun p => p.2.missq) ++ s.tr.orphans.map (·.2)).filter (fun q => q.2.1 = d)).map
    (fun q => (q.1, q.2.2))

/-- Cells of a die's miss queue in use (R260). -/
def missCells (s : State) (d : Nat) : Nat := ((missPkts s d).map (fun q => ceilDiv (32 + q.2.data.length) 256)).foldl (· + ·) 0

/-- A die's miss queue (Table 14-1) as the packets that wait in it make it. -/
def missQueue (s : State) (d : Nat) (x : Queue) : Queue :=
  { x with head := 0, tail := 256 * missCells s d, headSince := ((missPkts s d).map (·.1)).foldl min s.now }

/-- A queue as QD_DATA, QSTAT and the sampler find it. -/
def shownQueue (s : State) (q : Nat) : Option Queue :=
  (s.queue? q).map (fun x => if queueLocal q = 576 then missQueue s (queueDie q) x else x)

/-- The free cells of a die (QM_POOL_STAT.FREE). -/
def freeCells (s : State) (d : Nat) : Nat :=
  65536 - missCells s d - (((dieQueues s d).filter (fun p => queueLocal p.1 ≠ 576)).map (fun p => p.2.depth)).foldl (· + ·) 0

/-- May a producer append n cells to a queue (R272)? The last limit is that of Table 14-2. -/
def mayAppend (s : State) (q : Nat) (x : Queue) (n : Nat) : Bool :=
  let d := queueDie q
  let l := queueLocal q
  if n = 0 then true
  else if l < 512 then
    let used := portDepth s d (l / 64)
    decide (used + n ≤ 2048 + (sharedFree s d + (used - 2048)))
  else decide (x.depth + n ≤ x.limit) && (decide (x.depth + n ≤ x.reserve) || decide (x.depth + n - max x.depth x.reserve ≤ sharedFree s d))

/-- The cells a queue needs for its stream to reach a byte. -/
def Queue.cellsTo (x : Queue) (e : Nat) : Nat :=
  ceilDiv e 256 - (if x.spare then x.tail / 256 + 1 else ceilDiv x.tail 256)

/-! Items. -/

/-- The stream grown to a byte. Going from empty to non-empty restarts the stale timer (R278). -/
def Queue.growTo (x : Queue) (now e : Nat) : Queue :=
  { x with tail := e, spare := x.spare && decide (ceilDiv e 256 ≤ x.tail / 256), restart := if x.nonEmpty then x.restart else now,
           headSince := if x.head < x.tail then x.headSince else now }

/-- Where the next item of a queue starts: a slot lies at a 4-byte boundary (R274). -/
def Queue.nextStart (x : Queue) : Nat := if x.slots then alignUp x.tail 4 else x.tail

/-- The bytes before an item's own: its slot. -/
def Queue.slotBytes (x : Queue) : Nat := if x.slots then 4 else 0

/-- Bytes of an item appended: `first` opens it, `last` completes it. None where the producer must wait (R272) or where the item is not
one the producer may build (R274: one open item, 1 to 1,048,576 bytes). -/
def appendBytes (s : State) (q : Nat) (bs : List Byte) (psn first last : Bool) (node contrib : Nat) : Option State :=
  match s.queue? q with
  | none => none
  | some x =>
    if first then
      if x.openItem.isSome then none
      else
        let st := x.nextStart
        let e := st + x.slotBytes + bs.length
        if !mayAppend s q x (x.cellsTo e) || (last && (bs.isEmpty || decide (1048576 < bs.length))) then none
        else
          let x' := { x.growTo s.now e with dropping := false }
          some (s.setQueue q (if last then { x' with items := x'.items ++ [⟨bs, psn, node, contrib, st, e - st, false⟩] }
                              else { x' with openItem := some (st, bs) }))
    else
      match x.openItem with
      | none => if x.dropping then some (s.setQueue q { x with dropping := !last }) else none
      | some (st, b) =>
        let e := x.tail + bs.length
        if !mayAppend s q x (x.cellsTo e) || (last && (b ++ bs).isEmpty) || decide (1048576 < (b ++ bs).length) then none
        else
          let x' := x.growTo s.now e
          some (s.setQueue q (if last then { x' with items := x'.items ++ [⟨b ++ bs, psn, node, contrib, st, e - st, false⟩], openItem := none }
                              else { x' with openItem := some (st, b ++ bs) }))

/-- One whole item appended. -/
def appendItem (s : State) (q : Nat) (bs : List Byte) (psn : Bool) (node contrib : Nat) : Option State :=
  appendBytes s q bs psn true true node contrib

/-- The items not yet taken. -/
def Queue.waiting (x : Queue) : List QItem := x.items.filter (fun i => x.head ≤ i.start)

/-- Items wholly before the oldest held byte are forgotten. -/
def Queue.trim (x : Queue) : Queue := { x with items := x.items.filter (fun i => x.oldest ≤ i.start) }

/-! The consumer's operations (Table 14-5). -/

/-- TAKE: HEAD moves past one complete item. -/
def Queue.take (x : Queue) (now : Nat) : Queue :=
  match x.waiting with
  | [] => x
  | i :: _ => { x with head := i.start + i.size, restart := now, headSince := now }.trim

/-- MARK. An existing mark is released up to HEAD first. It does not restart the stale timer (R278). -/
def Queue.setMark (x : Queue) : Queue := { x with mark := x.head, marked := true }.trim

/-- REWIND: HEAD goes back to MARK. -/
def Queue.rewind (x : Queue) (now : Nat) : Queue := { x with head := x.mark, headSince := now }

/-- RELEASE up to a byte between MARK and HEAD.
DEDUCED (unsafe): log entry 74. -/
def Queue.release (x : Queue) (now p : Nat) : Queue := { x with mark := p, restart := now }.trim

/-- UNMARK. -/
def Queue.unmark (x : Queue) : Queue := { x with marked := false }.trim

/-- A flush (R276): HEAD, MARK and TAIL move to one new empty cell; a slot queue then holds a marker item. -/
def Queue.flush (x : Queue) (now : Nat) : Queue :=
  let p := (x.tail / 256 + 1) * 256
  let m : List QItem := if x.slots then [⟨[], false, 0, 0, p, 4, true⟩] else []
  { x with marked := false, mark := p, head := p, tail := if x.slots then p + 4 else p, items := m, openItem := none,
           dropping := x.dropping || x.openItem.isSome, spare := !x.slots, restart := now, headSince := now, flushed := true }

/-- A queue flushed and counted. -/
def flushQueue (s : State) (q : Nat) : State :=
  match s.queue? q with
  | none => s
  | some x => (s.setQueue q (x.flush s.now)).incFld R.QM_FLUSH_CNT.COUNT

/-! Allocation (R272, R279). -/

/-- A queue emptied with its statistics kept: what is left of a port's queue when its port goes down. -/
def Queue.emptied (x : Queue) (now : Nat) : Queue :=
  { emptyQueue now with fixed := x.fixed, depthMin := x.depthMin, depthMax := x.depthMax, depthSum := x.depthSum, delayMin := x.delayMin,
                        delayMax := x.delayMax, delaySum := x.delaySum, samples := x.samples }

/-- The cells reserved for the queues of a function (FN_QCELLS). -/
def fnQCells (s : State) (f : Nat) : Nat :=
  ((s.qm.queues.filter (fun p => !p.2.fixed && !p.2.module_ && p.2.fn == f)).map (fun p => p.2.reserve)).foldl (· + ·) 0

/-- Is a reserve more than a die may set aside (R272): would it leave the shared remainder below SHARED_MIN, or are its cells not free? -/
def remainderBars (s : State) (d reserve : Nat) : Bool :=
  decide (65536 - reservedCells s d < reserve + s.fld R.QM_CTL.SHARED_MIN) || decide (sharedFree s d < reserve)

/-- A receive queue of a context allocated on the die with more free cells, PD0 on a tie; `pick` says which local number is free. -/
def allocQueue (s : State) (f reserve timeout pick : Nat) : Option (Nat × State) :=
  let d := if freeCells s 0 < freeCells s 1 then 1 else 0
  if remainderBars s d reserve || s.fld R.FN_QCELL_CEIL f < fnQCells s f + reserve then none
  else
    match pickFree s.qm.queues (d * 32768 + 1024) (d * 32768 + 32768) pick with
    | none => none
    | some q =>
      some (q, s.setQueue q { emptyQueue s.now with fn := f, module_ := false, slots := true, action := 1, reserve := reserve,
                                                    limit := reserve, timeout := timeout })

/-- Queues freed. -/
def freeQueues (s : State) (qs : List Nat) : State :=
  { s with qm := { s.qm with queues := s.qm.queues.filter (fun p => !qs.contains p.1) } }

end Sys2Proof.Machine
end

