-- ==== Sys2Proof/Machine/AttnOps.lean ====
section
/-! DEFINITION. The arithmetic of attention (R131 to R142): scores, masks, row updates, merges, and the partials of one operation over
the pages of a span. -/

namespace Sys2Proof.Machine

open Sys2Proof

/-! Scores and masks (R132, R134, R135). -/

/-- The distance bucket of R134. -/
def bucket (delta : Nat) : Nat :=
  if delta < 16 then delta
  else
    let e := Nat.log2 delta
    min 63 (16 + 4 * (e - 4) + (delta - 2 ^ e) / 2 ^ (e - 2))

/-- Is the row at a position masked (Table 8-3)? -/
def maskedAt (q : AttnReq) (pos : Nat) : Bool :=
  decide (q.posQ < pos) || (decide (0 < q.window) && decide (q.window ≤ q.posQ - pos) && decide (q.sinks ≤ pos)) ||
    decide (pos < q.segStart)

/-- The position of row r (Table 8-1). -/
def posOf (q : AttnReq) (r : Nat) : Nat := q.posBase + r * q.posStride

/-- The exact group sums of k_dot, scaled group by group into an FP32 accumulator. -/
def kDotGo (p : W32) : List Int → List Int → List Byte → Nat → W32 → W32
  | _, _, _, 0, acc => acc
  | _, _, [], _, acc => acc
  | w, a, c :: cs, k + 1, acc => kDotGo p (w.drop 32) (a.drop 32) cs k (dotGroup (w.take 32) (a.take 32) c p acc)

/-- k_dot (R132). -/
def kDot (x : Span) (h : QHead) (hr : HeadRec) (pk : W32) : W32 :=
  if x.fmt = .bf16 then dotBf16 hr.kb h.bf else fMul (kDotGo pk hr.k h.a8 hr.ks (x.dim / 32) 0#32) h.scale

/-- The score of an unmasked row (R132). -/
def rowScore (x : Span) (q : AttnReq) (h : QHead) (hr : HeadRec) (pk : W32) (pos : Nat) : W32 :=
  fAdd (fMul (kDot x h hr pk) q.sQk) (fOfBf16 (h.bias.getD (bucket (q.posQ - pos)) 0#16))

/-! The partial (R137). -/

/-- −∞. -/
def fNegInf : W32 := fInf true

/-- The empty partial (R137), with the rows it claims (R140). -/
def emptyPart (d first : Nat) : Partial := ⟨fNegInf, 0#32, List.replicate d 0#32, false, false, first, first, false⟩

/-- Is a partial empty (R141)? -/
def Partial.isEmpty (p : Partial) : Bool := p.m == fNegInf && fIsZero p.l

/-- p8: the row weight of the integer path, 0 to 255. -/
def p8 (e : W32) : Nat := min 255 (fRna (fMul e 0x43800000#32)).toNat

/-- The weighted row added to o on the integer path. -/
def foldV (u : Nat) (pv : W32) : List Int → List Byte → List W32 → Nat → List W32
  | _, [], o, _ => o
  | _, _, o, 0 => o
  | v, c :: cs, o, k + 1 =>
    let f := fMul (fMul (s8Value c) pv) 0x3B800000#32
    List.zipWith (fun (y : Int) x => fFma (fOfInt ((u : Int) * y) 0) f x) (v.take 32) (o.take 32) ++ foldV u pv (v.drop 32) cs (o.drop 32) k

/-- row_update (R137). -/
def rowUpdate (x : Span) (st : Partial) (sc : W32) (hr : HeadRec) (pv : W32) : Partial :=
  if sc = fNegInf then st
  else
    let st := if fLt st.m sc && !fIsNaN sc then
        let a := fExp (fSub st.m sc)
        { st with l := fMul st.l a, o := st.o.map (fun y => fMul y a), m := sc }
      else st
    let e := fExp (fSub sc st.m)
    if x.fmt = .bf16 then
      let w := fOfBf16 (bf16OfF e)
      { st with l := fAdd st.l w, o := List.zipWith (fun v y => fFma w v y) hr.vb st.o }
    else if fIsNaN e then { st with psn := true }
    else
      let u := p8 e
      { st with l := fAdd st.l (fOfInt u (-8)), o := foldV u pv hr.v hr.vs st.o (x.dim / 32) }

/-- One row folded into one head's partial: every row read is scored, and poison is not cleared by a mask (R136, R38).
DEDUCED (unsafe): log entry 38. -/
def foldRow (x : Span) (q : AttnReq) (e : Pte) (batt : Bool) (r : Nat) (hr : HeadRec) (h : QHead) (st : Partial) : Partial :=
  let zero := e.st = .unbacked
  let pk := if zero then fOne else BitVec.ofNat 32 e.pk
  let pv := if zero then fOne else BitVec.ofNat 32 e.pv
  let badScale := x.fmt ≠ .bf16 && (!scaleGood pk || !scaleGood pv)
  let st := { st with psn := st.psn || hr.psn || h.psn || h.biasPsn || badScale || batt, batt := st.batt || batt,
                      first := if st.first = st.last then r else min st.first r,
                      last := if st.first = st.last then r + 1 else max st.last (r + 1) }
  if maskedAt q (posOf q r) then st else rowUpdate x st (rowScore x q h hr pk (posOf q r)) hr pv

/-! Merging (R140, R141). -/

/-- merge, with the rows and flags of R140.
DEDUCED (unsafe): log entry 117. -/
def mergePart (a b : Partial) : Partial :=
  let psn := a.psn || b.psn
  let bt := a.batt || b.batt
  let mg := a.merged || b.merged || (a.first != a.last && b.first != b.last)
  if a.isEmpty then { b with psn := psn, batt := bt, merged := mg }
  else if b.isEmpty then { a with psn := psn, batt := bt, merged := mg }
  else
    let m := fMax a.m b.m
    let fa := fExp (fSub a.m m)
    let fb := fExp (fSub b.m m)
    ⟨m, fAdd (fMul a.l fa) (fMul b.l fb), List.zipWith (fun y z => fAdd (fMul y fa) (fMul z fb)) a.o b.o, psn, bt, min a.first b.first, max a.last b.last, mg⟩

/-- finish (R141). -/
def finishPart (p : Partial) : List W32 :=
  if fIsZero p.l then p.o.map (fun _ => 0#32) else let r := fRecip p.l; p.o.map (fun y => fMul y r)

/-- Partials of the heads merged head by head. -/
def mergeHeads (a b : List Partial) : List Partial := List.zipWith mergePart a b

/-! The rows of a page folded (R136, R137). -/

/-- The empty partials of an operation. -/
def emptyHeads (q : AttnReq) (d : Nat) : List Partial := q.heads.map (fun _ => emptyPart d (q.ranges.headD (0, 0)).1)

/-- Rows of one page, each by its byte offset in the page and its row number, folded into the heads' partials (R137). `rd` reads the page's
bytes, `e` gives its scales and `bad` the byte ranges of batts that faulted. -/
def foldRows (x : Span) (q : AttnReq) (e : Pte) (rd : Nat → Nat → List PByte) (bad : List (Nat × Nat)) (rows : List (Nat × Nat))
    (acc : List Partial) : List Partial :=
  let hb := headBytes x.fmt x.dim
  rows.foldl (fun acc kr =>
    let o := kr.1 + q.head * hb
    let batt := bad.any (fun g => decide (g.1 < o + hb) && decide (o < g.2))
    List.zipWith (fun h st => foldRow x q e batt kr.2 (parseHead x (rd o hb)) h st) q.heads acc) acc

/-- The rows of one page of the operation, given its entry, folded into the heads' partials. -/
def foldEntry (s : State) (x : Span) (q : AttnReq) (e : Pte) (faulted : List Nat) (rows : List Nat) (acc : List Partial) : List Partial :=
  foldRows x q e (pageRead s e) (faulted.map (battBytes x)) (rows.map (fun r => ((x.rowAt q.slot r).2, r))) acc

/-- The rows of one page folded into the heads' partials. -/
def foldPage (s : State) (x : Span) (q : AttnReq) (n : Nat) (faults : List (Nat × Nat)) (acc : List Partial) (pg : Nat × List Nat) :
    List Partial :=
  foldEntry s x q (s.pte n pg.1) ((faults.filter (fun f => f.1 = pg.1)).map (·.2)) pg.2 acc

/-- The NBU of a page in T1: stack × 512 + bank pair. -/
def nbuOfPage (e : Pte) : Nat := e.frame / 2048

/-- The partials of one NBU over its pages: row_update goes on across them (R138). -/
def nbuParts (s : State) (x : Span) (q : AttnReq) (n : Nat) (faults : List (Nat × Nat)) (ps : List (Nat × List Nat)) (u : Nat) :
    List Partial :=
  (ps.filter (fun p => (s.pte n p.1).st = .t1 ∧ nbuOfPage (s.pte n p.1) = u)).foldl (foldPage s x q n faults) (emptyHeads q x.dim)

/-- What the module itself computes of an operation, merged as R142 says: chains in ascending NBU, stacks ascending, then page partials of
T2 (and of unbacked pages, which no NBU serves) in ascending page. `faults` are the (page, batt) pairs whose batts faulted when they were
decoded for the operation, in place or for a promotion (R152). -/
def localParts (s : State) (x : Span) (q : AttnReq) (n : Nat) (faults : List (Nat × Nat)) (ps : List (Nat × List Nat)) :
    List Partial :=
  let nbus := (ps.filter (fun p => (s.pte n p.1).st = .t1)).foldr (fun p r => NSet.add (nbuOfPage (s.pte n p.1)) r) []
  let stackParts := ((nbus.map (· / 512)).foldr NSet.add []).map (fun k =>
    match (nbus.filter (fun u => u / 512 = k)).map (nbuParts s x q n faults ps) with
    | [] => emptyHeads q x.dim
    | a :: r => r.foldl mergeHeads a)
  let tileParts := (ps.filter (fun p => (s.pte n p.1).st = .t2 ∨ (s.pte n p.1).st = .unbacked)).map (fun p =>
    foldPage s x q n faults (emptyHeads q x.dim) p)
  match stackParts ++ tileParts with
  | [] => emptyHeads q x.dim
  | a :: r => r.foldl mergeHeads a

/-! The partial record (R139, R140). -/

/-- The code of a head dimension. -/
def dimCode (d : Nat) : Nat := if d = 64 then 0 else if d = 96 then 1 else if d = 128 then 2 else if d = 192 then 3 else 4

/-- The record of a head's partial (Table 8-5).
DEDUCED (unsafe): log entry 117. -/
def recordBytes (ctx qhead kvHead gen epoch d : Nat) (tent oBf16 merged : Bool) (p : Partial) : List Byte :=
  leBytes 2 (ctx % 4096) ++ leBytes 1 qhead ++ leBytes 1 (bit tent + 2 * bit oBf16 + 4 * bit p.psn + 8 * bit merged + 16 * dimCode d) ++
    leBytes 3 p.first ++ leBytes 3 p.last ++ leBytes 3 (gen % 2 ^ 24) ++ leBytes 1 kvHead ++ leBytes 2 epoch ++ leBytes 4 p.m.toNat ++
    leBytes 4 p.l.toNat ++ p.o.flatMap (fun y => if oBf16 then leBytes 2 (bf16OfF y).toNat else leBytes 4 y.toNat)

/-- A record read; none where it is invalid (R139). -/
def parseRecord (node contrib : Nat) (psn : Bool) (b : List Byte) : Option PartRec :=
  let fl := fieldAt b 3 1
  match ([64, 96, 128, 192, 256] : List Nat)[bits fl 6 4]? with
  | none => none
  | some d =>
    let bf := bitAt fl 1
    if 16 ≤ fieldAt b 1 1 ∨ 64 ≤ fieldAt b 2 1 ∨ bitAt fl 7 ∨ 128 ≤ fieldAt b 6 1 ∨ 128 ≤ fieldAt b 9 1 ∨ 64 ≤ fieldAt b 13 1 ∨
       b.length ≠ 24 + d * (if bf then 2 else 4) then none
    else
      let o := (List.range d).map (fun i =>
        if bf then fOfBf16 (BitVec.ofNat 16 (fieldAt b (24 + 2 * i) 2)) else BitVec.ofNat 32 (fieldAt b (24 + 4 * i) 4))
      some ⟨node, fieldAt b 0 2, fieldAt b 2 1, fieldAt b 13 1, bitAt fl 0, bf, bitAt fl 3, fieldAt b 10 3, fieldAt b 14 2, contrib,
        ⟨BitVec.ofNat 32 (fieldAt b 16 4), BitVec.ofNat 32 (fieldAt b 20 4), o, bitAt fl 2 || psn, false, fieldAt b 4 3, fieldAt b 7 3, bitAt fl 3⟩⟩

/-! Queries (R133). -/

/-- A query head from its FP32 elements and bias bytes; the number is its saturations. -/
def queryHead (fmt : KvFmt) (es : List PElem) (bias : List PByte) : QHead × Nat :=
  let bt := (chunk 2 bias).map (fun w => BitVec.ofNat 16 (leNat (rawBytes w)))
  let bp := anyPsn bias
  if fmt = .bf16 then (⟨[], 0#32, es.map (fun e => fOfBf16 (bf16OfF e.1)), es.any (·.2), bt, bp⟩, 0)
  else
    let q := quantiseA8 (es.map (·.1))
    let ps := spread (List.zipWith (fun (e : PElem) b => e.2 || b) es q.bad)
    (⟨q.vals, q.scale, [], ps.any id, bt, bp⟩, (List.zip q.sat ps).countP (fun p => p.1 && !p.2))

/-- Bias bytes with the poison of whole sectors: a poisoned sector poisons every table it overlaps (R136). -/
def biasTables (s : State) (a h : Nat) : List (List PByte) :=
  (List.range h).map (fun i => (pread s (a + 128 * i) 128))

/-- The status of a head (Table 8-11). -/
def partStatus (p : Partial) : Status := if p.psn then (if p.batt then .battLength else .poison) else .ok

end Sys2Proof.Machine
end

