-- ==== Sys2Proof/Machine/Finish.lean ====
section
/-! DEFINITION. What the module does at the end of every command, whatever the command was: the alert tree follows its leaves
(R355), PF0 is told of each unmasked rise, and ALERT_N follows ALERT_MGMT. -/

namespace Sys2Proof.Machine

open Sys2Proof

/-- Does a field own a bit address of the register store? -/
def Fld.owns (f : Fld) (k : Nat) : Bool :=
  let b := f.addr * 8 + f.lo
  if k < b || (k - b) % 8 != 0 then false
  else
    let d := (k - b) / 8
    let i := if f.n1 = 1 then 0 else d / f.s1
    let r := d - i * f.s1
    let j := if f.n2 = 1 then 0 else r / f.s2
    decide (i < f.n1) && decide (j < f.n2) && r == j * f.s2

/-- The W1C fields of a block: its leaves of the alert tree. -/
def leavesOf (b : Nat) : List Fld :=
  (regTable.filter (fun r => r.row = b)).flatMap (fun r => r.flds.filter (fun f => f.acc = .w1c))

/-- The leaves of each of the 18 blocks of Table 18-2. -/
def alertLeaves : List (List Fld) := (List.range 18).map leavesOf

/-- Is a leaf of a list at 1? A leaf resets to 0, so one at 1 is listed in the register store. -/
def anyLeaf (regs : List (Nat × Nat)) (fs : List Fld) : Bool :=
  fs.any (fun f => regs.any (fun p => f.owns p.1 && p.2 != 0))

/-- The 18 bits of ALERT_STAT as the leaves stand (R355). -/
def alertBits (s : State) : Nat :=
  ((alertLeaves.zipIdx).map (fun q => if anyLeaf s.regs q.1 then 2 ^ q.2 else 0)).foldl (· + ·) 0

/-- The status with a number, the numbers taken round: for a status the spec leaves open. -/
def statusOfNat (n : Nat) : Status :=
  [Status.ok, .poison, .battLength, .horizon, .displaced, .incompleteSpan, .epochStale, .retryLater, .protection, .flushed,
   .timeout, .aborted, .keyUnavailable, .deviceFault, .invalid].getD (n % 15) .ok

/-- A MODULE event to PF0 (Table 11-8): the status of the fault that the command entered in a log, and in RESULT its class and unit, FLAGS,
UNIT_KIND and UNIT of the entry in that order (Table 16-9). Where a leaf rose with no fault entered the status and the bytes are free.
DESIGN CHOICE (unsafe in part): log entry 29. -/
def moduleEvent (s : State) : State :=
  match s.flt.latest with
  | some e => raiseEvent s 0 0x05 e.status (leBytes 1 e.flags ++ leBytes 1 e.unitKind ++ leBytes 2 e.unit_)
  | none =>
    let bs := (List.range 16).map (fun i => Config.freeByte (s.freeCtr + i))
    raiseEvent (s.takeFree 17) 0 0x05 (statusOfNat (Config.freeNat (s.freeCtr + 16))) bs

/-- ALERT_STAT brought to its leaves, with the events of the unmasked bits that rose; an event may raise a further leaf, and
`k` bounds that. -/
def alertGo : Nat → State → State
  | 0, s => s.setFld R.ALERT_STAT.BLOCKS (alertBits s)
  | k + 1, s =>
    let now := alertBits s
    let rose := (List.range 18).filter (fun b => bitAt now b && !bitAt (s.fld R.ALERT_STAT.BLOCKS) b)
    let told := rose.filter (fun b => bitAt (s.fld R.ALERT_MASK.HOST) b)
    if rose.isEmpty then s.setFld R.ALERT_STAT.BLOCKS now
    else
      let s := s.setFld R.ALERT_STAT.BLOCKS now
      let s := (rose.filter (fun b => bitAt (s.fld R.ALERT_MGMT.MGMT) b)).foldl (fun s b => s.emit (.alertRise b)) s
      alertGo k (told.foldl (fun s _ => moduleEvent s) s)

/-- ALERT_N is low while any bit unmasked in ALERT_MGMT is 1 (R355), and while the module is out of service or held for want of its fabric
reference (R18, R302, R310). -/
def alertPin (s : State) : State :=
  let low := (List.range 18).any (fun b => bitAt (s.fld R.ALERT_STAT.BLOCKS) b && bitAt (s.fld R.ALERT_MGMT.MGMT) b) ||
    s.pow.st == .outOfService || s.pow.st == .held
  { s with pins := { s.pins with alertN := !low } }

/-- The end of a command. -/
def finish (s : State) : State :=
  let t := alertPin (alertGo 3 s)
  { t with flt := { t.flt with latest := none }, host := { t.host with tlpPsn := [] } }

/-- A command that ends in a next state. -/
def done (s : State) : Host.Outcome State Fault Refusal := .next (finish s)

/-- A command that the module takes only while it is on: in Off, in reset and out of service every block but the management island is unpowered
or held in reset, and nothing happens (R18, R310, Table 17-6).
DESIGN CHOICE (safe): log entry 2. -/
def act (s t : State) : Host.Outcome State Fault Refusal := if s.pow.st = .on then done t else .next s

/-- Fabric time as a command that carries a time finds it: it moves forward to it, never back (R239).
DESIGN CHOICE (unsafe): log entry 9. -/
def atTime (s : State) (t : Nat) : State := if s.now < t then s.setFld R.TIME_NOW.NS t else s

end Sys2Proof.Machine
end

