-- ==== Sys2Proof/Machine/HostRings.lean ====
section
/-! DEFINITION. Rings, doorbells, descriptor fetch, held records, window sync (R200 to R208, R215, R218). -/

namespace Sys2Proof.Machine

open Sys2Proof

/-- A doorbell discarded (R205): the ring's values stand, DB_REJECT is set and HI_FN_DB_CNT counts. During a reset of the function
its doorbells are discarded likewise (R219). -/
def dbReject (s : State) (f r : Nat) : State := (s.setFld R.HI_RING_STAT.DB_REJECT 1 f r).incFld R.HI_FN_DB_CNT.COUNT 1 f

/-- What every accepted doorbell needs (R205): an 8-byte write, reserved bits zero, the ring enabled. -/
def dbFormOk (s : State) (f r size value : Nat) : Bool :=
  size == 8 && decide (value < 2 ^ 32) && s.flag R.HI_RING_CTL.ENABLE f r && (s.fnHost f).resetting.isNone

/-- SQ_TAIL written (R205). -/
def doSqTail (f r size value : Nat) (s : State) : State :=
  let g := s.ring f r
  let lg := s.fld R.HI_SQ_BASE.SQ_LOG2 f r
  if dbFormOk s f r size value && decide ((value + 2 ^ 32 - g.tail) % 2 ^ 32 < 2 ^ 31) &&
     decide ((value + 2 ^ 32 - g.fetched) % 2 ^ 32 ≤ 2 ^ lg) then
    s.setRing f r { g with tail := value }
  else dbReject s f r

/-- SQ_TAIL (R205): a doorbell write of `size` bytes. -/
def execSqTail (fn ring size value : Nat) (s : State) : Host.Outcome State Fault Refusal := act s (doSqTail fn ring size value s)

/-- CQ_HEAD written (R205): completion records consumed. -/
def doCqHead (f r size value : Nat) (s : State) : State :=
  let g := s.ring f r
  let lg := s.fld R.HI_CQ_BASE.CQ_LOG2 f r
  if dbFormOk s f r size value && decide ((value + 2 ^ 32 - g.head) % 2 ^ 32 < 2 ^ 31) &&
     decide ((g.produced + 2 ^ 32 - value) % 2 ^ 32 ≤ 2 ^ lg) then
    s.setRing f r { g with head := value }
  else dbReject s f r

/-- CQ_HEAD (R205). -/
def execCqHead (fn ring size value : Nat) (s : State) : Host.Outcome State Fault Refusal := act s (doCqHead fn ring size value s)

/-- May the module fetch for a ring now (R200, R206, R215)? -/
def mayFetch (s : State) (f r : Nat) : Bool :=
  let g := s.ring f r
  s.flag R.HI_RING_CTL.ENABLE f r && hostUp s f && !g.stopped && g.fetched != g.tail && !quotaFull s f

/-- A fetch that failed (R201, R206). -/
def fetchFails (s : State) (f r : Nat) (st : Status) : State :=
  let g := s.ring f r
  let s := (s.setRing f r { g with stopped := true }).setFld R.HI_RING_STAT.FETCH_ERR 1 f r
  raiseEvent s f 0x03 st (leBytes 4 r ++ leBytes 4 g.fetched)

/-- Is a descriptor one the table of Table 11-4 lists, with its header's reserved fields zero (R8, R208)? One that is not completes
with ST_INVALID and has no other effect.
DEDUCED (safe): log entry 14. -/
def descKnown (b : List Byte) : Bool :=
  let op := fieldAt b 0 1
  [0x01, 0x02, 0x03, 0x08, 0x09, 0x0A, 0x10, 0x11, 0x12, 0x18, 0x20, 0x21, 0x28, 0x30, 0x38, 0x39, 0x3A, 0x3E, 0x3F].contains op &&
    fieldAt b 1 1 < 4 && zeroAt b 2 2 && (op != 0x30 || fieldAt b 8 1 < 5) && (op != 0x3A || fieldAt b 12 1 < 7)

/-- The next descriptor of a ring fetched and accepted (R206).
DEDUCED (safe): log entry 14. -/
def doFetch (f r : Nat) (readError : Bool) (s : State) : State :=
  if !mayFetch s f r then s
  else
    let g := s.ring f r
    let lg := s.fld R.HI_SQ_BASE.SQ_LOG2 f r
    let a := s.fld R.HI_SQ_BASE.ADDR f r * 4096 + g.fetched % 2 ^ lg * 64
    match hostRead s f a 64 with
    | none => fetchFails s f r .protection
    | some b =>
      if readError then fetchFails s f r .deviceFault
      else
        let n := g.pass * 2 ^ 32 + g.fetched
        let s := s.setRing f r { g with fetched := (g.fetched + 1) % 2 ^ 32, acc := g.acc ++ [⟨n, b, s.host.accepted, false⟩] }
        let s := { s with host := { s.host with accepted := s.host.accepted + 1 } }
        if descKnown b || !mayStart s f r n then s else complete s f r n .invalid

/-- DESCRIPTOR_FETCH (R206, R215); `readError` says that the read of the 64 bytes met an error. -/
def execDescriptorFetch (fn ring : Nat) (readError : Bool) (s : State) : Host.Outcome State Fault Refusal :=
  act s (doFetch fn ring readError s)

/-- HELD_RECORD_DRAIN (R215): held records of a ring go out while slots are free; events that waited for a ring follow (R217). -/
def execHeldRecordDrain (fn ring : Nat) (s : State) : Host.Outcome State Fault Refusal := act s (flushEvents (drainHeld s fn ring) fn)

/-- The fields of HI_RING_CTL beside ENABLE and RESUME, taken from the written value. -/
def setRingCtl (s : State) (f r value : Nat) : State :=
  let s := s.setFld R.HI_RING_CTL.VECTOR (bits value 11 1) f r
  let s := s.setFld R.HI_RING_CTL.COAL_COUNT (bits value 19 12) f r
  s.setFld R.HI_RING_CTL.COAL_TIME (bits value 29 20) f r

/-- A ring enabled (R204, R206): its counts restart at 0. Held records and descriptors in flight stay, and the function's link is up (R200). -/
def startRing (s : State) (f r : Nat) : State :=
  let g := s.ring f r
  let s := s.setFld R.HI_RING_CTL.ENABLE 1 f r
  let s := s.setFnHost f { (s.fnHost f) with ringUp := (s.fnHost f).ringUp || !s.host.linkDown }
  s.setRing f r { g with fetched := 0, tail := 0, head := 0, produced := 0, stopped := false, unsig := 0,
                         pass := if g.acc.isEmpty then 0 else g.pass + 1 }

/-- RESUME written (R206): fetching resumes at FETCHED after a fetch error, FETCH_ERR is cleared and every count kept. -/
def resumeRing (s : State) (f r : Nat) : State :=
  (s.setRing f r { (s.ring f r) with stopped := false }).setFld R.HI_RING_STAT.FETCH_ERR 0 f r

/-- HI_RING_CTL written by its function (R204, R206, R218). A write that would enable a ring at or above RINGS_MAX, or that names a VECTOR
beyond the function's table, is discarded. -/
def ringCtlWrite (f r value : Nat) (s : State) : State :=
  if vectorsOf s f ≤ bits value 11 1 || (bitAt value 0 && decide (s.fld R.HI_FN_LIMIT.RINGS_MAX f ≤ r)) then s.setFld R.HI_FN_STAT.CFG_REJECT 1 f
  else
    let s := setRingCtl s f r value
    let s := if bitAt value 30 then resumeRing s f r else s
    if !bitAt value 0 then s.setFld R.HI_RING_CTL.ENABLE 0 f r
    else if s.flag R.HI_RING_CTL.ENABLE f r then s
    else flushEvents (startRing s f r) f

/-- RING_ENABLE (R204): HI_RING_CTL written with ENABLE 1; `value` is the 32-bit value written, whatever its bit 0. -/
def execRingEnable (fn ring value : Nat) (s : State) : Host.Outcome State Fault Refusal := act s (ringCtlWrite fn ring (setBits value 0 0 1) s)

/-- RING_DISABLE (R206): HI_RING_CTL written with ENABLE 0. -/
def execRingDisable (fn ring value : Nat) (s : State) : Host.Outcome State Fault Refusal := act s (ringCtlWrite fn ring (setBits value 0 0 0) s)

/-- RESUME (R206): HI_RING_CTL.RESUME written with 1, the other fields as they are. -/
def execResume (fn ring : Nat) (s : State) : Host.Outcome State Fault Refusal := act s (resumeRing s fn ring)

/-- WIN_SYNC (R203): SYNC reads 1 until the function's earlier host accesses have completed. Every command's host accesses
complete with the command, so SYNC reads 0 when the step ends. -/
def execWinSync (fn : Nat) (s : State) : Host.Outcome State Fault Refusal := act s (s.setFld R.HI_WIN_SYNC.SYNC 0 fn)

/-- COAL_TIME_EXPIRY (R218): COAL_TIME has passed since the first record not yet signalled. -/
def execCoalTimeExpiry (fn ring : Nat) (s : State) : Host.Outcome State Fault Refusal :=
  act s (if s.fld R.HI_RING_CTL.COAL_TIME fn ring = 0 ∨ (s.ring fn ring).unsig = 0 then s else signalRing s fn ring)

/-- NOP (R208): the descriptor completes with no effect; its bytes 8 to 63 are reserved. A descriptor of a reserved opcode completes
here too, with ST_INVALID.
DEDUCED (safe): log entry 14. -/
def doNop (f r n : Nat) (s : State) : State :=
  match findDesc s f r n with
  | none => s
  | some d =>
    if !mayStart s f r n then s
    else if !descKnown d.bytes then complete s f r n .invalid
    else if fieldAt d.bytes 0 1 ≠ 0x3F then s
    else complete s f r n (if zeroAt d.bytes 8 56 then .ok else .invalid)

/-- NOP (R208). -/
def execNop (fn ring num : Nat) (s : State) : Host.Outcome State Fault Refusal := act s (doNop fn ring num s)

/-- FENCE (R119, R207): it starts after every earlier descriptor of its ring; with NBU set it covers the function's NBU commands,
whose results become visible. -/
def doFence (f r n : Nat) (s : State) : State :=
  match findDesc s f r n with
  | none => s
  | some d =>
    if fieldAt d.bytes 0 1 ≠ 0x3E || !descKnown d.bytes || !mayStart s f r n then s
    else if 1 < fieldAt d.bytes 8 1 || !zeroAt d.bytes 9 55 then complete s f r n .invalid
    else
      let s := if fieldAt d.bytes 8 1 = 1 then fenceSectors s (fun u => u.1 == f) else s
      complete s f r n .ok

/-- FENCE (R119, R207). -/
def execFence (fn ring num : Nat) (s : State) : Host.Outcome State Fault Refusal := act s (doFence fn ring num s)

/-- A descriptor that a command runs: accepted, of the opcode named, known, and allowed to start (R207).
DESIGN CHOICE (safe): log entry 2. -/
def takeDesc (s : State) (f r n op : Nat) : Option (List Byte) :=
  match findDesc s f r n with
  | none => none
  | some d => if fieldAt d.bytes 0 1 = op ∧ descKnown d.bytes ∧ mayStart s f r n then some d.bytes else none

/-- The host reference found in tolerance or not (R18). -/
def hostRefIs (s : State) (ok : Bool) : State :=
  ({ s with pins := { s.pins with hostRef := ok } }).setFld R.CLK_STAT.HOST_REF (bit ok)

/-- The data link up at a rate and width. Without its reference the link does not train (R18). -/
def linkTrained (rate width : Nat) (hostRef : Bool) (s : State) : State :=
  let s := hostRefIs s hostRef
  if !hostRef then s
  else ((({ s with host := { s.host with linkDown := false } }).setFld R.HI_STAT.LINK_UP 1).setFld R.HI_STAT.RATE rate).setFld R.HI_STAT.WIDTH width

/-- LINK_TRAINED (R200): the data link is up again at a rate and width; `hostRef` says whether the host reference is in tolerance. -/
def execLinkTrained (rate width : Nat) (hostRef : Bool) (s : State) : Host.Outcome State Fault Refusal :=
  act s (linkTrained rate width hostRef s)

end Sys2Proof.Machine
end

