-- ==== Sys2Proof/Machine/SyncOps.lean ====
section
/-! DEFINITION. The sync counters (R193 to R196): adds, sets, waits and the release of waiters. -/

namespace Sys2Proof.Machine

open Sys2Proof

/-- The value of a counter. -/
def counterVal (s : State) (n : Nat) : Nat := Tab.get 0 n s.sch.counters

/-- A counter of a function by its relative index (R193): none is ST_PROTECTION. -/
def fnCounter (s : State) (f i : Nat) : Option Nat :=
  if i < s.fld R.SYNC_FN_COUNT.SYNC_COUNT f then some (s.fld R.SYNC_FN_BASE.SYNC_BASE f + i) else none

/-- A waiter released with a status: its context becomes READY and its op retires, or its descriptor completes with the counter's
value (R194, R208). -/
def releaseWaiter (s : State) (w : Waiter) (st : Status) : State :=
  match w.who with
  | .ctx h =>
    match s.ctx? h with
    | some c =>
      wake (c.inflight.foldl (fun s i =>
        match progOf s c.program with
        | some (_, p) => (match opAt p c i with | some o => if o.opcode = 0x21 then retire s h i st 0 else s | none => s)
        | none => s) s) h
    | none => s
  | .desc f r n => complete s f r n st 0 (leBytes 8 (counterVal s w.counter))
  | .module => s

/-- Waiters of a counter whose threshold it has reached are released (R194). -/
def releaseMet (s : State) (n : Nat) : State :=
  let v := counterVal s n
  let met (w : Waiter) : Bool := w.counter == n && decide (w.threshold ≤ v)
  let ws := s.sch.waiters.filter met
  let s := { s with sch := { s.sch with waiters := s.sch.waiters.filter (fun w => !met w) } }
  ws.foldl (fun s w => releaseWaiter s w .ok) s

/-- SYNC_ADD on a counter (Table 10-8): an add whose sum exceeds 2^64 − 1 has no effect and sets OVERFLOW. -/
def syncAdd (s : State) (n inc : Nat) : State × Status :=
  let v := counterVal s n + inc
  if 2 ^ 64 ≤ v then (s.setFld R.SYNC_ERR.OVERFLOW 1, .invalid)
  else (releaseMet { s with sch := { s.sch with counters := Tab.put 0 n v s.sch.counters } } n, .ok)

/-- Is there a waiter or an armed trigger on a counter? -/
def counterBusy (s : State) (n : Nat) : Bool :=
  s.sch.waiters.any (fun w => w.counter == n) || s.sch.triggers.any (fun t => t.2.counter == n)

/-- SYNC_SET on a counter (Table 10-8). -/
def syncSet (s : State) (n v : Nat) : State × Status :=
  if counterBusy s n then (s.setFld R.SYNC_ERR.SET_REJECT 1, .invalid)
  else ({ s with sch := { s.sch with counters := Tab.put 0 n (v % 2 ^ 64) s.sch.counters } }, .ok)

/-- Armed triggers of a function. -/
def armedOf (s : State) (f : Nat) : Nat := s.sch.triggers.countP (fun t => t.2.fn == f)

/-- Armed triggers beside the counters of one port die (R196): counters 0 to 65,535 on PD0, the others on PD1. -/
def armedOn (s : State) (die : Nat) : Nat := s.sch.triggers.countP (fun t => t.2.counter / 65536 == die)

/-- The form of a trigger body (R196): kind 0 a SYNC_ADD op, kind 1 a phase start; kind 2 is judged by `ep` (R255).
DEDUCED (unsafe): log entry 72. -/
def bodyFormOk (s : State) (f kind : Nat) (b : List Byte) (ep : Bool) : Bool :=
  match kind with
  | 0 =>
    fieldAt b 0 1 == 0x20 && zeroAt b 1 9 && (decide (fieldAt b 10 2 < 32768) || fieldAt b 10 2 == 0xFFFF) &&
      decide (fieldAt b 12 4 < s.fld R.SYNC_FN_COUNT.SYNC_COUNT f) && zeroAt b 20 12
  | 1 => zeroAt b 6 26
  | 2 => ep
  | _ => false

/-- SYNC_ARM (Table 10-8, R196) on a counter of the function, or on one that is not its own.
DEDUCED (unsafe): log entry 72. -/
def syncArm (s : State) (f : Nat) (ctx : Option Nat) (counter : Option Nat) (threshold kind : Nat) (body : List Byte) (ep : Bool) :
    State × Status :=
  if !bodyFormOk s f kind body ep then (s, .invalid)
  else match counter with
    | none => (s, .protection)
    | some n =>
      if s.fld R.FN_TRIG_CEIL f ≤ armedOf s f ∨ 32768 ≤ armedOn s (n / 65536) then (s, .retryLater)
      else
        let k := s.sch.armTick
        let ts := Tab.ins k ⟨f, ctx, n, threshold, kind, body⟩ s.sch.triggers
        ({ s with sch := { s.sch with triggers := ts, armTick := k + 1 } }, .ok)

/-- Triggers disarmed without firing: the work requests pre-posted for them complete with ST_ABORTED (R196, R255). -/
def disarm (s : State) (sel : Nat × Trigger → Bool) : State :=
  let ks := (s.sch.triggers.filter sel).map (·.1)
  let hit (p : PrePost) : Bool := ks.contains p.trigger
  let gone := s.tr.pre.filter hit
  let s := { s with sch := { s.sch with triggers := s.sch.triggers.filter (fun t => !sel t) },
                    tr := { s.tr with pre := s.tr.pre.filter (fun p => !hit p) } }
  gone.foldl (fun s p => complete s p.fn p.ring p.num .aborted) s

/-- A function's triggers disarmed without firing and its counters zeroed (R196). -/
def dropSync (s : State) (f : Nat) : State :=
  let b := s.fld R.SYNC_FN_BASE.SYNC_BASE f
  let n := s.fld R.SYNC_FN_COUNT.SYNC_COUNT f
  let s := disarm s (fun t => t.2.fn == f)
  { s with sch := { s.sch with counters := s.sch.counters.filter (fun p => !(b ≤ p.1 && p.1 < b + n)) } }

end Sys2Proof.Machine
end

