-- ==== Sys2Proof/Machine/Contexts.lean ====
section
/-! DEFINITION. PROGRAM_LOAD, CTX_OPEN, CTX_STEP and unparking (R173 to R177, R181, R279). -/

namespace Sys2Proof.Machine

open Sys2Proof

/-! PROGRAM_LOAD (R177). -/

/-- The programs of a function. -/
def fnPrograms (s : State) (f : Nat) : List (Nat × Program) := s.sch.programs.filter (fun p => p.2.fn = f)

/-- This module's member index in a group, as ROUTE_NODE.NODE stands (R165). -/
def memberIndex (s : State) (g : Group) : Option Nat := (g.members.zipIdx.find? (fun m => m.1.1 == s.fld R.ROUTE_NODE.NODE)).map (·.2)

/-- The groups of a program of which this module is a member, each with its member index. -/
def memberGroups (s : State) (p : Prog) : List (Group × Nat) := p.groups.filterMap (fun g => (memberIndex s g).map (fun i => (g, i)))

/-- The activation tables of a program's image as entries of the model's directory (R51). -/
def progTables (f a : Nat) (p : Prog) : List TblEnt :=
  let at0 := 32 + 16 * p.hdr.phases + 16 * p.hdr.buffers + 32 * p.hdr.tileSets + ((p.groups.map (fun g => groupBytes g.members.length)).foldl (· + ·) 0)
  p.tables.zipIdx.map (fun t => ⟨f, t.1.id, t.1.gen, a + at0 + 320 * t.2⟩)

/-- A valid image placed: refused when the function holds the id, or short of program slots; none while it waits for T1 (R102). -/
def placeProgram (s : State) (f : Nat) (img : List Byte) (p : Prog) (pick : Nat) : Option (State × Status × List Byte) :=
  if (fnPrograms s f).any (fun q => q.2.id == p.hdr.id) then some (s, .invalid, [])
  else if 256 ≤ s.sch.programs.length ∨ 2048 < combReserved s + ((memberGroups s p).map (·.1.depth)).foldl (· + ·) 0 then
    some (s, .retryLater, [])
  else
    let slot := Tab.freeFrom 0 s.sch.programs
    match makeRegion s f img.length .image slot pick with
    | none => none
    | some (a, s) =>
      let s := pwrite' s a (cleanBytes img)
      let q : Program := ⟨f, p.hdr.id, a, img.length, (memberGroups s p).map (fun g => (g.1.id, g.2))⟩
      let s := { s with sch := { s.sch with programs := Tab.ins slot q s.sch.programs }, tl := { s.tl with dir := s.tl.dir ++ progTables f a p } }
      some (s, .ok, leBytes 2 p.hdr.id ++ List.replicate 6 0#8 ++ leBytes 8 (ceilDiv img.length 65536 * 65536))

/-- The PROGRAM_LOAD descriptor (Table 11-4) applied; `pick` is the first frame the allocator takes, if it is free. An image that comes with
poison is not loaded.
DESIGN CHOICE (unsafe): log entry 143. -/
def doProgramLoad (f r n pick : Nat) (s : State) : State :=
  match takeDesc s f r n 0x20 with
  | none => s
  | some d =>
    let bytes := fieldAt d 16 4
    if !zeroAt d 20 44 then complete s f r n .invalid
    else
      match hostRead s f (fieldAt d 8 8) bytes with
      | none => complete s f r n .protection
      | some img =>
        if hostPsn s (fieldAt d 8 8) bytes then complete s f r n .poison else
        match validProg img with
        | none => complete s f r n .invalid
        | some p =>
          match placeProgram s f img p pick with
          | none => waitFrame s (.desc f r n) false []
          | some (s, st, res) => complete (endWait s (.desc f r n)) f r n st 0 res

/-- PROGRAM_LOAD (R177), with the host bytes that come in poisoned TLPs (R198). -/
def execProgramLoad (fn ring num frame : Nat) (poisoned : List (Nat × Nat)) (s : State) : Host.Outcome State Fault Refusal :=
  act s (doProgramLoad fn ring num frame (withTlp poisoned s))

/-! CTX_OPEN (R176). -/

/-- A binding of 16 bytes (Table 10-3): malformed where a reserved field is not zero or a set binding's stride is out of range. -/
def parseBinding (b : List Byte) : Option Binding :=
  let w := fieldAt b 0 4
  let v := bitAt w 31
  let st := fieldAt b 8 1
  if bits w 30 18 ≠ 0 ∨ !zeroAt b 9 3 ∨ (v ∧ (st < 1 ∨ 64 < st)) then none
  else some ⟨bits w 17 0, v, fieldAt b 4 4, st, fieldAt b 12 4⟩

/-- The bindings of a list of bytes. -/
def parseBindings (b : List Byte) : Nat → Option (List Binding)
  | 0 => some []
  | k + 1 =>
    match parseBinding b, parseBindings (b.drop 16) k with
    | some x, some r => some (x :: r)
    | _, _ => none

/-- Does a valid binding name a span of another function? -/
def foreignBinding (s : State) (f : Nat) (bs : List Binding) : Bool :=
  bs.any (fun b => b.valid && (match s.span? b.span with | some x => x.fn != f | none => false))

/-- The home die of a new context: the one with the fewest, the lowest on a tie (R189). -/
def homeDie (s : State) : Nat :=
  let n (d : Nat) : Nat := s.sch.ctxs.countP (fun p => p.2.home == d)
  [1, 2, 3].foldl (fun b d => if n d < n b then d else b) 0

/-- Receive queues for the kind-6 buffers of a program, in buffer order, all or none (R279). -/
def openQueues (f : Nat) : List Buf → List Nat → State → Option (List Nat × State)
  | [], _, s => some ([], s)
  | b :: r, picks, s =>
    match allocQueue s f (b.size / 256) (bits b.base 32 16) (picks.headD 0) with
    | none => none
    | some (q, s) =>
      match openQueues f r picks.tail s with
      | none => none
      | some (qs, s) => some (q :: qs, s)

/-- The kind-6 buffers of a program. -/
def recvBufs (p : Prog) : List Buf := p.bufs.filter (fun b => b.kind == 6)

/-- The queue numbers written into PROGRAM_AREA (R279). -/
def writeQueueNumbers (area : List Byte) : List Buf → List Nat → List Byte
  | b :: bs, q :: qs => writeQueueNumbers (putBytes area (bits b.base 15 0) (leBytes 4 q)) bs qs
  | _, _ => area

/-- What CTX_OPEN asks for, once its fields are checked. -/
structure OpenReq where
  slot : Nat
  prog : Prog
  work : Nat
  seed : Nat
  position : Nat
  token : Nat
  binds : List Binding
  area : List Byte
  areaPsn : List Nat

/-- The new context made: resident if resources allow, parked otherwise (R176); none while it waits for T1 (R102). -/
def makeCtx (s : State) (f ring handle region : Nat) (qpicks : List Nat) (q : OpenReq) : Option (State × Status × List Byte) :=
  match pickFree s.sch.ctxs 0 266240 handle with
  | none => some (s, .retryLater, [])
  | some h =>
    match makeRegion s f q.prog.hdr.ctxBytes .context h region with
    | none => none
    | some (base, t) =>
      match openQueues f (recvBufs q.prog) qpicks t with
      | none => some (s, .retryLater, [])
      | some (qs, t) =>
        let c : Ctx :=
          { fn := f, st := .parked, hw := 0, resident := false, program := q.slot, phase := 0, op := 0, iter := 0, home := homeDie s,
            retries := 0, seed := q.seed, stepCtr := 0, position := q.position, token := q.token, sat := 0, accepted := 0,
            lastStatus := .ok, faultPhase := 0xFFFF, faultOp := 0xFFFF, workKib := q.work, t1Base := base, binds := q.binds,
            area := writeQueueNumbers q.area (recvBufs q.prog) qs, areaPsn := q.areaPsn, step := none, inflight := [], queued := [],
            queues := qs, ring := ring, abort := false, closer := none, failed := false, badRecord := false, slot := 0,
            quantumOver := false, idleSince := t.sch.idleTick, unparkSince := none, sequencer := none }
        match makeResident (t.setCtx h { c with st := .idle }) h with
        | some u => some (u, .ok, leBytes 4 h ++ [1#8])
        | none =>
          match freeSlot t with
          | some n => some (t.setCtx h { c with slot := n }, .ok, leBytes 4 h ++ [0#8])
          | none => some (s, .retryLater, [])

/-- The lines of an initial PROGRAM_AREA that come with poison (R39, R198). -/
def areaLost (s : State) (a n : Nat) : List Nat := (List.range (ceilDiv n 32)).filter (fun l => hostPsn s (a + 32 * l) (min 32 (n - 32 * l)))

/-- The CTX_OPEN descriptor (Table 11-4). `handle`, `region` and `queues` are what the module picks, where free (log entry 5). Bindings that
come with poison open nothing.
DESIGN CHOICE (unsafe in part): log entry 5. DEDUCED (unsafe): log entry 31. DESIGN CHOICE (unsafe): log entry 143. -/
def doCtxOpen (f r n handle region : Nat) (queues : List Nat) (s : State) : State :=
  match takeDesc s f r n 0x01 with
  | none => s
  | some d =>
    let work := fieldAt d 10 2
    let nb := fieldAt d 12 1
    let na := fieldAt d 40 2
    let prog := (fnPrograms s f).find? (fun q => q.2.id == fieldAt d 8 2)
    match prog.bind (fun q => (progOf s q.1).map (fun p => (q.1, p.2))) with
    | none => complete s f r n .invalid
    | some (slot, p) =>
      if 8 < nb ∨ 1536 < na ∨ !zeroAt d 13 3 ∨ !zeroAt d 42 6 ∨ !zeroAt d 56 8 ∨ work % 64 ≠ 0 ∨ work < p.hdr.workKib ∨
         8192 - 256 * p.hdr.winSize < work then complete s f r n .invalid
      else
        match hostRead s f (fieldAt d 32 8) (16 * nb), hostRead s f (fieldAt d 48 8) na with
        | some bb, some pa =>
          if hostPsn s (fieldAt d 32 8) (16 * nb) then complete s f r n .poison else
          match parseBindings bb nb with
          | none => complete s f r n .invalid
          | some bs =>
            if foreignBinding s f bs ∨ s.fld R.FN_CTX_HW_CEIL f + s.fld R.FN_CTX_PARK_CEIL f ≤ residentOf s f + parkedOf s f then
              complete s f r n .protection
            else
              let bad := areaLost s (fieldAt d 48 8) na
              match makeCtx s f r handle region queues ⟨slot, p, work, fieldAt d 16 8, fieldAt d 24 4, fieldAt d 28 4, bs, padTo 1536 pa, bad⟩ with
              | none => waitFrame s (.desc f r n) false []
              | some (s, st, res) => complete (endWait s (.desc f r n)) f r n (st.worse (psnStatus (!bad.isEmpty))) 0 res
        | _, _ => complete s f r n .protection

/-- CTX_OPEN (R176), with the host bytes that come in poisoned TLPs (R198). -/
def execCtxOpen (fn ring num handle region : Nat) (queues : List Nat) (poisoned : List (Nat × Nat)) (s : State) : Host.Outcome State Fault Refusal :=
  act s (doCtxOpen fn ring num handle region queues (withTlp poisoned s))

/-! Steps that never start. -/

/-- The record of a CTX_STEP that never started: no op stopped it (FAULT_PHASE and FAULT_OP 0xFFFF for none).
DESIGN CHOICE (unsafe): log entry 30. -/
def refuseStep (s : State) (c : Ctx) (src : StepSrc) (st : Status) : State :=
  completeStep s { c with faultPhase := 0xFFFF, faultOp := 0xFFFF, accepted := 0 } src st

/-- CTX_STEP descriptors that name a handle and were accepted before a point in the order of acceptance, on every ring of a
function. -/
def earlierSteps (s : State) (f h order : Nat) : List (Nat × Nat) :=
  (s.host.rings.filter (fun p => p.1 / 64 = f)).flatMap (fun p =>
    (p.2.acc.filter (fun d => fieldAt d.bytes 0 1 == 0x03 && fieldAt d.bytes 8 4 == h && decide (d.order < order) && !d.started)).map
      (fun d => (p.1 % 64, d.num)))

/-! CTX_STEP and unparking (R173, R175, R181). -/

/-- The entry phase of a program by slot. -/
def entryOf (s : State) (slot : Nat) : Nat := match progOf s slot with | some (_, p) => p.hdr.entry | none => 0

/-- A step that may start starts, with its token set. -/
def beginQueued (s : State) (h : Nat) (q : QStep) : State :=
  match s.ctx? h with
  | none => s
  | some c =>
    let s := startStep s h (if q.phase = 0xFFFF then entryOf s c.program else q.phase) q.src
    match q.token with
    | some t => s.updCtx h (fun c => { c with token := t })
    | none => s

/-- The first waiting step of an idle resident context starts. -/
def startNext (s : State) (h : Nat) : State :=
  match s.ctx? h with
  | none => s
  | some c =>
    match c.queued with
    | [] => s
    | q :: rest => if c.st = .idle && c.resident then beginQueued (s.setCtx h { c with queued := rest }) h q else s

/-- A parked record that fails its STATE_CRC (R173): the context is marked failed, the fault logged once, and every waiting step
completes with ST_DEVICE_FAULT. -/
def failRecord (s : State) (h : Nat) (c : Ctx) : State :=
  let e : LogEntry := { entry0 s 0x15 .deviceFault c.fn with context := h }
  let s := logFn s c.fn e
  let s := c.queued.foldl (fun s q => refuseStep s c q.src .deviceFault) s
  s.updCtx h (fun c => { c with failed := true, queued := [], unparkSince := none })

/-- A parked context that has a step waiting is made resident, if it can be; a record found bad at the first attempt fails it (R173). -/
def tryUnpark (s : State) (h : Nat) (crcFails : Bool) : State :=
  match s.ctx? h with
  | none => s
  | some c =>
    if c.st ≠ .parked ∨ c.queued.isEmpty then s
    else if !c.judged && (crcFails || c.badRecord) then failRecord s h c
    else
      let s := s.updCtx h (fun c => { c with judged := true })
      match makeResident s h with
      | some s => startNext (s.incFld R.SCHED_UNPARK_CNT.COUNT) h
      | none => s.updCtx h (fun c => { c with unparkSince := some (c.unparkSince.getD s.now) })

/-- A step asked of an open context that is neither aborting nor failed: it starts, or waits. -/
def askStep (s : State) (h : Nat) (q : QStep) (crcFails : Bool) : State :=
  let s := s.updCtx h (fun c => { c with queued := c.queued ++ [q] })
  tryUnpark (startNext s h) h crcFails

/-- CTX_STEP (Table 11-4, R181): the steps of one context start in the order their descriptors were fetched, on whatever rings. `crcFails` says that the parked record's STATE_CRC fails. -/
def doCtxStep (f r n : Nat) (crcFails : Bool) (s : State) : State :=
  match takeDesc s f r n 0x03 with
  | none => s
  | some d =>
    let h := fieldAt d 8 4
    let ph := fieldAt d 12 2
    let refuse (st : Status) : State := complete s f r n st (2 ^ 32 - 1)
    if 2 ^ 19 ≤ h ∨ 1 < fieldAt d 14 1 ∨ !zeroAt d 15 1 ∨ !zeroAt d 20 44 then refuse .invalid
    else
      match s.ctx? h with
      | none => refuse .invalid
      | some c =>
        let phases := match progOf s c.program with | some (_, p) => p.hdr.phases | none => 0
        if c.fn ≠ f then refuse .protection
        else if ph ≠ 0xFFFF ∧ phases ≤ ph then refuse .invalid
        else if c.st = .aborting then refuse (if c.abort then .aborted else .invalid)
        else if c.failed then refuse .deviceFault
        else if !((findDesc s f r n).map (fun a => (earlierSteps s f h a.order).isEmpty)).getD true then s
        else
          let tok := if fieldAt d 14 1 = 1 then some (fieldAt d 16 4) else none
          askStep (markStarted s f r n) h ⟨.desc f r n, ph, tok⟩ crcFails

/-- CTX_STEP (R181). -/
def execCtxStep (fn ring num : Nat) (crcFails : Bool) (s : State) : Host.Outcome State Fault Refusal :=
  act s (doCtxStep fn ring num crcFails s)

/-- UNPARK (R175): a parked context with a step waiting becomes resident once it can. -/
def execUnpark (handle : Nat) (crcFails : Bool) (s : State) : Host.Outcome State Fault Refusal := act s (tryUnpark s handle crcFails)

/-- UNPARK_WAIT has passed without residency: the CTX_STEP completes with ST_RETRY_LATER. -/
def doUnparkWaitExpiry (h t : Nat) (s : State) : State :=
  let s := atTime s t
  match s.ctx? h with
  | none => s
  | some c =>
    match c.queued, c.unparkSince with
    | q :: rest, some since =>
      if c.st ≠ .parked ∨ s.now < since + s.fld R.SCHED_GUARD.UNPARK_WAIT * 1000 then s
      else
        let s := refuseStep s c q.src .retryLater
        s.updCtx h (fun c => { c with queued := rest, unparkSince := if rest.isEmpty then none else some s.now })
    | _, _ => s

/-- UNPARK_WAIT_EXPIRY (R175): at fabric time `time`. -/
def execUnparkWaitExpiry (handle time : Nat) (s : State) : Host.Outcome State Fault Refusal := act s (doUnparkWaitExpiry handle time s)

end Sys2Proof.Machine
end

