-- ==== Sys2Proof/Machine/Spans.lean ====
section
/-! DEFINITION. Spans from the host and from step programs: SPAN_CREATE, SPAN_FREE, SPAN_PROTECT, KV_WRITE, KV_COMMIT, KV_REWIND, and the
step ops KV_APPEND and HZN (R88, R92, R146, R184, R188, R209, R319). -/

namespace Sys2Proof.Machine

open Sys2Proof

/-! SPAN_CREATE (R88). -/

/-- Free frames of the bank pair of a rotation index. -/
def pairFree (s : State) (q : Nat) : Nat :=
  let a := rotPair q
  if !s.mm.fresh1 || pcClosed s (framePc a) then 0
  else
    let used := s.mm.frames.countP (fun p => decide (a ≤ p.1) && decide (p.1 < a + 2048))
    let rem := s.mm.remap.countP (fun p => decide (a ≤ p.2) && decide (p.2 < a + 2048))
    let reg := ((s.mm.regions.filter (fun r => addrClass r.base = .t1)).map (fun r =>
      let lo := max a ((r.base - t1Base) / 65536)
      let hi := min (a + 2048) (ceilDiv (r.base + r.size - t1Base) 65536)
      hi - lo)).foldl (· + ·) 0
    2048 - used - rem - reg

/-- START (R96): the rotation index whose bank pair has the most free frames, the lowest on a tie. -/
def placementStart (s : State) : Nat :=
  (((List.range 8192).map (fun q => (q, pairFree s q))).foldl (fun b p => if b.2 < p.2 then p else b) (0, pairFree s 0)).1

/-- Is a KV-space extent clear of every span? -/
def extentFree (s : State) (a n : Nat) : Bool :=
  decide (kvBase ≤ a) && decide (a + n ≤ kvEnd) && a % 65536 == 0 &&
    s.pg.spans.all (fun p => decide (p.2.base + p.2.pages * 65536 ≤ a) || decide (a + n ≤ p.2.base))

/-- A KV-space extent: where the command says, or the lowest free one.
DESIGN CHOICE (unsafe in part): log entry 5. -/
def findExtent (s : State) (n pick : Nat) : Option Nat :=
  if extentFree s pick n then some pick
  else
    match ((kvBase :: s.pg.spans.map (fun p => p.2.base + p.2.pages * 65536)).filter (fun a => extentFree s a n)) with
    | [] => none
    | a :: r => some (r.foldl min a)

/-- Pinned frames charged to a function (R106). -/
def pinnedOf (s : State) (f : Nat) : Nat := ((s.pg.spans.filter (fun p => p.2.fn = f ∧ p.2.pin)).map (fun p => p.2.pages)).foldl (· + ·) 0

/-- The span that a SPAN_CREATE descriptor asks for, if its fields lie in Table 6-3. -/
def parseSpan (f : Nat) (d : List Byte) : Option Span :=
  let sh := fieldAt d 15 1
  let po := fieldAt d 16 1
  let fixed := bitAt po 4
  let fmt : Option KvFmt := match bits sh 4 3 with | 0 => some .kv8 | 1 => some .kv4 | 2 => some .bf16 | _ => none
  match fmt, ([64, 96, 128, 192, 256] : List Nat)[bits sh 2 0]? with
  | some fm, some dim =>
    let x : Span :=
      { fn := f, st := .open, maxTokens := fieldAt d 8 4, layerSlots := fieldAt d 12 2, kvHeads := fieldAt d 14 1, dim := dim, fmt := fm,
        ilog := bits po 3 0, fixedScale := fixed, pin := bitAt po 5, t2Attn := bitAt po 6, holed := false, prot := .none, base := 0,
        fixedPk := fieldAt d 20 4, fixedPv := fieldAt d 24 4, horizon := 0, gen := 0, appended := 0, tableGen := 0, tables := [], start := 0,
        ptBase := 0, handoff := 0, lastRewind := none }
    if bits sh 7 5 ≠ 0 ∨ bitAt po 7 ∨ x.maxTokens < 1 ∨ 4194304 < x.maxTokens ∨ x.layerSlots < 1 ∨ 256 < x.layerSlots ∨ x.kvHeads < 1 ∨
       64 < x.kvHeads ∨ 13 < x.ilog ∨ 65536 < x.rowBytes ∨ (!fixed ∧ (x.fixedPk ≠ 0 ∨ x.fixedPv ≠ 0)) ∨ 2 ^ 46 < x.pages * 65536 ∨
       !zeroAt d 17 3 ∨ !zeroAt d 28 36 then none
    else some x
  | _, _ => none

/-- SPAN_CREATE; `span` and `base` are the number and extent that the module picks, where free.
DESIGN CHOICE (unsafe in part): log entry 5. -/
def doSpanCreate (f r n span base : Nat) (s : State) : State :=
  match takeDesc s f r n 0x08 with
  | none => s
  | some d =>
    match parseSpan f d with
    | none => complete s f r n .invalid
    | some x =>
      if x.pin && decide (s.fld R.FN_PIN_BUDGET f < pinnedOf s f + x.pages) then complete s f r n .protection
      else
        match pickFree s.pg.spans 0 262144 span, findExtent s (x.pages * 65536) base with
        | some k, some a =>
          complete (s.setSpan k { x with base := a, start := placementStart s }) f r n .ok 0
            (leBytes 4 k ++ List.replicate 4 0#8 ++ leBytes 8 a)
        | _, _ => complete s f r n .retryLater

/-- SPAN_CREATE (R88). -/
def execSpanCreate (fn ring num span base : Nat) (s : State) : Host.Outcome State Fault Refusal :=
  act s (doSpanCreate fn ring num span base s)

/-! SPAN_FREE (R92). -/

/-- The op of a context that waits for a frame: the first in flight of the kinds that need pages. -/
def frameOp (s : State) (h : Nat) : Option Nat :=
  match s.ctx? h with
  | none => none
  | some c => match progOf s c.program with
    | some (_, p) => (inflightOp p c (fun o => [0x03, 0x10, 0x12, 0x13, 0x14].contains o.opcode)).map (·.1)
    | none => none

/-- An item that waits for a frame ends with a status. -/
def endFrameWait (s : State) (w : Who) (st : Status) : State :=
  let s := endWait s w
  match w with
  | .desc f r n => complete s f r n st
  | .ctx h => (match frameOp s h with | some i => retire s h i st 0 | none => s)
  | .module => s

/-- Ops in progress that name a span retire with ST_ABORTED (R92, R152): its attention operations, and those that wait for a frame for a page
of it. -/
def abortSpanOps (s : State) (n : Nat) : State :=
  let ws := s.attn.waits.filter (fun p => p.2.req.span = n)
  let s := { s with attn := { s.attn with waits := s.attn.waits.filter (fun p => p.2.req.span ≠ n) } }
  let s := ws.foldl (fun s p =>
    match p.2.who with
    | .ctx h => retire s h p.2.idx .aborted p.2.sat
    | .desc f r k => complete s f r k .aborted 0 (leBytes 8 0)
    | .module => s) s
  (s.pg.waits.filter (fun p => p.2.2.any (fun k => k / 2 ^ 31 = n))).foldl (fun s p => endFrameWait s p.1 .aborted) s

/-- A page freed in whatever tier it lies, its migration abandoned. -/
def freePage (s : State) (n p : Nat) : State :=
  let e := s.pte n p
  let s := match migOf s n p with | some m => dropMig (freeDest s m) n p | none => s
  let s := freeSource s e
  { s with pg := { s.pg with ptes := Tab.del (pageKey n p) s.pg.ptes } }

/-- A span freed (R92): pages, page-table units, descriptor and extent. -/
def freeSpan (s : State) (n : Nat) : State :=
  let s := abortSpanOps s n
  let s := (s.pagesOf n).foldl (fun s p => freePage s n p.1) s
  let us := s.pg.tables.filter (fun u => u.1 / 2 ^ 20 = n)
  let s := us.foldl (fun s u => dropFrame s u.2) s
  { s with pg := { s.pg with tables := s.pg.tables.filter (fun u => u.1 / 2 ^ 20 ≠ n), spans := Tab.del n s.pg.spans,
                             prot := Tab.del n s.pg.prot } }

/-- SPAN_FREE: an INCOMPLETE span may be freed by its owner (R318). -/
def doSpanFree (f r n : Nat) (s : State) : State :=
  match takeDesc s f r n 0x09 with
  | none => s
  | some d =>
    let k := fieldAt d 8 4
    if 2 ^ 18 ≤ k ∨ !zeroAt d 12 52 then complete s f r n .invalid
    else
      match s.span? k with
      | none => complete s f r n .invalid
      | some x =>
        if x.st = .freeing then complete s f r n .invalid
        else if x.fn ≠ f then complete s f r n .protection
        else complete (freeSpan s k) f r n .ok

/-- SPAN_FREE (R92). -/
def execSpanFree (fn ring num : Nat) (s : State) : Host.Outcome State Fault Refusal := act s (doSpanFree fn ring num s)

/-! SPAN_PROTECT (R319). -/

/-- The mode of a number. -/
def protOf : Nat → Option Prot
  | 0 => some .none | 1 => some .mirror | 2 => some .coded | _ => none

/-- The members that a mode takes (R319). -/
def protWant : Prot → Nat
  | .none => 0 | .mirror => 1 | .coded => 9

/-- What the members answered: 0 all agreed, 1 none within REMOTE_TIMEOUT, 2 a PROT_CEIL would be exceeded, 3 a parity member found a
mismatch (R320).
DESIGN CHOICE (safe): log entry 36. -/
def protAnswer (a : Nat) : Status := if a = 0 then .ok else if a = 1 then .timeout else if a = 2 then .retryLater else .invalid

/-- SPAN_PROTECT; `answer` is what its targets answered.
DESIGN CHOICE (safe): log entry 36. -/
def doSpanProtect (f r n answer : Nat) (s : State) : State :=
  match takeDesc s f r n 0x0A with
  | none => s
  | some d =>
    let k := fieldAt d 8 4
    let cnt := fieldAt d 14 2
    let ms := (List.range 9).map (fun i => fieldAt d (16 + 2 * i) 2)
    match protOf (fieldAt d 12 1) with
    | none => complete s f r n .invalid
    | some mode =>
      let want := protWant mode
      if 2 ^ 18 ≤ k ∨ !zeroAt d 13 1 ∨ !zeroAt d 34 30 ∨ cnt ≠ want ∨ (ms.drop cnt).any (· != 0) ∨ ms.any (fun m => 32768 ≤ m) then
        complete s f r n .invalid
      else
        match spanFor s f k with
        | .error st => complete s f r n st
        | .ok x =>
          if mode ≠ .none ∧ x.prot ≠ .none ∧ x.prot ≠ mode then complete s f r n .invalid
          else
            let named := if mode = .none then (Tab.find? k s.pg.prot).getD [] else ms.take cnt
            let s := named.foldl (fun s m => s.emit (.protect m k want x.maxTokens x.layerSlots x.rowBytes)) s
            let st := if named.isEmpty then .ok else protAnswer answer
            if st ≠ .ok then complete s f r n st
            else
              let s := s.setSpan k { x with prot := mode }
              let s := { s with pg := { s.pg with prot := if mode = .none then Tab.del k s.pg.prot else Tab.ins k named s.pg.prot } }
              complete (sendRows s k 0 x.horizon (List.range x.layerSlots)) f r n .ok

/-- SPAN_PROTECT (R319). -/
def execSpanProtect (fn ring num answer : Nat) (s : State) : Host.Outcome State Fault Refusal :=
  act s (doSpanProtect fn ring num answer s)

/-! KV_COMMIT and KV_REWIND (Table 8-8). -/

/-- The RESULT of KV_COMMIT and KV_REWIND (Table 11-7). -/
def counterResult (s : State) (k : Nat) : List Byte :=
  match s.span? k with
  | some x => leBytes 4 x.horizon ++ leBytes 4 x.appended ++ leBytes 4 x.gen
  | none => []

/-- KV_COMMIT and KV_REWIND differ in the operation they apply. -/
def doCounterOp (f r n op : Nat) (act : State → Nat → Span → Nat → State × Status) (s : State) : State :=
  match takeDesc s f r n op with
  | none => s
  | some d =>
    let k := fieldAt d 8 4
    let m := fieldAt d 12 4
    if 2 ^ 18 ≤ k ∨ 2 ^ 23 ≤ m ∨ !zeroAt d 16 48 then complete s f r n .invalid
    else
      match spanFor s f k with
      | .error st => complete s f r n st
      | .ok x => let q := act s k x m; complete q.1 f r n q.2 0 (counterResult q.1 k)

/-- KV_COMMIT (R146). -/
def execKvCommit (fn ring num : Nat) (s : State) : Host.Outcome State Fault Refusal := act s (doCounterOp fn ring num 0x11 kvCommitTo s)

/-- KV_REWIND (R146). -/
def execKvRewind (fn ring num : Nat) (s : State) : Host.Outcome State Fault Refusal := act s (doCounterOp fn ring num 0x12 kvRewindTo s)

/-! KV_WRITE (R209). -/

/-- The state of a KV_WRITE over its rows: rows written, poison, saturations, and whether some page was gone; none where a row must wait
for a frame, so that none of the rows is written (R102).
DEDUCED (unsafe): log entry 35. -/
def writeRows (f n l : Nat) (x : Span) (first : Nat) (asRecords : Bool) : List (List PByte) → State → Nat → Bool → Nat → Bool →
    Option (State × Nat × Bool × Nat × Bool)
  | [], s, k, psn, sat, gone => some (s, k, psn, sat, gone)
  | b :: r, s, k, psn, sat, gone =>
    let old := oldRow s n l first x
    let res := if asRecords then writeRecords s n l first x b else writeRow s n l first x none (elemsOf b)
    match res with
    | .wait => none
    | .displaced => writeRows f n l x (first + 1) asRecords r s k psn sat true
    | .ok s p m =>
      let s := if first < x.horizon then resendRow s n l first old else s
      writeRows f n l x (first + 1) asRecords r s (k + 1) (psn || p) (sat + m) gone

/-- Rows of SOURCE 0 or 1 written: HORIZON and APPENDED follow once every row is in. -/
def kvWriteRows (f r n k l first last : Nat) (x : Span) (asRecords : Bool) (bs : List PByte) (s : State) : State :=
  let w := if asRecords then x.rowBytes else x.kvHeads * 8 * x.dim
  match writeRows f k l x first asRecords (chunk w bs) s 0 false 0 false with
  | none => waitFrame (markStarted s f r n) (.desc f r n) false ((rangeFrom first (last - first)).map (fun i => pageKey k (x.rowAt l i).1))
  | some (t, cnt, psn, sat, gone) =>
    let t := endWait (t.incFld R.FN_SAT_CNT sat f) (.desc f r n)
    let h := if gone then x.horizon else max x.horizon last
    let t := match t.span? k with
      | some y => if gone then setCounters t k y else commitTo t k { y with appended := h } h
      | none => t
    let st : Status := if gone then .displaced else if psn then .poison else .ok
    complete t f r n st 0 (leBytes 4 cnt ++ leBytes 4 h)

/-- Are any pages of a span holed or archived? -/
def spanHoled (s : State) (k : Nat) : Bool := (s.pagesOf k).any (fun p => p.2.st == .holed || p.2.st == .archived)

/-- An archive record restored in place (R105, R214). The vault decrypts it; batts that do not pass R54 to R58 leave their rows poisoned
(R300). `bad` are the decrypted bytes that are not those the module wrote.
DESIGN CHOICE (safe): log entry 37. DESIGN CHOICE (unsafe): log entry 143. -/
def kvRestore (f r n k : Nat) (x : Span) (bad : List (Nat × Byte)) (q : List PByte) (s : State) : State :=
  let b := rawBytes q
  let p := fieldAt b 36 2 * x.slotPages + fieldAt b 38 4
  if crc16 (b.take 254) ≠ fieldAt b 254 2 ∨ fieldAt b 32 4 ≠ k ∨ x.layerSlots ≤ fieldAt b 36 2 ∨ x.slotPages ≤ fieldAt b 38 4 ∨
     (s.pte k p).st ≠ .archived ∨ b.length < 256 + fieldAt b 44 4 then complete s f r n .invalid
  else if anyPsn (q.take 256) then complete s f r n .poison
  else
    match allocFrame s f (rotIndex x p) with
    | none => waitFrame (markStarted s f r n) (.desc f r n) false [pageKey k p]
    | some (fr, s) =>
      let y := decodeBatts (tickPage (endWait s (.desc f r n))) (2 ^ 19 - 1) k p bad
      let e := loseBatts x (y.1.pte k p) (q.drop 256)
      let s := layPage (useFrame y.1 fr (.page f k p)) fr e.image e.imagePsn
      let s := s.setPte k p { e with st := .t1, frame := fr, granule := 0, count := 0, node := 0, handle := 0, image := [], imagePsn := [],
                                     accessed := true, entered := s.pg.tick }
      let s := match s.span? k with | some y => s.setSpan k { y with holed := spanHoled s k } | none => s
      complete s f r n (if !y.2.isEmpty then .battLength else psnStatus (!e.imagePsn.isEmpty)) 0 (leBytes 4 0 ++ leBytes 4 x.horizon)

/-- Are a KV_WRITE's fields within their ranges (Tables 8-8, 11-4; R209)? -/
def kvWriteOk (x : Span) (d : List Byte) : Bool :=
  let l := fieldAt d 12 2
  let src := fieldAt d 14 1
  let first := fieldAt d 16 4
  let last := fieldAt d 20 4
  let w := if src = 0 then x.kvHeads * 8 * x.dim else x.rowBytes
  if src = 2 then first == 0 && last == 0
  else decide (l < x.layerSlots) && decide (first ≤ last) && decide (last ≤ x.maxTokens) && fieldAt d 32 8 == (last - first) * w &&
    x.appended == x.horizon && decide (first ≤ x.horizon) && (src == 0 || x.fmt == .bf16 || x.fixedScale)

/-- The pages of rows that a KV_WRITE covers. -/
def kvWritePages (x : Span) (l first last : Nat) : List Nat :=
  (rangeFrom first (last - first)).foldl (fun ps r => NSet.add (x.rowAt l r).1 ps) []

/-- KV_WRITE. -/
def doKvWrite (f r n : Nat) (errs : Errs) (s : State) : State :=
  match takeDesc s f r n 0x10 with
  | none => s
  | some d =>
    let k := fieldAt d 8 4
    let l := fieldAt d 12 2
    let src := fieldAt d 14 1
    let first := fieldAt d 16 4
    let last := fieldAt d 20 4
    if 2 ^ 18 ≤ k ∨ 2 ^ 9 ≤ l ∨ 3 ≤ src ∨ !zeroAt d 15 1 ∨ !zeroAt d 40 24 then complete s f r n .invalid
    else
      match spanIf s f k (fun x => kvWriteOk x d) with
      | .error st => complete s f r n st
      | .ok x =>
        match hostReadP s f (fieldAt d 24 8) (fieldAt d 32 8) with
        | none => complete s f r n .protection
        | some bs =>
          let s := errsOf f errs s
          if src = 2 then kvRestore f r n k x (errs.batts.map (·.2)) bs s
          else
            let t := (kvWritePages x l first last).foldl (fun s p => poisonBatts s k p (badOf errs.batts p)) s
            kvWriteRows f r n k l first last x (src = 1) bs t

/-- KV_WRITE (R209), with the storage errors it meets. -/
def execKvWrite (fn ring num : Nat) (errs : Errs) (s : State) : Host.Outcome State Fault Refusal := 
  act s (doKvWrite fn ring num errs (withTlp errs.host s))

/-! KV_APPEND as a step op (R146, R184). -/

/-- A set binding of the context. -/
def OpCtx.binding (k : OpCtx) (i : Nat) : Option Binding := match k.c.binds[i]? with | some b => if b.valid then some b else none | none => none

/-- The layer slot an op names: LAYER_SLOT, plus ITER where the op has ITER set. -/
def OpCtx.layer (k : OpCtx) : Nat := bits k.o.arg0 8 0 + (if k.o.iter then k.c.iter else 0)

/-- The KV_APPEND op; its NBU takes no command while its stack drains. -/
def kvAppendOp (bad : List (Nat × Nat × Byte)) (k : OpCtx) (s : State) : OpOut :=
  match k.binding k.o.aux with
  | none => .done s .invalid 0
  | some b =>
    let p := (k.c.position + bits k.o.arg0 12 9) % 2 ^ 32
    match spanFor s k.c.fn b.span with
    | .error st => .done s st 0
    | .ok x =>
      if p < b.posBase ∨ (p - b.posBase) % b.posStride ≠ 0 then .done s .ok 0
      else
        let w := x.kvHeads * 8 * x.dim
        match operand s k k.o.src0 k.anyTile 0 w false with
        | none => .done s .protection 0
        | some a =>
          let (bs, s1) := locRead s k.h a w
          let row := (p - b.posBase) / b.posStride
          let pg := (x.rowAt k.layer row).1
          let u := (decodeStored s1 k.h b.span pg (badOf bad pg)).1
          match kvAppendRow u k.c.fn b.span k.layer row (elemsOf bs) (k.o.varBit 0) k.h with
          | .wait _ => .wait (waitFrame s (.ctx k.h) false [pageKey b.span pg])
          | .done t st sat =>
            if pageDrains t b.span pg then .wait s
            else .done (endWait t (.ctx k.h)) (st.worse (if anyPsn bs && st == .ok then .poison else st)) sat

/-- KV_APPEND (R146), with the storage errors it meets. -/
def execKvAppend (handle : Nat) (errs : Errs) (s : State) : Host.Outcome State Fault Refusal :=
  act s (runOp s handle (fun o => o.opcode == 0x14) (withErrs errs (kvAppendOp errs.batts)))

/-! HZN (R188). -/

/-- rows_below of R184. -/
def rowsBelowPos (n : Nat) (b : Binding) (maxTok : Nat) : Nat := min maxTok ((n + b.posStride - 1 - b.posBase) / b.posStride)

/-- The bindings of a mask; none where one is not set. -/
def maskBinds (k : OpCtx) (m : Nat) : Option (List Binding) :=
  ((List.range 8).filter (fun i => bitAt m i)).foldr (fun i r => match k.binding i, r with | some b, some l => some (b :: l) | _, _ => none)
    (some [])

/-- An operation of Table 8-8 applied to every span of a list of bindings, up to sequence position n. -/
def hznEach (act : State → Nat → Span → Nat → State × Status) (f n : Nat) : List Binding → State → Status → State × Status
  | [], s, st => (s, st)
  | b :: r, s, st =>
    match spanFor s f b.span with
    | .error e => hznEach act f n r s (st.worse e)
    | .ok x => let q := act s b.span x (rowsBelowPos n b x.maxTokens); hznEach act f n r q.1 (st.worse q.2)

/-- HZN of mode COMMIT or REWIND. -/
def hznOp (act : State → Nat → Span → Nat → State × Status) (k : OpCtx) (s : State) : OpOut :=
  match maskBinds k k.o.arg0 with
  | none => .done s .invalid 0
  | some bs => let q := hznEach act k.c.fn (k.c.position + 1 + k.o.arg1) bs s .ok; .done q.1 q.2 0

/-- HZN of mode ACCEPT.
DEDUCED (unsafe): log entry 119. -/
def hznAcceptOp (k : OpCtx) (s : State) : OpOut :=
  match maskBinds k k.o.arg0 with
  | none => .done s .invalid 0
  | some bs =>
    match operand s k k.o.src0 k.anyTile 0 4 false with
    | none => .done s .protection 0
    | some loc =>
      let (b, s) := locRead s k.h loc 4
      let a := fieldAt (rawBytes b) 0 2
      let n := fieldAt (rawBytes b) 2 2
      if anyPsn b then .done s .poison 0
      else if n < 1 ∨ 15 < n ∨ n < a then .done s .invalid 0
      else
        let to_ := k.c.position + 1 + a
        let q := hznEach kvCommitTo k.c.fn to_ bs s .ok
        let q := if a < n then hznEach kvRewindTo k.c.fn to_ bs q.1 q.2 else q
        .done (q.1.updCtx k.h (fun c => { c with accepted := a })) q.2 0

/-- HZN_COMMIT (R188). -/
def execHznCommit (handle : Nat) (s : State) : Host.Outcome State Fault Refusal :=
  act s (runOp s handle (fun o => o.opcode == 0x15 && o.var == 0) (hznOp kvCommitTo))

/-- HZN_REWIND (R188). -/
def execHznRewind (handle : Nat) (s : State) : Host.Outcome State Fault Refusal :=
  act s (runOp s handle (fun o => o.opcode == 0x15 && o.var == 1) (hznOp kvRewindTo))

/-- HZN_ACCEPT (R188). -/
def execHznAccept (handle : Nat) (s : State) : Host.Outcome State Fault Refusal :=
  act s (runOp s handle (fun o => o.opcode == 0x15 && o.var == 2) hznAcceptOp)

end Sys2Proof.Machine
end

