-- ==== Sys2Proof/Machine/Attn.lean ====
section
/-! DEFINITION. Attention operations: the step op ATTN, ATTN_QUERY, merges, and remote partials as borrower and as lender (R131, R142 to
R149, R152, R184, R210). -/

namespace Sys2Proof.Machine

open Sys2Proof

/-! Dispatch (R144, R148). -/

/-- What dispatch answers: held for a frame, or by a stack that drains; a row gone; or the partials computed here, the requests sent to
lenders, and whether a chain computed any of it. -/
inductive AttnRes where
  | wait
  | hold
  | displaced
  | go (s : State) (own : List Partial) (remotes : List (Nat × RemoteReq)) (chain : Bool)

/-- Must a page be in T1 before the operation reads it (Table 8-7)? -/
def needsT1 (s : State) (x : Span) (n p : Nat) : Bool :=
  let e := s.pte n p
  match migOf s n p with
  | some m => m.kind == .t2t1 || m.kind == .t3t1 || (e.st == .t2 && !x.t2Attn)
  | none => e.st == .t2 && !x.t2Attn

/-- The pages that must be in T1 promoted, all or none, with the (page, batt) pairs that faulted in decoding (R59). -/
def promoteAll (n ctx : Nat) (bad : List (Nat × Nat × Byte)) : List Nat → State → Option (State × List (Nat × Nat))
  | [], s => some (s, [])
  | p :: r, s =>
    let d := decodeStored s ctx n p (badOf bad p)
    match promoteNow d.1 n p false with
    | .ok t => (promoteAll n ctx bad r t).map (fun q => (q.1, d.2.map (fun b => (p, b)) ++ q.2))
    | _ => none

/-- Pages of T2 decoded where they lie (R59): their entries stay as they are. -/
def decodeInPlace (n ctx : Nat) (bad : List (Nat × Nat × Byte)) (ps : List Nat) (s : State) : State × List (Nat × Nat) :=
  ps.foldl (fun acc p => let d := decodeStored acc.1 ctx n p (badOf bad p); (d.1, acc.2 ++ d.2.map (fun b => (p, b)))) (s, [])

/-- Requests to the lenders of pages in T3, one for each lender, ascending (R145).
DESIGN CHOICE (safe): log entry 60. -/
def askLenders (s : State) (n : Nat) (ps : List (Nat × List Nat)) (q : AttnReq) : List (Nat × RemoteReq) × State :=
  let t3 := ps.filter (fun p => (s.pte n p.1).st = .t3)
  let nodes := (t3.map (fun p => (s.pte n p.1).node)).foldr NSet.add []
  nodes.foldl (fun (acc : List (Nat × RemoteReq) × State) nd =>
    let mine := t3.filter (fun p => (s.pte n p.1).node = nd)
    let id := acc.2.attn.nextReq
    let t := { acc.2 with attn := { acc.2.attn with nextReq := id + 1 } }
    let t := (t.emit (.attnReq id nd (mine.map (fun p => (s.pte n p.1).handle)) q)).incFld R.ATTN_REMOTE_REQ_CNT.COUNT
    (acc.1 ++ [(id, ⟨nd, mine.map (·.1), (mine.flatMap (·.2)).headD (q.ranges.headD (0, 0)).1, none⟩)], t)) ([], s)

/-- Is a page's row out of reach: holed, archived, or at a lender that is lost (R105, R315)? -/
def pageGone (s : State) (n p : Nat) : Bool :=
  (s.pte n p).st == .holed || (s.pte n p).st == .archived || ((s.pte n p).st == .t3 && nodeLost s (s.pte n p).node)

/-- The pages an operation read, touched where this module holds them (R97). -/
def touchRead (s : State) (n : Nat) (ps : List (Nat × List Nat)) : State :=
  ps.foldl (fun s p => if (s.pte n p.1).st = .t1 ∨ (s.pte n p.1).st = .t2 then touch s n p.1 else s) s

/-- Pages of an operation dispatched: promoted where they must be, the module's own partials computed, lenders asked. `ctx` is the context
that the decoders' faults are logged for. -/
def dispatchPages (s : State) (n : Nat) (x : Span) (q : AttnReq) (ctx : Nat) (bad : List (Nat × Nat × Byte)) (ps : List (Nat × List Nat)) :
    AttnRes :=
  if ps.any (fun p => pageGone s n p.1) then .displaced
  else
    match promoteAll n ctx bad ((ps.map (·.1)).filter (needsT1 s x n)) s with
    | none => .wait
    | some (t, f1) =>
      if ps.any (fun p => pageDrains t n p.1) then .hold
      else
        let d := decodeInPlace n ctx bad ((ps.map (·.1)).filter (fun p => (t.pte n p).st = .t2)) t
        let own := localParts d.1 x q n (f1 ++ d.2) ps
        let t := { d.1 with pg := { d.1.pg with ptes := t.pg.ptes } }
        let t := touchRead t n ps
        let r := askLenders t n ps q
        .go r.2 own r.1 (ps.any (fun p => (t.pte n p.1).st == .t1))

/-- An operation dispatched over every page it reads. -/
def dispatchAttn (s : State) (n : Nat) (x : Span) (q : AttnReq) (ctx : Nat) (bad : List (Nat × Nat × Byte)) : AttnRes :=
  dispatchPages s n x q ctx bad (pagesRead x q)

/-- The keys of the pages that an operation reads: while it waits or runs it holds them (R98). -/
def attnKeys (n : Nat) (x : Span) (q : AttnReq) : List Nat := (pagesRead x q).map (fun p => pageKey n p.1)

/-- Remote partials folded after the module's own, in ascending (lender node, FIRST) (R142). -/
def foldRemotes (w : AttnWait) : List Partial :=
  let ins (r : RemoteReq) : List RemoteReq → List RemoteReq :=
    fun l => (l.takeWhile (fun y => y.node < r.node || (y.node == r.node && y.first ≤ r.first))) ++ [r] ++
      (l.dropWhile (fun y => y.node < r.node || (y.node == r.node && y.first ≤ r.first)))
  let rs := (w.remotes.map (·.2)).foldl (fun l r => ins r l) []
  rs.foldl (fun acc r => match r.answer with | some ps => mergeHeads acc ps | none => acc) w.own

/-! Where results go. -/

/-- FP32 outputs of a head as bytes, in FP32 or BF16, poison by value group. -/
def outBytesOf (bf psn : Bool) (o : List W32) : List PByte :=
  if bf then bytesOf 2 (o.map (fun y => ((bf16OfF y).toNat, psn))) else bytesOf 4 (o.map (fun y => (y.toNat, psn)))

/-- The records of an operation's heads. -/
def headRecords (q : AttnReq) (ps : List Partial) : List (List Byte) :=
  ps.zipIdx.map (fun p => recordBytes q.ctx p.2 q.head q.gen q.epoch q.dim q.tent q.oBf16 p.1.merged p.1)

/-- What an ATTN op writes at DST: outputs, or records, a poisoned one poison throughout. -/
def attnOut (q : AttnReq) (fin bf : Bool) (ps : List Partial) : List PByte :=
  if fin then ps.flatMap (fun p => outBytesOf bf p.psn (finishPart p))
  else (List.zip (headRecords q ps) ps).flatMap (fun r => r.1.map (fun b => (b, r.2.psn)))

/-- Records appended to a local receive queue one after another, all or none; a queue that is free or another function's is
ST_PROTECTION (R279).
DEDUCED (unsafe): log entry 56. -/
def toQueue (s : State) (f qn node : Nat) : List (List Byte × Bool) → Except Bool State
  | [] => .ok s
  | b :: r =>
    match s.queue? qn with
    | none => .error true
    | some y =>
      if y.fixed || y.module_ || y.fn != f then .error true
      else
        match appendItem s qn b.1 b.2 node 1 with
        | none => .error false
        | some s => toQueue s f qn node r

/-- The results of an ATTN op delivered (Table 10-6): outputs or records at DST, unseen until a fence where a chain computed them (R118), or
records to a receive queue; none where a full queue holds the op.
DEDUCED (unsafe): log entry 56. -/
def deliverAttn (s : State) (k : OpCtx) (w : AttnWait) (ps : List Partial) : Option (State × Status) :=
  let st := ps.foldl (fun a p => a.worse (partStatus p)) w.status
  let fin := k.o.varBit 0
  if fin || k.o.dst != 0xFFFF then
    let bs := attnOut w.req fin (k.o.varBit 1) ps
    match operand s k k.o.dst k.anyTile 0 bs.length true with
    | none => some (s, st.worse .protection)
    | some a =>
      let r := if w.chain then chainStore s k a bs else locWrite s k.h a bs
      some (r.1, if r.2 && st == .ok then .poison else st)
  else
    let node := bits k.o.arg3 15 0
    let qn := bits k.o.arg3 31 16
    let rs := List.zip (headRecords w.req ps) (ps.map (·.psn))
    if node = s.fld R.ROUTE_NODE.NODE then
      match toQueue s k.c.fn qn node rs with
      | .ok s => some (s, st)
      | .error true => some (s, st.worse .protection)
      | .error false => none
    else if nodeLost s node then some (s, st.worse .displaced)
    else some (rs.foldl (fun s r => s.emit (.record node qn false r.1)) s, st)

/-! ATTN (R184). -/

/-- The ranges an ATTN op reads (R184). -/
def opRanges (k : OpCtx) (b : Binding) (x : Span) (posQ limit : Nat) : List (Nat × Nat) :=
  let win := bits k.o.arg2 22 0
  let r (n : Nat) : Nat := rowsBelowPos n b x.maxTokens
  if win = 0 then [(0, limit)] else [(0, r (bits k.o.arg2 27 23)), (r (posQ + 1 - win), limit)]

/-- The elements of an op's queries, FP32 or BF16 (log entry 23).
DESIGN CHOICE (safe): log entry 23. -/
def queryElems (s : State) (k : OpCtx) (bf : Bool) (n : Nat) : Option (List PElem × State) :=
  match operand s k k.o.src0 k.anyTile 0 (vecBytes bf n) false with
  | some a => let r := locRead s k.h a (vecBytes bf n); some (vecElems bf r.1, r.2)
  | none => none

/-- The snapshot of a span (R148): limit, GEN, whether tentative rows are read. -/
def snapshot (x : Span) (tentative : Bool) : Nat × Nat × Bool :=
  (if tentative then x.appended else x.horizon, x.gen % 2 ^ 24, tentative && decide (x.horizon < x.appended))

/-- Query heads and the saturations of their quantisation. -/
def makeHeads (x : Span) (es : List PElem) (bias : List (List PByte)) : List QHead × Nat :=
  let hs := List.zipWith (queryHead x.fmt) (chunk x.dim es) bias
  (hs.map (·.1), (hs.map (·.2)).foldl (· + ·) 0)

/-- An operation that has its partials: delivered, or waiting for its lenders. -/
def goAttn (s0 s : State) (k : OpCtx) (w : AttnWait) : OpOut :=
  if w.remotes.isEmpty then
    match deliverAttn s k w w.own with
    | some r => .done (endWait r.1 (.ctx k.h)) r.2 w.sat
    | none => .wait s0
  else
    let key := (w.remotes.headD (0, ⟨0, [], 0, none⟩)).1
    .wait { endWait s (.ctx k.h) with attn := { s.attn with waits := Tab.ins key w s.attn.waits } }

/-- The op's parameters within Table 8-1 (R131). -/
def attnOk (k : OpCtx) (x : Span) : Bool :=
  decide (k.layer < x.layerSlots) && decide (bits k.o.arg0 14 9 < x.kvHeads) && decide (bits k.o.arg2 22 0 ≤ 4194304) &&
    decide (bits k.o.arg2 27 23 ≤ 16) && fFinite (BitVec.ofNat 32 k.o.arg1)

/-- The operation that an ATTN op asks for. -/
def attnReqOf (s : State) (k : OpCtx) (b : Binding) (x : Span) (hs : List QHead) : AttnReq :=
  let posQ := (k.c.position + bits k.o.arg0 26 23) % 2 ^ 32
  let sn := snapshot x (bitAt k.o.arg0 21)
  { fn := k.c.fn, span := b.span, slot := k.layer, head := bits k.o.arg0 14 9, heads := hs, sQk := BitVec.ofNat 32 k.o.arg1, posQ := posQ,
    posBase := b.posBase, posStride := b.posStride, window := bits k.o.arg2 22 0, sinks := bits k.o.arg2 27 23,
    segStart := b.segStart, ranges := opRanges k b x posQ sn.1, oBf16 := bitAt k.o.arg0 22, dim := x.dim,
    epoch := s.epoch, limit := sn.1, gen := sn.2.1, tent := sn.2.2, ctx := k.c.hw }

/-- The ATTN op. -/
def attnOp (bf : Bool) (bad : List (Nat × Nat × Byte)) (k : OpCtx) (s : State) : OpOut :=
  match s.attn.waits.find? (fun p => p.2.who == .ctx k.h && p.2.idx == k.idx) with
  | some (key, w) =>
    if w.remotes.all (fun r => r.2.answer.isSome) then
      match deliverAttn { s with attn := { s.attn with waits := Tab.del key s.attn.waits } } k w (foldRemotes w) with
      | some r => .done r.1 r.2 w.sat
      | none => .wait s
    else .wait s
  | none =>
    match k.binding k.o.aux with
    | none => .done s .invalid 0
    | some b =>
      let h := bits k.o.arg0 20 15 + 1
      match spanIf s k.c.fn b.span (attnOk k) with
      | .error st => .done s st 0
      | .ok x =>
        match queryElems s k bf (h * x.dim), operand s k k.o.src1 k.anyTile 0 (128 * h) false, k.p.bufs[k.o.src1]? with
        | some (es, s1), some (.mem a), some bb =>
          if 1 < bb.kind then .done s .protection 0
          else
            let hs := makeHeads x es (biasTables s1 a h)
            let q := attnReqOf s k b x hs.1
            match dispatchAttn s1 b.span x q k.h bad with
            | .wait => .wait (waitFrame s (.ctx k.h) false (attnKeys b.span x q))
            | .hold => .wait s
            | .displaced => .done s1 .displaced hs.2
            | .go s2 own rem chain => goAttn s s2 k ⟨.ctx k.h, k.idx, q, own, rem, .ok, s.now, hs.2, chain⟩
        | _, _, _ => .done s .protection 0

/-- ATTN (R184), with the storage errors it meets. -/
def execAttn (handle : Nat) (bf : Bool) (errs : Errs) (s : State) : Host.Outcome State Fault Refusal :=
  act s (runOp s handle (fun o => o.opcode == 0x10) (withErrs errs (attnOp bf errs.batts)))

/-! ATTN_QUERY (R210). -/

/-- The bytes an ATTN_QUERY writes for a head: a record with poisoned values as +0, or its outputs, poisoned groups as zeros. -/
def queryOut (q : AttnReq) (fin bf : Bool) (h : Nat) (p : Partial) : List Byte :=
  if fin then hostBytes (outBytesOf bf p.psn (finishPart p))
  else
    let z : Partial := if p.psn then { p with m := 0#32, l := 0#32, o := p.o.map (fun _ => 0#32) } else p
    recordBytes q.ctx h q.head q.gen q.epoch q.dim q.tent q.oBf16 z.merged z

/-- The heads whose partial is ST_OK, as bits (R210). -/
def okHeads (ps : List Partial) : Nat := ((ps.zipIdx).map (fun p => if partStatus p.1 = .ok then 2 ^ p.2 else 0)).foldl (· + ·) 0

/-- An ATTN_QUERY's results written to host memory, and its completion. A head's status is its own or, where a lender's part is missing, the
operation's; heads of another status than ST_OK, ST_POISON and ST_BATT_LENGTH have nothing written (R210).
DEDUCED (unsafe): log entry 126. -/
def finishQuery (s : State) (f r n : Nat) (d : List Byte) (w : AttnWait) (ps : List Partial) : State :=
  let h := w.req.heads.length
  let fin := bitAt (fieldAt d 15 1) 0
  let bf := bitAt (fieldAt d 15 1) 1
  let out := if w.status = .ok ∨ w.status = .poison ∨ w.status = .battLength then (ps.zipIdx).flatMap (fun p => queryOut w.req fin bf p.2 p.1) else []
  let st := ps.foldl (fun a p => a.worse (partStatus p)) w.status
  let mask := if w.status = .ok then okHeads ps else 0
  match (if out.isEmpty then some s else hostWrite s f (fieldAt d 56 8 + 64 * ceilDiv (4 * h * w.req.dim) 64) out) with
  | none => complete s f r n .protection 0 (leBytes 8 0)
  | some s => complete s f r n st 0 (leBytes 8 mask)

/-- The operation an ATTN_QUERY descriptor asks for, its parameters within Table 8-1. -/
def queryReq (s : State) (f : Nat) (x : Span) (d : List Byte) (hs : List QHead) : AttnReq :=
  let a := fieldAt d 12 2
  let b := fieldAt d 14 1
  let w := fieldAt d 28 4
  let sn := snapshot x (bitAt b 6)
  { fn := f, span := fieldAt d 8 4, slot := bits a 8 0, head := bits a 14 9, heads := hs, sQk := BitVec.ofNat 32 (fieldAt d 16 4),
    posQ := fieldAt d 20 4, posBase := fieldAt d 24 4, posStride := fieldAt d 54 1, window := bits w 22 0, sinks := bits w 27 23,
    segStart := fieldAt d 32 4, ranges := [(fieldAt d 36 3, fieldAt d 39 3), (fieldAt d 42 3, fieldAt d 45 3)], oBf16 := bitAt b 7,
    dim := x.dim, epoch := s.epoch, limit := sn.1, gen := sn.2.1, tent := sn.2.2, ctx := 0xFFF }

/-- Are a query's fields within their ranges (Tables 8-1, 11-4)? -/
def queryOk (x : Span) (d : List Byte) : Bool :=
  let a := fieldAt d 12 2
  let w := fieldAt d 28 4
  let rg (i : Nat) : Bool := decide (fieldAt d i 3 ≤ fieldAt d (i + 3) 3) && decide (fieldAt d (i + 3) 3 ≤ x.maxTokens)
  decide (bits a 8 0 < x.layerSlots) && decide (bits a 14 9 < x.kvHeads) && decide (fieldAt d 15 1 < 4) &&
    fFinite (BitVec.ofNat 32 (fieldAt d 16 4)) && decide (bits w 22 0 ≤ 4194304) && decide (bits w 27 23 ≤ 16) && decide (w < 2 ^ 28) &&
    rg 36 && rg 42 && decide (1 ≤ fieldAt d 54 1) && decide (fieldAt d 54 1 ≤ 64) && zeroAt d 55 1 && decide (a < 2 ^ 15)

/-- Do the bias tables of a query's heads lie in a fixed region of the function (R131)? -/
def biasOk (s : State) (f a n : Nat) : Bool :=
  match regionAt s a n with | some g => g.fn == f && g.kind != .system && g.kind != .loading | none => false

/-- The ATTN_QUERY descriptor. -/
def doAttnQuery (f r n : Nat) (errs : Errs) (s : State) : State :=
  match takeDesc s f r n 0x18 with
  | none => s
  | some d =>
    let k := fieldAt d 8 4
    let h := bits (fieldAt d 14 1) 5 0 + 1
    if s.attn.waits.any (fun p => p.2.who == .desc f r n) then s
    else if 2 ^ 18 ≤ k then complete s f r n .invalid 0 (leBytes 8 0)
    else
      match spanIf s f k (fun x => queryOk x d) with
      | .error st => complete s f r n st 0 (leBytes 8 0)
      | .ok x =>
        let ba := fieldAt d 48 6
        if !biasOk s f ba (128 * h) then complete s f r n .protection 0 (leBytes 8 0)
        else
          match hostReadP s f (fieldAt d 56 8) (4 * h * x.dim) with
          | none => complete s f r n .protection 0 (leBytes 8 0)
          | some bs =>
            let u := errsOf f errs s
            let hs := makeHeads x (elemsOf bs) (biasTables u ba h)
            let q := queryReq s f x d hs.1
            match dispatchAttn u k x q (2 ^ 19 - 1) errs.batts with
            | .wait => waitFrame (markStarted s f r n) (.desc f r n) false (attnKeys k x q)
            | .hold => markStarted s f r n
            | .displaced => complete (u.incFld R.FN_SAT_CNT hs.2 f) f r n .displaced 0 (leBytes 8 0)
            | .go t own rem chain =>
              let t := (endWait t (.desc f r n)).incFld R.FN_SAT_CNT hs.2 f
              let w : AttnWait := ⟨.desc f r n, 0, q, own, rem, .ok, s.now, hs.2, chain⟩
              match rem with
              | [] => finishQuery t f r n d w own
              | (key, _) :: _ => markStarted { t with attn := { t.attn with waits := Tab.ins key w t.attn.waits } } f r n

/-- ATTN_QUERY (R210). -/
def execAttnQuery (fn ring num : Nat) (errs : Errs) (s : State) : Host.Outcome State Fault Refusal :=
  act s (doAttnQuery fn ring num errs (withTlp errs.host s))

/-! Remote partials (R145). -/

/-- The context, program and op of an op in flight. -/
def opCtxOf (s : State) (h idx : Nat) : Option OpCtx :=
  match s.ctx? h with
  | none => none
  | some c =>
    match progOf s c.program with
    | none => none
    | some (q, p) => (opAt p c idx).map (fun o => ⟨h, c, q, p, o, idx⟩)

/-- A waiting operation ends: with every lender's partials, or, at a timeout, with those that came.
DEDUCED (unsafe): log entry 126. -/
def endAttn (s : State) (key : Nat) (w : AttnWait) : State :=
  let t := { s with attn := { s.attn with waits := Tab.del key s.attn.waits } }
  let ps := foldRemotes w
  match w.who with
  | .ctx h =>
    match opCtxOf t h w.idx with
    | none => t
    | some k =>
      match deliverAttn t k w ps with
      | some r => retire r.1 h w.idx r.2 w.sat
      | none => s
  | .desc f r n =>
    match findDesc t f r n with
    | some d => finishQuery t f r n d.bytes w ps
    | none => t
  | .module => t

/-- The waiting operation of a request. -/
def waitOf (s : State) (id : Nat) : Option (Nat × AttnWait) := s.attn.waits.find? (fun p => p.2.remotes.any (fun r => r.1 == id))

/-- What an answer gives a waiting operation: the partials of its request, the status that joins the operation's, and requests sent on. -/
structure Answer where
  parts : List Partial
  status : Status
  more : List (Nat × RemoteReq)

/-- The pages of a request that the lender no longer holds are computed where they now lie (R145). The snapshot stays the operation's. Where
no frame is free for a page that must be in T1, the operation ends with ST_RETRY_LATER.
DESIGN CHOICE (unsafe): log entry 139. -/
def redispatch (s : State) (w : AttnWait) (r : RemoteReq) : State × Answer :=
  let none_ := emptyHeads w.req w.req.dim
  match s.span? w.req.span with
  | none => (s, ⟨none_, .aborted, []⟩)
  | some x =>
    match dispatchPages s w.req.span x w.req (2 ^ 19 - 1) [] ((pagesRead x w.req).filter (fun p => r.pages.contains p.1)) with
    | .displaced => (s, ⟨none_, .displaced, []⟩)
    | .wait | .hold => (s, ⟨none_, .retryLater, []⟩)
    | .go t own rem _ => (t.incFld R.ATTN_REDISPATCH_CNT.COUNT, ⟨own, .ok, rem⟩)

/-- The heads of an answer from its records: a head whose record is missing or invalid has the empty partial (R152: valid records are
delivered when others fail). -/
def answerHeads (q : AttnReq) (recs : List PartRec) : List Partial :=
  q.heads.zipIdx.map (fun h => match recs.find? (fun r => r.qhead == h.2) with
    | some r => r.part
    | none => emptyPart q.dim (q.ranges.headD (0, 0)).1)

/-- An answer taken up for a request. -/
def takeAnswer (s : State) (st : Status) (recs : List PartRec) (w : AttnWait) (r : RemoteReq) : State × Answer :=
  let ps := answerHeads w.req recs
  if st = .retryLater then redispatch s w r
  else if st = .battLength then (s, ⟨ps.map (fun p => { p with batt := p.batt || p.psn }), .ok, []⟩)
  else if st = .poison then (s, ⟨ps, .ok, []⟩)
  else (s, ⟨ps, if st = .ok ∧ recs.length ≠ w.req.heads.length then .invalid else st, []⟩)

/-- A waiting operation with the answer of request `id`. -/
def AttnWait.put (w : AttnWait) (id : Nat) (a : Answer) : AttnWait :=
  { w with remotes := w.remotes.map (fun q => if q.1 = id then (q.1, { q.2 with answer := some a.parts }) else q) ++ a.more,
           status := w.status.worse a.status }

/-- Partial records answering a request: one a head, in Table 8-5's form. An invalid one is discarded and counted (R139). -/
def doPartialData (id : Nat) (st : Nat) (recs : List (List Byte)) (s : State) : State :=
  match waitOf s id with
  | none => s
  | some (key, w) =>
    match w.remotes.find? (fun r => r.1 == id) with
    | none => s
    | some (_, r) =>
      if r.answer.isSome then s
      else
        let ps := recs.map (fun b => (parseRecord r.node 1 false b).filter (fun p => p.part.o.length == w.req.dim))
        let s := (ps.filter (·.isNone)).foldl (fun s _ => s.incFld R.ATTN_BAD_CNT.COUNT) s
        let q := takeAnswer s (statusOfNat st) (ps.filterMap (fun p => p)) w r
        let w' := { w.put id q.2 with status := (w.put id q.2).status.worse (if ps.any (·.isNone) then .invalid else .ok) }
        let t := { q.1 with attn := { q.1.attn with waits := Tab.ins key w' q.1.attn.waits } }
        if w'.remotes.all (fun r => r.2.answer.isSome) then endAttn t key w' else t

/-- PARTIAL_DATA (R145): the answer to request `id`, its status by value and its records. -/
def execPartialData (id status : Nat) (records : List (List (BitVec 8))) (s : State) : Host.Outcome State Fault Refusal :=
  act s (doPartialData id status records s)

/-! The lender (R145, R301). -/

/-- Has this module's storage lost the stored byte of a lent page? -/
def lentPsn (s : State) (l : LentPage) (i : Nat) : Bool :=
  linePsn s ((if l.inT1 then frameAddr l.at_ else t2Base + l.at_ * 4096) + i)

/-- The partials of one lent page, and whether a batt of it faulted. `bad` are its stored bytes that read otherwise. -/
def lentParts (s : State) (q : AttnReq) (l : LentPage) (bad : List (Nat × Byte)) : List Partial × Bool :=
  let x := lentSpan l.page
  let d := lentRead l.page bad (lentPsn s l)
  let q := { q with tent := false, dim := x.dim }
  let rows := (pagesRead x q).filter (fun p => p.1 = l.page.page)
  (rows.foldl (fun acc p => foldEntry s x q d.1 d.2 p.2 acc) (emptyHeads q x.dim), !d.2.isEmpty)

/-- A request arrives at this module as lender: the epoch, the handles and the borrowing node are checked, the vault decrypts and the tiles
compute over the lent pages, merged in ascending FIRST; one record a head goes back, with CONTEXT, GEN and EPOCH of the request. The pages
of a function whose T3 key is not held cannot be read (R301).
DEDUCED (unsafe): log entry 55. -/
def doAttnReq (node id : Nat) (handles : List Nat) (req : AttnReq) (errs : Errs) (s : State) : State :=
  let pages := handles.map (fun h => Tab.find? h s.pg.lent)
  let held := pages.filterMap (fun p => p)
  if req.epoch ≠ s.epoch ∧ !(s.flag R.MER_STAT.DRAINING ∧ req.epoch = s.fld R.MER_CUR.PREV) then s.emit (.answer node id .epochStale)
  else if held.any (fun l => l.page.node != node) then s.emit (.answer node id .protection)
  else if pages.any (·.isNone) then s.emit (.answer node id .retryLater)
  else if held.any (fun l => !NSet.has (node * 64 + l.page.fn) s.pg.lentKeys) then s.emit (.answer node id .keyUnavailable)
  else
    let s := errsModule errs s
    let ins (p : Nat × LentPage) (l : List (Nat × LentPage)) : List (Nat × LentPage) :=
      l.takeWhile (fun y => y.2.page.page ≤ p.2.page.page) ++ [p] ++ l.dropWhile (fun y => y.2.page.page ≤ p.2.page.page)
    let sorted := (List.zip handles held).foldl (fun l p => ins p l) []
    let ps := sorted.map (fun p => lentParts s req p.2 (badOf errs.batts p.1))
    let tot := (match ps.map (·.1) with | [] => emptyHeads req req.dim | a :: r => r.foldl mergeHeads a)
    let st := if ps.any (·.2) then Status.battLength else psnStatus (tot.any (·.psn))
    (s.emit (.partialData node id st (headRecords { req with tent := false } tot))).incFld R.ATTN_REMOTE_SRV_CNT.COUNT

/-- ATTN_REQ (R145): from borrower `node`, naming lent pages by handle, with the operation; `errs` are storage errors met, those of batts by
handle. -/
def execAttnReq (node id : Nat) (handles : List Nat) (req : AttnReq) (errs : Errs) (s : State) : Host.Outcome State Fault Refusal :=
  act s (doAttnReq node id handles req errs s)

end Sys2Proof.Machine
end

