-- ==== Sys2Proof/Machine/NbuOps.lean ====
section
/-! DEFINITION. Near-bank units: commands (R111, R112, R116), weight segments and the chain (R113, R114), uncorrectable sectors
(R122, R129, R371) and retirement (R128). -/

namespace Sys2Proof.Machine

open Sys2Proof

/-! The stacks. -/

/-- Is an NBU retired (R128)? -/
def nbuRetired (s : State) (k n : Nat) : Bool := bitAt (s.fld R.NBU_RETIRED.NBU_MAP k (n / 32)) (n % 32)

/-- The address by which software knows a byte of T1: that of the frame of a fixed region, where the byte lies in a frame that stands in for
it (R129). -/
def knownAddr (s : State) (a : Nat) : Nat :=
  match s.mm.remap.find? (fun p => p.2 == (a - t1Base) / 65536) with
  | some p => frameAddr p.1 + (a - t1Base) % 65536
  | none => a

/-- A range cut at the boundaries of frames, as (offset, bytes); `k` bounds the pieces. -/
def frameCutsGo : Nat → Nat → Nat → List (Nat × Nat)
  | 0, _, _ => []
  | k + 1, o, n => if n = 0 then [] else let m := min n (65536 - o % 65536); (o, m) :: frameCutsGo k (o + m) (n - m)

/-- A range cut at the boundaries of frames. -/
def frameCuts (o n : Nat) : List (Nat × Nat) := frameCutsGo (n / 65536 + 2) o n

/-- Does a range lie in one fixed region of a function (R83)? A bundle still loading is not usable (R297). -/
def regionOwned (s : State) (fn a n : Nat) : Bool :=
  match regionAt s a n with
  | some r => r.fn == fn && r.kind != .system && r.kind != .loading
  | none => false

/-- The page that lies in a frame, as (function, span, page). -/
def framePage (s : State) (fr : Nat) : Option (Nat × Nat × Nat) :=
  match Tab.find? fr s.mm.frames with | some (.page f sp p) => some (f, sp, p) | _ => none

/-- Does the T1 range belong to a function: a fixed region of it (R83), also by the frames that stand in for the region's (R129), or pages of
its spans (R91)? -/
def pairOwned (s : State) (fn a n : Nat) : Bool :=
  regionOwned s fn a n ||
  (decide (n ≠ 0) && (frameCuts (a - t1Base) n).all (fun c => regionOwned s fn (knownAddr s (t1Base + c.1)) c.2)) ||
  (decide (n ≠ 0) && (frameCuts (a - t1Base) n).all (fun c => match framePage s (c.1 / 65536) with | some p => p.1 == fn | none => false))

/-- Does a range meet a region that BUNDLE_LOAD filled (R298)? -/
def inBundle (s : State) (a n : Nat) : Bool :=
  (frameCuts (a - t1Base) n).any (fun c =>
    let a := knownAddr s (t1Base + c.1)
    s.mm.regions.any (fun r => (r.kind == .bundle || r.kind == .loading) && decide (r.base < a + c.2) && decide (a < r.base + r.size)))

/-- May an NBU command not store into a range: a loaded program image (R83), or KV pages, which only KV_WRITE and append write (R91)? -/
def storeBarred (s : State) (a n : Nat) : Bool :=
  (frameCuts (a - t1Base) n).any (fun c =>
    let a := knownAddr s (t1Base + c.1)
    s.mm.regions.any (fun r => r.kind == .image && decide (r.base < a + c.2) && decide (a < r.base + r.size)) ||
      (framePage s (c.1 / 65536)).isSome)

/-- The pages in a range are accessed (R97). -/
def touchRange (s : State) (a n : Nat) : State :=
  (frameCuts (a - t1Base) n).foldl (fun s c => match framePage s (c.1 / 65536) with | some p => touch s p.2.1 p.2.2 | none => s) s

/-! Commands. -/

/-- A native command (Table 7-3), `ctx` and `cfn` being its CONTEXT and FUNCTION; `fn` and `h` are the issuing function and context
handle. `home` is the (stack, pair) that the command names, which stays where the command is executed elsewhere for a remapped frame (R129):
its offsets ARG0 and ARG1 are in that pair. -/
structure NbuCmd where
  op : Nat
  flags : Nat
  pair : Nat
  stack : Nat
  home : Nat × Nat
  ctx : Nat
  cfn : Nat
  fn : Nat
  h : Nat
  fmt : Nat
  row : Nat
  len : Nat
  arg0 : Nat
  arg1 : Nat
  operand : Nat
  seq : Nat
  deriving DecidableEq, Repr

/-- The opcodes of Table 7-4. -/
def nbuOps : List Nat := [1, 2, 3, 4, 5, 6, 7, 8, 9, 14]

/-- A native command read: none where a reserved field is not zero or the opcode is reserved (R111). -/
def parseNative (b : List Byte) (fn h : Nat) : Option NbuCmd :=
  let w (o n : Nat) := fieldAt b o n
  let c : NbuCmd := ⟨w 0 1, w 1 1, w 2 2 % 512, w 2 2 / 512 % 16, (w 2 2 / 512 % 16, w 2 2 % 512), w 4 2 % 4096, w 6 1 % 64, fn, h, w 7 1, w 8 4 % 2 ^ 27, w 12 4 % 2 ^ 23,
    w 16 4, w 20 4, w 24 2, w 28 2⟩
  if nbuOps.contains c.op && decide (w 1 1 < 16) && decide (w 2 2 < 8192) && decide (w 4 2 < 4096) && decide (w 6 1 < 64) &&
     decide (w 7 1 < 16) && decide (c.fmt / 4 < 3) && decide (w 8 4 < 2 ^ 27) && decide (w 12 4 < 2 ^ 23) && zeroAt b 26 2 &&
     zeroAt b 30 2 then some c else none

/-- A K6-format command widened (R116): FORMAT comes from the carrying op.
DESIGN CHOICE (safe): log entry 43. -/
def parseK6 (b : List Byte) (fn h ctx fmt : Nat) : Option NbuCmd :=
  let w (o n : Nat) := fieldAt b o n
  if decide (3 ≤ w 0 1) && decide (w 0 1 ≤ 9) && decide (w 1 1 < 4) && decide (w 2 2 < 8192) && decide (w 4 4 < 2 ^ 27) &&
     decide (w 8 4 < 2 ^ 23) then
    some ⟨w 0 1, w 1 1, w 2 2 % 512, w 2 2 / 512 % 16, (w 2 2 / 512 % 16, w 2 2 % 512), ctx, fn, fn, h, fmt, w 4 4, w 8 4, 0, 0, w 12 2, w 14 2⟩
  else none

/-- Does a command write the range it names? -/
def nbuWrites (op : Nat) : Bool := op == 4 || op == 6 || op == 8

/-- The T1 address of the range a command names. -/
def NbuCmd.addr (c : NbuCmd) : Nat := pairAddr c.stack c.pair c.row

/-- The bytes of that range. -/
def NbuCmd.bytes (c : NbuCmd) : Nat := 32 * c.len

/-- The checks of R111 and Table 7-3 that do not depend on the format of the record. -/
def cmdValid (s : State) (c : NbuCmd) : Bool :=
  decide (c.row % 32 = 0) && decide (c.operand % 32 = 0) && decide (1 ≤ c.len) && decide (c.len ≤ 4194304) &&
    decide (c.row + 32 * c.len ≤ 2 ^ 27) && pairOwned s c.fn c.addr c.bytes

/-- A command other than MV_SLICE may not reach a bundle region (R298), and none may store into a program image (R83) or into KV pages
other than by KV_APPEND (R91). -/
def cmdBarred (s : State) (c : NbuCmd) : Bool :=
  (c.op != 3 && c.op != 14 && inBundle s c.addr c.bytes) || (nbuWrites c.op && storeBarred s c.addr c.bytes)

/-- A command with one piece of its range given to the NBU that holds it now (R129): its operand, its counts and its γ move with the piece. -/
def NbuCmd.piece (s : State) (c : NbuCmd) (p : Nat × Nat) : NbuCmd :=
  let b := remapAddr s (pairAddr c.stack c.pair p.1)
  let d := p.1 - c.row
  let w := if c.fmt % 4 = 2 then 2 else 4
  let c := { c with stack := stackOf b, pair := pairOf b, row := b % 2 ^ 27, len := p.2 / 32 }
  if c.op = 4 then { c with operand := c.operand + d }
  else if c.op = 5 then { c with arg0 := min (c.arg0 - d / w) (p.2 / w) }
  else if c.op = 6 then { c with arg0 := min (c.arg0 - d / w) (p.2 / w), arg1 := c.arg1 + d / w * 4 }
  else if c.op = 7 then { c with arg0 := c.arg0 + d }
  else c

/-- Is the frame of a byte of a pair remapped? -/
def cutMapped (s : State) (c : NbuCmd) (p : Nat × Nat) : Bool :=
  (Tab.find? ((pairAddr c.stack c.pair p.1 - t1Base) / 65536) s.mm.remap).isSome

/-- Pieces of a range put together where neither is remapped. -/
def joinCuts (s : State) (c : NbuCmd) : List (Nat × Nat) → List (Nat × Nat)
  | [] => []
  | p :: r =>
    match joinCuts s c r with
    | [] => [p]
    | q :: t => if cutMapped s c p || cutMapped s c q then p :: q :: t else (p.1, p.2 + q.2) :: t

/-- The commands that a command is executed as: split where its range crosses from a remapped frame into another (R129). -/
def NbuCmd.placed (s : State) (c : NbuCmd) : List NbuCmd := (joinCuts s c (frameCuts c.row c.bytes)).map (NbuCmd.piece s c)

/-- Who met a sector in a command's work.
DEDUCED (unsafe): log entry 44. -/
def NbuCmd.met (c : NbuCmd) : Met := ⟨c.op, c.cfn, c.ctx, false, c.seq⟩

/-- Bytes of a stack's operand buffer (8 KiB, R110); bytes never broadcast or beyond it are free.
DESIGN CHOICE (safe): log entry 40. -/
def bufRead (s : State) (stack off n : Nat) : List PByte :=
  let b := (s.stack stack).opBuf
  (rangeFrom off n).map (fun i => if i < 8192 then b.getD i (Config.freeByte (s.freeCtr + i), false)
                                  else (Config.freeByte (s.freeCtr + i), false))

/-- A broadcast to a stack's operand buffers, with the activation scale of the chain head.
DESIGN CHOICE (safe): log entry 40. -/
def broadcast (s : State) (stack : Nat) (bs : List PByte) (scale : W32 × Bool) : State :=
  let x := s.stack stack
  s.setStack stack { x with opBuf := bs.take 8192 ++ x.opBuf.drop bs.length, scale := scale }

/-- A stack's chain cleared for a new operation.
DEDUCED (unsafe): log entry 45. -/
def clearChain (s : State) (stack : Nat) : State :=
  s.setStack stack { s.stack stack with rows := [], sumsq := [], parts := [], noScale := false, outBf := false }

/-! Bank-resident weights (R113, R114). -/

/-- A weight segment read: where it starts in the range, output row, first group, values, S8 scales, block scales, whether it poisons its row,
and whether its header is poison, so that the rows of the range are not known from there on. -/
structure Seg where
  off : Nat
  row : Nat
  first : Nat
  vals : List Int
  s8 : List Byte
  blks : List W32
  psn : Bool
  lost : Bool
  deriving DecidableEq, Repr

/-- The elements of W4 or W8 bytes (R23). -/
def wVals (wide : Bool) (bs : List Byte) : List Int :=
  if wide then bs.map (fun b => sInt 8 b.toNat) else bs.flatMap (fun b => [sInt 4 (b.toNat % 16), sInt 4 (b.toNat / 16)])

/-- Weight segments placed back to back in a command's sectors from byte `o`; FORMAT of the command gives width and G. A header whose GROUPS is
out of range, or a segment that runs past the sectors, ends the list; so does a poisoned header. -/
def parseSegs (fmt : Nat) : Nat → Nat → List PByte → List Seg
  | 0, _, _ => []
  | k + 1, o, bs =>
    let h := rawBytes (bs.take 16)
    let groups := fieldAt h 6 2
    let f := fieldAt h 8 1
    let first := fieldAt h 4 2
    let wide := f % 4 == 1
    let g := 32 * 2 ^ (f / 4 % 4)
    let wb := if wide then groups * g else groups * g / 2
    let nblk := (first + groups - 1) / 256 + 1 - first / 256
    let blkAt := alignUp (16 + wb + groups) 4
    let endAt := blkAt + 4 * nblk
    let size := alignUp endAt 32
    if anyPsn (bs.take 16) then [⟨o, 0, 0, [], [], [], true, true⟩]
    else if groups = 0 ∨ 4096 < groups ∨ bs.length < size then []
    else
      let s8 := rawBytes ((bs.drop (16 + wb)).take groups)
      let blks := (chunk 4 ((bs.drop blkAt).take (4 * nblk))).map (fun w => BitVec.ofNat 32 (leNat (rawBytes w)))
      let bad := f % 16 != fmt % 16 || decide (16 ≤ f) || !zeroAt h 9 7 || !zeroAt (rawBytes bs) endAt (size - endAt) ||
        anyPsn (bs.take endAt) || s8.any (fun p => fIsNaN (s8Value p)) || blks.any (fun b => !fFinite b)
      ⟨o, fieldAt h 0 4, first, wVals wide (rawBytes ((bs.drop 16).take wb)), s8, blks, bad, false⟩ :: parseSegs fmt k (o + size) (bs.drop size)

/-- The group size of a FORMAT field. -/
def fmtG (fmt : Nat) : Nat := 32 * 2 ^ (fmt / 4 % 4)

/-- A value added to a row's running value on the chain; where the row has none, it becomes the value (chain_sum, R114). -/
def chainAdd (rows : List (Nat × (W32 × Bool))) (r : Nat) (v : W32 × Bool) : List (Nat × (W32 × Bool)) :=
  match Tab.find? r rows with
  | none => Tab.ins r v rows
  | some a => Tab.ins r (fAdd a.1 v.1, a.2 || v.2) rows

/-- The elements of the activation row that a segment multiplies: first and count. -/
def Seg.span (g : Nat) (x : Seg) : Nat × Nat := (x.first * g, x.s8.length * g)

/-- One NBU's parts, keyed by output row: segments of one row are added in segment order. `act` reads the activation row; `bad` poisons
every row. -/
def nbuParts1 (g base : Nat) (act : Nat → Nat → List PByte) (bad : Bool) (segs : List Seg) : List (Nat × (W32 × Bool)) :=
  (segs.filter (fun x => !x.lost)).foldl (fun t x =>
    let a := act (x.span g).1 (x.span g).2
    chainAdd t (base + x.row) (dotGroups g x.vals (a.map (fun b => sInt 8 b.1.toNat)) x.s8 x.blks (x.first % 256) 0#32, x.psn || bad || anyPsn a)) []

/-- Parts joined to those of a chain, or to an NBU's own. -/
def chainJoin (rows parts : List (Nat × (W32 × Bool))) : List (Nat × (W32 × Bool)) :=
  parts.foldl (fun t p => chainAdd t p.1 p.2) rows

/-- An NBU's parts added to what it gives to its stack's chain. -/
def giveRows (s : State) (stack pair : Nat) (ps : List (Nat × (W32 × Bool))) (noScale outBf : Bool) : State :=
  let x := s.stack stack
  s.setStack stack { x with rows := Tab.ins pair (chainJoin (Tab.get [] pair x.rows) ps) x.rows, noScale := noScale, outBf := outBf }

/-- The rows at a stack's chain head (R114): parts combined in ascending NBU index, then the activation scale applied once unless it is left
out. -/
def headRows (x : StackSt) : List (Nat × (W32 × Bool)) :=
  let t := x.rows.foldl (fun acc p => chainJoin acc p.2) []
  if x.noScale then t else t.map (fun q => (q.1, (fMul q.2.1 x.scale.1, q.2.2 || x.scale.2 || !fFinite x.scale.1)))

/-- The sum of squares at a stack's chain head, in ascending NBU index, with the elements it is of (R114). -/
def headSumsq (x : StackSt) : Option ((W32 × Bool) × Nat) :=
  x.sumsq.foldl (fun acc p => match acc with
    | none => some p.2
    | some a => some ((fAdd a.1.1 p.2.1.1, a.1.2 || p.2.1.2), a.2 + p.2.2)) none

/-- The partials at a stack's chain head, merged in ascending NBU index (R142). -/
def headParts (x : StackSt) : List (Nat × Partial) :=
  x.parts.foldl (fun acc p => p.2.foldl (fun t q => match Tab.find? q.1 t with
    | none => Tab.ins q.1 q.2 t
    | some a => Tab.ins q.1 (mergePart a q.2) t) acc) []

/-- The A8 values of a broadcast activation. -/
def a8Vals (bs : List Byte) : List Int := bs.map (fun b => sInt 8 b.toNat)

/-! Vectors in the banks. -/

/-- A bank vector's elements: FORMAT 2 is BF16, otherwise FP32. -/
def bankElems (fmt : Nat) (bs : List PByte) : List PElem := if fmt % 4 = 2 then elemsBf bs else elemsOf bs

/-- The bytes of a bank vector, poison spread over value groups (R37). -/
def bankBytes (fmt : Nat) (es : List PElem) : List PByte :=
  let ps := spread (es.map (·.2))
  if fmt % 4 = 2 then bytesOf 2 (List.zipWith (fun (e : PElem) p => ((bf16OfF e.1).toNat, p)) es ps)
  else bytesOf 4 (List.zipWith (fun (e : PElem) p => (e.1.toNat, p)) es ps)

/-- nbu_sumsq (R114): 16 lanes, then four pairwise stages. -/
def nbuSumsq (xs : List W32) : W32 :=
  pairStages 4 (laneAcc 16 (fun x acc => fFma x x acc) xs 0 (List.replicate 16 0#32))

/-- The norm factor r (Table 5-3, R112): from a sum of squares, n and eps. -/
def normFactor (ss : W32) (n : Nat) (eps : W32) : W32 := fRsqrt (fAdd (fMul ss (fRecip (fNat n))) eps)

/-- Vector element by element with a constant or an operand vector (R112 ELEMWISE): kind 0 SCALE, 1 ADD, 2 MUL. -/
def elemwise (kind : Nat) (c : W32) (xs zs : List PElem) : List PElem :=
  if kind = 0 then xs.map (fun x => (fMul x.1 c, x.2))
  else List.zipWith (fun (x z : PElem) => (if kind = 1 then fAdd x.1 z.1 else fMul x.1 z.1, x.2 || z.2)) xs zs

/-! What each command does. Every one answers the state and the status it retires with. -/

/-- A command's result written to its sectors: whole sectors, unfenced until a fence covers them (R118); sectors that a lost sector was
read for become poison (R122). -/
def nbuStore (s : State) (c : NbuCmd) (a : Nat) (bs : List PByte) (lost : Bool) : State × Status :=
  let bs := if lost then bs.map (fun b => (b.1, true)) else bs
  let r := nbuWrite s c.fn c.h a bs
  (r.1, psnStatus (r.2 || anyPsn bs))

/-- The NBU, as (stack, pair), that holds the start of a segment (R129). -/
def segPlace (s : State) (c : NbuCmd) (x : Seg) : Nat × Nat :=
  let b := remapAddr s (pairAddr c.stack c.pair (c.row + x.off))
  (stackOf b, pairOf b)

/-- MV_SLICE: parts of every output row to the chains of the NBUs that hold the segments. `act` reads the activation row of a stack's operand
buffers. A sector lost under it poisons every row (R122). -/
def mvSlice (s : State) (c : NbuCmd) (fs : List (Nat × Nat)) (act : Nat → Nat → Nat → List PByte) : State × Status :=
  let s := touchRange (sectorFaults s c.met fs) c.addr c.bytes
  let segs := parseSegs c.fmt c.arg0 0 (pread s c.addr c.bytes)
  let bad := lostIn fs c.addr c.bytes || segs.any (·.lost)
  let places := segs.foldl (fun (l : List (Nat × Nat)) x => if l.contains (segPlace s c x) then l else l ++ [segPlace s c x]) []
  places.foldl (fun (acc : State × Status) u =>
    let ps := nbuParts1 (fmtG c.fmt) c.arg1 (act u.1) bad (segs.filter (fun x => segPlace s c x = u))
    (giveRows acc.1 u.1 u.2 ps (bitAt c.flags 1) (bitAt c.flags 2), acc.2.worse (psnStatus (ps.any (fun p => p.2.2) || bad)))) (s, .ok)

/-- MV_SLICE with the activation slice in the operand buffer, from OPERAND on. -/
def doMvSlice (s : State) (c : NbuCmd) (fs : List (Nat × Nat)) : State × Status :=
  let r := mvSlice s c fs (fun k o n => bufRead s k (c.operand + o) n)
  (r.1.takeFree 8192, r.2)

/-- ELEMWISE, in place.
DESIGN CHOICE (unsafe): log entry 135. -/
def doNbuElemwise (s : State) (c : NbuCmd) (fs : List (Nat × Nat)) : State × Status :=
  let a := c.addr
  let s := touchRange (sectorFaults s c.met fs) a c.bytes
  let xs := bankElems c.fmt (pread s a (32 * c.len))
  let zs := bankElems c.fmt (bufRead s c.stack c.operand (32 * c.len))
  let ys := elemwise (c.arg0 % 4) (BitVec.ofNat 32 c.arg1) xs zs
  nbuStore (if c.arg0 % 4 = 0 then s else s.takeFree (32 * c.len)) c a (bankBytes c.fmt ys) (lostIn fs a (32 * c.len))

/-- SUMSQ: an NBU's own sums are added in order of issue.
DESIGN CHOICE (unsafe): log entry 135. -/
def doSumsq (s : State) (c : NbuCmd) (fs : List (Nat × Nat)) : State × Status :=
  let a := c.addr
  let s := touchRange (sectorFaults s c.met fs) a c.bytes
  let xs := (bankElems c.fmt (pread s a (32 * c.len))).take c.arg0
  let v := nbuSumsq (xs.map (·.1))
  let p := xs.any (·.2) || lostIn fs a (32 * c.len)
  let x := s.stack c.stack
  let t : (W32 × Bool) × Nat := match Tab.find? c.pair x.sumsq with
    | none => ((v, p), xs.length)
    | some w => ((fAdd w.1.1 v, w.1.2 || p), w.2 + xs.length)
  (s.setStack c.stack { x with sumsq := Tab.ins c.pair t x.sumsq }, psnStatus p)

/-- The factor r that NORM_APPLY takes (R112): what the chain head has computed of the summed squares, for the elements summed and an eps that
a bare command list does not give; where no SUMSQ went before, what the operand buffer holds at OPERAND.
DESIGN CHOICE (safe): log entry 138. -/
def normR (s : State) (c : NbuCmd) : W32 × Bool :=
  match headSumsq (s.stack c.stack) with
  | some t => (normFactor t.1.1 t.2 (BitVec.ofNat 32 (Config.freeNat s.freeCtr)), t.1.2)
  | none => let rb := bufRead s c.stack c.operand 4; (BitVec.ofNat 32 (leNat (rawBytes rb)), anyPsn rb)

/-- NORM_APPLY: y_i = (x_i × r) × γ_i, in place; γ lies at ARG1 of the pair in FP32.
DESIGN CHOICE (unsafe): log entry 135. -/
def doNormApply (s : State) (c : NbuCmd) (fs : List (Nat × Nat)) : State × Status :=
  let a := c.addr
  let ga := pairAddr c.home.1 c.home.2 (c.arg1 % 2 ^ 27)
  let n := min c.arg0 (32 * c.len / (if c.fmt % 4 = 2 then 2 else 4))
  if !pairOwned s c.fn ga (4 * n) then (s, .invalid)
  else if inBundle s ga (4 * n) then (s, .protection)
  else
    let s := touchRange (touchRange (sectorFaults s c.met fs) a c.bytes) ga (4 * n)
    let xs := (bankElems c.fmt (pread s a (32 * c.len))).take c.arg0
    let gs := elemsOf (pread s ga (4 * n))
    let r := normR s c
    let ys := List.zipWith (fun (x g : PElem) => (fMul (fMul x.1 r.1) g.1, x.2 || g.2 || r.2)) xs gs
    nbuStore (s.takeFree 8192) c a (bankBytes c.fmt ys) (lostIn fs a (32 * c.len) || lostIn fs ga (4 * n))

/-- LOCAL_COPY to ARG0 of the same pair; where source and destination overlap the bytes written are free.
DESIGN CHOICE (safe): log entry 46. DESIGN CHOICE (unsafe): log entry 135. -/
def doLocalCopy (s : State) (c : NbuCmd) (fs : List (Nat × Nat)) : State × Status :=
  let n := 32 * c.len
  let a := c.addr
  let d := c.arg0 % 2 ^ 27
  let da := pairAddr c.home.1 c.home.2 d
  if d % 32 ≠ 0 ∨ 2 ^ 27 < d + n ∨ !pairOwned s c.fn da n then (s, .invalid)
  else if inBundle s da n || storeBarred s da n then (s, .protection)
  else
    let s := touchRange (sectorFaults s c.met fs) a n
    let laps := decide (da < a + n) && decide (a < da + n)
    let src := if laps then (rangeFrom s.freeCtr n).map (fun i => (Config.freeByte i, false)) else pread s a n
    nbuStore (if laps then s.takeFree n else s) c da src (lostIn fs a n)

/-- FILL with a repeated 32-bit pattern. -/
def doFill (s : State) (c : NbuCmd) : State × Status :=
  let w := leBytes 4 c.arg0
  nbuStore s c c.addr (cleanBytes ((List.range (8 * c.len)).flatMap (fun _ => w))) false

/-- SCRUB: corrected sectors are written back, lost ones become poison, poison is left (R125); a command that writes poison retires with
ST_POISON (R40, R122). -/
def doScrub (s : State) (m : Met) (fs : List (Nat × Nat)) : State × Status :=
  (sectorFaults s m fs, psnStatus (fs.any (fun f => f.2 == 2 && addrClass f.1 == .t1 && !linePsn s (remapAddr s f.1))))

/-- The bytes of a query head and of its bias table in the operand buffer (R138). -/
def headOperand (x : Span) : Nat := (if x.fmt = .bf16 then 2 * x.dim else x.dim + 4) + 128

/-- The query heads of one KV head in the operand buffer from `off` on: A8 values and scale, or BF16, for each head, then each head's bias
table. -/
def bufHeads (s : State) (c : NbuCmd) (x : Span) (off heads : Nat) : List QHead :=
  let hb := headOperand x - 128
  let buf := bufRead s c.stack (c.operand + off) (heads * (hb + 128))
  (List.range heads).map (fun i =>
    let b := (buf.drop (i * hb)).take hb
    let t := (buf.drop (heads * hb + i * 128)).take 128
    let bt := (chunk 2 t).map (fun w => BitVec.ofNat 16 (leNat (rawBytes w)))
    if x.fmt = .bf16 then (⟨[], 0#32, (elemsBf b).map (·.1), anyPsn b, bt, anyPsn t⟩ : QHead)
    else ⟨a8Vals (rawBytes (b.take x.dim)), BitVec.ofNat 32 (leNat (rawBytes (b.drop x.dim))), [], anyPsn b, bt, anyPsn t⟩)

/-- Rows of a span on one bank pair for `kvs` KV heads from q0's on, each with `heads` query heads (R138): head records read, queries and bias
from the operand buffer, which they must fit, partials to the chain. -/
def doAttnSlice (s : State) (c : NbuCmd) (span : Nat) (q0 : AttnReq) (kvs heads : Nat) (fs : List (Nat × Nat)) : State × Status :=
  match spanFor s c.fn span with
  | .error st => (s, st)
  | .ok x =>
    if 8192 < kvs * heads * headOperand x ∨ x.kvHeads < q0.head + kvs then (s, .invalid)
    else
      let s := sectorFaults s c.met fs
      let lost := fs.any (fun f => f.2 == 2)
      let q1 := { q0 with dim := x.dim, limit := min q0.limit (if q0.tent then x.appended else x.horizon), gen := x.gen }
      let u := c.stack * 512 + c.pair
      let ps := (List.range kvs).flatMap (fun j =>
        let q := { q1 with head := q0.head + j, heads := bufHeads s c x (j * heads * headOperand x) heads }
        (nbuParts s x q span [] (pagesRead x q) u).map (fun p => if lost then { p with psn := true } else p))
      let s := (pagesRead x q1).foldl (fun s p => if (s.pte span p.1).st = .t1 ∧ nbuOfPage (s.pte span p.1) = u then touch s span p.1 else s) s
      let st := s.stack c.stack
      let mine := ps.zipIdx.foldl (fun t (p : Partial × Nat) => match Tab.find? p.2 t with
        | none => Tab.ins p.2 p.1 t
        | some a => Tab.ins p.2 (mergePart a p.1) t) (Tab.get [] c.pair st.parts)
      ((s.takeFree 8192).setStack c.stack { st with parts := Tab.ins c.pair mine st.parts }, psnStatus (ps.any (·.psn)))

/-- KV_APPEND: the FP32 row from the operand buffer quantised into the page (R112, R32); the number is its saturations. None while it waits
for a frame. -/
def doNbuAppend (s : State) (c : NbuCmd) (span slot row : Nat) (fs : List (Nat × Nat)) : Option (State × Status × Nat) :=
  match spanFor s c.fn span with
  | .error st => some (s, st, 0)
  | .ok x =>
    let s := sectorFaults s c.met fs
    let es := elemsOf (bufRead s c.stack c.operand (8 * x.kvHeads * x.dim))
    match kvAppendRow (s.takeFree 8192) c.fn span slot row es false c.h with
    | .done t st sat => some (t, st, sat)
    | .wait _ => none

/-! Retirement. -/

/-- An NBU retired (R128, fault 0x0E): entered in the retirement table before it leaves service. -/
def retireNbu (s : State) (k n : Nat) : State :=
  if nbuRetired s k n then s
  else
    let s := { s with flt := { s.flt with retNbus := NSet.add (k * 512 + n) s.flt.retNbus } }
    let s := (s.setFld R.NBU_RETIRED.NBU_MAP (s.fld R.NBU_RETIRED.NBU_MAP k (n / 32) + 2 ^ (n % 32)) k (n / 32)).setFld
      R.NBU_ERR.RETIRE_EVENT 1 k
    let s := syncRetired s
    logModule s { entry0 s 0x0E .ok 0 with flags := 3, unitKind := 2, unit_ := k * 512 + n }

/-- A self-check result (R128): a failure counts in the rolling window and retires at FAIL_LIMIT.
DESIGN CHOICE (safe): log entry 25. -/
def checkNbu (s : State) (k n : Nat) (pass : Bool) : State :=
  if pass then s
  else
    let u := k * 512 + n
    let l := within s.now (Tab.get [] u s.flt.nbuFails) ++ [s.now]
    let s := { s with flt := { s.flt with nbuFails := Tab.put [] u l s.flt.nbuFails } }
    let s := logModule s { entry0 s 0x0D .ok 0 with unitKind := 2, unit_ := u }
    if s.fld R.NBU_SELFCHECK.FAIL_LIMIT ≤ l.length then retireNbu s k n else s

end Sys2Proof.Machine
end

