-- ==== Sys2Proof/Machine/Nbu.lean ====
section
/-! DEFINITION. Near-bank unit commands: the bank step ops, the NBU's own commands, scrub, self-check, retirement of a pseudo-channel,
refresh and the traffic governor (chapter 07). -/

namespace Sys2Proof.Machine

open Sys2Proof

/-! Commands by name. -/

/-- The attention operation an ATTN_SLICE is part of, from its parameters.
DESIGN CHOICE (safe): log entry 39. -/
def sliceReq (fn span slot head : Nat) (sQk posQ posBase posStride window sinks segStart first limit : Nat) (tent : Bool) : AttnReq :=
  { fn := fn, span := span, slot := slot, head := head, heads := [], sQk := BitVec.ofNat 32 sQk, posQ := posQ, posBase := posBase,
    posStride := posStride, window := window, sinks := sinks, segStart := segStart, ranges := [(first, limit)], oBf16 := false, dim := 0,
    epoch := 0, limit := limit, gen := 0, tent := tent, ctx := 0 }

/-- The NBUs whose self-check fails in a command list, among them this command's? -/
def selfPass (fails : List (Nat × Nat)) (c : NbuCmd) : Bool := !fails.contains (c.stack, c.pair)

/-- One NBU command executed in place: the state and the status it retires with. -/
def nbuPiece (s : State) (c : NbuCmd) (fs : List (Nat × Nat)) : State × Status :=
  match c.op with
  | 4 => doNbuElemwise s c fs
  | 5 => doSumsq s c fs
  | 6 => doNormApply s c fs
  | 7 => doLocalCopy s c fs
  | 8 => doFill s c
  | _ => doScrub s c.met fs

/-- An NBU command executed: the state, the status it retires with and its saturations; none while it waits for a frame. A command whose
range lies in remapped frames is executed by the NBUs that hold them (R129). -/
def nbuRun (s : State) (c : NbuCmd) (fs fails : List (Nat × Nat)) : Option (State × Status × Nat) :=
  let arg (i : Nat) := Config.nbuArg i c.arg0 c.arg1
  match c.op with
  | 1 =>
    let q := sliceReq c.fn (arg 0) (arg 1) (arg 4) (arg 6) (arg 7) (arg 8) (arg 9) (arg 10) (arg 11) (arg 12) (arg 2) (arg 3)
      (bitAt c.flags 3)
    let r := doAttnSlice s c (arg 0) q (arg 13 % 2 ^ 16 + 1) (arg 5) fs
    some (r.1, r.2, 0)
  | 2 => doNbuAppend s c (arg 0) (arg 1) (arg 2) fs
  | 3 => let r := doMvSlice s c fs; some (r.1, r.2, 0)
  | 14 => some (checkNbu s c.stack c.pair (selfPass fails c), .ok, 0)
  | _ =>
    let gs := fs.map (fun f => (remapAddr s f.1, f.2))
    let r := (c.placed s).foldl (fun (acc : State × Status) d => let q := nbuPiece acc.1 d gs; (q.1, acc.2.worse q.2)) (s, Status.ok)
    some (r.1, r.2, 0)

/-- Does a command go nowhere: its stack drains, or it names no NBU? -/
def notIssued (s : State) (stack pair : Nat) : Bool := drains s stack || decide (16 ≤ stack) || decide (512 ≤ pair)

/-- A command of its own name executed, if it is valid and its stack does not drain.
DEDUCED (unsafe): log entry 45. -/
def nbuAlone (s : State) (c : NbuCmd) (fs : List (Nat × Nat)) : State :=
  if notIssued s c.stack c.pair || !cmdValid s c || cmdBarred s c then s
  else match nbuRun s c fs [] with
    | some r => r.1
    | none => s

/-- A command issued with its own function and hardware context. -/
def mkCmd (s : State) (op stack pair fn hw fmt row len arg0 arg1 operand seq : Nat) : NbuCmd :=
  { op := op, flags := 0, pair := pair, stack := stack, home := (stack, pair), ctx := hw, cfn := fn, fn := fn, h := handleOfHw s fn hw,
    fmt := fmt, row := row, len := len, arg0 := arg0, arg1 := arg1, operand := operand, seq := seq }

/-- ATTN_SLICE issued for an attention operation of known parameters. -/
def doAttnSliceCmd (stack pair fn hw span slot head kvs heads operand seq : Nat)
    (sQk posQ posBase posStride window sinks segStart first limit : Nat) (tentative fresh : Bool) (faults : List (Nat × Nat)) (s : State) : State :=
  if notIssued s stack pair then s
  else
    let s := if fresh then clearChain s stack else s
    (doAttnSlice s (mkCmd s 1 stack pair fn hw 0 0 0 0 0 operand seq) span
      (sliceReq fn span slot head sQk posQ posBase posStride window sinks segStart first limit tentative) kvs heads faults).1

/-- ATTN_SLICE (R138, R112): the packing of its ARG0 and ARG1 is not given, so the attention operation it belongs to is written out, for
`kvs` KV heads from `head` on with `heads` query heads each; `fresh` begins a new operation on the chain; `faults` are the sectors that
needed correction or were lost (R122). -/
def execAttnSlice (stack pair fn hw span slot head kvs heads operand seq : Nat)
    (sQk posQ posBase posStride window sinks segStart first limit : Nat) (tentative fresh : Bool) (faults : List (Nat × Nat)) (s : State) :
    Host.Outcome State Fault Refusal :=
  act s (doAttnSliceCmd stack pair fn hw span slot head kvs heads operand seq sQk posQ posBase posStride window sinks segStart first limit
    tentative fresh faults s)

/-- Saturations added to a context, or, where a command belongs to none, to its function (R36). -/
def addSats (s : State) (fn h n : Nat) : State :=
  match s.ctx? h with
  | some c => s.setCtx h { c with sat := satTo (2 ^ 32 - 1) (c.sat + n) }
  | none => s.incFld R.FN_SAT_CNT n fn

/-- NBU_KV_APPEND of a row of a span. -/
def doNbuAppendCmd (stack pair fn hw span slot row operand seq : Nat) (faults : List (Nat × Nat)) (s : State) : State :=
  if notIssued s stack pair then s
  else
    let c := mkCmd s 2 stack pair fn hw 0 0 0 0 0 operand seq
    match doNbuAppend s c span slot row faults with
    | some r => addSats r.1 fn c.h r.2.2
    | none => s

/-- NBU_KV_APPEND (R112). -/
def execNbuKvAppend (stack pair fn hw span slot row operand seq : Nat) (faults : List (Nat × Nat)) (s : State) :
    Host.Outcome State Fault Refusal :=
  act s (doNbuAppendCmd stack pair fn hw span slot row operand seq faults s)

/-- MV_SLICE (R113, R114). -/
def execMvSlice (stack pair fn hw format rowAddr length segments rowBase operand seq : Nat) (faults : List (Nat × Nat)) (s : State) :
    Host.Outcome State Fault Refusal :=
  act s (nbuAlone s (mkCmd s 3 stack pair fn hw format rowAddr length segments rowBase operand seq) faults)

/-- ELEMWISE on an NBU (R112): kind 0 SCALE by a constant, 1 ADD, 2 MUL. -/
def execNbuElemwise (stack pair fn hw format rowAddr length kind constant operand seq : Nat) (faults : List (Nat × Nat)) (s : State) :
    Host.Outcome State Fault Refusal :=
  act s (nbuAlone s (mkCmd s 4 stack pair fn hw format rowAddr length kind constant operand seq) faults)

/-- SUMSQ (R114). -/
def execSumsq (stack pair fn hw format rowAddr length count seq : Nat) (faults : List (Nat × Nat)) (s : State) :
    Host.Outcome State Fault Refusal :=
  act s (nbuAlone s (mkCmd s 5 stack pair fn hw format rowAddr length count 0 0 seq) faults)

/-- NORM_APPLY (R112). -/
def execNormApply (stack pair fn hw format rowAddr length count gamma operand seq : Nat) (faults : List (Nat × Nat)) (s : State) :
    Host.Outcome State Fault Refusal :=
  act s (nbuAlone s (mkCmd s 6 stack pair fn hw format rowAddr length count gamma operand seq) faults)

/-- LOCAL_COPY (R112). -/
def execLocalCopy (stack pair fn hw rowAddr length destination seq : Nat) (faults : List (Nat × Nat)) (s : State) :
    Host.Outcome State Fault Refusal :=
  act s (nbuAlone s (mkCmd s 7 stack pair fn hw 0 rowAddr length destination 0 0 seq) faults)

/-- FILL (R112). -/
def execFill (stack pair fn hw rowAddr length pattern seq : Nat) (s : State) : Host.Outcome State Fault Refusal :=
  act s (nbuAlone s (mkCmd s 8 stack pair fn hw 0 rowAddr length pattern 0 0 seq) [])

/-- SCRUB, a stride of patrol scrub (R125): module-owned work (R371). `faults` are the sectors it found correctable or lost, on stacks that
take commands. -/
def execScrub (faults : List (Nat × Nat)) (time : Nat) (s : State) : Host.Outcome State Fault Refusal :=
  act s (doScrub (atTime s time) ⟨9, 0, 0, true, 0⟩ (faults.filter (fun f => !drains s (stackOf (remapAddr s f.1))))).1

/-! Step ops. -/

/-- Consecutive keys gathered into runs. -/
def runsOf {V : Type} : List (Nat × V) → List (Nat × List V)
  | [] => []
  | p :: r =>
    match runsOf r with
    | [] => [(p.1, [p.2])]
    | q :: t => if q.1 = p.1 + 1 then (p.1, p.2 :: q.2) :: t else (p.1, [p.2]) :: q :: t

/-- The commands of a BANK_CMDS list, each none where its record is not valid.
DESIGN CHOICE (safe): log entry 43. -/
def parseCmds (s : State) (k : OpCtx) (k6 : Bool) (bs : List Byte) : List (Option NbuCmd) :=
  (chunk (if k6 then 16 else 32) bs).map (fun b =>
    let c := if k6 then parseK6 b k.c.fn k.h k.c.hw (Config.freeNat s.freeCtr % 12) else parseNative b k.c.fn k.h
    match c with
    | some c => if cmdValid s c && !(k6 && !s.flag R.NBU_STACK_CTL.MODE c.stack) then some c else none
    | none => none)

/-- Is a sector error one that this command meets: of its opcode, and on its pair, in its range, or in its γ? -/
def NbuCmd.meets (c : NbuCmd) (f : Nat × Nat × Nat) : Bool :=
  f.2.2 == c.op &&
  (if c.op = 1 ∨ c.op = 2 then stackOf f.1 == c.stack && pairOf f.1 == c.pair
   else (decide (c.addr ≤ f.1) && decide (f.1 < c.addr + c.bytes)) ||
     (c.op == 6 && decide (pairAddr c.stack c.pair (c.arg1 % 2 ^ 27) / 32 ≤ f.1 / 32) &&
       decide (f.1 < pairAddr c.stack c.pair (c.arg1 % 2 ^ 27) + 4 * c.arg0)))

/-- Commands of a list executed in order: the valid ones run even where others are not (R111). Each meets its own sector errors once. None
while one of them waits for a frame. -/
def runCmds (fails : List (Nat × Nat)) : List (Nat × Nat × Nat) → List (Option NbuCmd) → State × Status × Nat → Option (State × Status × Nat)
  | _, [], r => some r
  | fs, none :: l, r => runCmds fails fs l (r.1, r.2.1.worse .invalid, r.2.2)
  | fs, some c :: l, r =>
    if cmdBarred r.1 c then runCmds fails fs l (r.1, r.2.1.worse .protection, r.2.2)
    else
    match nbuRun r.1 c ((fs.filter c.meets).map (fun f => (f.1, f.2.1))) fails with
    | some q => runCmds fails (fs.filter (fun f => !c.meets f)) l (q.1, r.2.1.worse q.2.1, r.2.2 + q.2.2)
    | none => none

/-- The stacks a mask names. -/
def maskStacks (m : Nat) : List Nat := (List.range 16).filter (fun j => bitAt m j)

/-- The pages that the KV_APPEND commands of a list write (R98). -/
def appendKeys (s : State) (cs : List (Option NbuCmd)) : List Nat :=
  cs.filterMap (fun c => match c with
    | some c =>
      if c.op = 2 then
        let n := Config.nbuArg 0 c.arg0 c.arg1
        (s.span? n).map (fun x => pageKey n (x.rowAt (Config.nbuArg 1 c.arg0 c.arg1) (Config.nbuArg 2 c.arg0 c.arg1)).1)
      else none
    | none => none)

/-- The BANK_CMDS op. It waits while a stack that it or one of its commands names takes no commands; `t1` are the sector errors its commands
meet, `fails` the NBUs whose self-check fails.
DEDUCED (unsafe): log entry 44. -/
def bankCmdsOp (t1 : List (Nat × Nat × Nat)) (fails : List (Nat × Nat)) (k : OpCtx) (s0 : State) : OpOut :=
  let k6 := k.o.varBit 0
  let n := k.o.arg0 * (if k6 then 16 else 32)
  match operand s0 k k.o.src0 k.anyTile 0 n false with
  | none => .done s0 .protection 0
  | some a =>
    let r := locRead s0 k.h a n
    if anyPsn r.1 then .done r.2 .poison 0
    else
      let cs := parseCmds s0 k k6 (rawBytes r.1)
      if maskDrains s0 k.o.unit_ || (cs.filterMap id).any (fun c => drains s0 c.stack) then .wait s0
      else
        let s := (maskStacks k.o.unit_).foldl clearChain r.2
        match runCmds fails t1 cs (if k6 then s.takeFree else s, .ok, 0) with
        | some t => .done (endWait t.1 (.ctx k.h)) t.2.1 t.2.2
        | none => .wait (waitFrame s0 (.ctx k.h) false (appendKeys s0 cs))

/-- The controller's own errors of an op that expands into NBU commands: those that a command meets are met by it. -/
def ctlErrs (e : Errs) : Errs := { e with t1 := e.t1.filter (fun f => f.2.2 == 0) }

/-- BANK_CMDS (R111, R116): sector errors with an opcode are those its commands meet; `fails` are the NBUs, as (stack, pair), whose SELF_CHECK
fails. -/
def execBankCmds (handle : Nat) (errs : Errs) (fails : List (Nat × Nat)) (s : State) : Host.Outcome State Fault Refusal :=
  act s (runOp s handle (fun o => o.opcode == 0x03) (withErrs (ctlErrs errs) (bankCmdsOp (errs.t1.filter (fun f => f.2.2 != 0)) fails)))

/-- NBU_FENCE (R119): every command has retired when the next is taken, so the fence has only read-buffer lines left to invalidate. -/
def execNbuFence (handle : Nat) (s : State) : Host.Outcome State Fault Refusal :=
  act s (runOp s handle (fun o => o.opcode == 0x04) (fun k s => .done (fenceSectors s (fun u => u.1 == k.c.fn && u.2 == k.h)) .ok 0))

/-- A weight set's entry: stack, bank pair, FORMAT, ROW_ADDR, sectors, segments, output-row base. The layout of a bank weight set is not
given, so its entries are the command's.
DESIGN CHOICE (unsafe in part): log entry 47. -/
def wsetCmd (s : State) (k : OpCtx) (e : List Nat) : Option NbuCmd :=
  match e with
  | [stack, pair, fmt, row, len, segs, base] =>
    let c : NbuCmd :=
      { op := 3, flags := bit (k.o.varBit 0) * 2 + bit (k.o.varBit 1) * 4 + 1, pair := pair, stack := stack, home := (stack, pair), ctx := k.c.hw
        cfn := k.c.fn, fn := k.c.fn, h := k.h, fmt := fmt, row := row, len := len, arg0 := segs, arg1 := base, operand := 0, seq := k.idx }
    if stack < 16 ∧ pair < 512 ∧ cmdValid s c ∧ bitAt k.o.unit_ stack then some c else none
  | _ => none

/-- Does the bank weight set of SRC1 hold an entry of 16 bytes for each of the op's stacks (R179, kind 5)? -/
def wsetFits (k : OpCtx) : Bool :=
  match k.p.bufs[k.o.src1]? with
  | some b => b.kind == 5 && decide (k.iterOff b + 16 * maskCount 16 k.o.unit_ ≤ b.size)
  | none => false

/-- Rows written from a base element, runs of rows at a time, poison spread over value groups. -/
def storeRows (s : State) (k : OpCtx) (bf : Bool) (base : Nat) (rows : List (Nat × (W32 × Bool))) : Option (State × Status) :=
  let w := if bf then 2 else 4
  let bad := (rows.filter (fun p => p.2.2)).map (fun p => p.1 / 32)
  (runsOf rows).foldl (fun acc run =>
    match acc with
    | none => none
    | some (s, st) =>
      let bs := bytesOf w (run.2.zipIdx.map (fun p =>
        ((if bf then (bf16OfF p.1.1).toNat else p.1.1.toNat), bad.contains ((run.1 + p.2) / 32))))
      match operand s k k.o.dst k.anyTile ((base + run.1) * w) bs.length true with
      | none => none
      | some l => let r := chainStore s k l bs; some (r.1, st.worse (psnStatus (r.2 || anyPsn bs)))) (some (s, .ok))

/-- The commands of a weight set run: parts to the chains. `act` is the activation row. -/
def runSlices (fs : List (Nat × Nat × Nat)) (row : List PByte) (cs : List NbuCmd) (s : State) : State :=
  (cs.foldl (fun (acc : State × List (Nat × Nat × Nat)) c =>
    ((mvSlice acc.1 c ((acc.2.filter c.meets).map (fun f => (f.1, f.2.1))) (fun _ o n => (row.drop o).take n ++ List.replicate (n - (row.length - o)) (0#8, false))).1,
      acc.2.filter (fun f => !c.meets f))) (s, fs)).1

/-- The MV_BANK op: the activation row is as long as the weights ask for, its scale at the next 4-byte boundary. With NO_ASCALE and more
than one stack the stacks' results stand one after another, ready for SUM_PARTS (R114, R71).
DESIGN CHOICE (unsafe in part): log entry 47. -/
def mvBankOp (wset : List (List Nat)) (fs : List (Nat × Nat × Nat)) (k : OpCtx) (s : State) : OpOut :=
  let cs := wset.map (wsetCmd s k)
  let good := cs.filterMap id
  let kLen := (good.map (fun c => ((parseSegs c.fmt c.arg0 0 (pread s c.addr c.bytes)).map
    (fun x => (x.span (fmtG c.fmt)).1 + (x.span (fmtG c.fmt)).2)).foldl max 0)).foldl max 0
  let n := alignUp kLen 4 + 4
  if maskDrains s k.o.unit_ then .wait s
  else if !wsetFits k then .done s .protection 0
  else
    match operand s k k.o.src0 k.anyTile 0 n false with
    | none => .done s .protection 0
    | some a =>
      let r := locRead s k.h a n
      let row := r.1.take kLen
      let sc : W32 × Bool := (BitVec.ofNat 32 (leNat (rawBytes (r.1.drop (n - 4)))), anyPsn (r.1.drop (n - 4)))
      let stks := maskStacks k.o.unit_
      let s := stks.foldl (fun s j => broadcast (clearChain s j) j row sc) r.2
      let s := runSlices fs row good s
      let all := stks.map (fun j => headRows { s.stack j with noScale := k.o.varBit 0 })
      let size := (all.map (fun t => (t.map (fun p => p.1 + 1)).foldl max 0)).foldl max 0
      let out := all.zipIdx.foldl (fun acc (p : List (Nat × (W32 × Bool)) × Nat) =>
        match acc with
        | none => none
        | some (t, st) =>
          match storeRows t k (k.o.varBit 1) (if k.o.varBit 0 && decide (1 < all.length) then p.2 * size else 0) p.1 with
          | none => none
          | some q => some (q.1, st.worse q.2)) (some (s, Status.ok))
      match out with
      | none => .done s .protection 0
      | some q => .done q.1 (if cs.any (·.isNone) then .invalid else q.2) 0

/-- MV_BANK (R114): `wset` holds the entries of the bank weight set SRC1 names; sector errors of opcode 3 are those its NBUs meet. -/
def execMvBank (handle : Nat) (wset : List (List Nat)) (errs : Errs) (s : State) : Host.Outcome State Fault Refusal :=
  act s (runOp s handle (fun o => o.opcode == 0x02) (withErrs (ctlErrs errs) (mvBankOp wset (errs.t1.filter (fun f => f.2.2 == 3)))))

/-- A range of the bank vector of an ELEMWISE_BANK op in which its NBUs lose a sector: poison (R122). -/
def lossy (fs : List (Nat × Nat)) (l : Loc) (bs : List PByte) : List PByte :=
  match l with
  | .mem a => if lostIn fs a bs.length then bs.map (fun b => (b.1, true)) else bs
  | .area _ => bs

/-- An ELEMWISE_BANK op: the vector in the banks is changed in place; `bf` and `bz` say whether it and SRC1 are BF16; `fs` are the sector
errors its NBUs meet. -/
def elemBankOp (kind : Nat) (bf bz : Bool) (fs : List (Nat × Nat × Nat)) (k : OpCtx) (s : State) : OpOut :=
  if maskDrains s k.o.unit_ then .wait s
  else
    match operand s k k.o.src0 k.anyTile 0 (vecBytes bf k.o.arg1) true with
    | none => .done s .protection 0
    | some a =>
      let src := if kind = 0 then some (Loc.mem 0) else operand s k k.o.src1 k.anyTile 0 (vecBytes bz k.o.arg1) false
      match src with
      | none => .done s .protection 0
      | some b =>
        let gs := fs.map (fun f => (f.1, f.2.1))
        let s := sectorFaults s ⟨4, k.c.fn, k.c.hw, false, k.idx⟩ gs
        let x := locRead s k.h a (vecBytes bf k.o.arg1)
        let z := if kind = 0 then ([], x.2) else locRead x.2 k.h b (vecBytes bz k.o.arg1)
        let s := if kind = 0 then z.2 else
          (List.range 16).foldl (fun s j => if bitAt k.o.unit_ j then broadcast s j z.1 (s.stack j).scale else s) z.2
        let fmt := if bf then 2 else 3
        let ys := elemwise kind (BitVec.ofNat 32 k.o.arg0) (bankElems fmt x.1) (vecElems bz z.1)
        let out := lossy gs a (bankBytes fmt ys)
        let r := chainStore s k a out
        .done r.1 (psnStatus (r.2 || anyPsn out)) 0

/-- An ELEMWISE_BANK op with its errors. -/
def elemBank (kind : Nat) (bf bz : Bool) (errs : Errs) : OpCtx → State → OpOut :=
  withErrs (ctlErrs errs) (elemBankOp kind bf bz (errs.t1.filter (fun f => f.2.2 == 4)))

/-- ELEMWISE_BANK of kind SCALE (R112). -/
def execElemwiseBankScale (handle : Nat) (bf : Bool) (errs : Errs) (s : State) : Host.Outcome State Fault Refusal :=
  act s (runOp s handle (fun o => o.opcode == 0x0A && o.var == 0) (elemBank 0 bf false errs))

/-- ELEMWISE_BANK of kind ADD (R112). -/
def execElemwiseBankAdd (handle : Nat) (bf bz : Bool) (errs : Errs) (s : State) : Host.Outcome State Fault Refusal :=
  act s (runOp s handle (fun o => o.opcode == 0x0A && o.var == 1) (elemBank 1 bf bz errs))

/-- ELEMWISE_BANK of kind MUL (R112). -/
def execElemwiseBankMul (handle : Nat) (bf bz : Bool) (errs : Errs) (s : State) : Host.Outcome State Fault Refusal :=
  act s (runOp s handle (fun o => o.opcode == 0x0A && o.var == 2) (elemBank 2 bf bz errs))

/-! Self-check and retirement. -/

/-- SELF_CHECK (R128): the NBU and whether it passed. -/
def execSelfCheck (stack nbu : Nat) (pass : Bool) (time : Nat) (s : State) : Host.Outcome State Fault Refusal :=
  act s (if 16 ≤ stack ∨ 512 ≤ nbu then s else checkNbu (atTime s time) stack nbu pass)

/-- A frame's contents moved to a free frame with its use. -/
def moveFrame (s : State) (a b : Nat) (u : FrameUse) : State :=
  let img := (s.mm.mem.filter (fun p => frameAddr a ≤ p.1 ∧ p.1 < frameAddr a + 65536)).map (fun p => (p.1 - frameAddr a, p.2))
  let psn := (s.mm.psn.filter (fun l => frameAddr a / 32 ≤ l ∧ l < frameAddr a / 32 + 2048)).map (fun l => l - frameAddr a / 32)
  dropFrame (scrubRange (layPage (useFrame s b u) b img psn) (frameAddr a) 65536) a

/-- The frame of a fixed region that a physical frame holds: its own where it has not moved, or the one whose contents moved there (R129). -/
def regionFrameOf (s : State) (a : Nat) : Option Nat :=
  match s.mm.remap.find? (fun p => p.2 == a) with
  | some p => some p.1
  | none => if frameInRegion s a && (Tab.find? a s.mm.remap).isNone then some a else none

/-- One frame of a retiring pseudo-channel evacuated: KV pages by their entries, fixed regions by the remap table (R129). -/
def evacuateFrame (s : State) (a : Nat) : State :=
  let b? := (placeFrame s 8192 (a / 2 ^ 20 + a / 2 ^ 11 % 512 * 16) false).map (·.1)
  match b? with
  | none => s
  | some b =>
    match Tab.find? a s.mm.frames with
    | some (.page f sp p) =>
      let s := moveFrame s a b (.page f sp p)
      s.setPte sp p { s.pte sp p with frame := b }
    | some .pageTable =>
      let s := moveFrame s a b .pageTable
      { s with pg := { s.pg with tables := s.pg.tables.map (fun t => if t.2 = a then (t.1, b) else t) } }
    | some (.lent h) =>
      let s := moveFrame s a b (.lent h)
      { s with pg := { s.pg with lent := Tab.upd h (fun l => { l with at_ := b }) s.pg.lent } }
    | some _ => s
    | none =>
      if (regionFrameOf s a).isSome then
        let o := (regionFrameOf s a).getD a
        let s := moveFrame s a b .pageTable
        { s with mm := { s.mm with frames := Tab.del a (Tab.del b s.mm.frames), remap := Tab.ins o b s.mm.remap } }
      else s

/-- The frames of a pseudo-channel in use: listed frames, and those that hold fixed regions, where they lie or by the remap table. -/
def pcFrames (s : State) (pc : Nat) : List Nat :=
  let used := (s.mm.frames.filter (fun p => framePc p.1 = pc ∧ p.2 ≠ .scrub)).map (·.1)
  let reg := s.mm.regions.flatMap (fun r => (rangeFrom ((r.base - t1Base) / 65536) r.framesOf).filter (fun a => framePc a = pc))
  used ++ reg.filter (fun a => (Tab.find? a s.mm.remap).isNone) ++ (s.mm.remap.map (·.2)).filter (fun b => framePc b = pc)

/-- Distinct rows of a pseudo-channel that failed in the last 24 hours. -/
def pcRowCount (s : State) (pc : Nat) : Nat :=
  ((Tab.get [] pc s.flt.pcRows).filter (fun r => s.now < r.2 + dayNs)).length

/-- PSEUDO_CHANNEL_RETIRE. -/
def doPcRetire (pc t : Nat) (s : State) : State :=
  let s := atTime s t
  let k := pc / 32
  if 512 ≤ pc ∨ bitAt (s.fld R.NBU_PC_STAT.PC_RETIRED k) (pc % 32) ∨
     (!NSet.has pc s.flt.retPcs ∧ pcRowCount s pc < s.fld R.NBU_SELFCHECK.PC_UE_LIMIT) then s
  else
    let s := { s with flt := { s.flt with retPcs := NSet.add pc s.flt.retPcs } }
    let s := (pcFrames s pc).foldl evacuateFrame s
    if (pcFrames s pc).isEmpty then
      let s := (s.setFld R.NBU_PC_STAT.PC_RETIRED (s.fld R.NBU_PC_STAT.PC_RETIRED k + 2 ^ (pc % 32)) k).setFld R.NBU_ERR.RETIRE_EVENT 1 k
      let s := syncRetired s
      logModule s { entry0 s 0x0F .ok 0 with flags := 3, unitKind := 3, unit_ := pc }
    else s

/-- PSEUDO_CHANNEL_RETIRE (R129): pseudo-channel stack × 32 + pc. Frames that find no room stay until the command comes again. -/
def execPseudoChannelRetire (pc time : Nat) (s : State) : Host.Outcome State Fault Refusal := act s (doPcRetire pc time s)

/-- Failure counts brought to the present window. -/
def expireWindows (s : State) : State :=
  let tf := (s.flt.tileFails.map (fun p => (p.1, within s.now p.2))).filter (fun p => !p.2.isEmpty)
  let nf := (s.flt.nbuFails.map (fun p => (p.1, within s.now p.2))).filter (fun p => !p.2.isEmpty)
  let keep (l : List (Nat × List (Nat × Nat))) :=
    (l.map (fun p => (p.1, p.2.filter (fun r => s.now < r.2 + dayNs)))).filter (fun p => !p.2.isEmpty)
  let old := s.flt.tileFails
  let s := { s with flt := { s.flt with tileFails := tf, nbuFails := nf, pcRows := keep s.flt.pcRows, t2Lines := keep s.flt.t2Lines } }
  old.foldl (fun s p => s.setFld R.TILE_STAT.FAIL_COUNT (min 3 (Tab.get [] p.1 tf).length) p.1) s

/-- FAILURE_WINDOW_EXPIRY (R128, R129, R80): events older than 24 hours leave their windows. -/
def execFailureWindowExpiry (time : Nat) (s : State) : Host.Outcome State Fault Refusal := act s (expireWindows (atTime s time))

/-! Refresh and the governor. -/

/-- REFRESH_DUE.
DESIGN CHOICE (unsafe): log entry 18. -/
def doRefreshDue (stack pair mode : Nat) (s : State) : State :=
  let u := stack * 512 + pair
  let n := Tab.get 0 u s.nbu.postponed
  let put (v : Nat) : State := { s with nbu := { s.nbu with postponed := Tab.put 0 u v s.nbu.postponed } }
  if 16 ≤ stack ∨ 512 ≤ pair then s
  else if mode = 0 then
    if n < s.fld R.NBU_REF_CTL.POSTPONE_MAX stack then put (n + 1)
    else { s with nbu := { s.nbu with suspensions := Tab.put 0 u (satTo (2 ^ 32 - 1) (Tab.get 0 u s.nbu.suspensions + 1)) s.nbu.suspensions } }
  else put (n - 1)

/-- REFRESH_DUE (R124, Table 7-7): mode 0 a refresh falls due while a stride runs; 1 the controller issues one between two strides;
2 one is issued while the governor holds the stride's accesses. -/
def execRefreshDue (stack pair mode : Nat) (s : State) : Host.Outcome State Fault Refusal := act s (doRefreshDue stack pair mode s)

/-- Units per sector of a class (R126). -/
def govCost (ext : Bool) : Nat := if ext then 41 else 12

/-- A class's floor in units (R127). -/
def govFloor (s : State) (stack allow : Nat) (ext : Bool) : Nat :=
  allow * (if ext then s.fld R.NBU_GOV_FLOOR.EXT_FLOOR stack else s.fld R.NBU_GOV_FLOOR.INT_FLOOR stack) / 64

/-- Units that transfers of a class ask for. -/
def govDemand (ext : Bool) (l : List (Bool × Nat)) : Nat := ((l.filter (fun p => p.1 == ext)).map (fun p => p.2 * govCost ext)).sum

/-- Admission in one window (R127), oldest first: `sp` is what the classes have spent (external, internal), `fl` what is held for each, its
floor or what it asks for if that is less, `bl` whether the next transfer of each must wait for the next window. Answers what was spent and
what stays held. A transfer takes what the other class's unspent floor leaves.
DESIGN CHOICE (unsafe in part): log entry 122. -/
def govAdmit (allow : Nat) (fl : Nat × Nat) : List (Bool × Nat) → Nat × Nat → Bool × Bool → List (Bool × Nat) → Nat × Nat × List (Bool × Nat)
  | [], sp, _, held => (sp.1, sp.2, held)
  | (c, n) :: r, sp, bl, held =>
    let keep := if c then fl.2 - sp.2 else fl.1 - sp.1
    let k := if (if c then bl.1 else bl.2) then 0 else min n ((allow - (sp.1 + sp.2) - keep) / govCost c)
    let sp := if c then (sp.1 + k * 41, sp.2) else (sp.1, sp.2 + k * 12)
    let bl := if k < n then (if c then (true, bl.2) else (bl.1, true)) else bl
    govAdmit allow fl r sp bl (if k < n then held ++ [(c, n - k)] else held)

/-- The admissions of a window: the transfers that wait, oldest first. -/
def govWindow (allow fE fI : Nat) (l : List (Bool × Nat)) : Nat × Nat × List (Bool × Nat) :=
  govAdmit allow (min fE (govDemand true l), min fI (govDemand false l)) l (0, 0) (false, false) []

/-- GOVERNOR_WINDOW: a window's admissions are made from the held transfers and those that arrive in it.
DESIGN CHOICE (unsafe in part): log entry 122. -/
def doGovernorWindow (stack allow : Nat) (arrivals : List (Bool × Nat)) (s : State) : State :=
  if 16 ≤ stack then s
  else
    let x := s.stack stack
    let r := govWindow allow (govFloor s stack allow true) (govFloor s stack allow false) (x.held ++ arrivals)
    let s := ((s.setStack stack { x with held := r.2.2 }).setFld R.NBU_GOV_LAST.EXT_SECTORS (r.1 / 41) stack).setFld
      R.NBU_GOV_LAST.INT_SECTORS (r.2.1 / 12) stack
    if r.2.2.isEmpty then s else s.incFld R.NBU_GOV_STAT.HELD_WINDOWS 1 stack

end Sys2Proof.Machine
end

