-- ==== Sys2Proof/Machine/TileOps.lean ====
section
/-! DEFINITION. Tile streams, expanders and the matrix engine (R67 to R77, R51, R54 to R58). -/

namespace Sys2Proof.Machine

open Sys2Proof

/-- A tile tensor descriptor (Table 5-2). -/
structure TensorDesc where
  id : Nat
  rows : Nat
  cols : Nat
  fmt : Nat
  g : Nat
  tid : Nat
  tgen : Nat
  batts : Nat
  battBase : Nat
  scaleBase : Nat
  scaleRow : Nat
  deriving DecidableEq, Repr

/-- A descriptor read: none where its CRC, a reserved byte, FORMAT or GROUP is wrong (R67). -/
def parseDesc (b : List Byte) : Option TensorDesc :=
  let f (o n : Nat) := fieldAt b o n
  let fmt := f 12 1
  let grp := f 13 1
  if crc16 (b.take 62) == f 62 2 && zeroAt b 18 2 && zeroAt b 48 14 && decide (fmt < 3) && decide (grp < 3) &&
     (fmt != 2 || grp == 0) && zeroAt b 30 2 && zeroAt b 38 2 then
    some ⟨f 0 4, f 4 4, f 8 4, fmt, 32 * 2 ^ grp, f 14 2, f 16 2, f 20 4, f 24 6, f 32 6, f 44 4⟩
  else none

/-- Symbols of the tensor (R68). -/
def TensorDesc.symbols (d : TensorDesc) : Nat := d.rows * d.cols * (if d.fmt = 2 then 2 else 1)

/-- Are its symbols 8 bits wide? -/
def TensorDesc.wide (d : TensorDesc) : Bool := d.fmt != 0

/-- Bytes with poisoned ones read as zero. -/
def clearPsn (bs : List PByte) : List Byte := bs.map (fun b => if b.2 then 0#8 else b.1)

/-! Where a tile tensor lies (R79): in T1 its bytes run over the four stacks of a die, 4 KiB on each in turn, at the same place in every
stack. -/

/-- The local address of the byte j after a local address of a tile tensor.
DEDUCED (unsafe): log entry 140. -/
def tensorAddr (a j : Nat) : Nat :=
  if addrClass a ≠ .t1 then a + j
  else
    let k := stackOf a
    let o := (a - t1Base) % 2 ^ 36
    let l := (o / 4096 * 4 + k % 4) * 4096 + o % 4096 + j
    t1Base + (k / 4 * 4 + l / 4096 % 4) * 2 ^ 36 + l / 16384 * 4096 + l % 4096

/-- The bytes of a tile tensor from a local address on, as runs (address, bytes) that lie together; `k` bounds the runs. -/
def tensorCutsGo : Nat → Nat → Nat → List (Nat × Nat)
  | 0, _, _ => []
  | k + 1, a, n => if n = 0 then [] else let m := min n (4096 - a % 4096); (a, m) :: tensorCutsGo k (tensorAddr a m) (n - m)

/-- The runs of n bytes of a tile tensor. -/
def tensorCuts (a n : Nat) : List (Nat × Nat) := tensorCutsGo (n / 4096 + 2) a n

/-- Bytes of a tile tensor read. -/
def tread (s : State) (a n : Nat) : List PByte := (tensorCuts a n).flatMap (fun c => pread s c.1 c.2)

/-- Bytes of a tile tensor written. -/
def twrite (s : State) (a : Nat) (bs : List PByte) : State :=
  ((tensorCuts a bs.length).foldl (fun (acc : State × List PByte) c => (pwrite' acc.1 c.1 (acc.2.take c.2), acc.2.drop c.2)) (s, bs)).1

/-- Bytes read by the streaming engine: external traffic of the stacks that hold them (R79). -/
def streamTraffic (s : State) (a n : Nat) : State := (tensorCuts a n).foldl (fun s c => extTraffic s c.1 c.2) s

/-- The address and size of batt i, the batts lying back to back. -/
def battSpan (s : State) (base : Nat) : Nat → Nat × Nat
  | 0 => (base, (parseHeader (clearPsn (tread s base 32))).size)
  | i + 1 => let p := battSpan s base i; let a := tensorAddr p.1 p.2; (a, (parseHeader (clearPsn (tread s a 32))).size)

/-- A descriptor at an address of a function's loaded bundle (R297). -/
def descAt (s : State) (fn a : Nat) : Option TensorDesc :=
  match regionAt s a 64 with
  | some r => if r.kind = .bundle ∧ r.fn = fn then parseDesc (clearPsn (pread s a 64)) else none
  | none => none

/-- Bytes of a tensor's scale records, and of all its batts. -/
def TensorDesc.scaleBytes (d : TensorDesc) : Nat := if d.fmt = 2 then 0 else d.rows * d.scaleRow

/-- Sizes of the batts. -/
def battSizes (s : State) (d : TensorDesc) : List Nat := (List.range d.batts).map (fun i => (battSpan s d.battBase i).2)

/-- Is a stream one of a function's tensor, by descriptor address and TABLE_GEN (R76)? -/
def sameTensor (x : StreamSt) (fn a : Nat) (d : TensorDesc) : Bool := x.desc == a && x.tgen == d.tgen && x.fn == fn

/-- May a tensor be read from T2 into buffer b of tile t: a stream that has started keeps the T2_ALLOW it started with (R78). -/
def t2Allowed (s : State) (t b fn a : Nat) (d : TensorDesc) : Bool :=
  match stream? s (bufKey t b) with
  | some x => if sameTensor x fn a d then x.t2 else s.flag R.TILE_STREAM.T2_ALLOW (bindTile s t)
  | none => s.flag R.TILE_STREAM.T2_ALLOW (bindTile s t)

/-- May the tensor stream into a buffer of a tile (R75, R79)? `allow` says whether it may be read from T2. -/
def streamOk (s : State) (t b : Nat) (allow : Bool) (d : TensorDesc) : Bool :=
  let n := bufBytes s t
  decide (s.fld R.TILE_WIN.WIN_SIZE t ≠ 0) && decide (b < bufCount s t) && decide (4 * d.scaleBytes ≤ n) &&
    decide (d.scaleBytes + 2 * (battSizes s d).foldl max 0 ≤ n) &&
    (allow || (addrClass d.battBase != .t2 && addrClass d.scaleBase != .t2))

/-- Does the whole tensor fit in the buffer (R75)? -/
def resident? (s : State) (t : Nat) (d : TensorDesc) : Bool := decide (d.scaleBytes + (battSizes s d).foldl (· + ·) 0 ≤ bufBytes s t)

/-- A stream ended or abandoned. -/
def endStream (s : State) (k : Nat) : State := { s with tl := { s.tl with streams := Tab.del k s.tl.streams } }

/-! Expander slots (R51). -/

/-- The slots of a tile, least recently used first. -/
def slotsOf (s : State) (t : Nat) : List SlotEnt := Tab.get [] t s.tl.slots

/-- The slots of a tile written; SLOT_VALID follows. -/
def setSlots (s : State) (t : Nat) (l : List SlotEnt) : State :=
  { s with tl := { s.tl with slots := Tab.put [] t l s.tl.slots } }.setFld R.EXP_STAT.SLOT_VALID
    ((l.map (fun (e : SlotEnt) => 2 ^ e.slot)).foldl (· + ·) 0) t

/-- A table of a function's models by TABLE_ID and TABLE_GEN. -/
def tableOf (s : State) (fn id gen : Nat) : Option CodeTable :=
  match s.tl.dir.find? (fun e => e.fn == fn && e.id == id && e.gen == gen) with
  | some e => parseTable (clearPsn (pread s e.addr 320))
  | none => none

/-- The batts in fill or decode on a tile's expander, at most two (R51): the next ones of the streams that ops consume there, each with
the function and the table it needs. -/
def battsInFlight (s : State) (t : Nat) : List (Nat × BattHeader) :=
  ((s.tl.streams.filter (fun p => p.1 / 4 == t && p.2.claim.isSome)).flatMap (fun p =>
    (p.2.held.filter (fun b => decide (p.2.decoded ≤ b.1))).map (fun b => (p.2.fn, parseHeader (clearPsn b.2))))).take 2

/-- Is a slot pinned: its table is one that a batt in fill or decode needs (R51)? -/
def slotPinned (s : State) (t : Nat) (e : SlotEnt) : Bool :=
  (battsInFlight s t).any (fun p => !p.2.raw && p.1 == e.fn && p.2.tableId == e.id && p.2.tableGen == e.gen)

/-- A table brought into a slot: a hit moves it to the most recent place; a miss counts and replaces the least recently used slot that is
not pinned. -/
def useTable (s : State) (t fn id gen : Nat) : State :=
  let l := slotsOf s t
  match l.find? (fun e => e.fn == fn && e.id == id && e.gen == gen) with
  | some e => setSlots s t (l.filter (fun x => x != e) ++ [e])
  | none =>
    if (tableOf s fn id gen).isNone then s
    else
      let s := s.incFld R.EXP_FAULT_CNT.MISSES 1 t
      match (List.range 16).find? (fun k => !l.any (fun e => e.slot == k)) with
      | some k => setSlots s t (l ++ [⟨k, fn, id, gen⟩])
      | none =>
        match l.find? (fun e => !slotPinned s t e) with
        | some e => setSlots s t (l.filter (fun x => x != e) ++ [⟨e.slot, fn, id, gen⟩])
        | none => s

/-- Tables that can no longer be found leave the directory and every expander slot that holds them (R52). -/
def dropTables (s : State) (gone : TblEnt → Bool) : State :=
  let out := s.tl.dir.filter gone
  let s := { s with tl := { s.tl with dir := s.tl.dir.filter (fun e => !gone e) } }
  s.tl.slots.foldl (fun s q => setSlots s q.1 (q.2.filter (fun e => !out.any (fun o => o.fn == e.fn && o.id == e.id && o.gen == e.gen)))) s

/-! Streams. -/

/-- A stream begun: its table goes to a slot and its scale records are read first (R75). -/
def startStream (s : State) (t b fn h a : Nat) (d : TensorDesc) : State :=
  let s := streamTraffic (useTable s t fn d.tid d.tgen) d.scaleBase d.scaleBytes
  setStream s (bufKey t b) ⟨a, d.tgen, fn, h, s.flag R.TILE_STREAM.T2_ALLOW t, tread s d.scaleBase d.scaleBytes, 0, [], 0, [], .ok, none⟩

/-- The next batt read, if the buffer has room for the whole of it. -/
def fillNext (s : State) (t k : Nat) : State :=
  match stream? s k with
  | none => s
  | some x =>
    match descAt s x.fn x.desc with
    | none => s
    | some d =>
      let p := battSpan s d.battBase x.next
      let used := x.scales.length + (x.held.map (fun b => b.2.length)).foldl (· + ·) 0
      if d.batts ≤ x.next ∨ bufBytes s t < used + p.2 then s
      else setStream (streamTraffic s p.1 p.2) k { x with next := x.next + 1, held := x.held ++ [(x.next, tread s p.1 p.2)] }

/-- A batt fault recorded (R58): tensor `id` of function `fn`, for an operation of context `ctx`.
DESIGN CHOICE (unsafe): log entry 22. -/
def battFault (s : State) (t fn ctx id b : Nat) (f : BattFault) (st : Status) : State :=
  let hw := ((s.ctx? ctx).map (·.hw)).getD 0
  let s := s.incFld R.EXP_FAULT_CNT.FAULTS 1 t
  let s :=
    if s.flag R.EXP_MM_STAT.VALID t then s.setFld R.EXP_MM_STAT.OVERRUN 1 t
    else
      let s := (((s.setFld R.EXP_MM_STAT.VALID 1 t).setFld R.EXP_MM_STAT.KIND f.kind t).setFld R.EXP_MM_STAT.SUBSTREAM f.sub t).setFld
        R.EXP_MM_STAT.FUNCTION fn t
      (((s.setFld R.EXP_MM_STAT.CONTEXT hw t).setFld R.EXP_MM_TENSOR.TENSOR id t).setFld R.EXP_MM_BATT.BATT b t).setFld
        R.EXP_MM_POS.FIRST_ZERO f.first t
  logFn s fn { entry0 s 0x13 st fn with context := ctx, object := id,
                                            detail := leBytes 4 b ++ leBytes 1 f.kind ++ leBytes 1 f.sub ++ leBytes 2 f.first ++ leBytes 8 0 }

/-- The bytes of a batt as the expander sees them: what a line that cannot be corrected supplies is free.
DESIGN CHOICE (safe): log entry 132. -/
def seenBytes (s : State) (bs : List PByte) : List Byte :=
  if anyPsn bs then bs.zipIdx.map (fun b => if b.1.2 then Config.freeByte (s.freeCtr + b.2) else b.1.1) else clearPsn bs

/-- The next batt of a stream decoded, if it has been read (R54 to R57). -/
def decodeNext (s : State) (t k : Nat) : State :=
  match stream? s k with
  | none => s
  | some x =>
    match x.held.find? (fun b => b.1 == x.decoded), descAt s x.fn x.desc with
    | some (b, bs), some d =>
      let lost := anyPsn bs
      let seen := seenBytes s bs
      let s := if lost then s.takeFree bs.length else s
      let h := parseHeader seen
      let s := if h.raw then s else useTable s t x.fn h.tableId h.tableGen
      let r := decodeBatt (battWant d.wide 0 d.symbols b) (tableOf s x.fn) seen
      let st : Status := match r.2 with
        | some f => if f.isLength then .battLength else .poison
        | none => psnStatus lost
      let s := (s.incFld R.EXP_BATT_CNT.BATTS 1 t).incFld R.EXP_BATT_CNT.RAW (bit h.raw) t
      let s := match r.2 with
        | some f => battFault s t x.fn x.ctx d.id b f st
        | none => s
      let bad := lost || r.2.isSome
      let held := if resident? s t d then x.held else x.held.filter (fun p => p.1 != b)
      setStream s k { x with decoded := x.decoded + 1, syms := x.syms ++ r.1.map (fun v => (v, bad)), held := held, status := x.status.worse st }
    | _, _ => s

/-- Filling and decoding to the end of the tensor; `n` bounds the batts.
DESIGN CHOICE (safe): log entry 52. -/
def runStream (t k : Nat) : Nat → State → State
  | 0, s => s
  | n + 1, s => runStream t k n (decodeNext (fillNext s t k) t k)

/-- Have all batts of a claimed stream been decoded? -/
def streamDone (s : State) (k : Nat) : Bool :=
  match stream? s k with
  | some x => match descAt s x.fn x.desc with | some d => decide (d.batts ≤ x.decoded) | none => true
  | none => true

/-- A hint or an op meets a buffer (R76): the same tensor is kept, another one not claimed is abandoned. -/
def claimStream (s : State) (t b fn h a : Nat) (d : TensorDesc) (claim : Option (Nat × Nat)) : State :=
  let k := bufKey t b
  match stream? s k with
  | some x =>
    if sameTensor x fn a d then (match claim with | some c => setStream s k { x with claim := some c, ctx := h } | none => s)
    else
      let s := startStream (endStream (s.incFld R.TILE_STREAM_CNT.HINT_DISCARD 1 t) k) t b fn h a d
      (match claim, stream? s k with
       | some c, some y => setStream (s.incFld R.TILE_STREAM_CNT.DEMAND 1 t) k { y with claim := some c }
       | _, _ => s)
  | none =>
    let s := startStream s t b fn h a d
    (match claim, stream? s k with
     | some c, some y => setStream (s.incFld R.TILE_STREAM_CNT.DEMAND 1 t) k { y with claim := some c }
     | _, _ => s)

/-- A queued hint applied once the op that consumed the buffer has retired. -/
def applyHint (s : State) (t b : Nat) : State :=
  let k := bufKey t b
  match Tab.find? k s.tl.hints with
  | none => s
  | some (a, fn, h) =>
    let s := { s with tl := { s.tl with hints := Tab.del k s.tl.hints } }
    match descAt s fn a with
    | some d => if streamOk s (bindTile s t) b (t2Allowed s t b fn a d) d then claimStream s t b fn h a d none else s
    | none => s

/-- A row's scale record: S8 scales, block scales, poison (R68). -/
def scaleRec (d : TensorDesc) (scales : List PByte) (n : Nat) : List Byte × List W32 × Bool :=
  let r := (scales.drop (n * d.scaleRow)).take d.scaleRow
  let ng := d.cols / d.g
  let nb := ceilDiv d.cols (256 * d.g)
  let b0 := alignUp ng 4
  let raw := clearPsn r
  let s8 := raw.take ng
  let blks := (chunk 4 ((raw.drop b0).take (4 * nb))).map (fun w => BitVec.ofNat 32 (leNat w))
  let bad := anyPsn r || !zeroAt raw ng (b0 - ng) || !zeroAt raw (b0 + 4 * nb) (d.scaleRow - (b0 + 4 * nb)) ||
    s8.any (fun p => fIsNaN (s8Value p)) || blks.any (fun x => !fFinite x)
  (s8, blks, bad)

/-- Is a stream free of poison and of batt faults (R77)? -/
def streamClean (d : TensorDesc) (x : StreamSt) : Bool :=
  x.status == .ok && !anyPsn x.scales && !x.held.any (fun b => anyPsn b.2) &&
    (d.fmt == 2 || (List.range d.rows).all (fun n => !(scaleRec d x.scales n).2.2))

/-- The stream of a buffer after its op retired with a status (R76, R77). -/
def releaseStream (s : State) (t b : Nat) (st : Status) : State :=
  let k := bufKey t b
  let s := match stream? s k with
    | none => s
    | some x =>
      let res : Bool := match descAt s x.fn x.desc with | some d => resident? s t d && (st == .ok || streamClean d x) | none => false
      if res then
        setStream s k { x with claim := none, decoded := 0, syms := [], status := .ok }
      else endStream s k
  applyHint s t b

/-! The matrix-vector product (R69, R28, R31). -/

/-- Weights of a tensor's row from its symbols. -/
def rowVals (d : TensorDesc) (syms : List (Nat × Bool)) (n : Nat) : List (Nat × Bool) :=
  let w := d.cols * (if d.fmt = 2 then 2 else 1)
  (syms.drop (n * w)).take w

/-- One element y[b][n], with its poison. -/
def mvElem (d : TensorDesc) (syms : List (Nat × Bool)) (scales : List PByte) (n : Nat) (act : List Int) (actF : List W32) (sc : W32)
    (actBad noScale : Bool) : W32 × Bool :=
  let row := rowVals d syms n
  let bad := row.any (·.2) || actBad
  if d.fmt = 2 then
    (dotBf16 ((chunk 2 row).map (fun p => fOfBf16 (BitVec.ofNat 16 ((p.getD 0 (0, false)).1 + 256 * (p.getD 1 (0, false)).1)))) actF, bad)
  else
    let sr := scaleRec d scales n
    let v := dotGroups d.g (row.map (fun p => sInt (if d.fmt = 0 then 4 else 8) p.1)) act sr.1 sr.2.1 0 0#32
    (if noScale then v else fMul v sc, bad || sr.2.2)

/-- Bytes of one activation row: A8 values with their FP32 scale at the next 4-byte boundary, or BF16 values.
DESIGN CHOICE (unsafe): log entry 12. -/
def actRowBytes (d : TensorDesc) : Nat := if d.fmt = 2 then 2 * d.cols else alignUp d.cols 4 + 4

/-- The results for one activation row: N elements. With NO_ASCALE the activation scale takes no part. -/
def mvRow (d : TensorDesc) (x : StreamSt) (noScale : Bool) (bs : List PByte) : List (W32 × Bool) :=
  let act := if d.fmt = 2 then [] else a8Vals (rawBytes (bs.take d.cols))
  let actF := if d.fmt = 2 then (elemsBf bs).map (·.1) else []
  let sc : W32 := if d.fmt = 2 then 0#32 else BitVec.ofNat 32 (leNat (rawBytes (bs.drop (alignUp d.cols 4))))
  let scBad := d.fmt != 2 && !noScale && (anyPsn (bs.drop d.cols) || !fFinite sc)
  let bad := anyPsn (if d.fmt = 2 then bs else bs.take d.cols) || scBad
  (List.range d.rows).map (fun n => mvElem d x.syms x.scales n act actF sc bad noScale)

/-! Vector results. -/

/-- A vector written in an output format: 0 FP32, 1 BF16, 2 A8 with its scale; bytes, saturations and poison (R32, R33). The A8 scale is
formed from every finite element, so a poisoned one among them poisons the scale and with it every group (R38).
DESIGN CHOICE (unsafe): log entry 12. -/
def outVector (fmt : Nat) (es : List PElem) : List PByte × Nat × Bool :=
  if fmt = 2 then
    let q := quantiseA8 (es.map (·.1))
    let sp := es.any (fun e => e.2 && fFinite e.1)
    let ps := spread (List.zipWith (fun (e : PElem) b => sp || e.2 || b) es q.bad)
    let n := es.length
    let vals := List.zipWith (fun v p => (BitVec.ofInt 8 v, p)) q.vals ps
    (vals ++ List.replicate (alignUp n 4 - n) (0#8, sp) ++ (leBytes 4 q.scale.toNat).map (fun b => (b, sp)),
      (List.zip q.sat ps).countP (fun p => p.1 && !p.2), ps.any id)
  else
    let ps := spread (es.map (·.2))
    (if fmt = 1 then bytesOf 2 (List.zipWith (fun (e : PElem) p => ((bf16OfF e.1).toNat, p)) es ps)
     else bytesOf 4 (List.zipWith (fun (e : PElem) p => (e.1.toNat, p)) es ps), 0, ps.any id)

/-- Every element of a vector poisoned where a reduction over it was (R38). -/
def poisonAll (p : Bool) (es : List PElem) : List PElem := es.map (fun e => (e.1, e.2 || p))

end Sys2Proof.Machine
end

