-- ==== Sys2Proof/Machine/Bundle.lean ====
section
/-! DEFINITION. Yalua bundles (R296, R297): BUNDLE_LOAD with its checks, and where each section is placed. The vault's cryptography is
given by operands (log entry 10): whether a signature, a key wrap or a tag is good, and the plaintext of each section. -/

namespace Sys2Proof.Machine

open Sys2Proof

/-- The security state changed. -/
def State.updSec (s : State) (f : Security → Security) : State := { s with sec := f s.sec }

/-- The slot that seals a constellation generation. -/
def sealedSlot (s : State) (id gen : Nat) : Option (Nat × Constellation) := s.sec.sealed.find? (fun c => c.2.id == id && c.2.keyGen == gen)

/-- What a use of a constellation key answers (checks 3 and 4 of Table 15-6). -/
def keyStatus (s : State) (id gen : Nat) : Status :=
  match sealedSlot s id gen with
  | some (_, c) => if c.released then .ok else .keyUnavailable
  | none => .keyUnavailable

/-! The header and the manifest. -/

/-- The header's own part of check 1 (Table 15-4). -/
def headerOk (b : List Byte) : Bool :=
  b.take 4 == [0x59#8, 0x4C#8, 0x55#8, 0x41#8] && fieldAt b 4 1 == 1 && zeroAt b 5 3 && decide (1 ≤ fieldAt b 64 4) && decide (fieldAt b 64 4 ≤ 65536) &&
    decide (fieldAt b 68 1 < 8) && zeroAt b 69 3 && zeroAt b 80 48 && zeroAt b 224 32 && decide (256 + 64 * fieldAt b 64 4 ≤ fieldAt b 72 8)

/-- The bytes of header and manifest. -/
def manifestEnd (b : List Byte) : Nat := 256 + 64 * fieldAt b 64 4

/-- A section of the manifest (Table 15-5). -/
structure Section where
  kind : Nat
  place : Nat
  off : Nat
  len : Nat
  deriving DecidableEq, Repr

/-- The sections of a bundle whose manifest has arrived. -/
def sectionsOf (b : List Byte) : List Section :=
  (List.range (fieldAt b 64 4)).map (fun i =>
    let m := (b.drop (256 + 64 * i)).take 64
    ⟨fieldAt m 0 1, fieldAt m 4 4, fieldAt m 8 8, fieldAt m 16 8⟩)

/-- Where the bytes of a section end in the bundle. -/
def Section.stop (x : Section) : Nat := x.off + x.len

/-- The manifest's part of check 1.
DEDUCED (unsafe): log entry 104. -/
def manifestOk (b : List Byte) : Bool :=
  (List.range (fieldAt b 64 4)).all (fun i => let m := (b.drop (256 + 64 * i)).take 64; zeroAt m 1 3 && zeroAt m 52 12) &&
    (sectionsOf b).all (fun x =>
      decide (x.kind < 3) && decide (x.place < (if x.kind = 0 then 256 else if x.kind = 1 then 8192 else 1)) && decide (manifestEnd b ≤ x.off) &&
        decide (x.stop ≤ fieldAt b 72 8))

/-! Section contents (check 7). -/

/-- The bytes of one scale record (R68). -/
def scaleRecord (d : TensorDesc) : Nat := alignUp (alignUp (d.cols / d.g) 4 + 4 * ceilDiv d.cols (256 * d.g)) 16

/-- A tile tensor's section: its descriptor, its scale records, its batts (R28, R67). -/
def tensorSection (b : List Byte) : Option TensorDesc :=
  match parseDesc (b.take 64) with
  | none => none
  | some d =>
    let lim (n : Nat) : Bool := decide (1 ≤ n) && decide (n ≤ 1048576)
    if lim d.rows && lim d.cols && (d.fmt == 2 || d.cols % d.g == 0) && d.batts == ceilDiv d.symbols 16384 &&
       d.scaleRow == (if d.fmt = 2 then 0 else scaleRecord d) && b.length == 64 + d.scaleBytes + fieldAt b 40 4 then some d
    else none

/-- The weight segments of a section, as far as their headers can be followed: none names the reserved group size (R28, R113).
DEDUCED (unsafe): log entry 104. -/
def segmentsOk : Nat → List Byte → Bool
  | 0, _ => true
  | k + 1, b =>
    if b.length < 32 then true
    else
      let fmt := bits (fieldAt b 8 1) 1 0
      let gc := bits (fieldAt b 8 1) 3 2
      let n := fieldAt b 6 2
      if gc = 3 then false
      else if 2 ≤ fmt ∨ n = 0 ∨ 4096 < n then true
      else
        let g := 32 * 2 ^ gc
        let first := fieldAt b 4 2
        let blocks := (first + n - 1) / 256 - first / 256 + 1
        segmentsOk k (b.drop (alignUp (alignUp (16 + n * g / (if fmt = 0 then 2 else 1) + n) 4 + 4 * blocks) 32))

/-- The records of a section of table directory entries. -/
def tableRecords (b : List Byte) : List (List Byte) := (List.range (b.length / 320)).map (fun i => (b.drop (320 * i)).take 320)

/-- Check 7 for a section.
DEDUCED (unsafe): log entry 104. -/
def contentOk (kind : Nat) (b : List Byte) : Bool :=
  if kind = 0 then (tensorSection b).isSome
  else if kind = 1 then segmentsOk b.length b
  else b.length % 320 == 0 && (tableRecords b).all (fun t => (parseTable t).isSome)

/-! Placing a section (R79, R113, R51). -/

/-- A run of free frames within frames lo to hi − 1, the same on each of `w` stacks from there on: the one picked, or the lowest.
DESIGN CHOICE (unsafe in part): log entry 5. -/
def findFramesIn (s : State) (lo hi w n pick : Nat) : Option Nat :=
  let ok (g : Nat) : Bool := decide (lo ≤ g) && decide (g + n ≤ hi) && (List.range w).all (fun k => framesFree s (g + k * 2 ^ 20) n)
  if ok pick then some pick
  else
    let starts := lo :: (s.mm.frames.map (fun p => p.1 + 1) ++ s.mm.remap.map (fun p => p.1 + 1) ++ s.mm.remap.map (fun p => p.2 + 1) ++
      (s.mm.regions.filter (fun r => addrClass r.base = .t1)).map (fun r => ceilDiv (r.base + r.size - t1Base) 65536) ++
      ((List.range 512).filter (fun pc => pcClosed s pc)).map (fun pc => pc / 32 * 2 ^ 20 + pc % 32 * 32768 + 32768))
    match (starts.flatMap (fun g => (List.range w).map (fun k => g - k * 2 ^ 20))).filter ok with
    | [] => none
    | g :: r => some (r.foldl min g)

/-- The frames a section may lie in: on the first of the four stacks of its tile's die, and so on the others (R79), in its bank pair, or
anywhere; the number of stacks it runs over. -/
def Section.frames (x : Section) : Nat × Nat × Nat :=
  if x.kind = 0 then (x.place / 64 * 4 * 2 ^ 20, (x.place / 64 * 4 + 1) * 2 ^ 20, 4)
  else if x.kind = 1 then
    let lo := bits x.place 12 9 * 2 ^ 20 + bits x.place 8 0 * 2048
    (lo, lo + 2048, 1)
  else (0, totalFrames, 1)

/-- A tile tensor's bytes as they lie in T1 at a base: the descriptor with its bases filled in and its CRC made anew, the scale records, and
the batts from the next 16-byte boundary on.
DESIGN CHOICE (unsafe): log entry 103. -/
def tensorBytes (b : List Byte) (d : TensorDesc) (base : Nat) : List Byte :=
  let sb := tensorAddr base 64
  let pad := alignUp (64 + d.scaleBytes) 16 - (64 + d.scaleBytes)
  let bb := tensorAddr base (alignUp (64 + d.scaleBytes) 16)
  let h := b.take 24 ++ leBytes 8 bb ++ leBytes 8 (if d.fmt = 2 then 0 else sb) ++ (b.drop 40).take 22
  h ++ leBytes 2 (crc16 h) ++ (b.drop 64).take d.scaleBytes ++ List.replicate pad 0#8 ++ b.drop (64 + d.scaleBytes)

/-- The bytes a section takes in T1. -/
def placedSize (x : Section) (b : List Byte) : Nat :=
  match x.kind, tensorSection b with
  | 0, some d => b.length + (alignUp (64 + d.scaleBytes) 16 - (64 + d.scaleBytes))
  | _, _ => b.length

/-- One section placed in a region of its own, a tile tensor in one on each of the four stacks it runs over (R79); its tables are noted with the
bundle. None while no frames are free.
DESIGN CHOICE (unsafe): log entry 103. DEDUCED (unsafe): log entry 140. -/
def placeSection (f h : Nat) (x : Section) (b : List Byte) (pick : Nat) (s : State) : Option State :=
  let n := placedSize x b
  if n = 0 then some s
  else
    let r := x.frames
    let m := ceilDiv n (65536 * r.2.2)
    match (makeT1Room s f (m * r.2.2)).bind (fun s => (findFramesIn s r.1 r.2.1 r.2.2 m pick).map (fun g => (g, s))) with
    | none => none
    | some (g, s) =>
      let base := frameAddr g
      let size := if r.2.2 = 1 then n else m * 65536
      let bs := match x.kind, tensorSection b with
        | 0, some d => tensorBytes b d base
        | _, _ => b
      let rs := (List.range r.2.2).map (fun k => (⟨base + k * 2 ^ 36, size, f, .loading, h⟩ : Region))
      let s := { s with mm := { s.mm with regions := s.mm.regions ++ rs } }
      let s := if r.2.2 = 1 then pwrite' s base (cleanBytes bs) else twrite s base (cleanBytes bs)
      let ts := if x.kind = 2 then (tableRecords b).zipIdx.map (fun q => TblEnt.mk f (fieldAt q.1 0 2) (fieldAt q.1 2 2) (base + 320 * q.2)) else []
      some (s.updSec (fun c => { c with bundles := Tab.upd h (fun u => { u with tables := u.tables ++ ts, placed := u.placed + 1 }) c.bundles }))

/-- The regions of a bundle being loaded. -/
def bundleRegions (s : State) (h : Nat) : List Region := s.mm.regions.filter (fun r => r.kind == .loading && r.owner == h)

/-- A bundle abandoned: its regions are freed and scrubbed, and its handle becomes invalid. -/
def abandonBundle (s : State) (h : Nat) : State :=
  let s := (bundleRegions s h).foldl (fun s r => freeRegion s r.base) s
  s.updSec (fun c => { c with bundles := Tab.del h c.bundles })

/-- How a piece ends: the bundle goes on, a check failed, or there is no room for a section now. -/
inductive PieceEnd where
  | taken (s : State)
  | failed (st : Status)
  | noRoom

/-- The sections completed by a piece, in manifest order: the tag, the content and the place of each. `ps` are the vault's results and
plaintexts in that order, `picks` the frames. -/
def takeSections (f h : Nat) : List Section → List (Bool × List Byte) → List Nat → State → PieceEnd
  | [], _, _, s => .taken s
  | x :: xs, ps, picks, s =>
    match ps with
    | [] => .failed .invalid
    | (tag, b) :: ps =>
      let b := padTo x.len b
      if !tag || !contentOk x.kind b then .failed .invalid
      else
        match placeSection f h x b (picks.headD 0) s with
        | some s => takeSections f h xs ps picks.tail s
        | none => .noRoom

/-- The checks of Table 15-6 as far as the bytes `b` accepted allow, after a piece that followed `old` bytes.
DESIGN CHOICE (unsafe): log entry 103. -/
def checkPiece (f h old : Nat) (b : List Byte) (wasChecked last sigOk unwrapOk : Bool) (ps : List (Bool × List Byte)) (picks : List Nat) (s : State) :
    PieceEnd :=
  if (256 ≤ b.length ∧ !headerOk b) ∨ (256 ≤ b.length ∧ fieldAt b 72 8 < b.length) then .failed .invalid
  else if b.length < 256 ∨ b.length < manifestEnd b then (if last then .failed .invalid else .taken s)
  else if !wasChecked ∧ !manifestOk b then .failed .invalid
  else if last ∧ b.length ≠ fieldAt b 72 8 then .failed .invalid
  else if !wasChecked ∧ !(sigOk && (Tab.find? (fieldAt b 68 1) s.sec.publishers).isSome) then .failed .invalid
  else if keyStatus s (fieldAt b 16 4) (fieldAt b 20 4) ≠ .ok then .failed .keyUnavailable
  else if !wasChecked ∧ !unwrapOk then .failed .invalid
  else
    let seen := if wasChecked then old else 0
    let s := s.updSec (fun c => { c with bundles := Tab.upd h (fun u => { u with checked := true }) c.bundles })
    takeSections f h ((sectionsOf b).filter (fun x => decide (seen < x.stop) && decide (x.stop ≤ b.length))) ps picks s

/-- The LAST piece accepted: the bundle's regions become bundle regions and its tables can be found. -/
def finishBundle (s : State) (h : Nat) : State :=
  match Tab.find? h s.sec.bundles with
  | none => s
  | some u =>
    let s := { s with mm := { s.mm with regions := s.mm.regions.map (fun (r : Region) => if r.kind = RegionKind.loading ∧ r.owner = h then { r with kind := RegionKind.bundle } else r) } }
    let s := { s with tl := { s.tl with dir := s.tl.dir ++ u.tables } }
    s.updSec (fun c => { c with bundles := Tab.del h c.bundles })

/-- One piece of a bundle. A piece that finds no room for a section waits for frames (R102), none of it accepted; one that comes with
poison is not accepted either.
DESIGN CHOICE (safe): log entry 10. DESIGN CHOICE (unsafe): log entry 103. DESIGN CHOICE (unsafe): log entry 143. -/
def doBundleLoad (f r n pick : Nat) (sigOk unwrapOk : Bool) (ps : List (Bool × List Byte)) (picks : List Nat) (s : State) : State :=
  match takeDesc s f r n 0x21 with
  | none => s
  | some d =>
    let bytes := fieldAt d 16 8
    let off := fieldAt d 24 8
    let given := fieldAt d 32 4
    let last := fieldAt d 36 1 == 1
    if 1 < fieldAt d 36 1 || !zeroAt d 37 27 then complete s f r n .invalid
    else
      let known := match Tab.find? given s.sec.bundles with
        | some u => if u.fn = f then some u else none
        | none => none
      match (if given = 0 then pickFree s.sec.bundles 1 (2 ^ 32) pick else known.map (fun _ => given)) with
      | none => complete s f r n .invalid
      | some h =>
        let u := known.getD ⟨f, [], false, 0, []⟩
        let u := if given = 0 then ⟨f, [], false, 0, []⟩ else u
        if off ≠ u.bytes.length then complete (abandonBundle s h) f r n .invalid
        else
          match hostRead s f (fieldAt d 8 8) bytes with
          | none => complete s f r n .protection
          | some bs =>
            if hostPsn s (fieldAt d 8 8) bytes then complete s f r n .poison else
            let b := u.bytes ++ bs
            let t := s.updSec (fun c => { c with bundles := Tab.ins h { u with bytes := b } c.bundles })
            match checkPiece f h off b u.checked last sigOk unwrapOk ps picks t with
            | .failed st => complete (endWait (abandonBundle t h) (.desc f r n)) f r n st
            | .noRoom => waitFrame s (.desc f r n) false []
            | .taken t =>
              let t := if last then finishBundle t h else t
              complete (endWait t (.desc f r n)) f r n .ok 0 (leBytes 4 h ++ List.replicate 4 0#8 ++ leBytes 8 b.length)

/-- BUNDLE_LOAD (R297): descriptor `num` of a ring. `handle` and `frames` are the module's picks; `sigOk`, `unwrapOk` and `sections` (each
completed section's tag result and plaintext) are the vault's results, `poisoned` the host bytes that come in poisoned TLPs (R198). -/
def execBundleLoad (fn ring num handle : Nat) (sigOk unwrapOk : Bool) (sections : List (Bool × List (BitVec 8))) (frames : List Nat)
    (poisoned : List (Nat × Nat)) (s : State) : Host.Outcome State Fault Refusal :=
  act s (doBundleLoad fn ring num handle sigOk unwrapOk sections frames (withTlp poisoned s))

end Sys2Proof.Machine
end

