-- ==== Sys2Proof/Machine/Merge.lean ====
section
/-! DEFINITION. The merge op ATTN_MERGE (R139, R142, R149, R168). -/

namespace Sys2Proof.Machine

open Sys2Proof

/-- The key of a merge op in progress. -/
def mergeKey (h idx : Nat) : Nat := h * 65536 + idx

/-- The receive queue of a kind-6 buffer of a context (R279). -/
def recvQueue (k : OpCtx) (hd : Nat) : Option Nat :=
  match k.p.bufs[hd]? with
  | some b => if b.kind = 6 then k.c.queues[((k.p.bufs.take hd).countP (fun b => b.kind == 6))]? else none
  | none => none

/-- The generation records are compared with (R149): of the bound span, or the one the op carries; none is ST_INVALID. -/
def mergeRef (s : State) (k : OpCtx) : Option Nat :=
  if k.o.aux = 0xFFFF then some (k.o.arg2 % 2 ^ 24)
  else
    match k.binding k.o.aux with
    | some b => (s.span? b.span).map (fun x => x.gen % 2 ^ 24)
    | none => none

/-- One record, which came at a time, judged (R149): accepted, rejected as stale or of the wrong epoch, or newer and held. -/
def judge (s : State) (ref : Nat) (m : MergeSt) (r : PartRec) (came : Nat) : State × MergeSt :=
  let delta := (ref + 2 ^ 24 - r.gen % 2 ^ 24) % 2 ^ 24
  if r.epoch ≠ m.epoch then
    (s.incFld R.ATTN_EPOCH_CNT.COUNT, { m with status := m.status.worse .epochStale, bad := NSet.add r.qhead m.bad, count := m.count + r.contrib })
  else if delta = 0 then (s, { m with got := m.got ++ [r], count := m.count + r.contrib })
  else if delta ≤ 2 ^ 23 then
    (s.incFld R.ATTN_STALE_CNT.COUNT, { m with status := m.status.worse .horizon, bad := NSet.add r.qhead m.bad, count := m.count + r.contrib })
  else (s, { m with newer := m.newer ++ [(r, came)] })

/-- One item of the receive queue taken up; an invalid record is discarded and counted (R139). -/
def mergeItem (ref h : Nat) (acc : State × MergeSt) (i : QItem) : State × MergeSt :=
  match parseRecord i.node i.contrib i.psn i.bytes with
  | some r =>
    if r.qhead < h then judge acc.1 ref acc.2 r acc.1.now
    else (acc.1.incFld R.ATTN_BAD_CNT.COUNT, { acc.2 with status := acc.2.status.worse .invalid, count := acc.2.count + i.contrib })
  | none => (acc.1.incFld R.ATTN_BAD_CNT.COUNT, { acc.2 with status := acc.2.status.worse .invalid, count := acc.2.count + i.contrib })

/-- Every complete item of a queue taken. -/
def takeAll (now : Nat) : Nat → Queue → Queue
  | 0, x => x
  | k + 1, x => takeAll now k (x.take now)

/-- A record placed by (source node, FIRST), after its equals.
DEDUCED (unsafe): log entry 57. -/
def recIns (r : PartRec) : List PartRec → List PartRec
  | [] => [r]
  | a :: l => if r.node < a.node || (r.node == a.node && r.part.first < a.part.first) then r :: a :: l else a :: recIns r l

/-- Records in ascending (source node, FIRST) (R142).
DEDUCED (unsafe): log entry 57. -/
def canonical (l : List PartRec) : List PartRec := l.foldl (fun a r => recIns r a) []

/-- The merged partial of a head, when every expected contribution was accepted. -/
def mergedHead (k : OpCtx) (m : MergeSt) (h : Nat) : Option (Partial × PartRec) :=
  let rs := m.got.filter (fun r => r.qhead = h)
  let rs := if k.o.varBit 0 then rs else canonical rs
  if m.bad.contains h || decide ((rs.map (·.contrib)).foldl (· + ·) 0 < k.o.arg0) then none
  else
    match rs with
    | [] => none
    | r :: l => some (l.foldl (fun a y => mergePart a y.part) r.part,
                      { r with merged := r.merged || !l.isEmpty, tent := rs.any (·.tent), oBf16 := rs.all (·.oBf16) })

/-- What one head writes: a merged record to forward, or outputs. -/
def mergeOut (k : OpCtx) (h : Nat) (p : Partial × PartRec) : List PByte :=
  if k.o.varBit 2 then
    (recordBytes p.2.ctx h p.2.kvHead p.2.gen p.2.epoch p.1.o.length p.2.tent p.2.oBf16 p.2.merged p.1).map (fun b => (b, p.1.psn))
  else outBytesOf (k.o.varBit 1) p.1.psn (finishPart p.1)

/-- The merge op ends: heads that are whole are written, and its status is the worst met. -/
def endMerge (s : State) (k : OpCtx) (m : MergeSt) : OpOut :=
  let s := { s with attn := { s.attn with merges := Tab.del (mergeKey k.h k.idx) s.attn.merges } }
  let hs := (List.range k.o.arg1).map (fun h => (h, mergedHead k m h))
  hs.foldl (fun out p =>
    match out, p.2 with
    | .done s st sat, some q =>
      let bs := mergeOut k p.1 q
      let st := st.worse (partStatus q.1)
      match operand s k k.o.dst k.anyTile (p.1 * bs.length) bs.length true with
      | none => .done s (st.worse .protection) sat
      | some a => let r := locWrite s k.h a bs; .done r.1 (if r.2 then st.worse .poison else st) sat
    | o, _ => o) (.done s m.status 0)

/-- The ATTN_MERGE op: records that have arrived are judged; it ends when the counts reach what it expects. -/
def attnMergeOp (k : OpCtx) (s : State) : OpOut :=
  match recvQueue k k.o.src0, mergeRef s k with
  | some qn, some ref =>
    match s.queue? qn with
    | none => .done s .invalid 0
    | some x =>
      match x.waiting with
      | i :: _ =>
        if i.marker then
          .done { s.setQueue qn (x.take s.now) with attn := { s.attn with merges := Tab.del (mergeKey k.h k.idx) s.attn.merges } } .flushed 0
        else attnMergeGo s qn x ref
      | [] => attnMergeGo s qn x ref
  | _, _ => .done s .invalid 0
where
  attnMergeGo (s : State) (qn : Nat) (x : Queue) (ref : Nat) : OpOut :=
    let m := (Tab.find? (mergeKey k.h k.idx) s.attn.merges).getD ⟨[], [], .ok, [], 0, s.epoch⟩
    let items := x.waiting.takeWhile (fun i => !i.marker)
    let s := s.setQueue qn (takeAll s.now items.length x)
    let r := m.newer.foldl (fun (a : State × MergeSt) h => judge a.1 ref a.2 h.1 h.2) (s, { m with newer := [] })
    let r := items.foldl (mergeItem ref k.o.arg1) r
    if k.o.arg0 * k.o.arg1 ≤ r.2.count then endMerge r.1 k r.2
    else .wait { r.1 with attn := { r.1.attn with merges := Tab.ins (mergeKey k.h k.idx) r.2 r.1.attn.merges } }

/-- ATTN_MERGE (R149). -/
def execAttnMerge (handle : Nat) (s : State) : Host.Outcome State Fault Refusal :=
  act s (runOp s handle (fun o => o.opcode == 0x11) attnMergeOp)

/-- A newer record has been held for REMOTE_TIMEOUT: the merge op completes with ST_TIMEOUT. -/
def mergeTimeout (s : State) (h idx : Nat) : State :=
  match Tab.find? (mergeKey h idx) s.attn.merges, opCtxOf s h idx with
  | some m, some k =>
    if m.newer.all (fun r => decide (s.now < r.2 + s.fld R.ATTN_CTL.REMOTE_TIMEOUT * 1000)) then s
    else settle h idx (endMerge s k { m with newer := [], status := m.status.worse .timeout })
  | _, _ => s

end Sys2Proof.Machine
end

