-- ==== Sys2Proof/Machine/Ring.lean ====
section
/-! DEFINITION. Ring mode (R157 to R164), and REMOTE_TIMEOUT, which ends remote partials, held records and rings (R145, R149, R163). -/

namespace Sys2Proof.Machine

open Sys2Proof

/-! A ring op on this member. -/

/-- The epoch rule of R162: the present epoch, or the previous one while its drain window is open. -/
def epochAccepted (s : State) (e : Nat) : Bool := e == s.epoch || (s.flag R.MER_STAT.DRAINING && e == s.fld R.MER_CUR.PREV)

/-- The number of members. -/
def RingParams.n (p : RingParams) : Nat := p.members.length

/-- The node of a ring position. -/
def RingParams.node (p : RingParams) (i : Nat) : Nat := p.members.getD (i % p.n) 0

/-- The neighbour in a direction: the successor forward, the predecessor backward. -/
def RingParams.next (p : RingParams) (dir : Nat) : Nat := if dir = 0 then p.node (p.position + 1) else p.node (p.position + p.n - 1)

/-- The successor and the predecessor, to which notices and closes go both ways. -/
def RingParams.both (p : RingParams) : List Nat := if p.n = 0 then [] else [p.next 0, p.next 1]

/-- The directions that halves travel in. -/
def RingParams.dirs (p : RingParams) : List Nat := if p.bothWays then [0, 1] else [0]

/-- POS_BASE and POS_STRIDE of an origin's rows (Table 9-1). -/
def RingParams.place (p : RingParams) (o : Nat) : Nat × Nat := if p.strided then (o, p.length) else (o * p.length, 1)

/-- Are the parameters in range (Table 9-2), the span aside? -/
def ringOk (p : RingParams) : Bool :=
  decide (2 ≤ p.n) && decide (p.n ≤ 64) && decide (p.position < p.n) && (!p.bothWays || decide (3 ≤ p.n)) && decide (1 ≤ p.queries) &&
    decide (p.queries ≤ 65536) && decide (1 ≤ p.hPerKv) && decide (p.hPerKv ≤ 64) && fFinite p.sQk && decide (p.window ≤ 4194304) &&
    decide (p.sinks ≤ 16) && decide (p.posQ0 < 2 ^ 32) && (!p.strided || (decide (1 ≤ p.length) && decide (p.length ≤ 64))) &&
    p.members.all (fun m => decide (m < 32768)) && decide (p.epoch < 65536)

/-- Does a span have the ring's SHAPE? -/
def shapeOk (p : RingParams) (x : Span) : Bool :=
  x.kvHeads == p.kvHeads && x.dim == p.dim && x.fmt == p.fmt && x.ilog == p.ilog && decide (p.slot < x.layerSlots)

/-- The operation of one token and KV head over an origin's rows. -/
def ringReq (p : RingParams) (q : AttnReq) (o t g : Nat) : AttnReq :=
  let pl := p.place o
  { q with head := g, posQ := (p.posQ0 + t) % 2 ^ 32, posBase := pl.1, posStride := pl.2,
           heads := (q.heads.drop ((t * p.kvHeads + g) * p.hPerKv)).take p.hPerKv }

/-- The partials of one page's rows for every token, KV head and query head (R160). `e` is the page, its scales and where it lies, `bad` the
batts of it that faulted; rows are given by position within the page and row number. -/
def ringPageParts (s : State) (p : RingParams) (q : AttnReq) (o : Nat) (x : Span) (e : Pte) (bad : List Nat) (rows : List (Nat × Nat)) :
    List Partial :=
  (List.range p.queries).flatMap (fun t => (List.range p.kvHeads).flatMap (fun g =>
    let r := ringReq p q o t g
    foldRows x r e (pageRead s e) (bad.map (battBytes x)) (rows.map (fun kr => (kr.1 * x.rowBytes, kr.2))) (emptyHeads r x.dim)))

/-- The rows of a page below a limit: (position within the page, row number). -/
def rowsOfPage (x : Span) (p lim : Nat) : List (Nat × Nat) :=
  ((List.range x.rpp).map (fun k => (k, pageRowNo x p k))).filter (fun r => r.2 < lim ∧ r.2 < x.maxTokens)

/-- Notices to both neighbours; a lost node gets none (R316). -/
def ringAbortOut (s : State) (p : RingParams) : State := (p.both.filter (fun n => !nodeLost s n)).foldl (fun s n => s.emit (.ringAbort n)) s

/-- Does a status send an abort notice (R163)? -/
def ringNotifies (st : Status) : Bool := !(st == .ok || st == .poison || st == .battLength || st == .horizon)

/-- The ring of a context ends with a status: counted, its notice sent, its slots and what was held for it released. -/
def ringEnd (s : State) (h : Nat) (p : RingParams) (st : Status) : State :=
  let s := { s with attn := { s.attn with rings := Tab.del h s.attn.rings, ringIn := s.attn.ringIn.filter (fun m => m.2.1 != h) } }
  let s := s.incFld R.RING_CNT.COUNT
  let s := if st = .epochStale then s.incFld R.RING_EPOCH_CNT.COUNT else if st = .horizon then s.incFld R.RING_STALE_CNT.COUNT else s
  if ringNotifies st then ringAbortOut s p else s

/-- The pages of the member's block (R158): backed pages of the slot with rows below the reader limit, ascending. -/
def ringBlock (s : State) (x : Span) (p : RingParams) (lim : Nat) : List Nat :=
  ((s.pagesOf p.span).filter (fun e => e.1 / x.slotPages = p.slot ∧ e.2.st ≠ .unbacked ∧ !(rowsOfPage x e.1 lim).isEmpty)).map (·.1)

/-- The 32-byte ring page header (Table 9-4). -/
def ringHeader (s : State) (p : RingParams) (x : Span) (e : Pte) (rows gen pg dir : Nat) (last raw : Bool) : List Byte :=
  let h := leBytes 2 (s.fld R.ROUTE_NODE.NODE) ++ leBytes 1 (p.position + 64 * dir + 128 * bit last) ++ leBytes 1 (bit raw) ++
    leBytes 4 (gen % 2 ^ 24) ++ leBytes 2 p.epoch ++ leBytes 2 p.slot ++ leBytes 4 (pg % x.slotPages) ++ leBytes 4 e.pk ++ leBytes 4 e.pv ++
    leBytes 2 rows ++ leBytes 2 (if x.wide then 4 else 8) ++ leBytes 2 0
  h ++ leBytes 2 (crc16 h)

/-- The batts of a page as they are sent, each with whether it holds poison: the stored ones of a page of T2; a page of T1 coded under the
span's table, or raw where it holds tentative rows, with the rows at or beyond the reader limit as zeros (R158). -/
def ringBatts (s : State) (x : Span) (e : Pte) (rows : Nat) (raw : Bool) : List (List Byte × Bool) :=
  let keep := if e.st = .t2 then 65536 else rows * x.rowBytes
  let bs := pageRead s e 0 keep ++ List.replicate (65536 - keep) (0#8, false)
  let l := if e.st = .t2 then storedBatts x e else codePage x (if raw then none else x.table x.tableGen) (rawBytes bs)
  l.zipIdx.map (fun b => let r := battBytes x b.2; (b.1, anyPsn ((bs.drop r.1).take (r.2 - r.1))))

/-- The code table record that goes before the first page of a half: the span's own, none while it has no table (R158). -/
def ringTable (x : Span) : List Byte := match x.table x.tableGen with | some t => tableRecord t | none => []

/-- A page of the member's block as it is sent. -/
def ringSendOf (s : State) (p : RingParams) (x : Span) (lim gen horizon dir : Nat) (first last : Bool) (pg : Nat) : RingSend :=
  let e := s.pte p.span pg
  let rows := rowsOfPage x pg lim
  let raw := rows.any (fun r => decide (horizon ≤ r.2))
  ⟨1, dir, ringHeader s p x e rows.length gen pg dir last raw, if first then ringTable x else [], ringBatts s x e rows.length raw⟩

/-- One half of the member's block. A half of no pages goes as one page of no rows, which Table 9-4 allows, so that the others know it.
DEDUCED (unsafe): log entry 58. -/
def ringHalf (s : State) (p : RingParams) (x : Span) (lim gen dir : Nat) (pages : List Nat) : List RingSend :=
  match pages with
  | [] => [⟨1, dir, ringHeader s p x pte0 0 gen 0 dir true false, ringTable x, ringBatts s x pte0 0 false⟩]
  | _ => pages.zipIdx.map (fun q => ringSendOf s p x lim gen x.horizon dir (q.2 == 0) (q.2 + 1 == pages.length) q.1)

/-- The bytes of a page in a slot: the record before it, its header and its batts. -/
def ringSize (table : List Byte) (batts : List (List Byte × Bool)) : Nat := table.length + 32 + battsLen (batts.map (·.1))

/-- The bytes of a half in a slot. -/
def halfSize (l : List RingSend) : Nat := (l.map (fun m => ringSize m.table m.batts)).foldl (· + ·) 0

/-- A ring's state written. -/
def setRing (s : State) (h : Nat) (g : RingSt) : State := { s with attn := { s.attn with rings := Tab.ins h g s.attn.rings } }

/-! Credits (R159). -/

/-- The value of the counter to which a direction's credits are returned. -/
def ringCredit (s : State) (g : RingSt) (dir : Nat) : Nat :=
  match fnCounter s g.req.fn (if dir = 0 then g.par.creditFwd else g.par.creditBwd) with
  | some c => counterVal s c
  | none => 0

/-- May a page of a half be sent? Two slots lie free at the start, and each credit returned since frees one. -/
def ringMay (s : State) (g : RingSt) (m : RingSend) : Bool :=
  decide (m.half + (if m.dir = 0 then g.base.1 else g.base.2) ≤ 2 + ringCredit s g m.dir)

/-- The T1 address of the slot of a step's half. -/
def ringSlot (p : RingParams) (step dir : Nat) : Nat := p.slots + (2 * dir + step % 2) * p.slotBytes

/-- One page sent; a page that is passed on is read from its slot (R164). -/
def ringSendOne (g : RingSt) (s : State) (m : RingSend) : State :=
  let s := if m.half = 1 then s else extTraffic s (ringSlot g.par (m.half - 1) m.dir) (ringSize m.table m.batts)
  (s.emit (.ringPage (g.par.next m.dir) m.header m.table m.batts)).incFld R.RING_PAGE_CNT.COUNT

/-- The credits of halves that have been computed on and passed on whole return to their senders. -/
def ringReturn (s : State) (g : RingSt) : State × RingSt :=
  let busy (o : Nat × Nat) : Bool := g.queue.any (fun m => m.half == o.1 + 1 && m.dir == o.2)
  let s := (g.owed.filter (fun o => !busy o)).foldl (fun s o =>
    s.emit (.slotCredit (g.par.next (1 - o.2)) (if o.2 = 0 then g.par.creditFwd else g.par.creditBwd))) s
  (s, { g with owed := g.owed.filter busy })

/-- Pages that hold a credit are sent, and slots that are free by then are returned.
DESIGN CHOICE (safe): log entry 24. -/
def ringPump (s : State) (h : Nat) (g : RingSt) : State :=
  let t := (g.queue.filter (ringMay s g)).foldl (ringSendOne g) s
  let r := ringReturn t { g with queue := g.queue.filter (fun m => !ringMay s g m) }
  setRing r.1 h r.2

/-- The member's own block: computed as step 0, each page read once by tiles (R164), and sent (R158, R160). `bad` are its faulted batts. -/
def ringOwn (s : State) (idx : Nat) (p : RingParams) (x : Span) (q : AttnReq) (pages : List Nat) (bad : List (Nat × Nat)) (halves : List RingSend) :
    State × RingSt :=
  let parts := pages.map (fun pg =>
    let e := s.pte p.span pg
    let lost := (bad.filter (fun b => b.1 = pg)).map (·.2)
    (⟨0, 0, pg % x.slotPages, 0, ringPageParts s p q p.position x e lost (rowsOfPage x pg q.limit)⟩ : RingPart))
  let g : RingSt := ⟨idx, p, q, parts, [(p.position, x.gen % 2 ^ 24)], [], [], s.now, [], halves, (0, 0), []⟩
  let s := pages.foldl (fun s pg => let e := s.pte p.span pg; if e.st = .t1 then extTraffic s (frameAddr e.frame) 65536 else s) s
  (s, { g with base := (ringCredit s g 0, ringCredit s g 1) })

/-- The bias tables of a ring: one for each query head of each KV head. -/
def ringHeads (s : State) (p : RingParams) (es : List PElem) : List QHead × Nat :=
  let tabs := biasTables s p.bias (p.kvHeads * p.hPerKv)
  let hs := ((chunk p.dim es).zipIdx).map (fun v => queryHead p.fmt v.1 (tabs.getD (v.2 % (p.kvHeads * p.hPerKv)) []))
  (hs.map (·.1), (hs.map (·.2)).foldl (· + ·) 0)

/-! Steps, close and end. -/

/-- Page partials in the order of R160. -/
def ringIns (r : RingPart) : List RingPart → List RingPart
  | [] => [r]
  | a :: l =>
    if r.step < a.step || (r.step == a.step && (r.dir < a.dir || (r.dir == a.dir && r.vpage < a.vpage))) then r :: a :: l
    else a :: ringIns r l

/-- Has every half of every other origin come whole (R160)? -/
def ringComplete (g : RingSt) : Bool :=
  (List.range g.par.n).all (fun o => o == g.par.position || g.par.dirs.all (fun d => g.halves.contains (2 * o + d)))

/-- Has this member sent its close? It is listed with its own close value then. -/
def ringClosed (g : RingSt) : Bool := g.closes.any (fun c => c.1 == g.par.position)

/-- The outputs of a ring written, once every close is in and current (R161). -/
def ringFinish (s : State) (h : Nat) (g : RingSt) : State :=
  match opCtxOf s h g.idx with
  | none => ringEnd s h g.par .aborted
  | some k =>
    let stale := g.gens.any (fun o => match Tab.find? o.1 g.closes with
      | some c => decide ((c % 2 ^ 24 + 2 ^ 24 - o.2) % 2 ^ 24 ≠ 0)
      | none => false)
    if stale then retire (ringEnd s h g.par .horizon) h g.idx .horizon 0
    else
      let ps := (g.rows.foldl (fun l r => ringIns r l) []).map (·.parts)
      let n := g.par.queries * g.par.kvHeads * g.par.hPerKv
      let tot := ps.foldl mergeHeads (List.replicate n (emptyPart g.par.dim 0))
      let st := tot.foldl (fun a p => a.worse (partStatus p)) .ok
      let bs := tot.flatMap (fun p => outBytesOf false p.psn (finishPart p))
      match operand s k k.o.dst k.anyTile 0 bs.length true with
      | none => retire (ringEnd s h g.par .protection) h g.idx .protection 0
      | some a =>
        let r := locWrite s h a bs
        let st := if r.2 then st.worse .poison else st
        retire (ringEnd r.1 h g.par st) h g.idx st 0

/-- After a page or a close: the member sends its close both ways once its last step is done, and ends once every close is in. -/
def ringNext (s : State) (h : Nat) (g : RingSt) : State :=
  let gen := match s.span? g.par.span with | some x => x.gen | none => 0
  let go := ringComplete g && !ringClosed g
  let s := if go then g.par.both.foldl (fun s n => s.emit (.ringClose n g.par.position gen g.par.epoch)) s else s
  let g := if go then { g with closes := Tab.ins g.par.position gen g.closes } else g
  let s := ringPump s h g
  if ringClosed g && (List.range g.par.n).all (fun o => g.closes.any (fun c => c.1 == o)) then ringFinish s h g else s

/-- Is a received header well formed (Table 9-3: CRC and reserved bits), and of a half that this member receives? -/
def ringHeaderOk (p : RingParams) (b : List Byte) : Bool :=
  b.length == 32 && crc16 (b.take 30) == fieldAt b 30 2 && zeroAt b 28 2 && decide (fieldAt b 3 1 < 2) && zeroAt b 7 1 &&
    decide (fieldAt b 10 2 < 512) && zeroAt b 15 1 && decide (bits (fieldAt b 2 1) 5 0 < p.n) && bits (fieldAt b 2 1) 5 0 != p.position &&
    (p.bothWays || !bitAt (fieldAt b 2 1) 6)

/-- The step at which an origin's half of a direction reaches this member (R160). -/
def ringStep (p : RingParams) (o dir : Nat) : Nat := if dir = 0 then (p.position + p.n - o) % p.n else (o + p.n - p.position) % p.n

/-- The ring fails on this member, and its op with it. -/
def ringFails (s : State) (h : Nat) (g : RingSt) (st : Status) : State := retire (ringEnd s h g.par st) h g.idx st 0

/-- The bytes a half has taken in its slot so far. -/
def ringFilled (g : RingSt) (step dir : Nat) : Nat := ((g.rows.filter (fun r => r.step == step && r.dir == dir)).map (·.size)).foldl (· + ·) 0

/-- The span as a received page's rows are laid out, with the code table that its origin sent (R158): a member's own MAX_TOKENS may be another. -/
def ringSpan (x : Span) (table : List Byte) : Span := { x with maxTokens := 2 ^ 23, tables := (parseTable table).toList }

/-- A ring page wholly in its slot: computed on, and passed on unless it has travelled N − 1 hops (R159, R160). Its slot's writes and reads are
external traffic (R164); the faults of its batts are logged for the op's context. -/
def ringTake (s : State) (h : Nat) (g : RingSt) (x : Span) (hd table : List Byte) (batts : List (List Byte × Bool)) : State :=
  let p := g.par
  let b2 := fieldAt hd 2 1
  let o := bits b2 5 0
  let dir := bits b2 6 6
  let step := ringStep p o dir
  let vp := fieldAt hd 12 4
  let n := ringSize table batts
  let at_ := ringSlot p step dir + ringFilled g step dir
  let tb := if table.isEmpty then Tab.get [] (2 * o + dir) g.tables else table
  let y := ringSpan x tb
  let d := readBatts y { pte0 with st := .t2, pk := fieldAt hd 16 4, pv := fieldAt hd 20 4 }
    ((List.range (if x.wide then 4 else 8)).map (fun i => batts.getD i ([], false)))
  let parts := ringPageParts s p g.req o y d.1 (d.2.map (·.1)) ((rowsOfPage y vp (2 ^ 23)).take (fieldAt hd 24 2))
  let s := pwrite' s at_ (cleanBytes (table ++ hd) ++ batts.flatMap (fun b => b.1.map (fun c => (c, b.2))))
  let s := extTraffic (extTraffic s at_ n) at_ n
  let s := d.2.foldl (fun s f => logBatt s g.req.fn h p.span at_ f.1 f.2) s
  let last := bitAt b2 7
  ringNext s h { g with
    rows := g.rows ++ [⟨step, dir, vp, n, parts⟩], gens := Tab.ins o (fieldAt hd 4 3) g.gens, tables := Tab.put [] (2 * o + dir) tb g.tables,
    halves := if last then NSet.add (2 * o + dir) g.halves else g.halves, last := s.now,
    queue := if step + 1 < p.n then g.queue ++ [⟨step + 1, dir, hd, table, batts⟩] else g.queue,
    owed := if last then g.owed ++ [(step, dir)] else g.owed }

/-- A close message of an origin: recorded, and passed on away from the origin, each way as far as half the ring (R161).
DEDUCED (unsafe): log entry 58. -/
def ringCloseMsg (s : State) (h : Nat) (g : RingSt) (o gen : Nat) : State :=
  let p := g.par
  if p.n ≤ o ∨ o = p.position ∨ g.closes.any (fun c => c.1 == o) then s
  else
    let f := ringStep p o 0
    let b := p.n - f
    let on : List Nat := if f ≤ p.n / 2 then (if f < p.n / 2 then [p.next 0] else []) else (if b < p.n / 2 then [p.next 1] else [])
    let s := on.foldl (fun s n => s.emit (.ringClose n o gen p.epoch)) s
    ringNext s h { g with closes := Tab.ins o gen g.closes, last := s.now }

/-- The epoch a message carries. -/
def RingMsg.epoch : RingMsg → Nat
  | .page hd _ _ => fieldAt hd 8 2
  | .close _ _ e => e

/-- A message of an epoch that the module no longer takes (Table 16-4): the ring ends, and one of the previous epoch is counted (R162). -/
def ringStale (s : State) (h : Nat) (g : RingSt) (e : Nat) : State :=
  let s := if !epochAccepted s e && e == s.fld R.MER_CUR.PREV then s.incFld R.MER_STALE_CNT.COUNT else s
  ringFails s h g .epochStale

/-- A message for a ring in progress, of an epoch that is not newer than the module's. -/
def ringMsg (s : State) (h : Nat) (g : RingSt) (m : RingMsg) : State :=
  if !epochAccepted s m.epoch ∨ m.epoch ≠ g.par.epoch then ringStale s h g m.epoch
  else
    match m, s.span? g.par.span with
    | .close o gen _, _ => ringCloseMsg s h g o gen
    | .page _ _ _, none => ringFails s h g .aborted
    | .page hd table batts, some x =>
      let b2 := fieldAt hd 2 1
      let step := ringStep g.par (bits b2 5 0) (bits b2 6 6)
      if g.par.slotBytes < ringFilled g step (bits b2 6 6) + ringSize table batts then ringFails s h g .invalid
      else ringTake s h g x hd table batts

/-- A message of a newer epoch, or a page of a ring whose op is not issued yet, is held (R314). -/
def ringHold (s : State) (h : Nat) (m : RingMsg) : State := { s with attn := { s.attn with ringIn := s.attn.ringIn ++ [(s.now, (h, m))] } }

/-- A ring message arrives: its header is checked, then its epoch (Tables 9-3, 16-4).
DEDUCED (unsafe): log entry 58. -/
def ringArrive (s : State) (h : Nat) (m : RingMsg) : State :=
  match Tab.find? h s.attn.rings, m with
  | none, .close _ _ _ => s
  | none, .page _ _ _ => ringHold s h m
  | some g, .page hd _ _ =>
    if !ringHeaderOk g.par hd then ringFails s h g .invalid else if epochNewer s m.epoch then ringHold s h m else ringMsg s h g m
  | some g, .close _ _ _ => if epochNewer s m.epoch then ringHold s h m else ringMsg s h g m

/-- The messages held for a context's ring, or for every ring, taken up again in the order they came. -/
def ringReplay (s : State) (only : Option Nat) : State :=
  let mine (q : Nat × (Nat × RingMsg)) : Bool :=
    (Tab.find? q.2.1 s.attn.rings).isSome && (match only with | some h => q.2.1 == h | none => true) && !epochNewer s q.2.2.epoch
  let t := { s with attn := { s.attn with ringIn := s.attn.ringIn.filter (fun q => !mine q) } }
  (s.attn.ringIn.filter mine).foldl (fun s q => ringArrive s q.2.1 q.2.2) t

/-- Messages of a newer epoch held for MER_DRAIN are answered ST_RETRY_LATER and logged as 0x1E (Table 16-4). -/
def ringHoldExpiry (s : State) : State :=
  let old (q : Nat × (Nat × RingMsg)) : Bool := epochNewer s q.2.2.epoch && decide (q.1 + s.fld R.MER_CTL.DRAIN * 1000 ≤ s.now)
  let t := { s with attn := { s.attn with ringIn := s.attn.ringIn.filter (fun q => !old q) } }
  (s.attn.ringIn.filter old).foldl (fun s q =>
    let n : Nat := match q.2.2, Tab.find? q.2.1 s.attn.rings with
      | .page hd _ _, _ => fieldAt hd 0 2
      | .close o _ _, some g => g.par.node o
      | .close _ _ _, none => 0
    let s := (s.emit (.answer n q.2.1 .retryLater)).incFld R.MER_LAG_CNT.COUNT
    logModule s { entry0 s 0x1E .retryLater 0 with object := n }) t

/-- RING_PAGE (R159): `header` the 32 bytes of Table 9-4, `table` the code table record before it (empty where there is none), `batts` the
page's batts as they arrived, each with whether its packets carried poison. -/
def execRingPage (handle : Nat) (header table : List (BitVec 8)) (batts : List (List (BitVec 8) × Bool)) (time : Nat) (s : State) :
    Host.Outcome State Fault Refusal :=
  act s (ringArrive (atTime s time) handle (.page header table batts))

/-- RING_CLOSE (R161): from ring position `origin`. -/
def execRingClose (handle origin gen epoch time : Nat) (s : State) : Host.Outcome State Fault Refusal :=
  act s (ringArrive (atTime s time) handle (.close origin gen epoch))

/-- RING_ABORT_NOTICE (R163): the member frees its slots and completes with ST_ABORTED, writing no output; that status sends its own notice. -/
def execRingAbortNotice (handle : Nat) (s : State) : Host.Outcome State Fault Refusal :=
  act s (match Tab.find? handle s.attn.rings with
    | none => s
    | some g => ringFails s handle g .aborted)

/-! The RING op. -/

/-- The halves of a member's block: with BOTH_WAYS the lower ⌈P ÷ 2⌉ pages forward and the rest backward (R158). -/
def ringHalves (s : State) (p : RingParams) (x : Span) (lim gen : Nat) (pages : List Nat) : List (List RingSend) :=
  if p.bothWays then
    [ringHalf s p x lim gen 0 (pages.take (ceilDiv pages.length 2)), ringHalf s p x lim gen 1 (pages.drop (ceilDiv pages.length 2))]
  else [ringHalf s p x lim gen 0 pages]

/-- Do the slots and the bias tables lie in fixed regions of the function, the slots in T1, and are the credit counters the function's? -/
def ringPlaces (s : State) (f : Nat) (p : RingParams) : Bool :=
  let inFn (a m : Nat) : Bool := match regionAt s a m with | some g => g.fn == f && g.kind != .system && g.kind != .loading | none => false
  inFn p.slots ((if p.bothWays then 4 else 2) * p.slotBytes) && addrClass p.slots == .t1 && inFn p.bias (128 * p.kvHeads * p.hPerKv) &&
    (fnCounter s f p.creditFwd).isSome && (!p.bothWays || (fnCounter s f p.creditBwd).isSome)

/-- A RING op that does not start ends with a status (R157). -/
def ringFail (h : Nat) (p : RingParams) (s : State) (st : Status) : OpOut := .done (ringEnd s h p st) st 0

/-- The operation of a ring's queries. -/
def ringReqOf (p : RingParams) (f hw : Nat) (x : Span) (hs : List QHead) : AttnReq :=
  let sn := snapshot x p.tentative
  { fn := f, span := p.span, slot := p.slot, head := 0, heads := hs, sQk := p.sQk, posQ := p.posQ0, posBase := 0, posStride := 1,
    window := p.window, sinks := p.sinks, segStart := p.segStart, ranges := [(0, sn.1)], oBf16 := p.oBf16, dim := p.dim, epoch := p.epoch,
    limit := sn.1, gen := sn.2.1, tent := sn.2.2, ctx := hw }

/-- A ring begins: its queries are read, its own block is computed, and the pages of its halves go out as credits allow. `f1` are the batts
that faulted in the pages promoted for it. -/
def ringBegin (par : RingParams) (bad : List (Nat × Nat × Byte)) (k : OpCtx) (x : Span) (a : Loc) (pages : List Nat) (f1 : List (Nat × Nat))
    (halves : List RingSend) (t : State) : State :=
  let r := locRead (endWait t (.ctx k.h)) k.h a (4 * (par.queries * par.kvHeads * par.hPerKv * par.dim))
  let hs := ringHeads r.2 par (elemsOf r.1)
  let d := decodeInPlace par.span k.h bad (pages.filter (fun p => (r.2.pte par.span p).st = .t2)) r.2
  let g := ringOwn d.1 k.idx par x (ringReqOf par k.c.fn k.c.hw x hs.1) pages (f1 ++ d.2) halves
  let t := { g.1 with pg := { g.1.pg with ptes := r.2.pg.ptes } }
  let t := t.updCtx k.h (fun c => { c with sat := satTo (2 ^ 32 - 1) (c.sat + hs.2) })
  ringPump (pages.foldl (fun s p => touch s par.span p) t) k.h g.2

/-- A ring whose parameters and places are in order takes its snapshot, computes its own block and sends it. Pages of T3 are promoted first; a
page holed or archived ends it (R158); a half that a slot cannot hold is out of range (Table 9-2). -/
def ringGo (par : RingParams) (bad : List (Nat × Nat × Byte)) (k : OpCtx) (x : Span) (a : Loc) (s : State) : OpOut :=
  let lim := (snapshot x par.tentative).1
  let pages := ringBlock s x par lim
  let keys := pages.map (pageKey par.span)
  if pages.any (pageGone s par.span) then ringFail k.h par s .displaced
  else
    match promoteAll par.span k.h bad (pages.filter (fun p => (s.pte par.span p).st == .t3)) s with
    | none => .wait (waitFrame s (.ctx k.h) false keys)
    | some (t, f1) =>
      let halves := ringHalves t par x lim x.gen pages
      if halves.any (fun l => decide (par.slotBytes < halfSize l)) then ringFail k.h par s .invalid
      else .wait (ringBegin par bad k x a pages f1 halves.flatten t)

/-- The RING op. `par` is what its record in PROGRAM_AREA says: the record's layout is not given. A ring in progress sends what its credits
allow.
DESIGN CHOICE (safe): log entry 24. -/
def ringStart (par : RingParams) (bad : List (Nat × Nat × Byte)) (k : OpCtx) (s : State) : OpOut :=
  match Tab.find? k.h s.attn.rings with
  | some g => .wait (ringPump s k.h g)
  | none =>
    if !ringOk par then ringFail k.h par s .invalid
    else
      match spanIf s k.c.fn par.span (shapeOk par) with
      | .error st => ringFail k.h par s st
      | .ok x =>
        if !epochAccepted s par.epoch then ringFail k.h par s .epochStale
        else if par.both.any (nodeLost s) then ringFail k.h par s .displaced
        else if !ringPlaces s k.c.fn par then ringFail k.h par s .protection
        else
          match operand s k k.o.src0 k.anyTile 0 (4 * (par.queries * par.kvHeads * par.hPerKv * par.dim)) false with
          | none => ringFail k.h par s .protection
          | some a => ringGo par bad k x a s

/-- RING (R157): the ring parameters a record holds are the command's operands, with the storage errors it meets. -/
def execRing (handle : Nat) (members : List Nat) (position : Nat) (bothWays : Bool) (span slot kvHeads dim fmt ilog : Nat) (strided : Bool)
    (length queries hPerKv posQ0 sQk bias window sinks segStart : Nat) (oBf16 tentative : Bool) (epoch slots slotBytes creditFwd creditBwd : Nat)
    (errs : Errs) (s : State) : Host.Outcome State Fault Refusal :=
  act s (ringReplay (runOp s handle (fun o => o.opcode == 0x13) (readErrs errs (ringStart
    ⟨members, position, bothWays, span, slot, kvHeads, dim, fmtOfCode fmt, ilog, strided, length,
      queries, hPerKv, posQ0, BitVec.ofNat 32 sQk, bias, window, sinks, segStart, oBf16, tentative, epoch, slots, slotBytes, creditFwd,
      creditBwd⟩ errs.batts))) (some handle))

/-! REMOTE_TIMEOUT. -/

/-- REMOTE_TIMEOUT has passed for a request to a lender: the operation ends with ST_TIMEOUT and its other partials (R145). -/
def partialTimeout (s : State) (id : Nat) : State :=
  match waitOf s id with
  | none => s
  | some (key, w) =>
    if s.now < w.since + s.fld R.ATTN_CTL.REMOTE_TIMEOUT * 1000 then s else endAttn s key { w with status := w.status.worse .timeout }

/-- REMOTE_TIMEOUT has passed since a ring's last page or close message (Table 9-3). -/
def ringTimeout (s : State) (h : Nat) : State :=
  match Tab.find? h s.attn.rings with
  | none => s
  | some g =>
    if s.now < g.last + s.fld R.ATTN_CTL.REMOTE_TIMEOUT * 1000 then s
    else ringFails s h g .timeout

/-- REMOTE_TIMEOUT (R145, R149, R163) at fabric time `time`: `what` 0 for a remote request `key`, 1 for a newer record held by the merge
op `key` (handle × 65,536 + op), 2 for the ring of context `key`. -/
def execRemoteTimeout (what key time : Nat) (s : State) : Host.Outcome State Fault Refusal :=
  let t := atTime s time
  act s (if what = 0 then partialTimeout t key else if what = 1 then mergeTimeout t (key / 65536) (key % 65536) else ringTimeout t key)

end Sys2Proof.Machine
end

