-- ==== Sys2Proof/Machine/Collective.lean ====
section
/-! DEFINITION. Collectives in the routers (R165 to R167). -/

namespace Sys2Proof.Machine

open Sys2Proof

/-- The key of a collective at this node: GROUP_ID, collective id, epoch. -/
abbrev CollKey := Nat × Nat × Nat

/-- A collective at this node. -/
def coll? (s : State) (k : CollKey) : Option CollSt := (s.attn.colls.find? (fun p => p.1 == k)).map (·.2)

/-- A collective written. -/
def setColl (s : State) (k : CollKey) (c : CollSt) : State :=
  { s with attn := { s.attn with colls := s.attn.colls.filter (fun p => p.1 != k) ++ [(k, c)] } }

/-- A collective's combine entry freed. -/
def dropColl (s : State) (k : CollKey) : State := { s with attn := { s.attn with colls := s.attn.colls.filter (fun p => p.1 != k) } }

/-- A group of a loaded program, and this module's member index in it as it was at PROGRAM_LOAD (R165). -/
def progTree (s : State) (q : Program) (g : Nat) : Option (Group × Nat) :=
  match Tab.find? g q.groups, (parseProg (progImage s q)).bind (fun p => p.groups.find? (fun x => x.id == g)) with
  | some i, some x => some (x, i)
  | _, _ => none

/-- The tree of a collective: of the program whose op was issued here, or, before that, of a loaded program that names the group.
DEDUCED (unsafe): log entry 88. -/
def treeOf (s : State) (key : CollKey) : Option (Group × Nat) :=
  match ((coll? s key).bind (·.prog)).bind (fun n => Tab.find? n s.sch.programs) with
  | some q => progTree s q key.1
  | none => (s.sch.programs.filterMap (fun q => progTree s q.2 key.1)).head?

/-- The children of a member in the tree. -/
def kidsOf (g : Group) (i : Nat) : List Nat := (g.members.zipIdx.filter (fun m => m.1.2 = i ∧ m.2 ≠ g.root)).map (·.2)

/-- The node of a member. -/
def memberNode (g : Group) (i : Nat) : Nat := (g.members.getD i (0, 0)).1

/-- The members whose path to the root passes member i, i among them. -/
def subtree (g : Group) (i : Nat) : List Nat :=
  (List.range g.members.length).filter (fun j => reachesRoot g.members i g.members.length j)

/-- The node's tree neighbours. -/
def treeNodes (g : Group) (i : Nat) : List Nat :=
  (if i = g.root then [] else [memberNode g ((g.members.getD i (0, 0)).2)]) ++ (kidsOf g i).map (memberNode g)

/-- Two vectors added element by element; a poisoned input poisons the element (R166, R38). -/
def addVec (a b : List PElem) : List PElem := List.zipWith (fun x y => (fAdd x.1 y.1, x.2 || y.2)) a b

/-- Children's vectors in ascending member index. -/
def kidIns (c : Nat × List PElem) : List (Nat × List PElem) → List (Nat × List PElem)
  | [] => [c]
  | a :: r => if c.1 < a.1 then c :: a :: r else a :: kidIns c r

/-- node_sum (R166): poison is kept by value group. -/
def nodeSum (own : Option (List PElem)) (kids : List (Nat × List PElem)) (bf16 : Bool) : List PElem :=
  let ks := (kids.foldl (fun l c => kidIns c l) []).map (·.2)
  let acc : List PElem := match own, ks with
    | some o, l => l.foldl addVec o
    | none, a :: l => l.foldl addVec a
    | none, [] => []
  let ps := spread (acc.map (·.2))
  List.zipWith (fun (x : PElem) p => (if bf16 then fOfBf16 (bf16OfF x.1) else x.1, p)) acc ps

/-- The bytes of a collective's result: poison covers its value groups of 32 elements (R37, R39). -/
def collBytes (bf16 : Bool) (v : List PElem) : List PByte :=
  let ps := spread (v.map (·.2))
  if bf16 then bytesOf 2 (List.zipWith (fun (x : PElem) p => ((bf16OfF x.1).toNat, p)) v ps)
  else bytesOf 4 (List.zipWith (fun (x : PElem) p => (x.1.toNat, p)) v ps)

/-- A vector written at a waiting op's DST, and the op retired; a result with poison retires it with ST_POISON (R40). -/
def collDeliver (s : State) (w : Option (Nat × Nat)) (bf16 : Bool) (res : Option (List PElem)) (st : Status) : State :=
  match w with
  | none => s
  | some (h, idx) =>
    match res, opCtxOf s h idx with
    | some v, some k =>
      let st := st.worse (psnStatus (v.any (·.2)))
      let bs := collBytes bf16 v
      if k.o.dst = 0xFFFF then retire s h idx st 0
      else
        match operand s k k.o.dst k.anyTile 0 bs.length true with
        | none => retire s h idx (st.worse .protection) 0
        | some a => let r := locWrite s h a bs; retire r.1 h idx (st.worse (psnStatus r.2)) 0
    | _, _ => retire s h idx st 0

/-- The collective fails on this node: its op completes with the status, or, where it is not yet issued, will do so. -/
def collFail (s : State) (k : CollKey) (c : CollSt) (st : Status) : State :=
  match c.prog with
  | some _ => collDeliver (dropColl s k) c.who c.bf16 none st
  | none => setColl s k { c with failed := some st, own := none, kids := [] }

/-- A marker sent both up and down the tree; a lost node gets none (R316). -/
def collMark (s : State) (g : Group) (i : Nat) (k : CollKey) (st : Status) : State :=
  ((treeNodes g i).filter (fun n => !nodeLost s n)).foldl (fun s n => s.emit (.collMarker n k.1 k.2.1 k.2.2 st)) s

/-- The root's vector passed down and delivered here. -/
def collDown (s : State) (g : Group) (i : Nat) (k : CollKey) (c : CollSt) (v : List PElem) : State :=
  let s := (kidsOf g i).foldl (fun s j => s.emit (.coll (memberNode g j) k.1 k.2.1 k.2.2 c.kind c.bf16 true i v)) s
  collDeliver (dropColl s k) c.who c.bf16 (some v) .ok

/-- Are the contributions of these members in, and has nothing been sent up yet? -/
def collHas (c : CollSt) (need : List Nat) : Bool := need.all (fun j => c.kids.any (fun q => q.1 == j)) && !c.sentUp

/-- A broadcast at the node: the root's vector goes down and is delivered. -/
def collBroadcast (s : State) (g : Group) (i : Nat) (k : CollKey) (c : CollSt) : State :=
  if i = g.root then collDown s g i k c (c.own.getD [])
  else match c.kids with
    | q :: _ => collDeliver (dropColl s k) c.who c.bf16 (some q.2) .ok
    | [] => s

/-- The vectors that a gather has at member `i`: its own and its subtree's. -/
def collAll (i : Nat) (c : CollSt) : List (Nat × List PElem) := (match c.own with | some o => [(i, o)] | none => []) ++ c.kids

/-- A gather with every vector of the subtree in: the root delivers them in ascending member index, another member sends them up. -/
def collGather (s : State) (g : Group) (i up : Nat) (k : CollKey) (c : CollSt) : State :=
  let all := collAll i c
  if i = g.root then collDeliver (dropColl s k) c.who c.bf16 (some ((all.foldl (fun l q => kidIns q l) []).flatMap (·.2))) .ok
  else
    let s := all.foldl (fun s q => s.emit (.coll up k.1 k.2.1 k.2.2 3 c.bf16 false q.1 q.2)) s
    collDeliver (dropColl s k) c.who c.bf16 none (psnStatus ((c.own.getD []).any (·.2)))

/-- A sum with the vectors of every child in: the root delivers it, and passes it down in an ALL_SUM, another member sends it up. -/
def collSum (s : State) (g : Group) (i up : Nat) (k : CollKey) (c : CollSt) : State :=
  let v := nodeSum c.own c.kids c.bf16
  if i = g.root then
    if c.kind = 1 then collDown s g i k c v else collDeliver (dropColl s k) c.who c.bf16 (some v) .ok
  else
    let s := s.emit (.coll up k.1 k.2.1 k.2.2 c.kind c.bf16 false i v)
    if c.kind = 1 then setColl s k { c with sentUp := true } else collDeliver (dropColl s k) c.who c.bf16 none (psnStatus (v.any (·.2)))

/-- What the node does once its own contribution and every child's are in (R166).
DESIGN CHOICE (safe): log entry 60. -/
def collStep (s : State) (k : CollKey) : State :=
  match coll? s k, treeOf s k with
  | some c, some (g, i) =>
      let up : Nat := memberNode g ((g.members.getD i (0, 0)).2)
      let u := s.incFld R.COMB_COLL_CNT.COUNT c.kids.length
      if c.prog.isNone ∨ c.failed.isSome then s
      else if (treeNodes g i).any (nodeLost s) then collFail (collMark s g i k .displaced) k c .displaced
      else if c.kind = 2 then collBroadcast s g i k c
      else if c.kind = 3 then if collHas c ((subtree g i).filter (fun j => j != i)) then collGather u g i up k c else s
      else if collHas c (kidsOf g i) then collSum u g i up k c else s
  | _, _ => s

/-- A contribution that differs in kind, length or BF16 setting (R167): nothing is combined, markers go both ways. -/
def collMismatch (s : State) (g : Group) (i : Nat) (k : CollKey) (c : CollSt) : State :=
  collFail ((collMark s g i k .invalid).setFld R.COMB_ERR.COLL_MISMATCH 1) k c .invalid

/-! The step op. -/

/-- Collectives of a program's group in flight from this member. -/
def collInFlight (s : State) (prog g : Nat) : Nat := s.attn.colls.countP (fun p => p.1.1 == g && p.2.prog == some prog)

/-- What came before the op for its collective and failed there: a marker, or a contribution of an epoch no longer taken (R167). -/
def collFailed (s : State) (g id : Nat) : Option (CollKey × Status) :=
  s.attn.colls.findSome? (fun p => if p.1.1 == g && p.1.2.1 == id then p.2.failed.map (fun st => (p.1, st)) else none)

/-- The op's own contribution: of the root alone in a BROADCAST; none where its operand cannot be read. -/
def collOwn (s : State) (k : OpCtx) (root : Bool) (kind : Nat) : Option (Option (List PElem) × State) :=
  let n := vecBytes (k.o.varBit 2) k.o.arg1
  if k.o.src0 = 0xFFFF ∨ (kind = 2 ∧ !root) then some (none, s)
  else (operand s k k.o.src0 k.anyTile 0 n false).map (fun a => let r := locRead s k.h a n; (some (vecElems (k.o.varBit 2) r.1), r.2))

/-- A COLLECTIVE op issued, of any kind. -/
def collOp (kind : Nat) (k : OpCtx) (s : State) : OpOut :=
  let id := k.c.stepCtr * 65536 + k.idx
  let key : CollKey := (k.o.arg0, id, s.epoch)
  let bf := k.o.varBit 2
  let n := k.o.arg1
  if s.attn.colls.any (fun p => p.2.who == some (k.h, k.idx)) then .wait s
  else
    match progTree s k.q k.o.arg0, collFailed s k.o.arg0 id with
    | none, _ => .done s .invalid 0
    | some _, some f => .done (dropColl s f.1) f.2 0
    | some (g, i), none =>
      if g.depth ≤ collInFlight s k.c.program g.id then .wait s
      else
        match collOwn s k (i == g.root) kind with
        | none => .done s .protection 0
        | some (own, s) =>
          match coll? s key with
          | some c =>
            let c := { c with who := some (k.h, k.idx), prog := some k.c.program }
            if c.kind ≠ kind ∨ c.count ≠ n ∨ c.bf16 ≠ bf then .wait (collMismatch (setColl s key c) g i key c)
            else .wait (collStep (setColl s key { c with own := own }) key)
          | none => .wait (collStep (setColl s key ⟨kind, n, bf, s.epoch, own, [], some (k.h, k.idx), some k.c.program, none, false, s.now⟩) key)

/-- A COLLECTIVE op of a kind. -/
def runColl (s : State) (h kind : Nat) (errs : Errs) : State :=
  runOp s h (fun o => o.opcode == 0x18 && o.var % 4 == kind) (readErrs errs (collOp kind))

/-- COLLECTIVE_SUM (R165). -/
def execCollectiveSum (handle : Nat) (errs : Errs) (s : State) : Host.Outcome State Fault Refusal := act s (runColl s handle 0 errs)

/-- ALL_SUM (R165). -/
def execAllSum (handle : Nat) (errs : Errs) (s : State) : Host.Outcome State Fault Refusal := act s (runColl s handle 1 errs)

/-- COLLECTIVE_BROADCAST (R165). -/
def execCollectiveBroadcast (handle : Nat) (errs : Errs) (s : State) : Host.Outcome State Fault Refusal := act s (runColl s handle 2 errs)

/-- COLLECTIVE_GATHER (R165). -/
def execCollectiveGather (handle : Nat) (errs : Errs) (s : State) : Host.Outcome State Fault Refusal := act s (runColl s handle 3 errs)

/-! Packets and timeouts. -/

/-- A collective of which nothing has come yet. -/
def newColl (s : State) (kind count : Nat) (bf16 : Bool) (epoch : Nat) : CollSt := ⟨kind, count, bf16, epoch, none, [], none, none, none, false, s.now⟩

/-- A contribution of member `m` of the tree, or (down) the root's vector, arrives: one that differs in kind, length or BF16 setting from what
came before is a mismatch (R167); one of a newer epoch is held (R314).
DEDUCED (unsafe): log entry 88. -/
def collArrive (s : State) (g : Group) (i : Nat) (key : CollKey) (kind count : Nat) (bf16 down : Bool) (m : Nat)
    (v : List PElem) : State :=
  let c := (coll? s key).getD (newColl s kind count bf16 key.2.2)
  let kept := setColl s key { c with kids := c.kids.filter (fun q => q.1 != m) ++ [(m, v)] }
  if c.failed.isSome then s
  else if c.kind ≠ kind ∨ c.count ≠ count ∨ c.bf16 ≠ bf16 then collMismatch s g i key c
  else if epochNewer s key.2.2 then kept
  else if down then
    let s := (kidsOf g i).foldl (fun s j => s.emit (.coll (memberNode g j) key.1 key.2.1 key.2.2 kind bf16 true m v)) s
    if c.prog.isSome then collDeliver (dropColl s key) c.who bf16 (some v) .ok
    else setColl s key { c with kids := [(m, v)] }
  else collStep kept key

/-- A contribution of an epoch no longer taken (Table 16-4): it is answered, and the op of every member ends with ST_EPOCH_STALE, also one
not yet issued (R167). -/
def collStale (s : State) (g : Group) (i : Nat) (key : CollKey) (c : CollSt) (member : Nat) : State :=
  let s := if key.2.2 == s.fld R.MER_CUR.PREV then s.incFld R.MER_STALE_CNT.COUNT else s
  let s := (collMark s g i key .epochStale).emit (.answer (memberNode g member) key.2.1 .epochStale)
  match s.attn.colls.find? (fun p => p.1.1 == key.1 && p.1.2.1 == key.2.1) with
  | some p => collFail s p.1 p.2 .epochStale
  | none => collFail s key c .epochStale

/-- COLL arrives. -/
def doColl (group id kind count : Nat) (bf16 : Bool) (epoch member : Nat) (down : Bool) (elems : List (BitVec 32 × Bool)) (t : Nat)
    (s : State) : State :=
  let s := atTime s t
  let key : CollKey := (group, id, epoch)
  match treeOf s key with
  | none => s
  | some (g, i) =>
    if !epochNewer s epoch ∧ !epochAccepted s epoch then collStale s g i key (newColl s kind count bf16 epoch) member
    else collArrive s g i key kind count bf16 down member elems

/-- COLL (R166, R167): GROUP_ID, collective id, kind, element count, BF16, epoch, the member the vector is of, whether it comes down the
tree, and the elements with their poison. -/
def execColl (group id kind count : Nat) (bf16 : Bool) (epoch member : Nat) (down : Bool) (elems : List (BitVec 32 × Bool))
    (time : Nat) (s : State) : Host.Outcome State Fault Refusal :=
  act s (doColl group id kind count bf16 epoch member down elems time s)

/-- Contributions of a newer epoch are held (R314); those held for MER_DRAIN are answered ST_RETRY_LATER, fault 0x1E. -/
def collHoldExpiry (s : State) : State :=
  let old (p : CollKey × CollSt) : Bool :=
    epochNewer s p.1.2.2 && p.2.prog.isNone && p.2.failed.isNone && decide (p.2.since + s.fld R.MER_CTL.DRAIN * 1000 ≤ s.now)
  (s.attn.colls.filter old).foldl (fun s p =>
    match treeOf s p.1 with
    | some (g, _) =>
      let s := p.2.kids.foldl (fun s q => (s.emit (.answer (memberNode g q.1) p.1.2.1 .retryLater)).incFld R.MER_LAG_CNT.COUNT) s
      dropColl (logModule s { entry0 s 0x1E .retryLater 0 with object := p.1.1 }) p.1
    | none => dropColl s p.1) s

/-- What the application of a map does to collectives: results held for the new epoch go on down, and one whose tree has lost a
neighbour fails (R314, R316).
DEDUCED (unsafe): log entry 88. -/
def collMapApplied (s : State) : State :=
  s.attn.colls.foldl (fun s p =>
    match treeOf s p.1 with
    | none => s
    | some (g, i) =>
      let s := if p.2.kind = 2 && p.1.2.2 == s.epoch && p.2.prog.isNone && p.2.failed.isNone then
          p.2.kids.foldl (fun s q => (kidsOf g i).foldl (fun s j =>
            s.emit (.coll (memberNode g j) p.1.1 p.1.2.1 p.1.2.2 2 p.2.bf16 true q.1 q.2)) s) s
        else s
      collStep s p.1) s

/-- A node has waited COLL_TIMEOUT for a contribution. -/
def doCollTimeout (group id epoch t : Nat) (s : State) : State :=
  let s := atTime s t
  let key : CollKey := (group, id, epoch)
  match coll? s key, treeOf s key with
  | some c, some (g, i) =>
      if c.failed.isSome ∨ s.now < c.since + s.fld R.COMB_CTL.COLL_TIMEOUT * 1000 then s
      else
        let f := ((c.who.bind (fun w => s.ctx? w.1)).map (·.fn)).getD 0
        let s := ((collMark s g i key .timeout).incFld R.COMB_TIMEOUT_CNT.COUNT).setFld R.COMB_ERR.COLL_TIMEOUT 1
        let e : LogEntry := { entry0 s 0x19 .timeout f with context := (c.who.map (·.1)).getD (2 ^ 19 - 1), object := group }
        let s := if c.who.isSome then logFn s f e else logModule s e
        collFail s key c .timeout
  | _, _ => s

/-- COLL_TIMEOUT (R167, fault 0x19). -/
def execCollTimeout (group id epoch time : Nat) (s : State) : Host.Outcome State Fault Refusal :=
  act s (doCollTimeout group id epoch time s)

/-- A marker arrives from a tree neighbour: it goes on to the others, and this member's op completes. -/
def doCollMarker (group id epoch source st : Nat) (s : State) : State :=
  let key : CollKey := (group, id, epoch)
  match treeOf s key with
  | none => s
  | some (g, i) =>
    let x := statusOfNat st
    let c := (coll? s key).getD (newColl s 0 0 false epoch)
    if c.failed.isSome then s
    else
      let s := ((treeNodes g i).filter (fun n => n != source)).foldl (fun s n => s.emit (.collMarker n group id epoch x)) s
      collFail s key c x

/-- COLL_TIMEOUT_MARKER (R167): `st` is the value of the status the marker stands for (timeout, mismatch or epoch). -/
def execCollTimeoutMarker (group id epoch source st : Nat) (s : State) : Host.Outcome State Fault Refusal :=
  act s (doCollMarker group id epoch source st s)

end Sys2Proof.Machine
end

