-- ==== Sys2Proof/Machine/RouteOps.lean ====
section
/-! DEFINITION. Packets on the ports: headers as bytes (R244), classes (R229, R280), routing (R234 to R238), output queues, time gates
(R283), token buckets (R281), the injection ceiling (R303) and the sending of flits (R223, R224, R227, R228). -/

namespace Sys2Proof.Machine

open Sys2Proof

/-! Packets and control flits as bytes. -/

/-- LENGTH of a packet. -/
def Pkt.len (p : Pkt) : Nat := 32 + p.data.length

/-- The FLAGS byte of Table 13-2. -/
def Pkt.flags (p : Pkt) : Nat :=
  bit p.combine + 2 * bit p.poison + 4 * bit p.trunc + 8 * bit p.detoured + 16 * (p.detours % 4) + 64 * bit p.epLayer + 128 * bit p.fence

/-- A packet's bytes: header (Table 13-2), then payload. -/
def Pkt.bytes (p : Pkt) : List Byte :=
  leBytes 1 p.ty ++ leBytes 1 p.flags ++ leBytes 2 p.len ++ leBytes 2 p.dst ++ leBytes 2 p.src ++ leBytes 2 p.epoch ++
    leBytes 1 p.contrib ++ leBytes 1 p.status ++ leBytes 4 p.ep ++ leBytes 3 p.psn ++ leBytes 1 0 ++ leBytes 4 p.key ++
    leBytes 8 p.addr ++ p.data

/-- The packet that bytes in a stream are: the router reads the header as it stands; the target checks it (R244). -/
def pktOf (b : List Byte) : Pkt :=
  let f (o n : Nat) := fieldAt b o n
  let fl := f 1 1
  { ty := f 0 1, combine := bitAt fl 0, poison := bitAt fl 1, trunc := bitAt fl 2, detoured := bitAt fl 3, detours := bits fl 5 4,
    epLayer := bitAt fl 6, fence := bitAt fl 7, dst := f 4 2, src := f 6 2, epoch := f 8 2, contrib := f 10 1, status := f 11 1,
    ep := f 12 4, psn := f 16 3, key := f 20 4, addr := f 24 8, data := b.drop 32 }

/-- One bit of the CRC-32 of IEEE 802.3, taken least significant bit first. -/
def crc32Bit (c : Nat) : Nat := if c % 2 = 1 then Nat.xor (c / 2) 0xEDB88320 else c / 2

/-- One byte of the CRC-32. -/
def crc32Byte (c : Nat) (b : Byte) : Nat :=
  crc32Bit (crc32Bit (crc32Bit (crc32Bit (crc32Bit (crc32Bit (crc32Bit (crc32Bit (Nat.xor c b.toNat))))))))

/-- The CRC-32 of IEEE 802.3 of bytes (R225). -/
def crc32 (bs : List Byte) : Nat := Nat.xor (bs.foldl crc32Byte 0xFFFFFFFF) 0xFFFFFFFF

/-- The 256 bytes of a control flit with a TYPE and a body (R225): the CRC most significant byte first. -/
def controlFlit (ty : Nat) (body : List Byte) : List Byte :=
  let b := leBytes 1 ty ++ padTo 251 body
  b ++ (leBytes 4 (crc32 b)).reverse

/-- Is a packet type of the response class (R229)? A reserved TYPE is of the request class, like all other packets. -/
def isResponse (ty : Nat) : Bool := decide (0x20 ≤ ty) && decide (ty ≤ 0x25)

/-- The traffic class that SHP_CLASS_MAP gives a TYPE (R280); a reserved TYPE, which the map does not name, takes class 0.
DESIGN CHOICE (unsafe): log entry 76. -/
def classOf (s : State) (ty : Nat) : Nat :=
  let m : List Fld := [R.SHP_CLASS_MAP.CLASS_0, R.SHP_CLASS_MAP.CLASS_1, R.SHP_CLASS_MAP.CLASS_2, R.SHP_CLASS_MAP.CLASS_3,
    R.SHP_CLASS_MAP.CLASS_4, R.SHP_CLASS_MAP.CLASS_5, R.SHP_CLASS_MAP.CLASS_6, R.SHP_CLASS_MAP.CLASS_7, R.SHP_CLASS_MAP.CLASS_8,
    R.SHP_CLASS_MAP.CLASS_9, R.SHP_CLASS_MAP.CLASS_10, R.SHP_CLASS_MAP.CLASS_11, R.SHP_CLASS_MAP.CLASS_12, R.SHP_CLASS_MAP.CLASS_13,
    R.SHP_CLASS_MAP.CLASS_14, R.SHP_CLASS_MAP.CLASS_15]
  let i := if 1 ≤ ty ∧ ty ≤ 10 then some (ty - 1) else if 0x20 ≤ ty ∧ ty ≤ 0x25 then some (10 + ty - 0x20) else none
  match i with
  | some i => (match m[i]? with | some f => s.fld f | none => 0)
  | none => 0

/-- This module's node. -/
def State.node (s : State) : Nat := s.fld R.ROUTE_NODE.NODE

/-! Ports. -/

/-- A port whose link has never trained. -/
def port0 : Port :=
  { txSeq := 0, unacked := [], credits := List.replicate 8 0, lastCred := List.replicate 8 0, rr := 7, cur := [], deficits := [], txFlits := 0,
    txWord := 0, told := (4095, false), toldFreed := List.replicate 8 0, nakDue := false, rxSeq := 0, rxAny := false, nak := false, drop := 0,
    freed := List.replicate 8 0, skip := [], coming := [], words := 0, lastFlit := 0, hello := none, fails := [], retrains := [], halted := [],
    reform := false, syncTx := 0, syncRx := 0, peerHops := 63, peerLocked := false, since := 0 }

/-- A port's link. -/
def State.port (s : State) (p : Nat) : Port := Tab.get port0 p s.fab.ports

/-- A port's link written. -/
def State.setPort (s : State) (p : Nat) (x : Port) : State := { s with fab := { s.fab with ports := Tab.put port0 p x s.fab.ports } }

/-- A port's link changed. -/
def State.updPort (s : State) (p : Nat) (f : Port → Port) : State := s.setPort p (f (s.port p))

/-- Is a port up? -/
def portUp (s : State) (p : Nat) : Bool := s.fld R.PORT_STAT.STATE p == 2

/-- Is a port halted or reforming: in service, and waited for (R230, R237)? -/
def portHalted (s : State) (p : Nat) : Bool := s.fld R.PORT_STAT.STATE p == 3

/-- Credits held by a port for a VC. -/
def Port.credit (x : Port) (v : Nat) : Nat := x.credits.getD v 0

/-! The torus (Tables 12-9, 12-10). -/

/-- The size of dimension d. -/
def dimSize (s : State) (d : Nat) : Nat :=
  (if d = 0 then s.fld R.ROUTE_CTL.DIM_X else if d = 1 then s.fld R.ROUTE_CTL.DIM_Y else s.fld R.ROUTE_CTL.DIM_Z) + 1

/-- The coordinate of a node in dimension d. -/
def coord (n d : Nat) : Nat := n / 32 ^ d % 32

/-- The ports of a direction (Table 12-10). -/
def dirPorts (d : Nat) (plus : Bool) : List Nat :=
  match d, plus with
  | 0, true => [0, 1, 2] | 0, false => [3, 4, 5]
  | 1, true => [8, 9, 10] | 1, false => [11, 12, 13]
  | _, true => [6, 14] | _, false => [7, 15]

/-- The dimension and direction a port leads in. -/
def portDir (p : Nat) : Nat × Bool :=
  if p < 3 then (0, true) else if p < 6 then (0, false) else if p = 6 ∨ p = 14 then (2, true)
  else if p = 7 ∨ p = 15 then (2, false) else if p < 11 then (1, true) else (1, false)

/-- Hops to a node in dimension d going +. -/
def hopsPlus (s : State) (dst d : Nat) : Nat :=
  (coord dst d + dimSize s d - coord s.node d % dimSize s d) % dimSize s d

/-- The directions of dimension d that lead a packet on by the shorter way, both when the offset is half the dimension (R235). -/
def shortWays (s : State) (dst d : Nat) : List Bool :=
  let a := hopsPlus s dst d
  let b := dimSize s d - a
  if a = 0 then [] else if a < b then [true] else if b < a then [false] else [true, false]

/-- Where a packet goes next. -/
inductive Hop where
  /-- to this module, by the local port -/
  | here
  /-- out of a port on a VC; moved to an escape VC there; taking a detour hop -/
  | out (port vc : Nat) (escaped detour : Bool)
  /-- nowhere (R238) -/
  | noRoute
  deriving DecidableEq, Repr

/-- The port and VC with the most credits; ties go to the lower port, then the lower VC (R235, R236). -/
def bestOf (s : State) : List (Nat × Nat) → Option (Nat × Nat)
  | [] => none
  | a :: r =>
    match bestOf s r with
    | none => some a
    | some b =>
      let ca := (s.port a.1).credit a.2
      let cb := (s.port b.1).credit b.2
      if cb < ca ∨ (ca = cb ∧ (a.1 < b.1 ∨ (a.1 = b.1 ∧ a.2 ≤ b.2))) then some a else some b

/-- The first VC of a packet's class. -/
def baseVc (p : Pkt) : Nat := if isResponse p.ty then 4 else 0

/-- The routing entry of a node in the group topology: PORTS, if VALID (R236). -/
def routeEntry (s : State) (dst : Nat) : Option Nat :=
  if dst / 128 % 256 ≠ s.node / 128 % 256 then
    (if s.flag R.ROUTE_GROUP.VALID (dst / 128 % 256) then some (s.fld R.ROUTE_GROUP.PORTS (dst / 128 % 256)) else none)
  else (if s.flag R.ROUTE_MEMBER.VALID (dst % 128) then some (s.fld R.ROUTE_MEMBER.PORTS (dst % 128)) else none)

/-- The ports of a mask, ascending. -/
def maskPorts (m : Nat) : List Nat := (List.range 16).filter (fun p => bitAt m p)

/-- The ports of a list that are in service. A halted port is: a packet bound for one waits for it (R237). -/
def usable (s : State) (ps : List Nat) : List Nat := ps.filter (fun p => portUp s p || portHalted s p)

/-- The escape route (R235): dimension, direction, ports. -/
def escapeDir (s : State) (dst : Nat) : Option (Nat × Bool) :=
  ([0, 1, 2].find? (fun d => hopsPlus s dst d != 0)).map (fun d => (d, decide (hopsPlus s dst d ≤ dimSize s d - hopsPlus s dst d)))

/-- Has a packet that arrived on escape VC v of port q crossed the dateline of the dimension it moves on in (R235)?
DEDUCED (unsafe): log entry 75. -/
def crossed (s : State) (from? : Option (Nat × Nat)) (d : Nat) : Bool :=
  match from? with
  | none => false
  | some (q, v) =>
    let (e, minus) := portDir q
    -- it arrived on the peer's side of the link: a packet going + arrives on a − port
    decide (v % 4 < 2) && e == d && (v % 4 == 1 || coord s.node d == (if minus then dimSize s d - 1 else 0))

/-- The next hop in the torus (R235, R237, R238). `from?` is the port and VC a transit packet arrived on.
DEDUCED (unsafe): log entry 75. -/
def routeTorus (s : State) (p : Pkt) (from? : Option (Nat × Nat)) : Hop :=
  let b := baseVc p
  let onEscape := !s.flag R.ROUTE_CTL.ADAPTIVE || (match from? with | some (_, v) => decide (v % 4 < 2) | none => false)
  let cands := usable s ([0, 1, 2].flatMap (fun d => (shortWays s p.dst d).flatMap (dirPorts d)))
  let free := (cands.flatMap (fun q => [(q, b + 2), (q, b + 3)])).filter (fun a => decide (0 < (s.port a.1).credit a.2))
  match (if onEscape then none else bestOf s free) with
  | some (q, v) => .out q v false false
  | none =>
    match escapeDir s p.dst with
    | none => .noRoute
    | some (d, plus) =>
      let v := b + (if crossed s from? d then 1 else 0)
      match bestOf s ((usable s (dirPorts d plus)).map (fun q => (q, v))) with
      | some (q, v) => .out q v (!onEscape) false
      | none =>
        match (if onEscape then none else bestOf s (cands.map (fun q => (q, b + 2)))) with
        | some (q, v) => .out q v false false
        | none =>
          match routeEntry s p.dst with
          | none => .noRoute
          | some m =>
            if 2 ≤ p.detours then .noRoute
            else match bestOf s ((usable s (maskPorts m)).map (fun q => (q, b))) with
              | some (q, v) => .out q v false true
              | none => .noRoute

/-- The next hop of a packet (R234 to R238). A packet of a lone module to another node has no route.
DEDUCED (unsafe): log entry 75. -/
def route (s : State) (p : Pkt) (from? : Option (Nat × Nat)) : Hop :=
  if p.dst = s.node then .here
  else
    match s.fld R.ROUTE_CTL.TOPOLOGY with
    | 1 => routeTorus s p from?
    | 2 =>
      if from?.isSome then .noRoute
      else match routeEntry s p.dst with
        | none => .noRoute
        | some m => (match bestOf s ((usable s (maskPorts m)).map (fun q => (q, baseVc p))) with
          | some (q, v) => .out q v false false
          | none => .noRoute)
    | _ => .noRoute

/-! Time gates (R283). -/

/-- The gate lists: entry e of list l of port p. -/
def gateEntry (s : State) (p l e : Nat) : Nat := s.fld R.SHP_GCL.ENTRY p (l * 256 + e)

/-- Entries in a port's list l. -/
def gateLen (s : State) (p l : Nat) : Nat := (if l = 0 then s.fld R.SHP_GATE_CTL.LEN_A p else s.fld R.SHP_GATE_CTL.LEN_B p) + 1

/-- A list: (open classes, length in ns) of each entry. -/
def gateList (s : State) (p l : Nat) : List (Nat × Nat) :=
  (List.range (gateLen s p l)).map (fun e => (gateEntry s p l e % 256, gateEntry s p l e / 256))

/-- The cycle of a list. -/
def gateCycle (l : List (Nat × Nat)) : Nat := (l.map (·.2)).foldl (· + ·) 0

/-- From a phase on, how long a class stays open. -/
def openFor (c : Nat) : List (Nat × Nat) → Nat → Nat
  | [], _ => 0
  | (o, n) :: r, ph =>
    if n ≤ ph then openFor c r (ph - n)
    else if bitAt o c then (n - ph) + openFor c r 0 else 0

/-- The runs of open entries of a class, in ns: the longest over a list taken twice. -/
def longestRun (c : Nat) (l : List (Nat × Nat)) : Nat :=
  ((l ++ l).foldl (fun (a : Nat × Nat) e => if bitAt e.1 c then (a.1 + e.2, max a.2 (a.1 + e.2)) else (0, a.2)) (0, 0)).2

/-- Is a list one that may govern a port (R283)?
DEDUCED (unsafe): log entry 83. -/
def gateListOk (l : List (Nat × Nat)) : Bool :=
  decide (1000 ≤ gateCycle l) && decide (gateCycle l ≤ 10000000) && (List.range 8).all (fun c => decide (185 ≤ longestRun c l)) &&
    l.all (fun e => decide (1 ≤ e.2) && decide (e.2 ≤ 10000000))

/-- A flit's time on a port, in 1/100 ns (R223). -/
def flitTime (s : State) (p : Nat) : Nat :=
  match s.fld R.PORT_STAT.WIDTH p with | 2 => 256 | 1 => 512 | _ => 1024

/-- May a packet of a class and length start on a port now? -/
def gateOpen (s : State) (p c len : Nat) : Bool :=
  !s.flag R.SHP_GATE_CTL.GATE_EN p ||
    (let l := gateList s p (s.fld R.SHP_GATE_CTL.ACTIVE p)
     let cy := max 1 (gateCycle l)
     let ph := (s.now + cy - s.fld R.SHP_GATE_BASE.OFFSET p % cy) % cy
     decide ((ceilDiv len 256 + 1) * flitTime s p ≤ 100 * openFor c (l ++ l ++ l) ph))

/-! Output queues and flits (R224, R227, R228, R280). -/

/-- The item at the head of an output queue. -/
def headItem (s : State) (q : Nat) : Option QItem := (s.queue? q).bind (fun x => x.waiting.head?)

/-- A class's STRICT bit and WEIGHT on a port. -/
def clsFld (f : Fld) (c : Nat) : Fld := { f with lo := f.lo + 8 * c, rst := if f.wd = 1 then (if 6 ≤ c then 1 else 0) else f.rst }

/-- Classes whose head packet may start on a VC of a port. -/
def readyClasses (s : State) (p v : Nat) : List Nat :=
  (List.range 8).filter (fun c => match headItem s (outQueue p v c) with | some i => gateOpen s p c i.bytes.length | none => false)

/-- Deficit round-robin among the classes that share (R280): a class with a deficit that covers its packet, the deficits topped up by a
quantum until one has; `k` bounds the rounds.
DESIGN CHOICE (unsafe): log entry 76. -/
def drrPick (s : State) (p v : Nat) (cs : List Nat) : Nat → List (Nat × Nat) → Option (Nat × List (Nat × Nat))
  | 0, _ => none
  | k + 1, d =>
    let need (c : Nat) : Nat := match headItem s (outQueue p v c) with | some i => i.bytes.length | none => 0
    match cs.find? (fun c => decide (need c ≤ Tab.get 0 (v * 8 + c) d)) with
    | some c => some (c, Tab.put 0 (v * 8 + c) (Tab.get 0 (v * 8 + c) d - need c) d)
    | none => drrPick s p v cs k (cs.foldl (fun d c =>
        Tab.put 0 (v * 8 + c) (Tab.get 0 (v * 8 + c) d + s.fld (clsFld R.SHP_PORT_CLS.WEIGHT_0 c) p * 256) d) d)

/-- The next packet to start on a VC of a port: its class. -/
def nextClass (s : State) (p v : Nat) : Option (Nat × State) :=
  let cs := readyClasses s p v
  let strict := cs.filter (fun c => s.fld (clsFld R.SHP_PORT_CLS.STRICT_0 c) p == 1)
  match strict.getLast? with
  | some c => some (c, s)
  | none =>
    if cs.isEmpty then none
    else
      match drrPick s p v cs 18 (s.port p).deficits with
      | some (c, d) => some (c, s.updPort p (fun x => { x with deficits := d }))
      | none => none

/-- Stream bytes of a VC gathered for one flit, packets following one another: `need` bytes at most; `k` bounds the packets. -/
def gather (p v : Nat) : Nat → Nat → State → List Byte → List (Nat × Nat) → List Byte × List (Nat × Nat) × State
  | 0, _, s, acc, ends => (acc, ends, s)
  | k + 1, need, s, acc, ends =>
    if need = 0 then (acc, ends, s)
    else
      let got : Option ((Nat × Nat) × State) := match Tab.find? v (s.port p).cur with
        | some a => some (a, s)
        | none => (nextClass s p v).map (fun r => ((r.1, 0), r.2))
      match got with
      | none => (acc, ends, s)
      | some ((c, sent), s) =>
        let q := outQueue p v c
        match s.queue? q, headItem s q with
        | some x, some i =>
          let part := (i.bytes.drop sent).take need
          if sent + part.length < i.bytes.length then
            (acc ++ part, ends, s.updPort p (fun y => { y with cur := Tab.ins v (c, sent + part.length) y.cur }))
          else
            let s := (s.setQueue q (x.take s.now)).updPort p (fun y => { y with cur := Tab.del v y.cur })
            gather p v k (need - part.length) s (acc ++ part) (ends ++ [(q, i.start + i.size)])
        | _, _ => (acc, ends, s.updPort p (fun y => { y with cur := Tab.del v y.cur }))

/-- One data flit of a VC: FILL where fewer than 256 bytes are ready. -/
def flitOf (s : State) (p v : Nat) : Option (TxFlit × State) :=
  let a := gather p v 257 256 s [] []
  let (b, e, t) := if a.1.length = 255 then gather p v 257 254 s [] [] else a
  if b.isEmpty then none
  else if b.length = 256 then some (⟨v, false, b, e⟩, t)
  else some (⟨v, true, padTo 254 b ++ leBytes 2 b.length, e⟩, t)

/-- One bit of the CRC-8 with polynomial 0x07 (R226). -/
def crc8Bit (c : Nat) (b : Bool) : Nat :=
  let top := bitAt c 7 != b
  if top then Nat.xor (c * 2 % 256) 0x07 else c * 2 % 256

/-- The CRC-8 of bits [87:0] of a link word, in ascending order. -/
def crc8 (w : Nat) : Nat := (List.range 88).foldl (fun c i => crc8Bit c (bitAt w i)) 0

/-- What a port's link words say of data flits: the last one accepted in order, and whether there has been one (Table 12-4). -/
def Port.ack (x : Port) : Nat × Bool := ((x.rxSeq + 4095) % 4096, x.rxAny)

/-- Link word k of a port (Table 12-4). -/
def linkWordOf (x : Port) (k : Nat) : Nat :=
  let w := x.ack.1 + 2 ^ 12 * bit x.ack.2 + 2 ^ 13 * bit x.nakDue + 2 ^ 16 * (x.freed.getD (2 * k % 8) 0 % 2 ^ 16) +
    2 ^ 32 * (x.freed.getD ((2 * k + 1) % 8) 0 % 2 ^ 16)
  w + 2 ^ 88 * crc8 w

/-- A link word begun: what it tells is told. -/
def Port.beginWord (x : Port) (k : Nat) : Port :=
  let v := 2 * k % 8
  { x with txWord := linkWordOf x k, nakDue := false, told := x.ack
           toldFreed := (x.toldFreed.set v (x.freed.getD v 0)).set (v + 1) (x.freed.getD (v + 1) 0) }

/-- The three SB bits of the next flit (R226), and the port after it. -/
def Port.nextSb (x : Port) : Nat × Port :=
  let j := x.txFlits % 32
  let x := if j = 0 then x.beginWord (x.txFlits / 32) else x
  (x.txWord / 2 ^ (3 * j) % 8, { x with txFlits := (x.txFlits + 1) % 128 })

/-- A flit sent on a port with its SB bits, which count from the end of training. -/
def sendFlit (s : State) (p : Nat) (control : Bool) (vc : Nat) (fill : Bool) (bytes : List Byte) : State :=
  if s.fld R.PORT_STAT.STATE p = 1 then s.emit (.flit p control vc fill 0 bytes)
  else let r := (s.port p).nextSb; (s.setPort p r.2).emit (.flit p control vc fill r.1 bytes)

/-- A data flit sent on a port. -/
def emitFlit (s : State) (p : Nat) (f : TxFlit) : State := sendFlit s p false f.vc f.fill f.bytes

/-- Has a port something that its link words have not told, or a word begun? -/
def Port.wordDue (x : Port) : Bool := x.txFlits % 32 != 0 || x.nakDue || x.told != x.ack || x.toldFreed != x.freed

/-- IDLE flits of a port with nothing else to send (R223): the SB bits of each; `k` bounds them. -/
def idleGo : Nat → Port → List Nat → Port × List Nat
  | 0, x, l => (x, l)
  | k + 1, x, l => if x.wordDue then let r := x.nextSb; idleGo k r.2 (l ++ [r.1]) else (x, l)

/-- A port that is up sends IDLE flits until its link words have told all there is to tell. IDLE flits beyond that tell nothing new, and are not
written out.
DESIGN CHOICE (unsafe): log entry 145. -/
def sendIdles (s : State) (p : Nat) : State :=
  let x := s.port p
  if !portUp s p || !x.wordDue then s else let r := idleGo 192 x []; (s.setPort p r.1).emit (.idles p r.2)

/-- Flits of a port sent one at a time, round-robin over the VCs that have one ready and a credit, at most 2,048 unacknowledged (R227, R228);
`k` bounds them. -/
def pumpPortGo (p : Nat) : Nat → State → State
  | 0, s => s
  | k + 1, s =>
    let x := s.port p
    if !portUp s p || decide (2048 ≤ x.unacked.length) then s
    else
      let vs := ((List.range 8).map (fun i => (x.rr + 1 + i) % 8)).filter (fun v => decide (0 < x.credit v))
      match vs.findSome? (fun v => flitOf s p v) with
      | none => s
      | some (f, s) =>
        let s := s.updPort p (fun y => { y with rr := f.vc, unacked := y.unacked ++ [f], txSeq := (y.txSeq + 1) % 4096,
                                                credits := y.credits.set f.vc (y.credit f.vc - 1) })
        pumpPortGo p k (emitFlit s p f)

/-- Flits of a port sent as credits, window and gates allow.
DEDUCED (unsafe): log entry 74. -/
def pumpPort (s : State) (p : Nat) : State := pumpPortGo p 2048 s

/-! Combining in the router (R168, R267, R268). -/

/-- An item of a queue replaced by another: the items behind it move along the stream. -/
def Queue.replaceItem (x : Queue) (st : Nat) (bs : List Byte) (contrib : Nat) : Queue :=
  match x.items.find? (fun i => i.start == st) with
  | none => x
  | some i =>
    let move (n : Nat) : Nat := n - i.size + bs.length
    { x with items := x.items.map (fun j => if j.start = st then { j with bytes := bs, size := bs.length, contrib := contrib }
                                            else if st < j.start then { j with start := move j.start } else j),
             tail := move x.tail }

/-- The contributor entry of a combined atomic (R268): source node, layer, endpoint, PSN, increment. The places of the fields within its 24
bytes are the model's choice. -/
def contributor (p : Pkt) (v : Nat) : List Byte :=
  leBytes 2 p.src ++ leBytes 2 (bit p.epLayer) ++ leBytes 4 p.ep ++ leBytes 4 p.psn ++ leBytes 4 0 ++ leBytes 8 v

/-- Is a packet an add a router may combine? -/
def combinableAdd (p : Pkt) : Bool := p.combine && p.ty == 4 && (fieldAt p.data 0 1 == 0 || fieldAt p.data 0 1 == 2)

/-- Do two requests name the same place in the same epoch (R267, R268)? -/
def samePlace (a b : Pkt) : Bool :=
  a.dst == b.dst && a.addr == b.addr && a.epoch == b.epoch && a.epLayer == b.epLayer && (!a.epLayer || a.key == b.key)

/-- A waiting add or combined add joined by another (R268). -/
def joinAdd (q p : Pkt) : Option Pkt :=
  if !combinableAdd p || !samePlace q p then none
  else
    let e := contributor p (fieldAt p.data 8 8)
    if combinableAdd q then some { q with ty := 5, data := contributor q (fieldAt q.data 8 8) ++ e }
    else if q.ty = 5 ∧ q.data.length < 16 * 24 then some { q with data := q.data ++ e }
    else none

/-- A waiting partial record joined by another (R168); packets of one record each.
DEDUCED (unsafe): log entry 57. -/
def joinPartial (s : State) (q p : Pkt) : Option Pkt :=
  if !s.flag R.COMB_CTL.PART_MERGE || q.ty != 7 || p.ty != 7 || !q.combine || !p.combine || q.dst != p.dst || q.addr != p.addr ||
     255 < q.contrib + p.contrib then none
  else
    match parseRecord q.src q.contrib q.poison q.data, parseRecord p.src p.contrib p.poison p.data with
    | some a, some b =>
      if a.ctx = b.ctx ∧ a.qhead = b.qhead ∧ a.kvHead = b.kvHead ∧ a.part.o.length = b.part.o.length ∧ a.epoch = b.epoch ∧ a.gen = b.gen then
        let m := mergePart a.part b.part
        some { q with contrib := q.contrib + p.contrib, poison := q.poison || p.poison,
                      data := recordBytes a.ctx a.qhead a.kvHead a.gen a.epoch m.o.length (a.tent || b.tent) (a.oBf16 && b.oBf16) true m }
      else none
    | _, _ => none

/-- A packet joined to one that waits, unstarted, in an output queue. -/
def joinWaiting (s : State) (port vc c : Nat) (p : Pkt) : Option State :=
  let q := outQueue port vc c
  match s.queue? q with
  | none => none
  | some x =>
    let started := match Tab.find? vc (s.port port).cur with | some (d, n) => d == c && decide (0 < n) | none => false
    (x.waiting.drop (bit started)).findSome? (fun i =>
      let old := pktOf i.bytes
      match joinAdd old p with
      | some m => some ((s.setQueue q (x.replaceItem i.start m.bytes m.contrib)).incFld R.EP_COMB_ADD_CNT.COUNT (if old.ty = 5 then 1 else 2))
      | none => (joinPartial s old p).map (fun m => (s.setQueue q (x.replaceItem i.start m.bytes m.contrib)).incFld R.COMB_PART_CNT.COUNT))

/-- Is a packet a read a router may combine (R267)? -/
def combinableRead (p : Pkt) : Bool := p.combine && p.ty == 3 && decide (fieldAt p.data 0 2 % 8192 ≤ 256)

/-- A read absorbed by one forwarded at most 2 µs before. -/
def absorbRead (s : State) (p : Pkt) : Option State :=
  let hit (e : Comb) : Bool := samePlace e.first p && e.first.data == p.data && decide (s.now ≤ e.time + 2000)
  if !combinableRead p || !s.fab.comb.any hit then none
  else
    let es := s.fab.comb.map (fun (e : Comb) => if hit e then { e with absorbed := e.absorbed ++ [p] } else e)
    some ({ s with fab := { s.fab with comb := es } }.incFld R.EP_COMB_READ_CNT.COUNT)

/-- A read forwarded takes a combine entry, if one is free. -/
def noteRead (s : State) (p : Pkt) : State :=
  if combinableRead p ∧ s.fab.comb.length + combReserved s < 2048 then
    { s with fab := { s.fab with comb := s.fab.comb ++ [⟨p, s.now, []⟩] } }
  else s

/-- A packet put into an output queue, whose mark stands at its oldest unacknowledged packet, unless it is absorbed or joined to one that
waits: none where it must wait (R272). -/
def enqueue (s : State) (port vc : Nat) (p : Pkt) : Option State :=
  let c := classOf s p.ty
  let q := outQueue port vc c
  match absorbRead s p with
  | some s => some s
  | none =>
    match (if p.combine then joinWaiting s port vc c p else none) with
    | some s => some s
    | none =>
      (appendItem s q p.bytes false p.src p.contrib).map (fun s =>
        pumpPort (noteRead (match s.queue? q with | some x => if x.marked then s else s.setQueue q x.setMark | none => s) p) port)

/-! Injection (R281, R303). -/

/-- A bucket's refill at a time, in 1/8,000 byte.
DESIGN CHOICE (unsafe): log entry 34. DEDUCED (unsafe): log entry 80. -/
def refill (s : State) (b : Nat) : Bucket :=
  let x := Tab.get ⟨0, 0⟩ b s.qm.buckets
  ⟨min (s.fld R.SHQ_CFG.BURST b * 8000) (x.tokens + (s.now - x.last) * s.fld R.SHQ_CFG.RATE b), s.now⟩

/-- A bucket written. -/
def setBucket (s : State) (b : Nat) (x : Bucket) : State :=
  { s with qm := { s.qm with buckets := Tab.put ⟨0, 0⟩ b x s.qm.buckets } }

/-- The bucket a packet of a function is charged to on the die it leaves by: none where nothing limits it. -/
def bucketFor (s : State) (fn : Option Nat) (die cls : Nat) : Option Nat :=
  match fn with
  | none => none
  | some f =>
    let sel (g : Fld) : Nat := s.fld g die (f * 8 + cls)
    if sel R.SHP_SEL.VALID = 0 then none
    else
      let b := die * 4096 + sel R.SHP_SEL.QUEUE
      if s.flag R.SHQ_CFG.SHAPE_EN b then some b else none

/-- What a try to send a packet at injection met. -/
inductive Tried where
  | sent (s : State)
  /-- the bucket that is short of tokens -/
  | tokens (b : Nat)
  | ceiling
  | queue
  | noRoute
  deriving DecidableEq, Repr

/-- A packet sent from injection, if its port's ceiling, its bucket and its output queue allow. -/
def tryInject (s : State) (fn : Option Nat) (p : Pkt) : Tried :=
  match route s p none with
  | .here => .sent (s.emit (.packet p))
  | .noRoute => .noRoute
  | .out q v esc det =>
    let b := bucketFor s fn (q / 8) (classOf s p.ty)
    let short : Option Nat := match b with
      | some b => if (refill s b).tokens < p.len * 8000 then some b else none
      | none => none
    if !isResponse p.ty ∧ 128 ≤ Tab.get 0 q s.fab.window then .ceiling
    else
      match short with
      | some b => .tokens b
      | none =>
        let p' := if det then { p with detoured := true, detours := p.detours + 1 } else p
        match enqueue s q v p' with
        | none => .queue
        | some s =>
          let s := match b with
            | some b => let x := refill s b; setBucket s b { x with tokens := x.tokens - p.len * 8000 }
            | none => s
          let s := if isResponse p.ty then s
                   else { s with fab := { s.fab with window := Tab.ins q (Tab.get 0 q s.fab.window + 1) s.fab.window } }
          let s := if esc then s.incFld R.ROUTE_ESCAPE_CNT.COUNT else s
          .sent (if det then s.incFld R.ROUTE_DETOUR_CNT.COUNT else s)

/-- The no-route response of a request (R238): it names what the request named.
DEDUCED (unsafe): log entry 61. -/
def noRouteResponse (s : State) (p : Pkt) : Pkt :=
  { p with ty := 0x24, combine := false, poison := false, trunc := false, detoured := false, detours := 0, fence := false, dst := p.src,
           src := s.node, contrib := 1, status := Status.epochStale.val, key := 0, addr := 0, data := [] }

/-- A response with no route is discarded and logged to PF0 and the operator; no code of Table 16-1 is given for it (R238). -/
def loseResponse (s : State) : State :=
  let c := Config.freeNat s.freeCtr % 256
  (logFn s.takeFree 0 (entry0 s c .timeout 0)).emit (.report c)

/-- A packet with no route (R238): counted; a request's source receives a no-route response, by the local port or by a port. -/
def lose (s : State) (p : Pkt) : State :=
  let s := s.incFld R.ROUTE_NOROUTE_CNT.COUNT
  if isResponse p.ty then loseResponse s
  else
    let r := noRouteResponse s p
    match tryInject s none r with
    | .sent s => s
    | .noRoute => loseResponse (s.incFld R.ROUTE_NOROUTE_CNT.COUNT)
    | _ => { s with fab := { s.fab with inject := s.fab.inject ++ [⟨none, r, false⟩] } }

/-- A packet that could not leave waits at injection: counted in SHQ_HELD the first time its bucket holds it, and the window in BRIM_STAT the
first time the ceiling holds one. -/
def holdInject (s : State) (i : Inject) : Tried → State × Inject
  | .tokens b => if i.counted then (s, i) else (s.incFld R.SHQ_HELD.COUNT 1 b, { i with counted := true })
  | .ceiling => if s.fab.held then (s, i) else ({ s with fab := { s.fab with held := true } }.incFld R.BRIM_STAT.INJECT_HELD, i)
  | _ => (s, i)

/-- A packet this module originates for a function, or for none (R281). -/
def sendPkt (s : State) (fn : Option Nat) (p : Pkt) : State :=
  let i : Inject := ⟨fn, p, false⟩
  match tryInject s fn p with
  | .sent s => s
  | .noRoute => lose s p
  | t =>
    let r := holdInject s i t
    { r.1 with fab := { r.1.fab with inject := r.1.fab.inject ++ [r.2] } }

/-- Waiting packets tried again, in their order. -/
def retryInject (s : State) : State :=
  let l := s.fab.inject
  l.foldl (fun s i =>
    match tryInject s i.fn i.pkt with
    | .sent s => s
    | .noRoute => lose s i.pkt
    | t => let r := holdInject s i t; { r.1 with fab := { r.1.fab with inject := r.1.fab.inject ++ [r.2] } })
    { s with fab := { s.fab with inject := [] } }

end Sys2Proof.Machine
end

