-- ==== Sys2Proof/Machine/SysArea.lean ====
section
/-! DEFINITION. What PF0 reads of the system area of T1 (R84): the span descriptor table (Table 6-4), the page tables (Table 6-5) and the
save area of parked contexts (R173, Tables 10-1 and 10-3). The spec gives their records and their sizes; where the area and its parts lie
is the model's choice (log 13). -/

namespace Sys2Proof.Machine

open Sys2Proof

/-- Is a T1 frame a page-table unit (R84, R90)? -/
def tableFrame (s : State) (n : Nat) : Bool :=
  match Tab.find? n s.mm.frames with
  | some .pageTable => true
  | _ => false

/-- Do bytes of T1 lie wholly in page-table units? -/
def inTables (s : State) (a n : Nat) : Bool :=
  !s.pg.tables.isEmpty && addrClass a == .t1 && decide (0 < n) &&
    (rangeFrom (a / 65536) ((a + n - 1) / 65536 + 1 - a / 65536)).all (fun g => tableFrame s (g % 2 ^ 24))

/-- Do bytes lie in the system area (R84)?
DESIGN CHOICE (unsafe): log entry 13. -/
def inSystem (s : State) (a n : Nat) : Bool :=
  (match regionAt s a n with | some r => r.kind == .system | none => false) || inTables s a n

/-- STATE of a span descriptor (Table 6-4). -/
def SpanSt.code : SpanSt → Nat
  | .free => 0
  | .open => 1
  | .incomplete => 2
  | .freeing => 3

/-- SHAPE of a span descriptor: D and FORMAT (Table 6-4). -/
def Span.shape (x : Span) : Nat :=
  (if x.dim = 64 then 0 else if x.dim = 96 then 1 else if x.dim = 128 then 2 else if x.dim = 192 then 3 else 4) +
    8 * (match x.fmt with | .kv8 => 0 | .kv4 => 1 | .bf16 => 2)

/-- POLICY of a span descriptor (Table 6-4). -/
def Span.policy (x : Span) : Nat := x.ilog + 16 * bit x.fixedScale + 32 * bit x.pin + 64 * bit x.t2Attn + 128 * bit x.holed

/-- PROTECT of a span descriptor (Table 6-4). -/
def Prot.code : Prot → Nat
  | .none => 0
  | .mirror => 1
  | .coded => 2

/-- Bytes followed by their CRC-16 (R44). -/
def sealed (b : List Byte) : List Byte := b ++ leBytes 2 (crc16 b)

/-- The descriptor of a span (Table 6-4).
DESIGN CHOICE (unsafe): log entry 13. -/
def spanRecord (n : Nat) (x : Span) : List Byte :=
  sealed (leBytes 4 (n + x.fn * 2 ^ 18 + x.st.code * 2 ^ 24) ++ leBytes 4 x.maxTokens ++ leBytes 2 x.layerSlots ++ leBytes 1 x.kvHeads ++
    leBytes 1 x.shape ++ leBytes 1 x.policy ++ leBytes 1 x.prot.code ++ leBytes 2 (x.rowBytes % 65536) ++ leBytes 8 x.base ++
    leBytes 4 x.fixedPk ++ leBytes 4 x.fixedPv ++ leBytes 4 x.horizon ++ leBytes 4 x.gen ++ leBytes 4 x.appended ++
    leBytes 2 x.tableGen ++ leBytes 2 x.start ++ leBytes 8 x.ptBase ++ leBytes 2 x.handoff ++ leBytes 4 0)

/-- Descriptor n of the table; the descriptor of a free span reads as zero. -/
def spanEntry (s : State) (n : Nat) : List Byte :=
  match s.span? n with
  | some x => spanRecord n x
  | none => List.replicate 64 0#8

/-- STATE of a page table entry (Table 6-5). -/
def PgSt.code : PgSt → Nat
  | .unbacked => 0
  | .t1 => 1
  | .t2 => 2
  | .t3 => 3
  | .holed => 4
  | .archived => 5

/-- LOWER of a page table entry (Table 6-5). -/
def Pte.lower (e : Pte) : Nat :=
  match e.st with
  | .t2 => e.granule + e.count * 2 ^ 30
  | .t3 => e.node + e.handle * 2 ^ 16
  | _ => 0

/-- A page table entry (Table 6-5).
DESIGN CHOICE (unsafe): log entry 13. -/
def pteRecord (e : Pte) : List Byte :=
  sealed (leBytes 4 e.pk ++ leBytes 4 e.pv ++
    leBytes 1 (e.st.code + 8 * bit e.mig + 16 * bit e.tent + 32 * bit e.psn + 64 * bit e.recalling) ++ leBytes 1 e.age ++
    leBytes 2 e.battGen ++ leBytes 4 (if e.st = .t1 then e.frame else 0) ++ leBytes 8 e.lower ++ leBytes 2 e.written.length ++ leBytes 4 0)

/-- Entry k of the page-table unit in frame g; an entry whose CRC fails has no stated bytes. -/
def tableEntry (s : State) (g k : Nat) : List Byte :=
  match s.pg.tables.find? (fun p => p.2 == g) with
  | some p =>
    let e := s.pte (p.1 / 2 ^ 20) (p.1 % 2 ^ 20 * 2048 + k)
    if e.crcBad then (rangeFrom (s.freeCtr + (g * 2048 + k) * 32) 32).map Config.freeByte else pteRecord e
  | none => List.replicate 32 0#8

/-- A span binding (Table 10-3). -/
def bindRecord (b : Binding) : List Byte :=
  leBytes 4 (b.span + 2 ^ 31 * bit b.valid) ++ leBytes 4 b.posBase ++ leBytes 1 b.posStride ++ leBytes 3 0 ++ leBytes 4 b.segStart

/-- The record of a parked context (Table 10-1). Its resume state means nothing to software and is free; so is all of a record whose
STATE_CRC fails.
DESIGN CHOICE (unsafe): log entry 13. -/
def ctxRecord (free h prog : Nat) (c : Ctx) : List Byte :=
  if c.badRecord ∨ c.failed then (rangeFrom free 2048).map Config.freeByte
  else
    sealed (leBytes 4 (h + c.fn * 2 ^ 19 + 5 * 2 ^ 25) ++ leBytes 2 0 ++ leBytes 2 prog ++ leBytes 2 c.phase ++ leBytes 2 c.op ++
      leBytes 2 c.iter ++ leBytes 1 c.home ++ leBytes 1 c.retries ++ leBytes 8 c.seed ++ leBytes 8 c.stepCtr ++ leBytes 4 c.position ++
      leBytes 4 c.token ++ leBytes 4 c.sat ++ leBytes 2 c.accepted ++ leBytes 1 c.lastStatus.val ++ leBytes 1 0 ++
      leBytes 2 c.faultPhase ++ leBytes 2 c.faultOp ++ leBytes 4 c.workKib ++ leBytes 8 c.t1Base ++
      padTo 128 (c.binds.flatMap bindRecord) ++ padTo 1536 c.area ++ (rangeFrom free 318).map Config.freeByte)

/-- The PROGRAM_ID of a context's program. -/
def programIdOf (s : State) (c : Ctx) : Nat := match Tab.find? c.program s.sch.programs with | some x => x.id | none => 0

/-- Slot n of the save area; a slot that holds no parked context reads as zero (R173). -/
def slotEntry (s : State) (n : Nat) : List Byte :=
  match s.sch.ctxs.find? (fun p => p.2.st == .parked && p.2.slot == n) with
  | some p => ctxRecord (s.freeCtr + 2048 * n) p.1 (programIdOf s p.2) p.2
  | none => List.replicate 2048 0#8

/-- Bytes o to o + n - 1 of a table whose entries are of size z. -/
def tableBytes (z : Nat) (entry : Nat → List Byte) (o n : Nat) : List Byte :=
  (((rangeFrom (o / z) ((o + n - 1) / z + 1 - o / z)).flatMap entry).drop (o % z)).take n

/-- Bytes of the system area from its start on: the descriptor table (16 MiB), the save area (512 MiB), and the rest, whose layout the
spec does not give: free. -/
def areaBytes (s : State) (o n : Nat) : List Byte :=
  let t := min n (0x1000000 - o)
  let v := min (n - t) (0x21000000 - (o + t))
  (if t = 0 then [] else tableBytes 64 (spanEntry s) o t) ++
    (if v = 0 then [] else tableBytes 2048 (slotEntry s) (o + t - 0x1000000) v) ++
    (rangeFrom (s.freeCtr + (o + t + v)) (n - t - v)).map Config.freeByte

/-- Bytes of the system area.
DESIGN CHOICE (unsafe): log entry 13. -/
def systemBytes (s : State) (a n : Nat) : List Byte :=
  match regionAt s a n with
  | some r => areaBytes s (a - r.base) n
  | none => tableBytes 32 (fun k => tableEntry s (k / 2048 % 2 ^ 24) (k % 2048)) a n

end Sys2Proof.Machine
end

