-- ==== Sys2Proof/Machine/TransOps.lean ====
section
/-! DEFINITION. Remote access: packets, the numbered streams of endpoints and hidden flows as requester and as target, regions, and the local
sides of transfers (R243 to R270). -/

namespace Sys2Proof.Machine

open Sys2Proof

/-! Packets (R243, R244). -/

/-- The packet types of Table 13-1. -/
def knownTypes : List Nat := [1, 2, 3, 4, 5, 6, 7, 8, 9, 10, 0x20, 0x21, 0x22, 0x23, 0x24, 0x25]

/-- Does a payload length fit a TYPE? -/
def payloadFits (ty n : Nat) : Bool :=
  match ty with
  | 1 => decide (1 ≤ n) && decide (n ≤ 4096)
  | 2 => decide (4 ≤ n) && decide (n ≤ 4096)
  | 3 => n == 4
  | 4 => n == 24
  | 5 => n % 24 == 0 && decide (48 ≤ n) && decide (n ≤ 384)
  | 6 => n % 24 == 0 && decide (24 ≤ n) && decide (n ≤ 384)
  | 0x20 => n == 4
  | 0x21 => decide (1 ≤ n) && decide (n ≤ 4096)
  | 0x22 => n == 8
  | 0x23 => n == 4
  | 0x24 => n == 0
  | _ => decide (n ≤ 4096)

/-- A header and payload read; none where the packet is invalid (R244).
DEDUCED (unsafe): log entry 146. -/
def parsePkt (h data : List Byte) : Option Pkt :=
  let f (o n : Nat) := fieldAt h o n
  let fl := f 1 1
  let ty := f 0 1
  if h.length == 32 && f 2 2 == 32 + data.length && decide (f 4 2 < 32768) && decide (f 6 2 < 32768) && decide (f 12 4 < 2 ^ 28) &&
     f 19 1 == 0 && decide (bits fl 5 4 ≤ 2) && (ty == 0 || !knownTypes.contains ty || payloadFits ty data.length) &&
     decide (1 ≤ f 10 1) then
    some { ty := ty, combine := bitAt fl 0, poison := bitAt fl 1, trunc := bitAt fl 2, detoured := bitAt fl 3, detours := bits fl 5 4,
           epLayer := bitAt fl 6, fence := bitAt fl 7, dst := f 4 2, src := f 6 2, epoch := f 8 2, contrib := f 10 1, status := f 11 1,
           ep := f 12 4, psn := f 16 3, key := f 20 4, addr := f 24 8, data := data }
  else none

/-- PSN arithmetic. -/
def psnMod : Nat := 2 ^ 24

/-- (a − b) mod 2^24. -/
def psnSub (a b : Nat) : Nat := (a + psnMod - b % psnMod) % psnMod

/-! Streams. -/

/-- A stream with nothing executed or sent. -/
def conn0 : Conn := ⟨0, [], [], [], [], 0, 0, 0, [], [], true, false, [], 0⟩

/-- Which stream: an endpoint number, or the peer node of a hidden flow. -/
inductive ConnId where
  | ep (n : Nat)
  | flow (node : Nat)
  deriving DecidableEq, Repr

/-- An endpoint by number. -/
def State.endp? (s : State) (n : Nat) : Option Endpoint := Tab.find? n s.tr.eps

/-- An endpoint written. -/
def State.setEndp (s : State) (n : Nat) (e : Endpoint) : State := { s with tr := { s.tr with eps := Tab.ins n e s.tr.eps } }

/-- A stream; a hidden flow begins when it is first used. -/
def getConn (s : State) : ConnId → Option Conn
  | .ep n => (s.endp? n).map (·.conn)
  | .flow m => some (Tab.get conn0 m s.tr.flows)

/-- A stream written. -/
def setConn (s : State) (i : ConnId) (c : Conn) : State :=
  match i with
  | .ep n => (match s.endp? n with | some e => s.setEndp n { e with conn := c } | none => s)
  | .flow m => { s with tr := { s.tr with flows := Tab.ins m c s.tr.flows } }

/-- A stream changed. -/
def updConn (s : State) (i : ConnId) (f : Conn → Conn) : State := match getConn s i with | some c => setConn s i (f c) | none => s

/-! Residency (R260). -/

/-- Streams whose state is resident. -/
def residents (s : State) : Nat := s.tr.eps.countP (fun p => p.2.conn.resident) + s.tr.flows.countP (fun p => p.2.resident)

/-- May a state be evicted? -/
def evictable (c : Conn) : Bool := c.resident && c.sent.isEmpty && c.missq.isEmpty && !c.fetching

/-- The least recently used state that may be evicted. -/
def lruConn (s : State) : Option ConnId :=
  let all := (s.tr.eps.filter (fun p => evictable p.2.conn)).map (fun p => (ConnId.ep p.1, p.2.conn.used)) ++
    (s.tr.flows.filter (fun p => evictable p.2)).map (fun p => (ConnId.flow p.1, p.2.used))
  (all.foldl (fun (b : Option (ConnId × Nat)) p => match b with | some q => if p.2 < q.2 then some p else some q | none => some p) none).map
    (·.1)

/-- The 512 bytes of a host-owned state as written back: private to the module, so free.
DESIGN CHOICE (safe): log entry 68. -/
def stateBytes (s : State) : List Byte := (rangeFrom s.freeCtr 512).map Config.freeByte

/-- A state evicted, written back first; a host-owned state whose write-back fails stays resident and sets WRITEBACK.
DESIGN CHOICE (safe): log entry 68. -/
def evict (s : State) (i : ConnId) : State :=
  match i with
  | .flow _ => updConn s i (fun c => { c with resident := false })
  | .ep n =>
    match s.endp? n with
    | none => s
    | some e =>
      if e.modOwned then updConn s i (fun c => { c with resident := false })
      else match hostWrite s e.fn e.stateAddr (stateBytes s) with
        | some t => updConn (t.takeFree 512) i (fun c => { c with resident := false })
        | none => s.setFld R.EP_ERR.WRITEBACK 1

/-- A state brought into the cache, another evicted where it is full.
DEDUCED (unsafe): log entry 67. -/
def bringIn (s : State) (i : ConnId) : State :=
  let s := if residents s < 16384 then s else match lruConn s with | some j => evict s j | none => s
  updConn s i (fun c => { c with resident := true, fetching := false })

/-- A state used now. -/
def touchConn (s : State) (i : ConnId) : State :=
  let s := { s with tr := { s.tr with tick := s.tr.tick + 1 } }
  updConn s i (fun c => { c with used := s.tr.tick })

/-! Local sides of transfers (R82, R83, R91, R298). -/

/-- Does a range of bytes run outside what is present (R82): past a range of Table 6-1, into T2 that is not populated, or into the T0 of a
retired tile? The ranges of the table do not touch, so bytes that begin in one and end in another pass absent addresses. -/
def absentIn (s : State) (a n : Nat) : Bool :=
  let e := a + max n 1 - 1
  addrClass a != addrClass e || addrClass a == .absent || addrClass a == .t2Absent ||
    (addrClass a == .t0 && (rangeFrom (tileOf a) (tileOf e + 1 - tileOf a)).any (tileRetired s))

/-- Do bytes touch the system area (R84)? -/
def touchesSystem (s : State) (a n : Nat) : Bool :=
  s.mm.regions.any (fun r => r.kind == .system && decide (r.base < a + n) && decide (a < r.base + r.size)) ||
    (addrClass a == .t1 && (rangeFrom (a / 65536) ((a + max n 1 - 1) / 65536 + 1 - a / 65536)).any (fun g => tableFrame s (g % 2 ^ 24)))

/-- The span that an address of KV space lies in. -/
def spanOfAddr (s : State) (a : Nat) : Option (Nat × Span) := s.pg.spans.find? (fun p => p.2.base ≤ a ∧ a < p.2.base + p.2.pages * 65536)

/-- The status of a read of KV space by a function (R91): every byte must lie in a span of its own that may be read; `k` bounds the spans. -/
def kvCheck (s : State) (f : Nat) : Nat → Nat → Nat → Status
  | 0, _, _ => .protection
  | k + 1, a, n =>
    match spanOfAddr s a with
    | none => .protection
    | some p =>
      if p.2.fn ≠ f then .protection
      else if p.2.st = .freeing then .invalid
      else if p.2.st = .incomplete then .incompleteSpan
      else
        let m := p.2.base + p.2.pages * 65536 - a
        if n ≤ m then .ok else kvCheck s f k (a + m) (n - m)

/-- The address of counter 0 in configuration space (R193). -/
def counterBase : Nat := 0xF00040000000

/-- The status of an access of a function to local bytes by COPY, an endpoint or SEND. -/
def localCheck (s : State) (f a n : Nat) (write : Bool) : Status :=
  if absentIn s a n then .invalid
  else
    match addrClass a with
    | .t1 | .t2 =>
      (match regionAt s a n with
       | some r => if r.fn = f ∧ r.kind ≠ .bundle ∧ r.kind ≠ .loading ∧ r.kind ≠ .system ∧ !(write && r.kind == .image) then .ok else .protection
       | none => .protection)
    | .kv => if write then .protection else kvCheck s f (s.pg.spans.length + 1) a n
    | .config =>
      let b := counterBase + 8 * s.fld R.SYNC_FN_BASE.SYNC_BASE f
      if !write ∧ b ≤ a ∧ a + n ≤ b + 8 * s.fld R.SYNC_FN_COUNT.SYNC_COUNT f then .ok else .protection
    | _ => .protection

/-- Bytes of KV space read for an op, page by page, after promotion (R91, R101): none where the op must wait; a displaced page is said so, and
so is an address of no span. `bad` are stored bytes that read otherwise, by page.
DEDUCED (unsafe): log entry 134. -/
def kvRead (s : State) (bad : List (Nat × Nat × Byte)) (a : Nat) : Nat → Nat → Option (List PByte × State × Bool)
  | 0, _ => some ([], s, false)
  | k + 1, n =>
    if n = 0 then some ([], s, false)
    else
      match spanOfAddr s a with
      | none => some ([], s, true)
      | some p =>
        let pg := (a - p.2.base) / 65536
        let o := (a - p.2.base) % 65536
        let m := min n (65536 - o)
        match promoteNow (poisonBatts s p.1 pg (badOf bad pg)) p.1 pg false with
        | .wait => none
        | .displaced => some ([], s, true)
        | .ok s =>
          let bs := pageRead s (s.pte p.1 pg) o m
          match kvRead (touch s p.1 pg) bad (a + m) k (n - m) with
          | some (r, s, d) => some (bs ++ r, s, d)
          | none => none

/-- The pages that a read of KV space holds while it waits (R98, R102). -/
def kvKeys (s : State) (a n : Nat) : List Nat :=
  (List.range (n / 65536 + 2)).filterMap (fun i =>
    let x := min (a + 65536 * i) (a + n - 1)
    (spanOfAddr s x).map (fun p => pageKey p.1 ((x - p.2.base) / 65536)))

/-- Local bytes read by COPY, an endpoint or SEND (checked before): none where a frame must be waited for; the last part is a status. -/
def localRead (s : State) (bad : List (Nat × Nat × Byte)) (a n : Nat) : Option (List PByte × State × Status) :=
  match addrClass a with
  | .kv => (kvRead s bad a (n / 65536 + 2) n).map (fun r => (r.1, r.2.1, if r.2.2 then .displaced else psnStatus (anyPsn r.1)))
  | .config =>
    let byte (x : Nat) : Byte := (leBytes 8 (counterVal s (x / 8))).getD (x % 8) 0#8
    some (cleanBytes ((rangeFrom (a - counterBase) n).map byte), s, .ok)
  | _ => let r := preadCtl s a n; some (r.1, r.2, psnStatus (anyPsn r.1))

/-! Requester. -/

/-- A work by number. -/
def work? (s : State) (w : Nat) : Option Work := Tab.find? w s.tr.works

/-- A new work. -/
def newWork (s : State) (x : Work) : Nat × State :=
  (s.tr.nextWork, { s with tr := { s.tr with works := Tab.ins s.tr.nextWork x s.tr.works, nextWork := s.tr.nextWork + 1 } })

/-- Bytes done in ascending order before the first gap (R211).
DEDUCED (unsafe): log entry 65. -/
def contiguous (l : List (Nat × Nat)) : Nat → Nat → Nat
  | 0, n => n
  | k + 1, n => match l.find? (fun p => p.1 == n && p.2 != 0) with
    | some p => contiguous l k (n + p.2)
    | none => n

/-- A work whose packets have all been answered completes (R254). -/
def endWork (s : State) (n : Nat) (w : Work) : State :=
  let s := { s with tr := { s.tr with works := Tab.del n s.tr.works } }
  match w.who with
  | .desc f r k =>
    complete s f r k w.status 0
      (if w.kind = 1 then leBytes 8 0 ++ leBytes 8 (contiguous w.pieces (w.pieces.length + 1) 0) else if w.kind = 0 then leBytes 8 w.result else [])
  | .ctx h => retire s h w.idx w.status 0
  | .module => s

/-- A work's answer taken up; it ends with its last one. -/
def workAnswer (s : State) (n : Nat) (f : Work → Work) : State :=
  match work? s n with
  | none => s
  | some w =>
    let w := { f w with left := w.left - 1 }
    if w.left = 0 then endWork s n w else { s with tr := { s.tr with works := Tab.ins n w s.tr.works } }

/-- Is a packet an atomic? -/
def Pkt.isAtomic (p : Pkt) : Bool := p.ty == 4

/-- Packets that wait are sent while fewer than 128, and 16 atomics, are unanswered (R256); `k` bounds them. -/
def pumpGo (i : ConnId) : Nat → State → State
  | 0, s => s
  | k + 1, s =>
    match getConn s i with
    | none => s
    | some c =>
      match c.queue with
      | [] => s
      | p :: r =>
        if 128 ≤ c.sent.length ∨ (p.pkt.isAtomic ∧ 16 ≤ c.sent.countP (fun q => q.pkt.isAtomic)) then s
        else pumpGo i k (sendPkt (setConn s i { c with queue := r, sent := c.sent ++ [{ p with since := s.now }] }) ((work? s p.work).map (·.fn)) p.pkt)

/-- Packets that wait are sent. -/
def pump (s : State) (i : ConnId) : State :=
  match getConn s i with
  | some c => pumpGo i c.queue.length s
  | none => s

/-- Packets of a work posted on a stream, each with the next PSN (R256). -/
def post (s : State) (i : ConnId) (w : Nat) (ps : List (Nat × Pkt)) : State :=
  let s := touchConn s i
  let s := updConn s i (fun c =>
    { c with psn := (c.psn + ps.length) % psnMod,
             queue := c.queue ++ ps.zipIdx.map (fun q => ⟨{ q.1.2 with psn := (c.psn + q.2) % psnMod }, w, q.1.1, 0, 0, 0, none⟩) })
  pump s i

/-- A request packet of a hidden flow to a node. -/
def flowPkt (s : State) (ty node addr : Nat) (data : List Byte) (poison : Bool) : Pkt :=
  { ty := ty, combine := false, poison := poison, trunc := false, detoured := false, detours := 0, epLayer := false, fence := false, dst := node,
    src := s.node, epoch := s.epoch, contrib := 1, status := 0, ep := 0, psn := 0, key := 0, addr := addr, data := data }

/-- A request packet of an endpoint. -/
def epPkt (s : State) (e : Endpoint) (ty addr key : Nat) (combine fence : Bool) (data : List Byte) (poison : Bool) : Pkt :=
  { ty := ty, combine := combine, poison := poison, trunc := false, detoured := false, detours := 0, epLayer := true, fence := fence,
    dst := e.node, src := s.node, epoch := s.epoch, contrib := 1, status := 0, ep := e.remEp, psn := 0, key := key, addr := addr, data := data }

/-- Data cut into pieces of at most 4,096 bytes with their offsets (R251). -/
def cutPieces (data : List PByte) : List (Nat × List PByte) := (chunk 4096 data).zipIdx.map (fun p => (4096 * p.2, p.1))

/-- Lengths of the pieces of a read. -/
def cutLens (n : Nat) : List (Nat × Nat) := (List.range (ceilDiv n 4096)).map (fun i => (4096 * i, min 4096 (n - 4096 * i)))

/-! Answers. -/

/-- An answer to a request (R243): type, status, payload. It carries the request's PSN and epoch. -/
def answerPkt (s : State) (fn : Option Nat) (p : Pkt) (ep ty : Nat) (st : Status) (data : List Byte) (poison : Bool) : State :=
  sendPkt s fn { p with ty := ty, combine := false, poison := poison, trunc := false, detoured := false, detours := 0, fence := false,
                        dst := p.src, src := s.node, contrib := 1, status := st.val, ep := ep, key := 0, addr := 0, data := data }

/-! Transit (R232, R267). -/

/-- An answer that passes back (R267): the reads absorbed by the read it answers get copies on their own streams, and, where the read was
executed, their target an ABSORB that lists them with its status. -/
def passAnswer (s : State) (p : Pkt) : State :=
  let hit (e : Comb) : Bool := e.first.src == p.dst && e.first.dst == p.src && e.first.psn == p.psn && e.first.epLayer == p.epLayer
  match s.fab.comb.find? hit with
  | none => s
  | some e =>
    if !isResponse p.ty then s
    else
      let s := { s with fab := { s.fab with comb := s.fab.comb.filter (fun x => !hit x) } }
      let s := e.absorbed.foldl (fun s a => sendPkt s none { p with dst := a.src, ep := a.ep, psn := a.psn }) s
      if e.absorbed.isEmpty || !(p.ty == 0x20 || p.ty == 0x21) then s
      else
        (List.range (ceilDiv e.absorbed.length 16)).foldl (fun s i =>
          let w := newWork s ⟨.module, 0, 0, 4, 1, .ok, false, 0, [], 0⟩
          post w.2 (.flow e.first.dst) w.1 [(0, flowPkt s 6 e.first.dst 0 (((e.absorbed.drop (16 * i)).take 16).flatMap
            (fun a => contributor a p.status)) false)]) s

/-- A packet in transit sent on: none where its output queue has no room, and it stays in its receive buffer (R272). -/
def transit (s : State) (port vc : Nat) (p : Pkt) : Option State :=
  match route s p (some (port, vc)) with
  | .here => some (s.emit (.arrived port p.bytes))
  | .noRoute => some (lose (passAnswer s p) p)
  | .out q v esc det =>
    let p' := if det then { p with detoured := true, detours := p.detours + 1 } else p
    (enqueue (passAnswer s p) q v p').map (fun s =>
      let s := if esc then s.incFld R.ROUTE_ESCAPE_CNT.COUNT else s
      if det then s.incFld R.ROUTE_DETOUR_CNT.COUNT else s)

/-! Regions (R248 to R250). -/

/-- A function's region by index. -/
def region? (s : State) (f i : Nat) : Option RegEnt := Tab.find? (f * 2 ^ 24 + i) s.tr.regions

/-- The checks of Table 13-3 but the last row: the region, or the first failing row's status. -/
def regionCheck (s : State) (e : Endpoint) (p : Pkt) (n : Nat) : Except Status RegEnt :=
  match region? s e.fn (p.key % 2 ^ 24) with
  | none => .error .protection
  | some r =>
    let right := if p.ty = 3 then 0 else if p.ty = 4 ∨ p.ty = 5 then 2 else 1
    if !r.used || r.gen != p.key / 2 ^ 24 || decide (s.fld R.FN_REGIONS_MAX e.fn ≤ p.key % 2 ^ 24) then .error .protection
    else if r.pd ≠ e.pd then .error .protection
    else if !bitAt r.rights right then .error .protection
    else if r.len < p.addr + n then .error .protection
    else if (p.ty = 4 ∨ p.ty = 5) ∧ (p.addr % 8 ≠ 0 ∨ r.kind = 2) then .error .invalid
    else .ok r

/-! The hand-off record and span rows (R250, R317, R318). -/

/-- Bytes of the rows of a span's span-rows region. -/
def rowsRegion (x : Span) : Nat := x.layerSlots * x.maxTokens * x.rowBytes

/-- A hand-off record applied to a span (Table 16-6). -/
def applyHandoff (s : State) (n : Nat) (x : Span) (fence : Bool) (d : List Byte) : State × Status :=
  let layers := fieldAt d 0 2
  let full := fieldAt d 2 1 == 1
  let rows := fieldAt d 4 4
  if 512 ≤ layers ∨ 2 ≤ fieldAt d 2 1 ∨ fieldAt d 3 1 ≠ 0 ∨ 2 ^ 23 ≤ rows ∨ !fence then (s, .invalid)
  else if x.layerSlots < layers ∨ (full ∧ layers < x.layerSlots) ∨ x.maxTokens < rows then (s, .invalid)
  else if x.st = .incomplete ∨ (x.st = .open ∧ x.appended = 0) then
    if full then (setCounters s n { x with st := .open, horizon := rows, appended := rows, handoff := layers }, .ok)
    else (s.setSpan n { x with st := .incomplete, handoff := layers }, .ok)
  else (s, .invalid)

/-- Rows of a span-rows write, from global row index g (slot × MAX_TOKENS + row). -/
def placeSpanRows (n : Nat) (x : Span) : Nat → List (List PByte) → State → Status → Option (State × Status)
  | _, [], s, st => some (s, st)
  | g, b :: r, s, st =>
    match writeRecords s n (g / x.maxTokens) (g % x.maxTokens) x b with
    | .wait => none
    | .displaced => placeSpanRows n x (g + 1) r s (st.worse .displaced)
    | .ok s p _ => placeSpanRows n x (g + 1) r s (st.worse (if p then .poison else .ok))

/-- Does a write of n bytes at an offset of a span-rows region break R250: neither whole rows of a span that admits them, nor the hand-off
record's 8 bytes behind them (R317)? -/
def rowsBar (s : State) (n off len : Nat) : Bool :=
  match s.span? n with
  | none => true
  | some x =>
    if off = rowsRegion x then len != 8
    else x.st == .freeing || x.st == .free || off % x.rowBytes != 0 || len % x.rowBytes != 0 || decide (rowsRegion x < off + len) ||
      !(x.fixedScale || x.fmt == .bf16)

/-- A write into a span-rows region at an offset (R250); a hand-off record that comes as poison is not applied. None where it must wait for frames. -/
def writeSpanRows (s : State) (n off : Nat) (fence : Bool) (bs : List PByte) : Option (State × Status) :=
  match s.span? n with
  | none => some (s, .invalid)
  | some x =>
    if rowsBar s n off bs.length then some (s, .invalid)
    else if off = rowsRegion x then some (if anyPsn bs then (s, .poison) else applyHandoff s n x fence (rawBytes bs))
    else
      let s := if x.st = .open ∧ x.appended = 0 then s.setSpan n { x with st := .incomplete, handoff := 0 } else s
      match placeSpanRows n x (off / x.rowBytes) (chunk x.rowBytes bs) s .ok with
      | none => none
      | some (t, st) =>
        if x.st = .open ∧ x.appended ≠ 0 then
          -- as KV_WRITE: HORIZON and APPENDED follow the last row
          let g := off / x.rowBytes + bs.length / x.rowBytes
          let h := max x.horizon (if g % x.maxTokens = 0 then x.maxTokens else g % x.maxTokens)
          (match t.span? n with
           | some y => some (if x.appended = x.horizon then (commitTo t n { y with appended := h } h, st) else (s, .invalid))
           | none => some (t, st))
        else some (t, st)

/-! Target: what a request does (R251, R263, R264). -/

/-- Why a memory-semantic access is refused at its target (R82, R83, R84, R91, R193): none where it is not.
DEDUCED (unsafe): log entry 141. -/
def targetBar (s : State) (a n : Nat) (write : Bool) : Option Status :=
  if absentIn s a n then some .invalid
  else match addrClass a with
  | .kv => if write then some .protection else none
  | .config => if !write && decide (counterBase ≤ a) && decide (a + n ≤ counterBase + 8 * 131072) then none else some .protection
  | .t0 => none
  | _ =>
    if touchesSystem s a n then some .protection
    else if s.mm.regions.any (fun r => decide (r.base < a + n) && decide (a < r.base + r.size) &&
        (r.kind == .bundle || r.kind == .loading || (write && r.kind == .image))) then some .protection
    else none

/-- The result of executing a request: state, status, answer data with its poison, whether it must wait for a frame. -/
structure Ran where
  s : State
  st : Status
  data : List PByte
  wait : Bool
  deriving DecidableEq, Repr

/-- A write executed at memory of a region or a hidden flow's address. -/
def runWrite (s : State) (e : Option Endpoint) (p : Pkt) (data : List Byte) : Ran :=
  let bs := data.map (fun b => (b, p.poison))
  match e with
  | none =>
    (match targetBar s p.addr data.length true with
     | some st => ⟨s, st, [], false⟩
     | none => let r := pwrite s p.addr bs; ⟨invalidate r.1 p.addr data.length, if r.2 then .poison else .ok, [], false⟩)
  | some e =>
    match regionCheck s e p data.length with
    | .error st => ⟨s, st, [], false⟩
    | .ok r =>
      if r.kind = 1 then
        match hostWrite s e.fn (r.base + p.addr) (hostBytes bs) with
        | some t => ⟨t, if p.poison then .poison else .ok, [], false⟩
        | none => ⟨s, .protection, [], false⟩
      else if r.kind = 2 then
        match writeSpanRows s r.base p.addr p.fence bs with
        | some (t, st) => ⟨t, st, [], false⟩
        | none => ⟨s, .ok, [], true⟩
      else if localCheck s e.fn (r.base + p.addr) data.length true ≠ .ok then ⟨s, localCheck s e.fn (r.base + p.addr) data.length true, [], false⟩
      else let q := pwrite s (r.base + p.addr) bs; ⟨invalidate q.1 (r.base + p.addr) data.length, if q.2 then .poison else .ok, [], false⟩

/-- A read executed. -/
def runRead (s : State) (e : Option Endpoint) (p : Pkt) (n : Nat) : Ran :=
  let mem (s : State) (a : Nat) : Ran :=
    match localRead s [] a n with
    | some (bs, s, st) => ⟨s, st, bs, false⟩
    | none => ⟨s, .ok, [], true⟩
  match e with
  | none =>
    (match targetBar s p.addr n false with
     | some st => ⟨s, st, [], false⟩
     | none => mem s p.addr)
  | some e =>
    match regionCheck s e p n with
    | .error st => ⟨s, st, [], false⟩
    | .ok r =>
      if r.kind = 1 then
        match hostReadP s e.fn (r.base + p.addr) n with
        | some bs => ⟨s, psnStatus (anyPsn bs), bs, false⟩
        | none => ⟨s, .protection, [], false⟩
      else if r.kind = 2 then
        match s.span? r.base with
        | some x => (match spanFor s e.fn r.base with
          | .error st => ⟨s, st, [], false⟩
          | .ok _ =>
            if rowsRegion x < p.addr + n then ⟨s, .invalid, [], false⟩ else
            -- plain rows, slot by slot (R250)
            let one (o : Nat) : Nat := x.rowAddress (o / x.rowBytes / x.maxTokens) (o / x.rowBytes % x.maxTokens) + o % x.rowBytes
            (match (rangeFrom p.addr n).foldl (fun acc o => match acc with
              | none => none
              | some (bs, t, d) => (match kvRead t [] (one o) 2 1 with
                | some (b, t, d') => some (bs ++ b, t, d || d')
                | none => none)) (some ([], s, false)) with
             | some (bs, t, d) => ⟨t, if d then .displaced else if anyPsn bs then .poison else .ok, bs, false⟩
             | none => ⟨s, .ok, [], true⟩))
        | none => ⟨s, .invalid, [], false⟩
      else if localCheck s e.fn (r.base + p.addr) n false ≠ .ok then ⟨s, localCheck s e.fn (r.base + p.addr) n false, [], false⟩
      else mem s (r.base + p.addr)

/-- The counter an address of configuration space is (R193). -/
def counterAt (a : Nat) : Option Nat :=
  if counterBase ≤ a ∧ a < counterBase + 8 * 131072 ∧ a % 8 = 0 then some ((a - counterBase) / 8) else none

/-- A 64-bit atomic (R251): KIND 0 FETCH_ADD, 1 COMPARE_SWAP, 2 ADD. The data are the previous value. -/
def atomicOn (s : State) (a kind operand compare : Nat) : Ran :=
  match counterAt a with
  | some c =>
    if kind = 1 then ⟨s, .protection, [], false⟩
    else let v := counterVal s c; let r := syncAdd s c operand; ⟨r.1, r.2, cleanBytes (leBytes 8 v), false⟩
  | none =>
    let old := pread s a 8
    let v := leNat (rawBytes old)
    let w := if kind = 1 then (if v = compare then operand else v) else (v + operand) % 2 ^ 64
    if anyPsn old then ⟨s, .poison, cleanBytes (leBytes 8 0), false⟩
    else ⟨invalidate (pwrite' s a (cleanBytes (leBytes 8 w))) a 8, .ok, cleanBytes (leBytes 8 v), false⟩

/-- An atomic executed at a region or a hidden flow's address.
DEDUCED (unsafe): log entry 63. -/
def runAtomic (s : State) (e : Option Endpoint) (p : Pkt) (kind operand compare : Nat) : Ran :=
  match e with
  | none =>
    if (counterAt p.addr).isSome then atomicOn s p.addr kind operand compare
    else if p.addr % 8 ≠ 0 then ⟨s, .invalid, [], false⟩
    else (match targetBar s p.addr 8 true with
      | some st => ⟨s, st, [], false⟩
      | none => atomicOn s p.addr kind operand compare)
  | some e =>
    match regionCheck s e p 8 with
    | .error st => ⟨s, st, [], false⟩
    | .ok r =>
      if r.kind = 1 then
        match hostRead s e.fn (r.base + p.addr) 8 with
        | none => ⟨s, .protection, [], false⟩
        | some bs =>
          let v := leNat bs
          if hostPsn s (r.base + p.addr) 8 then ⟨s, .poison, cleanBytes (leBytes 8 0), false⟩ else
          let w := if kind = 1 then (if v = compare then operand else v) else (v + operand) % 2 ^ 64
          (match hostWrite s e.fn (r.base + p.addr) (leBytes 8 w) with
           | none => ⟨s, .protection, [], false⟩
           | some t => ⟨t, .ok, cleanBytes (leBytes 8 v), false⟩)
      else if localCheck s e.fn (r.base + p.addr) 8 true ≠ .ok then ⟨s, localCheck s e.fn (r.base + p.addr) 8 true, [], false⟩
      else atomicOn s (r.base + p.addr) kind operand compare

/-- The queue a PARTIAL's ADDR names (R279). -/
def queueAt (a : Nat) : Option Nat :=
  if 0xF00060000000 ≤ a ∧ a < 0xF00060000000 + 16 * 65536 ∧ a % 16 = 0 then some ((a - 0xF00060000000) / 16) else none

/-- Records of a PARTIAL's payload one by one; what no record can be read from stays whole, for its consumer to discard. -/
def splitRecords : Nat → List Byte → List (List Byte)
  | 0, _ => []
  | k + 1, b =>
    if b.isEmpty then []
    else
      let d := ([64, 96, 128, 192, 256] : List Nat).getD (bits (fieldAt b 3 1) 6 4) 4096
      let n := 24 + d * (if bitAt (fieldAt b 3 1) 1 then 2 else 4)
      if b.length < n then [b] else b.take n :: splitRecords k (b.drop n)

/-- Items appended one after another, all or none. -/
def appendAll (q : Nat) (psn : Bool) (node contrib : Nat) : List (List Byte) → State → Option State
  | [], s => some s
  | b :: r, s => (appendItem s q b psn node contrib).bind (appendAll q psn node contrib r)

/-- A PARTIAL delivered to its receive queue (R279): one record an item. A full queue holds it where it is. -/
def runPartial (s : State) (e : Option Endpoint) (p : Pkt) : Ran :=
  match queueAt (p.addr % 2 ^ 48) with
  | none => ⟨s, .protection, [], false⟩
  | some q =>
    match s.queue? q with
    | none => ⟨s, .protection, [], false⟩
    | some y =>
      if y.fixed || y.module_ || (match e with | some e => e.fn != y.fn | none => false) then ⟨s, .protection, [], false⟩
      else
        match appendAll q p.poison p.src p.contrib (splitRecords (p.data.length + 1) p.data) s with
        | some t => ⟨t, .ok, [], false⟩
        | none => ⟨s, .ok, [], true⟩

end Sys2Proof.Machine
end

