-- ==== Sys2Proof/Machine/Copies.lean ====
section
/-! DEFINITION. Protection copies as their holder keeps them: mirrors and the parity of coded groups (R151, R319, R320). -/

namespace Sys2Proof.Machine

open Sys2Proof

/-! The coded group (R320). -/

/-- GF(2^8) product with the polynomial 0x11D, over the 8 bits of b from bit k on. -/
def gfMulGo : Nat → Nat → Nat → Nat
  | 0, _, _ => 0
  | k + 1, a, b =>
    let a2 := 2 * a
    let a' := if 256 ≤ a2 then Nat.xor a2 0x11D else a2
    Nat.xor (if b % 2 = 1 then a else 0) (gfMulGo k a' (b / 2))

/-- gf_mul. -/
def gfMul (a b : Nat) : Nat := gfMulGo 8 a b

/-- gf_pow. -/
def gfPow (a : Nat) : Nat → Nat
  | 0 => 1
  | n + 1 => gfMul (gfPow a n) a

/-- gf_inv. -/
def gfInv (a : Nat) : Nat := gfPow a 254

/-- A byte times a constant. -/
def gfByte (c : Nat) (b : Byte) : Byte := BitVec.ofNat 8 (gfMul c b.toNat)

/-- Rows added: XOR, byte by byte. -/
def rowXor (a b : List Byte) : List Byte := List.zipWith (· ^^^ ·) a b

/-- A row times a constant. -/
def rowMul (c : Nat) (a : List Byte) : List Byte := a.map (gfByte c)

/-- parity_update: both parity rows after a change `delta` of data member i's row. -/
def parityUpdate (p0 p1 : List Byte) (i : Nat) (delta : List Byte) : List Byte × List Byte :=
  (rowXor p0 delta, rowXor p1 (rowMul (gfPow 2 i) delta))

/-- Bytes with poison times a constant. -/
def prowMul (c : Nat) (a : List PByte) : List PByte := a.map (fun b => (gfByte c b.1, b.2))

/-! Copies. -/

/-- The refusal of a message about a copy. -/
def copyBad (s : State) (st : Status) : Ran := ⟨s, st, [], false⟩

/-- A copy's record written. -/
def setCopy (s : State) (c : Nat) (k : ProtCopy) : State := { s with pg := { s.pg with copies := Tab.ins c k s.pg.copies } }

/-- SPAN_PROTECT at a member that will hold the copy (R319): a new copy, or one more data member of a coded group, whose shape must be the
group's (R320).
DESIGN CHOICE (unsafe): log entry 144. -/
def copySet (s : State) (node c span : Nat) (x : Span) (nodes : List Nat) (second : Bool) : Ran :=
  match Tab.find? c s.pg.copies, s.span? (copySpan c) with
  | some k, some y =>
    let same := match Tab.find? node k.members with | some m => m.span == span | none => decide (2 ≤ k.nodes.length)
    if k.nodes ≠ (if nodes.isEmpty then [node] else nodes) ∨ k.second ≠ second ∨ !same ∨ y.maxTokens ≠ x.maxTokens ∨ y.layerSlots ≠ x.layerSlots ∨
       y.rowBytes ≠ x.rowBytes then copyBad s .invalid
    else if (Tab.find? node k.members).isSome then copyBad s .ok
    else ⟨setCopy s c { k with members := Tab.ins node ⟨span, 0, 0, []⟩ k.members }, .ok, [], false⟩
  | _, _ =>
    if 2 ^ 18 ≤ c ∨ (!nodes.isEmpty && (nodes.length != 8 || !nodes.contains node)) then copyBad s .invalid
    else
      let k : ProtCopy := ⟨if nodes.isEmpty then [node] else nodes, second, [(node, ⟨span, 0, 0, []⟩)]⟩
      ⟨setCopy (s.setSpan (copySpan c) { x with start := placementStart s }) c k, .ok, [], false⟩

/-- What a row becomes in a copy: on a mirror the row itself; on a parity member, by parity_update, the parity with the change of data member i
added (R320), i being the rank of its node. -/
def copyBytes (k : ProtCopy) (node : Nat) (old bs : List PByte) : List PByte :=
  if k.nodes.length < 2 then bs
  else prowXor old (if k.second then prowMul (gfPow 2 (k.nodes.findIdx (· == node))) bs else bs)

/-- A member's HORIZON, HORIZON_GEN and page scales as the last row brought them (R151, R320). -/
def CopyMember.took (m : CopyMember) (page horizon gen : Nat) (scales : Option (Nat × Nat)) : CopyMember :=
  { m with horizon := horizon, gen := gen, scales := match scales with | some q => Tab.ins page q m.scales | none => m.scales }

/-- A committed row, or the change of one, applied to a copy (R319): its page is charged to PROT_CEIL when it is backed.
DESIGN CHOICE (unsafe): log entry 144. -/
def copyRow (s : State) (node c l r horizon gen : Nat) (scales : Option (Nat × Nat)) (bs : List PByte) : Ran :=
  let n := copySpan c
  match Tab.find? c s.pg.copies, s.span? n with
  | some k, some x =>
    match Tab.find? node k.members with
    | none => copyBad s .invalid
    | some m =>
      let q := x.rowAt l r
      if x.layerSlots ≤ l ∨ x.maxTokens ≤ r ∨ bs.length ≠ x.rowBytes then copyBad s .invalid
      else if (s.pte n q.1).st = .unbacked ∧ s.fld R.FLT_PROT.PROT_CEIL < copyUnits s + x.interleave then copyBad s .retryLater
      else
        match pageForWrite s n q.1 with
        | .wait => ⟨s, .ok, [], true⟩
        | .displaced => copyBad s .displaced
        | .ok t =>
          match writeRecords t n l r x (copyBytes k node (pageRead t (t.pte n q.1) q.2 x.rowBytes) bs) with
          | .wait => ⟨s, .ok, [], true⟩
          | .displaced => copyBad s .displaced
          | .ok t psn _ =>
            let mirror := k.nodes.length < 2
            let t := match scales with
              | some v => if mirror then t.setPte n q.1 { t.pte n q.1 with pk := v.1, pv := v.2 } else t
              | none => t
            let t := if mirror then t.setSpan n { x with horizon := horizon, appended := horizon, gen := gen } else t
            ⟨setCopy t c { k with members := Tab.ins node (m.took q.1 horizon gen scales) k.members }, psnStatus psn, [], false⟩
  | _, _ => copyBad s .invalid

/-- A member's protection ends (R319): the copy is freed with its last member.
DESIGN CHOICE (unsafe): log entry 144. -/
def copyFree (s : State) (node c : Nat) : Ran :=
  match Tab.find? c s.pg.copies with
  | none => copyBad s .invalid
  | some k =>
    let ms := Tab.del node k.members
    if ms.isEmpty then
      let t := freeSpan s (copySpan c)
      ⟨{ t with pg := { t.pg with copies := Tab.del c t.pg.copies } }, .ok, [], false⟩
    else ⟨setCopy s c { k with members := ms }, .ok, [], false⟩

/-- A WRITE of a hidden flow to a protection copy. -/
def runCopy (s : State) (p : Pkt) : CopyMsg → Ran
  | .set c span slots tokens kvHeads dim fmt ilog nodes second => copySet s p.src c span (copyShape slots tokens kvHeads dim fmt ilog) nodes second
  | .row c l r horizon gen scales => copyRow s p.src c l r horizon gen scales (p.data.map (fun b => (b, p.poison)))
  | .free c => copyFree s p.src c

/-- The rows of a node's span that a copy here holds (R322): (slot, row), with the copy's index in its group and the bytes. -/
def heldRows (s : State) (node span : Nat) : List ((Nat × Nat) × (Nat × List Byte)) :=
  match s.pg.copies.find? (fun c => match Tab.find? node c.2.members with | some m => m.span == span | none => false) with
  | none => []
  | some (c, k) =>
    match s.span? (copySpan c), Tab.find? node k.members with
    | some x, some m =>
      let i := if k.nodes.length < 2 then 0 else if k.second then 9 else 8
      ((List.range x.layerSlots).flatMap (fun l => (List.range (min m.horizon x.maxTokens)).map (fun r => (l, r)))).filterMap (fun q =>
        if rowWritten s (copySpan c) q.1 q.2 then some (q, (i, rawBytes (rowBytesAt s (copySpan c) q.1 q.2))) else none)
    | _, _ => []

end Sys2Proof.Machine
end

