-- ==== Sys2Proof/Machine/Tiles.lean ====
section
/-! DEFINITION. Tile commands: the matrix-vector product, vector ops, copies, routing, sampling and verification, streams, expanders and
tile self-checks (chapters 04, 05 and 10). -/

namespace Sys2Proof.Machine

open Sys2Proof

/-! `errs` of a command are the storage errors that its op meets (R66, R122). -/

/-- A tile set of which a tile drains takes no further op (Table 5-6). -/
def setDrains (s : State) (k : OpCtx) : Bool := k.tiles.any (fun t => s.flag R.TILE_CTL.DRAIN (bindTile s t))

/-- What one tile's part of an op answers: none is ST_PROTECTION. -/
abbrev TilePart := Option (State × Status × Nat)

/-- Is a tile of the set taken by another op: one that has claimed a stream on it and is not done (R63, R76)? -/
def tileTaken (s : State) (k : OpCtx) (t : Nat) : Bool :=
  s.tl.streams.any (fun p => bindTile s (p.1 / 4) == bindTile s t &&
    match p.2.claim with | some c => c != (k.h, k.idx) | none => false)

/-- The opcodes of the ops that a tile runs in issue order: all that name a tile set, except stream hints (R63). -/
def tileOpcodes : List Nat := [0x01, 0x06, 0x08, 0x09, 0x0B, 0x30]

/-- The physical tiles an op of a program runs on. -/
def opTiles (s : State) (p : Prog) (o : Op) : List Nat :=
  if tileOpcodes.contains o.opcode && !(o.opcode == 0x08 && o.varBit 1) then (maskTiles (p.tileSets.getD o.unit_ 0)).map (bindTile s) else []

/-- Does an earlier op of the same context that shares a tile still wait (R63: a tile retires one context's ops in issue order)? -/
def earlierOnTile (s : State) (k : OpCtx) : Bool :=
  match s.ctx? k.h with
  | none => false
  | some c => c.inflight.any (fun i => decide (i < k.idx) &&
      match opAt k.p c i with
      | some o => (opTiles s k.p o).any (fun t => (k.tiles.map (bindTile s)).contains t)
      | none => false)

/-- Must a tile op wait: a tile of its set drains, runs another op, or has an earlier op of the context to run (R63, Table 5-6)? -/
def tilesBusy (s : State) (k : OpCtx) : Bool := setDrains s k || k.tiles.any (tileTaken s k) || earlierOnTile s k

/-- An op on every tile of its set, ascending; ST_PROTECTION on any tile leaves the state as it was. -/
def onTiles (k : OpCtx) (s : State) (f : Nat → State → TilePart) : OpOut :=
  if tilesBusy s k then .wait s
  else
    match k.tiles.foldl (fun (acc : TilePart) t =>
      match acc with
      | none => none
      | some (s, st, n) => (match f t s with
        | none => none
        | some (s, st', n') => some (s, st.worse st', n + n'))) (some (s, Status.ok, 0)) with
    | none => .done s .protection 0
    | some (t, st, n) => .done t st n

/-- A vector operand of a tile, BF16 or FP32. -/
def tileVec (s : State) (k : OpCtx) (bf : Bool) (hd t n : Nat) : Option (List PElem × State) :=
  match operand s k hd t 0 (vecBytes bf n) false with
  | none => none
  | some a => let r := locRead s k.h a (vecBytes bf n); some (vecElems bf r.1, r.2)

/-- An FP32 vector operand of a tile. -/
def tileF32 (s : State) (k : OpCtx) (hd t off n : Nat) : Option (List PElem × State) :=
  match operand s k hd t (4 * off) (4 * n) false with
  | none => none
  | some a => let r := locRead s k.h a (4 * n); some (elemsOf r.1, r.2)

/-- Bytes written at DST on a tile; poison, or bytes lost to it, is ST_POISON (R40). -/
def tileOut (s : State) (k : OpCtx) (t : Nat) (bs : List PByte) (psn : Bool) (sat : Nat) : TilePart :=
  match operand s k k.o.dst t 0 bs.length true with
  | none => none
  | some a => let r := locWrite s k.h a bs; some (r.1, psnStatus (psn || r.2), sat)

/-- A vector written at DST in an output format. -/
def vecOut (s : State) (k : OpCtx) (t fmt : Nat) (es : List PElem) : TilePart :=
  let o := outVector fmt es
  tileOut s k t o.1 o.2.2 o.2.1

/-! Element-wise ops (R73, R71). -/

/-- The FP32 value of AUX, or the constant ARG0 where AUX names no buffer.
DEDUCED (unsafe): log entry 51. -/
def scaleValue (s : State) (k : OpCtx) (t : Nat) : Option (PElem × State) :=
  if k.o.aux = 0xFFFF then some ((BitVec.ofNat 32 k.o.arg0, false), s)
  else match tileF32 s k k.o.aux t 0 1 with
    | some (e :: _, s) => some (e, s)
    | _ => none

/-- An ELEMWISE op of two vectors.
DESIGN CHOICE (safe): log entry 23. -/
def elem2 (f : W32 → W32 → W32) (bx bz : Bool) (k : OpCtx) (t : Nat) (s : State) : TilePart :=
  match tileVec s k bx k.o.src0 t k.o.arg1 with
  | none => none
  | some (xs, s) =>
    match tileVec s k bz k.o.src1 t k.o.arg1 with
    | none => none
    | some (zs, s) => vecOut s k t (k.o.var / 8) (List.zipWith (fun (x z : PElem) => (f x.1 z.1, x.2 || z.2)) xs zs)

/-- SCALE.
DESIGN CHOICE (safe): log entry 23. -/
def elemScale (bf : Bool) (k : OpCtx) (t : Nat) (s : State) : TilePart :=
  match tileVec s k bf k.o.src0 t k.o.arg1 with
  | none => none
  | some (xs, s) =>
    match scaleValue s k t with
    | none => none
    | some (c, s) => vecOut s k t (k.o.var / 8) (xs.map (fun x => (fMul x.1 c.1, x.2 || c.2)))

/-- CONVERT: BF16 to FP32 where the output is FP32, otherwise FP32 to BF16 or A8. -/
def elemConvert (k : OpCtx) (t : Nat) (s : State) : TilePart :=
  let f := k.o.var / 8
  let n := k.o.arg1
  if f = 0 then
    match operand s k k.o.src0 t 0 (2 * n) false with
    | none => none
    | some a => let r := locRead s k.h a (2 * n); vecOut r.2 k t 0 (elemsBf r.1)
  else
    match tileF32 s k k.o.src0 t 0 n with
    | none => none
    | some (xs, s) => vecOut s k t f xs

/-- SUM_PARTS: ARG2 vectors of n FP32 elements, one after another at SRC0. An activation scale that is NaN or infinite poisons every
result (Table 3-8). -/
def elemParts (k : OpCtx) (t : Nat) (s : State) : TilePart :=
  let n := k.o.arg1
  match tileF32 s k k.o.src0 t 0 (k.o.arg2 * n) with
  | none => none
  | some (xs, s) =>
    match scaleValue s k t with
    | none => none
    | some (c, s) =>
      let bad := c.2 || !fFinite c.1
      let ps := chunk n xs
      let ys := (List.range n).map (fun i =>
        let e := ps.map (fun p => p.getD i (0#32, false))
        (fMul (serialSum (e.map (·.1))) c.1, e.any (·.2) || bad))
      vecOut s k t (k.o.var / 8) ys

/-- Is an op ELEMWISE of a kind? -/
def isElem (kind : Nat) (o : Op) : Bool := o.opcode == 0x09 && o.var % 8 == kind

/-- ELEMWISE_ADD (R73); `bf` and `bz` say whether SRC0 and SRC1 hold BF16 (log entry 23). -/
def execElemwiseAdd (handle : Nat) (bf bz : Bool) (errs : Errs) (s : State) : Host.Outcome State Fault Refusal :=
  act s (runOp s handle (isElem 0) (withErrs errs (fun k s => onTiles k s (elem2 fAdd bf bz k))))

/-- ELEMWISE_MUL (R73). -/
def execElemwiseMul (handle : Nat) (bf bz : Bool) (errs : Errs) (s : State) : Host.Outcome State Fault Refusal :=
  act s (runOp s handle (isElem 1) (withErrs errs (fun k s => onTiles k s (elem2 fMul bf bz k))))

/-- ELEMWISE_SCALE (R73). -/
def execElemwiseScale (handle : Nat) (bf : Bool) (errs : Errs) (s : State) : Host.Outcome State Fault Refusal :=
  act s (runOp s handle (isElem 2) (withErrs errs (fun k s => onTiles k s (elemScale bf k))))

/-- SILU_GATE (R73): SRC0 is g, SRC1 is u. -/
def execSiluGate (handle : Nat) (bf bz : Bool) (errs : Errs) (s : State) : Host.Outcome State Fault Refusal :=
  act s (runOp s handle (isElem 3) (withErrs errs (fun k s => onTiles k s (elem2 siluGate bf bz k))))

/-- CONVERT (R73). -/
def execConvert (handle : Nat) (errs : Errs) (s : State) : Host.Outcome State Fault Refusal :=
  act s (runOp s handle (isElem 4) (withErrs errs (fun k s => onTiles k s (elemConvert k))))

/-- SUM_PARTS (R71). -/
def execSumParts (handle : Nat) (errs : Errs) (s : State) : Host.Outcome State Fault Refusal :=
  act s (runOp s handle (isElem 5) (withErrs errs (fun k s => onTiles k s (elemParts k))))

/-! Norms (R73, R112). -/

/-- The mean of a layer norm.
DEDUCED (unsafe): log entry 48. -/
def layerMean (xs : List W32) (n : Nat) : W32 := fMul (laneSum xs) (fRecip (fNat n))

/-- A norm of a vector given the sum of squares of its (centred) elements. -/
def normVec (ss : W32) (n : Nat) (eps : W32) (xs gs bs : List PElem) (layer : Bool) : List PElem :=
  let r := normFactor ss n eps
  let ys := List.zipWith (fun (x g : PElem) => (fMul (fMul x.1 r) g.1, x.2 || g.2)) xs gs
  if layer then List.zipWith (fun (y b : PElem) => (fAdd y.1 b.1, y.2 || b.2)) ys bs else ys

/-- The sum of squares in the banks (R114): each bank pair's elements by nbu_sumsq, the pairs in ascending order by chain_sum; the stacks of
a vector that crosses them are taken in ascending order too.
DEDUCED (unsafe): log entry 49. -/
def bankSumsq (a w : Nat) (xs : List W32) : W32 :=
  let groups := (List.zip (List.range xs.length) xs).foldl (fun (t : List (Nat × List W32)) p =>
    let key := (a + p.1 * w - t1Base) / 2 ^ 27
    Tab.ins key (Tab.get [] key t ++ [p.2]) t) []
  serialSum (groups.map (fun g => nbuSumsq g.2))

/-- A norm on one tile, or (banks) on the vector where it lies in T1; `bf` says whether x is BF16.
DESIGN CHOICE (safe): log entry 23. -/
def normPart (banks bf : Bool) (k : OpCtx) (t : Nat) (s : State) : TilePart :=
  let n := k.o.arg1
  let layer := k.o.varBit 0
  match operand s k k.o.src0 t 0 (vecBytes bf n) false with
  | none => none
  | some a =>
    let r := locRead s k.h a (vecBytes bf n)
    let xs := vecElems bf r.1
    match tileF32 r.2 k k.o.src1 t 0 n with
    | none => none
    | some (gs, s) =>
      let b? : Option (List PElem × State) := if layer then tileF32 s k k.o.aux t 0 n else some ([], s)
      match b? with
      | none => none
      | some (bs, s) =>
        let vals := xs.map (·.1)
        let mu := if layer then layerMean vals n else 0#32
        let cs := if layer then vals.map (fun v => fSub v mu) else vals
        let ss := match banks, a with
          | true, .mem ad => bankSumsq ad (if bf then 2 else 4) cs
          | _, _ => laneSumsq cs
        let p := xs.any (·.2)
        let ys := normVec ss n (BitVec.ofNat 32 k.o.arg0) (List.zipWith (fun c (x : PElem) => (c, x.2)) cs xs) gs bs layer
        let o := outVector (k.o.var / 4 % 4) (poisonAll p ys)
        match operand s k k.o.dst t 0 o.1.length true with
        | none => none
        | some d =>
          let w := if banks then chainStore s k d o.1 else locWrite s k.h d o.1
          some (w.1, psnStatus (o.2.2 || w.2), o.2.1)

/-- The NORM op: on tiles, or with VAR[1] on the banks. -/
def normOp (bf : Bool) (k : OpCtx) (s : State) : OpOut :=
  if k.o.varBit 1 then
    if maskDrains s k.o.unit_ then .wait s
    else match normPart true bf k k.anyTile s with
      | none => .done s .protection 0
      | some (t, st, n) => .done t st n
  else onTiles k s (normPart false bf k)

/-- NORM (R73, R112). -/
def execNorm (handle : Nat) (bf : Bool) (errs : Errs) (s : State) : Host.Outcome State Fault Refusal :=
  act s (runOp s handle (fun o => o.opcode == 0x08) (withErrs errs (normOp bf)))

/-! Copies (R179, R372). -/

/-- TILE_COPY of ARG0 bytes on one tile. -/
def copyPart (k : OpCtx) (t : Nat) (s : State) : TilePart :=
  match operand s k k.o.src0 t 0 k.o.arg0 false with
  | none => none
  | some a => let r := locRead s k.h a k.o.arg0; tileOut r.2 k t r.1 (anyPsn r.1) 0

/-! Activation batts (R61). -/

/-- The batts of an activation vector of n symbols in a byte list, decoded one after another by a tile's expander: the values with their
poison, the bytes used, and the worst status; `k` bounds the batts. -/
def actGo (t fn h n : Nat) : Nat → Nat → List PByte → State → List (Nat × Bool) × Nat × Status × State
  | 0, _, _, s => ([], 0, .ok, s)
  | k + 1, b, bs, s =>
    if n ≤ 16384 * b then ([], 0, .ok, s)
    else
      let hd := parseHeader (seenBytes s bs)
      let part := bs.take hd.size
      let seen := seenBytes s part
      let s := if anyPsn part then s.takeFree part.length else s
      let s := if hd.raw then s else useTable s t fn hd.tableId hd.tableGen
      let r := decodeBatt (battWant true 1 n b) (tableOf s fn) seen
      let st : Status := match r.2 with | some f => if f.isLength then .battLength else .poison | none => psnStatus (anyPsn part)
      let s := (s.incFld R.EXP_BATT_CNT.BATTS 1 t).incFld R.EXP_BATT_CNT.RAW (bit hd.raw) t
      let s := match r.2 with
        | some f => battFault (s.takeFree 1) t fn h (Config.freeNat s.freeCtr % 2 ^ 32) b f st
        | none => s
      let q := actGo t fn h n k (b + 1) (bs.drop hd.size) s
      (r.1.map (fun v => (v, st != .ok)) ++ q.1, hd.size + q.2.1, st.worse q.2.2.1, q.2.2.2)

/-- TILE_COPY of an activation record: the batts of n A8 values and the FP32 vector scale behind them, expanded at the destination tile to
the plain vector with its scale (R61).
DESIGN CHOICE (unsafe): log entry 137. -/
def actPart (n : Nat) (k : OpCtx) (t : Nat) (s : State) : TilePart :=
  match operand s k k.o.src0 t 0 k.o.arg0 false with
  | none => none
  | some a =>
    let r := locRead s k.h a k.o.arg0
    let q := actGo t k.c.fn k.h n (n / 16384 + 2) 0 r.1 r.2
    let vals := q.1.map (fun v => (BitVec.ofNat 8 v.1, v.2))
    let sc := (r.1.drop q.2.1).take 4
    let sc := sc ++ List.replicate (4 - sc.length) (0#8, true)
    match tileOut q.2.2.2 k t (vals ++ List.replicate (alignUp n 4 - n) (0#8, false) ++ sc) (anyPsn vals || anyPsn sc) 0 with
    | none => none
    | some w => some (w.1, w.2.1.worse q.2.2.1, w.2.2)

/-- TILE_COPY (R179). With `act` not 0 the source holds an activation vector of `act` values as batts (R61). -/
def execTileCopy (handle act_ : Nat) (errs : Errs) (s : State) : Host.Outcome State Fault Refusal :=
  act s (runOp s handle (fun o => o.opcode == 0x06 && !o.varBit 0) (withErrs errs (fun k s => onTiles k s (if act_ = 0 then copyPart k else actPart act_ k))))

/-- GATHER_ROW on one tile. -/
def gatherPart (k : OpCtx) (t : Nat) (s : State) : TilePart :=
  let n := k.o.arg0
  let id? : Option (Nat × Bool × State) :=
    if k.o.src1 = 0xFFFF then some (((s.ctx? k.h).map (·.token)).getD k.c.token, false, s)
    else match operand s k k.o.src1 t 0 4 false with
      | none => none
      | some a => let r := locRead s k.h a 4; some (leNat (rawBytes r.1), anyPsn r.1, r.2)
  match id? with
  | none => none
  | some (_, true, s) => tileOut s k t (List.replicate n (0#8, true)) true 0
  | some (id, false, s) =>
    match operand s k k.o.src0 t (id * n) n false with
    | none => none
    | some a => let r := locRead s k.h a n; tileOut r.2 k t r.1 (anyPsn r.1) 0

/-- GATHER_ROW (R372). -/
def execGatherRow (handle : Nat) (errs : Errs) (s : State) : Host.Outcome State Fault Refusal :=
  act s (runOp s handle (fun o => o.opcode == 0x06 && o.varBit 0) (withErrs errs (fun k s => onTiles k s (gatherPart k))))

/-! Routing (R73, R74). -/

/-- ROUTE on one tile. -/
def routePart (k : OpCtx) (t : Nat) (s : State) : TilePart :=
  match tileF32 s k k.o.src0 t 0 k.o.arg1 with
  | none => none
  | some (xs, s) =>
    let p := xs.any (fun x => x.2 || fIsNaN x.1)
    let r := routeTopK (xs.map (·.1)) k.o.arg0
    let idx := r.1.flatMap (fun i => leBytes 2 i)
    let bs := padTo (alignUp (2 * k.o.arg0) 4) idx ++ r.2.flatMap (fun w => leBytes 4 w.toNat)
    tileOut s k t (bs.map (fun b => (b, p))) p 0

/-- ROUTE (R74). -/
def execRoute (handle : Nat) (errs : Errs) (s : State) : Host.Outcome State Fault Refusal :=
  act s (runOp s handle (fun o => o.opcode == 0x0B) (withErrs errs (fun k s => onTiles k s (routePart k))))

/-! Sampling (R185 to R187). -/

/-- rv_mix (R185). -/
def rvMix (x : W64) : W64 :=
  let x := (x ^^^ (x >>> 31)) * 0xA5C396E14B27D30F#64
  let x := (x ^^^ (x >>> 29)) * 0x6F2D91B8C35E0A47#64
  x ^^^ (x >>> 32)

/-- draw (R185): a multiple of 2^-24 in [0, 1), exact in FP32. -/
def draw (seed ctr idx : Nat) : W32 :=
  fOfInt ((rvMix (rvMix (BitVec.ofNat 64 seed ^^^ BitVec.ofNat 64 ctr) ^^^ BitVec.ofNat 64 idx) >>> 40).toNat) (-24)

/-- A candidate: logit, id, poison. -/
structure Cand where
  z : W32
  id : Nat
  psn : Bool
  deriving DecidableEq, Repr

/-- Candidate order (R186): logits descending, ties to the lower id. -/
def candBefore (a b : Cand) : Bool := fLt b.z a.z || (!fLt a.z b.z && decide (a.id ≤ b.id))

/-- Insertion in candidate order. -/
def candIns (c : Cand) : List Cand → List Cand
  | [] => [c]
  | a :: r => if candBefore c a then c :: a :: r else a :: candIns c r

/-- The k best candidates in order. -/
def topCands (cs : List Cand) (k : Nat) : List Cand := (cs.foldr candIns []).take k

/-- Running sums of the weights, in rank order (R186). -/
def cumSums (zmax invT : W32) : List Cand → W32 → List W32
  | [], _ => []
  | c :: r, tot => let t := fAdd tot (fExp (fMul (fSub c.z zmax) invT)); t :: cumSums zmax invT r t

/-- select (R186). -/
def selectTok (cands : List Cand) (k mode : Nat) (invT topP u : W32) : Nat :=
  let c := topCands cands k
  let last := c.length - 1
  if mode = 0 then (c.map (·.id)).headD 0
  else
    let cum := cumSums ((c.map (·.z)).headD 0#32) invT c 0#32
    let lim := fMul topP (cum.getD last 0#32)
    let n := if mode = 2 then (((List.range c.length).find? (fun j => !fLt (cum.getD j 0#32) lim && !fIsNaN (cum.getD j 0#32))).map (· + 1)).getD
      c.length else c.length
    let t := fMul u (cum.getD (n - 1) 0#32)
    match (List.range n).find? (fun j => fLt t (cum.getD j 0#32) && !fIsNaN (cum.getD j 0#32)) with
    | some j => (c.map (·.id)).getD j 0
    | none => (c.map (·.id)).getD (n - 1) 0

/-- Is a candidate list poisoned: by its bytes, a NaN logit, or a largest logit of −∞ (R186)? -/
def candsBad (cs : List Cand) : Bool :=
  cs.any (fun c => c.psn || fIsNaN c.z) || ((topCands cs 1).map (·.z)).headD fNegInf == fNegInf

/-- Logits with their ids as candidates. -/
def logitCands (es : List PElem) (first : Nat) : List Cand := es.zipIdx.map (fun p => ⟨p.1.1, (first + p.2) % 2 ^ 32, p.1.2⟩)

/-- Pairs of FP32 logit and id as candidates; a pair is poisoned with its value group of 32 words, which is 16 pairs.
DEDUCED (unsafe): log entry 128. -/
def pairCands (bs : List PByte) : List Cand :=
  (chunk 128 bs).flatMap (fun g => let p := anyPsn g
    (chunk 8 g).map (fun b => ⟨BitVec.ofNat 32 (leNat (rawBytes (b.take 4))), leNat (rawBytes (b.drop 4)), p⟩))

/-- The chosen token written at DST and into TOKEN, or, poisoned, zero with its line marked. -/
def tokenOut (s : State) (k : OpCtx) (t : Nat) (cs : List Cand) : TilePart :=
  if candsBad cs then tileOut s k t (List.replicate 4 (0#8, true)) true 0
  else
    let u := draw k.c.seed k.c.stepCtr (bits k.o.arg4 23 20)
    let tok := selectTok cs k.o.arg0 (k.o.var / 4) (BitVec.ofNat 32 k.o.arg1) (BitVec.ofNat 32 k.o.arg2) u
    tileOut (s.updCtx k.h (fun c => { c with token := tok })) k t (cleanBytes (leBytes 4 tok)) false 0

/-- SAMPLE stage FULL on one tile. -/
def fullPart (k : OpCtx) (t : Nat) (s : State) : TilePart :=
  match tileF32 s k k.o.src0 t 0 (bits k.o.arg4 19 0) with
  | none => none
  | some (xs, s) => tokenOut s k t (logitCands xs k.o.arg3)

/-- SAMPLE stage LOCAL on one tile. Poison among the logits, a NaN, or a largest logit of −∞ poisons every pair written (R38, R186).
DEDUCED (unsafe): log entry 128. -/
def localPart (k : OpCtx) (t : Nat) (s : State) : TilePart :=
  match tileF32 s k k.o.src0 t 0 (bits k.o.arg4 19 0) with
  | none => none
  | some (xs, s) =>
    let cs := logitCands xs k.o.arg3
    let p := candsBad cs
    let best := topCands cs k.o.arg0
    tileOut s k t (best.flatMap (fun b => (leBytes 4 b.z.toNat ++ leBytes 4 b.id).map (fun x => (x, p)))) p 0

/-- SAMPLE stage SELECT on one tile. -/
def selectPart (k : OpCtx) (t : Nat) (s : State) : TilePart :=
  let n := 8 * bits k.o.arg4 19 0
  match operand s k k.o.src0 t 0 n false with
  | none => none
  | some a => let r := locRead s k.h a n; tokenOut r.2 k t (pairCands r.1)

/-- SAMPLE_FULL (R186). -/
def execSampleFull (handle : Nat) (errs : Errs) (s : State) : Host.Outcome State Fault Refusal :=
  act s (runOp s handle (fun o => o.opcode == 0x30 && o.var % 4 == 0) (withErrs errs (fun k s => onTiles k s (fullPart k))))

/-- SAMPLE_LOCAL (R186). -/
def execSampleLocal (handle : Nat) (errs : Errs) (s : State) : Host.Outcome State Fault Refusal :=
  act s (runOp s handle (fun o => o.opcode == 0x30 && o.var % 4 == 1) (withErrs errs (fun k s => onTiles k s (localPart k))))

/-- SAMPLE_SELECT (R186). -/
def execSampleSelect (handle : Nat) (errs : Errs) (s : State) : Host.Outcome State Fault Refusal :=
  act s (runOp s handle (fun o => o.opcode == 0x30 && o.var % 4 == 2) (withErrs errs (fun k s => onTiles k s (selectPart k))))

/-- The largest a with t_j = d_j for every j below it (R187). -/
def agreeing : List Nat → List Nat → Nat
  | t :: ts, d :: ds => if t = d then agreeing ts ds + 1 else 0
  | _, _ => 0

/-- The VERIFY op.
DEDUCED (unsafe): log entry 119. -/
def verifyOp (k : OpCtx) (s : State) : OpOut :=
  let t := k.anyTile
  let w := 8 * bits k.o.arg3 19 0
  match operand s k k.o.src1 t 0 4 false with
  | none => .done s .protection 0
  | some a0 =>
    let r0 := locRead s k.h a0 4
    let n := leNat (rawBytes r0.1)
    let bad0 := anyPsn r0.1
    if !bad0 && (n == 0 || decide (15 < n)) then .done r0.2 .invalid 0
    else
      let n := if bad0 then 0 else n
      match operand r0.2 k k.o.src1 t 4 (4 * n) false, operand r0.2 k k.o.src0 t 0 (w * (n + 1)) false,
        operand r0.2 k k.o.dst t 0 8 true with
      | some a1, some a2, some d =>
        let r1 := locRead r0.2 k.h a1 (4 * n)
        let r2 := locRead r1.2 k.h a2 (w * (n + 1))
        let lists := (chunk w r2.1).map pairCands
        let bad := bad0 || anyPsn r1.1 || lists.any candsBad
        if bad then
          let q := locWrite r2.2 k.h d (List.replicate 8 (0#8, true))
          .done q.1 .poison 0
        else
          let toks := lists.zipIdx.map (fun l => selectTok l.1 k.o.arg0 (k.o.var / 4) (BitVec.ofNat 32 k.o.arg1) (BitVec.ofNat 32 k.o.arg2)
            (draw k.c.seed k.c.stepCtr l.2))
          let ds := (chunk 4 (rawBytes r1.1)).map leNat
          let acc := agreeing toks ds
          let ta := toks.getD acc 0
          let q := locWrite r2.2 k.h d (cleanBytes (leBytes 2 acc ++ leBytes 2 n ++ leBytes 4 ta))
          .done (q.1.updCtx k.h (fun c => { c with accepted := acc, token := ta })) (psnStatus q.2) 0
      | _, _, _ => .done r0.2 .protection 0

/-- VERIFY (R187). -/
def execVerify (handle : Nat) (errs : Errs) (s : State) : Host.Outcome State Fault Refusal := act s (runOp s handle (fun o => o.opcode == 0x31) (withErrs errs verifyOp))

/-- STEP_NOP (R183). -/
def execStepNop (handle : Nat) (s : State) : Host.Outcome State Fault Refusal :=
  act s (runOp s handle (fun o => o.opcode == 0x3F) (fun _ s => .done s .ok 0))

/-! The matrix-vector product. -/

/-- The descriptor address for the i-th tile of an op's set (R179, kind 4). -/
def descAddr (k : OpCtx) (i : Nat) : Option Nat :=
  match k.p.bufs[k.o.src1]? with
  | some b => let o := k.iterOff b + 64 * i; if b.kind = 4 ∧ o + 64 ≤ b.size then some (b.base + o) else none
  | none => none

/-- The op's stream buffer. -/
def opBuf (k : OpCtx) : Nat := k.o.aux % 4

/-- The tiles of the op with their descriptors; none where a tensor is not valid, not loaded or does not fit (R67, R75, R78, R297). -/
def opTensors (s : State) (k : OpCtx) : Option (List (Nat × Nat × TensorDesc)) :=
  k.tiles.zipIdx.foldr (fun p acc =>
    match acc, descAddr k p.2 with
    | some l, some a => (match descAt s k.c.fn a with
      | some d => if streamOk s (bindTile s p.1) (opBuf k) (t2Allowed s p.1 (opBuf k) k.c.fn a d) d then some ((p.1, a, d) :: l) else none
      | none => none)
    | _, _ => none) (some [])

/-- Are the results BF16: OUT_BF16 without NO_ASCALE, which writes FP32 parts (R69, R71)? -/
def OpCtx.mvBf (k : OpCtx) : Bool := k.o.varBit 1 && !k.o.varBit 0

/-- Do the operands of the product lie where they must on a tile? -/
def mvOperands (s : State) (k : OpCtx) (t : Nat) (d : TensorDesc) : Option (Loc × Loc) :=
  match operand s k k.o.src0 t 0 (k.o.arg0 * actRowBytes d) false,
        operand s k k.o.dst t 0 (k.o.arg0 * d.rows * (if k.mvBf then 2 else 4)) true with
  | some a, some b => some (a, b)
  | _, _ => none

/-- The results of one tile written, once its tensor is decoded. -/
def mvPart (k : OpCtx) (d : TensorDesc) (t : Nat) (s : State) : TilePart :=
  match mvOperands s k t d, stream? s (bufKey t (opBuf k)) with
  | some (a, b), some x =>
    let w := actRowBytes d
    let r := locRead s k.h a (k.o.arg0 * w)
    let ys := (chunk w r.1).map (mvRow d x (k.o.varBit 0))
    let o := ys.flatMap (fun y => (outVector (bit k.mvBf) y).1)
    let q := locWrite r.2 k.h b o
    some (q.1, x.status.worse (psnStatus (q.2 || ys.any (fun y => y.any (·.2)))), 0)
  | _, _ => none

/-- Does the op have the stream of its buffer on a tile? -/
def ownsStream (s : State) (k : OpCtx) (t : Nat) : Bool :=
  match stream? s (bufKey t (opBuf k)) with
  | some x => x.claim == some (k.h, k.idx)
  | none => false

/-- Does another op have the stream of its buffer on a tile? -/
def streamTaken (s : State) (k : OpCtx) (t : Nat) : Bool :=
  match stream? s (bufKey t (opBuf k)) with
  | some x => (match x.claim with | some c => c != (k.h, k.idx) | none => false)
  | none => false

/-- The streams of the op's buffer end as its status says (R77), except one that another op consumes; queued hints follow. -/
def mvRelease (k : OpCtx) (st : Status) (s : State) : State :=
  k.tiles.foldl (fun s t => if streamTaken s k t then s else releaseStream s t (opBuf k) st) s

/-- The product once every tile's tensor is decoded. -/
def mvFinish (k : OpCtx) (ts : List (Nat × Nat × TensorDesc)) (s : State) : OpOut :=
  match ts.foldl (fun (acc : TilePart) p =>
    match acc with
    | none => none
    | some (s, st, n) => (match mvPart k p.2.2 p.1 s with
      | none => none
      | some (s, st', _) => some (s, st.worse st', n))) (some (s, Status.ok, 0)) with
  | none => .done (mvRelease k .protection s) .protection 0
  | some (t, st, _) => .done (mvRelease k st t) st 0

/-- The MV_TILE op: it claims its streams, and then (unless `stepwise`) they run to their end and the product is written.
DESIGN CHOICE (safe): log entry 52. -/
def mvTileOp (stepwise : Bool) (k : OpCtx) (s : State) : OpOut :=
  if tilesBusy s k && !k.tiles.any (ownsStream s k) then .wait s
  else
    match opTensors s k with
    | none => .done (mvRelease k .invalid s) .invalid 0
    | some ts =>
      if !ts.all (fun p => (mvOperands s k p.1 p.2.2).isSome) then .done (mvRelease k .protection s) .protection 0
      else
        let s0 := s
        let s := ts.foldl (fun s p => if ownsStream s0 k p.1 then s else claimStream s p.1 (opBuf k) k.c.fn k.h p.2.1 p.2.2 (some (k.h, k.idx))) s
        if stepwise then
          if ts.all (fun p => streamDone s (bufKey p.1 (opBuf k))) then mvFinish k ts s else .wait s
        else
          mvFinish k ts (ts.foldl (fun s p => runStream p.1 (bufKey p.1 (opBuf k)) (2 * p.2.2.batts + 2) s) s)

/-- The storage errors of an MV_TILE: T1 and T2 are met as the streams fill, T0 words once they are there. Where the op waits for its
streams, STREAM_FILL and EXPANDER_DECODE meet them. -/
def mvErrs (e : Errs) (body : OpCtx → State → OpOut) (k : OpCtx) (s : State) : OpOut :=
  match body k (errsMet k { e with t0 := [] } s) with
  | .wait _ => body k s
  | .done _ _ _ => withErrs e body k s

/-- MV_TILE (R69). With `stepwise` the op only claims its streams, and STREAM_FILL, TABLE_MISS and EXPANDER_DECODE carry it to its end.
`errs` are the storage errors that it meets, in its window lines among them (R66, R77). -/
def execMvTile (handle : Nat) (stepwise : Bool) (errs : Errs) (s : State) : Host.Outcome State Fault Refusal :=
  act s (runOp s handle (fun o => o.opcode == 0x01) (mvErrs errs (mvTileOp stepwise)))

/-- The STREAM_HINT op. No op is bound to a tile that drains (Table 5-6). A hint that ends in ST_INVALID is not counted.
DESIGN CHOICE (unsafe): log entry 133. -/
def streamHintOp (k : OpCtx) (s : State) : OpOut :=
  if setDrains s k then .wait s else
  match opTensors s k with
  | none => .done s .invalid 0
  | some ts =>
    .done (ts.foldl (fun s p =>
      let key := bufKey p.1 (opBuf k)
      let s := s.incFld R.TILE_STREAM_CNT.HINTS 1 p.1
      match stream? s key with
      | some x =>
        if x.claim.isSome then { s with tl := { s.tl with hints := Tab.ins key (p.2.1, k.c.fn, k.h) s.tl.hints } }
        else claimStream s p.1 (opBuf k) k.c.fn k.h p.2.1 p.2.2 none
      | none => claimStream s p.1 (opBuf k) k.c.fn k.h p.2.1 p.2.2 none) s) .ok 0

/-- STREAM_HINT (R76). -/
def execStreamHint (handle : Nat) (s : State) : Host.Outcome State Fault Refusal :=
  act s (runOp s handle (fun o => o.opcode == 0x05) streamHintOp)

/-- STREAM_FILL. -/
def doStreamFill (t b : Nat) (e : Errs) (s : State) : State :=
  match stream? s (bufKey t b) with
  | none => s
  | some x => fillNext (errsOf x.fn { e with t0 := [] } s) t (bufKey t b)

/-- STREAM_FILL (R75): the streaming engine reads the next batt of a buffer's stream; `errs` are the T1 sectors and T2 lines in error that
it meets (R77). -/
def execStreamFill (tile buffer : Nat) (errs : Errs) (s : State) : Host.Outcome State Fault Refusal := act s (doStreamFill tile buffer errs s)

/-- TABLE_MISS (R51): a table of a function's models comes to a slot of a tile. -/
def execTableMiss (tile fn table generation : Nat) (s : State) : Host.Outcome State Fault Refusal :=
  act s (if 256 ≤ tile then s else useTable s tile fn table generation)

/-- EXPANDER_DECODE.
DESIGN CHOICE (unsafe): log entry 18. -/
def doExpanderDecode (t b : Nat) (e : Errs) (s : State) : State :=
  let k := bufKey t b
  match stream? s k with
  | none => s
  | some x =>
    match x.claim with
    | none => s
    | some (h, idx) =>
      let before := s
      let s := decodeNext (t0Words e.t0 s) t k
      match opCtxOf s h idx with
      | none => s
      | some c =>
        match opTensors s c with
        | none => s
        | some ts =>
          if ts.all (fun p => streamDone s (bufKey p.1 (opBuf c))) then
            t0Fails e.t0 before (settle h idx (mvFinish c ts (errsMet c { e with t0 := [] } s)))
          else t0Fails e.t0 before s

/-- EXPANDER_DECODE (R54): the next batt of a stream that an op consumes; after the last of the op's tiles the op retires. `errs` are the
storage errors met: T0 words of the window, and what the op's other operands meet at its end (R66). -/
def execExpanderDecode (tile buffer : Nat) (errs : Errs) (s : State) : Host.Outcome State Fault Refusal :=
  act s (doExpanderDecode tile buffer errs s)

/-- TILE_SELF_CHECK (R80): the tile and whether it passed. -/
def execTileSelfCheck (tile : Nat) (pass : Bool) (time : Nat) (s : State) : Host.Outcome State Fault Refusal :=
  act s (if 256 ≤ tile ∨ pass then atTime s time else tileFailure (atTime s time) tile 0x08)

end Sys2Proof.Machine
end

