-- ==== Sys2Proof/Machine/PowerOps.lean ====
section
/-! DEFINITION. Operations of power, clock and temperature: TCLK (R17), the ceilings (R331, R332), level mode (R333 to R337), thermal
responses (R339) and the nap states (R341, R342). A TCLK is held as Table 17-12 encodes it: (f − 0.6 GHz) ÷ 25 MHz. -/

namespace Sys2Proof.Machine

open Sys2Proof

/-- The power state changed. -/
def State.updPow (s : State) (f : Power → Power) : State := { s with pow := f s.pow }

/-- A power, thermal or leak event logged (fault 0x22). -/
def logPower (s : State) : State := logModule s { entry0 s 0x22 .ok 0 with unitKind := 11 }

/-! TCLK (R17). -/

/-- The TCLK that holds once every change asked for has been made. -/
def tclkAim (s : State) : Nat :=
  match s.pow.tclkNext, s.pow.tclkTo with
  | some v, _ => v
  | none, some v => v
  | none, none => s.fld R.CLK_STAT.TCLK

/-- A change of TCLK asked for: it begins, or waits for the one in progress, of which only the last target counts. -/
def askTclk (s : State) (v : Nat) : State :=
  if v = tclkAim s then s
  else
    match s.pow.tclkTo with
    | none => (s.updPow (fun p => { p with tclkTo := some v })).setFld R.CLK_STAT.CHANGING 1
    | some _ => s.updPow (fun p => { p with tclkNext := some v })

/-- The change in progress is made. -/
def makeTclk (s : State) : State :=
  match s.pow.tclkTo with
  | none => s
  | some v =>
    let s := (s.setFld R.CLK_STAT.TCLK v).setFld R.LVL_STAT.TCLK v
    let low := if v = 0 ∧ s.pow.ceil ≠ 0 then some s.now else s.pow.lowAt
    let s := s.updPow (fun p => { p with tclkTo := p.tclkNext.bind (fun n => if n = v then none else some n), tclkNext := none, lowAt := low })
    s.setFld R.CLK_STAT.CHANGING (bit s.pow.tclkTo.isSome)

/-- The highest TCLK that level mode, or TCLK_MAX with level mode off, allows. -/
def tclkCall (s : State) : Nat := if s.flag R.LVL_CTL.ENABLE then s.pow.lvlTclk else s.fld R.LVL_CTL.TCLK_MAX

/-! Ceilings (R331). -/

/-- The effective ceiling in W. -/
def effCeil (s : State) : Nat := min (s.fld R.PWR_CEIL.FUSED) (s.fld R.PWR_CEIL.CEIL)

/-- 95 % of the effective ceiling, in 1/10 W. -/
def ceil95 (s : State) : Nat := effCeil s * 95 / 10

/-- The target is never above 95 % of the effective ceiling (R333). -/
def dropTarget (s : State) : State := s.updPow (fun p => { p with target := min p.target (ceil95 s) })

/-- A ceiling event: TCLK goes to 0.6 GHz, background work stops, the event is counted, logged and noted for the window. -/
def ceilingHit (s : State) (byTemp : Bool) : State :=
  let s := askTclk s 0
  let low := if s.fld R.CLK_STAT.TCLK = 0 ∧ (s.pow.ceil = 0 ∨ s.pow.lowAt.isNone) then some s.now else s.pow.lowAt
  let s := s.updPow (fun p => { p with ceil := 1, hot := byTemp || (p.hot && p.ceil != 0), calm := none, ceilIn := true, lowAt := low })
  let s := (s.setFld R.LVL_STAT.CEIL_WIN 1).setFld R.LVL_STAT.FILLING 0
  logPower (s.incFld R.CEIL_CNT.COUNT)

/-- A window above the ceiling 100 µs after TCLK reached 0.6 GHz halves every stack's allowance. -/
def ceilingHalve (s : State) : State :=
  match s.pow.lowAt with
  | some t => if t + 100000 ≤ s.now ∧ s.pow.ceil ≠ 0 ∧ s.fld R.CLK_STAT.TCLK = 0 then s.updPow (fun p => { p with halved := true }) else s
  | none => s

/-- The allowance of a stack's governor: the register's value, halved by a ceiling event, halved or quartered by temperature; the lower
of the two factors applies.
DEDUCED (unsafe): log entry 91. -/
def allowanceOf (s : State) (k : Nat) : Nat :=
  let t := Tab.get 25 k s.pow.dram
  let d := max (if s.pow.halved then 2 else 1) (if 110 < t then 4 else if 105 < t then 2 else 1)
  s.fld R.NBU_GOV_BUDGET.ALLOWANCE k / d

/-! Temperatures (R339). -/

/-- Junction temperatures measured.
DESIGN CHOICE (safe): log entry 25. -/
def setTemps (s : State) (cd pd : Nat) : State := (s.setFld R.THERM_STAT.CD_MAX (min 255 cd)).setFld R.THERM_STAT.PD_MAX (min 255 pd)

/-- A stack's hottest die measured; STACK_HOT says whether any stack's governor is scaled. -/
def setDram (s : State) (k t : Nat) : State :=
  let s := s.updPow (fun p => { p with dram := Tab.put 25 k t p.dram })
  let s := s.setFld R.THERM_STAT.STACK_HOT (bit (s.pow.dram.any (fun q => decide (105 < q.2))))
  s.setFld R.THERM_STAT.STACK_MAX (min 255 (s.pow.dram.foldl (fun m q => max m q.2) 25))

/-- Since when every junction has been below 95 °C. -/
def trackCool (s : State) (j : Nat) : State :=
  s.updPow (fun p => { p with cool := if j < 95 then some (p.cool.getD s.now) else none })

/-- A soft throttle begins, or acts again. -/
def softHit (s : State) : State :=
  if s.flag R.THERM_STAT.SOFT_THROTTLE then s
  else
    let s := (s.setFld R.THERM_STAT.SOFT_THROTTLE 1).incFld R.THERM_CNT.SOFT
    logPower (s.updPow (fun p => { p with thermIn := true, rising := false, cool := none, softStep := s.now }))

/-! Napping (R341, R342). -/

/-- Is the module idle (R341)? -/
def moduleIdle (s : State) : Bool :=
  s.sch.ctxs.all (fun c => c.2.st != .ready && c.2.st != .running && c.2.st != .waiting) && s.pg.migs.isEmpty && !scrubBusy s &&
    s.attn.waits.isEmpty && s.tl.streams.all (fun x => x.2.claim.isNone) && s.nbu.perStack.all (fun x => x.2.held.isEmpty)

/-- The tiles' contents are lost in deep nap: T0, streams, hints and expander tables. T0 then reads as memory that nothing has
written.
DEDUCED (unsafe): log entry 89. -/
def loseT0 (s : State) : State :=
  { s with mm := { s.mm with mem := s.mm.mem.filter (fun c => decide (256 * 8388608 ≤ c.1)), psn := s.mm.psn.filter (fun l => decide (256 * 8388608 ≤ l * 32)) },
           tl := { s.tl with streams := [], hints := [], slots := [] },
           regs := (s.tl.slots.foldl (fun t q => t.setFld R.EXP_STAT.SLOT_VALID 0 q.1) s).regs }

/-- N1 entered. -/
def enterN1 (s : State) : State := (s.setFld R.PWR_STAT.STATE 1).incFld R.PWR_NAP_CNT.COUNT

/-- N2 entered. -/
def enterN2 (s : State) : State := (loseT0 (s.setFld R.PWR_STAT.STATE 2)).incFld R.PWR_DEEP_CNT.COUNT

/-- DEEP_REQ asked for: discarded under level mode; N2 is entered at once if the module is idle, and otherwise once it is.
DEDUCED (unsafe): log entry 102. -/
def askDeep (s : State) : State :=
  if s.flag R.LVL_CTL.ENABLE || s.fld R.PWR_STAT.STATE == 2 then s
  else
    let s := s.setFld R.PWR_CTL.DEEP_REQ 1
    if moduleIdle s then enterN2 s else s

/-- A nap exit begins: at most 3 µs from N1, 300 µs from N2.
DEDUCED (unsafe): log entry 90. -/
def startExit (s : State) : State :=
  if inA0 s || s.flag R.PWR_STAT.EXITING then s
  else
    let t := s.now + (if s.fld R.PWR_STAT.STATE = 1 then 3000 else 300000)
    (s.setFld R.PWR_STAT.EXITING 1).updPow (fun p => { p with exitAt := t })

/-- A nap exit is done. -/
def endExit (s : State) : State :=
  let s := if s.fld R.PWR_STAT.STATE = 2 then s.setFld R.PWR_CTL.DEEP_REQ 0 else s
  (s.setFld R.PWR_STAT.STATE 0).setFld R.PWR_STAT.EXITING 0

end Sys2Proof.Machine
end

