-- ==== Sys2Proof/Machine/Transport.lean ====
section
/-! DEFINITION. Packets as they arrive (R243 to R262, R267 to R269, R314, R318): the target's checks, numbering and answers, and the
requester's side of the answers. -/

namespace Sys2Proof.Machine

open Sys2Proof

/-! Delivery (R252, R253). -/

/-- A record that finds the function's quota full goes to its error log as an event does (R217, R253). -/
def lostRecord (s : State) (f : Nat) (result : List Byte) : State :=
  let h := s.fnHost f
  let s := s.setFnHost f { h with lost := h.lost + 1 }
  let s := (s.incFld R.HI_FN_EVT_LOST.COUNT 1 f).setFld R.HI_FN_STAT.EVT_LOST 1 f
  logFn s f { entry0 s 0x24 .ok f with detail := leBytes 2 0 ++ padTo 14 result }

/-- An immediate delivered (R253).
DEDUCED (unsafe): log entry 65. -/
def deliverImm (s : State) (n : Nat) (value wrote src : Nat) : State :=
  match s.endp? n with
  | none => s
  | some e =>
    let e := { e with imms := e.imms + 1 }
    let s := s.setEndp n e
    let res := leBytes 4 (n + e.gen * 2 ^ 20) ++ leBytes 4 wrote ++ leBytes 2 src
    let s :=
      if !e.immCq || (s.fnHost e.fn).resetting.isSome then s
      else if quotaFull s e.fn then lostRecord s e.fn res
      else deliver s e.fn e.ring ⟨value, e.imms % 2 ^ 32, .ok, 0, false, 0, res, false⟩
    if e.immSync then (syncAdd s e.ctr 1).1 else s

/-- An effect that waited for EXP takes place. -/
def runLate (s : State) (i : ConnId) (l : Late) : State :=
  match getConn s i with
  | none => s
  | some c =>
    match l with
    | .cadd k => (syncAdd s k 1).1
    | .put key a n =>
      let at_ := key * 2 ^ 64 + a
      setConn s i { c with wrote := if c.runEnd = at_ ∧ 0 < c.wrote then c.wrote + n else n, runEnd := at_ + n }
    | .imm v key a n src =>
      let w := if c.runEnd = key * 2 ^ 64 + a then c.wrote + n else n
      let s := setConn s i { c with wrote := 0, runEnd := 0 }
      match i with
      | .ep k => deliverImm s k v w src
      | .flow _ => s

/-- EXP moves past every executed entry, effects taking place as it passes (R252, R257); `k` bounds it. -/
def advanceExp (i : ConnId) : Nat → State → State
  | 0, s => s
  | k + 1, s =>
    match getConn s i with
    | none => s
    | some c =>
      if (Tab.find? c.exp c.ran).isNone then s
      else
        let e := (c.exp + 1) % psnMod
        let old := (c.exp + psnMod - 128) % psnMod
        let s := setConn s i { c with exp := e, late := c.late.filter (fun p => p.1 != c.exp), ran := c.ran.filter (fun p => p.1 != old) }
        let s := (c.late.filter (fun p => p.1 = c.exp)).foldl (fun s p => runLate s i p.2) s
        advanceExp i k s

/-! Execution and refusal (R249, R257, R269, R314). -/

/-- What a request's epoch allows (Table 16-4). -/
inductive EpochSays where
  | run | hold | stalePrev | stale
  deriving DecidableEq, Repr

/-- The epoch of a request compared with the module's own.
DEDUCED (unsafe): log entry 64. -/
def epochSays (s : State) (r : Nat) : EpochSays :=
  let d := (r + 2 ^ 16 - s.epoch) % 2 ^ 16
  if d = 0 then .run
  else if r = s.fld R.MER_CUR.PREV then (if s.flag R.MER_STAT.DRAINING then .run else .stalePrev)
  else if d ≤ 2 ^ 15 then .hold
  else .stale

/-- An absorbed read recorded as executed at its own stream (R267).
DESIGN CHOICE (unsafe): log entry 62. -/
def recordAbsorbed (s : State) (b : List Byte) : State :=
  let src := fieldAt b 0 2
  let i : ConnId := if fieldAt b 2 2 = 1 then .ep (fieldAt b 4 4 % 2 ^ 20) else .flow src
  let n := fieldAt b 8 4
  match getConn s i with
  | none => s
  | some c =>
    if psnSub n c.exp < 128 ∧ (Tab.find? n c.ran).isNone then
      advanceExp i 256 (setConn s i { c with ran := Tab.ins n (statusOfNat (fieldAt b 16 1)) c.ran })
    else s

/-- A request executed, its checks included. -/
def execReq (s : State) (e : Option Endpoint) (p : Pkt) : Ran :=
  let bad : Ran := ⟨s, .invalid, [], false⟩
  match p.ty with
  | 1 => (match p.copy, e with | some m, none => runCopy s p m | _, _ => runWrite s e p p.data)
  | 2 =>
    if p.data.length = 4 then
      (match e with
       | none => ⟨s, .ok, [], false⟩
       | some e => match regionCheck s e p 0 with | .error st => ⟨s, st, [], false⟩ | .ok _ => ⟨s, .ok, [], false⟩)
    else runWrite s e p (p.data.drop 4)
  | 3 => let n := leNat p.data; if n = 0 ∨ 4096 < n then bad else runRead s e p n
  | 4 => if 2 < fieldAt p.data 0 1 ∨ !zeroAt p.data 1 7 then bad else runAtomic s e p (fieldAt p.data 0 1) (fieldAt p.data 8 8) (fieldAt p.data 16 8)
  | 6 => ⟨(chunk 24 p.data).foldl recordAbsorbed s, .ok, [], false⟩
  | 7 => runPartial s e p
  | _ => ⟨s, .ok, [], false⟩

/-- What taking up a request not yet executed came to. -/
inductive Took where
  | hold
  | wait
  | ran (s : State) (st : Status) (data : List PByte)
  deriving DecidableEq, Repr

/-- A request not yet executed: checked in the order of R249 and R269, then executed or refused. -/
def takeUp (s : State) (e : Option Endpoint) (p : Pkt) : Took :=
  let n := if p.ty = 3 then leNat p.data else if p.ty = 4 then 8 else if p.ty = 2 then p.data.length - 4 else p.data.length
  let chk : Option Status := match e with
    | some e =>
      if 1 ≤ p.ty ∧ p.ty ≤ 4 then
        (match regionCheck s e p n with
         | .error st => some st
         | .ok r => if r.kind = 2 ∧ p.ty < 3 ∧ 0 < n ∧ rowsBar s r.base p.addr n then some .invalid else none)
      else none
    | none => none
  match chk with
  | some st => .ran s st []
  | none =>
    match epochSays s p.epoch with
    | .hold => .hold
    | .run => let r := execReq s e p; if r.wait then .wait else .ran r.s r.st r.data
    | .stalePrev => .ran ((s.incFld R.EP_STALE_CNT.COUNT).incFld R.MER_STALE_CNT.COUNT) .epochStale []
    | .stale => .ran (s.incFld R.EP_STALE_CNT.COUNT) .epochStale []

/-- Does a status leave the effect whole? -/
def Status.good (st : Status) : Bool := st == .ok || st == .poison || st == .battLength

/-- What waits for EXP after a request was executed. -/
def lateOf (p : Pkt) (st : Status) (isEp : Bool) : List Late :=
  if !st.good then []
  else if p.ty = 1 then
    (if isEp then [.put p.key p.addr p.data.length] else if bitAt p.key 31 then [.cadd (p.key % 2 ^ 17)] else [])
  else if p.ty = 2 ∧ isEp then [.imm (fieldAt p.data 0 4) p.key p.addr (p.data.length - 4) p.src]
  else []

/-- An executed or refused request recorded (R257, R259), and EXP moved on.
DEDUCED (unsafe): log entry 64. -/
def recordRan (s : State) (i : ConnId) (p : Pkt) (st : Status) (data : List PByte) (isEp : Bool) : State :=
  let s := updConn s i (fun c =>
    { c with ran := Tab.ins p.psn st c.ran,
             late := c.late ++ (lateOf p st isEp).map (fun l => (p.psn, l)),
             results := if p.ty = 4 ∧ st.good then (c.results ++ [(p.psn, leNat (rawBytes data))]).drop (c.results.length + 1 - 16) else c.results })
  advanceExp i 256 s

/-- The function an answer is charged to, and the endpoint it names. -/
def answerTo (e : Option Endpoint) : Option Nat × Nat := match e with | some e => (some e.fn, e.remEp) | none => (none, 0)

/-- The answer of a request (R243): data or a fetched value where it has them, else an ACK with the target's EXP.
DEDUCED (unsafe): log entry 63. -/
def answerReq (s : State) (i : ConnId) (e : Option Endpoint) (p : Pkt) (st : Status) (data : List PByte) : State :=
  let a := answerTo e
  if p.ty = 3 ∧ st.good ∧ !data.isEmpty then answerPkt s a.1 p a.2 0x21 st (rawBytes data) (anyPsn data)
  else if p.ty = 4 ∧ st.good ∧ data.length = 8 then answerPkt s a.1 p a.2 0x22 st (rawBytes data) false
  else
    let x := match getConn s i with | some c => c.exp | none => 0
    answerPkt s a.1 p a.2 0x20 st (leBytes 4 x) false

/-- A request not yet executed is run, recorded and answered; one of a newer epoch is held, and one that must wait stays where it is. -/
def runReq (s : State) (i : ConnId) (e : Option Endpoint) (p : Pkt) : Option State :=
  match takeUp s e p with
  | .wait => none
  | .hold =>
    let same (q : Nat × Pkt) : Bool := q.2.psn == p.psn && q.2.src == p.src && q.2.ep == p.ep && q.2.epLayer == p.epLayer
    if s.tr.newer.any same then some s else some { s with tr := { s.tr with newer := s.tr.newer ++ [(s.now, p)] } }
  | .ran t st data => some (answerReq (recordRan t i p st data e.isSome) i e p st data)

/-- The endpoint of a stream as it stands. -/
def epOf (s : State) : ConnId → Option Endpoint
  | .ep n => s.endp? n
  | .flow _ => none

/-- Fenced requests whose PSN EXP has reached are run (R252); `k` bounds them. -/
def runFenced (i : ConnId) : Nat → State → State
  | 0, s => s
  | k + 1, s =>
    match getConn s i with
    | none => s
    | some c =>
      match c.fenced.find? (fun p => p.psn == c.exp) with
      | none => s
      | some p =>
        match runReq s i (epOf s i) p with
        | none => s
        | some s => runFenced i k (updConn s i (fun c => { c with fenced := c.fenced.filter (fun q => q.psn != p.psn) }))

/-- A duplicate answered (R257, R259): a read is executed again, an atomic answered from its cached result. -/
def answerDup (s : State) (i : ConnId) (e : Option Endpoint) (p : Pkt) (c : Conn) (st : Status) : State :=
  let s := s.incFld R.EP_DUP_CNT.COUNT
  if p.ty = 3 ∧ st.good then
    let r := execReq s e p
    answerReq r.s i e p (if r.st.good then r.st else st) r.data
  else if p.ty = 4 ∧ st.good then
    answerReq s i e p st (match Tab.find? p.psn c.results with | some v => cleanBytes (leBytes 8 v) | none => [])
  else answerReq s i e p st []

/-- A request at a resident stream (Table 13-5): none where it stays where it is. -/
def handleReq (s : State) (i : ConnId) (e : Option Endpoint) (p : Pkt) : Option State :=
  let s := touchConn s i
  match getConn s i with
  | none => some s
  | some c =>
    let d := psnSub p.psn c.exp
    match Tab.find? p.psn c.ran with
    | some st => if d < 128 ∨ psnMod - 128 ≤ d then some (answerDup s i e p c st) else some (s.incFld R.EP_WINDOW_DROP_CNT.COUNT)
    | none =>
      if 128 ≤ d then some (s.incFld R.EP_WINDOW_DROP_CNT.COUNT)
      else if p.fence ∧ d ≠ 0 then
        some (setConn s i { c with fenced := c.fenced.filter (fun q => q.psn != p.psn) ++ [p] })
      else (runReq s i e p).map (runFenced i 256)

/-! Arrival (R245, R247, R260). -/

/-- A RETRY answer with a back-off hint in µs: neither executed nor recorded. -/
def answerRetryIn (s : State) (e : Option Endpoint) (p : Pkt) (hint : Nat) : State :=
  let a := answerTo e
  answerPkt (s.incFld R.EP_RETRY_LATER_CNT.COUNT) a.1 p a.2 0x23 .retryLater (leBytes 4 hint) false

/-- A RETRY answer with the back-off hint of EP_MISS (R260). -/
def answerRetry (s : State) (e : Option Endpoint) (p : Pkt) : State := answerRetryIn s e p (s.fld R.EP_MISS.BACKOFF)

/-- Does a request need tiles, NBUs, T1 or T2 (R342)? One on host memory or a sync counter, or one that its region refuses, does not.
DEDUCED (unsafe): log entry 90. -/
def needsMemory (s : State) (e : Option Endpoint) (p : Pkt) : Bool :=
  match e with
  | none => (counterAt p.addr).isNone
  | some e =>
    match regionCheck s e p (if p.ty = 4 then 8 else p.data.length) with
    | .error _ => false
    | .ok r => r.kind != 1 && (counterAt (r.base + p.addr)).isNone

/-- The remaining time of a nap exit in µs, rounded up to 10 µs. -/
def exitHint (s : State) : Nat := ceilDiv (s.pow.exitAt - s.now) 10000 * 10

/-- A request for a number not in use or of another generation (R247). The requester's endpoint is not known here: the answer names what
the request named. -/
def answerGone (s : State) (p : Pkt) : State :=
  answerPkt (s.incFld R.EP_GEN_DROP_CNT.COUNT) none p p.ep 0x20 .invalid (leBytes 4 0) false

/-- A request at a stream: handled if the state is resident, else queued while it is fetched, or answered RETRY. -/
def atStream (s : State) (die : Nat) (i : ConnId) (p : Pkt) : Option State :=
  let s := match i with
    | .flow m => if (Tab.find? m s.tr.flows).isNone then bringIn s i else s
    | .ep _ => s
  match getConn s i with
  | none => some s
  | some c =>
    if c.resident then handleReq s i (epOf s i) p
    else if 4096 < missCells s die + ceilDiv p.len 256 then some (answerRetry s (epOf s i) p)
    else
      let s := if c.fetching then s else s.incFld R.EP_MISS_CNT.COUNT
      some (setConn s i { c with fetching := true, missq := c.missq ++ [(s.now, die, p)] })

/-- A request at a stream in whatever power state the module is (R342): in N1 it waits for the exit, which ends before it is handled; in N2 one
that needs the memories starts the exit and is answered RETRY. -/
def atStreamNap (s : State) (die : Nat) (i : ConnId) (p : Pkt) : Option State :=
  if inA0 s || !needsMemory s (epOf s i) p then atStream s die i p
  else if s.fld R.PWR_STAT.STATE = 1 then atStream (endExit s) die i p
  else
    let s := startExit s
    some (answerRetryIn s (epOf s i) p (exitHint s))

/-- A request packet for this module. -/
def admitReq (s : State) (die : Nat) (p : Pkt) : Option State :=
  if !p.epLayer then atStreamNap s die (.flow p.src) p
  else
    match s.endp? (p.ep % 2 ^ 20) with
    | none => some (answerGone s p)
    | some e =>
      if e.gen ≠ p.ep / 2 ^ 20 then some (answerGone s p)
      else if e.node ≠ p.src then some s
      else atStreamNap s die (.ep (p.ep % 2 ^ 20)) p

/-- Fenced requests of the streams that contributor entries name, run where EXP has reached them (R252). -/
def fencedOf (s : State) (bs : List (List Byte)) : State :=
  bs.foldl (fun s b => runFenced (if fieldAt b 2 2 = 1 then .ep (fieldAt b 4 4 % 2 ^ 20) else .flow (fieldAt b 0 2)) 256 s) s

/-! Combined atomics (R268). -/

/-- One contributor: its stream, PSN and increment.
DESIGN CHOICE (unsafe): log entry 62. -/
def contributorOf (b : List Byte) : ConnId × Nat × Nat × Nat × Bool :=
  let isEp := fieldAt b 2 2 == 1
  (if isEp then .ep (fieldAt b 4 4 % 2 ^ 20) else .flow (fieldAt b 0 2), fieldAt b 8 4, fieldAt b 16 8, fieldAt b 4 4, isEp)

/-- The packet a contributor sent. -/
def contributorPkt (p : Pkt) (b : List Byte) : Pkt :=
  { p with ty := 4, src := fieldAt b 0 2, epLayer := fieldAt b 2 2 == 1, ep := fieldAt b 4 4, psn := fieldAt b 8 4 }

/-- Every contributor's state made resident.
DEDUCED (unsafe): log entry 63. -/
def bringContributor (s : State) (b : List Byte) : State :=
  let i := (contributorOf b).1
  match i, getConn s i with
  | .flow m, some c => if (Tab.find? m s.tr.flows).isNone ∨ !c.resident then bringIn s i else s
  | .ep _, some c => if c.resident then s else bringIn (s.incFld R.EP_MISS_CNT.COUNT) i
  | _, none => s

/-- How a contributor stands: refused, a duplicate, outside its window, or to be added. -/
inductive Contrib where
  | gone | outside | dup (st : Status) | refused (st : Status) | fresh | held
  deriving DecidableEq, Repr

/-- A contributor judged as its own ATOMIC would be. -/
def judgeContributor (s : State) (p : Pkt) (b : List Byte) : Contrib :=
  let q := contributorPkt p b
  let i := (contributorOf b).1
  match getConn s i with
  | none => .gone
  | some c =>
    let e := epOf s i
    if (match e with | some e => e.gen != q.ep / 2 ^ 20 || e.node != q.src | none => false) then .gone
    else
      let d := psnSub q.psn c.exp
      match Tab.find? q.psn c.ran with
      | some st => if d < 128 ∨ psnMod - 128 ≤ d then .dup st else .outside
      | none =>
        if 128 ≤ d then .outside
        else match (match e with | some e => regionCheck s e { q with key := p.key } 8 | none => .error .ok) with
          | .error .ok | .ok _ =>
            (match epochSays s p.epoch with | .run => .fresh | .hold => .held | _ => .refused .epochStale)
          | .error st => .refused st

/-- A combined add (R268): the sum of the fresh increments is added once, and each contributor is recorded and answered on its own PSN.
DESIGN CHOICE (unsafe): log entry 62. -/
def runComb (s : State) (p : Pkt) : Option State :=
  let bs := chunk 24 p.data
  let s := bs.foldl bringContributor s
  let js := bs.map (fun b => (b, judgeContributor s p b))
  if js.any (fun j => j.2 == .held) then some { s with tr := { s.tr with newer := s.tr.newer ++ [(s.now, p)] } }
  else
    let fresh := js.filter (fun j => j.2 == .fresh)
    let sum := (fresh.map (fun j => fieldAt j.1 16 8)).foldl (· + ·) 0
    let e := match fresh with | j :: _ => epOf s (contributorOf j.1).1 | [] => none
    let total := if (match e with | some _ => false | none => (counterAt p.addr).isSome) then sum else sum % 2 ^ 64
    let r : Ran := if fresh.isEmpty then ⟨s, .ok, [], false⟩ else runAtomic s e p 0 total 0
    if r.wait then none
    else
      let f := leNat (rawBytes r.data)
      some (js.foldl (fun (acc : State × Nat) j =>
        let b := j.1
        let i := (contributorOf b).1
        let q := contributorPkt p b
        let s := acc.1
        let e := epOf s i
        match j.2 with
        | .gone => (answerGone s q, acc.2)
        | .outside => (s.incFld R.EP_WINDOW_DROP_CNT.COUNT, acc.2)
        | .dup st => (match getConn s i with | some c => answerDup s i e q c st | none => s, acc.2)
        | .refused st =>
          let s := if st = .epochStale then s.incFld R.EP_STALE_CNT.COUNT else s
          (answerReq (recordRan s i q st [] e.isSome) i e q st [], acc.2)
        | .held => (s, acc.2)
        | .fresh =>
          let d : List PByte := if r.st.good then cleanBytes (leBytes 8 ((f + acc.2) % 2 ^ 64)) else []
          (answerReq (recordRan s i q r.st d e.isSome) i e q r.st d, acc.2 + fieldAt b 16 8)) (r.s, 0)).1

/-- A combined add in whatever power state the module is (R342), as the ATOMICs it is made of would fare. -/
def combNap (s : State) (p : Pkt) : State :=
  let bs := chunk 24 p.data
  if inA0 s || !bs.any (fun b => needsMemory s (epOf s (contributorOf b).1) (contributorPkt p b)) then (runComb s p).getD s
  else if s.fld R.PWR_STAT.STATE = 1 then (runComb (endExit s) p).getD (endExit s)
  else
    let s := startExit s
    bs.foldl (fun s b => answerRetryIn s (epOf s (contributorOf b).1) (contributorPkt p b) (exitHint s)) s

/-! Answers at the requester (R247, R254, R258, R261). -/

/-- The stream an answer belongs to. An answer that names what its request named, because its sender could not know the requester's
endpoint, is matched by the request. -/
def streamOf (s : State) (p : Pkt) : Option ConnId :=
  if !p.epLayer then (if (Tab.find? p.src s.tr.flows).isSome then some (.flow p.src)
    else (s.tr.flows.find? (fun q => q.2.sent.any (fun x => x.pkt.psn == p.psn && p.ty == 0x24))).map (fun q => .flow q.1))
  else
    match (s.endp? (p.ep % 2 ^ 20)).bind (fun e => if e.gen = p.ep / 2 ^ 20 ∧ e.node = p.src then some e else none) with
    | some _ => some (.ep (p.ep % 2 ^ 20))
    | none => (s.tr.eps.find? (fun q => q.2.remEp == p.ep && q.2.conn.sent.any (fun x => x.pkt.psn == p.psn))).map (fun q => .ep q.1)

/-- A status value of a packet; a reserved one is taken as ST_INVALID. -/
def statusOfVal (v : Nat) : Status := if v < 15 then statusOfNat v else .invalid

/-- Bytes of an answer placed where its work wants them: the status of that (R254).
DEDUCED (unsafe): log entry 124. -/
def placeAnswer (s : State) (w : Work) (off : Nat) (bs : List PByte) : State × Status :=
  if w.toHost then
    match hostWrite s w.fn (w.addr + off) (hostBytes bs) with
    | some t => (t, if anyPsn bs then .poison else .ok)
    | none => (s, .protection)
  else
    match localCheck s w.fn (w.addr + off) bs.length true with
    | .ok =>
      let r := pwrite s (w.addr + off) bs
      (invalidate r.1 (w.addr + off) bs.length, if r.2 || anyPsn bs then .poison else .ok)
    | st => (s, st)

/-- A sent packet has its answer: it is no longer unanswered, its work moves on, and waiting packets may go.
DEDUCED (unsafe): log entry 61. -/
def answered (s : State) (i : ConnId) (x : SentPkt) (f : Work → Work) : State :=
  let s := updConn s i (fun c => { c with sent := c.sent.filter (fun y => y.pkt.psn != x.pkt.psn) })
  pump (workAnswer (touchConn s i) x.work f) i

/-- A sent packet of a stream by PSN. -/
def sentOf (s : State) (i : ConnId) (psn : Nat) : Option SentPkt := (getConn s i).bind (fun c => c.sent.find? (fun x => x.pkt.psn == psn))

/-- Data of an answer taken up. -/
def takeData (s : State) (i : ConnId) (x : SentPkt) (p : Pkt) : State :=
  match work? s x.work with
  | none => answered s i x id
  | some w =>
    let bs : List PByte := p.data.map (fun b => (b, p.poison))
    let noPlace := w.who = .module ∨ (p.ty = 0x22 ∧ w.kind ≠ 0)
    let (s, st) := if noPlace then (s, .ok) else placeAnswer s w x.off bs
    answered s i x (fun w =>
      { w with status := (w.status.worse st).worse (statusOfVal p.status),
               pieces := if st.good then w.pieces ++ [(x.off, bs.length)] else w.pieces,
               result := if p.ty = 0x22 then leNat p.data else w.result })

/-- A packet answered with nothing but a status.
DEDUCED (unsafe): log entry 61. -/
def takeStatus (s : State) (i : ConnId) (x : SentPkt) (st : Status) : State :=
  answered s i x (fun w => { w with status := w.status.worse st,
                                    pieces := if st.good ∧ x.pkt.ty ≠ 3 then w.pieces ++ [(x.off, x.pkt.data.length)] else w.pieces })

/-- A RETRY answer (R261): the packet is resent after the hint, without a retransmission counted; RNR_LIMIT of them end it. -/
def takeRetry (s : State) (i : ConnId) (x : SentPkt) (hint : Nat) : State :=
  let l := s.fld R.EP_TIMING.RNR_LIMIT
  if l ≠ 15 ∧ l ≤ x.rnr + 1 then takeStatus s i x .retryLater
  else updConn s i (fun c => { c with sent := c.sent.map (fun (y : SentPkt) =>
    if y.pkt.psn = x.pkt.psn then { y with rnr := y.rnr + 1, hold := some (s.now + hint * 1000) } else y) })

/-- An answer that has reached this module. -/
def takeResponse (s : State) (p : Pkt) : State :=
  match streamOf s p with
  | none => s
  | some i =>
    match sentOf s i p.psn with
    | none => s
    | some x =>
      match p.ty with
      | 0x20 => takeStatus s i x (statusOfVal p.status)
      | 0x21 | 0x22 => takeData s i x p
      | 0x23 => takeRetry s i x (fieldAt p.data 0 2)
      | 0x24 => takeStatus s i x .epochStale
      | _ => s

/-! The packet commands: a header and a payload that arrive on a port and VC at a time. -/

/-- A packet of one of the TYPEs named arrives, with what it says of a protection copy. One for another node goes on; one truncated is
discarded.
DESIGN CHOICE (safe): log entry 59. DEDUCED (unsafe): log entry 136. -/
def arriveWith (copy : Option CopyMsg) (tys : List Nat) (port vc : Nat) (h d : List Byte) (t : Nat) (s : State) : State :=
  let s := atTime s t
  match (parsePkt h d).map (fun p => { p with copy := copy }) with
  | none => s.incFld R.EP_BAD_CNT.COUNT
  | some p =>
    if p.dst ≠ s.node then (if tys.contains p.ty ∨ !knownTypes.contains p.ty then (transit s port vc p).getD s else s)
    else if !knownTypes.contains p.ty then s.incFld R.EP_BAD_CNT.COUNT
    else if !tys.contains p.ty then s
    else if p.trunc then s
    else if isResponse p.ty then takeResponse (passAnswer s p) p
    else if p.ty = 5 then fencedOf (combNap s p) (chunk 24 p.data)
    else
      let t := (admitReq s (port / 8) p).getD s
      if p.ty = 6 then fencedOf t (chunk 24 p.data) else t

/-- A packet that says nothing of a protection copy arrives.
DESIGN CHOICE (safe): log entry 59. DEDUCED (unsafe): log entry 136. -/
def arrive (tys : List Nat) (port vc : Nat) (h d : List Byte) (t : Nat) (s : State) : State := arriveWith none tys port vc h d t s

/-- The span whose pages a packet reaches: of its KV-space address, or of the span-rows region it names. -/
def pktSpan (s : State) (p : Pkt) : Option Nat :=
  if !p.epLayer then (spanOfAddr s p.addr).map (·.1)
  else match (s.endp? (p.ep % 2 ^ 20)).bind (fun e => region? s e.fn (p.key % 2 ^ 24)) with
    | some r => if r.kind = 2 then some r.base else none
    | none => none

/-- The stored bytes that a packet's promotions meet otherwise than they were written (R59, R101). -/
def pktBatts (bad : List (Nat × Nat × Byte)) (h d : List Byte) (s : State) : State :=
  match (parsePkt h d).bind (pktSpan s) with
  | some n => ((bad.map (·.1)).eraseDups).foldl (fun s p => poisonBatts s n p (badOf bad p)) s
  | none => s

/-- A packet that reads or writes memory arrives, with the storage errors that it meets at its target: it carries no function of this module. -/
def arriveErrs (copy : Option CopyMsg) (tys : List Nat) (port vc : Nat) (h d : List Byte) (errs : Errs) (t : Nat) (s : State) : State :=
  let s := atTime (withTlp errs.host s) t
  t0Fails errs.t0 s (arriveWith copy tys port vc h d t (pktBatts errs.batts h d (errsModule errs (t0Words errs.t0 s))))

/-- WRITE (R257, R251, R264), and on a hidden flow a row or message for a protection copy (R319).
DESIGN CHOICE (unsafe): log entry 144. -/
def execWrite (port vc : Nat) (header payload : List (BitVec 8)) (copy : Option CopyMsg) (errs : Errs) (time : Nat) (s : State) :
    Host.Outcome State Fault Refusal :=
  act s (arriveErrs copy [1] port vc header payload errs time s)

/-- HANDOFF_RECORD (R317, R318): a WRITE into a span-rows region at the offset just behind its rows. Whether the WRITE is one is found at the
target, so a WRITE elsewhere does what WRITE does. -/
def execHandoffRecord (port vc : Nat) (header payload : List (BitVec 8)) (errs : Errs) (time : Nat) (s : State) :
    Host.Outcome State Fault Refusal :=
  act s (arriveErrs none [1] port vc header payload errs time s)

/-- WRITE_IMM (R253, R257). -/
def execWriteImm (port vc : Nat) (header payload : List (BitVec 8)) (errs : Errs) (time : Nat) (s : State) : Host.Outcome State Fault Refusal :=
  act s (arriveErrs none [2] port vc header payload errs time s)

/-- READ (R257). -/
def execRead (port vc : Nat) (header payload : List (BitVec 8)) (errs : Errs) (time : Nat) (s : State) : Host.Outcome State Fault Refusal :=
  act s (arriveErrs none [3] port vc header payload errs time s)

/-- ATOMIC (R251, R259). -/
def execAtomic (port vc : Nat) (header payload : List (BitVec 8)) (errs : Errs) (time : Nat) (s : State) : Host.Outcome State Fault Refusal :=
  act s (arriveErrs none [4] port vc header payload errs time s)

/-- ATOMIC_COMB (R268). -/
def execAtomicComb (port vc : Nat) (header payload : List (BitVec 8)) (errs : Errs) (time : Nat) (s : State) : Host.Outcome State Fault Refusal :=
  act s (arriveErrs none [5] port vc header payload errs time s)

/-- ABSORB (R267). -/
def execAbsorb (port vc : Nat) (header payload : List (BitVec 8)) (time : Nat) (s : State) : Host.Outcome State Fault Refusal :=
  act s (arrive [6] port vc header payload time s)

/-- PARTIAL (R279). -/
def execPartialPkt (port vc : Nat) (header payload : List (BitVec 8)) (time : Nat) (s : State) : Host.Outcome State Fault Refusal :=
  act s (arrive [7] port vc header payload time s)

/-- A hidden flow's target entry reset (R258): it expects the PSN at which the flow restarts, which the CONTROL packet carries as its own.
DESIGN CHOICE (safe): log entry 66. -/
def doFlowReset (port vc : Nat) (h d : List Byte) (t : Nat) (s : State) : State :=
  let s := atTime s t
  match parsePkt h d with
  | none => s.incFld R.EP_BAD_CNT.COUNT
  | some p =>
    if p.ty ≠ 10 ∨ p.epLayer then s
    else if p.dst ≠ s.node then (transit s port vc p).getD s
    else if p.trunc then s
    else
      let i := ConnId.flow p.src
      let s := match getConn s i with
        | some c => setConn s i { c with exp := p.psn, ran := [], results := [], late := [], fenced := [] }
        | none => s
      (admitReq s (port / 8) p).getD s

/-- FLOW_RESET (R258). -/
def execFlowReset (port vc : Nat) (header payload : List (BitVec 8)) (time : Nat) (s : State) : Host.Outcome State Fault Refusal :=
  act s (doFlowReset port vc header payload time s)

/-- ACK (R257). -/
def execAck (port vc : Nat) (header payload : List (BitVec 8)) (time : Nat) (s : State) : Host.Outcome State Fault Refusal :=
  act s (arrive [0x20] port vc header payload time s)

/-- READ_DATA (R254). -/
def execReadData (port vc : Nat) (header payload : List (BitVec 8)) (time : Nat) (s : State) : Host.Outcome State Fault Refusal :=
  act s (arrive [0x21] port vc header payload time s)

/-- ATOMIC_DATA (R254). -/
def execAtomicData (port vc : Nat) (header payload : List (BitVec 8)) (time : Nat) (s : State) : Host.Outcome State Fault Refusal :=
  act s (arrive [0x22] port vc header payload time s)

/-- RETRY (R261). -/
def execRetry (port vc : Nat) (header payload : List (BitVec 8)) (time : Nat) (s : State) : Host.Outcome State Fault Refusal :=
  act s (arrive [0x23] port vc header payload time s)

/-- NO_ROUTE (R238). -/
def execNoRoute (port vc : Nat) (header payload : List (BitVec 8)) (time : Nat) (s : State) : Host.Outcome State Fault Refusal :=
  act s (arrive [0x24] port vc header payload time s)

/-! Timers (R258, R260, R261, R314). -/

/-- The stream a timer command names. -/
def connOf (isEp : Bool) (n : Nat) : ConnId := if isEp then .ep n else .flow n

/-- The back-off of a RETRY-answered packet has passed: it is resent. -/
def doBackoff (i : ConnId) (psn t : Nat) (s : State) : State :=
  let s := atTime s t
  match sentOf s i psn with
  | none => s
  | some x =>
    match x.hold with
    | none => s
    | some u =>
      if s.now < u then s
      else
        let s := updConn s i (fun c => { c with sent := c.sent.map (fun (y : SentPkt) =>
          if y.pkt.psn = psn then { y with hold := none, since := s.now } else y) })
        sendPkt s ((work? s x.work).map (·.fn)) x.pkt

/-- RETRY_BACKOFF_EXPIRY (R261): of endpoint `id`, or of the hidden flow to node `id`. -/
def execRetryBackoffExpiry (isEp : Bool) (id psn time : Nat) (s : State) : Host.Outcome State Fault Refusal :=
  act s (doBackoff (connOf isEp id) psn time s)

/-- Every work with a packet on a stream ends with a status, and the packets are gone. -/
def failStream (s : State) (i : ConnId) (st : Status) : State :=
  match getConn s i with
  | none => s
  | some c =>
    let s := setConn s i { c with sent := [], queue := [] }
    ((c.sent ++ c.queue).map (·.work)).eraseDups.foldl (fun s w =>
      match work? s w with
      | some x => endWork s w { x with status := x.status.worse st, left := 0 }
      | none => s) s

/-- RETRY_LIMIT reached (R258): an endpoint enters the error state, fault 0x17; a hidden flow restarts at its next PSN. -/
def exhausted (s : State) (i : ConnId) : State :=
  match i with
  | .ep n =>
    match s.endp? n with
    | none => s
    | some e =>
      let s := failStream (s.setEndp n { e with err := true }) i .timeout
      logBoth s e.fn { entry0 s 0x17 .timeout e.fn with unitKind := 8, object := n }
  | .flow m =>
    let s := failStream s i .timeout
    let w := newWork s ⟨.module, 0, 0, 4, 1, .ok, false, 0, [], 0⟩
    post w.2 i w.1 [(0, flowPkt s 10 m 0 [] false)]

/-- ACK_TIMEOUT has passed for a stream: every unanswered packet that does not back off is sent again. -/
def doAckTimeout (i : ConnId) (t : Nat) (s : State) : State :=
  let s := atTime s t
  match getConn s i with
  | none => s
  | some c =>
    let due := c.sent.any (fun x => x.hold.isNone && decide (x.since + s.fld R.EP_TIMING.ACK_TIMEOUT * 1000 ≤ s.now))
    if !due then s
    else if c.sent.any (fun x => x.hold.isNone && decide (s.fld R.EP_TIMING.RETRY_LIMIT ≤ x.tries)) then exhausted s i
    else
      let s := setConn s i { c with sent := c.sent.map (fun (x : SentPkt) => if x.hold.isNone then { x with tries := x.tries + 1, since := s.now } else x) }
      (c.sent.filter (fun x => x.hold.isNone)).foldl (fun s x => sendPkt s ((work? s x.work).map (·.fn)) x.pkt) s

/-- ACK_TIMEOUT (R258). -/
def execAckTimeout (isEp : Bool) (id time : Nat) (s : State) : Host.Outcome State Fault Refusal :=
  act s (doAckTimeout (connOf isEp id) time s)

/-- A fetch of state completes: the packets that waited are handled in arrival order (R260); those of an endpoint since destroyed are
answered ST_INVALID (R262). A host-owned state cannot be fetched while the host link is down or its window is closed. -/
def doMissFetchDone (i : ConnId) (t : Nat) (s : State) : State :=
  let s := atTime s t
  let s := match i with
    | .ep n =>
      let gone := (s.tr.orphans.filter (fun o => o.1 = n)).map (fun o => o.2.2.2)
      gone.foldl answerGone { s with tr := { s.tr with orphans := s.tr.orphans.filter (fun o => o.1 ≠ n) } }
    | .flow _ => s
  match getConn s i with
  | none => s
  | some c =>
    let ok := match epOf s i with
      | some e => e.modOwned || (hostRead s e.fn e.stateAddr 512).isSome
      | none => true
    if !c.fetching || !ok then s
    else
      let s := bringIn (setConn s i { c with missq := [] }) i
      c.missq.foldl (fun s q =>
        match handleReq s i (epOf s i) q.2.2 with
        | some s => s
        | none => updConn s i (fun c => { c with missq := c.missq ++ [q] })) s

/-- MISS_FETCH_DONE (R260). -/
def execMissFetchDone (isEp : Bool) (id time : Nat) (s : State) : Host.Outcome State Fault Refusal :=
  act s (doMissFetchDone (connOf isEp id) time s)

/-- A fetch has not completed 50 µs after a packet arrived: that packet is answered RETRY, fault 0x16. -/
def doMissFetchTimeout (i : ConnId) (t : Nat) (s : State) : State :=
  let s := atTime s t
  match getConn s i with
  | none =>
    (match i with
     | .ep n =>
       let old := s.tr.orphans.filter (fun o => o.1 = n ∧ o.2.1 + 50000 ≤ s.now)
       old.foldl (fun s o => answerRetry s none o.2.2.2)
         { s with tr := { s.tr with orphans := s.tr.orphans.filter (fun o => !(o.1 = n ∧ o.2.1 + 50000 ≤ s.now)) } }
     | .flow _ => s)
  | some c =>
    let old := c.missq.filter (fun q => q.1 + 50000 ≤ s.now)
    if !c.fetching || old.isEmpty then s
    else
      let s := setConn s i { c with missq := c.missq.filter (fun q => !(q.1 + 50000 ≤ s.now)) }
      let s := match epOf s i, i with
        | some e, .ep n => logFn s e.fn { entry0 s 0x16 .retryLater e.fn with unitKind := 8, object := n }
        | _, _ => logModule s (entry0 s 0x16 .retryLater 0)
      old.foldl (fun s q => answerRetry s (epOf s i) q.2.2) s

/-- MISS_FETCH_TIMEOUT (R260). -/
def execMissFetchTimeout (isEp : Bool) (id time : Nat) (s : State) : Host.Outcome State Fault Refusal :=
  act s (doMissFetchTimeout (connOf isEp id) time s)

/-! Requests of a newer epoch (R314). -/

/-- The stream a held request belongs to. -/
def heldStream (p : Pkt) : ConnId := if p.epLayer then .ep (p.ep % 2 ^ 20) else .flow p.src

/-- Held requests whose epoch the module has reached are taken up, and those it will never reach judged again. -/
def retryNewer (s : State) : State :=
  let l := s.tr.newer
  l.foldl (fun s q =>
    if epochSays s q.2.epoch = .hold then { s with tr := { s.tr with newer := s.tr.newer ++ [q] } }
    else if q.2.ty = 5 then (runComb s q.2).getD s
    else match handleReq s (heldStream q.2) (epOf s (heldStream q.2)) q.2 with
      | some s => s
      | none => { s with tr := { s.tr with newer := s.tr.newer ++ [q] } }) { s with tr := { s.tr with newer := [] } }

/-- MER_DRAIN after its arrival a held request is answered ST_RETRY_LATER, fault 0x1E, counted in MER_LAG_CNT. -/
def doNewerExpiry (t : Nat) (s : State) : State :=
  let s := atTime s t
  let old (q : Nat × Pkt) : Bool := decide (q.1 + s.fld R.MER_CTL.DRAIN * 1000 ≤ s.now)
  let l := s.tr.newer.filter old
  let s := ringHoldExpiry (collHoldExpiry s)
  l.foldl (fun s q =>
    let s := s.incFld R.MER_LAG_CNT.COUNT
    let f := match epOf s (heldStream q.2) with | some e => some e.fn | none => none
    let s := match f with
      | some f => logFn s f { entry0 s 0x1E .retryLater f with unitKind := 8, object := q.2.ep % 2 ^ 20 }
      | none => logModule s (entry0 s 0x1E .retryLater 0)
    let ps := if q.2.ty = 5 then (chunk 24 q.2.data).map (contributorPkt q.2) else [q.2]
    ps.foldl (fun s p =>
      let i := heldStream p
      let e := epOf s i
      answerReq (recordRan s i p .retryLater [] e.isSome) i e p .retryLater []) s)
    { s with tr := { s.tr with newer := s.tr.newer.filter (fun q => !old q) } }

/-- NEWER_EPOCH_HOLD_EXPIRY (R314). -/
def execNewerEpochHoldExpiry (time : Nat) (s : State) : Host.Outcome State Fault Refusal := act s (doNewerExpiry time s)

end Sys2Proof.Machine
end

