-- ==== Sys2Proof/Machine/Endpoints.lean ====
section
/-! DEFINITION. Endpoints, regions and work requests (R245, R246, R248, R251, R255). -/

namespace Sys2Proof.Machine

open Sys2Proof

/-! EP_CREATE (R245). -/

/-- Endpoints a function holds (FN_EP). -/
def epsOf (s : State) (f : Nat) : Nat := s.tr.eps.countP (fun p => p.2.fn == f)

/-- The endpoint an EP_CREATE descriptor asks for, with generation 0 as yet; none where a field is out of range or reserved bits are set. -/
def parseEpCreate (f : Nat) (d : List Byte) : Option Endpoint :=
  let fl := fieldAt d 16 1
  if 32768 ≤ fieldAt d 10 2 ∨ 2 ^ 28 ≤ fieldAt d 12 4 ∨ 8 ≤ fl ∨ 64 ≤ fieldAt d 17 1 ∨ !zeroAt d 18 2 ∨ !zeroAt d 32 32 ∨
     (bitAt fl 0 ∧ fieldAt d 24 8 ≠ 0) then none
  else some ⟨f, 0, fieldAt d 8 2, fieldAt d 10 2, fieldAt d 12 4, bitAt fl 0, bitAt fl 1, bitAt fl 2, fieldAt d 17 1, fieldAt d 20 4,
             fieldAt d 24 8, false, 0, conn0⟩

/-- The status of an EP_CREATE (the conditions of R245 in the order of R214). -/
def epCreateStatus (s : State) (f : Nat) (e : Endpoint) : Status :=
  if s.fld R.FN_PD_MAX f ≤ e.pd ∨ s.fld R.HI_FN_LIMIT.RINGS_MAX f ≤ e.ring then .invalid
  else if !e.modOwned ∧ !(winOk s f e.stateAddr 512 false && winOk s f e.stateAddr 512 true) then .protection
  else if e.immSync ∧ (fnCounter s f e.ctr).isNone then .protection
  else if s.fld R.FN_EP_CEIL f ≤ epsOf s f ∨ 1048576 ≤ s.tr.eps.length then .retryLater
  else .ok

/-- EP_CREATE; `pick` says which number is free.
DESIGN CHOICE (unsafe in part): log entry 5. -/
def doEpCreate (f r n pick : Nat) (s : State) : State :=
  match takeDesc s f r n 0x38 with
  | none => s
  | some d =>
    match parseEpCreate f d with
    | none => complete s f r n .invalid
    | some e =>
      match epCreateStatus s f e, pickFree s.tr.eps 0 1048576 pick with
      | .ok, some k =>
        let g := (Tab.get 0 k s.tr.gens + 1) % 256
        let e := { e with gen := g, ctr := (fnCounter s f e.ctr).getD 0, conn := { conn0 with resident := false } }
        let s := { s with tr := { s.tr with gens := Tab.put 0 k g s.tr.gens } }
        let s := touchConn (bringIn (s.setEndp k e) (.ep k)) (.ep k)
        complete s f r n .ok 0 (leBytes 4 (k + g * 2 ^ 20))
      | .ok, none => complete s f r n .retryLater
      | st, _ => complete s f r n st

/-- EP_CREATE (R245). -/
def execEpCreate (fn ring num pick : Nat) (s : State) : Host.Outcome State Fault Refusal := act s (doEpCreate fn ring num pick s)

/-! EP_DESTROY (R246, R262). -/

/-- An endpoint destroyed: its work and pre-posted work complete with ST_ABORTED, packets waiting for its state are answered when the fetch
completes, its state is written back and released. -/
def destroyEp (s : State) (k : Nat) : State :=
  match s.endp? k with
  | none => s
  | some e =>
    let s := failStream s (.ep k) .aborted
    let name := k + e.gen * 2 ^ 20
    let s := disarm s (fun t => t.2.kind == 2 && t.2.fn == e.fn && fieldAt t.2.body 0 4 == name)
    let pre := s.tr.pre.filter (fun p => p.ep == name)
    let s := { s with tr := { s.tr with pre := s.tr.pre.filter (fun p => p.ep != name),
                                        fired := s.tr.fired.filter (fun p => p.ep != name),
                                        orphans := s.tr.orphans ++ e.conn.missq.map (fun q => (k, q)),
                                        eps := Tab.del k s.tr.eps } }
    let s := pre.foldl (fun s p => complete s p.fn p.ring p.num .aborted) s
    if e.modOwned ∨ !e.conn.resident then s
    else match hostWrite s e.fn e.stateAddr (stateBytes s) with
      | some t => t.takeFree 512
      | none => s.setFld R.EP_ERR.WRITEBACK 1

/-- An endpoint of a function named by number and generation, or the status of the item that names it.
DEDUCED (unsafe): log entry 69. -/
def namedEp (s : State) (f name : Nat) : Except Status (Nat × Endpoint) :=
  match s.endp? (name % 2 ^ 20) with
  | none => .error .invalid
  | some e => if e.gen ≠ name / 2 ^ 20 then .error .invalid else if e.fn ≠ f then .error .protection else .ok (name % 2 ^ 20, e)

/-- EP_DESTROY. -/
def doEpDestroy (f r n : Nat) (s : State) : State :=
  match takeDesc s f r n 0x39 with
  | none => s
  | some d =>
    if 2 ^ 28 ≤ fieldAt d 8 4 ∨ !zeroAt d 12 52 then complete s f r n .invalid
    else
      match namedEp s f (fieldAt d 8 4) with
      | .error st => complete s f r n st
      | .ok (k, _) => complete (destroyEp s k) f r n .ok

/-- EP_DESTROY (R246). -/
def execEpDestroy (fn ring num : Nat) (s : State) : Host.Outcome State Fault Refusal := act s (doEpDestroy fn ring num s)

/-! EP_POST (R251). -/

/-- May an endpoint of a function reach local bytes: a fixed region of the function (R251)? -/
def epLocal (s : State) (f a n : Nat) (write : Bool) : Status :=
  match addrClass a with
  | .t1 | .t2 => (match regionAt s a n with | some r => if r.kind = .system then .protection else localCheck s f a n write | none => localCheck s f a n write)
  | .absent | .t2Absent => .invalid
  | _ => .protection

/-- The local bytes of a work request that sends data, or the status that bars it. -/
def postData (s : State) (errs : Errs) (f : Nat) (host : Bool) (a n : Nat) : Except Status (List PByte × State) :=
  if n = 0 then .ok ([], s)
  else if host then (match hostReadP s f a n with | some b => .ok (b, s) | none => .error .protection)
  else match epLocal s f a n false with
    | .ok => (match localRead (errsOf f errs s) errs.batts a n with | some (b, t, _) => .ok (b, t) | none => .error .retryLater)
    | st => .error st

/-- May the place where a work request's answer goes be written (R201, R249)? It is checked before anything is sent.
DEDUCED (unsafe): log entry 124. -/
def answerCheck (s : State) (f : Nat) (host : Bool) (a n : Nat) : Status :=
  if host then (if hostUp s f && winOk s f a n true then .ok else .protection) else epLocal s f a n true

/-- The packets of a WRITE (R251). -/
def writePkts (s : State) (e : Endpoint) (addr key : Nat) (combine fence : Bool) (data : List PByte) : List (Nat × Pkt) :=
  (cutPieces data).map (fun p => (p.1, epPkt s e 1 (addr + p.1) key combine fence (rawBytes p.2) (anyPsn p.2)))

/-- The packets of a WRITE_IMM (R251): a last piece of at most 4,092 bytes travels with the immediate. -/
def writeImmPkts (s : State) (e : Endpoint) (addr key imm : Nat) (combine fence : Bool) (data : List PByte) : List (Nat × Pkt) :=
  let ps := cutPieces data
  match ps.getLast? with
  | some (o, b) =>
    if b.length ≤ 4092 then
      writePkts s e addr key combine fence (data.take o) ++
        [(o, epPkt s e 2 (addr + o) key combine fence (leBytes 4 imm ++ rawBytes b) (anyPsn b))]
    else writePkts s e addr key combine fence data ++ [(data.length, epPkt s e 2 (addr + data.length) key combine fence (leBytes 4 imm) false)]
  | none => [(0, epPkt s e 2 addr key combine fence (leBytes 4 imm) false)]

/-- The payload of an ATOMIC (Table 13-1). -/
def atomicPayload (kind operand compare : Nat) : List Byte := leBytes 1 kind ++ leBytes 7 0 ++ leBytes 8 operand ++ leBytes 8 compare

/-- Are the fields of a work request in range (Tables 11-4 and 13-4)? -/
def postFieldsOk (d : List Byte) : Bool :=
  let op := fieldAt d 12 1
  let len := fieldAt d 36 4
  decide (fieldAt d 8 4 < 2 ^ 28) && decide (op < 5) && decide (fieldAt d 13 1 < 16) && zeroAt d 14 2 && zeroAt d 52 4 &&
    decide (len ≤ 2 ^ 31) && (op == 2 || decide (1 ≤ len)) && (op < 3 || len == 8)

/-- A work request starts on its endpoint: its packets are cut and posted, and it completes when all are answered.
DEDUCED (unsafe): log entry 67. -/
def startPost (s : State) (errs : Errs) (f r n k : Nat) (e : Endpoint) (d : List Byte) : State :=
  if e.err then complete s f r n .timeout
  else if nodeLost s e.node then complete s f r n .displaced
  else
    let op := fieldAt d 12 1
    let fl := fieldAt d 13 1
    let host := bitAt fl 0
    let combine := bitAt fl 2
    let fence := bitAt fl 3
    let la := fieldAt d 16 8
    let ra := fieldAt d 24 8
    let key := fieldAt d 32 4
    let len := fieldAt d 36 4
    let packets : Except Status (List (Nat × Pkt) × State) :=
      match op with
      | 0 => (postData s errs f host la len).map (fun x => (writePkts x.2 e ra key combine fence x.1, x.2))
      | 1 => (match answerCheck s f host la len with
        | .ok => .ok ((cutLens len).map (fun p => (p.1, epPkt s e 3 (ra + p.1) key combine fence (leBytes 4 p.2) false)), s)
        | st => .error st)
      | 2 => (postData s errs f host la len).map (fun x => (writeImmPkts x.2 e ra key (fieldAt d 40 4) combine fence x.1, x.2))
      | _ => (match answerCheck s f host la 8 with
        | .ok => .ok ([(0, epPkt s e 4 ra key combine fence (atomicPayload (op - 3) (fieldAt d 56 8) (fieldAt d 40 8)) false)], s)
        | st => .error st)
    match packets with
    | .error st => complete s f r n st
    | .ok (ps, s) =>
      let w := newWork (markStarted s f r n) ⟨.desc f r n, 0, f, 0, ps.length, psnStatus (ps.any (·.2.poison)), host, la, [], 0⟩
      post w.2 (.ep k) w.1 ps

/-- The trigger that waits for a work request (R255): kind 2, of the function, on the counter, naming the endpoint and the TAG. -/
def preTrigger (s : State) (f counter name tag : Nat) : Option Nat :=
  (s.sch.triggers.find? (fun t => t.2.kind == 2 && t.2.fn == f && t.2.counter == counter && fieldAt t.2.body 0 4 == name &&
    fieldAt t.2.body 4 4 == tag)).map (·.1)

/-- A work request with TRIGGERED = 1: it starts at once if its trigger has fired, else becomes its trigger's work request (R255). -/
def prePost (s : State) (errs : Errs) (f r n k : Nat) (e : Endpoint) (d : List Byte) : State :=
  match fnCounter s f (fieldAt d 48 4) with
  | none => complete s f r n .invalid
  | some c =>
    let name := fieldAt d 8 4
    let tag := fieldAt d 4 4
    let hit (p : PrePost) : Bool := p.fn == f && p.counter == c && p.ep == name && p.tag == tag
    match s.tr.fired.find? hit with
    | some q =>
      startPost { s with tr := { s.tr with fired := s.tr.fired.filter (fun p => p.trigger != q.trigger) } } errs f r n k e d
    | none =>
      match preTrigger s f c name tag with
      | none => complete s f r n .invalid
      | some t =>
        if s.tr.pre.any (fun p => p.trigger == t) then complete s f r n .invalid
        else if s.fld R.FN_PREPOST_CEIL f ≤ s.tr.pre.countP (fun p => p.fn == f) then complete s f r n .retryLater
        else
          let s := markStarted s f r n
          { s with tr := { s.tr with pre := s.tr.pre ++ [⟨f, r, n, name, tag, c, t⟩] } }

/-- EP_POST of an OP from 0 to 4. -/
def doEpPost (op f r n : Nat) (errs : Errs) (s : State) : State :=
  match takeDesc s f r n 0x3A, (findDesc s f r n).map (·.started) with
  | some d, some false =>
    if fieldAt d 12 1 ≠ op then s
    else if !postFieldsOk d then complete s f r n .invalid
    else
      match namedEp s f (fieldAt d 8 4) with
      | .error st => complete s f r n st
      | .ok (k, e) => if bitAt (fieldAt d 13 1) 1 then prePost s errs f r n k e d else startPost s errs f r n k e d
  | _, _ => s

/-- EP_POST_WRITE (R251). -/
def execEpPostWrite (fn ring num : Nat) (errs : Errs) (s : State) : Host.Outcome State Fault Refusal :=
  act s (doEpPost 0 fn ring num errs (withTlp errs.host s))

/-- EP_POST_READ (R251). -/
def execEpPostRead (fn ring num : Nat) (s : State) : Host.Outcome State Fault Refusal := act s (doEpPost 1 fn ring num noErrs s)

/-- EP_POST_WRITE_IMM (R251, R253). -/
def execEpPostWriteImm (fn ring num : Nat) (errs : Errs) (s : State) : Host.Outcome State Fault Refusal :=
  act s (doEpPost 2 fn ring num errs (withTlp errs.host s))

/-- EP_POST_FETCH_ADD (R251). -/
def execEpPostFetchAdd (fn ring num : Nat) (s : State) : Host.Outcome State Fault Refusal := act s (doEpPost 3 fn ring num noErrs s)

/-- EP_POST_COMPARE_SWAP (R251). -/
def execEpPostCompareSwap (fn ring num : Nat) (s : State) : Host.Outcome State Fault Refusal := act s (doEpPost 4 fn ring num noErrs s)

/-! Regions (R248). -/

/-- Does a host range lie inside one window of the function with the rights granted? -/
def hostRegionOk (s : State) (f a n rights : Nat) : Bool :=
  (List.range 128).any (fun k =>
    s.flag R.WIN_BASE.VALID f k && decide (s.fld R.WIN_BASE.BASE f k * 4096 ≤ a) && decide (a + n ≤ s.fld R.WIN_LIMIT.LIMIT f k * 4096 + 4096) &&
      (!(bitAt rights 0 || bitAt rights 2) || s.flag R.WIN_BASE.READ f k) && (!(bitAt rights 1 || bitAt rights 2) || s.flag R.WIN_BASE.WRITE f k))

/-- Does a region lie wholly inside what its kind requires (R248, R317)? -/
def regionInside (s : State) (f kind base len rights : Nat) : Bool :=
  match kind with
  | 1 => hostRegionOk s f base len rights
  | 2 => (match s.span? base with | some x => x.fn == f && x.st != .free && decide (len ≤ rowsRegion x + 8) | none => false)
  | _ => (match regionAt s base len with | some r => r.fn == f && r.kind != .system | none => false)

/-- REGION_SET. -/
def doRegionSet (f r n : Nat) (s : State) : State :=
  match takeDesc s f r n 0x3A with
  | none => s
  | some d =>
    let fl := fieldAt d 13 1
    let i := fieldAt d 32 4
    let kind := if bitAt fl 4 then 2 else bit (bitAt fl 0)
    let base := fieldAt d 16 8
    let len := fieldAt d 56 8
    if fieldAt d 12 1 ≠ 5 then s
    else if 2 ^ 16 ≤ fieldAt d 8 4 ∨ bits fl 3 1 ≠ 0 ∨ (bitAt fl 0 ∧ bitAt fl 4) ∨ !zeroAt d 14 2 ∨ 2 ^ 24 ≤ i ∨ len = 0 ∨ 2 ^ 48 < len ∨
        (kind = 2 ∧ 2 ^ 18 ≤ base) ∨ !zeroAt d 52 4 then complete s f r n .invalid
    else
      let old := region? s f i
      let used : Bool := match old with | some e => e.used | none => false
      if used ∨ s.fld R.FN_REGIONS_MAX f ≤ i then complete s f r n .invalid
      else if !regionInside s f kind base len (bits fl 7 5) then complete s f r n .protection
      else
        let g := (match old with | some e => e.gen | none => 0) + 1
        let g := if g = 256 then 1 else g
        let t := Tab.ins (f * 2 ^ 24 + i) ⟨true, g, kind, fieldAt d 8 2, bits fl 7 5, base, len⟩ s.tr.regions
        let s := { s with tr := { s.tr with regions := t } }
        complete s f r n .ok 0 (leBytes 4 (i + g * 2 ^ 24))

/-- REGION_SET (R248). -/
def execRegionSet (fn ring num : Nat) (s : State) : Host.Outcome State Fault Refusal := act s (doRegionSet fn ring num s)

/-- REGION_CLEAR. Every request is executed within one command, so none is executing in the region between commands. -/
def doRegionClear (f r n : Nat) (s : State) : State :=
  match takeDesc s f r n 0x3A with
  | none => s
  | some d =>
    if fieldAt d 12 1 ≠ 6 then s
    else if !zeroAt d 8 4 ∨ !zeroAt d 13 11 ∨ !zeroAt d 52 12 then complete s f r n .invalid
    else
      let key := fieldAt d 32 4
      match region? s f (key % 2 ^ 24) with
      | none => complete s f r n .invalid
      | some e =>
        if !e.used ∨ e.gen ≠ key / 2 ^ 24 then complete s f r n .invalid
        else
          complete { s with tr := { s.tr with regions := Tab.ins (f * 2 ^ 24 + key % 2 ^ 24) { e with used := false } s.tr.regions } } f r n .ok

/-- REGION_CLEAR (R248). -/
def execRegionClear (fn ring num : Nat) (s : State) : Host.Outcome State Fault Refusal := act s (doRegionClear fn ring num s)

end Sys2Proof.Machine
end

