-- ==== Sys2Proof/Machine/Copy.lean ====
section
/-! DEFINITION. Copies between host, local and fabric addresses (R211, R263 to R265). -/

namespace Sys2Proof.Machine

open Sys2Proof

/-! The fabric windows (R263). -/

/-- Rights of a fabric window. -/
inductive FabRight where
  | read | write | atomic
  deriving DecidableEq, Repr

/-- Does window k of function f admit bytes at a node? -/
def fwinAdmits (s : State) (f k node a n : Nat) (r : FabRight) : Bool :=
  s.flag R.FWIN_CTL.VALID f k &&
    (match r with | .read => s.flag R.FWIN_CTL.READ f k | .write => s.flag R.FWIN_CTL.WRITE f k | .atomic => s.flag R.FWIN_CTL.ATOMIC f k) &&
    decide (s.fld R.FWIN_CTL.NODE_LO f k ≤ node) && decide (node ≤ s.fld R.FWIN_NODE_HI.NODE_HI f k) &&
    decide (s.fld R.FWIN_BASE.BASE f k * 4096 ≤ a) && decide (a + n ≤ s.fld R.FWIN_LIMIT.LIMIT f k * 4096 + 4096)

/-- Is an operation of function f allowed by its fabric window table? -/
def fwinOk (s : State) (f node a n : Nat) (r : FabRight) : Bool := (List.range 8).any (fun k => fwinAdmits s f k node a n r)

/-- The status of a memory-semantic operation before it is sent (R91, R263, R316). -/
def fabricCheck (s : State) (f node a n : Nat) (r : FabRight) : Status :=
  if 2 ^ 48 < a + n then .invalid
  else if r ≠ .read ∧ (addrClass a = .kv ∨ addrClass (a + n - 1) = .kv) then .protection
  else if !fwinOk s f node a n r then .protection
  else if nodeLost s node then .displaced
  else .ok

/-! Sides of a COPY. -/

/-- A side of a COPY: host, local, or at a node of the fabric. -/
inductive Side where
  | host (a : Nat)
  | local_ (a : Nat)
  | fabric (node a : Nat)
  deriving DecidableEq, Repr

/-- A side read from an address and its LOCAL flag: bit 63 makes it a fabric address (R263).
DEDUCED (unsafe): log entry 70. -/
def sideOf (a : Nat) (isLocal : Bool) : Side :=
  if bitAt a 63 then .fabric (a / 2 ^ 48 % 2 ^ 15) (a % 2 ^ 48) else if isLocal then .local_ a else .host a

/-- May a side of a COPY be read, or written (R82, R83, R91, R201)? All that it touches of the host is one access. A fabric side is checked
by the fabric windows.
DEDUCED (unsafe): log entry 114. -/
def sideCheck (s : State) (f : Nat) (x : Side) (n : Nat) (write : Bool) : Status :=
  match x with
  | .host a => if hostUp s f && winOk s f a n write then .ok else .protection
  | .local_ a => if f = 0 ∧ !write ∧ inSystem s a n then .ok else localCheck s f a n write
  | .fabric node a => fabricCheck s f node a n (if write then .write else .read)

/-- The source of a COPY that stays on this module: as many bytes as could be read, with the status met; none where it must wait. PF0 may
read the system area (R84). -/
def copySource (s : State) (bad : List (Nat × Nat × Byte)) (f : Nat) (src : Side) (n : Nat) : Option (List PByte × State × Status) :=
  match src with
  | .host a => (match hostReadP s f a n with | some b => some (b, s, psnStatus (anyPsn b)) | none => some ([], s, .protection))
  | .local_ a =>
    if f = 0 ∧ inSystem s a n then some (cleanBytes (systemBytes s a n), s.takeFree (2 ^ 41), .ok)
    else (match localCheck s f a n false with
     | .ok => localRead s bad a n
     | st => some ([], s, st))
  | .fabric _ _ => some ([], s, .invalid)

/-- Bytes placed on the destination side of a COPY: how many, and the status. -/
def copyDest (s : State) (f : Nat) (dst : Side) (n : Nat) (bs : List PByte) : Nat × State × Status :=
  match dst with
  | .host a => (match hostWrite s f a (hostBytes bs) with | some s => (bs.length, s, .ok) | none => (0, s, .protection))
  | .local_ a =>
    (match localCheck s f a n true with
     | .ok => let r := pwrite s a bs; (bs.length, invalidate r.1 a bs.length, if r.2 then .poison else .ok)
     | st => (0, s, st))
  | .fabric _ _ => (0, s, .invalid)

/-- The RESULT of a COPY: the bytes copied, in bytes 24 to 31 (Table 11-7). -/
def copyResult (n : Nat) : List Byte := leBytes 8 0 ++ leBytes 8 n

/-- Does a descriptor wait for answers from the fabric?
DEDUCED (unsafe): log entry 125. -/
def descWork (s : State) (f r n : Nat) : Bool := s.tr.works.any (fun w => w.2.who == .desc f r n)

/-- A COPY whose source needs a frame waits for it, holding the pages it reads (R98, R102). -/
def copyWait (s : State) (f r n : Nat) (src : Side) (len : Nat) : State :=
  waitFrame (markStarted s f r n) (.desc f r n) false (match src with | .local_ a => kvKeys s a len | _ => [])

/-- A copy within the module and its host; a side that is refused moves no byte (R201). -/
def copyHere (s : State) (f r n : Nat) (src dst : Side) (len : Nat) (errs : Errs) : State :=
  match (sideCheck s f src len false).worse (sideCheck s f dst len true) with
  | .ok =>
    (match copySource (errsOf f errs (endWait s (.desc f r n))) errs.batts f src len with
     | none => copyWait s f r n src len
     | some (bs, s, st) =>
       if bs.isEmpty then complete s f r n st 0 (copyResult 0)
       else let w := copyDest s f dst len bs; complete w.2.1 f r n (st.worse w.2.2) 0 (copyResult w.1))
  | st => complete s f r n st 0 (copyResult 0)

/-- A bulk copy of one segment to a node (R263). -/
def copyOut (s : State) (f r n : Nat) (src : Side) (node a len : Nat) (errs : Errs) : State :=
  match (sideCheck s f src len false).worse (fabricCheck s f node a len .write) with
  | .ok =>
    (match copySource (errsOf f errs (endWait s (.desc f r n))) errs.batts f src len with
     | none => copyWait s f r n src len
     | some (bs, s, st) =>
       if bs.length < len then complete s f r n st 0 (copyResult 0)
       else
         let ps := (cutPieces bs).map (fun p => (p.1, flowPkt s 1 node (a + p.1) (rawBytes p.2) (anyPsn p.2)))
         let w := newWork (markStarted s f r n) ⟨.desc f r n, 0, f, 1, ps.length, st, false, 0, [], 0⟩
         post w.2 (.flow node) w.1 ps)
  | st => complete s f r n st 0 (copyResult 0)

/-- A bulk copy of one segment from a node: reads, whose data are placed as they arrive. -/
def copyIn (s : State) (f r n node a : Nat) (dst : Side) (len : Nat) : State :=
  match (fabricCheck s f node a len .read).worse (sideCheck s f dst len true) with
  | .ok =>
    let place : Option (Bool × Nat) := match dst with | .host b => some (true, b) | .local_ b => some (false, b) | .fabric _ _ => none
    (match place with
     | none => complete s f r n .invalid 0 (copyResult 0)
     | some (toHost, b) =>
       let ps := (cutLens len).map (fun p => (p.1, flowPkt s 3 node (a + p.1) (leBytes 4 p.2) false))
       let w := newWork (markStarted s f r n) ⟨.desc f r n, 0, f, 1, ps.length, .ok, toHost, b, [], 0⟩
       post w.2 (.flow node) w.1 ps)
  | st => complete s f r n st 0 (copyResult 0)

/-- COPY. -/
def doCopy (f r n : Nat) (errs : Errs) (s : State) : State :=
  match takeDesc s f r n 0x28, descWork s f r n with
  | some d, false =>
    let len := fieldAt d 24 8
    let fl := fieldAt d 32 1
    if len = 0 ∨ 2 ^ 40 < len ∨ 4 ≤ fl ∨ !zeroAt d 33 31 then complete s f r n .invalid 0 (copyResult 0)
    else
      match sideOf (fieldAt d 8 8) (bitAt fl 0), sideOf (fieldAt d 16 8) (bitAt fl 1) with
      | .host _, .host _ | .fabric _ _, .fabric _ _ => complete s f r n .invalid 0 (copyResult 0)
      | .fabric m a, dst => copyIn s f r n m a dst len
      | src, .fabric m a => copyOut s f r n src m a len errs
      | src, dst => copyHere s f r n src dst len errs
  | _, _ => s

/-- COPY (R211, R263), with the storage errors its reads meet. -/
def execCopy (fn ring num : Nat) (errs : Errs) (s : State) : Host.Outcome State Fault Refusal := 
  act s (doCopy fn ring num errs (withTlp errs.host s))

/-! SEND (R263 to R265). -/

/-- Is an op of a context waiting for answers? -/
def workOf (s : State) (h idx : Nat) : Bool := s.tr.works.any (fun w => w.2.who == .ctx h && w.2.idx == idx)

/-- KEY of the last packet of a copy with a counter add (R264). -/
def caddKey (counter : Nat) : Nat := counter % 2 ^ 17 + 2 ^ 31

/-- The last packet of a list given the counter add. -/
def withCadd (cadd : Bool) (counter : Nat) (ps : List (Nat × Pkt)) : List (Nat × Pkt) :=
  match ps.reverse with
  | (o, p) :: r => if cadd then ((o, { p with key := caddKey counter }) :: r).reverse else ps
  | [] => ps

/-- Records put together in packets of at most 4,096 payload bytes, one to a packet where routers may merge them. -/
def groupRecords (combine : Bool) : List (List Byte) → List (List Byte)
  | [] => []
  | b :: r =>
    match groupRecords combine r with
    | [] => [b]
    | g :: gs => if combine ∨ 4096 < b.length + g.length then b :: g :: gs else (b ++ g) :: gs

/-- Request packets of an op posted on the hidden flow to a node; without any it is done. -/
def sendPkts (s : State) (k : OpCtx) (node : Nat) (st : Status) (ps : List (Nat × Pkt)) : OpOut :=
  if ps.isEmpty then .done s st 0
  else
    let w := newWork s ⟨.ctx k.h, k.idx, k.c.fn, 2, ps.length, st, false, 0, [], 0⟩
    .wait (post w.2 (.flow node) w.1 ps)

/-- An activation record (R61): the batts of `act` A8 values under a table of the step program, and the vector's FP32 scale behind them. A batt
of a poisoned value is poison.
DESIGN CHOICE (unsafe): log entry 137. -/
def actRecord (t : Option CodeTable) (act : Nat) (bs : List PByte) : List PByte :=
  let vals := bs.take act
  let bts := encodeBatts t true 1 (act / 16384 + 1) ((rawBytes vals).map (·.toNat))
  (List.zipWith (fun (b : List Byte) (g : List PByte) => b.map (fun x => (x, anyPsn g))) bts (chunk 16384 vals)).flatten ++
    (bs.drop (alignUp act 4)).take 4

/-- What SEND puts on the wire for its operand: an activation record where it asks for batts and the operand is an A8 vector, else the bytes. -/
def sendBody (s : State) (k : OpCtx) (act : Nat) (tab : Nat × Nat) (bs : List PByte) : List PByte :=
  if act ≠ 0 ∧ bs.length = alignUp act 4 + 4 then actRecord (tableOf s k.c.fn tab.1 tab.2) act bs else bs

/-- SEND of ARG2 bytes to the remote address that ARG1 stands for: a receive queue takes them as PARTIAL packets (R279). Poison that it reads
goes with its packets, and the op does not retire ST_OK (R39, R40).
DEDUCED (unsafe): log entry 70. -/
def sendOp (remote act : Nat) (tab : Nat × Nat) (k : OpCtx) (s : State) : OpOut :=
  if workOf s k.h k.idx then .wait s
  else
    let node := k.o.arg0 % 2 ^ 15
    let n := k.o.arg2
    if n = 0 then .done s .ok 0
    else
      match operand s k k.o.src0 k.anyTile 0 n false with
      | none => .done s .protection 0
      | some l =>
        let r := locRead s k.h l n
        let body := sendBody s k act tab r.1
        match fabricCheck s k.c.fn node remote (if (queueAt remote).isSome then 16 else body.length) .write with
        | .ok =>
          (match queueAt remote with
           | some _ =>
             let gs := groupRecords (k.o.varBit 0) (splitRecords (n + 1) (rawBytes r.1))
             sendPkts r.2 k node (psnStatus (anyPsn r.1)) (gs.map (fun g => (0, { flowPkt r.2 7 node remote g (anyPsn r.1) with combine := k.o.varBit 0 })))
           | none =>
             let ps := (cutPieces body).map (fun p => (p.1, { flowPkt r.2 1 node (remote + p.1) (rawBytes p.2) (anyPsn p.2) with combine := k.o.varBit 0 }))
             sendPkts r.2 k node (psnStatus (anyPsn r.1)) (withCadd (k.o.varBit 1) k.o.aux ps))
        | st => .done s st 0

/-- SEND (R263). `remote` is the local address at the target that ARG1 stands for; with `act` not 0 the op asks for its vector of `act` A8
values to go as batts, under the table of TABLE_ID `table` and TABLE_GEN `tgen` (R41, R61). -/
def execSend (handle remote act_ table tgen : Nat) (errs : Errs) (s : State) : Host.Outcome State Fault Refusal :=
  act s (runOp s handle (fun o => o.opcode == 0x12 && !o.varBit 2) (readErrs errs (sendOp remote act_ (table, tgen))))

/-- Segments of a bulk copy list read one after another (R265): packets so far, or the status that bars it; none where it must wait. -/
def listPkts (bad : List (Nat × Nat × Byte)) (f node : Nat) : List (Nat × Nat × Nat) → State → Option (Except Status (List (Nat × Pkt)) × State × Status)
  | [], s => some (.ok [], s, .ok)
  | (src, dst, len) :: r, s =>
    if 2 ^ 48 ≤ dst ∨ len = 0 ∨ 2 ^ 32 < len then some (.error .invalid, s, .ok)
    else
      match (localCheck s f src len false).worse (fabricCheck s f node dst len .write) with
      | .ok =>
        (match localRead s bad src len with
         | none => none
         | some (bs, s, st) =>
           if bs.length < len then some (.error st, s, st)
           else
             match listPkts bad f node r s with
             | none => none
             | some (.error e, s, _) => some (.error e, s, st)
             | some (.ok ps, s, st') =>
               some (.ok ((cutPieces bs).map (fun p => (p.1, flowPkt s 1 node (dst + p.1) (rawBytes p.2) (anyPsn p.2))) ++ ps), s, st.worse st'))
      | st => some (.error st, s, st)

/-- The segments of a list.
DEDUCED (safe): log entry 73. -/
def segmentsOf (b : List Byte) (n : Nat) : List (Nat × Nat × Nat) :=
  (List.range n).map (fun i => (fieldAt b (24 * i) 8, fieldAt b (24 * i + 8) 8, fieldAt b (24 * i + 16) 8))

/-- A bulk copy list (R265). -/
def listOp (bad : List (Nat × Nat × Byte)) (k : OpCtx) (s : State) : OpOut :=
  if workOf s k.h k.idx then .wait s
  else
    match operand s k k.o.src0 k.anyTile 0 32 false with
    | none => .done s .protection 0
    | some l =>
      let h := locRead s k.h l 32
      let hb := rawBytes h.1
      let cnt := fieldAt hb 0 2
      let node := fieldAt hb 2 2
      let c := fieldAt hb 4 4
      if anyPsn h.1 then .done s .poison 0
      else if cnt = 0 ∨ 16 < cnt ∨ 32768 ≤ node ∨ bits c 30 17 ≠ 0 ∨ !zeroAt hb 8 24 then .done s .invalid 0
      else
        match operand s k k.o.src0 k.anyTile 32 (24 * cnt) false with
        | none => .done s .protection 0
        | some l =>
          let b := locRead h.2 k.h l (24 * cnt)
          if anyPsn b.1 then .done s .poison 0
          else
            let segs := segmentsOf (rawBytes b.1) cnt
            match listPkts bad k.c.fn node segs (endWait b.2 (.ctx k.h)) with
            | none => .wait (waitFrame s (.ctx k.h) false (segs.flatMap (fun g => if addrClass g.1 = .kv then kvKeys s g.1 g.2.2 else [])))
            | some (.error st, _, _) => .done s st 0
            | some (.ok ps, s, st) => sendPkts s k node st (withCadd (bitAt c 31) (c % 2 ^ 17) ps)

/-- BULK_COPY_LIST (R265), with the storage errors its reads meet. -/
def execBulkCopyList (handle : Nat) (errs : Errs) (s : State) : Host.Outcome State Fault Refusal :=
  act s (runOp s handle (fun o => o.opcode == 0x12 && o.varBit 2) (readErrs errs (listOp errs.batts)))

end Sys2Proof.Machine
end

