-- ==== Sys2Proof/Machine/CtxClose.lean ====
section
/-! DEFINITION. Closing and aborting contexts (R176). -/

namespace Sys2Proof.Machine

open Sys2Proof

/-- The triggers armed by a context disarmed without firing, and its waits forgotten. -/
def dropCtxSync (s : State) (h : Nat) : State :=
  let s := disarm s (fun t => t.2.ctx == some h)
  { s with sch := { s.sch with waiters := s.sch.waiters.filter (fun w => w.who != .ctx h) } }

/-- The streams that a context's ops in flight claimed end as for an op with ST_ABORTED, so that queued hints follow (R77). -/
def dropClaims (s : State) (h : Nat) : State :=
  let mine (p : Nat × StreamSt) : Bool := match p.2.claim with | some c => c.1 == h | none => false
  (s.tl.streams.filter mine).foldl (fun s p => releaseStream s (p.1 / 4) (p.1 % 4) .aborted) s

/-- The ops of a context in flight, item by item: frame waits, partials asked for and merges are given up, its ring ends with its notices
(R163), its collectives go on without it, and remote work still unanswered reports to none. -/
def dropInflight (s : State) (h : Nat) : State :=
  let s := dropClaims s h
  let s := match Tab.find? h s.attn.rings with | some g => ringEnd s h g.par .aborted | none => s
  let a := s.attn
  let a := { a with
    waits := a.waits.filter (fun w => w.2.who != .ctx h), merges := a.merges.filter (fun m => m.1 / 65536 != h),
    colls := a.colls.map (fun c => if (c.2.who.map (·.1)) == some h then (c.1, { c.2 with who := none }) else c),
    ringIn := a.ringIn.filter (fun m => m.2.1 != h) }
  let works := s.tr.works.map (fun (w : Nat × Work) => if w.2.who == .ctx h then (w.1, { w.2 with who := .module }) else w)
  { s with attn := a, pg := { s.pg with waits := s.pg.waits.filter (fun w => w.1 != .ctx h) }, tr := { s.tr with works := works } }

/-- A context moved to ABORTING: its step in progress and its waiting steps complete with ST_ABORTED; under context abort its queues
are flushed (R276). -/
def beginAbort (s : State) (h : Nat) (abort : Bool) (closer : Option Who) : State :=
  match s.ctx? h with
  | none => s
  | some c =>
    let s := dropInflight (dropCtxSync s h) h
    let s := match c.step with
      | some e => endStep (s.setCtx h { c with step := some { e with status := .aborted, stopped := true } }) h
      | none => s
    let s := c.queued.foldl (fun s q => refuseStep s c q.src .aborted) s
    let s := s.updCtx h (fun c => { c with st := .aborting, queued := [], abort := abort, closer := closer, unparkSince := none,
                                            sequencer := none })
    if abort then c.queues.foldl flushQueue s else s

/-- CTX_CLOSE: a handle of no context, or of one already aborting, completes with ST_INVALID, or with ST_ABORTED under an abort. -/
def doCtxClose (f r n : Nat) (s : State) : State :=
  match findDesc s f r n, takeDesc s f r n 0x02 with
  | some a, some d =>
    let h := fieldAt d 8 4
    if 2 ^ 19 ≤ h ∨ 1 < fieldAt d 12 1 ∨ !zeroAt d 13 51 then complete s f r n .invalid
    else
      match s.ctx? h with
      | none => complete s f r n .invalid
      | some c =>
        if c.fn ≠ f then complete s f r n .protection
        else if c.st = .aborting then complete s f r n (if c.abort then .aborted else .invalid)
        else
          let s := markStarted s f r n
          let s := beginAbort s h (fieldAt d 12 1 == 1) (some (.desc f r n))
          (earlierSteps s f h a.order).foldl (fun s p => complete s f p.1 p.2 .aborted (2 ^ 32 - 1)) s
  | _, _ => s

/-- CTX_CLOSE (R176). -/
def execCtxClose (fn ring num : Nat) (s : State) : Host.Outcome State Fault Refusal := act s (doCtxClose fn ring num s)

/-- Is a descriptor a well-formed CTX_STEP or CTX_CLOSE that names a handle? -/
def namesHandle (h : Nat) (d : List Byte) : Bool :=
  fieldAt d 8 4 == h &&
    ((fieldAt d 0 1 == 0x03 && decide (fieldAt d 14 1 ≤ 1) && zeroAt d 15 1 && zeroAt d 20 44) ||
      (fieldAt d 0 1 == 0x02 && decide (fieldAt d 12 1 ≤ 1) && zeroAt d 13 51))

/-- Descriptors that name a handle, were accepted while its context was ABORTING and have not run: they complete by that (R176). -/
def endLate (s : State) (f h : Nat) (st : Status) : State :=
  let ds := (s.host.rings.filter (fun p => p.1 / 64 = f)).flatMap (fun p =>
    (p.2.acc.filter (fun d => namesHandle h d.bytes && !d.started)).map (fun d => (p.1 % 64, d.num, if fieldAt d.bytes 0 1 = 0x03 then 2 ^ 32 - 1 else 0)))
  ds.foldl (fun s p => complete s f p.1 p.2.1 st p.2.2) s

/-- The context reaches FREE: its T1 region and slices are scrubbed and freed, its queues freed, its CTX_CLOSE completes. -/
def doContextAbortDone (h : Nat) (s : State) : State :=
  match s.ctx? h with
  | none => s
  | some c =>
    if c.st ≠ .aborting then s
    else
      let s := freeSlices s h
      let s := if c.t1Base = 0 then s else freeRegion s c.t1Base
      let s := freeQueues s c.queues
      let s := { s with mm := { s.mm with unfenced := s.mm.unfenced.map (fun (p : Nat × Unfenced) =>
        (p.1, { p.2 with by_ := p.2.by_.map (fun (w : Nat × Nat) => if w.2 = h then (w.1, 2 ^ 20) else w) })) } }
      let s := endLate { s with sch := { s.sch with ctxs := Tab.del h s.sch.ctxs } } c.fn h (if c.abort then .aborted else .invalid)
      match c.closer with
      | some (.desc f r n) => complete s f r n .ok
      | _ => s

/-- CONTEXT_ABORT_DONE (R176). -/
def execContextAbortDone (handle : Nat) (s : State) : Host.Outcome State Fault Refusal := act s (doContextAbortDone handle s)

end Sys2Proof.Machine
end

