-- ==== Sys2Proof/Machine/Paging.lean ====
section
/-! DEFINITION. Paging commands: ageing, demotion and promotion, migrations, waits for frames, lending and recall (R97 to R105, R301). -/

namespace Sys2Proof.Machine

open Sys2Proof

/-! Ageing and the twilight list. -/

/-- A page at the end of an ageing period (R97): `tick` orders its entry into the new bucket.
DEDUCED (unsafe): log entry 123. -/
def agePte (tick : Nat) (e : Pte) : Pte :=
  if e.st ≠ .t1 ∧ e.st ≠ .t2 then e
  else
    let a := if e.accessed then 0 else min 7 (e.age + 1)
    { e with age := a, accessed := false, entered := if a = e.age then e.entered else tick }

/-- AGE_PERIOD (R97). -/
def execAgePeriod (time : Nat) (s : State) : Host.Outcome State Fault Refusal :=
  let t := tickPage (atTime s time)
  act s { t with pg := { t.pg with ptes := t.pg.ptes.map (fun p => (p.1, agePte t.pg.tick p.2)) } }

/-- The twilight list of a tier without the pages of functions at or below their reserve (R98, R99).
DEDUCED (unsafe): log entry 123. -/
def twilight (s : State) (tier : PgSt) : List (Nat × Pte) :=
  s.pg.ptes.filter (fun p =>
    p.2.st == tier && !p.2.mig && !p.2.tent && !p.2.psn && !p.2.crcBad && !(heldKeys s).contains p.1 &&
      decide (s.fld R.PAGE_AGE.DEMOTE_MIN_AGE ≤ p.2.age) &&
      match s.span? (p.1 / 2 ^ 31) with
      | some x => !x.pin && (if tier = .t1 then decide (s.fld R.FN_T1_RESERVE x.fn < fnT1 s x.fn)
                             else decide (s.fld R.FN_T2_RESERVE x.fn < fnT2 s x.fn))
      | none => false)

/-! Ranks under erasure (R328). -/

/-- A page that must leave where it lies, in the order of preference of R103: to T2, to T1, to a lender other than `not` (a protection copy is
never lent, R319), or else displaced (R105). `kinds` are its migrations to T2, T1 and T3. With `now` the entry is switched at once. -/
def leaveTier (s : State) (sp p n : Nat) (not : Option Nat) (kinds : MigKind × MigKind × MigKind) (now : Bool) : State :=
  let f := match s.span? sp with | some x => x.fn | none => 0
  let q := match s.span? sp with | some x => rotIndex x p | none => 0
  let go (s : State) (m : Mig) : State := if now then switchPage s sp p m else setMig s sp p m
  match (makeT2Room s f n).bind (fun s => (findRun s n).map (fun g => (s, g))) with
  | some (s, g) => go (useRun s g n (.dest f sp p)) ⟨kinds.1, 0, g, n, 0, 0⟩
  | none =>
    match allocFrame s f q with
    | some (fr, s) => go (useFrame s fr (.dest f sp p)) ⟨kinds.2.1, fr, 0, 0, 0, 0⟩
    | none =>
      match (if f < 64 then t3Room s not else none) with
      | some node =>
        let s := startT3 s sp p kinds.2.2 node
        if now then (match migOf s sp p with | some m => switchPage s sp p m | none => s) else s
      | none => displace (freeSource s (s.pte sp p)) sp p

/-- One extent moved out of a failing rank to a run that does not touch it (R328 step 2), or, where T2 has no room, to another tier or
nowhere (R105); one that migrates stays until then. -/
def moveExtent (s : State) (g : Nat) : State :=
  match Tab.find? g s.mm.runs with
  | none => s
  | some (n, u) =>
    match u, findRun s n with
    | .page _ span p, some b =>
      if (s.pte span p).mig then s
      else let s := dropRun (useRun s b n u) g; s.setPte span p { s.pte span p with granule := b }
    | .page _ span p, none =>
      if (s.pte span p).mig ∨ (s.pte span p).st ≠ .t2 then s else leaveTier s span p n none (.t2t2, .t2t1, .t2t3) true
    | .lent h, some b =>
      let s := dropRun (useRun s b n u) g
      { s with pg := { s.pg with lent := Tab.upd h (fun l => { l with at_ := b }) s.pg.lent } }
    | _, _ => s

/-- A rank under erasure drained, and retired once it is empty (R328 steps 2 and 4).
DEDUCED (unsafe): log entry 95. -/
def drainRank (s : State) (rk : Nat) : State :=
  let s := ((s.mm.runs.filter (fun p => touches rk p.1 p.2.1)).map (·.1)).foldl moveExtent s
  let inRegion := s.mm.regions.any (fun r => addrClass r.base = .t2 && touches rk ((r.base - t2Base) / 4096) r.granulesOf)
  if inRegion || s.mm.runs.any (fun p => p.2.2 != .scrub && touches rk p.1 p.2.1) then s
  else
    let s := syncRetired { s with flt := { s.flt with retRanks := NSet.add rk s.flt.retRanks, erasure := NSet.del rk s.flt.erasure } }
    logModule s { entry0 s 0x11 .ok 0 with flags := 3, unitKind := 4, unit_ := rk }

/-- The storage errors that the tier paging engine meets (R85, R100, R371), then what it does for ranks under erasure. -/
def engineMet (e : Errs) (s : State) : State :=
  let s := errsModule e s
  s.flt.erasure.foldl drainRank s

/-! Demotion. -/

/-- DEMOTE from T1. -/
def demoteT1 (s : State) : State :=
  let on := s.flag R.PAGE_CTL.MIG_ENABLE && (decide (t1Free s < s.fld R.PAGE_LOWATER.FRAMES) ||
    (s.pg.demoting1 && decide (t1Free s ≤ s.fld R.PAGE_HIWATER.FRAMES)))
  let s := { s with pg := { s.pg with demoting1 := on } }
  if !on then s
  else
    match oldest (twilight s .t1) with
    | none => s
    | some (k, _) => (startDemoteT2 s (k / 2 ^ 31) (k % 2 ^ 31)).getD s

/-- May a page's function have more of T3? No protection copy goes there (R319). -/
def t3May (s : State) (k : Nat) : Bool :=
  match s.span? (k / 2 ^ 31) with
  | some x => decide (x.fn < 64) && decide (fnT3 s x.fn < s.fld R.FN_T3_CEIL x.fn)
  | none => false

/-- DEMOTE from T2.
DESIGN CHOICE (unsafe): log entry 54. -/
def demoteT2 (s : State) : State :=
  let on := s.flag R.PAGE_CTL.MIG_ENABLE && (decide (t2Free s < s.fld R.PAGE_T2_WATER.LOW) ||
    (s.pg.demoting2 && decide (t2Free s ≤ s.fld R.PAGE_T2_WATER.HIGH)))
  let s := { s with pg := { s.pg with demoting2 := on } }
  if !on then s
  else
    match oldest ((twilight s .t2).filter (fun p => t3May s p.1)), t3Room s none with
    | some (k, _), some node => startT3 s (k / 2 ^ 31) (k % 2 ^ 31) .t2t3 node
    | _, _ => s

/-- DEMOTE (R99): one page from the head of the twilight list of T1, or (fromT2) of T2; `errs` are the storage errors the engine met. -/
def execDemote (fromT2 : Bool) (errs : Errs) (s : State) : Host.Outcome State Fault Refusal :=
  let t := engineMet errs s
  act s (if fromT2 then demoteT2 t else demoteT1 t)

/-- PROMOTE: the copy of a page of T2 or T3 to a T1 frame begins. -/
def doPromote (span p : Nat) (s : State) : State :=
  match s.span? span with
  | none => s
  | some x =>
    let e := s.pte span p
    if e.mig ∨ (e.st ≠ .t2 ∧ e.st ≠ .t3) ∨ e.crcBad ∨ !s.flag R.PAGE_CTL.MIG_ENABLE then s
    else
      match allocFrame s x.fn (rotIndex x p) with
      | none => s
      | some (f, s) => setMig (useFrame s f (.dest x.fn span p)) span p ⟨if e.st = .t3 then .t3t1 else .t2t1, f, 0, 0, 0, 0⟩

/-- PROMOTE (R101), with the storage errors the engine met (R85, R59): batts that fault are logged, and their value groups are poison. -/
def execPromote (span page : Nat) (errs : Errs) (s : State) : Host.Outcome State Fault Refusal :=
  let t := engineMet errs s
  act s (doPromote span page (poisonBatts t span page (badOf errs.batts page)))

/-! Recall at the borrower. -/

/-- Recall notices whose pages are all switched are acknowledged (R103). -/
def ackRecalls (s : State) : State :=
  let met (r : RecallIn) : Bool := r.pages.all (fun k => let e := s.pte (k / 2 ^ 31) (k % 2 ^ 31); !(e.st == .t3 && e.node == r.node && e.recalling))
  let ended := s.pg.recallsIn.filter met
  let s := { s with pg := { s.pg with recallsIn := s.pg.recallsIn.filter (fun r => !met r) } }
  ended.foldl (fun s r => s.emit (.recallAck r.node r.pages)) s

/-- Does a migration decode the page's batts: promotions, and recalls of lent pages (R59)? -/
def MigKind.decodes (k : MigKind) : Bool := k == .t2t1 || k == .t3t1 || k == .t3t2 || k == .t3t3

/-- Steps 2 and 3 of a page's migration; `bad` are its stored bytes that read otherwise than they were written. -/
def doSwitch (span p : Nat) (bad : List (Nat × Byte)) (s : State) : State :=
  match migOf s span p with
  | none => s
  | some m => ackRecalls (switchPage (if m.kind.decodes then poisonBatts s span p bad else s) span p m)

/-- Step 1 of a borrower's demotion ends here, at its lender (R103, R104): its page is held as its batts under a handle, in T2, or in idle T1 where
that may be lent and free frames stay above PAGE_HIWATER after the loan.
DEDUCED (unsafe): log entry 55. -/
def doLentStore (h : Nat) (l : LentIn) (s : State) : State :=
  let n := max 1 (min 17 (ceilDiv (battsLen l.batts) 4096))
  let held (inT1 : Bool) (at_ : Nat) : LentPage := ⟨l, inT1, at_, n, false⟩
  let keep (s : State) (x : LentPage) : State :=
    let a := if x.inT1 then frameAddr x.at_ else t2Base + x.at_ * 4096
    let s := pwrite' s a (cleanBytes l.batts.flatten)
    { s with pg := { s.pg with lent := Tab.ins h x s.pg.lent } }
  match Tab.find? l.node s.pg.lendings with
  | none => s
  | some d =>
    if !NSet.has (l.node * 64 + l.fn) s.pg.lentKeys ∨ (Tab.find? h s.pg.lent).isSome ∨
       d.gib * 16384 ≤ s.pg.lent.countP (fun p => p.2.page.node == l.node) then s
    else
      match findRun s n with
      | some g => keep (useRun s g n (.lent h)) (held false g)
      | none =>
        if d.t1 && decide (s.fld R.PAGE_HIWATER.FRAMES + 1 < t1Free s) then
          match placeFrame s 8192 0 false with
          | some (fr, _) => keep (useFrame s fr (.lent h)) (held true fr)
          | none => s
        else s

/-- MIGRATION_SWITCH (R100): of a page of this module; or, at a lender, of the borrower's page `lent` stored under a handle (R103, R104). `errs`
are the storage errors the copy met. -/
def execMigrationSwitch (span page : Nat) (lent : Option (Nat × LentIn)) (errs : Errs) (s : State) : Host.Outcome State Fault Refusal :=
  let t := engineMet errs s
  act s (match lent with
    | some (h, l) => doLentStore h l t
    | none => doSwitch span page (badOf errs.batts page) t)

/-- A named page begins to move, in the order of preference of R103. -/
def recallPage (s : State) (k : Nat) : State :=
  let sp := k / 2 ^ 31
  let p := k % 2 ^ 31
  let e := s.pte sp p
  let s := s.setPte sp p { e with recalling := true }
  if e.mig then s
  else match s.span? sp with
    | none => s
    | some _ => leaveTier s sp p (max 1 e.count) (some e.node) (.t3t2, .t3t1, .t3t3) false

/-- RECALL_NOTICE. -/
def doRecallNotice (node : Nat) (handles : List Nat) (t : Nat) (s : State) : State :=
  let s := atTime s t
  -- a demotion whose destination is recalled is abandoned (Table 6-6)
  let gone := s.pg.migs.filter (fun m => (m.2.kind == .t2t3 || m.2.kind == .t3t3) && m.2.node == node && handles.contains m.2.handle)
  let s := gone.foldl (fun s m => abandonDemote s (m.1 / 2 ^ 31) (m.1 % 2 ^ 31)) s
  let pages := (s.pg.ptes.filter (fun p => p.2.st == .t3 && p.2.node == node && handles.contains p.2.handle)).map (·.1)
  let s := { s with pg := { s.pg with recallsIn := s.pg.recallsIn ++ [⟨node, s.now + 100000000, pages⟩] } }
  ackRecalls (pages.foldl recallPage s)

/-- RECALL_NOTICE (R103): from lender `node`, naming its page handles. -/
def execRecallNotice (node : Nat) (handles : List Nat) (time : Nat) (s : State) : Host.Outcome State Fault Refusal :=
  act s (doRecallNotice node handles time s)

/-- RECALL_DEADLINE: what is still at the lender is discarded there and holed here. -/
def doRecallDeadline (node t : Nat) (s : State) : State :=
  let s := atTime s t
  let due := s.pg.recallsIn.filter (fun r => r.node = node ∧ r.deadline ≤ s.now)
  let s := { s with pg := { s.pg with recallsIn := s.pg.recallsIn.filter (fun r => !(r.node == node && decide (r.deadline ≤ s.now))) } }
  (due.flatMap (·.pages)).foldl (fun s k =>
    let e := s.pte (k / 2 ^ 31) (k % 2 ^ 31)
    if e.st = .t3 ∧ e.node = node ∧ e.recalling then
      let s := match migOf s (k / 2 ^ 31) (k % 2 ^ 31) with
        | some m => dropMig (freeDest s m) (k / 2 ^ 31) (k % 2 ^ 31)
        | none => s
      displaceAs s (k / 2 ^ 31) (k % 2 ^ 31) false
    else s) s

/-- Lent pages freed: their frames or runs wait to be scrubbed (R93). -/
def freeLent (s : State) (node : Nat) (handles : List Nat) : State :=
  let mine := s.pg.lent.filter (fun p => p.2.page.node == node && handles.contains p.1)
  let s := mine.foldl (fun s p => if p.2.inT1 then dropFrame s p.2.at_ else dropRun s p.2.at_) s
  { s with pg := { s.pg with lent := s.pg.lent.filter (fun p => !(p.2.page.node == node && handles.contains p.1)) } }

/-- RECALL_DEADLINE (R103): at the borrower of `node`, or (lender) at the lender, which discards what it recalled from `node`. -/
def execRecallDeadline (lender : Bool) (node time : Nat) (s : State) : Host.Outcome State Fault Refusal :=
  act s (if lender then freeLent (atTime s time) node ((s.pg.lent.filter (fun p => p.2.recalled)).map (·.1))
        else doRecallDeadline node time s)

/-! Waits for frames (R102). -/

/-- The wait of an item ends without a frame: the item completes with ST_RETRY_LATER. -/
def frameTimeout (s : State) (w : Who) : State := if s.pg.waits.any (fun p => p.1 == w) then endFrameWait s w .retryLater else s

/-- FRAME_WAIT_TIMEOUT (R102): a context's op (byContext, `a` its handle) or a descriptor (function `a`, ring, number). -/
def execFrameWaitTimeout (byContext : Bool) (a ring num : Nat) (s : State) : Host.Outcome State Fault Refusal :=
  act s (frameTimeout s (if byContext then .ctx a else .desc a ring num))

/-! Lending at the lender (R103, R301). -/

/-- LENDING_SETUP: as lender, a lending to `node` and the T3 keys of its functions; as borrower, an offer of `node`. A lending that needs
more than 1,024 lent keys is refused.
DEDUCED (unsafe): log entry 55. -/
def doLendingSetup (lender : Bool) (node gib : Nat) (t1 : Bool) (fns : List Nat) (s : State) : State :=
  if lender then
    let keys := fns.foldl (fun l f => NSet.add (node * 64 + f) l) s.pg.lentKeys
    if 1024 < keys.length then s
    else { s with pg := { s.pg with lendings := Tab.ins node ⟨node, gib, t1⟩ s.pg.lendings, lentKeys := keys } }
  else
    { s with pg := { s.pg with
        offers := if gib = 0 then Tab.del node s.pg.offers else Tab.ins node ⟨node, gib, t1⟩ s.pg.offers
        t3keys := fns.foldl (fun l f => NSet.add f l) s.pg.t3keys } }

/-- LENDING_SETUP (R103, R301). -/
def execLendingSetup (lender : Bool) (node gib : Nat) (t1 : Bool) (fns : List Nat) (s : State) : Host.Outcome State Fault Refusal :=
  act s (doLendingSetup lender node gib t1 fns s)

/-- The pages that a recall of a node names: those lent to it and not recalled before, at most RECALL_TRANCHE. -/
def recallDue (s : State) (node : Nat) (handles : List Nat) : List Nat :=
  (handles.filter (fun h => match Tab.find? h s.pg.lent with | some l => l.page.node == node && !l.recalled | none => false)).take
    (s.fld R.PAGE_RECALL.RECALL_TRANCHE)

/-- RECALL: a notice that names at most RECALL_TRANCHE pages lent to a node. -/
def doRecall (node : Nat) (handles : List Nat) (s : State) : State :=
  let hs := recallDue s node handles
  if hs.isEmpty then s
  else
    let s := { s with pg := { s.pg with lent := s.pg.lent.map (fun (p : Nat × LentPage) => (p.1, if hs.contains p.1 then { p.2 with recalled := true } else p.2)) } }
    s.emit (.recallNotice node hs)

/-- RECALL (R103). -/
def execRecall (node : Nat) (handles : List Nat) (s : State) : Host.Outcome State Fault Refusal := act s (doRecall node handles s)

/-- RECALL_ACKNOWLEDGEMENT (R103): the borrower has switched the named pages. A lending of which nothing is left ends with its keys when
`last` says that the loan ends as a whole (R301). -/
def doRecallAck (node : Nat) (handles : List Nat) (last : Bool) (s : State) : State :=
  let s := freeLent s node handles
  if last && !s.pg.lent.any (fun p => p.2.page.node == node) then
    { s with pg := { s.pg with lendings := Tab.del node s.pg.lendings, lentKeys := s.pg.lentKeys.filter (fun k => k / 64 ≠ node) } }
  else s

/-- RECALL_ACKNOWLEDGEMENT (R103). -/
def execRecallAcknowledgement (node : Nat) (handles : List Nat) (last : Bool) (s : State) : Host.Outcome State Fault Refusal :=
  act s (doRecallAck node handles last s)

/-- LENT_PAGE_RELEASE (R92): the borrower frees pages it holds here. -/
def execLentPageRelease (node : Nat) (handles : List Nat) (s : State) : Host.Outcome State Fault Refusal := act s (freeLent s node handles)

/-- BORROWER_FLR_NOTICE (R301): the lent key of a borrower's function is erased. -/
def execBorrowerFlrNotice (node fn : Nat) (s : State) : Host.Outcome State Fault Refusal :=
  act s { s with pg := { s.pg with lentKeys := NSet.del (node * 64 + fn) s.pg.lentKeys } }

end Sys2Proof.Machine
end

