-- ==== Sys2Proof/Machine/PortOps.lean ====
section
/-! DEFINITION. Links: control flits (R225), link words (R226), replay (R227), training, lanes, ports going down and the parent of fabric
time (R221, R228 to R232, R234, R240). -/

namespace Sys2Proof.Machine

open Sys2Proof

/-! Control flits and link words. -/

/-- A control flit received: its body, if its CRC, TYPE and reserved bytes are in order (R225). `reserved` says whether the body's reserved
bytes are zero. -/
def controlOk (flit : List Byte) (ty : Nat) (reserved : List Byte → Bool) : Bool :=
  flit.length == 256 && fieldAt flit 0 1 == ty && leBytes 4 (crc32 (flit.take 252)) == (flit.drop 252).reverse && reserved flit

/-- A control flit discarded and counted. -/
def controlBad (s : State) (p : Nat) : State := s.incFld R.PORT_ERR_CNT.CTRL_BAD 1 p

/-- A control flit sent. -/
def emitControl (s : State) (p ty : Nat) (body : List Byte) : State := sendFlit s p true 0 false (controlFlit ty body)

/-- The lanes of a port in service. -/
def lanesOf (s : State) (p : Nat) : Nat := s.fld R.PORT_STAT.IN_SERVICE p

/-- RX_CELLS of a VC. -/
def rxCfg (s : State) (p v : Nat) : Nat :=
  s.fld { R.PORT_VC_CFG.RX_CELLS_0 with lo := 8 * v } p

/-- HELLO (Table 12-3). -/
def sendHello (s : State) (p : Nat) : State :=
  emitControl s p 0x03 (leBytes 2 s.node ++ leBytes 1 p ++ leBytes 1 (lanesOf s p + 16 * s.fld R.PORT_CTL.VARIANT p) ++ leBytes 3 0 ++
    (List.range 8).flatMap (fun v => leBytes 2 (rxCfg s p v * 16)))

/-- NAK asked for in the next link word (R227). -/
def sendNak (s : State) (p : Nat) : State := sendIdles (s.updPort p (fun x => { x with nakDue := true })) p

/-! Receive buffers (R224, R228). -/

/-- The flits a receive buffer holds. -/
def rxItems (s : State) (p v : Nat) : List QItem := match s.queue? (rxQueue p v) with | some x => x.waiting | none => []

/-- Stream bytes of a VC not yet taken. -/
def rxStream (s : State) (p v : Nat) : List Byte :=
  ((rxItems s p v).flatMap (fun i => i.bytes)).drop (Tab.get 0 v (s.port p).skip)

/-- Bytes taken from the stream of a VC: flits wholly taken leave their cells, each a credit to return; `k` bounds them.
DESIGN CHOICE (safe): log entry 77. -/
def rxTake (p v : Nat) : Nat → Nat → State → State
  | 0, _, s => s
  | k + 1, n, s =>
    match s.queue? (rxQueue p v), (rxItems s p v).head? with
    | some x, some i =>
      let m := Tab.get 0 v (s.port p).skip + n
      if i.bytes.length ≤ m then
        let s := s.setQueue (rxQueue p v) (x.take s.now)
        let s := s.updPort p (fun y => { y with skip := Tab.put 0 v 0 y.skip, freed := y.freed.set v ((y.freed.getD v 0 + 1) % 2 ^ 16) })
        rxTake p v k (m - i.bytes.length) s
      else s.updPort p (fun y => { y with skip := Tab.put 0 v m y.skip })
    | _, _ => s

/-- What has left a VC's buffer of a packet still coming in. -/
def comingOf (s : State) (p v : Nat) : List Byte := Tab.get [] v (s.port p).coming

/-- n bytes of a VC's stream leave its buffer. -/
def rxPass (s : State) (p v n : Nat) : State := rxTake p v ((rxItems s p v).length + 1) n s

/-- Packets of a VC go on, in order; `k` bounds them. A packet is cut through: once its header has come, and its way has room for the whole of
it, what has arrived leaves the buffer. It is handed on with its last byte. A LENGTH that cannot delimit a packet loses the framing: what the
buffer holds is discarded and counted (R244).
DESIGN CHOICE (safe): log entry 59. DESIGN CHOICE (safe): log entry 77. -/
def rxDrain (p v : Nat) : Nat → State → State
  | 0, s => s
  | k + 1, s =>
    let a := comingOf s p v
    let b := a ++ rxStream s p v
    let n := fieldAt b 2 2
    if b.length < 32 then rxTake p v 1 0 s
    else if n < 32 ∨ 4128 < n then
      rxPass ((s.updPort p (fun x => { x with coming := Tab.put [] v [] x.coming })).incFld R.EP_BAD_CNT.COUNT) p v b.length
    else
      match transit s p v (pktOf (padTo n b)) with
      | none => s
      | some t =>
        if b.length < n then
          rxPass (s.updPort p (fun x => { x with coming := Tab.put [] v b x.coming })) p v (b.length - a.length)
        else rxDrain p v k (rxPass (t.updPort p (fun x => { x with coming := Tab.put [] v [] x.coming })) p v (n - a.length))

/-- Every receive buffer drained as far as it can be, waiting packets tried again, and flits sent on every port. -/
def pumpFabric (s : State) : State :=
  let s := retryInject s
  let s := (List.range 16).foldl (fun s p =>
    if portUp s p then (List.range 8).foldl (fun s v => if (rxItems s p v).isEmpty then s else rxDrain p v 4096 s) s else s) s
  (List.range 16).foldl (fun s p => if portUp s p then sendIdles (pumpPort s p) p else s) s

/-! Fabric time's parent (R240). -/

/-- The in-service port whose peer reports LOCKED with the lowest HOPS, the lower port on a tie. -/
def bestParent (s : State) : Option Nat :=
  ((List.range 16).filter (fun p => (portUp s p || portHalted s p) && (s.port p).peerLocked)).foldl (fun b p =>
    match b with
    | none => some p
    | some q => if (s.port p).peerHops < (s.port q).peerHops then some p else some q) none

/-- The parent chosen anew: a change clears LOCKED, and the lack of one is holdover. The root has none: it is locked, at no hops from itself
(R239, R240). -/
def chooseParent (s : State) : State :=
  if s.flag R.TIME_CTL.ROOT then
    (((({ s with fab := { s.fab with parent := none, good := 0, bad := 0, holdover := none } }.setFld R.TIME_STAT.LOCKED 1).setFld
      R.TIME_STAT.HOLDOVER 0).setFld R.TIME_STAT.IN_SPEC 1).setFld R.TIME_STAT.HOPS 0)
  else
    match bestParent s with
    | some p =>
      let s := if s.fab.parent = some p then s
               else { s with fab := { s.fab with parent := some p, good := 0, bad := 0, holdover := none } }.setFld R.TIME_STAT.LOCKED 0
      ((s.setFld R.TIME_STAT.PARENT p).setFld R.TIME_STAT.HOLDOVER 0).setFld R.TIME_STAT.HOPS (min 63 ((s.port p).peerHops + 1))
    | none =>
      ({ s with fab := { s.fab with parent := none, good := 0, bad := 0, holdover := some (s.fab.holdover.getD s.now) } }.setFld
        R.TIME_STAT.LOCKED 0).setFld R.TIME_STAT.HOLDOVER 1

/-! Ports going down (R232). -/

/-- An entry about a port in the module log.
DEDUCED (unsafe): log entry 79. -/
def logPort (s : State) (code p : Nat) : State :=
  let e := entry0 s code .ok 0
  logModule s { e with flags := setBits e.flags 1 1 (bit (code == 0x03)), unitKind := 6, unit_ := p }

/-- A packet that left a port's queues finds another way, from its first byte (R232). One that must wait waits at injection. -/
def reroute (s : State) (p : Pkt) : State :=
  match route s p none with
  | .here => s.emit (.packet p)
  | .noRoute => lose s p
  | .out q v _ det =>
    match enqueue s q v (if det then { p with detoured := true, detours := p.detours + 1 } else p) with
    | some s => s
    | none => { s with fab := { s.fab with inject := s.fab.inject ++ [⟨none, p, false⟩] } }

/-- The packets a port's output queues hold from their marks on, VC by VC. -/
def heldPackets (s : State) (p : Nat) : List Pkt :=
  (rangeFrom (outQueue p 0 0) 64).flatMap (fun q => match Tab.find? q s.qm.queues with | some x => x.items.map (fun i => pktOf i.bytes) | none => [])

/-- The packets of a stream: the whole ones, and one whose last byte had not arrived, completed with zeros and marked truncated (R232); `k` bounds
them.
DEDUCED (unsafe): log entry 79. -/
def packetsOf : Nat → List Byte → List Pkt
  | 0, _ => []
  | k + 1, b =>
    let n := fieldAt b 2 2
    if b.length < 32 ∨ n < 32 ∨ 4128 < n then []
    else if b.length < n then [{ pktOf (padTo n b) with trunc := true }]
    else pktOf (b.take n) :: packetsOf k (b.drop n)

/-- The packets that a port has received and not handed on, with their VCs. -/
def received (s : State) (p : Nat) : List (Nat × Pkt) :=
  (List.range 8).flatMap (fun v => let b := comingOf s p v ++ rxStream s p v; (packetsOf b.length b).map (fun q => (v, q)))

/-- A port's link gone: its buffers and held flits are empty, its lanes' records stay. -/
def clearPort (s : State) (p : Nat) : State :=
  let x := s.port p
  let mine (q : Nat) : Bool := (decide (outQueue p 0 0 ≤ q) && decide (q < outQueue p 0 0 + 64)) || (decide (rxQueue p 0 ≤ q) && decide (q < rxQueue p 0 + 8))
  let s := s.setPort p { port0 with fails := x.fails, retrains := x.retrains, since := s.now }
  { s with qm := { s.qm with queues := s.qm.queues.map (fun q => if mine q.1 then (q.1, q.2.emptied s.now) else q), rx := s.qm.rx.filter (fun r => r.1 / 8 ≠ p) } }

/-- A port goes down in a state (0 down, 4 retired): what it had received goes on, and its packets are routed again over other ports.
DEDUCED (unsafe): log entry 79. -/
def downPort (s : State) (p st : Nat) : State :=
  let held := heldPackets s p
  let came := received s p
  let s := clearPort s p
  let s := ((s.setFld R.PORT_STAT.STATE st p).setFld R.PORT_STAT.WIDTH 3 p).incFld R.PORT_RETRAIN_CNT.DOWNS 1 p
  let s := logPort s (if st = 4 then 0x03 else 0x05) p
  let s := if s.fab.parent = some p then chooseParent s else s
  let pass (s : State) (q : Nat × Pkt) : State := match transit s p q.1 q.2 with
    | some s => s
    | none => { s with fab := { s.fab with inject := s.fab.inject ++ [⟨none, q.2, false⟩] } }
  pumpFabric (held.foldl reroute (came.foldl pass s))

/-! Training and lanes (R221, R230, R231, R234). -/

/-- The width of lanes in service at both ends, held to MAX_WIDTH: 0 ×1, 1 ×2, 2 ×4 (R231). -/
def widthOf (lanes most : Nat) : Option Nat :=
  if lanes % 16 = 15 ∧ 2 ≤ most then some 2
  else if (lanes % 4 = 3 ∨ lanes / 4 % 4 = 3) ∧ 1 ≤ most then some 1
  else if lanes % 16 ≠ 0 then some 0
  else none

/-- The peer's node and port that a port of the torus expects (Table 12-10). -/
def expectedPeer (s : State) (p : Nat) : Nat × Nat :=
  let (d, plus) := portDir p
  let z := dimSize s d
  let c := (coord s.node d + (if plus then 1 else z - 1)) % z
  let node := s.node - coord s.node d * 32 ^ d + c * 32 ^ d
  let peer := match p with
    | 6 => 7 | 7 => 6 | 14 => 15 | 15 => 14
    | _ => if plus then p + 3 else p - 3
  (node, peer)

/-- Is a port's peer another than the one it must have (R234)? -/
def miswired (s : State) (p : Nat) : Bool :=
  s.fld R.ROUTE_CTL.TOPOLOGY == 1 &&
    (dimSize s (portDir p).1 == 1 || (s.fld R.PORT_STAT.PEER_NODE p, s.fld R.PORT_STAT.PEER_PORT p) != expectedPeer s p)

/-- A training attempt: HELLO is sent until it is answered. -/
def startTraining (s : State) (p : Nat) : State :=
  sendHello ((s.updPort p (fun x => { x with hello := none })).setFld R.PORT_STAT.STATE 1 p) p

/-- Training has failed: the port is down again. -/
def trainFails (s : State) (p : Nat) (miswire : Bool) : State :=
  let s := (s.setFld R.PORT_STAT.STATE 0 p).incFld R.PORT_RETRAIN_CNT.DOWNS 1 p
  let s := s.updPort p (fun x => { x with hello := none, since := s.now })
  if miswire then s.setFld R.PORT_ERR.MISWIRE 1 p else s.setFld R.PORT_ERR.TRAIN_FAIL 1 p

/-- A port comes up at a width: receive buffers are taken from the pool, credits are those of the peer's HELLO, numbers restart (R227,
R228).
DEDUCED (unsafe): log entry 32. -/
def bringUp (s : State) (p w : Nat) (credits : List Nat) : State :=
  let x := s.port p
  let s := s.setPort p { port0 with credits := credits, hello := x.hello, fails := [], retrains := x.retrains, lastFlit := s.now }
  let s := (List.range 8).foldl (fun s v =>
    let n := rxCfg s p v * 16
    let qs := Tab.upd (rxQueue p v) (fun x => { x with reserve := n, limit := n }) s.qm.queues
    { s with qm := { s.qm with rx := Tab.ins (p * 8 + v) n s.qm.rx, queues := qs } }) s
  pumpFabric ((s.setFld R.PORT_STAT.STATE 2 p).setFld R.PORT_STAT.WIDTH w p)

/-- A replay (R227): REPLAY with the number of the first flit resent, then the unacknowledged flits in order. -/
def replay (s : State) (p : Nat) : State :=
  let x := s.port p
  let first := (x.txSeq + 4096 - x.unacked.length % 4096) % 4096
  let s := (emitControl s p 0x01 (leBytes 2 first)).incFld R.PORT_RETRY_CNT.REPLAYS 1 p
  x.unacked.foldl (fun s f => emitFlit s p f) s

/-- A halted or reformed port resumes with a replay once no lane of it retrains and it is not reforming (R230, R231). -/
def resumePort (s : State) (p : Nat) : State :=
  if !(s.port p).halted.isEmpty || (s.port p).reform then s
  else pumpFabric (replay ((s.updPort p (fun x => { x with lastFlit := s.now })).setFld R.PORT_STAT.STATE 2 p) p)

/-- Reform begins: HELLO tells the lanes in service. -/
def startReform (s : State) (p : Nat) : State :=
  sendHello ((s.updPort p (fun x => { x with reform := true, hello := none })).setFld R.PORT_STAT.STATE 3 p) p

/-- A lane retired (R231, R309): recorded, logged, and the port reforms, or, without a usable lane, is retired. -/
def retireLane (s : State) (p l : Nat) : State :=
  let s := { s with flt := { s.flt with retLanes := NSet.add (p * 4 + l) s.flt.retLanes } }
  let s := s.setFld R.PORT_STAT.RETIRED (setBits (s.fld R.PORT_STAT.RETIRED p) l l 1) p
  let s := s.setFld R.PORT_STAT.IN_SERVICE (setBits (lanesOf s p) l l 0) p
  let s := syncRetired (s.setFld R.PORT_ERR.LANE_RETIRED 1 p)
  let e := entry0 s 0x02 .ok 0
  let s := logModule s { e with flags := setBits e.flags 1 1 1, unitKind := 5, unit_ := p * 4 + l }
  if lanesOf s p = 0 then downPort s p 4
  else startReform (s.updPort p (fun x => { x with halted := x.halted.filter (· != l), fails := Tab.del l x.fails })) p

end Sys2Proof.Machine
end

