-- ==== Sys2Proof/Machine/Ports.lean ====
section
/-! DEFINITION. The commands of the ports and of fabric time (R221 to R241). -/

namespace Sys2Proof.Machine

open Sys2Proof

/-! Data flits (R222, R224, R227). -/

/-- A data flit accepted in order takes a cell of its VC's receive buffer, and packets that are whole go on. -/
def acceptFlit (s : State) (p v : Nat) (fill : Bool) (b : List Byte) : State :=
  let n := if fill then min 254 (fieldAt b 254 2) else 256
  let q := rxQueue p v
  let s := s.updPort p (fun x => { x with rxSeq := (x.rxSeq + 1) % 4096, rxAny := true, lastFlit := s.now })
  match s.queue? q with
  | none => s
  | some x =>
    let st := x.tail
    let x := { x.growTo s.now (st + 256) with items := x.items ++ [⟨(padTo 256 b).take n, false, 0, 1, st, 256, false⟩] }
    pumpFabric (rxDrain p v 4096 (s.setQueue q x))

/-- The FEC codewords that carry part of a flit (R222): the symbol errors of each, and whether it is reported with this flit (a codeword that
several flits share is reported with one of them). A codeword of more than 13 is not accepted. -/
abbrev Codewords := List (Nat × Bool)

/-- Is every codeword that carries part of a flit accepted? -/
def fecOk (cw : Codewords) : Bool := cw.all (fun c => decide (c.1 ≤ 13))

/-- Codewords counted, and each uncorrectable one logged (fault 0x04). -/
def fecCount (s : State) (p : Nat) (cw : Codewords) : State :=
  (cw.filter (·.2)).foldl (fun s c =>
    if c.1 = 0 then s
    else if c.1 ≤ 13 then s.incFld R.PORT_FEC_CNT.CORRECTED 1 p
    else logModule (s.incFld R.PORT_FEC_CNT.UNCORRECTABLE 1 p) { entry0 s 0x04 .ok 0 with unitKind := 6, unit_ := p }) s

/-- A data flit arrives with its codewords.
DESIGN CHOICE (safe): log entry 59. -/
def doDataFlit (p v : Nat) (fill : Bool) (cw : Codewords) (b : List Byte) (t : Nat) (s : State) : State :=
  let s := atTime s t
  if !portUp s p || 8 ≤ v then s
  else
  let s := fecCount s p cw
  let x := s.port p
  if !fecOk cw then (if x.nak then s else sendNak (s.updPort p (fun x => { x with nak := true })) p)
  else if x.nak then s
  else if 0 < x.drop then s.updPort p (fun x => { x with drop := x.drop - 1, lastFlit := s.now })
  else acceptFlit s p v fill b

/-- DATA_FLIT (R222, R227). -/
def execDataFlit (port vc : Nat) (fill : Bool) (codewords : List (Nat × Bool)) (flit : List (BitVec 8)) (time : Nat) (s : State) :
    Host.Outcome State Fault Refusal :=
  act s (doDataFlit port vc fill codewords flit time s)

/-! Control flits (R225). -/

/-- A control flit of a TYPE arrives with its codewords: one whose codewords are not all accepted is rejected, and is not sent again (R222, R225). -/
def onControl (p ty : Nat) (cw : Codewords) (flit : List Byte) (t : Nat) (reserved : List Byte → Bool) (act : State → State) (s : State) : State :=
  let s := fecCount (atTime s t) p cw
  if !fecOk cw || (fieldAt flit 0 1 != ty && decide (fieldAt flit 0 1 < 4)) then s
  else if controlOk flit ty reserved then act (s.updPort p (fun x => { x with lastFlit := s.now })) else controlBad s p

/-- IDLE (R225). -/
def execIdle (port : Nat) (codewords : List (Nat × Bool)) (flit : List (BitVec 8)) (time : Nat) (s : State) : Host.Outcome State Fault Refusal :=
  act s (onControl port 0x00 codewords flit time (fun b => zeroAt b 1 251) id s)

/-- REPLAY (Table 12-5): the numbers it starts with are below the expected one, or equal to it, and then acceptance resumes there; or above it,
and then it is discarded. -/
def takeReplay (p first : Nat) (s : State) : State :=
  let x := s.port p
  let d := (x.rxSeq + 4096 - first) % 4096
  if d < 2048 then s.setPort p { x with nak := false, drop := d } else s

/-- REPLAY (R227). -/
def execReplay (port : Nat) (codewords : List (Nat × Bool)) (flit : List (BitVec 8)) (time : Nat) (s : State) : Host.Outcome State Fault Refusal :=
  act s (onControl port 0x01 codewords flit time (fun b => decide (fieldAt b 1 2 < 4096) && zeroAt b 3 249)
    (fun s => if portUp s port then takeReplay port (fieldAt flit 1 2) s else s) s)

/-- REPLAY_WAIT_EXPIRY (R227): the NAK is repeated while no REPLAY has come. -/
def execReplayWaitExpiry (port : Nat) (s : State) : Host.Outcome State Fault Refusal :=
  act s (if (s.port port).nak && portUp s port then sendNak s port else s)

/-- HELLO (R225, R228): the peer's identity, lanes, variant and credits, during training or reform. The first is answered. Outside them, a HELLO
that names other lanes in service than the last one says that the peer reforms: the port reforms too (R231). -/
def takeHello (p : Nat) (b : List Byte) (s : State) : State :=
  let training := s.fld R.PORT_STAT.STATE p == 1 || (portHalted s p && (s.port p).reform)
  let changed := (portUp s p || portHalted s p) && (s.port p).hello.any (fun h => h.1 != fieldAt b 4 1 % 16)
  if !training && !changed then s
  else
    let s := if training then s else (s.updPort p (fun x => { x with reform := true, hello := none })).setFld R.PORT_STAT.STATE 3 p
    let x := s.port p
    let s := (s.setFld R.PORT_STAT.PEER_NODE (fieldAt b 1 2) p).setFld R.PORT_STAT.PEER_PORT (fieldAt b 3 1) p
    let s := s.updPort p (fun x => { x with hello := some (fieldAt b 4 1 % 16, fieldAt b 4 1 / 16, (List.range 8).map (fun v => fieldAt b (8 + 2 * v) 2)) })
    if x.hello.isNone then sendHello s p else s

/-- HELLO (R225). -/
def execHello (port : Nat) (codewords : List (Nat × Bool)) (flit : List (BitVec 8)) (time : Nat) (s : State) : Host.Outcome State Fault Refusal :=
  act s (onControl port 0x03 codewords flit time (fun b => decide (fieldAt b 1 2 < 32768) && decide (fieldAt b 3 1 < 16) && decide (fieldAt b 4 1 < 64) &&
    zeroAt b 5 3 && zeroAt b 24 228) (takeHello port flit) s)

/-- HELLO_REPEAT (R225): every 1 µs of training and reform while unanswered. -/
def execHelloRepeat (port : Nat) (s : State) : Host.Outcome State Fault Refusal :=
  act s (if ((s.fld R.PORT_STAT.STATE port == 1) || (portHalted s port && (s.port port).reform)) && (s.port port).hello.isNone then sendHello s port
        else s)

/-! Link words (R226 to R228). -/

/-- The queues' marks move past packets that ended in flits no longer held: (queue, mark) pairs. -/
def releaseMarks (s : State) (l : List (Nat × Nat)) : State :=
  l.foldl (fun s e =>
    match s.queue? e.1 with
    | some q => s.setQueue e.1 (q.release s.now e.2)
    | none => s) s

/-- An acknowledgement: flits up to the one named are no longer held, and the queues' marks move past the packets that ended in them.
DESIGN CHOICE (safe): log entry 77. -/
def takeAck (p seq : Nat) (s : State) : State :=
  let x := s.port p
  let oldest := (x.txSeq + 4096 - x.unacked.length % 4096) % 4096
  let n := (seq + 1 + 4096 - oldest) % 4096
  if n = 0 ∨ x.unacked.length < n then s.incFld R.PORT_RETRY_CNT.BAD_ACK 1 p
  else releaseMarks (s.setPort p { x with unacked := x.unacked.drop n }) ((x.unacked.take n).flatMap (·.ends))

/-- Credits of a VC taken up from a cumulative count. -/
def takeCredits (p v n : Nat) (s : State) : State :=
  s.updPort p (fun x =>
    let d := (n + 2 ^ 16 - x.lastCred.getD v 0) % 2 ^ 16
    { x with credits := x.credits.set v (x.credit v + d), lastCred := x.lastCred.set v n })

/-- The link word that the SB bits of 32 flits form (R226): bit 3j + b is SB[b] of flit j. -/
def wordOfSb (sb : List Nat) : Nat := ((sb.take 32).zipIdx.map (fun b => b.1 % 8 * 8 ^ b.2)).foldl (· + ·) 0

/-- A link word: acknowledgement, NAK and credits; one that is bad is discarded and counted.
DESIGN CHOICE (safe): log entry 77. -/
def doLinkWord (p w : Nat) (rejected : Bool) (s : State) : State :=
  if !portUp s p then s
  else
    let k := (s.port p).words
    let s := s.updPort p (fun x => { x with words := (x.words + 1) % 4 })
    if rejected || crc8 (w % 2 ^ 88) != w / 2 ^ 88 then s.incFld R.PORT_ERR_CNT.WORD_BAD 1 p
    else
      let s := if bitAt w 12 then takeAck p (w % 4096) s else s
      let s := takeCredits p (2 * k % 8) (bits w 31 16) s
      let s := takeCredits p ((2 * k + 1) % 8) (bits w 47 32) s
      pumpFabric (if bitAt w 13 then replay s p else s)

/-- LINK_WORD (R226): the SB bits of its 32 flits; `rejected` says that it overlaps a flit rejected under R222. -/
def execLinkWord (port : Nat) (sb : List Nat) (rejected : Bool) (s : State) : Host.Outcome State Fault Refusal :=
  act s (doLinkWord port (wordOfSb sb) rejected s)

/-! Lanes, training, ports (R221, R230 to R232). -/

/-- A lane has been found in error: with more symbol errors in a 10 µs interval than BURST_SYM, or alone without signal, it has a burst (R230). A
burst halts the port for a retrain, or, the lane having been retrained three times within 10 ms, retires the lane. -/
def doLaneBurst (p l symbols : Nat) (lost : Bool) (t : Nat) (s : State) : State :=
  let s := atTime s t
  let live := portUp s p || portHalted s p
  if !live || !bitAt (lanesOf s p) l || 4 ≤ l || (!lost && decide (symbols ≤ s.fld R.PORT_LANE_CFG.BURST_SYM p)) then s
  else
    let s := logModule s { entry0 s 0x01 .ok 0 with unitKind := 5, unit_ := p * 4 + l }
    let recent := (Tab.get [] l (s.port p).retrains).filter (fun u => decide (s.now ≤ u + 10000000))
    if 3 ≤ recent.length then retireLane s p l
    else (s.updPort p (fun x => { x with halted := NSet.add l x.halted })).setFld R.PORT_STAT.STATE 3 p

/-- LANE_BURST (R230): the symbol errors attributed to a lane in the last 10 µs interval, or that it alone loses signal. -/
def execLaneBurst (port lane symbols : Nat) (lost : Bool) (time : Nat) (s : State) : Host.Outcome State Fault Refusal :=
  act s (doLaneBurst port lane symbols lost time s)

/-- A lane's retrain converges: the port resumes at its former width, or waits for what else holds it. -/
def doRetrainDone (p l t : Nat) (s : State) : State :=
  let s := atTime s t
  if !portHalted s p || !(s.port p).halted.contains l then s
  else
    let s := s.updPort p (fun x => { x with halted := x.halted.filter (· != l), fails := Tab.del l x.fails
                                            retrains := Tab.ins l (s.now :: (Tab.get [] l x.retrains).take 7) x.retrains })
    resumePort (s.incFld R.PORT_RETRAIN_CNT.RETRAINS 1 p) p

/-- RETRAIN_DONE (R230). -/
def execRetrainDone (port lane time : Nat) (s : State) : Host.Outcome State Fault Refusal := act s (doRetrainDone port lane time s)

/-- A lane's retrain fails to converge within 1 ms: after three in a row the lane is retired. -/
def doRetrainTimeout (p l t : Nat) (s : State) : State :=
  let s := atTime s t
  let n := Tab.get 0 l (s.port p).fails + 1
  if !portHalted s p || !(s.port p).halted.contains l then s
  else if 3 ≤ n then retireLane s p l
  else s.updPort p (fun x => { x with fails := Tab.ins l n x.fails })

/-- RETRAIN_TIMEOUT (R231). -/
def execRetrainTimeout (port lane time : Nat) (s : State) : Host.Outcome State Fault Refusal := act s (doRetrainTimeout port lane time s)

/-- The port has reformed at the widest width usable at both ends. -/
def doReformDone (p t : Nat) (s : State) : State :=
  let s := atTime s t
  let x := s.port p
  match x.hello with
  | none => s
  | some (lanes, _, _) =>
    if !portHalted s p || !x.reform then s
    else
      match widthOf (Nat.land lanes (lanesOf s p)) (s.fld R.PORT_CTL.MAX_WIDTH p) with
      | some w => resumePort ((s.updPort p (fun x => { x with reform := false })).setFld R.PORT_STAT.WIDTH w p) p
      | none => downPort s p 4

/-- REFORM_DONE (R231). -/
def execReformDone (port time : Nat) (s : State) : Host.Outcome State Fault Refusal := act s (doReformDone port time s)

/-- Is a port one that can go down: training, up or halted? -/
def portLive (s : State) (p : Nat) : Bool := decide (1 ≤ s.fld R.PORT_STAT.STATE p) && decide (s.fld R.PORT_STAT.STATE p ≤ 3)

/-- LOSS_OF_SIGNAL (R232). -/
def execLossOfSignal (port time : Nat) (s : State) : Host.Outcome State Fault Refusal :=
  act s (if portLive s port then downPort (atTime s time) port 0 else atTime s time)

/-- No flit accepted for 10 µs on a port that is up. -/
def doNoFlitTimeout (p t : Nat) (s : State) : State :=
  let s := atTime s t
  if portUp s p && decide ((s.port p).lastFlit + 10000 ≤ s.now) then downPort s p 0 else s

/-- NO_FLIT_TIMEOUT (R232). -/
def execNoFlitTimeout (port time : Nat) (s : State) : Host.Outcome State Fault Refusal := act s (doNoFlitTimeout port time s)

/-- TRAINING_ATTEMPT (R232): an enabled port that is down attempts training. -/
def execTrainingAttempt (port time : Nat) (s : State) : Host.Outcome State Fault Refusal :=
  act s (let s := atTime s time
        if s.flag R.PORT_CTL.ENABLE port && s.fld R.PORT_STAT.STATE port == 0 then startTraining s port else s)

/-- Training ends: the port is up at the widest usable width, or it stays down with TRAIN_FAIL or MISWIRE set. -/
def doTrainingDone (p : Nat) (converged : Bool) (t : Nat) (s : State) : State :=
  let s := atTime s t
  if s.fld R.PORT_STAT.STATE p ≠ 1 then s
  else
    match (s.port p).hello with
    | none => trainFails s p false
    | some (lanes, variant, credits) =>
      if !converged || variant != s.fld R.PORT_CTL.VARIANT p then trainFails s p false
      else if miswired s p then trainFails s p true
      else
        match widthOf (Nat.land lanes (lanesOf s p)) (s.fld R.PORT_CTL.MAX_WIDTH p) with
        | some w => bringUp s p w credits
        | none => trainFails s p false

/-- TRAINING_DONE (R221). -/
def execTrainingDone (port : Nat) (converged : Bool) (time : Nat) (s : State) : Host.Outcome State Fault Refusal :=
  act s (doTrainingDone port converged time s)

/-- PORT_RESET (R343): the port goes down and trains. -/
def execPortReset (port time : Nat) (s : State) : Host.Outcome State Fault Refusal :=
  act s (let s := atTime s time
        let s := if portLive s port then downPort s port 0 else s
        if s.flag R.PORT_CTL.ENABLE port && s.fld R.PORT_STAT.STATE port == 0 then startTraining s port else s)

/-! Fabric time (R239, R240). Times of SYNC are in 2^-8 ns. -/

/-- Fabric time in 2^-8 ns. -/
def State.time256 (s : State) : Nat := s.now * 256 + s.fab.frac / 2 ^ 24

/-- SYNC_PERIOD (R225): a SYNC flit is sent. Unlocked, it says LOCKED 0 and HOPS 63; the root says LOCKED 1 and HOPS 0. -/
def doSyncPeriod (p t : Nat) (s : State) : State :=
  let s := atTime s t
  let x := s.port p
  if !portUp s p then s
  else
    let root := s.flag R.TIME_CTL.ROOT
    let locked := root || s.flag R.TIME_STAT.LOCKED
    let hops := if root then 0 else if locked then s.fld R.TIME_STAT.HOPS else 63
    sendIdles (emitControl s p 0x02 (leBytes 7 0 ++ leBytes 8 s.time256 ++ leBytes 8 x.syncTx ++ leBytes 8 x.syncRx ++ leBytes 1 hops ++
      leBytes 1 (bit locked))) p

/-- SYNC_PERIOD (R225). -/
def execSyncPeriod (port time : Nat) (s : State) : Host.Outcome State Fault Refusal := act s (doSyncPeriod port time s)

/-- A signed 16-bit value. -/
def signed16 (n : Nat) : Int := if n < 2 ^ 15 then n else (n : Int) - 2 ^ 16

/-- The offset of the parent's time against this module's, in 1/256,000 ns (R240). -/
def syncOffset (t1 t2 t3 t4 : Nat) (asym : Int) : Int :=
  500 * ((((t2 : Int) - t1) - ((t4 : Int) - t3))) - 256 * asym

/-- The servo on an offset (R240): a step forward above 1 µs, else a rate within its limits; what the rate becomes within them is free.
LOCKED follows 8 offsets in a row within 1 ns, and ends with two beyond 10 ns.
DESIGN CHOICE (safe): log entry 78. -/
def servo (o : Int) (s : State) : State :=
  let ps := o / 256
  let s := s.setFld R.TIME_STAT.LAST_OFFSET (ps % 2 ^ 32).toNat
  let good := if o.natAbs ≤ 256000 then s.fab.good + 1 else 0
  let bad := if 2560000 < o.natAbs then s.fab.bad + 1 else 0
  let s := { s with fab := { s.fab with good := good, bad := bad } }
  let s :=
    if 256000000 < o then s.setFld R.TIME_NOW.NS (s.now + (o / 256000).toNat)
    else
      let d : Int := (Config.freeNat s.freeCtr % 100001 : Nat) - 50000
      let r := max (-200000) (min 200000 (s.fab.rate + d))
      { s.takeFree with fab := { s.fab with rate := r } }
  let s := if 8 ≤ good then (s.setFld R.TIME_STAT.LOCKED 1).setFld R.TIME_STAT.IN_SPEC (bit (decide (s.fld R.TIME_STAT.HOPS ≤ 48)))
           else s
  if 2 ≤ bad then s.setFld R.TIME_STAT.LOCKED 0 else s

/-- A SYNC taken up: what the peer says, the parent it may change, and, from the parent, an offset, unless it has had no SYNC of this module. -/
def takeSyncFlit (p t4 : Nat) (b : List Byte) (s : State) : State :=
  if !portUp s p then s
  else
    let s := s.updPort p (fun x => { x with syncTx := fieldAt b 8 8, syncRx := t4, peerHops := fieldAt b 32 1, peerLocked := fieldAt b 33 1 == 1 })
    let s := chooseParent s
    if s.fab.parent = some p ∧ !s.flag R.TIME_CTL.ROOT ∧ fieldAt b 16 8 ≠ 0 then
      servo (syncOffset (fieldAt b 16 8) (fieldAt b 24 8) (fieldAt b 8 8) t4 (signed16 (s.fld R.PORT_LANE_CFG.TIME_ASYM p))) s
    else s

/-- SYNC (R240): a flit that arrives at fabric time `arrival`, in 2^-8 ns. -/
def execSync (port : Nat) (codewords : List (Nat × Bool)) (flit : List (BitVec 8)) (arrival : Nat) (s : State) : Host.Outcome State Fault Refusal :=
  act s (onControl port 0x02 codewords flit (arrival / 256) (fun b => zeroAt b 1 7 && decide (fieldAt b 32 1 < 64) && decide (fieldAt b 33 1 < 2) && zeroAt b 34 218)
    (takeSyncFlit port arrival flit) s)

/-- HOLDOVER_EXPIRY (R240): after 1 ms of holdover IN_SPEC falls. -/
def doHoldoverExpiry (t : Nat) (s : State) : State :=
  let s := atTime s t
  match s.fab.holdover with
  | some u => if s.flag R.TIME_STAT.HOLDOVER ∧ u + 1000000 ≤ s.now then s.setFld R.TIME_STAT.IN_SPEC 0 else s
  | none => s

/-- HOLDOVER_EXPIRY (R240). -/
def execHoldoverExpiry (time : Nat) (s : State) : Host.Outcome State Fault Refusal := act s (doHoldoverExpiry time s)

end Sys2Proof.Machine
end

