-- ==== Sys2Proof/Machine/Queues.lean ====
section
/-! DEFINITION. The queue and shaper commands (R272 to R284) but for their register writes: producers, the consumer's operations, stale
timeouts, sampling, gates, buckets and the injection window. -/

namespace Sys2Proof.Machine

open Sys2Proof

/-! Send queues (R278). -/

/-- A partial-record send queue opened for a context (Table 14-2), if the pool and the function's ceiling allow.
DESIGN CHOICE (unsafe): log entry 81. -/
def openSend (s : State) (q h : Nat) : Option State :=
  match s.ctx? h with
  | none => none
  | some c =>
    let d := queueDie q
    if queueFixed q || decide (65536 ≤ q) || remainderBars s d 16 ||
       decide (s.fld R.FN_QCELL_CEIL c.fn < fnQCells s c.fn + 16) then none
    else
      let x : Queue := { emptyQueue s.now with fn := c.fn, module_ := false, slots := true, action := 0, reserve := 16, limit := 16,
                                               timeout := s.fld R.QM_BATCH.TIMEOUT }
      some ((s.setQueue q x).updCtx h (fun c => { c with queues := c.queues ++ [q] }))

/-- The bytes of the whole records that fit in one packet of 4,096 payload bytes, how many they are, and whether a further one waits
that does not fit. -/
def batch : List QItem → Nat → List Byte × Nat × Bool
  | [], _ => ([], 0, false)
  | i :: r, used =>
    if 4096 < used + i.bytes.length then ([], 0, true)
    else
      let b := batch r (used + i.bytes.length)
      (i.bytes ++ b.1, b.2.1 + 1, b.2.2)

/-- Does a batch fill its packet: would one more record like its first not fit? -/
def batchFull (items : List QItem) : Bool :=
  let b := batch items 0
  b.2.2 || (match items with | [] => false | i :: _ => decide (4096 < b.1.length + i.bytes.length))

/-- The packetiser sends packets of whole records: full ones, and with `force` whatever whole records are there; `k` bounds them. -/
def packetise (q : Nat) (force : Bool) : Nat → State → State
  | 0, s => s
  | k + 1, s =>
    match s.queue? q with
    | none => s
    | some x =>
      let w := x.waiting
      if w.isEmpty || !(force || batchFull w) then s
      else
        let b := batch w 0
        packetise q force k ((s.setQueue q (takeN s.now b.2.1 x)).emit (.packetised q b.1))
where
  /-- Items taken. -/
  takeN (now : Nat) : Nat → Queue → Queue
    | 0, x => x
    | k + 1, x => takeN now k (x.take now)

/-! Producers and consumers (R272, R274, R275). -/

/-- A producer's bytes appended to a queue: `first` opens an item, `last` completes it. A free allocated number opens as a send queue
of a context. Where the queue has no room the producer waits (R272). `opEnd` says that the op's last record is in (R278), `abandon` that the
producer cannot finish its open item: it flushes the queue (R274, R276). -/
def doQueueAppend (q h : Nat) (bs : List Byte) (psn first last opEnd abandon : Bool) (node contrib t : Nat) (s : State) : State :=
  let s := atTime s t
  if abandon then (if ((s.queue? q).bind (·.openItem)).isSome then pumpFabric (flushQueue s q) else s) else
  let opened : Option State := match s.queue? q with
    | some _ => some s
    | none => openSend s q h
  match opened with
  | none => s
  | some s' =>
    match appendBytes s' q bs psn first last node contrib with
    | none => s
    | some s =>
      let send : Bool := match s.queue? q with | some x => x.action == 0 | none => false
      if send then packetise q (last && opEnd) 20 s else pumpFabric s

/-- QUEUE_APPEND. -/
def execQueueAppend (queue handle : Nat) (bytes : List (BitVec 8)) (poison first last opEnd abandon : Bool) (node contrib time : Nat) (s : State) :
    Host.Outcome State Fault Refusal := act s (doQueueAppend queue handle bytes poison first last opEnd abandon node contrib time s)

/-- A queue changed by its consumer; cells it frees may let others move.
DEDUCED (unsafe): log entry 33. -/
def consume (s : State) (q : Nat) (f : Queue → Queue) : State :=
  match s.queue? q with
  | none => s
  | some x => pumpFabric (s.setQueue q (f x))

/-- TAKE: HEAD moves past one complete item (Table 14-5); an item that is not complete is not taken. -/
def doTake (q t : Nat) (s : State) : State :=
  let s := atTime s t
  consume s q (fun x => x.take s.now)

/-- TAKE. -/
def execTake (queue time : Nat) (s : State) : Host.Outcome State Fault Refusal := act s (doTake queue time s)

/-- MARK: MARK moves to HEAD, and an existing mark is released up to HEAD first. -/
def doMark (q : Nat) (s : State) : State := consume s q Queue.setMark

/-- MARK. -/
def execMark (queue : Nat) (s : State) : Host.Outcome State Fault Refusal := act s (doMark queue s)

/-- REWIND: HEAD moves to MARK; without a mark it is ignored and sets QM_ERR.NO_MARK. -/
def doRewind (q t : Nat) (s : State) : State :=
  let s := atTime s t
  match s.queue? q with
  | none => s
  | some x => if x.marked then pumpFabric (s.setQueue q (x.rewind s.now)) else s.setFld R.QM_ERR.NO_MARK 1

/-- REWIND. -/
def execRewind (queue time : Nat) (s : State) : Host.Outcome State Fault Refusal := act s (doRewind queue time s)

/-- RELEASE up to a byte of the stream between MARK and HEAD. -/
def doRelease (q pos t : Nat) (s : State) : State :=
  let s := atTime s t
  match s.queue? q with
  | none => s
  | some x => if x.marked ∧ x.mark ≤ pos ∧ pos ≤ x.head then pumpFabric (s.setQueue q (x.release s.now pos)) else s

/-- RELEASE. -/
def execRelease (queue position time : Nat) (s : State) : Host.Outcome State Fault Refusal := act s (doRelease queue position time s)

/-- UNMARK: the cells wholly before HEAD are freed. -/
def doUnmark (q : Nat) (s : State) : State := consume s q Queue.unmark

/-- UNMARK. -/
def execUnmark (queue : Nat) (s : State) : Host.Outcome State Fault Refusal := act s (doUnmark queue s)

/-! Stale timeouts (R278). -/

/-- Has a queue been non-empty for TIMEOUT without a restart?
DEDUCED (unsafe): log entry 33. -/
def staleNow (s : State) (x : Queue) : Bool := x.nonEmpty && decide (x.restart + x.timeout * 1000 ≤ s.now)

/-- The stale timer of a queue fires (Table 14-7): FORCE packetises, FLUSH flushes, NOTIFY sets QM_ERR.STALE and logs 0x18. -/
def doStaleTimeout (q t : Nat) (s : State) : State :=
  let s := atTime s t
  match s.queue? q with
  | none => s
  | some x =>
    if !staleNow s x then s
    else
      let s := (s.setQueue q { x with restart := s.now }).incFld R.QM_TIMEOUT_CNT.COUNT
      match x.action with
      | 0 => packetise q true 20 s
      | 1 => flushQueue s q
      | _ =>
        let s := s.setFld R.QM_ERR.STALE 1
        (logModule s { entry0 s 0x18 .ok 0 with object := q }).emit (.staleQueue q)

/-- STALE_TIMEOUT. -/
def execStaleTimeout (queue time : Nat) (s : State) : Host.Outcome State Fault Refusal := act s (doStaleTimeout queue time s)

/-! Sampling (R284). -/

/-- The head delay of a queue, saturating. -/
def headDelay (x : Queue) (now : Nat) : Nat := if x.head < x.tail then min (2 ^ 32 - 1) (now - x.headSince) else 0

/-- One sample added to a queue's statistics; the flag of a flush since the last sample clears. -/
def Queue.sample (x : Queue) (now : Nat) : Queue :=
  let d := x.depth
  let h := headDelay x now
  if !x.statEn then x
  else
    { x with depthMin := if x.samples = 0 then d else min x.depthMin d, depthMax := max x.depthMax d, depthSum := x.depthSum + d,
             delayMin := if x.samples = 0 then h else min x.delayMin h, delayMax := max x.delayMax h, delaySum := x.delaySum + h,
             samples := x.samples + 1, flushed := false }

/-- A queue's statistics restarted. -/
def Queue.restartStats (x : Queue) : Queue :=
  { x with depthMin := 0, depthMax := 0, depthSum := 0, delayMin := 0, delayMax := 0, delaySum := 0, samples := 0 }

/-- The telemetry record of a queue (Table 14-8). -/
def telemetryRec (q : Nat) (x : Queue) (now : Nat) : List Byte :=
  leBytes 2 q ++ leBytes 3 (x.depth % 2 ^ 17) ++ leBytes 1 (bit x.marked + 2 * bit x.flushed) ++ leBytes 2 0 ++ leBytes 4 (headDelay x now) ++
    leBytes 4 (now / 1024)

/-- One record written to the telemetry ring, or dropped where the ring is full or does not lie in a fixed region of PF0.
DEDUCED (unsafe): log entry 82. -/
def putTelemetry (s : State) (q : Nat) (x : Queue) : State :=
  let n := 2 ^ s.fld R.QTEL_BASE.LOG2
  let tail := s.fld R.QTEL_TAIL.TAIL
  let a := s.fld R.QTEL_BASE.ADDR * 4096 + tail % n * 16
  let held := (tail + 2 ^ 32 - s.fld R.QTEL_HEAD.HEAD) % 2 ^ 32
  let mine : Bool := match regionAt s a 16 with | some r => r.fn == 0 && addrClass a == .t1 | none => false
  if n ≤ held || !mine then s.incFld R.QTEL_LOST.COUNT
  else (extTraffic (pwrite' s a (cleanBytes (telemetryRec q x s.now))) a 16).setFld R.QTEL_TAIL.TAIL ((tail + 1) % 2 ^ 32)

/-- The miss queues listed as the packets that wait in them make them. -/
def listMiss (s : State) : State :=
  [0, 1].foldl (fun s d =>
    let q := d * 32768 + 576
    if missCells s d = 0 ∧ (Tab.find? q s.qm.queues).isNone then s
    else match shownQueue s q with | some x => s.setQueue q x | none => s) s

/-- The records of the listed queues written to the telemetry ring, where it is enabled. -/
def putListed (s : State) : State :=
  let js := if s.flag R.QTEL_BASE.ENABLE then (List.range 256).filter (fun j => s.flag R.QTEL_LIST.VALID j) else []
  js.foldl (fun s j =>
    let q := s.fld R.QTEL_LIST.QUEUE j
    match s.queue? q with
    | some x => if x.statEn then putTelemetry s q x else s
    | none => s) s

/-- A sample time: the listed queues' records go to the telemetry ring, and every queue with STAT_EN takes its sample. -/
def doTelemetrySample (t : Nat) (s : State) : State :=
  let s := atTime s t
  if s.now % 1024 ≠ 0 then s
  else
    let now := s.now
    let s := putListed (listMiss s)
    { s with qm := { s.qm with queues := s.qm.queues.map (fun p => (p.1, p.2.sample now)), ticks := s.qm.ticks + 1 } }

/-- TELEMETRY_SAMPLE. -/
def execTelemetrySample (time : Nat) (s : State) : Host.Outcome State Fault Refusal := act s (doTelemetrySample time s)

/-! Gates, buckets, the injection window (R281, R283, R303). -/

/-- The list a port does not use now. -/
def otherList (s : State) (p : Nat) : Nat := 1 - s.fld R.SHP_GATE_CTL.ACTIVE p

/-- Does a cycle of a list of port p begin now? -/
def cycleStarts (s : State) (p l : Nat) : Bool :=
  let cy := gateCycle (gateList s p l)
  decide (0 < cy) && s.now % cy == s.fld R.SHP_GATE_BASE.OFFSET p % cy

/-- A gate list's cycle begins on a port: a pending swap is applied at the start of the other list's own cycle, and packets whose class
opens may start.
DEDUCED (unsafe): log entry 83. -/
def doGateCycleStart (p t : Nat) (s : State) : State :=
  let s := atTime s t
  let s :=
    if p < 16 ∧ s.flag R.SHP_GATE_CTL.SWAP p ∧ cycleStarts s p (otherList s p) then
      (s.setFld R.SHP_GATE_CTL.ACTIVE (otherList s p) p).setFld R.SHP_GATE_CTL.SWAP 0 p
    else s
  pumpFabric s

/-- GATE_CYCLE_START. -/
def execGateCycleStart (port time : Nat) (s : State) : Host.Outcome State Fault Refusal := act s (doGateCycleStart port time s)

/-- Packets charged to buckets leave as their buckets have by now permitted (`bucket_send`). -/
def doBucketSend (t : Nat) (s : State) : State := pumpFabric (atTime s t)

/-- BUCKET_SEND. -/
def execBucketSend (time : Nat) (s : State) : Host.Outcome State Fault Refusal := act s (doBucketSend time s)

/-- A new 1 µs injection window opens: the counts of each port restart and held requests may leave (R303). -/
def doInjectionWindow (t : Nat) (s : State) : State :=
  let s := atTime s t
  pumpFabric { s with fab := { s.fab with window := [], held := false } }

/-- INJECTION_WINDOW. -/
def execInjectionWindow (time : Nat) (s : State) : Host.Outcome State Fault Refusal := act s (doInjectionWindow time s)

end Sys2Proof.Machine
end

