-- ==== Sys2Proof/Machine/Epochs.lean ====
section
/-! DEFINITION. Meridian epochs (R313 to R316), rebuilding of protected spans (R320 to R322), ERROR_LOG events (R326) and
CLEAR_RETIREMENT (R309). -/

namespace Sys2Proof.Machine

open Sys2Proof

/-! Staging (R313). -/

/-- Is a staged map's epoch one the module takes: newer by 1 to 2^15, or any while it holds no map? -/
def stageOk (s : State) (e : Nat) : Bool :=
  let d := (e + 2 ^ 16 - s.epoch) % 2 ^ 16
  !s.mer.held || (decide (1 ≤ d) && decide (d ≤ 2 ^ 15))

/-- The drain window closes. -/
def closeDrain (s : State) : State := s.setFld R.MER_STAT.DRAINING 0

/-- The routing entries of a map take the place of the tables.
DEDUCED (unsafe): log entry 84. -/
def setRoutes (s : State) (groups members : List (Nat × Nat)) : State :=
  let put (fp fv : Fld) (n : Nat) (l : List (Nat × Nat)) (s : State) : State :=
    (List.range n).foldl (fun s g =>
      match Tab.find? g l with
      | some e => (s.setFld fp (e % 65536) g).setFld fv (e / 65536 % 2) g
      | none => (s.setFld fp 0 g).setFld fv 0 g) s
  put R.ROUTE_MEMBER.PORTS R.ROUTE_MEMBER.VALID 128 members (put R.ROUTE_GROUP.PORTS R.ROUTE_GROUP.VALID 256 groups s)

/-- The lost nodes of a map. -/
def setLost (s : State) (lost : List Nat) : State :=
  (List.range 1024).foldl (fun s k =>
    s.setFld R.MER_LOST.NODE_MAP (((lost.filter (fun n => n / 32 = k)).map (fun n => 2 ^ (n % 32))).foldl Nat.lor 0) k) s

/-! What the loss of nodes ends (R311, R316, R321). -/

/-- Remote partials asked of a lost lender: the operation ends with ST_DISPLACED once no other lender is waited for. -/
def attnLost (s : State) : State :=
  let hit (w : AttnWait) : Bool := w.remotes.any (fun r => r.2.answer.isNone && nodeLost s r.2.node)
  (s.attn.waits.filter (fun p => hit p.2)).foldl (fun s p =>
    let w := { p.2 with status := p.2.status.worse .displaced,
                        remotes := p.2.remotes.filter (fun r => !(r.2.answer.isNone && nodeLost s r.2.node)) }
    if w.remotes.all (fun r => r.2.answer.isSome) then endAttn s p.1 w
    else { s with attn := { s.attn with waits := Tab.ins p.1 w s.attn.waits } }) s

/-- Rings with a lost neighbour end with ST_DISPLACED. -/
def ringsLost (s : State) : State :=
  (s.attn.rings.filter (fun p => p.2.par.both.any (nodeLost s))).foldl (fun s p =>
    ringFails s p.1 p.2 .displaced) s

/-- Requests to lost nodes end with ST_DISPLACED: those of endpoints, and those of hidden flows. -/
def streamsLost (s : State) : State :=
  let s := (s.tr.eps.filter (fun p => nodeLost s p.2.node)).foldl (fun s p => failStream s (.ep p.1) .displaced) s
  (s.tr.flows.filter (fun p => nodeLost s p.1)).foldl (fun s p => failStream s (.flow p.1) .displaced) s

/-- Spans whose mirror or a parity member is lost run on unprotected; 0x20 goes to the owner's log (R321).
DEDUCED (unsafe): log entry 85. -/
def copiesLost (s : State) : State :=
  (s.pg.prot.filter (fun p =>
    match s.span? p.1 with
    | some x => (if x.prot = .mirror then p.2.take 1 else p.2.drop 7).any (nodeLost s)
    | none => false)).foldl (fun s p =>
      let f := match s.span? p.1 with | some x => x.fn | none => 0
      let s := { s with pg := { s.pg with prot := Tab.ins p.1 [] s.pg.prot } }
      logFn s f { entry0 s 0x20 .ok f with object := p.1 }) s

/-- Is a span protected by copies that still stand? -/
def protectedNow (s : State) (n : Nat) (x : Span) : Bool :=
  x.prot != .none && (match Tab.find? n s.pg.prot with | some l => !l.isEmpty | none => false)

/-- A page at a lost lender (R321): of a protected span it is rebuilt from the copies into T2 and logged as 0x1F; otherwise, or where T2 has
no room for it, it becomes holed with its event.
DEDUCED (unsafe): log entry 85. -/
def pageLost (s : State) (n p : Nat) : State :=
  match s.span? n with
  | none => s
  | some x =>
    let e := s.pte n p
    let s := match migOf s n p with | some m => dropMig (freeDest s m) n p | none => s
    if !protectedNow s n x then displaceAs s n p false
    else
      let g := codedGranules s x e
      match findRun s g with
      | none => displaceAs s n p false
      | some a =>
        let s := useRun s a g (.page x.fn n p)
        let s := s.setPte n p { e with st := .t2, mig := false, recalling := false, granule := a, count := g, battGen := x.tableGen, node := 0,
                                       handle := 0 }
        logFn s x.fn { entry0 s 0x1F .ok x.fn with object := n, detail := leBytes 2 e.node ++ leBytes 4 n ++ leBytes 4 n }

/-- Pages at lost lenders, and what is left of the lenders' offers. -/
def lendersLost (s : State) : State :=
  let ps := s.pg.ptes.filter (fun p => p.2.st = .t3 ∧ nodeLost s p.2.node)
  let s := ps.foldl (fun s p => pageLost s (p.1 / 2 ^ 31) (p.1 % 2 ^ 31)) s
  let ms := s.pg.migs.filter (fun m => (m.2.kind = .t2t3 ∨ m.2.kind = .t3t3) ∧ nodeLost s m.2.node)
  let s := ms.foldl (fun s m => abandonDemote s (m.1 / 2 ^ 31) (m.1 % 2 ^ 31)) s
  { s with pg := { s.pg with offers := s.pg.offers.filter (fun o => !nodeLost s o.2.node), recallsIn := s.pg.recallsIn.filter (fun r => !nodeLost s r.node) } }

/-- Borrowers that are lost: their pages are freed and their lent keys erased. -/
def borrowersLost (s : State) : State :=
  let ns := ((s.pg.lent.map (fun p => p.2.page.node)).foldr NSet.add []).filter (nodeLost s)
  let s := ns.foldl (fun s n => freeLent s n (s.pg.lent.map (·.1))) s
  { s with pg := { s.pg with lendings := s.pg.lendings.filter (fun l => !nodeLost s l.2.node), lentKeys := s.pg.lentKeys.filter (fun k => !nodeLost s (k / 64)) } }

/-- A map's epoch, drain window, routing tables, lost nodes and rebuild targets become the module's (R313). A window that was open closes
with it, since the new one takes its place (R315). -/
def moveEpoch (s : State) (m : FabMap) : State :=
  let e := s.epoch
  let stop := m.applyAt + s.fld R.MER_CTL.DRAIN * 1000
  let d := bit (decide (s.now < stop))
  let s := setLost (setRoutes s m.groups m.members) m.lost
  let s := (s.setFld R.MER_STAT.STAGED 0).setFld R.MER_STAT.STAGED_EPOCH m.epoch
  let s := (s.setFld R.MER_APPLY.APPLY_AT m.applyAt).setFld R.MER_STAT.DRAINING d
  let s := { s with mer := { staged := none, held := true, targets := m.targets, drainEnd := stop } }
  (s.setFld R.MER_CUR.PREV e).setFld R.MER_CUR.EPOCH m.epoch

/-- A map is applied: the epoch moves, what waits on lost nodes ends, and requests held for the new epoch are taken up.
DEDUCED (unsafe): log entry 84. -/
def applyMap (s : State) (m : FabMap) : State :=
  let s := moveEpoch s m
  let s := borrowersLost (lendersLost (copiesLost (streamsLost (ringsLost (attnLost s)))))
  pumpFabric (ringReplay (retryNewer (collMapApplied s)) none)

/-- MAP_STAGE over Barnopa: taken if its epoch is, then it replaces any staged map whole; one whose APPLY_AT has passed is applied at
once. -/
def doMapStage (epoch applyAt : Nat) (lost : List Nat) (groups members targets : List (Nat × Nat)) (t : Nat) (s : State) : State :=
  let s := atTime s t
  if 65536 ≤ epoch || !stageOk s epoch then s.emit (.barnopa false)
  else
    let m : FabMap := ⟨epoch, applyAt % 2 ^ 64, lost.foldr NSet.add [], groups, members, targets⟩
    let s := s.emit (.barnopa true)
    if m.applyAt ≤ s.now then applyMap s m
    else
      let s := ((s.setFld R.MER_STAT.STAGED 1).setFld R.MER_STAT.STAGED_EPOCH epoch).setFld R.MER_APPLY.APPLY_AT m.applyAt
      { s with mer := { s.mer with staged := some m } }

/-- MAP_STAGE: a routing entry is (number, PORTS + 65,536 × VALID), a target (lost node, rebuild target). -/
def execMapStage (epoch applyAt : Nat) (lost : List Nat) (groups members targets : List (Nat × Nat)) (time : Nat) (s : State) :
    Host.Outcome State Fault Refusal := act s (doMapStage epoch applyAt lost groups members targets time s)

/-- MAP_APPLY: fabric time has reached APPLY_AT of the staged map. -/
def doMapApply (t : Nat) (s : State) : State :=
  let s := atTime s t
  match s.mer.staged with
  | some m => if m.applyAt ≤ s.now then applyMap s m else s
  | none => s

/-- MAP_APPLY. -/
def execMapApply (time : Nat) (s : State) : Host.Outcome State Fault Refusal := act s (doMapApply time s)

/-- DRAIN_WINDOW_CLOSE: at APPLY_AT + MER_DRAIN. -/
def doDrainClose (t : Nat) (s : State) : State :=
  let s := atTime s t
  if s.flag R.MER_STAT.DRAINING ∧ s.mer.drainEnd ≤ s.now then closeDrain s else s

/-- DRAIN_WINDOW_CLOSE. -/
def execDrainWindowClose (time : Nat) (s : State) : Host.Outcome State Fault Refusal := act s (doDrainClose time s)

/-! Rebuilding rows (R320). -/

/-- rebuild_one: a lost member's row, from P0 and the seven survivors'. -/
def rebuildOne (p0 : List Byte) (others : List (List Byte)) : List Byte := others.foldl rowXor p0

/-- rebuild_two: the rows of members i and j, from both parity rows and the six survivors'. -/
def rebuildTwo (p0 p1 : List Byte) (others : List (Nat × List Byte)) (i j : Nat) : List Byte × List Byte :=
  let s0 := others.foldl (fun a d => rowXor a d.2) p0
  let s1 := others.foldl (fun a d => rowXor a (rowMul (gfPow 2 d.1) d.2)) p1
  let ai := gfPow 2 i
  let aj := gfPow 2 j
  let di := rowMul (gfInv (Nat.xor ai aj)) (List.zipWith (fun y x => y ^^^ gfByte aj x) s1 s0)
  (di, rowXor s0 di)

/-- The row of data member i where parity member P0 is lost too, from P1 and the seven survivors' (index, row): a coded group survives
any two losses (R320).
DEDUCED (safe): log entry 86. -/
def rebuildP1 (p1 : List Byte) (others : List (Nat × List Byte)) (i : Nat) : List Byte :=
  rowMul (gfInv (gfPow 2 i)) (others.foldl (fun a d => rowXor a (rowMul (gfPow 2 d.1) d.2)) p1)

/-- A row of the first lost data member of a group, from what the members sent: (index, row), 8 and 9 the parity members. With no data
member lost it is the mirror's row.
DEDUCED (unsafe): log entry 85. DEDUCED (safe): log entry 86. -/
def recoverRow (lost : List Nat) (got : List (Nat × List Byte)) : List Byte :=
  let of (i : Nat) : List Byte := ((got.find? (fun g => g.1 == i)).map (·.2)).getD []
  let data := got.filter (fun g => g.1 < 8)
  match lost.filter (fun i => i < 8) with
  | [] => (got.head?.map (·.2)).getD []
  | [i] => if lost.contains 8 then rebuildP1 (of 9) data i else rebuildOne (of 8) (data.map (·.2))
  | i :: j :: _ => (rebuildTwo (of 8) (of 9) data i j).1

/-! Rebuilding (R322). -/

/-- Rows held in every slot from row 0 on. -/
def rowsInAll (slots : Nat) (rows : List (Nat × Nat)) : Nat → Nat → Nat
  | 0, n => n
  | k + 1, n => if (List.range slots).all (fun l => rows.contains (l, n)) then rowsInAll slots rows k (n + 1) else n

/-- Rows placed in a span; none where a page finds no frame now. -/
def placeRows (n : Nat) (x : Span) : List ((Nat × Nat) × List Byte) → State → Option State
  | [], s => some s
  | q :: r, s =>
    match writeRecords s n q.1.1 q.1.2 x (cleanBytes (padTo x.rowBytes q.2)) with
    | .ok s _ _ => placeRows n x r s
    | _ => none

/-- Page scales that came with the first rows of pages. -/
def setScales (s : State) (n : Nat) (scales : List (Nat × (Nat × Nat))) : State :=
  scales.foldl (fun s q => s.setPte n q.1 { s.pte n q.1 with pk := q.2.1, pv := q.2.2 }) s

/-- REBUILD on the rebuild target: the span is created with a new number and extent, its rows are placed, and 0x1F is logged to its
function. It waits where a row finds no frame.
DESIGN CHOICE (unsafe): log entry 22. DEDUCED (unsafe): log entry 85. -/
def rebuildSpan (s : State) (node old fn : Nat) (body : List Byte) (gen mode : Nat) (members lost : List Nat)
    (rows : List ((Nat × Nat) × List (Nat × List Byte))) (scales : List (Nat × (Nat × Nat))) (span base : Nat) : State :=
  let f := if fn ≤ s.host.numVfs then fn else 0
  match parseSpan f (List.replicate 8 0#8 ++ padTo 56 body), protOf mode with
  | some x, some m =>
    match pickFree s.pg.spans 0 262144 span, findExtent s (x.pages * 65536) base with
    | some k, some a =>
      let rs := (rows.map (fun q => (q.1, recoverRow lost q.2))).filter (fun q => q.1.1 < x.layerSlots ∧ q.1.2 < x.maxTokens)
      let h := rowsInAll x.layerSlots (rs.map (·.1)) x.maxTokens 0
      let x := { x with base := a, start := placementStart s, pin := false, prot := m, horizon := h, appended := h, gen := (gen + 1) % 2 ^ 32 }
      let t := s.setSpan k x
      match placeRows k x (rs.filter (fun q => q.1.2 < h)) t with
      | none => s
      | some t =>
        let t := setScales t k scales
        let t := if m = .none then t else { t with pg := { t.pg with prot := Tab.ins k members t.pg.prot } }
        let t := (if m = .none then [] else members).foldl (fun t q => t.emit (.protect q k (protWant m) x.maxTokens x.layerSlots x.rowBytes)) t
        let e : LogEntry := { entry0 t 0x1F .ok f with object := k, detail := leBytes 2 node ++ leBytes 4 old ++ leBytes 4 k }
        sendRows (logFn t f e) k 0 h (List.range x.layerSlots)
    | _, _ => s
  | _, _ => s

/-- What the copy of a lost node's span here holds of each row, beside what came from the other members (index 8 and 9: the parity members). -/
def withHeld (s : State) (node old : Nat) (rows : List ((Nat × Nat) × List (Nat × List Byte))) : List ((Nat × Nat) × List (Nat × List Byte)) :=
  let held := heldRows s node old
  let got (q : Nat × Nat) : List (Nat × List Byte) := ((rows.find? (fun r => r.1 == q)).map (·.2)).getD []
  held.map (fun h => (h.1, got h.1 ++ [h.2])) ++ rows.filter (fun r => !held.any (fun h => h.1 == r.1))

/-- REBUILD on a copy holder: the rows of a lost node's span go to the target that the map names. -/
def rebuildSend (s : State) (node old : Nat) (lost : List Nat) (rows : List ((Nat × Nat) × List (Nat × List Byte))) : State :=
  match Tab.find? node s.mer.targets with
  | none => s
  | some t => if nodeLost s node then (withHeld s node old rows).foldl (fun s q => s.emit (.rebuildRow t node old q.1.1 q.1.2 (recoverRow lost q.2))) s else s

/-- REBUILD (R322): on the target (`holder` false) or a copy holder. `body` are the span's parameters as bytes 8 to 63 of its
SPAN_CREATE, `rows` its rows as (slot, row) with what the other copy holders and members sent of each, and `members` the map's protection targets. -/
def execRebuild (holder : Bool) (node old fn : Nat) (body : List (BitVec 8)) (gen mode : Nat) (members lost : List Nat)
    (rows : List ((Nat × Nat) × List (Nat × List (BitVec 8)))) (scales : List (Nat × (Nat × Nat))) (span base : Nat) (s : State) :
    Host.Outcome State Fault Refusal :=
  act s (if holder then rebuildSend s node old lost rows else rebuildSpan s node old fn body gen mode members lost rows scales span base)

/-! ERROR_LOG events and retirement entries. -/

/-- A further ERROR_LOG event: entries have been added, and the last event is at least 1 ms old (R326). -/
def doErrorLogEvent (f t : Nat) (s : State) : State :=
  let s := atTime s t
  let h := s.fnHost f
  if h.logAdded = 0 ∨ s.now < h.logEvt + 1000000 then s
  else errorLogEvent s f (match (s.fnLog f).entries.getLast? with | some e => e.status | none => .ok)

/-- ERROR_LOG_EVENT. -/
def execErrorLogEvent (fn time : Nat) (s : State) : Host.Outcome State Fault Refusal := act s (doErrorLogEvent fn time s)

/-- CLEAR_RETIREMENT over Barnopa (R309): asked for now, taken up at the next module reset or cold start. A unit is named by UNIT_KIND
and UNIT of Table 16-9.
DESIGN CHOICE (safe): log entry 87. -/
def doClearRetirement (kind unit_ : Nat) (s : State) : State :=
  { s with flt := { s.flt with clearAsked := NSet.add (kind * 65536 + unit_ % 65536) s.flt.clearAsked } }.emit (.barnopa true)

/-- CLEAR_RETIREMENT. -/
def execClearRetirement (kind unit_ : Nat) (s : State) : Host.Outcome State Fault Refusal := done (doClearRetirement kind unit_ s)

end Sys2Proof.Machine
end

