-- ==== Sys2Proof/Machine/Background.lean ====
section
/-! DEFINITION. Level mode's background work on stored data (R334): T2 compaction (R87), and re-coding of spans and tile tensors under new
generations of their code tables (R52). -/

namespace Sys2Proof.Machine

open Sys2Proof

/-- A page of T2 moved to the first free run, if that lies lower (R87), by the three steps of R100.
DESIGN CHOICE (unsafe): log entry 142. -/
def compactPage (s : State) (key : Nat) : State :=
  let sp := key / 2 ^ 31
  let p := key % 2 ^ 31
  let e := s.pte sp p
  match s.span? sp, findRun s e.count with
  | some x, some g =>
    if e.st ≠ .t2 ∨ e.mig ∨ e.granule ≤ g then s
    else
      let s := setMig (useRun s g e.count (.dest x.fn sp p)) sp p ⟨.t2t2, 0, g, e.count, 0, 0⟩
      switchPage s sp p ⟨.t2t2, 0, g, e.count, 0, 0⟩
  | _, _ => s

/-! Re-coding of spans. -/

/-- One page of T2 re-coded: its new batts are written to a run of their own, then its entry is switched and the old run freed. A page that
migrates, or for which no run is free, keeps its batts and their generation. -/
def recodePage (s : State) (sp p : Nat) : State :=
  match s.span? sp with
  | none => s
  | some x =>
    let e := s.pte sp p
    let n := codedGranules s x e
    if e.st ≠ .t2 ∨ e.mig ∨ e.crcBad then s
    else
      match findRun s n with
      | none => s
      | some g =>
        let s := dropRun (useRun s g n (.page x.fn sp p)) e.granule
        s.setPte sp p { e with granule := g, count := n, battGen := x.tableGen }

/-- The generations of a span's table that stored batts still refer to, and the newest. -/
def gensUsed (s : State) (sp : Nat) (x : Span) : List Nat :=
  x.tableGen :: ((s.pagesOf sp).filter (fun e => e.2.st == .t2 || e.2.st == .t3 || e.2.st == .archived)).map (fun e => e.2.battGen)

/-- Generations that nothing refers to are freed, and expander slots that hold them invalidated (R52). -/
def freeGens (s : State) (sp : Nat) : State :=
  match s.span? sp with
  | none => s
  | some x =>
    let used := gensUsed s sp x
    let gone := (x.tables.filter (fun t => !used.contains t.gen)).map (·.gen)
    let s := s.setSpan sp { x with tables := x.tables.filter (fun t => used.contains t.gen) }
    if gone.isEmpty then s
    else s.tl.slots.foldl (fun s q => setSlots s q.1 (q.2.filter (fun e => !(e.id == 0xFFFF && e.fn == x.fn && gone.contains e.gen)))) s

/-- A span re-coded (R52, R60): the next generation of its table is made beside the old one, from the symbols of its pages in T2; each of them is
re-coded; the generations left without batts are freed. An operation that reads the span's batts, or a
migration of one of its pages, bars it meanwhile.
DESIGN CHOICE (unsafe): log entry 142. -/
def recodeSpan (s : State) (sp : Nat) : State :=
  match s.span? sp with
  | none => s
  | some x =>
    let ps := (s.pagesOf sp).filter (fun e => e.2.st == .t2)
    let gen := x.tableGen + 1
    if x.tableGen = 0 ∨ 65535 < gen ∨ ps.isEmpty ∨ (heldKeys s).any (fun k => k / 2 ^ 31 == sp) ∨ s.pg.migs.any (fun m => m.1 / 2 ^ 31 == sp) then s
    else
      let hist := histogram x.wide (ps.flatMap (fun e => pageSyms x (imageBytes e.2.image)))
      let x := { x with tableGen := gen, tables := x.tables ++ [madeTable 0xFFFF x.wide gen hist s.freeCtr] }
      freeGens (ps.foldl (fun s e => recodePage s sp e.1) (s.takeFree.setSpan sp x)) sp

/-! Re-coding of tile tensors. -/

/-- The symbols of a tensor, if every batt of it decodes without fault and none is poisoned. -/
def tensorSyms (s : State) (fn : Nat) (d : TensorDesc) : Option (List Nat) :=
  let bs := (List.range d.batts).map (fun i => let p := battSpan s d.battBase i; tread s p.1 p.2)
  let rs := bs.zipIdx.map (fun q => decodeBatt (battWant d.wide 0 d.symbols q.2) (tableOf s fn) (clearPsn q.1))
  if bs.any anyPsn || rs.any (fun q => q.2.isSome) then none else some (rs.flatMap (·.1))

/-- Is a generation of a bundle's table named by no tensor of the function any more? -/
def genUnused (s : State) (fn tid gen : Nat) : Bool :=
  (s.mm.regions.filter (fun r => r.kind == .bundle && r.fn == fn)).all (fun r =>
    match descAt s fn r.base with
    | some d => d.tid != tid || d.tgen != gen
    | none => true)

/-- A tensor's new batts placed behind a new table in frames of its die, the same on its four stacks: the table's address, that of batt 0, and
the state. -/
def placeRecoded (s : State) (r : Region) (table batts : List Byte) (pick : Nat) : Option (Nat × Nat × State) :=
  let m := ceilDiv (table.length + batts.length) (65536 * 4)
  let lo := stackOf r.base / 4 * 4 * 2 ^ 20
  (makeT1Room s r.fn (m * 4)).bind (fun s => (findFramesIn s lo (lo + 2 ^ 20) 4 m pick).map (fun g =>
    let base := frameAddr g
    let rs := (List.range 4).map (fun k => (⟨base + k * 2 ^ 36, m * 65536, r.fn, .bundle, r.owner⟩ : Region))
    let s := { s with mm := { s.mm with regions := s.mm.regions ++ rs } }
    (base, tensorAddr base table.length, twrite s base (cleanBytes (table ++ batts)))))

/-- A tile tensor re-coded (R52): the next generation of its table is written, or found; every batt is coded anew beside the old ones; then its
descriptor is switched in one write, and a generation that no tensor names any more is freed. A tensor that a stream reads is left alone.
DESIGN CHOICE (unsafe): log entry 142. -/
def recodeTensor (s : State) (a pick : Nat) : State :=
  match regionAt s a 64 with
  | none => s
  | some r =>
    match (if a = r.base then descAt s r.fn a else none) with
    | none => s
    | some d =>
      match (if 65535 ≤ d.tgen || s.tl.streams.any (fun x => x.2.desc == a) then none else tensorSyms s r.fn d) with
      | none => s
      | some syms =>
        let old := tableOf s r.fn d.tid (d.tgen + 1)
        let t := old.getD (madeTable d.tid d.wide (d.tgen + 1) (histogram d.wide syms) s.freeCtr)
        let bs := (encodeBatts (some t) d.wide 0 d.batts syms).flatten
        match placeRecoded s.takeFree r (tableRecord t) bs pick with
        | none => s
        | some (ta, ba, s) =>
          let h := clearPsn (pread s a 64)
          let h := h.take 16 ++ leBytes 2 (d.tgen + 1) ++ (h.drop 18).take 6 ++ leBytes 8 ba ++ (h.drop 32).take 8 ++ leBytes 4 bs.length ++
            (h.drop 44).take 18
          let s := pwrite' s a (cleanBytes (h ++ leBytes 2 (crc16 h)))
          let s := if old.isSome then s else { s with tl := { s.tl with dir := s.tl.dir ++ [⟨r.fn, d.tid, d.tgen + 1, ta⟩] } }
          if genUnused s r.fn d.tid d.tgen then
            dropTables s (fun e => e.fn == r.fn && e.id == d.tid && e.gen == d.tgen &&
              (match regionAt s e.addr 320 with | some q => q.kind == .bundle | none => false))
          else s

/-- The background work done on stored data in a window: page keys compacted, spans and tensors (descriptor address, frame picked) re-coded. -/
def background (s : State) (compacted spans : List Nat) (tensors : List (Nat × Nat)) : State :=
  let s := compacted.foldl compactPage s
  let s := spans.foldl recodeSpan s
  tensors.foldl (fun s q => recodeTensor s q.1 q.2) s

end Sys2Proof.Machine
end

