-- ==== Sys2Proof/Machine/Power.lean ====
section
/-! DEFINITION. Power, clock, level-mode and thermal commands (R17, R123, R127, R331 to R342). A command gives the measurement it acts on
and the time. -/

namespace Sys2Proof.Machine

open Sys2Proof

/-- TCLK_CHANGE (R17): the change in progress is made; a target asked for meanwhile follows. -/
def execTclkChange (time : Nat) (s : State) : Host.Outcome State Fault Refusal := act s (makeTclk (atTime s time))

/-- GOVERNOR_WINDOW (R127): `arrivals` are the transfers of the window in order, each external (true) or internal, and its sectors. -/
def execGovernorWindow (stack : Nat) (arrivals : List (Bool × Nat)) (s : State) : Host.Outcome State Fault Refusal :=
  act s (doGovernorWindow stack (allowanceOf s stack) arrivals s)

/-! Ceilings (R331). -/

/-- May recovery go on with these measurements? -/
def recoverOk (s : State) (watts j : Nat) : Bool := decide (watts * 100 ≤ effCeil s * 95) && (!s.pow.hot || decide (j < 105))

/-- A window that is no ceiling event, and in which the conditions of a recovery in progress do not hold: their 100 µs start anew. -/
def calmKept (s : State) (watts j : Nat) : State :=
  if s.pow.ceil = 0 || recoverOk s watts j then s else s.updPow (fun p => { p with calm := none })

/-- A 10 µs window's average, and the junctions: above the ceiling, or at 110 °C, it is a ceiling event.
DESIGN CHOICE (safe): log entry 25. -/
def doCeilingEvent (watts cd pd t : Nat) (s : State) : State :=
  let s := setTemps ((atTime s t).setFld R.PWR_MEAS.INPUT_W (min 4095 watts)) cd pd
  let byTemp := decide (110 ≤ max cd pd)
  if watts ≤ effCeil s && !byTemp then calmKept s watts (max cd pd)
  else if effCeil s < watts then ceilingHit (ceilingHalve s) byTemp
  else ceilingHit s byTemp

/-- CEILING_EVENT. -/
def execCeilingEvent (watts cdMax pdMax time : Nat) (s : State) : Host.Outcome State Fault Refusal :=
  act s (doCeilingEvent watts cdMax pdMax time s)

/-- One step of recovery: the conditions held for 100 µs, the stack factor is restored first; then TCLK rises by 25 MHz every 100 µs, no
higher than level mode, TCLK_MAX or a soft throttle allows. -/
def doCeilingRecovery (watts cd pd t : Nat) (s : State) : State :=
  let s := setTemps ((atTime s t).setFld R.PWR_MEAS.INPUT_W (min 4095 watts)) cd pd
  if s.pow.ceil = 0 then s
  else if !recoverOk s watts (max cd pd) then s.updPow (fun p => { p with calm := none })
  else
    match s.pow.calm with
    | none => s.updPow (fun p => { p with calm := some s.now })
    | some c =>
      if s.now < c + 100000 then s
      else if s.pow.halved then s.updPow (fun p => { p with halved := false, ceil := 2, lastStep := s.now })
      else if s.pow.ceil = 1 then s.updPow (fun p => { p with ceil := 2, lastStep := s.now })
      else if s.now < s.pow.lastStep + 100000 || s.flag R.THERM_STAT.SOFT_THROTTLE then s
      else if tclkAim s < tclkCall s then
        (askTclk s (tclkAim s + 1)).updPow (fun p => { p with lastStep := s.now })
      else s.updPow (fun p => { p with ceil := 0, hot := false, lowAt := none, calm := none })

/-- CEILING_RECOVERY_STEP. -/
def execCeilingRecoveryStep (watts cdMax pdMax time : Nat) (s : State) : Host.Outcome State Fault Refusal :=
  act s (doCeilingRecovery watts cdMax pdMax time s)

/-! Level mode (R333 to R337). -/

/-- The target after a window: it moves toward SET_W at SLEW W per second, never above 95 % of the ceiling. -/
def moveTarget (s : State) : State :=
  if !s.flag R.LVL_CTL.ENABLE then s
  else
    let goal := min (s.fld R.LVL_SET.SET_W * 10) (ceil95 s)
    let v := s.fld R.LVL_SET.SLEW
    let old := s.pow.target
    let new := if old < goal then min goal (old + v) else max goal (old - v)
    s.updPow (fun p => { p with target := min new (ceil95 s), moved := decide (min new (ceil95 s) ≠ old) })

/-- Is a window's power within 2 % of the target, above the band, below it? -/
def inBand (s : State) (watts : Nat) : Bool := decide (s.pow.target * 98 ≤ watts * 1000) && decide (watts * 1000 ≤ s.pow.target * 102)

/-- Admission at the end of a window (R335).
DEDUCED (unsafe): log entry 93. -/
def admission (s : State) (watts : Nat) : Nat :=
  if !s.flag R.LVL_CTL.ENABLE then 0
  else if s.flag R.LVL_STAT.ADMIT_HELD then
    bit !(s.fld R.CLK_STAT.TCLK == s.fld R.LVL_CTL.TCLK_MAX && inBand s watts)
  else bit (decide (s.pow.target < watts * 10))

/-- The measurements of a window recorded (R337), with its heat estimate: the tenths of a joule that are left over are kept. -/
def measured (watts vin inlet outlet heat : Nat) (s : State) : State :=
  let s := ((s.setFld R.PWR_MEAS.WINDOW_W (min 4095 watts)).setFld R.PWR_MEAS.HEAT_W (min 4095 heat)).setFld R.PWR_MEAS.VIN (min 8191 vin)
  let s := (s.setFld R.THERM_STAT.INLET (min 255 inlet)).setFld R.THERM_STAT.OUTLET (min 255 outlet)
  let j := s.pow.tenths + heat
  (s.setFld R.PWR_ENERGY.HEAT_J (s.fld R.PWR_ENERGY.HEAT_J + j / 10)).updPow (fun p => { p with tenths := j % 10 })

/-- What level mode reports of a window (R333, R335). -/
def levelStatus (watts : Nat) (filling : Bool) (s : State) : State :=
  let en := s.flag R.LVL_CTL.ENABLE
  let above := decide (s.pow.target * 102 < watts * 1000) && decide (s.fld R.CLK_STAT.TCLK ≤ s.fld R.LVL_CTL.TCLK_MIN)
  let below := decide (watts * 1000 < s.pow.target * 98)
  let fill := filling && s.flag R.LVL_CTL.FILL_EN
  let adm := admission s watts
  let t := (s.setFld R.LVL_STAT.HOLDING (bit (en && inBand s watts))).setFld R.LVL_STAT.BELOW (bit (en && below))
  let t := (t.setFld R.LVL_STAT.ABOVE (bit (en && above))).setFld R.LVL_STAT.ADMIT_HELD adm
  (t.setFld R.LVL_STAT.FILLING (bit (en && fill))).setFld R.LVL_STAT.CEIL_WIN (bit s.pow.ceilIn)

/-- Level mode's background work of a window on stored data (R334): done while level mode is on and no ceiling event is in progress. -/
def windowWork (compacted spans : List Nat) (tensors : List (Nat × Nat)) (s : State) : State :=
  if s.flag R.LVL_CTL.ENABLE ∧ s.pow.ceil = 0 then background s compacted spans tensors else s

/-- The end of a 100 ms window. `filling` says that heat-fill ran; the lists are the background work done on stored data. The heat estimate is
the module's own: a free value.
DESIGN CHOICE (safe): log entry 25. DESIGN CHOICE (safe): log entry 92. -/
def doLevelWindow (watts vin inlet outlet : Nat) (filling : Bool) (compacted spans : List Nat) (tensors : List (Nat × Nat)) (t : Nat) (s : State) :
    State :=
  let s := windowWork compacted spans tensors (atTime s t)
  let heat := watts - Config.freeNat s.freeCtr % (watts + 1)
  let s := levelStatus watts filling (measured watts vin inlet outlet heat s.takeFree)
  let s := s.updPow (fun p => { p with ceilIn := false, thermIn := s.flag R.THERM_STAT.SOFT_THROTTLE })
  (moveTarget s).emit (.powerReport watts heat (s.fld R.PWR_ENERGY.HEAT_J))

/-- LEVEL_WINDOW (R333, R337): the window's input W, the input voltage in 10 mV, inlet and outlet °C; the pages
(keys) compacted, and the spans and tensors (descriptor address, frame picked) re-coded in it. -/
def execLevelWindow (watts vin inlet outlet : Nat) (filling : Bool) (compacted recodedSpans : List Nat) (recodedTensors : List (Nat × Nat))
    (time : Nat) (s : State) : Host.Outcome State Fault Refusal :=
  act s (doLevelWindow watts vin inlet outlet filling compacted recodedSpans recodedTensors time s)

/-- A 25 MHz step of level mode, at most every 10 ms: down to TCLK_MIN while the average is above the band, up to TCLK_MAX while it is
below; it raises nothing while a ceiling recovery or a soft throttle is in progress (R335, R336, R339).
DEDUCED (unsafe): log entry 93. -/
def doLevelStep (watts t : Nat) (s : State) : State :=
  let s := atTime s t
  if !s.flag R.LVL_CTL.ENABLE || decide (s.now < s.pow.lvlStep + 10000000) then s
  else if s.pow.target * 102 < watts * 1000 then
    let v := max (s.fld R.LVL_CTL.TCLK_MIN) (s.pow.lvlTclk - 1)
    let s := s.updPow (fun p => { p with lvlTclk := v, lvlStep := s.now })
    if v < tclkAim s then askTclk s v else s
  else if watts * 1000 < s.pow.target * 98 then
    let v := min (s.fld R.LVL_CTL.TCLK_MAX) (s.pow.lvlTclk + 1)
    let s := s.updPow (fun p => { p with lvlTclk := v, lvlStep := s.now })
    if s.pow.ceil = 0 ∧ !s.flag R.THERM_STAT.SOFT_THROTTLE ∧ !s.pow.rising ∧ tclkAim s < v then askTclk s v else s
  else s

/-- LEVEL_TCLK_STEP (R335). -/
def execLevelTclkStep (watts time : Nat) (s : State) : Host.Outcome State Fault Refusal := act s (doLevelStep watts time s)

/-! Temperatures (R339, R123). -/

/-- A junction measured at 100 °C or above starts the soft throttle. -/
def doSoftThrottle (cd pd t : Nat) (s : State) : State :=
  let s := setTemps (atTime s t) cd pd
  if max cd pd < 100 then s else softHit s

/-- SOFT_THROTTLE. -/
def execSoftThrottle (cdMax pdMax time : Nat) (s : State) : Host.Outcome State Fault Refusal := act s (doSoftThrottle cdMax pdMax time s)

/-- One interval of a soft throttle: 25 MHz down each 1 ms while a junction is at 98 °C or above; clear once all have been below 95 °C for 10 ms;
then 25 MHz up each 10 ms while they are. -/
def doSoftStep (cd pd t : Nat) (s : State) : State :=
  let j := max cd pd
  let s := trackCool (setTemps (atTime s t) cd pd) j
  if s.flag R.THERM_STAT.SOFT_THROTTLE then
    if 98 ≤ j then
      if s.now < s.pow.softStep + 1000000 then s
      else (askTclk s (tclkAim s - 1)).updPow (fun p => { p with softStep := s.now, thermIn := true })
    else
      match s.pow.cool with
      | some c => if c + 10000000 ≤ s.now then
            (s.setFld R.THERM_STAT.SOFT_THROTTLE 0).updPow (fun p => { p with rising := true, softStep := s.now }) else s
      | none => s
  else if 100 ≤ j then softHit s
  else if s.pow.rising then
    if tclkCall s ≤ tclkAim s then s.updPow (fun p => { p with rising := false })
    else if j < 95 ∧ s.pow.softStep + 10000000 ≤ s.now ∧ s.pow.ceil = 0 then
      (askTclk s (tclkAim s + 1)).updPow (fun p => { p with softStep := s.now })
    else s
  else s

/-- SOFT_THROTTLE_STEP. -/
def execSoftThrottleStep (cdMax pdMax time : Nat) (s : State) : Host.Outcome State Fault Refusal := act s (doSoftStep cdMax pdMax time s)

/-- A DRAM die of a stack above 105 °C: its governor's allowance is scaled (`allowanceOf`), STACK_HOT is set, counted and logged. -/
def doStackHot (k temp t : Nat) (s : State) : State :=
  let s := atTime s t
  if 16 ≤ k then s
  else
    let s := setDram s k temp
    if temp ≤ 105 then s else logPower ((s.setFld R.THERM_STAT.STACK_HOT 1).incFld R.THERM_CNT.STACK)

/-- STACK_HOT. -/
def execStackHot (stack temp time : Nat) (s : State) : Host.Outcome State Fault Refusal := act s (doStackHot stack temp time s)

/-- A DRAM die above 85 °C: its refresh interval is halved (R123). -/
def doDramAbove85 (k temp t : Nat) (s : State) : State :=
  let s := atTime s t
  if 16 ≤ k ∨ temp ≤ 85 then s else logPower (setDram s k temp)

/-- DRAM_ABOVE_85. -/
def execDramAbove85 (stack temp time : Nat) (s : State) : Host.Outcome State Fault Refusal := act s (doDramAbove85 stack temp time s)

/-- A DRAM die cools: the refresh interval and the governor's factor follow its temperature, and STACK_HOT clears once no stack is scaled. -/
def doDramFall (k temp t : Nat) (s : State) : State :=
  let s := atTime s t
  if 16 ≤ k then s
  else
    let s := setDram s k temp
    if s.pow.dram.any (fun q => decide (105 < q.2)) then s else s.setFld R.THERM_STAT.STACK_HOT 0

/-- DRAM_TEMPERATURE_FALL. -/
def execDramTemperatureFall (stack temp time : Nat) (s : State) : Host.Outcome State Fault Refusal := act s (doDramFall stack temp time s)

/-- The refresh interval of a stack, in 1/1,000 ns (R123). -/
def refreshInterval (s : State) (k : Nat) : Nat :=
  let t := Tab.get 25 k s.pow.dram
  if t ≤ 85 then 3900000 else if t ≤ 105 then 1950000 else 975000

/-! Nap states (R341, R342). -/

/-- The module has been idle: it enters N2 if DEEP_REQ waits, or N1 if NAP_EN is set and NAP_IDLE µs have passed.
DESIGN CHOICE (safe): log entry 25. -/
def doNapEntry (idleUs t : Nat) (s : State) : State :=
  let s := atTime s t
  if s.flag R.LVL_CTL.ENABLE || !inA0 s || !moduleIdle s then s
  else if s.flag R.PWR_CTL.DEEP_REQ then enterN2 s
  else if s.flag R.PWR_CTL.NAP_EN ∧ s.fld R.PWR_CTL.NAP_IDLE ≤ idleUs then enterN1 s
  else s

/-- NAP_ENTRY: `idleUs` is how long the module has been idle. -/
def execNapEntry (idleUs time : Nat) (s : State) : Host.Outcome State Fault Refusal := act s (doNapEntry idleUs time s)

/-- NAP_EXIT (R342). -/
def execNapExit (time : Nat) (s : State) : Host.Outcome State Fault Refusal := act s (startExit (atTime s time))

/-- A nap exit is done; from N2 the tiles and NBUs that failed their self-checks are counted (R80, R128). -/
def doNapExitDone (tiles nbus : List Nat) (t : Nat) (s : State) : State :=
  let s := atTime s t
  if !s.flag R.PWR_STAT.EXITING then s
  else
    let deep := s.fld R.PWR_STAT.STATE == 2
    let s := endExit s
    if !deep then s
    else
      let s := (tiles.filter (fun t => t < 256)).foldl (fun s t => tileFailure s t 0x08) s
      (nbus.filter (fun u => u < 8192)).foldl (fun s u => checkNbu s (u / 512) (u % 512) false) s

/-- NAP_EXIT_DONE: `tiles` and `nbus` (stack × 512 + NBU) are those that failed. -/
def execNapExitDone (tiles nbus : List Nat) (time : Nat) (s : State) : Host.Outcome State Fault Refusal := act s (doNapExitDone tiles nbus time s)

end Sys2Proof.Machine
end

