-- ==== Sys2Proof/Machine/RegView.lean ====
section
/-! DEFINITION. How a register is found and what a read of it returns: the block map and the VF views (R349 to R352), and the fields
that show what the module holds elsewhere. -/

namespace Sys2Proof.Machine

open Sys2Proof

/-! Finding a register. -/

/-- A register entry: its row of the register table and its indices. -/
structure RegRef where
  info : RegInfo
  i : Nat
  j : Nat
  deriving DecidableEq, Repr

/-- The PF0 address of an entry. -/
def RegRef.base (k : RegRef) : Nat := k.info.addr + k.i * k.info.s1 + k.j * k.info.s2

/-- The entry of a register that holds a byte address. -/
def RegInfo.hit (r : RegInfo) (a : Nat) : Option RegRef :=
  if a < r.addr then none
  else
    let d := a - r.addr
    let i := if r.n1 = 1 then 0 else d / r.s1
    let q := d - i * r.s1
    let j := if r.n2 = 1 then 0 else q / r.s2
    let o := q - j * r.s2
    if i < r.n1 ∧ j < r.n2 ∧ o < r.wd / 8 then some ⟨r, i, j⟩ else none

/-- The registers of the 1 MiB block that holds an address (Table 18-2). -/
def blockRegs (a : Nat) : List RegInfo :=
  match a / 2 ^ 20 with
  | 0 => regRow0 ++ regRow1 ++ regRow2
  | 1 => regRow3
  | 3 => regRow5
  | 5 => regRow7
  | 6 => regRow8
  | 7 => regRow9
  | 8 => regRow10
  | 9 => regRow11
  | 10 => regRow12
  | 11 => regRow13
  | 12 => regRow14
  | 13 => regRow15
  | 14 => regRow16
  | 15 => regRow17
  | _ => []

/-- The register entry at a PF0 BAR0 address.
DEDUCED (unsafe): log entry 96. -/
def regAt (a : Nat) : Option RegRef := ((blockRegs a).filterMap (fun r => r.hit a)).head?

/-- The function number that stands for the management controller's path (R5). -/
def mgmt : Nat := 64

/-- The views of a VF's BAR0 (R351, Table 18-2): VF offset, bytes, the PF0 address of function 0's, and the bytes between functions. -/
def vfViews : List (Nat × Nat × Nat × Nat) := [
  (0x00000, 0x04, 0x000000, 0), (0x00020, 0x20, 0x000020, 0), (0x10004, 0x04, 0x010004, 0), (0x21000, 0x40, 0x501000, 0x40),
  (0x31000, 0x20, 0x601000, 0x20), (0x80000, 0x2000, 0x780000, 0x2000), (0x51000, 0x200, 0xa01000, 0x200),
  (0x61000, 0x08, 0xb01000, 0x10), (0x71000, 0x08, 0xd01000, 0x10), (0x90000, 0x08, 0xe00000, 0), (0x90010, 0x30, 0xe00010, 0),
  (0xA0020, 0x04, 0xf00020, 0), (0xAC000, 0x100, 0xf0c000, 0x100)]

/-- The PF0 address that an offset of a source's BAR0 stands for; none where the BAR implements nothing there. -/
def toPf0 (f a : Nat) : Option Nat :=
  if f = 0 ∨ f = mgmt then (if a < 2 ^ 26 then some a else none)
  else
    match vfViews.find? (fun v => v.1 ≤ a && decide (a < v.1 + v.2.1)) with
    | some (b, _, p, st) => some (p + f * st + (a - b))
    | none => none

/-- What an access names: nothing that is implemented, an access of a wrong size, a word of the function's MSI-X table or its
pending-bit array, an offset in the doorbell pages of BAR2, or register entries with the bit of the access at which each starts. -/
inductive Target where
  | nothing
  | wrong
  | msix (off : Nat)
  | pba (off : Nat)
  | doorbell (off : Nat)
  | regs (rs : List (RegRef × Nat)) (off : Nat)
  deriving DecidableEq, Repr

/-- The offset in the function's host-interface view (R220), for its MSI-X structures. -/
def hiOffset (f a : Nat) : Option Nat :=
  if f = mgmt then none
  else if f = 0 then (if 0x740000 ≤ a ∧ a < 0x750000 then some (a - 0x700000) else none)
  else if 0x40000 ≤ a ∧ a < 0x50000 then some a else none

/-- Where BAR2 stands in the numbers by which a command names an offset: BAR0's offsets lie below it. -/
def bar2 : Nat := 2 ^ 30

/-- What an access of a size at an offset of a source's BAR0, or of its BAR2 (from `bar2` on), names (R349 to R351). A 16-bit SHP_SEL entry is reached by the 4-byte
access that holds two. `off` is the bit of the register at which the access starts. -/
def target (s : State) (f a size : Nat) : Target :=
  if f < mgmt ∧ bar2 ≤ a ∧ a < bar2 + 0x40000 then .doorbell (a - bar2)
  else if (size ≠ 4 ∧ size ≠ 8) ∨ a % size ≠ 0 then .wrong
  else
    match hiOffset f a with
    | some o =>
      if o < 0x40000 + 16 * vectorsOf s f then .msix (o - 0x40000)
      else if 0x48000 ≤ o ∧ o < 0x48000 + ceilDiv (vectorsOf s f) 64 * 8 then .pba (o - 0x48000)
      else .nothing
    | none =>
      match (toPf0 f a).bind (fun p => (regAt p).map (fun k => (p, k))) with
      | none => .nothing
      | some (p, k) =>
        let w := k.info.wd
        if w = 16 then
          if size = 8 then .wrong else .regs [(k, 0), (⟨k.info, k.i, k.j + 1⟩, 16)] 0
        else if w < (p - k.base) * 8 + size * 8 then .wrong
        else .regs [(k, 0)] ((p - k.base) * 8)

/-! Fields that show what the module holds elsewhere. -/

/-- The 64 bytes of a log entry (Table 16-9). -/
def entryBytes (e : LogEntry) : List Byte :=
  let b := leBytes 8 e.time ++ leBytes 2 e.code ++ leBytes 1 e.status.val ++ leBytes 1 e.flags ++ leBytes 1 e.fn ++ leBytes 1 e.unitKind ++
    leBytes 2 e.unit_ ++ leBytes 4 e.context ++ leBytes 4 e.object ++ leBytes 8 e.address ++ padTo 16 e.detail ++ leBytes 2 e.lost ++
    leBytes 2 e.epoch ++ leBytes 10 0
  b ++ leBytes 2 (crc16 b)

/-- Eight bytes of the entry at a log's HEAD. With the log empty the entry is what the log's memory holds, which is not given: a free
value.
DEDUCED (unsafe in part): log entry 97. -/
def headEntry (s : State) (l : Log) (j : Nat) : Nat :=
  match l.entries with
  | e :: _ => fieldAt (entryBytes e) (8 * j) 8
  | [] => Config.freeNat (s.freeCtr + j) % 2 ^ 64

/-- The hardware context of the op in progress on a tile: the one that has claimed a stream there. An op that waits to be bound, as one does
while the tile drains (Table 5-6), is not in progress. -/
def tileOp (s : State) (t : Nat) : Option Nat :=
  (s.tl.streams.filterMap (fun p => if bindTile s (p.1 / 4) = t then p.2.claim.bind (fun c => (s.ctx? c.1).map (·.hw)) else none)).head?

/-- Is a stream of a tile in progress? -/
def tileStreams (s : State) (t : Nat) : Bool :=
  s.tl.streams.any (fun p => p.1 / 4 == t && match descAt s p.2.fn p.2.desc with | some d => decide (p.2.next < d.batts) | none => p.2.claim.isSome)

/-- TILE_CTL.IDLE (Table 5-6). -/
def tileIdle (s : State) (t : Nat) : Bool := (tileOp s t).isNone && !tileStreams s t

/-- NBU_STACK_CTL.IDLE (Table 7-10): no command or stride of the stack waits for its governor. The controller's own transfers are neither. -/
def stackIdle (s : State) (k : Nat) : Bool := match Tab.find? k s.nbu.perStack with | some x => x.held.all (·.1) | none => true

/-- The NBU that NBU_SEL names: stack × 512 + NBU. -/
def selNbu (s : State) : Nat := s.fld R.NBU_SEL.STACK * 512 + s.fld R.NBU_SEL.NBU

/-- Contexts in a state. -/
def ctxsIn (s : State) (st : CtxSt) : Nat := s.sch.ctxs.countP (fun p => p.2.st == st)

/-- A sum over the 64 functions. -/
def overFns (g : Nat → Nat) : Nat := ((List.range 64).map g).foldl (· + ·) 0

/-- The queue descriptor of Table 14-3. The cells a queue's pointers lie in are the pool's own choice: free values.
DEDUCED (unsafe in part): log entry 97. -/
def queueDescriptor (s : State) (q : Nat) : List Byte :=
  let ptr (k p : Nat) : List Byte := leBytes 2 (Config.freeNat (s.freeCtr + k)) ++ leBytes 1 (p % 256) ++ leBytes 1 0
  match shownQueue s q with
  | none => leBytes 2 q ++ leBytes 30 0
  | some x =>
    leBytes 2 q ++ leBytes 1 (1 + 4 * bit x.slots + 8 * bit x.marked + 16 * x.action + 64 * bit x.statEn + 128 * bit x.fixed) ++
      leBytes 1 (x.fn + 64 * bit x.module_) ++ ptr 0 x.head ++ ptr 1 x.tail ++ ptr 2 x.mark ++ leBytes 4 x.depth ++ leBytes 4 x.reserve ++
      leBytes 4 x.limit ++ leBytes 4 x.timeout

/-- A statistic of the queue that QSTAT_SEL names.
DEDUCED (unsafe): log entry 82. -/
def qstat (s : State) (g : Queue → Nat) : Nat := match shownQueue s (s.fld R.QSTAT_SEL.QUEUE) with | some x => g x | none => 0

/-- Pages that this module holds in T3. -/
def borrowed (s : State) : Nat := s.pg.ptes.countP (fun p => p.2.st == .t3)

/-- A constellation slot's value. -/
def constOf (s : State) (j : Nat) (g : Constellation → Nat) : Nat := match Tab.find? j s.sec.sealed with | some c => g c | none => 0

/-- The fields that show state held elsewhere, with what each reads. -/
def derived : List (Fld × (State → Nat → Nat → Nat)) := [
  (R.ID_SERIAL.SERIAL, fun _ _ _ => Config.fused 0),
  (R.TILE_CTL.IDLE, fun s t _ => bit (tileIdle s t)),
  (R.EXP_STAT.IN_FLIGHT, fun s t _ => (battsInFlight s t).length),
  (R.TILE_STAT.CONTEXT, fun s t _ => (tileOp s t).getD 0),
  (R.NBU_STACK_CTL.IDLE, fun s k _ => bit (stackIdle s k)),
  (R.NBU_INFO.FAIL_COUNT, fun s _ _ => min 3 (within s.now (Tab.get [] (selNbu s) s.flt.nbuFails)).length),
  (R.NBU_INFO.RETIRED, fun s _ _ => bit (nbuRetired s (s.fld R.NBU_SEL.STACK) (s.fld R.NBU_SEL.NBU))),
  (R.NBU_INFO.RETRIES, fun s _ _ => min R.NBU_INFO.RETRIES.max (Tab.get 0 (selNbu s) s.nbu.retries)),
  (R.NBU_INFO.SUSPENSIONS, fun s _ _ => min R.NBU_INFO.SUSPENSIONS.max (Tab.get 0 (selNbu s) s.nbu.suspensions)),
  (R.PAGE_CTL.SCRUB_BUSY, fun s _ _ => bit (scrubBusy s)),
  (R.PAGE_STAT.T1_FREE, fun s _ _ => t1Free s),
  (R.PAGE_STAT.T2_FREE, fun s _ _ => t2Free s),
  (R.PAGE_SYS.SYS_PAGES, fun s _ _ => sysFrames s),
  (R.PAGE_T3_STAT.BORROWED, fun s _ _ => borrowed s),
  (R.PAGE_T3_STAT.LENT, fun s _ _ => s.pg.lent.length),
  (R.PAGE_T3_STAT.OFFERED, fun s _ _ => (s.pg.offers.map (fun o => o.2.gib)).foldl (· + ·) 0),
  (R.FN_T1_PAGES, fun s f _ => fnT1 s f),
  (R.FN_T2_GRANULES, fun s f _ => fnT2 s f),
  (R.FN_T3_PAGES, fun s f _ => fnT3 s f),
  (R.FN_PIN_PAGES, fun s f _ => pinnedOf s f),
  (R.SCHED_STAT.RESIDENT, fun s _ _ => s.sch.ctxs.countP (fun p => p.2.resident)),
  (R.SCHED_STAT.READY, fun s _ _ => ctxsIn s .ready),
  (R.SCHED_STAT.RUNNING, fun s _ _ => s.sch.ctxs.countP (fun p => p.2.sequencer.isSome)),
  (R.SCHED_STAT.PARKED, fun s _ _ => ctxsIn s .parked),
  (R.FN_CTX_HW, fun s f _ => residentOf s f),
  (R.FN_CTX_PARKED, fun s f _ => parkedOf s f),
  (R.HI_STAT.NUM_VFS, fun s _ _ => s.host.numVfs),
  (R.HI_OVF_STAT.HELD, fun s _ _ => overFns (heldOf s)),
  (R.HI_OVF_STAT.RESERVED, fun s _ _ => overFns (reservedOf s)),
  (R.HI_RING_STAT.FETCHED, fun s f r => (s.ring f r).fetched),
  (R.HI_RING_STAT.IDLE, fun s f r => bit (s.ring f r).acc.isEmpty),
  (R.HI_RING_CQ.PRODUCED, fun s f r => (s.ring f r).produced),
  (R.HI_RING_CQ.HELD, fun s f r => (s.ring f r).held.length),
  (R.HI_FN_STAT.RESERVED, fun s f _ => reservedOf s f),
  (R.HI_FN_STAT.HELD, fun s f _ => heldOf s f),
  (R.COMB_STAT.USED, fun s _ _ => s.fab.comb.length + s.attn.colls.length),
  (R.COMB_STAT.RESERVED_ENTRIES, fun s _ _ => combReserved s),
  (R.EP_STAT.RESIDENT, fun s _ _ => residents s),
  (R.EP_STAT.TOTAL, fun s _ _ => s.tr.eps.length),
  (R.EP_STAT.MISSQ_PD0, fun s _ _ => missCells s 0),
  (R.EP_STAT.MISSQ_PD1, fun s _ _ => missCells s 1),
  (R.FN_EP, fun s f _ => epsOf s f),
  (R.FN_PREPOST, fun s f _ => s.tr.pre.countP (fun p => p.fn == f)),
  (R.FN_REGIONS, fun s f _ => s.tr.regions.countP (fun p => p.1 / 2 ^ 24 == f && p.2.used)),
  (R.QM_POOL_STAT.FREE, fun s d _ => freeCells s d),
  (R.QM_POOL_STAT.RESERVED, fun s d _ => reservedCells s d),
  (R.QM_POOL_STAT.SHARED_USED, fun s d _ => sharedUsed s d),
  (R.QD_DATA.DESCRIPTOR, fun s i _ => fieldAt (queueDescriptor s (s.fld R.QD_SEL.QUEUE)) (8 * i) 8),
  (R.QSTAT_DEPTH.MIN, fun s _ _ => qstat s (·.depthMin)),
  (R.QSTAT_DEPTH.MAX, fun s _ _ => qstat s (·.depthMax)),
  (R.QSTAT_DELAY.MIN, fun s _ _ => qstat s (·.delayMin)),
  (R.QSTAT_DELAY.MAX, fun s _ _ => qstat s (·.delayMax)),
  (R.QSTAT_AVG.AVG_DEPTH, fun s _ _ => qstat s (fun x => x.depthSum / x.samples)),
  (R.QSTAT_AVG.AVG_DELAY, fun s _ _ => qstat s (fun x => x.delaySum / x.samples)),
  (R.QSTAT_CNT.SAMPLES, fun s _ _ => min (2 ^ 32 - 1) (qstat s (·.samples))),
  (R.FN_QCELLS, fun s f _ => fnQCells s f),
  (R.SHQ_STAT.TOKENS, fun s q _ => (refill s q).tokens / 8000),
  (R.SYNC_STAT.ARMED, fun s _ _ => s.sch.triggers.length),
  (R.SEC_STAT.CLAIMED, fun s _ _ => bit s.sec.claimed),
  (R.SEC_STAT.FW_SLOT, fun s _ _ => s.sec.running),
  (R.SEC_STAT.SVN, fun s _ _ => s.sec.svn),
  (R.SEC_STAT.SEALED, fun s _ _ => s.sec.sealed.length),
  (R.SEC_STAT.RELEASED, fun s _ _ => s.sec.sealed.countP (fun c => c.2.released)),
  (R.SEC_ID.ID_DIGEST, fun _ i _ => Config.fused 1 / 2 ^ (64 * i)),
  (R.SEC_CONST.CONSTELLATION_ID, fun s j _ => constOf s j (·.id)),
  (R.SEC_CONST.KEY_GEN, fun s j _ => constOf s j (·.keyGen)),
  (R.SEC_CONST_HI.VALID, fun s j _ => constOf s j (fun _ => 1)),
  (R.SEC_CONST_HI.RELEASED, fun s j _ => constOf s j (fun c => bit c.released)),
  (R.SEC_CONST_HI.MEMBERS, fun s j _ => constOf s j (fun c => c.members.length - 1)),
  (R.FLT_PROT_STAT.PROT_USED, fun s _ _ => copyUnits s),
  (R.FLT_MOD_HEAD.HEAD, fun s _ _ => s.flt.modLog.head),
  (R.FLT_MOD_TAIL.TAIL, fun s _ _ => s.flt.modLog.tail),
  (R.FLT_MOD_ENTRY.ENTRY, fun s j _ => headEntry s s.flt.modLog j),
  (R.FLT_FN_HEAD.HEAD, fun s f _ => (s.fnLog f).head),
  (R.FLT_FN_TAIL.TAIL, fun s f _ => (s.fnLog f).tail),
  (R.FLT_FN_ENTRY.ENTRY, fun s f j => headEntry s (s.fnLog f) j)]

/-- What a field of an entry reads: a field that shows state held elsewhere, or the value it holds. A WO field reads 0 (R4). -/
def viewFld (s : State) (f : Fld) (i j : Nat) : Nat :=
  match derived.find? (fun d => d.1 = f) with
  | some d => d.2 s i j % 2 ^ f.wd
  | none => if f.acc = .wo then 0 else s.fld f i j

/-- A register's value: its fields in their places, reserved bits 0 (R8). -/
def regVal (s : State) (k : RegRef) : Nat := (k.info.flds.map (fun f => viewFld s f k.i k.j * 2 ^ f.lo)).foldl (· + ·) 0

/-! Reads (R4, R350). -/

/-- Does an access of `n` bits from bit `off` of a register touch a field? -/
def inAccess (off n : Nat) (f : Fld) : Bool := decide (f.lo < off + n) && decide (off < f.lo + f.wd)

/-- The RC fields that a read touched are cleared; a read of QSTAT_AVG restarts the statistics it averages (R284).
DEDUCED (unsafe in part): log entry 97. -/
def clearRc (k : RegRef) (off n : Nat) (s : State) : State :=
  let fs := k.info.flds.filter (fun f => f.acc = .rc && inAccess off n f)
  if fs.any (fun f => f = R.QSTAT_AVG.AVG_DEPTH || f = R.QSTAT_AVG.AVG_DELAY) then
    match s.queue? (s.fld R.QSTAT_SEL.QUEUE) with
    | some x => s.setQueue (s.fld R.QSTAT_SEL.QUEUE) x.restartStats
    | none => s
  else fs.foldl (fun s f => s.setFld f 0 k.i k.j) s

/-- A word of a function's MSI-X table. -/
def msixRead (s : State) (f off n : Nat) : Nat :=
  let w (o : Nat) : Nat := msixWord s f (o / 16) (o % 16 / 4)
  if n = 8 then w off + w (off + 4) * 2 ^ 32 else w off

/-- Pending bits of a function's vectors, from byte `off` of its array on. -/
def pbaRead (s : State) (f off n : Nat) : Nat :=
  ((List.range (8 * n)).map (fun b => if NSet.has (f * 2048 + off * 8 + b) s.host.msixPba then 2 ^ b else 0)).foldl (· + ·) 0

/-- Is a register an entry of a host window table? The management controller's path has no access to one (R5, R202). -/
def isWindow (k : RegRef) : Bool := k.info.row == 9 && decide (0x781800 ≤ k.info.addr)

/-- Is a read one of a VF's copy of a module-wide register, which is read-only (R307)? It clears nothing.
DEDUCED (unsafe in part): log entry 97. -/
def sharedCopy (f : Nat) (k : RegRef) : Bool := f != 0 && f != mgmt && k.info.row == 16

/-- A read of `size` bytes at an offset of a source's BAR0 (a doorbell page of BAR2 reads 0, R205): the value it returns and the state after
it. The management controller's path reads 0 where a window entry lies. -/
def regRead (f a size : Nat) (s : State) : Nat × State :=
  match target s f a size with
  | .nothing => (0, s)
  | .wrong => (0, s.incFld R.ID_BAD_ACCESS.COUNT)
  | .msix o => (msixRead s f o size, s)
  | .pba o => (pbaRead s f o size, s)
  | .doorbell _ => (0, s)
  | .regs rs off =>
    if f = mgmt ∧ rs.any (fun r => isWindow r.1) then (0, s) else
    let v := (rs.map (fun r => regVal s r.1 / 2 ^ off * 2 ^ r.2)).foldl (· + ·) 0 % 2 ^ (8 * size)
    (v, rs.foldl (fun s r => if sharedCopy f r.1 then s else clearRc r.1 off (8 * size) s) (s.takeFree 8))

end Sys2Proof.Machine
end

