-- ==== Sys2Proof/Machine/RegOps.lean ====
section
/-! DEFINITION. Register writes (R4 to R6, R350, R354, R355): who may write, locks, ranges, the rules a configuration obeys, and what a
write starts. -/

namespace Sys2Proof.Machine

open Sys2Proof

/-- A write as one register entry sees it: the source (a function, or `mgmt`), the entry, the first bit and the bits written, and the value
with bit b of the register in its bit b. -/
structure Wr where
  src : Nat
  k : RegRef
  off : Nat
  n : Nat
  v : Nat
  deriving DecidableEq, Repr

/-- Does the write touch a field? -/
def Wr.has (w : Wr) (x : Fld) : Bool := inAccess w.off w.n x

/-- What a field takes from the write: a field written in part keeps its other bits. -/
def Wr.val (w : Wr) (s : State) (x : Fld) : Nat :=
  let lo := max x.lo w.off
  let hi := min (x.lo + x.wd) (w.off + w.n)
  setBits (s.fld x w.k.i w.k.j) (hi - 1 - x.lo) (lo - x.lo) (w.v / 2 ^ lo)

/-- Does the write write 1 to a one-bit field? -/
def Wr.one (w : Wr) (x : Fld) : Bool := w.has x && bitAt w.v x.lo

/-- The fields of an access code that the write touches. -/
def Wr.flds (w : Wr) (a : Access) : List Fld := w.k.info.flds.filter (fun x => x.acc = a && w.has x)

/-! Locks (R354). -/

/-- The LOCK bit that covers a register: its field and entry. -/
def lockOf (k : RegRef) : Option (Fld × Nat) :=
  match k.info.row with
  | 3 => some (R.TILE_CTL.LOCK, k.i)
  | 5 => some (R.NBU_STACK_CTL.LOCK, if k.info.addr < 0x301000 then k.i else 0)
  | 7 => some (R.PAGE_CTL.LOCK, 0)
  | 8 => some (R.SCHED_CTL.LOCK, 0)
  | 9 => some (R.HI_CTL.LOCK, 0)
  | 10 => some (R.PORT_CTL.LOCK, k.i)
  | 11 => some (if 0x908000 ≤ k.info.addr then R.COMB_CTL.LOCK else R.ROUTE_CTL.LOCK, 0)
  | 12 => some (R.EP_CTL.LOCK, 0)
  | 13 => some (R.QM_CTL.LOCK, 0)
  | 14 => some (R.SHP_CTL.LOCK, 0)
  | 15 => some (R.SYNC_CTL.LOCK, 0)
  | 17 => some (if 0xf08000 ≤ k.info.addr then R.FLT_CTL.LOCK else R.LVL_CTL.LOCK, 0)
  | _ => none

/-- Is a register locked? -/
def locked (s : State) (k : RegRef) : Bool := match lockOf k with | some (x, i) => s.flag x i | none => false

/-- A write to an RWL field discarded under LOCK: counted and recorded. -/
def lockDiscard (s : State) (w : Wr) : State :=
  ((s.incFld R.ID_LOCK_DISC.COUNT).setFld R.ID_LOCK_ADDR.OFFSET (w.k.base + w.off / 8)).setFld R.ID_LOCK_ADDR.SOURCE (bit (w.src == mgmt))

/-- The registers whose RWL fields, and whose LOCK, only the management controller writes (R242, R270, R285, R327, R348, R354). -/
def mgmtOnly (k : RegRef) : Bool :=
  match k.info.row with
  | 10 => true
  | 11 => decide (k.info.addr < 0x908000)
  | 12 => k.info.addr == 0xa00000 || decide (0xa01100 ≤ k.info.addr)
  | 13 => true
  | 14 => true
  | 17 => true
  | _ => false

/-! Rejected writes. -/

/-- The CFG_REJECT bit that a discarded write sets.
DEDUCED (unsafe): log entry 99. -/
def rejectAt (s : State) (k : RegRef) : State :=
  match k.info.row with
  | 1 => s.setFld R.LVL_ERR.CFG_REJECT 1
  | 3 => s.setFld R.TILE_ERR.CFG_REJECT 1 k.i
  | 5 => s.setFld R.NBU_ERR.CFG_REJECT 1 (if k.info.addr < 0x301000 then k.i else 0)
  | 7 => s.setFld R.PAGE_ERR.CFG_REJECT 1
  | 8 => s.setFld R.SCHED_ERR.CFG_REJECT 1
  | 9 => if k.info.addr = 0x700000 ∨ k.info.addr = 0x781000 then s.setFld R.HI_ERR.CFG_REJECT 1 else s.setFld R.HI_FN_STAT.CFG_REJECT 1 k.i
  | 10 => s.setFld R.PORT_ERR.CFG_REJECT 1 k.i
  | 11 =>
    if 0x908000 ≤ k.info.addr then s.setFld R.COMB_ERR.CFG_REJECT 1
    else if 0x906000 ≤ k.info.addr then s.setFld R.FLT_ERR.CFG_REJECT 1
    else s.setFld R.ROUTE_ERR.CFG_REJECT 1
  | 12 => s.setFld R.EP_ERR.CFG_REJECT 1
  | 13 => s.setFld R.QM_ERR.CFG_REJECT 1
  | 14 => s.setFld R.SHP_ERR.CFG_REJECT 1
  | 15 => s.setFld R.SYNC_ERR.CFG_REJECT 1
  | 17 => if 0xf08000 ≤ k.info.addr then s.setFld R.FLT_ERR.CFG_REJECT 1 else s.setFld R.LVL_ERR.CFG_REJECT 1
  | _ => s

/-- The ranges of the fields that do not take every value of their width: lowest and highest. -/
def ranges : List (Fld × (Nat × Nat)) := [
  (R.PWR_CTL.NAP_IDLE, 1, 65535), (R.TILE_WIN.WIN_SIZE, 0, 28), (R.TILE_WIN.WIN_BUFS, 0, 2), (R.TILE_STREAM.MAX_OUTSTANDING, 1, 15),
  (R.NBU_GOV_BUDGET.ALLOWANCE, 0, 4000000), (R.NBU_GOV_FLOOR.EXT_FLOOR, 0, 64), (R.NBU_GOV_FLOOR.INT_FLOOR, 0, 64),
  (R.NBU_REF_CTL.POSTPONE_MAX, 0, 4), (R.NBU_SCRUB.PERIOD, 1, 168), (R.NBU_SELFCHECK.PERIOD, 1, 1440),
  (R.NBU_SELFCHECK.FAIL_LIMIT, 1, 3), (R.NBU_SELFCHECK.PC_UE_LIMIT, 1, 15), (R.PAGE_AGE.AGE_PERIOD, 1, 65535),
  (R.PAGE_AGE.DEMOTE_MIN_AGE, 1, 7), (R.ATTN_CTL.REMOTE_TIMEOUT, 1, 65535), (R.SCHED_CTL.QUANTUM, 1, 255),
  (R.SCHED_CTL.SLOT_COUNT, 0, 64), (R.SCHED_GUARD.UNPARK_WAIT, 1, 65535), (R.SCHED_SLOT.LEN, 0, 10000),
  (R.FN_CTX_HW_CEIL, 0, 4096), (R.FN_CTX_PARK_CEIL, 0, 262144), (R.FN_SCHED.WEIGHT, 1, 255), (R.FN_TRIG_CEIL, 0, 65536),
  (R.SYNC_FN_COUNT.SYNC_COUNT, 0, 131072), (R.HI_CTL.VF_VECTORS, 1, 31), (R.HI_SQ_BASE.SQ_LOG2, 4, 16), (R.HI_CQ_BASE.CQ_LOG2, 4, 16),
  (R.HI_FN_LIMIT.RINGS_MAX, 0, 64), (R.HI_FN_LIMIT.OVF_QUOTA, 0, 1048576), (R.PORT_CTL.VARIANT, 0, 2), (R.PORT_CTL.MAX_WIDTH, 0, 2),
  (R.PORT_LINK_CFG.REPLAY_WAIT, 1, 255), (R.PORT_LANE_CFG.BURST_SYM, 1, 65535), (R.PORT_VC_CFG.RX_CELLS_0, 1, 255),
  (R.PORT_VC_CFG.RX_CELLS_1, 1, 255), (R.PORT_VC_CFG.RX_CELLS_2, 1, 255), (R.PORT_VC_CFG.RX_CELLS_3, 1, 255),
  (R.PORT_VC_CFG.RX_CELLS_4, 1, 255), (R.PORT_VC_CFG.RX_CELLS_5, 1, 255), (R.PORT_VC_CFG.RX_CELLS_6, 1, 255),
  (R.PORT_VC_CFG.RX_CELLS_7, 1, 255), (R.ROUTE_CTL.TOPOLOGY, 0, 2), (R.TIME_CTL.PERIOD, 1, 65535), (R.MER_CTL.DRAIN, 100, 65535),
  (R.COMB_CTL.COLL_TIMEOUT, 1, 65535), (R.EP_TIMING.ACK_TIMEOUT, 1, 65535), (R.EP_TIMING.RETRY_LIMIT, 1, 15), (R.EP_MISS.BACKOFF, 1, 65535),
  (R.FN_EP_CEIL, 0, 1048576), (R.FN_REGIONS_MAX, 0, 16777216), (R.FN_PREPOST_CEIL, 0, 65536), (R.QM_CTL.SHARED_MIN, 0, 32768),
  (R.QM_BATCH.TIMEOUT, 1, 65000), (R.QTEL_BASE.LOG2, 10, 20), (R.FN_QCELL_CEIL, 0, 65536), (R.SHP_PORT_CLS.WEIGHT_0, 1, 127),
  (R.SHP_PORT_CLS.WEIGHT_1, 1, 127), (R.SHP_PORT_CLS.WEIGHT_2, 1, 127), (R.SHP_PORT_CLS.WEIGHT_3, 1, 127), (R.SHP_PORT_CLS.WEIGHT_4, 1, 127),
  (R.SHP_PORT_CLS.WEIGHT_5, 1, 127), (R.SHP_PORT_CLS.WEIGHT_6, 1, 127), (R.SHP_PORT_CLS.WEIGHT_7, 1, 127),
  (R.SHP_GCL.ENTRY, 256, 256 * 10000000 + 255), (R.SHQ_CFG.RATE, 1, 800000), (R.SHQ_CFG.BURST, 4128, 16777216),
  (R.LVL_CTL.TCLK_MIN, 0, 20), (R.LVL_CTL.TCLK_MAX, 0, 20), (R.LVL_SET.SLEW, 1, 4095), (R.LVL_FILL.MAX_W, 0, 1000), (R.PWR_CEIL.CEIL, 800, 2100),
  (R.FLT_CTL.TILE_FAIL_LIMIT, 1, 3), (R.FLT_CTL.T2_DIE_LIMIT, 1, 255)]

/-- Does a field take a value? -/
def inRange (x : Fld) (v : Nat) : Bool :=
  match ranges.find? (fun r => r.1 = x) with
  | some (_, lo, hi) => decide (lo ≤ v) && decide (v ≤ hi)
  | none => true

/-- A sum of a field over the functions. -/
def fnSum (s : State) (x : Fld) : Nat := overFns (fun f => s.fld x f)

/-- The reserves of a tier after a write to function f (R106): not above the ceiling, and a raise only while they fit the pool. -/
def reservesOk (s t : State) (ceil res : Fld) (pool f : Nat) : Bool :=
  decide (t.fld res f ≤ t.fld ceil f) && (decide (t.fld res f ≤ s.fld res f) || decide (fnSum t res ≤ pool))

/-- The T1 pool: the frames in service outside the system area. -/
def t1Pool (s : State) : Nat := totalFrames - sysFrames s - 32768 * s.fld R.FLT_STAT.PCS

/-- The T2 pool: the granules in service. -/
def t2Pool (s : State) : Nat := totalGranules - 12582912 * s.flt.retRanks.length

/-- Would fixed-slot scheduling run with a slot that is not set (R197)? -/
def slotsOk (t : State) : Bool :=
  !t.flag R.SCHED_CTL.POLICY ||
    (decide (0 < t.fld R.SCHED_CTL.SLOT_COUNT) && (List.range (t.fld R.SCHED_CTL.SLOT_COUNT)).all (fun j => t.fld R.SCHED_SLOT.LEN j != 0))

/-- The counter ranges of the functions (R197): inside the 131,072 counters, and none overlapping function f's.
DEDUCED (unsafe): log entry 116. -/
def syncRangesOk (t : State) (f : Nat) : Bool :=
  let b (g : Nat) : Nat := t.fld R.SYNC_FN_BASE.SYNC_BASE g
  let n (g : Nat) : Nat := t.fld R.SYNC_FN_COUNT.SYNC_COUNT g
  decide (b f + n f ≤ 131072) &&
    (List.range 64).all (fun g => g == f || n g == 0 || n f == 0 || decide (b g + n g ≤ b f) || decide (b f + n f ≤ b g))

/-- The receive buffers of the ports of port p's die, in units of 16 cells. -/
def rxSum (t : State) (p : Nat) : Nat :=
  let per (q : Nat) : Nat := ((List.range 8).map (fun v => t.fld { R.PORT_VC_CFG.RX_CELLS_0 with lo := 8 * v } q)).foldl (· + ·) 0
  ((List.range 8).map (fun i => per (p / 8 * 8 + i))).foldl (· + ·) 0

/-- The rules that a configuration obeys beyond the ranges of its fields: `s` before the write, `t` with the fields written.
DEDUCED (unsafe): log entry 100. -/
def rulesOk (s t : State) (w : Wr) : Bool :=
  let i := w.k.i
  match w.k.info.addr with
  | 0x100004 => s.flag R.TILE_CTL.DRAIN i && tileIdle s i &&
      (t.fld R.TILE_WIN.WIN_SIZE i == 0 || decide (2 ^ t.fld R.TILE_WIN.WIN_BUFS i ≤ t.fld R.TILE_WIN.WIN_SIZE i))
  | 0x300008 => decide (t.fld R.NBU_GOV_FLOOR.EXT_FLOOR i + t.fld R.NBU_GOV_FLOOR.INT_FLOOR i ≤ 64)
  | 0x500008 => decide (t.fld R.PAGE_LOWATER.FRAMES < t.fld R.PAGE_HIWATER.FRAMES)
  | 0x50000c => decide (t.fld R.PAGE_LOWATER.FRAMES < t.fld R.PAGE_HIWATER.FRAMES)
  | 0x500010 => decide (t.fld R.PAGE_T2_WATER.LOW < t.fld R.PAGE_T2_WATER.HIGH)
  | 0x501010 => reservesOk s t R.FN_T1_CEIL R.FN_T1_RESERVE (t1Pool s) i
  | 0x501014 => reservesOk s t R.FN_T1_CEIL R.FN_T1_RESERVE (t1Pool s) i
  | 0x501018 => reservesOk s t R.FN_T2_CEIL R.FN_T2_RESERVE (t2Pool s) i
  | 0x50101c => reservesOk s t R.FN_T2_CEIL R.FN_T2_RESERVE (t2Pool s) i
  | 0x600000 => slotsOk t
  | 0x600100 => slotsOk t
  | 0x700000 => s.host.numVfs == 0 || t.fld R.HI_CTL.VF_VECTORS == s.fld R.HI_CTL.VF_VECTORS
  | 0x780000 => !s.flag R.HI_RING_CTL.ENABLE i w.k.j && (s.ring i w.k.j).acc.isEmpty
  | 0x780008 => !s.flag R.HI_RING_CTL.ENABLE i w.k.j && (s.ring i w.k.j).acc.isEmpty
  | 0x781000 => decide (fnSum t R.HI_FN_LIMIT.OVF_QUOTA ≤ 1048576)
  | 0x800000 => !t.flag R.PORT_CTL.LOOPBACK i || t.fld R.ROUTE_CTL.TOPOLOGY == 0
  | 0x800008 => decide (rxSum t i * 16 ≤ 32768)
  | 0xb00000 => decide (reservedCells t 0 + t.fld R.QM_CTL.SHARED_MIN ≤ 65536) && decide (reservedCells t 1 + t.fld R.QM_CTL.SHARED_MIN ≤ 65536)
  | 0xb000c0 => t.fld R.QTEL_BASE.ADDR * 4096 % (16 * 2 ^ t.fld R.QTEL_BASE.LOG2) == 0
  | 0xc00108 =>
    (!t.flag R.SHP_GATE_CTL.GATE_EN i || gateListOk (gateList t i (t.fld R.SHP_GATE_CTL.ACTIVE i))) &&
      (!(w.one R.SHP_GATE_CTL.SWAP || s.flag R.SHP_GATE_CTL.SWAP i) || gateListOk (gateList t i (1 - t.fld R.SHP_GATE_CTL.ACTIVE i)))
  | 0xc00800 =>
    !t.flag R.SHP_GATE_CTL.GATE_EN i || decide (t.fld R.SHP_GATE_BASE.OFFSET i < gateCycle (gateList t i (t.fld R.SHP_GATE_CTL.ACTIVE i)))
  | 0xc08000 =>
    (!s.flag R.SHP_GATE_CTL.GATE_EN i || w.k.j / 256 != s.fld R.SHP_GATE_CTL.ACTIVE i) &&
      (!s.flag R.SHP_GATE_CTL.SWAP i || gateListOk (gateList t i (1 - s.fld R.SHP_GATE_CTL.ACTIVE i)))
  | 0xd01000 => syncRangesOk t i
  | 0xf00000 => decide (t.fld R.LVL_CTL.TCLK_MIN ≤ t.fld R.LVL_CTL.TCLK_MAX)
  | 0xf00004 => t.fld R.LVL_SET.SET_W == s.fld R.LVL_SET.SET_W ||
      (decide (800 ≤ t.fld R.LVL_SET.SET_W) && decide (t.fld R.LVL_SET.SET_W * 20 ≤ effCeil s * 19))
  | 0xf0000c => decide (t.fld R.PWR_CEIL.CEIL ≤ t.fld R.PWR_CEIL.FUSED)
  | _ => true

/-! Writes with an action of their own. -/

/-- A tile's streams and hints abandoned by a change of its window (R78).
DEDUCED (unsafe): log entry 101. -/
def abandonStreams (s : State) (t : Nat) : State :=
  { s with tl := { s.tl with streams := s.tl.streams.filter (fun p => p.1 / 4 != t), hints := s.tl.hints.filter (fun p => p.1 / 4 != t) } }

/-- QM_FLUSH written: with GO it flushes the queue named, unless that is a fixed queue (R276). -/
def flushWrite (value : Nat) (s : State) : State :=
  if !bitAt value 16 then s
  else if queueFixed (bits value 15 0) then s.setFld R.QM_ERR.CFG_REJECT 1
  else flushQueue s (bits value 15 0)

/-- A log's HEAD written: the entries up to it are consumed. A value outside HEAD to TAIL is discarded (log entry 41).
DESIGN CHOICE (unsafe): log entry 41. -/
def Log.consume (l : Log) (v : Nat) : Log :=
  let n := (v + 2 ^ 32 - l.head) % 2 ^ 32
  if n ≤ l.entries.length then { l with entries := l.entries.drop n, head := v % 2 ^ 32 } else l

/-- A bucket reloaded by a write of its SHQ_CFG (R282).
DEDUCED (unsafe): log entry 80. DEDUCED (unsafe): log entry 100. -/
def reloadBucket (s : State) (q : Nat) : State :=
  let n := if s.flag R.SHQ_CFG.TOKEN_INIT q then s.fld R.SHQ_CFG.BURST q * 8000 else 0
  { s with qm := { s.qm with buckets := Tab.put ⟨0, 0⟩ q ⟨n, s.now⟩ s.qm.buckets } }

/-- Level mode turned on (R333): its target starts from the current draw.
DEDUCED (unsafe): log entry 102. -/
def levelOn (s : State) : State :=
  s.updPow (fun p => { p with target := min (s.fld R.PWR_MEAS.WINDOW_W * 10) (ceil95 s),
                              lvlTclk := min (s.fld R.LVL_CTL.TCLK_MAX) (max (s.fld R.LVL_CTL.TCLK_MIN) (s.fld R.CLK_STAT.TCLK)) })

/-- TCLK brought to what level mode or TCLK_MAX allows, unless a ceiling or a soft throttle holds it down (R335, R336).
DEDUCED (unsafe): log entry 102. -/
def followTclk (s : State) : State :=
  let v := min (tclkCall s) (s.fld R.LVL_CTL.TCLK_MAX)
  if v < tclkAim s then askTclk s v
  else if s.pow.ceil = 0 ∧ !s.flag R.THERM_STAT.SOFT_THROTTLE ∧ !s.pow.rising then askTclk s v
  else s

/-- What an applied write starts: `s` before it, `t` after.
DEDUCED (unsafe): log entry 100. -/
def afterWrite (s t : State) (w : Wr) : State :=
  let i := w.k.i
  match w.k.info.addr with
  | 0x10000 =>
    if t.flag R.PWR_CTL.DEEP_REQ && !s.flag R.PWR_CTL.DEEP_REQ then askDeep (t.setFld R.PWR_CTL.DEEP_REQ 0) else t
  | 0x100004 => abandonStreams t i
  | 0x600000 => if t.flag R.SCHED_CTL.POLICY then takeSlot t else t
  | 0x600100 => if t.flag R.SCHED_CTL.POLICY then takeSlot t else t
  | 0x781008 => flushEvents t i
  | 0x781020 => t.setFld R.HI_WIN_SYNC.SYNC 0 i
  | 0x800000 =>
    if s.flag R.PORT_CTL.ENABLE i && !t.flag R.PORT_CTL.ENABLE i then (if portLive t i then downPort t i 0 else t)
    else if !s.flag R.PORT_CTL.ENABLE i && t.flag R.PORT_CTL.ENABLE i && t.fld R.PORT_STAT.STATE i == 0 then startTraining t i
    else t
  | 0x904000 => chooseParent (if s.flag R.TIME_CTL.ROOT && !t.flag R.TIME_CTL.ROOT then t.setFld R.TIME_STAT.LOCKED 0 else t)
  | 0xc10000 => pumpFabric (reloadBucket t i)
  | 0xf00000 =>
    let t := if t.flag R.LVL_CTL.ENABLE && !s.flag R.LVL_CTL.ENABLE then levelOn t else t
    followTclk t
  | 0xf0000c => dropTarget t
  | _ => if w.k.info.row = 14 ∨ (w.k.info.row = 11 ∧ w.k.info.addr < 0x904000) then pumpFabric t else t

/-! The write. -/

/-- The RO fields that the management controller loads (R5).
DEDUCED (unsafe): log entry 107. -/
def fwLoaded : List Fld := [R.ID_FW.VERSION, R.ID_FW.SLOT, R.CAP_COMPUTE.TILES, R.CAP_COMPUTE.NBUS, R.CAP_COMPUTE.STACKS, R.CAP_MEM.T1_GIB, R.CAP_MEM.T2_GIB,
  R.CAP_FABRIC.PORTS, R.CAP_FABRIC.LANES, R.CAP_FABRIC.TOPOLOGIES, R.CAP_FABRIC.EP_RESIDENT, R.CAP_HOST.FUNCTIONS, R.CAP_HOST.MSIX, R.CAP_HOST.CTX_HW,
  R.CAP_HOST.CTX_PARKED, R.ALERT_MGMT.MGMT, R.TILE_STAT.RETIRED, R.NBU_RETIRED.NBU_MAP, R.NBU_PC_STAT.PC_RETIRED,
  R.PAGE_RECALL.RECALL_TRANCHE, R.FLT_RET_TILE.TILE_MAP, R.FLT_RET_T2.RANK_MAP, R.FLT_RET_LANE.LANE_MAP]

/-- The fields that take the written value: RW fields, RWL fields while the register is not locked, and, on the management path, the RO
fields that firmware loads. -/
def Wr.sets (w : Wr) (s : State) : List Fld :=
  w.flds .rw ++ (if locked s w.k then [] else w.flds .rwl) ++ (if w.src = mgmt then (w.flds .ro).filter (fun x => fwLoaded.contains x) else [])

/-- The fields set.
DEDUCED (unsafe): log entry 96. -/
def Wr.apply (w : Wr) (s : State) : State := (w.sets s).foldl (fun t x => t.setFld x (w.val s x) w.k.i w.k.j) s

/-- W1S fields set and W1C fields cleared where the write has a 1. -/
def Wr.strobe (w : Wr) (s : State) : State :=
  let s := ((w.flds .w1s).filter (fun x => w.one x)).foldl (fun t x => t.setFld x 1 w.k.i w.k.j) s
  ((w.flds .w1c).filter (fun x => w.one x)).foldl (fun t x => t.setFld x 0 w.k.i w.k.j) s

/-- A change of a stack's MODE counts only if DRAIN and IDLE read 1 before the write; refused, MODE keeps its value and the write's other
fields are applied (R117). -/
def keepMode (s t : State) (w : Wr) : State :=
  let i := w.k.i
  if w.k.info.addr = 0x300000 ∧ t.fld R.NBU_STACK_CTL.MODE i ≠ s.fld R.NBU_STACK_CTL.MODE i ∧ !(s.flag R.NBU_STACK_CTL.DRAIN i && stackIdle s i) then
    rejectAt (t.setFld R.NBU_STACK_CTL.MODE (s.fld R.NBU_STACK_CTL.MODE i) i) w.k
  else t

/-- Is a write wholly PF0's to make? PF0 may not write an RWL field or set LOCK where only the management controller may.
DEDUCED (unsafe): log entry 99. -/
def pf0Barred (w : Wr) : Bool :=
  w.src == 0 && mgmtOnly w.k && (!(w.flds .rwl).isEmpty || (w.flds .w1s).any (fun x => x.lo == 0 && w.one x))

/-- May a source write a register at all (R220, R351)? A VF writes its own function page, but for HI_FN_LIMIT, and its log's HEAD.
DEDUCED (unsafe): log entry 99. -/
def mayWrite (w : Wr) : Bool :=
  if w.k.info.row = 9 ∧ 0x780000 ≤ w.k.info.addr then
    (if w.k.info.addr = 0x781000 then w.src == 0 else w.src == w.k.i)
  else w.src == 0 || w.src == mgmt || w.k.info.addr == 0xf0c000

/-- Does a write meet an RWL field under LOCK (R354)? -/
def lockHit (s : State) (w : Wr) : Bool := locked s w.k && !(w.flds .rwl).isEmpty

/-- A PF0 write that is not PF0's to make. An RWL field under LOCK counts as R354 says, with no CFG_REJECT, unless the write sets LOCK, which is
rejected in its own right.
DEDUCED (unsafe): log entry 99. -/
def pf0Discard (s : State) (w : Wr) : State :=
  let t := if lockHit s w then lockDiscard s w else s
  if lockHit s w && !(w.flds .w1s).any (fun x => x.lo == 0 && w.one x) then t else rejectAt t w.k

/-- A write of RWL, RW, W1S and W1C fields. -/
def plainWrite (w : Wr) (s : State) : State :=
  if pf0Barred w then pf0Discard s w
  else
    let t := w.apply s
    if !(w.sets s).all (fun x => inRange x (w.val s x)) || ((!(w.sets s).isEmpty || (w.k.info.addr == 0xc00108 && w.one R.SHP_GATE_CTL.SWAP)) && !rulesOk s t w) then rejectAt s w.k
    else
      let t := w.strobe (keepMode s t w)
      let t := if (w.sets s).isEmpty && (w.flds .w1s).isEmpty then t else afterWrite s t w
      if lockHit s w then lockDiscard t w else t

/-- After a write of 1 to a W1C bit of a block whose ALERT_STAT bit stays at 1, PF0 is told again (R355). -/
def tellAgain (s t : State) (w : Wr) : State :=
  let b := w.k.info.row
  if (w.flds .w1c).any (fun x => w.one x) && bitAt (s.fld R.ALERT_STAT.BLOCKS) b && bitAt (alertBits t) b && bitAt (t.fld R.ALERT_MASK.HOST) b
    then moduleEvent t else t

/-- One register entry written.
DEDUCED (unsafe): log entry 99. -/
def writeReg (s : State) (w : Wr) : State :=
  if !mayWrite w then
    (if w.k.info.addr = 0x781000 ∧ w.src = w.k.i then s.setFld R.HI_FN_STAT.CFG_REJECT 1 w.src else s)
  else
    match w.k.info.addr with
    | 0x780010 => ringCtlWrite w.k.i w.k.j w.v s
    | 0xb00020 => flushWrite w.v s
    | 0xf08080 => { s with flt := { s.flt with modLog := s.flt.modLog.consume w.v } }
    | 0xf0c000 => { s with flt := { s.flt with fnLogs := Tab.put log0 w.k.i ((s.fnLog w.k.i).consume w.v) s.flt.fnLogs } }
    | _ => tellAgain s (plainWrite w s) w

/-- A double word of a function's MSI-X table written (R218). Of vector control only the mask bit is writable; unmasking a pending vector
sends its message.
PRESUMED (unsafe): log entry 20. -/
def msixWrite (s : State) (f o v : Nat) : State :=
  let vec := o / 16
  let d := o % 16 / 4
  let x := if d = 3 then v % 2 else v % 2 ^ 32
  let s := { s with host := { s.host with msix := Tab.put (msixDefault d) (msixKey f vec d) x s.host.msix } }
  if d = 3 ∧ x = 0 ∧ NSet.has (f * 2048 + vec) s.host.msixPba then
    ({ s with host := { s.host with msixPba := NSet.del (f * 2048 + vec) s.host.msixPba } }).emit (.msix f vec)
  else s

/-- A write at an offset of a function's BAR2 (R205): a doorbell, or, anywhere else in a doorbell page, discarded as one. -/
def doorbellWrite (f o size value : Nat) (s : State) : State :=
  match o % 0x1000 with
  | 0x000 => doSqTail f (o / 0x1000) size value s
  | 0x008 => doCqHead f (o / 0x1000) size value s
  | _ => dbReject s f (o / 0x1000)

/-- A write of `size` bytes at an offset of a source's BAR0, or of its BAR2 from `bar2` on. -/
def regWrite (f a size value : Nat) (s : State) : State :=
  let v := value % 2 ^ (8 * size)
  match target s f a size with
  | .nothing => s.incFld R.ID_BAD_ACCESS.COUNT
  | .wrong => s.incFld R.ID_BAD_ACCESS.COUNT
  | .msix o =>
    let s := msixWrite s f o (v % 2 ^ 32)
    if size = 8 then msixWrite s f (o + 4) (v / 2 ^ 32) else s
  | .pba _ => s
  | .doorbell o => doorbellWrite f o size v s
  | .regs rs off => rs.foldl (fun s r => writeReg s ⟨f, r.1, off, min (8 * size) r.1.info.wd, v / 2 ^ r.2 % 2 ^ r.1.info.wd * 2 ^ off⟩) s

end Sys2Proof.Machine
end

