-- ==== Sys2Proof/Machine/RegRows.lean ====
section
/-! DEFINITION. The commands that access registers: `src` is the accessing function (0 PF0, 1 to 63 a VF) or 64 for the management
controller's path, and an address is a byte offset in that source's BAR0. -/

namespace Sys2Proof.Machine

open Sys2Proof

/-- A read, whose value goes back to the source. -/
def readReg (src addr size : Nat) (s : State) : State :=
  let r := regRead src addr size s
  r.2.emit (.readData src addr r.1)

/-- TILE_WIN_WRITE (R78): TILE_WIN of a tile written. -/
def execTileWinWrite (src tile value : Nat) (s : State) : Host.Outcome State Fault Refusal :=
  act s (if tile < 256 then regWrite src (0x100004 + 0x1000 * tile) 4 value s else s)

/-- TILE_STREAM_WRITE (R78): TILE_STREAM of a tile written. -/
def execTileStreamWrite (src tile value : Nat) (s : State) : Host.Outcome State Fault Refusal :=
  act s (if tile < 256 then regWrite src (0x100008 + 0x1000 * tile) 4 value s else s)

/-- NBU_MODE_CHANGE (R117): NBU_STACK_CTL of a stack written. -/
def execNbuModeChange (src stack value : Nat) (s : State) : Host.Outcome State Fault Refusal :=
  act s (if stack < 16 then regWrite src (0x300000 + 0x100 * stack) 4 value s else s)

/-- QM_FLUSH (R276): QM_FLUSH written; bit 16 of the value is GO. -/
def execQmFlush (src value : Nat) (s : State) : Host.Outcome State Fault Refusal := act s (regWrite src 0xb00020 4 value s)

/-- QSTAT_AVG_READ (R284). -/
def execQstatAvgRead (src : Nat) (s : State) : Host.Outcome State Fault Refusal := act s (readReg src 0xb00098 8 s)

/-- SHQ_CFG_WRITE (R282): SHQ_CFG of a shaped queue written, all 64 bits. -/
def execShqCfgWrite (src queue value : Nat) (s : State) : Host.Outcome State Fault Refusal :=
  act s (if queue < 8192 then regWrite src (0xc10000 + 16 * queue) 8 value s else s)

/-- SWAP (R283): SHP_GATE_CTL of a port written with SWAP 1. -/
def execSwap (src port value : Nat) (s : State) : Host.Outcome State Fault Refusal :=
  act s (if port < 16 then regWrite src (0xc00108 + 16 * port) 4 (setBits value 2 2 1) s else s)

/-- PWR_CEIL_WRITE (R332). -/
def execPwrCeilWrite (src value : Nat) (s : State) : Host.Outcome State Fault Refusal := act s (regWrite src 0xf0000c 4 value s)

/-- LVL_SET_WRITE (R333). -/
def execLvlSetWrite (src value : Nat) (s : State) : Host.Outcome State Fault Refusal := act s (regWrite src 0xf00004 4 value s)

/-- DEEP_REQ (R342): PWR_CTL written with DEEP_REQ 1 by PF0, or the operator's request over Barnopa (`src` 64). -/
def execDeepReq (src value : Nat) (s : State) : Host.Outcome State Fault Refusal :=
  act s (if src = mgmt then askDeep s else regWrite src 0x10000 4 (setBits value 1 1 1) s)

/-- LOCK_SET (R354): a register that holds a LOCK bit written with LOCK 1. -/
def execLockSet (src addr value : Nat) (s : State) : Host.Outcome State Fault Refusal :=
  act s (match regAt addr with
    | some k => if k.info.flds.any (fun x => x.lo == 0 && x.acc == .w1s) then regWrite src addr 4 (setBits value 0 0 1) s else s
    | none => s)

/-- W1C_CLEAR (R4, R355): a register written whose W1C bits take the ones of the value. -/
def execW1cClear (src addr size value : Nat) (s : State) : Host.Outcome State Fault Refusal := act s (regWrite src addr size value s)

/-- RC_READ (R4): a register read; its RC fields are cleared. -/
def execRcRead (src addr size : Nat) (s : State) : Host.Outcome State Fault Refusal := act s (readReg src addr size s)

/-- Is an access of a wrong size or alignment, or to an offset that implements nothing?
DEDUCED (unsafe): log entry 99. -/
def badTarget (s : State) (src addr size : Nat) : Bool :=
  match target s src addr size with
  | .wrong => true
  | .nothing => true
  | _ => false

/-- BAD_ACCESS (R350): a write, or a read (which returns 0), of a wrong size or alignment or to an unimplemented offset. -/
def execBadAccess (src addr size : Nat) (write : Bool) (value : Nat) (s : State) : Host.Outcome State Fault Refusal :=
  act s (if !badTarget s src addr size then s else if write then regWrite src addr size value s else readReg src addr size s)

/-- REGISTER_WRITE (R4): a register written. -/
def execRegisterWrite (src addr size value : Nat) (s : State) : Host.Outcome State Fault Refusal := act s (regWrite src addr size value s)

end Sys2Proof.Machine
end

