-- ==== Sys2Proof/Machine/Security.lean ====
section
/-! DEFINITION. The vault, the management network, attestation and firmware (R287 to R304). Cryptography is given by operands: whether a
signature, a certificate, a code or a tag is good (log entry 10). -/

namespace Sys2Proof.Machine

open Sys2Proof

/-- The answer of a Barnopa command. -/
def answerOp (s : State) (ok : Bool) : State := s.emit (.barnopa ok)

/-- A refused claim code or a failed client authentication (SEC_STAT.AUTH_FAIL).
DESIGN CHOICE (unsafe): log entry 112. -/
def authFail (s : State) : State := answerOp (s.incFld R.SEC_STAT.AUTH_FAIL) false

/-! Measurements (R289). -/

/-- A list of numbers with its length in front, so that lists joined this way can be told apart. -/
def counted (l : List Nat) : List Nat := l.length :: l

/-- The operator configuration as held in management storage (block 5): trust anchors, publisher keys, register values.
DEDUCED (unsafe): log entry 107. -/
def operatorConfig (c : Security) : List Nat :=
  counted c.anchors ++ counted (c.publishers.flatMap (fun p => [p.1, p.2])) ++ counted (c.config.flatMap (fun e => [e.1, e.2.1, e.2.2]))

/-- The content that a measurement block is the digest of (Table 15-3): 1 boot ROM, 2 running firmware and its slot, 3 port sequencer
firmware, 4 fuses, 5 operator configuration, 6 membership, 7 releases. What the boot ROM and the fuses hold beside what the spec
gives is this module's own.
DESIGN CHOICE (safe): log entry 10. -/
def measurement (s : State) (i : Nat) : List Nat :=
  let fw := Tab.get ⟨0, 0, false⟩ s.sec.running s.sec.slots
  match i with
  | 1 => [Config.fused 2]
  | 2 => [s.sec.running, fw.version, fw.svn]
  | 3 => [fw.version, fw.svn]
  | 4 => [s.sec.svn, 2100, 128, 1100, Config.fused 3]
  | 5 => operatorConfig s.sec
  | 6 => s.sec.sealed.flatMap (fun c => c.2.id :: c.2.keyGen :: counted c.2.members)
  | 7 => (s.sec.sealed.filter (fun c => c.2.released)).flatMap (fun c => [c.2.id, c.2.keyGen])
  | _ => []

/-- Every release lost (R294). -/
def loseReleases (s : State) : State :=
  s.updSec (fun c => { c with sealed := c.sealed.map (fun p => (p.1, { p.2 with released := false })) })

/-! Barnopa sessions and the claim (R290, R291). -/

/-- A session begins: SLOT_ID is reported (R359). -/
def reportSlot (s : State) : State := s.emit (.slotId s.pins.slotId)

/-- A connection, or its close.
DESIGN CHOICE (unsafe): log entry 112. -/
def doTls (close terms : Bool) (anchor : Nat) (certOk : Bool) (s : State) : State :=
  if close then s.updSec (fun c => { c with sessions := c.sessions - 1 })
  else if !s.sec.claimed || !terms || decide (4 ≤ s.sec.sessions) then answerOp s false
  else if !certOk || !s.sec.anchors.contains anchor then authFail s
  else answerOp (reportSlot (s.updSec (fun c => { c with sessions := c.sessions + 1 }))) true

/-- TLS_CONNECT (R290): `terms` says that the connection meets the four terms, `anchor` is the trust anchor its client certificate names and
`certOk` that the certificate verifies. -/
def execTlsConnect (close terms : Bool) (anchor : Nat) (certOk : Bool) (s : State) : Host.Outcome State Fault Refusal :=
  done (doTls close terms anchor certOk s)

/-- A claim session.
DESIGN CHOICE (safe): log entry 10. -/
def doClaim (codeOk : Bool) (anchors : List Nat) (certOk : Bool) (s : State) : State :=
  if s.sec.claimed || !codeOk then authFail s
  else if anchors.isEmpty || decide (4 < anchors.length) then answerOp (reportSlot s) false
  else
    let s := (reportSlot s).emit .aliasRequest
    if !certOk then answerOp s false
    else answerOp (s.updSec (fun c => { c with claimed := true, anchors := anchors, alias_ := true })) true

/-- CLAIM (R291): whether the code is the one on the label, the trust anchors installed, and whether the signed alias certificate comes back. -/
def execClaim (codeOk : Bool) (anchors : List Nat) (certOk : Bool) (s : State) : Host.Outcome State Fault Refusal := done (doClaim codeOk anchors certOk s)

/-- RELEASE_CLAIM (R291): the module is unclaimed at the next cold start. -/
def execReleaseClaim (s : State) : Host.Outcome State Fault Refusal :=
  done (if s.sec.claimed then answerOp (s.updSec (fun c => { c with releaseAsked := true })) true else answerOp s false)

/-- What a release of the claim erases, at the cold start that follows it. -/
def eraseClaim (s : State) : State :=
  if s.sec.releaseAsked then
    s.updSec (fun c => { c with claimed := false, anchors := [], alias_ := false, publishers := [], sealed := [], releaseAsked := false, sessions := 0 })
  else s

/-! Constellations (R292 to R295). -/

/-- The membership ceremony as this module meets it.
DEDUCED (unsafe): log entry 105. -/
def doCeremony (id : Nat) (members : List Nat) (rekey stepsOk : Bool) (s : State) : State :=
  let old := s.sec.sealed.find? (fun c => c.2.id == id)
  if !stepsOk || members.isEmpty || decide (32768 < members.length) || decide (2 ^ 32 ≤ id) then answerOp s false
  else
    match old, rekey with
    | some (k, c), true =>
      answerOp (s.updSec (fun x => { x with sealed := Tab.ins k ⟨id, c.keyGen + 1, members, false⟩ x.sealed,
                                            sent := if 2 ^ 64 ≤ x.sent + 1 then 0 else x.sent })) true
    | some _, false => answerOp s false
    | none, true => answerOp s false
    | none, false =>
      match pickFree s.sec.sealed 0 16 0 with
      | some k => answerOp (s.updSec (fun x => { x with sealed := Tab.ins k ⟨id, 1, members, false⟩ x.sealed })) true
      | none => answerOp s false

/-- CONSTELLATION_CEREMONY (R292, R293): the members' nodes; `rekey` says that it makes the next key generation of a constellation sealed here,
`stepsOk` that every step of every member succeeded. -/
def execConstellationCeremony (id : Nat) (members : List Nat) (rekey stepsOk : Bool) (s : State) : Host.Outcome State Fault Refusal :=
  act s (doCeremony id members rekey stepsOk s)

/-- CONSTELLATION_MEMBER_REMOVAL (R293): this module is removed, and its vault erases the key. -/
def execConstellationMemberRemoval (id : Nat) (s : State) : Host.Outcome State Fault Refusal :=
  act s (if s.sec.sealed.any (fun c => c.2.id == id) then
      answerOp (s.updSec (fun x => { x with sealed := x.sealed.filter (fun c => c.2.id != id) })) true
    else answerOp s false)

/-- A release changed for a constellation generation.
DEDUCED (unsafe): log entry 105. -/
def setRelease (s : State) (sel : Constellation → Bool) (v : Bool) : State :=
  s.updSec (fun x => { x with sealed := x.sealed.map (fun p => if sel p.2 then (p.1, { p.2 with released := v }) else p) })

/-- A release token judged: the signature, the identity and the digest, which is given as the contents of blocks 1 to 6.
DESIGN CHOICE (safe): log entry 10. -/
def doReleaseToken (id gen : Nat) (sigOk idOk : Bool) (blocks : List (List Nat)) (s : State) : State :=
  if sigOk && idOk && blocks == [1, 2, 3, 4, 5, 6].map (measurement s) && (sealedSlot s id gen).isSome then
    answerOp (setRelease s (fun c => c.id == id && c.keyGen == gen) true) true
  else answerOp s false

/-- RELEASE_TOKEN (R294). -/
def execReleaseToken (id keyGen : Nat) (sigOk idOk : Bool) (blocks : List (List Nat)) (s : State) : Host.Outcome State Fault Refusal :=
  act s (doReleaseToken id keyGen sigOk idOk blocks s)

/-- RELEASE_REVOKE (R295): the release is withdrawn; what is already decrypted stays. -/
def execReleaseRevoke (id : Nat) (s : State) : Host.Outcome State Fault Refusal :=
  act s (if s.sec.sealed.any (fun c => c.2.id == id) then answerOp (setRelease s (fun c => c.id == id) false) true else answerOp s false)

/-- May management storage hold these trust anchors, 1 to 4 of them (R291), and publisher keys, at most 8 by slot (R296)? -/
def storageOk (anchors : Option (List Nat)) (publishers : Option (List (Nat × Nat))) : Bool :=
  anchors.all (fun l => decide (1 ≤ l.length) && decide (l.length ≤ 4)) && publishers.all (fun l => decide (l.length ≤ 8) && l.all (fun p => decide (p.1 < 8)))

/-- OPERATOR_CONFIGURATION_CHANGE (R289, R294): trust anchors, publisher keys or register values changed in management storage. A change of
measurement block 5 loses every release. -/
def execOperatorConfigurationChange (anchors : Option (List Nat)) (publishers : Option (List (Nat × Nat))) (config : Option (List (Nat × (Nat × Nat))))
    (s : State) : Host.Outcome State Fault Refusal :=
  let t := s.updSec (fun c => { c with anchors := anchors.getD c.anchors, publishers := publishers.getD c.publishers, config := config.getD c.config })
  done (if !storageOk anchors publishers then answerOp s false
        else answerOp (if operatorConfig t.sec = operatorConfig s.sec then t else loseReleases t) true)

/-! Weights from a replica (R299). -/

/-- Bytes cut into packets of at most 4,096. -/
def cutPackets : Nat → List PByte → List (List PByte)
  | 0, _ => []
  | _ + 1, [] => []
  | k + 1, b => b.take 4096 :: cutPackets k (b.drop 4096)

/-- Packets encrypted and sent, each under the next value of the vault's counter: what is left to send where the counter would wrap. -/
def sendLink (node id gen : Nat) : List (List PByte) → State → State × Status
  | [], s => (s, .ok)
  | p :: r, s =>
    if 2 ^ 64 ≤ s.sec.sent + 1 then (s, .keyUnavailable)
    else sendLink node id gen r ((s.emit (.linkPacket node id gen s.sec.sent (rawBytes p) (anyPsn p))).updSec (fun c => { c with sent := c.sent + 1 }))

/-- The sending side: a bundle region of this module.
DEDUCED (unsafe): log entry 106. -/
def sendReplica (node id gen base : Nat) (s : State) : State :=
  match s.mm.regions.find? (fun r => r.base == base && r.kind == .bundle) with
  | none => s.emit (.restored node base .protection)
  | some r =>
    if keyStatus s id gen ≠ .ok then s.emit (.restored node base .keyUnavailable)
    else
      let b := pread s base r.size
      let t := sendLink node id gen (cutPackets (r.size + 1) b) s
      t.1.emit (.restored node base (t.2.worse (psnStatus (anyPsn b))))

/-- The receiving side: the packets' plaintexts go into a new bundle region of the function; one whose tag fails is poison, and so is one that was
sent as poison.
DEDUCED (unsafe): log entry 106. -/
def takeReplica (f node id gen pick : Nat) (ps : List (List Byte × Bool × Bool)) (s : State) : State :=
  if keyStatus s id gen ≠ .ok then s.emit (.restored node 0 .keyUnavailable)
  else
    match makeRegion s f ((ps.map (fun p => p.1.length)).foldl (· + ·) 0) .bundle 0 pick with
    | none => s.emit (.restored node 0 .retryLater)
    | some (a, s) =>
      let s := pwrite' s a (ps.flatMap (fun p => p.1.map (fun b => (b, !p.2.1 || p.2.2))))
      s.emit (.restored node a (if ps.all (fun p => p.2.1) then psnStatus (ps.any (fun p => p.2.2)) else .invalid))

/-- RESTORE_FROM_REPLICA (R299): as the sender, of the bundle region at `base`; as the receiver, of packets given by their plaintext and
whether their tags are good and they carry poison, into frames from `base` on where those are free. -/
def execRestoreFromReplica (sending : Bool) (fn node id keyGen base : Nat) (packets : List (List (BitVec 8) × Bool × Bool)) (s : State) :
    Host.Outcome State Fault Refusal :=
  act s (if sending then sendReplica node id keyGen base s else takeReplica fn node id keyGen base packets s)

/-! Firmware (R302, R304). -/

/-- FIRMWARE_INSTALL (R302): an image goes into the slot that is not running, which becomes the preferred one. -/
def execFirmwareInstall (version svn : Nat) (sigOk : Bool) (s : State) : Host.Outcome State Fault Refusal :=
  done (answerOp (s.updSec (fun c => { c with slots := Tab.ins (1 - c.running) ⟨version, svn, sigOk⟩ c.slots, preferred := 1 - c.running })) true)

/-- COMMIT_SVN (R302): the fuses are blown up to the running image's security version. -/
def execCommitSvn (s : State) : Host.Outcome State Fault Refusal :=
  done (answerOp (s.updSec (fun c => { c with svn := min 64 (max c.svn (Tab.get ⟨0, 0, false⟩ c.running c.slots).svn) })) true)

/-- WATCHDOG_EXPIRY (R304): firmware restarts; what it served goes on, but for the Barnopa sessions. -/
def execWatchdogExpiry (s : State) : Host.Outcome State Fault Refusal :=
  let s := (s.incFld R.BRIM_STAT.WATCHDOG).updSec (fun c => { c with sessions := 0 })
  done (logModule s { entry0 s 0x1A .ok 0 with unitKind := 10 })

/-- The slot that a start verifies and runs: the preferred one, or the other (R302).
DEDUCED (unsafe): log entry 105. -/
def verifiedSlot (s : State) : Option Nat :=
  let ok (k : Nat) : Bool := match Tab.find? k s.sec.slots with
    | some f => f.valid && decide (s.sec.svn ≤ f.svn)
    | none => false
  if ok s.sec.preferred then some s.sec.preferred else if ok (1 - s.sec.preferred) then some (1 - s.sec.preferred) else none

/-! The SPDM responder (R288, R289): `src` is the function whose DOE mailbox carries the request, or 64 for Barnopa. -/

/-- An SPDM answer.
DESIGN CHOICE (safe): log entry 10. -/
def spdm (src : Nat) (r : SpdmReply) (s : State) : State := s.emit (.spdm src r)

/-- Does a certificate slot hold a chain? -/
def certSlot (s : State) (k : Nat) : Bool := k == 0 || (k == 1 && s.sec.alias_)

/-- GET_VERSION: SPDM 1.3. -/
def execGetVersion (src : Nat) (s : State) : Host.Outcome State Fault Refusal := act s (spdm src (.version 1 3) s)

/-- GET_CAPABILITIES (Table 15-2). -/
def execGetCapabilities (src : Nat) (s : State) : Host.Outcome State Fault Refusal := act s (spdm src (.capabilities true true true true) s)

/-- NEGOTIATE_ALGORITHMS (Table 15-2). -/
def execNegotiateAlgorithms (src : Nat) (s : State) : Host.Outcome State Fault Refusal := act s (spdm src .algorithms s)

/-- GET_DIGESTS: of the slots that hold a chain. -/
def execGetDigests (src : Nat) (s : State) : Host.Outcome State Fault Refusal := act s (spdm src (.digests ([0, 1].filter (certSlot s))) s)

/-- GET_CERTIFICATE of a slot. -/
def execGetCertificate (src slot : Nat) (s : State) : Host.Outcome State Fault Refusal :=
  act s (spdm src (if certSlot s slot then .certificate slot else .invalid) s)

/-- CHALLENGE, signed with the device identity key (R287). -/
def execChallenge (src slot nonce : Nat) (s : State) : Host.Outcome State Fault Refusal :=
  act s (spdm src (if certSlot s slot then .challengeAuth slot nonce else .invalid) s)

/-- GET_MEASUREMENTS (R289): `index` is a block, or 255 for all; `signed` asks for a signature with the nonce. -/
def execGetMeasurements (src index : Nat) (signed : Bool) (nonce : Nat) (s : State) : Host.Outcome State Fault Refusal :=
  let all := if index = 255 then [1, 2, 3, 4, 5, 6, 7] else if 1 ≤ index ∧ index ≤ 7 then [index] else []
  act s (spdm src (if all.isEmpty then .invalid else .measurements signed nonce (all.map (fun i => (i, measurement s i)))) s)

/-- SPDM_UNSUPPORTED_REQUEST: any request outside Table 15-2. -/
def execSpdmUnsupportedRequest (src : Nat) (s : State) : Host.Outcome State Fault Refusal := act s (spdm src .unsupported s)

end Sys2Proof.Machine
end

