-- ==== Sys2Proof/Machine/ResetOps.lean ====
section
/-! DEFINITION. Resets and starts (R219, R300, R309 to R311, R343 to R347): what each leaves, and how the module starts again. -/

namespace Sys2Proof.Machine

open Sys2Proof

/-! Function-level reset (R219). -/

/-- The endpoints of a function destroyed. With its host accesses stopped no state is written back, and none has failed to be. -/
def destroyEps (s : State) (f : Nat) : State :=
  let e := s.fld R.EP_ERR.WRITEBACK
  let ks := (s.tr.eps.filter (fun p => p.2.fn == f)).map (·.1)
  (ks.foldl destroyEp s).setFld R.EP_ERR.WRITEBACK e

/-- The region entries, work and pre-posted work requests of a function dropped; a region entry keeps its generation.
DESIGN CHOICE (safe): log entry 68. -/
def dropTransport (s : State) (f : Nat) : State :=
  { s with tr := { s.tr with regions := s.tr.regions.map (fun p => if p.1 / 2 ^ 24 = f then (p.1, { p.2 with used := false }) else p),
                             works := s.tr.works.filter (fun p => p.2.fn != f), pre := s.tr.pre.filter (fun p => p.fn != f),
                             fired := s.tr.fired.filter (fun p => p.fn != f) } }

/-- The waits of a function's descriptors dropped. -/
def dropWaits (s : State) (f : Nat) : State :=
  let mine (w : Who) : Bool := match w with | .desc g _ _ => g == f | _ => false
  { s with sch := { s.sch with waiters := s.sch.waiters.filter (fun w => !mine w.who) },
           pg := { s.pg with waits := s.pg.waits.filter (fun w => !mine w.1) } }

/-- The T3 key of a function destroyed, and a notice sent to every lender (R300, R301). -/
def dropKey (s : State) (f : Nat) : State :=
  let s := { s with pg := { s.pg with t3keys := s.pg.t3keys.filter (fun k => k != f) } }
  (s.pg.offers.map (·.1)).foldl (fun s n => s.emit (.resetNotice n f)) s

/-- The held records of a function's rings dropped. -/
def dropHeld (s : State) (f : Nat) : State :=
  let go (p : Nat × Ring) : Nat × Ring := if p.1 / 64 = f then (p.1, { p.2 with held := [] }) else p
  { s with host := { s.host with rings := (s.host.rings.map go).filter (fun p => p.2 != ring0) } }

/-- A function-level reset begins: held records are discarded and counted, contexts abort, spans are freed, endpoints destroyed, triggers
disarmed and counters zeroed.
DEDUCED (unsafe): log entry 108. -/
def flrBegin (f : Nat) (s : State) : State :=
  let h := s.fnHost f
  if h.resetting.isSome then s
  else
    let s := s.setFnHost f { h with resetting := some (heldOf s f), waiting := [] }
    let s := dropHeld s f
    let s := ((s.sch.ctxs.filter (fun p => p.2.fn == f && p.2.st != .aborting)).map (·.1)).foldl (fun s h => beginAbort s h true none) s
    let s := ((s.pg.spans.filter (fun p => p.2.fn == f)).map (·.1)).foldl freeSpan s
    let s := destroyEps s f
    dropKey (dropWaits (dropTransport (dropSync s f) f) f) f

/-- The registers of a function's page, but for HI_FN_LIMIT, at their defaults (R220); for PF0 the queue block's RW fields too (R285). -/
def defaultPage (s : State) (f : Nat) : State :=
  let b := 0x780000 + f * 0x2000
  let s := (s.defaultRange b (b + 0x1000)).defaultRange (b + 0x1004) (b + 0x2000)
  if f = 0 then
    (((s.defaultRange 0xb00040 0xb00044).defaultRange 0xb00080 0xb00084).defaultRange 0xb000c0 0xb000c8).defaultRange 0xb000cc 0xb000d0 |>.defaultRange 0xb00100 0xb00500
  else s

/-- A function's MSI-X table and pending bits at their defaults.
PRESUMED (unsafe): log entry 20. -/
def defaultMsix (s : State) (f : Nat) : State :=
  { s with host := { s.host with msix := s.host.msix.filter (fun p => p.1 / 8192 != f), msixPba := s.host.msixPba.filter (fun p => p / 2048 != f) } }

/-- A function-level reset ends: every item of the function has retired, its set-up is at default, its log empty, and the count of discarded
completions waits as a RESET_DONE event.
DEDUCED (unsafe): log entry 108. -/
def flrDone (f : Nat) (s : State) : State :=
  match (s.fnHost f).resetting with
  | none => s
  | some _ =>
    let s := ((s.sch.ctxs.filter (fun p => p.2.fn == f)).map (·.1)).foldl (fun s h => doContextAbortDone h s) s
    let n := ((s.fnHost f).resetting).getD 0 + reservedOf s f
    let s := { s with host := { s.host with rings := s.host.rings.filter (fun p => p.1 / 64 != f) } }
    let s := defaultMsix (defaultPage s f) f
    let s := { s with flt := { s.flt with fnLogs := Tab.del f s.flt.fnLogs } }
    let s := s.setFnHost f { (s.fnHost f) with resetting := none, waiting := [], logAdded := 0 }
    raiseEvent s f 0x04 .ok (leBytes 4 n)

/-! Host reset (R200, R343). -/

/-- The host interface of every function at default. Work goes on, and its completions are held; a function-level reset in progress completes
as part of it (R345).
DEDUCED (unsafe): log entry 109. -/
def hostReset (s : State) : State :=
  let fs := (List.range 64).filter (fun f => (s.fnHost f).resetting.isSome)
  let s := s.defaultRange 0x700000 0x800000
  let s := (defaultPage s 0).setFld R.ALERT_MASK.HOST R.ALERT_MASK.HOST.rst
  let keep (g : Ring) : Ring := { ring0 with acc := g.acc, held := g.held, pass := g.pass }
  let s := { s with host := { s.host with
    fns := (s.host.fns.map (fun p => (p.1, { p.2 with ringUp := false }))).filter (fun p => p.2 != fnHost0)
    rings := (s.host.rings.map (fun p => (p.1, keep p.2))).filter (fun p => p.2 != ring0), msix := [], msixPba := [], numVfs := 0, linkDown := true } }
  fs.foldl (fun s f => flrDone f s) s

/-! Starts. -/

/-- Work in flight reported before memory is cleared (R311): one 0x21 entry a function in management storage, and Barnopa.
DESIGN CHOICE (unsafe): log entry 22. DEDUCED (unsafe): log entry 111. -/
def persistWork (s : State) : State :=
  ((List.range 64).filter (fun f => 0 < reservedOf s f + heldOf s f)).foldl (fun s f =>
    let e := { entry0 s 0x21 .ok f with detail := leBytes 4 (reservedOf s f) ++ leBytes 4 (heldOf s f) }
    let k := (s.flt.kept ++ [e]).drop (s.flt.kept.length + 1 - 4096)
    ({ s with flt := { s.flt with kept := k } }).emit (.workInFlight f (reservedOf s f) (heldOf s f))) s

/-- What a module reset, a cold start and Off leave (Table 17-8): everything as after reset, but for what survives: the commands waiting,
host memory, what has been sent, credentials and sealed membership, operator configuration, firmware, the retirement tables, the kept
log entries, the pins and what the management island remembers. Releases are lost.
DEDUCED (unsafe): log entry 110. -/
def cleared (s : State) (st : PowSt) (cause : Nat) : State :=
  let r := State.reset
  loseReleases { r with
    pending := s.pending, freeCtr := s.freeCtr, out := s.out, pins := s.pins,
    host := { r.host with hostMem := s.host.hostMem },
    flt := { r.flt with kept := s.flt.kept, retTiles := s.flt.retTiles, retNbus := s.flt.retNbus, retPcs := s.flt.retPcs, retRanks := s.flt.retRanks,
                        retLanes := s.flt.retLanes, clearAsked := s.flt.clearAsked },
    sec := { s.sec with bundles := [] },
    pow := { r.pow with st := st, cause := cause, thermLatch := s.pow.thermLatch, leakLatch := s.pow.leakLatch, needCycle := s.pow.needCycle, dram := s.pow.dram } }

/-- The units of a kind (Table 16-9) in a list of kind × 65,536 + unit. -/
def unitsOf (k : Nat) (l : List Nat) : List Nat := (l.filter (fun x => x / 65536 = k)).map (· % 65536)

/-- Retirement entries that the operator cleared leave the table, unless the unit fails its self-check at this start (R309).
DESIGN CHOICE (safe): log entry 87. -/
def clearRetired (s : State) (fails : List Nat) : State :=
  let go (k : Nat) (l : List Nat) : List Nat := l.filter (fun u => !(s.flt.clearAsked.contains (k * 65536 + u)) || fails.contains (k * 65536 + u))
  { s with flt := { s.flt with retTiles := go 1 s.flt.retTiles, retNbus := go 2 s.flt.retNbus, retPcs := go 3 s.flt.retPcs,
                               retRanks := go 4 s.flt.retRanks, retLanes := go 5 s.flt.retLanes, clearAsked := [] } }

/-- The retirement tables loaded into the registers (R309). -/
def loadRetired (s : State) : State :=
  let s := s.flt.retTiles.foldl (fun s t => (s.setFld R.TILE_STAT.RETIRED 1 t).setFld R.TILE_STAT.IN_SERVICE 0 t) s
  let s := s.flt.retNbus.foldl (fun s u =>
    s.setFld R.NBU_RETIRED.NBU_MAP (setBits (s.fld R.NBU_RETIRED.NBU_MAP (u / 512) (u % 512 / 32)) (u % 32) (u % 32) 1) (u / 512) (u % 512 / 32)) s
  let s := s.flt.retPcs.foldl (fun s p =>
    s.setFld R.NBU_PC_STAT.PC_RETIRED (setBits (s.fld R.NBU_PC_STAT.PC_RETIRED (p / 32)) (p % 32) (p % 32) 1) (p / 32)) s
  let s := s.flt.retLanes.foldl (fun s l =>
    let s := s.setFld R.PORT_STAT.RETIRED (setBits (s.fld R.PORT_STAT.RETIRED (l / 4)) (l % 4) (l % 4) 1) (l / 4)
    s.setFld R.PORT_STAT.IN_SERVICE (setBits (lanesOf s (l / 4)) (l % 4) (l % 4) 0) (l / 4)) s
  let s := ((List.range 16).filter (fun p => lanesOf s p = 0)).foldl (fun s p => s.setFld R.PORT_STAT.STATE 4 p) s
  syncRetired s

/-- Does an address hold a register with a LOCK bit in bit 0? -/
def hasLock (a : Nat) : Bool := match regAt a with | some k => k.info.flds.any (fun x => x.lo == 0 && x.acc == .w1s) | none => false

/-- The window of tile i written at a start: the tile serves nothing yet, so the write counts as one under DRAIN (R78, R81). -/
def startWindow (s : State) (i a v : Nat) : State :=
  let d := s.fld R.TILE_CTL.DRAIN i
  (regWrite mgmt a 4 v (s.setFld R.TILE_CTL.DRAIN 1 i)).setFld R.TILE_CTL.DRAIN d i

/-- A value of the operator's applied at a start; one that spans a tile's TILE_CTL and TILE_WIN is taken as the two. -/
def startWrite (s : State) (a n v : Nat) : State :=
  match regAt a with
  | some k =>
    if k.info.addr = 0x100004 ∧ n = 4 then startWindow s k.i a v
    else if k.info.addr = 0x100000 ∧ n = 8 then startWindow (regWrite mgmt a 4 (v % 2 ^ 32) s) k.i (a + 4) (v / 2 ^ 32)
    else regWrite mgmt a n v s
  | none => regWrite mgmt a n v s

/-- The operator's register values applied by the management controller, LOCK bits last (Table 17-9).
DEDUCED (unsafe): log entry 107. -/
def applyConfig (s : State) : State :=
  let s := s.sec.config.foldl (fun s e => startWrite s e.1 e.2.1 (if hasLock e.1 then setBits e.2.2 0 0 0 else e.2.2)) s
  (s.sec.config.filter (fun e => hasLock e.1 && bitAt e.2.2 0)).foldl (fun s e => regWrite mgmt e.1 (min 4 e.2.1) (e.2.2 % 2 ^ 32) s) s

/-- The kept entries entered again in the module log (R325). -/
def reenterLog (s : State) : State := { s with flt := { s.flt with modLog := ⟨s.flt.kept, 0, s.flt.kept.length, 0⟩ } }

/-- Out of service (R310), with the fault reported. -/
def outOfService (s : State) (code kind : Nat) : State := logModule (s.updPow (fun p => { p with st := .outOfService })) { entry0 s code .ok 0 with unitKind := kind }

/-- The rows of Table 17-9 from 51 ms on. `fails` are the units that fail their self-checks here, as kind × 65,536 + unit; `edgeFails` says
that a die-to-die edge cannot be repaired (R12).
DEDUCED (unsafe): log entry 110. -/
def startUp (fails : List Nat) (edgeFails : Bool) (s : State) : State :=
  if edgeFails then outOfService s 0x1C 7
  else
    let s := (s.setFld R.PWR_STAT.RESET_CAUSE s.pow.cause).updPow (fun p =>
      { p with st := .on, cause := 0, thermLatch := false, leakLatch := false, needCycle := false })
    let s := reenterLog s
    let s := hostRefIs ((s.setFld R.CLK_STAT.FABRIC_REF 1).setFld R.CLK_STAT.PLL_LOCK 255) s.pins.hostRef
    let fw := Tab.get ⟨0, 0, false⟩ s.sec.running s.sec.slots
    let s := (s.setFld R.ID_FW.VERSION fw.version).setFld R.ID_FW.SLOT s.sec.running
    let s := applyConfig (loadRetired (clearRetired s fails))
    let s := ((unitsOf 1 fails).filter (fun t => t < 256 && !tileRetired s t)).foldl (fun s t => tileFailure s t 0x08) s
    ((unitsOf 2 fails).filter (fun u => u < 8192 && !nbuRetired s (u / 512) (u % 512))).foldl (fun s u => checkNbu s (u / 512) (u % 512) false) s

/-- A start with the fabric reference in tolerance or not (R18), once the firmware has been verified. -/
def startIf (refOk : Bool) (fails : List Nat) (edgeFails : Bool) (s : State) : State :=
  if refOk then startUp fails edgeFails s else s.updPow (fun p => { p with st := .held })

/-- SLOT_ID sampled from the carrier's straps (R359): what they read is the carrier's, a free value.
DESIGN CHOICE (unsafe in part): log entry 16. -/
def sampleSlot (s : State) : State := { s.takeFree with pins := { s.pins with slotId := Config.freeNat s.freeCtr % 64 } }

/-- A module reset (R343): what it leaves, then the start. RESET_CAUSE keeps the cause.
DESIGN CHOICE (unsafe): log entry 17. -/
def moduleReset (cause : Nat) (refOk : Bool) (fails : List Nat) (edgeFails : Bool) (s : State) : State :=
  if s.pow.st = .off then s
  else
    let t := sampleSlot (cleared (persistWork s) s.pow.st cause)
    if (verifiedSlot s).isNone then outOfService t 0x1B 10 else startIf refOk fails edgeFails t

/-- Off entered (R330, R347): with the counts persisted where firmware still runs.
DESIGN CHOICE (unsafe): log entry 17. -/
def goOff (cause : Nat) (persist : Bool) (s : State) : State :=
  if s.pow.st = .off then s
  else
    let t := cleared (if persist then persistWork s else s) .off cause
    { t with pins := { t.pins with pwrGood := false } }

/-- The reference clocks as a cold start finds them (R18): the management oscillator, the fabric reference and the host reference, each in
tolerance or not. -/
abbrev Refs := Bool × Bool × Bool

/-- A cold start (R346). `lowNs` is how long PWR_EN had been low before it rose, 0 if it was high all along; `leak` that LEAK_N is held low,
`refs` the reference clocks, `junction` the hottest junction. Without the management oscillator nothing of the module starts; without the
fabric reference all but the management controller is held in reset, and the fault is reported (R18).
DESIGN CHOICE (unsafe): log entry 17. -/
def coldStart (lowNs : Nat) (leak : Bool) (refs : Refs) (junction : Nat) (fails : List Nat) (edgeFails : Bool) (s : State) : State :=
  if s.pow.st ≠ .off then s
  else if !refs.1 then { s with pins := { s.pins with pwrEn := true, leakN := !leak, hostRef := refs.2.2 } }
  else
    let cycled := decide (10000000 ≤ lowNs)
    let s := { s with pins := { s.pins with pwrEn := true, leakN := !leak, hostRef := refs.2.2, thermTripN := s.pins.thermTripN || cycled } }
    if leak then logPower (s.updPow (fun p => { p with needCycle := true, leakLatch := true, cause := if p.cause = 0 then 6 else p.cause }))
    else if (s.pow.needCycle && !cycled) || !s.pins.thermTripN then s
    else if s.pow.thermLatch && decide (90 ≤ junction) then logPower s
    else
      let t := eraseClaim (cleared s .off s.pow.cause)
      let t := sampleSlot { t with pins := { t.pins with pwrGood := true } }
      match verifiedSlot t with
      | none => outOfService t 0x1B 10
      | some k =>
        let t := t.updSec (fun c => { c with running := k })
        startIf refs.2.1 fails edgeFails (if refs.2.1 then t else logModule t { entry0 t 0x1D .ok 0 with unitKind := 11 })

end Sys2Proof.Machine
end

