-- ==== Sys2Proof/Machine/ResetRows.lean ====
section
/-! DEFINITION. The commands of resets, power, pins and SMBus (R18, R219, R330, R339, R340, R343 to R347, R359 to R364). -/

namespace Sys2Proof.Machine

open Sys2Proof

/-- INITIATE_FLR (R219) of a function. -/
def execInitiateFlr (fn : Nat) (s : State) : Host.Outcome State Fault Refusal := act s (if fn < 64 then flrBegin fn s else s)

/-- RESET_DONE (R219): the function-level reset of a function completes. -/
def execResetDone (fn : Nat) (s : State) : Host.Outcome State Fault Refusal := act s (if fn < 64 then flrDone fn s else s)

/-- D3HOT_TO_D0 (R198): acts as a function-level reset. -/
def execD3hotToD0 (fn : Nat) (s : State) : Host.Outcome State Fault Refusal := act s (if fn < 64 then flrBegin fn s else s)

/-- DL_DOWN (R200): the host link goes down, taken as a host reset; `hostRef` says whether the host reference is in tolerance (R18). -/
def execDlDown (hostRef : Bool) (s : State) : Host.Outcome State Fault Refusal := act s (hostReset (hostRefIs s hostRef))

/-- HOT_RESET (R343). -/
def execHotReset (s : State) : Host.Outcome State Fault Refusal := act s (hostReset s)

/-- The PERST_N pin. -/
def setPerst (s : State) (v : Bool) : State := { s with pins := { s.pins with perstN := v } }

/-- PERST_N (R343): the pin goes low, a host reset. Only the pin changes while the module is not on. -/
def execPerstN (s : State) : Host.Outcome State Fault Refusal := done (if s.pow.st = .on then hostReset (setPerst s false) else setPerst s false)

/-- PERST_N_RELEASE (R362): the pin goes high; the link trains from there (LINK_TRAINED says when it is up). A release before its time is held
inside the module, with the same end. -/
def execPerstNRelease (s : State) : Host.Outcome State Fault Refusal := done (setPerst s true)

/-- MODULE_RESET (R343), over Barnopa. `fails` and `edgeFails` are the self-checks' results at the start that follows. -/
def execModuleReset (fails : List Nat) (edgeFails : Bool) (s : State) : Host.Outcome State Fault Refusal :=
  done (moduleReset 2 (s.pow.st ≠ .held) fails edgeFails (answerOp s true))

/-- RESET_N (R343) held low for `lowNs`: at least 1 µs makes a module reset; ignored while PWR_EN is low (R363). -/
def execResetN (lowNs : Nat) (fails : List Nat) (edgeFails : Bool) (s : State) : Host.Outcome State Fault Refusal :=
  done (if lowNs < 1000 || !s.pins.pwrEn then s else moduleReset 1 (s.pow.st ≠ .held) fails edgeFails s)

/-- FABRIC_REFERENCE_LOST (R18): the ports go idle, and the module takes a module reset that ends in reset for want of the reference. -/
def execFabricReferenceLost (s : State) : Host.Outcome State Fault Refusal :=
  act s (moduleReset 3 false [] false (logModule s { entry0 s 0x1D .ok 0 with unitKind := 11 }))

/-- FABRIC_REFERENCE_RETURN (R18): the blocks held in reset are released, and the module starts. -/
def execFabricReferenceReturn (fails : List Nat) (edgeFails : Bool) (s : State) : Host.Outcome State Fault Refusal :=
  done (if s.pow.st = .held then startUp fails edgeFails s else s)

/-- COLD_START (R346). -/
def execColdStart (lowNs : Nat) (leakLow : Bool) (refs : Bool × Bool × Bool) (junction : Nat) (fails : List Nat) (edgeFails : Bool) (s : State) : Host.Outcome State Fault Refusal :=
  done (coldStart lowNs leakLow refs junction fails edgeFails s)

/-- PWR_EN_FALL (R347). -/
def execPwrEnFall (s : State) : Host.Outcome State Fault Refusal := done (goOff 0 true { s with pins := { s.pins with pwrEn := false } })

/-- POWER_OFF (R347), over Barnopa. -/
def execPowerOff (s : State) : Host.Outcome State Fault Refusal := done (goOff 0 true (answerOp s true))

/-- LEAK_N (R340, R363) held low for `lowNs`: 10 µs takes the module to Off, and a start then needs PWR_EN cycled. In Off it is logged, and
RESET_CAUSE keeps the first cause.
DEDUCED (unsafe): log entry 110. -/
def doLeak (lowNs : Nat) (s : State) : State :=
  if lowNs < 10000 then s
  else
    let c := if s.pow.st = .off ∧ s.pow.cause ≠ 0 then s.pow.cause else 6
    let t := goOff 6 true (logPower s)
    let t := t.updPow (fun p => { p with leakLatch := true, needCycle := true, cause := c })
    { t with pins := { t.pins with leakN := false } }

/-- LEAK_N. -/
def execLeakN (lowNs : Nat) (s : State) : Host.Outcome State Fault Refusal := done (doLeak lowNs s)

/-- INPUT_FAULT (R330): the input lies outside its range for more than 1 ms. `below40` says that it fell under 40 V, where the management
island goes too and logs nothing. -/
def doInputFault (below40 : Bool) (s : State) : State :=
  let s := if below40 then s.updSec (fun c => { c with sessions := 0 }) else logPower s
  goOff 4 false s

/-- INPUT_FAULT. -/
def execInputFault (below40 : Bool) (s : State) : Host.Outcome State Fault Refusal := done (doInputFault below40 s)

/-- THERMAL_TRIP (R339): a junction at 120 °C or a DRAM die at 115 °C. `afterLeak` says that a leak came within 1 µs, and the trip is then the
cause (R363). -/
def doThermalTrip (cd pd dram : Nat) (afterLeak : Bool) (s : State) : State :=
  if (max cd pd < 120 ∧ dram < 115) || (s.pow.st == .off && !(afterLeak && s.pow.leakLatch)) then s
  else
    let t := (goOff 5 false (logPower s)).updPow (fun p => { p with thermLatch := true, cause := 5 })
    { t with pins := { t.pins with thermTripN := false } }

/-- THERMAL_TRIP. -/
def execThermalTrip (cdMax pdMax dramMax : Nat) (afterLeak : Bool) (s : State) : Host.Outcome State Fault Refusal :=
  done (doThermalTrip cdMax pdMax dramMax afterLeak s)

/-- THERM_TRIP_RELEASE (R362): PWR_EN has been low for `lowNs`; after 10 ms THERM_TRIP_N is released. -/
def execThermTripRelease (lowNs : Nat) (s : State) : Host.Outcome State Fault Refusal :=
  done (if s.pins.pwrEn || decide (lowNs < 10000000) then s else { s with pins := { s.pins with thermTripN := true } })

/-! SMBus (R364). -/

/-- The state byte of Table 19-8.
DEDUCED (unsafe): log entry 110. -/
def smbusState (s : State) : Nat :=
  (match s.pow.st with | .off => 0 | .on => 2 | .held => 3 | .outOfService => 3) + 4 * bit s.pins.pwrGood + 8 * bit (!s.pins.alertN) +
    16 * bit s.pow.thermLatch + 32 * bit s.pow.leakLatch

/-- SMBUS_STATE_READ. -/
def execSmbusStateRead (s : State) : Host.Outcome State Fault Refusal := done (s.emit (.smbus (some (leBytes 1 (smbusState s)))))

/-- The ordering code RV-K8L-54 in ASCII (R370). -/
def orderingCode : List Byte := [0x52#8, 0x56#8, 0x2D#8, 0x4B#8, 0x38#8, 0x4C#8, 0x2D#8, 0x35#8, 0x34#8]

/-- The FRU record of Table 19-8.
DESIGN CHOICE (unsafe in part): log entry 16. -/
def fruRecord (s : State) : List Byte :=
  let b := padTo 16 orderingCode ++ leBytes 8 (Config.fused 0) ++ leBytes 1 s.pins.slotId ++ leBytes 2 0x4B38 ++ leBytes 1 1 ++ leBytes 34 0
  b ++ leBytes 2 (crc16 b)

/-- SMBUS_FRU_READ. -/
def execSmbusFruRead (s : State) : Host.Outcome State Fault Refusal := done (s.emit (.smbus (some (fruRecord s))))

/-- SMBUS_POWER_READ. -/
def execSmbusPowerRead (s : State) : Host.Outcome State Fault Refusal := done (s.emit (.smbus (some (leBytes 2 (s.fld R.PWR_MEAS.WINDOW_W)))))

/-- SMBUS_WRITE: negative-acknowledged. -/
def execSmbusWrite (s : State) : Host.Outcome State Fault Refusal := done (s.emit (.smbus none))

end Sys2Proof.Machine
end

