-- ==== Sys2Proof/Machine/Scheduler.lean ====
section
/-! DEFINITION. The step sequencers: selection, quantum, the end of a phase iteration, fixed slots (R178, R189 to R192). -/

namespace Sys2Proof.Machine

open Sys2Proof

/-! Selection (R189). -/

/-- READY contexts of a die that a test admits, the one READY longest first. -/
def longestReady (s : State) (die : Nat) (sel : Nat × Ctx → Bool) : Option Nat :=
  longestIdle (s.sch.ctxs.filter (fun p => p.2.st == .ready && p.2.home == die && sel p))

/-- The deficit of a function on a die, counted in selections. -/
def deficit (s : State) (die f : Nat) : Nat := Tab.get 0 (die * 64 + f) s.sch.deficits

/-- The function whose turn it is on a die.
DESIGN CHOICE (unsafe): log entry 21. -/
def turnOf (s : State) (die : Nat) : Nat := Tab.get 0 (256 + die) s.sch.deficits

/-- The deficit round-robin choice of a function on a die (R189): the present one while it has selections left, else the next function
with a READY context, which receives its WEIGHT. What one selection costs is not given: one unit of WEIGHT (log entry 21).
DESIGN CHOICE (unsafe): log entry 21. -/
def drrFunction (s : State) (die : Nat) (sel : Nat × Ctx → Bool) : Option (Nat × State) :=
  let has (f : Nat) : Bool := (longestReady s die (fun p => sel p && p.2.fn == f)).isSome
  let cur := turnOf s die
  let put (k v : Nat) (s : State) : State := { s with sch := { s.sch with deficits := Tab.put 0 k v s.sch.deficits } }
  if has cur && decide (0 < deficit s die cur) then some (cur, put (die * 64 + cur) (deficit s die cur - 1) s)
  else
    match (rangeFrom (cur + 1) 64).find? (fun i => has (i % 64)) with
    | none => none
    | some i =>
      let f := i % 64
      let d := (if has cur then deficit s die cur else 0)
      let s := put (256 + die) f (put (die * 64 + cur) d s)
      some (f, put (die * 64 + f) (deficit s die f + s.fld R.FN_SCHED.WEIGHT f - 1) s)

/-- Does a context own the present slot (R191)? -/
def ownsSlot (s : State) (p : Nat × Ctx) : Bool :=
  let j := s.sch.slot
  p.2.fn == s.fld R.SCHED_SLOT.FUNCTION j && (!s.flag R.SCHED_SLOT.CTX_VALID j || p.1 == s.fld R.SCHED_SLOT.CONTEXT j)

/-- The next READY context of a die under the policy (R189, R191). -/
def nextReady (s : State) (die : Nat) : Option (Nat × State) :=
  let wc (sel : Nat × Ctx → Bool) : Option (Nat × State) :=
    match drrFunction s die sel with
    | none => none
    | some (f, t) => (longestReady s die (fun p => sel p && p.2.fn == f)).map (fun h => (h, t))
  if !s.flag R.SCHED_CTL.POLICY then wc (fun _ => true)
  else
    match longestReady s die (ownsSlot s) with
    | some h => some (h, s)
    | none =>
      if s.flag R.SCHED_SLOT.YIELD s.sch.slot && !s.sch.ctxs.any (fun p => p.2.st == .ready && ownsSlot s p) then
        wc (fun p => !ownsSlot s p)
      else none

/-- Sequencer q of a die, if it is free, selects. -/
def doSelect (die q : Nat) (s : State) : State :=
  if 4 ≤ die ∨ 16 ≤ q ∨ s.sch.ctxs.any (fun p => p.2.sequencer == some (die * 16 + q)) then s
  else
    match nextReady s die with
    | none => s
    | some (h, s) =>
      (s.updCtx h (fun c => { c with st := .running, sequencer := some (die * 16 + q), quantumOver := false })).incFld
        R.SCHED_SWITCH_CNT.COUNT

/-- SEQUENCER_SELECT (R189): step sequencer `seq` of a compute die falls free. -/
def execSequencerSelect (die seq : Nat) (s : State) : Host.Outcome State Fault Refusal := act s (doSelect die seq s)

/-- A RUNNING context gives up its sequencer and is READY again. -/
def toReady (s : State) (h : Nat) : State :=
  let s := { s with sch := { s.sch with idleTick := s.sch.idleTick + 1 } }
  s.updCtx h (fun c => { c with st := .ready, sequencer := none, quantumOver := false, idleSince := s.sch.idleTick })

/-- Have all ops of the iteration issued and retired? -/
def iterDone (s : State) (c : Ctx) : Bool :=
  c.inflight.isEmpty &&
    match progOf s c.program, c.step with
    | some (_, p), some e => e.stopped || (match p.phases[c.phase]? with | some f => decide (f.count ≤ c.op) | none => true)
    | _, _ => false

/-- A quantum expires (R190): the context returns to READY, unless it is the only READY one of its die; where the iteration has just
ended the switch at the phase boundary is the only one (R192). -/
def doQuantumExpiry (h : Nat) (s : State) : State :=
  match s.ctx? h with
  | none => s
  | some c =>
    if c.st ≠ .running ∨ iterDone s c then s
    else if s.sch.ctxs.any (fun p => p.2.st == .ready && p.2.home == c.home) then (toReady s h).incFld R.SCHED_QUANTUM_CNT.COUNT
    else s

/-- QUANTUM_EXPIRY (R190). -/
def execQuantumExpiry (handle : Nat) (s : State) : Host.Outcome State Fault Refusal := act s (doQuantumExpiry handle s)

/-! The end of an iteration (R178, R181). -/

/-- The context goes to an iteration of a phase. -/
def goTo (s : State) (h phase iter retries : Nat) : State :=
  toReady (s.updCtx h (fun c => { c with phase := phase, iter := iter, op := 0, retries := retries,
                                         step := c.step.map (fun e => { e with retry := false }) })) h

/-- The iteration of a context ends: it runs again under RETRY, or the next iteration or phase follows, or the step ends. -/
def doIterationEnd (h : Nat) (s : State) : State :=
  match s.ctx? h with
  | none => s
  | some c =>
    match c.step, progOf s c.program with
    | some e, some (_, p) =>
      if c.st = .aborting ∨ !iterDone s c then s
      else if e.stopped then startNext (endStep s h) h
      else if e.retry then goTo s h c.phase c.iter (c.retries + 1)
      else
        match p.phases[c.phase]? with
        | none => s
        | some f =>
          if c.iter + 1 < f.repeat_ then goTo s h c.phase (c.iter + 1) 0
          else if f.next ≠ 0xFFFF then goTo s h f.next 0 0
          else startNext (endStep s h) h
    | _, _ => s

/-- PHASE_ITERATION_END (R178). -/
def execPhaseIterationEnd (handle : Nat) (s : State) : Host.Outcome State Fault Refusal := act s (doIterationEnd handle s)

/-! Fixed slots (R191). -/

/-- Ops still running: those in flight, but for a SYNC_WAIT, which holds no unit. -/
def runningOps (s : State) : Nat :=
  (s.sch.ctxs.map (fun p => p.2.inflight.countP (fun i =>
    match progOf s p.2.program with
    | some (_, q) => (match opAt q p.2 i with | some o => o.opcode != 0x21 | none => true)
    | none => true))).foldl (· + ·) 0

/-- A slot boundary: ops still running count as overruns and ownership passes to the slot of this time. -/
def doSlotBoundary (t : Nat) (s : State) : State :=
  let s := atTime s t
  if !s.flag R.SCHED_CTL.POLICY then s
  else
    takeSlot (if s.now < s.sch.slotEnd then s else s.incFld R.SCHED_OVERRUN_CNT.COUNT (runningOps s))

/-- SLOT_BOUNDARY (R191): at fabric time `time`. -/
def execSlotBoundary (time : Nat) (s : State) : Host.Outcome State Fault Refusal := act s (doSlotBoundary time s)

/-- The guard of the present slot begins. -/
def doSlotGuard (t : Nat) (s : State) : State :=
  let s := atTime s t
  if s.flag R.SCHED_CTL.POLICY && decide (s.sch.slotEnd ≤ s.now + s.fld R.SCHED_GUARD.GUARD) then
    { s with sch := { s.sch with guard := true } }
  else s

/-- SLOT_GUARD (R191): at fabric time `time`. -/
def execSlotGuard (time : Nat) (s : State) : Host.Outcome State Fault Refusal := act s (doSlotGuard time s)

end Sys2Proof.Machine
end

