-- ==== Sys2Proof/Machine/Sync.lean ====
section
/-! DEFINITION. The counter commands: SYNC_OP descriptors, the counter step ops, timeouts of waits and the firing of triggers (R194 to R196,
R208, R255). -/

namespace Sys2Proof.Machine

open Sys2Proof

/-! SYNC_OP descriptors (Table 11-4). -/

/-- A SYNC_OP of a KIND whose fixed fields are in order: its bytes. -/
def takeSync (s : State) (f r n kind : Nat) : Option (List Byte) :=
  match takeDesc s f r n 0x30, (findDesc s f r n).map (·.started) with
  | some d, some false => if fieldAt d 8 1 = kind then some d else none
  | _, _ => none

/-- Are the reserved bytes of a SYNC_OP zero, and the fields that its KIND does not use (DEDUCED, log entry 42)?
DEDUCED (unsafe): log entry 42. -/
def syncFieldsOk (d : List Byte) (kind : Nat) : Bool :=
  zeroAt d 10 2 && zeroAt d 28 4 && (kind != 4 || zeroAt d 16 8) && (kind == 1 || zeroAt d 24 4) &&
    (if kind = 3 then decide (fieldAt d 9 1 < 4) else zeroAt d 9 1 && zeroAt d 32 32)

/-- A SYNC_OP completes, with the counter's value (Table 11-7). -/
def syncDone (s : State) (f r n c : Nat) (st : Status) : State := complete s f r n st 0 (leBytes 8 (counterVal s c))

/-- A SYNC_OP's counter, and what it does there. -/
def onCounter (f r n kind : Nat) (act : List Byte → Nat → State → State) (s : State) : State :=
  match takeSync s f r n kind with
  | none => s
  | some d =>
    if !syncFieldsOk d kind then complete s f r n .invalid
    else match fnCounter s f (fieldAt d 12 4) with
      | none => complete s f r n .protection
      | some c => act d c s

/-- SYNC_OP ADD. -/
def doSyncOpAdd (f r n : Nat) : State → State :=
  onCounter f r n 0 (fun d c s => let a := syncAdd s c (fieldAt d 16 8); syncDone a.1 f r n c a.2)

/-- SYNC_OP_ADD (R194). -/
def execSyncOpAdd (fn ring num : Nat) (s : State) : Host.Outcome State Fault Refusal := act s (doSyncOpAdd fn ring num s)

/-- SYNC_OP WAIT: passes at once, or waits for the threshold or the timeout. -/
def doSyncOpWait (f r n : Nat) : State → State :=
  onCounter f r n 1 (fun d c s =>
    if fieldAt d 16 8 ≤ counterVal s c then syncDone s f r n c .ok
    else
      let s := markStarted s f r n
      { s with sch := { s.sch with waiters := s.sch.waiters ++ [⟨.desc f r n, c, fieldAt d 16 8, fieldAt d 24 4⟩] } })

/-- SYNC_OP_WAIT (R194). -/
def execSyncOpWait (fn ring num : Nat) (s : State) : Host.Outcome State Fault Refusal := act s (doSyncOpWait fn ring num s)

/-- SYNC_OP SET. -/
def doSyncOpSet (f r n : Nat) : State → State :=
  onCounter f r n 2 (fun d c s => let a := syncSet s c (fieldAt d 16 8); syncDone a.1 f r n c a.2)

/-- SYNC_OP_SET (R194). -/
def execSyncOpSet (fn ring num : Nat) (s : State) : Host.Outcome State Fault Refusal := act s (doSyncOpSet fn ring num s)

/-- The form of a kind 2 body (R255): an endpoint and generation, a POST_TAG, the rest zero. -/
def postBodyOk (b : List Byte) : Bool := decide (fieldAt b 0 4 < 2 ^ 28) && zeroAt b 8 24

/-- SYNC_OP ARM. -/
def doSyncOpArm (f r n : Nat) (s : State) : State :=
  match takeSync s f r n 3 with
  | none => s
  | some d =>
    if !syncFieldsOk d 3 then complete s f r n .invalid
    else
      let body := (d.drop 32).take 32
      let c := fnCounter s f (fieldAt d 12 4)
      let a := syncArm s f none c (fieldAt d 16 8) (fieldAt d 9 1) body (postBodyOk body)
      match c with
      | some c => syncDone a.1 f r n c a.2
      | none => complete a.1 f r n a.2

/-- SYNC_OP_ARM (R196). -/
def execSyncOpArm (fn ring num : Nat) (s : State) : Host.Outcome State Fault Refusal := act s (doSyncOpArm fn ring num s)

/-- SYNC_OP READ. -/
def doSyncOpRead (f r n : Nat) : State → State := onCounter f r n 4 (fun _ c s => syncDone s f r n c .ok)

/-- SYNC_OP_READ (R208). -/
def execSyncOpRead (fn ring num : Nat) (s : State) : Host.Outcome State Fault Refusal := act s (doSyncOpRead fn ring num s)

/-! The counter step ops (Table 10-6). -/

/-- The configuration-space address of a counter (R193).
DEDUCED (unsafe): log entry 71. -/
def counterAddr (c : Nat) : Nat := counterBase + 8 * c

/-- The request packet of an add to a counter at a node (R263): kind ADD.
DEDUCED (unsafe): log entry 71. -/
def remoteAdd (s : State) (node c inc : Nat) : Pkt := flowPkt s 4 node (counterAddr c) (atomicPayload 2 inc 0) false

/-- SYNC_ADD: to a local counter, or to the counter of the same number at a node. -/
def syncAddOp (k : OpCtx) (s : State) : OpOut :=
  if workOf s k.h k.idx then .wait s
  else
    match fnCounter s k.c.fn k.o.arg0 with
    | none => .done s .protection 0
    | some c =>
      if k.o.aux = 0xFFFF then let a := syncAdd s c k.o.arg1; .done a.1 a.2 0
      else
        match fabricCheck s k.c.fn (k.o.aux % 2 ^ 15) (counterAddr c) 8 .atomic with
        | .ok =>
          let w := newWork s ⟨.ctx k.h, k.idx, k.c.fn, 3, 1, .ok, false, 0, [], 0⟩
          .wait (post w.2 (.flow (k.o.aux % 2 ^ 15)) w.1 [(0, remoteAdd w.2 (k.o.aux % 2 ^ 15) c k.o.arg1)])
        | st => .done s st 0

/-- SYNC_ADD (R194). -/
def execSyncAdd (handle : Nat) (s : State) : Host.Outcome State Fault Refusal :=
  act s (runOp s handle (fun o => o.opcode == 0x20) syncAddOp)

/-- SYNC_WAIT: passes at once, or the context is WAITING until the threshold or the timeout. -/
def syncWaitOp (k : OpCtx) (s : State) : OpOut :=
  if s.sch.waiters.any (fun w => w.who == .ctx k.h) then .wait s
  else
    match fnCounter s k.c.fn k.o.arg0 with
    | none => .done s .protection 0
    | some c =>
      let th := k.o.arg1 + k.o.arg2 * 2 ^ 32
      if th ≤ counterVal s c then .done s .ok 0
      else
        let s := { s with sch := { s.sch with waiters := s.sch.waiters ++ [(⟨.ctx k.h, c, th, k.o.arg3⟩ : Waiter)] } }
        .wait (s.updCtx k.h (fun c => { c with st := .waiting, sequencer := none }))

/-- SYNC_WAIT (R194). -/
def execSyncWait (handle : Nat) (s : State) : Host.Outcome State Fault Refusal :=
  act s (runOp s handle (fun o => o.opcode == 0x21) syncWaitOp)

/-- SYNC_ARM: a poisoned body arms nothing (R196). -/
def syncArmOp (k : OpCtx) (s : State) : OpOut :=
  let c := fnCounter s k.c.fn k.o.arg0
  match operand s k k.o.src0 k.anyTile 0 32 false with
  | some l =>
    let r := locRead s k.h l 32
    if anyPsn r.1 then .done r.2 (if c.isSome then .poison else .protection) 0
    else
      let b := rawBytes r.1
      let a := syncArm r.2 k.c.fn (some k.h) c (k.o.arg1 + k.o.arg2 * 2 ^ 32) (k.o.var % 4) b (postBodyOk b)
      .done a.1 a.2 0
  | none => .done s .protection 0

/-- SYNC_ARM (R196). -/
def execSyncArm (handle : Nat) (s : State) : Host.Outcome State Fault Refusal :=
  act s (runOp s handle (fun o => o.opcode == 0x22) syncArmOp)

/-- SYNC_SET. -/
def syncSetOp (k : OpCtx) (s : State) : OpOut :=
  match fnCounter s k.c.fn k.o.arg0 with
  | none => .done s .protection 0
  | some c => let a := syncSet s c (k.o.arg1 + k.o.arg2 * 2 ^ 32); .done a.1 a.2 0

/-- SYNC_SET (R194). -/
def execSyncSet (handle : Nat) (s : State) : Host.Outcome State Fault Refusal :=
  act s (runOp s handle (fun o => o.opcode == 0x23) syncSetOp)

/-! Timeouts of waits (R194, R195). -/

/-- A wait with a timeout times out: it is released with ST_TIMEOUT and counted. One whose threshold has been met is released with ST_OK. -/
def waitTimeout (s : State) (who : Who) : State :=
  match s.sch.waiters.find? (fun w => w.who == who && w.timeout != 0) with
  | none => s
  | some w =>
    let s := { s with sch := { s.sch with waiters := s.sch.waiters.filter (fun x => x.who != who) } }
    if w.threshold ≤ counterVal s w.counter then releaseWaiter s w .ok
    else releaseWaiter (s.incFld R.SYNC_TIMEOUT_CNT.COUNT) w .timeout

/-- SYNC_WAIT_TIMEOUT (R194): of a context's SYNC_WAIT (`isDesc` false, `a` its handle), or of a SYNC_OP WAIT (function `a`, ring `b`,
descriptor `c`). -/
def execSyncWaitTimeout (isDesc : Bool) (a b c : Nat) (s : State) : Host.Outcome State Fault Refusal :=
  act s (waitTimeout s (if isDesc then .desc a b c else .ctx a))

/-! Firing (R196, R255). -/

/-- A body that fails at firing: fault 0x23 to the owning function (Tables 16-1 and 16-9). -/
def bodyFails (s : State) (t : Trigger) (st : Status) : State :=
  let obj := if t.kind = 0 then 0 else fieldAt t.body 0 4
  logFn s t.fn { entry0 s 0x23 st t.fn with context := t.ctx.getD (2 ^ 19 - 1), object := t.counter,
                                            detail := leBytes 1 t.kind ++ leBytes 3 0 ++ leBytes 4 obj }

/-- Kind 0: a SYNC_ADD as if issued by the arming context. -/
def fireAdd (s : State) (t : Trigger) : State :=
  let node := fieldAt t.body 10 2
  match fnCounter s t.fn (fieldAt t.body 12 4) with
  | none => bodyFails s t .protection
  | some c =>
    let inc := fieldAt t.body 16 4
    if node = 0xFFFF then
      let a := syncAdd s c inc
      if a.2 = .ok then a.1 else bodyFails a.1 t a.2
    else
      match fabricCheck s t.fn node (counterAddr c) 8 .atomic with
      | .ok =>
        let w := newWork s ⟨.module, 0, t.fn, 3, 1, .ok, false, 0, [], 0⟩
        post w.2 (.flow node) w.1 [(0, remoteAdd w.2 node c inc)]
      | st => bodyFails s t st

/-- Kind 1: where the context is still open, a CTX_STEP from a phase, the context unparked if need be; one that is refused completes on the
context's ring.
DESIGN CHOICE (unsafe): log entry 15. -/
def fireStep (s : State) (t : Trigger) (crcFails : Bool) : State :=
  let h := fieldAt t.body 0 4
  let ph := fieldAt t.body 4 2
  match s.ctx? h with
  | none => bodyFails s t .invalid
  | some c =>
    let phases := match progOf s c.program with | some (_, p) => p.hdr.phases | none => 0
    if c.fn ≠ t.fn then bodyFails s t .protection
    else if c.st = .aborting then bodyFails s t (if c.abort then .aborted else .invalid)
    else if ph ≠ 0xFFFF ∧ phases ≤ ph then refuseStep s c (.trigger t.fn t.counter) .invalid
    else if c.failed then refuseStep s c (.trigger t.fn t.counter) .deviceFault
    else askStep s h ⟨.trigger t.fn t.counter, ph, none⟩ crcFails

/-- Kind 2: the pre-posted work request starts; without one, the first that is posted later starts at once.
DEDUCED (unsafe): log entry 72. -/
def firePost (s : State) (key : Nat) (t : Trigger) : State :=
  let name := fieldAt t.body 0 4
  match namedEp s t.fn name with
  | .error st =>
    let s := bodyFails s t st
    (s.tr.pre.filter (fun p => p.trigger == key)).foldl (fun s p => complete s p.fn p.ring p.num .aborted)
      { s with tr := { s.tr with pre := s.tr.pre.filter (fun p => p.trigger != key) } }
  | .ok (k, e) =>
    match s.tr.pre.find? (fun p => p.trigger == key) with
    | some p =>
      let s := { s with tr := { s.tr with pre := s.tr.pre.filter (fun q => q.trigger != key) } }
      (match findDesc s p.fn p.ring p.num with
       | some d => startPost s noErrs p.fn p.ring p.num k e d.bytes
       | none => s)
    | none => { s with tr := { s.tr with fired := s.tr.fired ++ [⟨t.fn, 0, 0, name, fieldAt t.body 4 4, t.counter, key⟩] } }

/-- The oldest armed trigger of a counter whose threshold is met fires. -/
def fireTrigger (counter : Nat) (crcFails : Bool) (s : State) : State :=
  match s.sch.triggers.find? (fun t => t.2.counter == counter && decide (t.2.threshold ≤ counterVal s counter)) with
  | none => s
  | some (k, t) =>
    let s := { s with sch := { s.sch with triggers := Tab.del k s.sch.triggers } }
    let s := s.incFld R.SYNC_FIRE_CNT.COUNT
    match t.kind with
    | 0 => fireAdd s t
    | 1 => fireStep s t crcFails
    | _ => firePost s k t

/-- TRIGGER_FIRE (R196): on a counter by its number; `crcFails` says that the record of a context to be unparked fails its STATE_CRC. -/
def execTriggerFire (counter : Nat) (crcFails : Bool) (s : State) : Host.Outcome State Fault Refusal := act s (fireTrigger counter crcFails s)

end Sys2Proof.Machine
end

