-- ==== Sys2Proof/Machine/Dispatch.lean ====
section
/-! DEFINITION. The meaning of each command: one arm per constructor, each one direct call. -/

namespace Sys2Proof.Machine

open Sys2Proof

def exec (i : Instr) (s : State) : Host.Outcome State Fault Refusal :=
  match i with
  | .ctxOpen fn ring num handle region queues poisoned => Sys2Proof.Machine.execCtxOpen fn ring num handle region queues poisoned s
  | .ctxClose fn ring num => Sys2Proof.Machine.execCtxClose fn ring num s
  | .ctxStep fn ring num crcFails => Sys2Proof.Machine.execCtxStep fn ring num crcFails s
  | .spanCreate fn ring num span base => Sys2Proof.Machine.execSpanCreate fn ring num span base s
  | .spanFree fn ring num => Sys2Proof.Machine.execSpanFree fn ring num s
  | .spanProtect fn ring num answer => Sys2Proof.Machine.execSpanProtect fn ring num answer s
  | .kvWrite fn ring num errs => Sys2Proof.Machine.execKvWrite fn ring num errs s
  | .kvCommit fn ring num => Sys2Proof.Machine.execKvCommit fn ring num s
  | .kvRewind fn ring num => Sys2Proof.Machine.execKvRewind fn ring num s
  | .attnQuery fn ring num errs => Sys2Proof.Machine.execAttnQuery fn ring num errs s
  | .programLoad fn ring num frame poisoned => Sys2Proof.Machine.execProgramLoad fn ring num frame poisoned s
  | .bundleLoad fn ring num handle sigOk unwrapOk sections frames poisoned => Sys2Proof.Machine.execBundleLoad fn ring num handle sigOk unwrapOk sections frames poisoned s
  | .copy fn ring num errs => Sys2Proof.Machine.execCopy fn ring num errs s
  | .syncOpAdd fn ring num => Sys2Proof.Machine.execSyncOpAdd fn ring num s
  | .syncOpWait fn ring num => Sys2Proof.Machine.execSyncOpWait fn ring num s
  | .syncOpSet fn ring num => Sys2Proof.Machine.execSyncOpSet fn ring num s
  | .syncOpArm fn ring num => Sys2Proof.Machine.execSyncOpArm fn ring num s
  | .syncOpRead fn ring num => Sys2Proof.Machine.execSyncOpRead fn ring num s
  | .epCreate fn ring num pick => Sys2Proof.Machine.execEpCreate fn ring num pick s
  | .epDestroy fn ring num => Sys2Proof.Machine.execEpDestroy fn ring num s
  | .epPostWrite fn ring num errs => Sys2Proof.Machine.execEpPostWrite fn ring num errs s
  | .epPostRead fn ring num => Sys2Proof.Machine.execEpPostRead fn ring num s
  | .epPostWriteImm fn ring num errs => Sys2Proof.Machine.execEpPostWriteImm fn ring num errs s
  | .epPostFetchAdd fn ring num => Sys2Proof.Machine.execEpPostFetchAdd fn ring num s
  | .epPostCompareSwap fn ring num => Sys2Proof.Machine.execEpPostCompareSwap fn ring num s
  | .regionSet fn ring num => Sys2Proof.Machine.execRegionSet fn ring num s
  | .regionClear fn ring num => Sys2Proof.Machine.execRegionClear fn ring num s
  | .fence fn ring num => Sys2Proof.Machine.execFence fn ring num s
  | .nop fn ring num => Sys2Proof.Machine.execNop fn ring num s
  | .sqTail fn ring size value => Sys2Proof.Machine.execSqTail fn ring size value s
  | .cqHead fn ring size value => Sys2Proof.Machine.execCqHead fn ring size value s
  | .descriptorFetch fn ring readError => Sys2Proof.Machine.execDescriptorFetch fn ring readError s
  | .heldRecordDrain fn ring => Sys2Proof.Machine.execHeldRecordDrain fn ring s
  | .ringEnable fn ring value => Sys2Proof.Machine.execRingEnable fn ring value s
  | .ringDisable fn ring value => Sys2Proof.Machine.execRingDisable fn ring value s
  | .resume fn ring => Sys2Proof.Machine.execResume fn ring s
  | .winSync fn => Sys2Proof.Machine.execWinSync fn s
  | .coalTimeExpiry fn ring => Sys2Proof.Machine.execCoalTimeExpiry fn ring s
  | .initiateFlr fn => Sys2Proof.Machine.execInitiateFlr fn s
  | .resetDone fn => Sys2Proof.Machine.execResetDone fn s
  | .dlDown hostRef => Sys2Proof.Machine.execDlDown hostRef s
  | .linkTrained rate width hostRef => Sys2Proof.Machine.execLinkTrained rate width hostRef s
  | .hotReset => Sys2Proof.Machine.execHotReset s
  | .d3hotToD0 fn => Sys2Proof.Machine.execD3hotToD0 fn s
  | .mvTile handle stepwise errs => Sys2Proof.Machine.execMvTile handle stepwise errs s
  | .mvBank handle wset errs => Sys2Proof.Machine.execMvBank handle wset errs s
  | .bankCmds handle errs fails => Sys2Proof.Machine.execBankCmds handle errs fails s
  | .nbuFence handle => Sys2Proof.Machine.execNbuFence handle s
  | .streamHint handle => Sys2Proof.Machine.execStreamHint handle s
  | .tileCopy handle act_ errs => Sys2Proof.Machine.execTileCopy handle act_ errs s
  | .gatherRow handle errs => Sys2Proof.Machine.execGatherRow handle errs s
  | .norm handle bf errs => Sys2Proof.Machine.execNorm handle bf errs s
  | .elemwiseAdd handle bf bz errs => Sys2Proof.Machine.execElemwiseAdd handle bf bz errs s
  | .elemwiseMul handle bf bz errs => Sys2Proof.Machine.execElemwiseMul handle bf bz errs s
  | .elemwiseScale handle bf errs => Sys2Proof.Machine.execElemwiseScale handle bf errs s
  | .siluGate handle bf bz errs => Sys2Proof.Machine.execSiluGate handle bf bz errs s
  | .convert handle errs => Sys2Proof.Machine.execConvert handle errs s
  | .sumParts handle errs => Sys2Proof.Machine.execSumParts handle errs s
  | .elemwiseBankScale handle bf errs => Sys2Proof.Machine.execElemwiseBankScale handle bf errs s
  | .elemwiseBankAdd handle bf bz errs => Sys2Proof.Machine.execElemwiseBankAdd handle bf bz errs s
  | .elemwiseBankMul handle bf bz errs => Sys2Proof.Machine.execElemwiseBankMul handle bf bz errs s
  | .route handle errs => Sys2Proof.Machine.execRoute handle errs s
  | .attn handle bf errs => Sys2Proof.Machine.execAttn handle bf errs s
  | .attnMerge handle => Sys2Proof.Machine.execAttnMerge handle s
  | .send handle remote act_ table tgen errs => Sys2Proof.Machine.execSend handle remote act_ table tgen errs s
  | .bulkCopyList handle errs => Sys2Proof.Machine.execBulkCopyList handle errs s
  | .ring handle members position bothWays span slot kvHeads dim fmt ilog strided length queries hPerKv posQ0 sQk bias window sinks segStart oBf16 tentative epoch slots slotBytes creditFwd creditBwd errs => Sys2Proof.Machine.execRing handle members position bothWays span slot kvHeads dim fmt ilog strided length queries hPerKv posQ0 sQk bias window sinks segStart oBf16 tentative epoch slots slotBytes creditFwd creditBwd errs s
  | .kvAppend handle errs => Sys2Proof.Machine.execKvAppend handle errs s
  | .hznCommit handle => Sys2Proof.Machine.execHznCommit handle s
  | .hznRewind handle => Sys2Proof.Machine.execHznRewind handle s
  | .hznAccept handle => Sys2Proof.Machine.execHznAccept handle s
  | .collectiveSum handle errs => Sys2Proof.Machine.execCollectiveSum handle errs s
  | .allSum handle errs => Sys2Proof.Machine.execAllSum handle errs s
  | .collectiveBroadcast handle errs => Sys2Proof.Machine.execCollectiveBroadcast handle errs s
  | .collectiveGather handle errs => Sys2Proof.Machine.execCollectiveGather handle errs s
  | .syncAdd handle => Sys2Proof.Machine.execSyncAdd handle s
  | .syncWait handle => Sys2Proof.Machine.execSyncWait handle s
  | .syncArm handle => Sys2Proof.Machine.execSyncArm handle s
  | .syncSet handle => Sys2Proof.Machine.execSyncSet handle s
  | .sampleFull handle errs => Sys2Proof.Machine.execSampleFull handle errs s
  | .sampleLocal handle errs => Sys2Proof.Machine.execSampleLocal handle errs s
  | .sampleSelect handle errs => Sys2Proof.Machine.execSampleSelect handle errs s
  | .verify handle errs => Sys2Proof.Machine.execVerify handle errs s
  | .stepNop handle => Sys2Proof.Machine.execStepNop handle s
  | .sequencerSelect die seq => Sys2Proof.Machine.execSequencerSelect die seq s
  | .quantumExpiry handle => Sys2Proof.Machine.execQuantumExpiry handle s
  | .phaseIterationEnd handle => Sys2Proof.Machine.execPhaseIterationEnd handle s
  | .slotBoundary time => Sys2Proof.Machine.execSlotBoundary time s
  | .slotGuard time => Sys2Proof.Machine.execSlotGuard time s
  | .unpark handle crcFails => Sys2Proof.Machine.execUnpark handle crcFails s
  | .unparkWaitExpiry handle time => Sys2Proof.Machine.execUnparkWaitExpiry handle time s
  | .contextAbortDone handle => Sys2Proof.Machine.execContextAbortDone handle s
  | .syncWaitTimeout isDesc a b c => Sys2Proof.Machine.execSyncWaitTimeout isDesc a b c s
  | .triggerFire counter crcFails => Sys2Proof.Machine.execTriggerFire counter crcFails s
  | .streamFill tile buffer errs => Sys2Proof.Machine.execStreamFill tile buffer errs s
  | .tableMiss tile fn table generation => Sys2Proof.Machine.execTableMiss tile fn table generation s
  | .expanderDecode tile buffer errs => Sys2Proof.Machine.execExpanderDecode tile buffer errs s
  | .tileSelfCheck tile pass time => Sys2Proof.Machine.execTileSelfCheck tile pass time s
  | .tileWinWrite src tile value => Sys2Proof.Machine.execTileWinWrite src tile value s
  | .tileStreamWrite src tile value => Sys2Proof.Machine.execTileStreamWrite src tile value s
  | .tclkChange time => Sys2Proof.Machine.execTclkChange time s
  | .attnSlice stack pair fn hw span slot head kvs heads operand seq sQk posQ posBase posStride window sinks segStart first limit tentative fresh faults => Sys2Proof.Machine.execAttnSlice stack pair fn hw span slot head kvs heads operand seq sQk posQ posBase posStride window sinks segStart first limit tentative fresh faults s
  | .nbuKvAppend stack pair fn hw span slot row operand seq faults => Sys2Proof.Machine.execNbuKvAppend stack pair fn hw span slot row operand seq faults s
  | .mvSlice stack pair fn hw format rowAddr length segments rowBase operand seq faults => Sys2Proof.Machine.execMvSlice stack pair fn hw format rowAddr length segments rowBase operand seq faults s
  | .nbuElemwise stack pair fn hw format rowAddr length kind constant operand seq faults => Sys2Proof.Machine.execNbuElemwise stack pair fn hw format rowAddr length kind constant operand seq faults s
  | .sumsq stack pair fn hw format rowAddr length count seq faults => Sys2Proof.Machine.execSumsq stack pair fn hw format rowAddr length count seq faults s
  | .normApply stack pair fn hw format rowAddr length count gamma operand seq faults => Sys2Proof.Machine.execNormApply stack pair fn hw format rowAddr length count gamma operand seq faults s
  | .localCopy stack pair fn hw rowAddr length destination seq faults => Sys2Proof.Machine.execLocalCopy stack pair fn hw rowAddr length destination seq faults s
  | .fill stack pair fn hw rowAddr length pattern seq => Sys2Proof.Machine.execFill stack pair fn hw rowAddr length pattern seq s
  | .scrub faults time => Sys2Proof.Machine.execScrub faults time s
  | .selfCheck stack nbu pass time => Sys2Proof.Machine.execSelfCheck stack nbu pass time s
  | .pseudoChannelRetire pc time => Sys2Proof.Machine.execPseudoChannelRetire pc time s
  | .refreshDue stack pair mode => Sys2Proof.Machine.execRefreshDue stack pair mode s
  | .governorWindow stack arrivals => Sys2Proof.Machine.execGovernorWindow stack arrivals s
  | .nbuModeChange src stack value => Sys2Proof.Machine.execNbuModeChange src stack value s
  | .agePeriod time => Sys2Proof.Machine.execAgePeriod time s
  | .demote fromT2 errs => Sys2Proof.Machine.execDemote fromT2 errs s
  | .promote span page errs => Sys2Proof.Machine.execPromote span page errs s
  | .migrationSwitch span page lent errs => Sys2Proof.Machine.execMigrationSwitch span page lent errs s
  | .frameWaitTimeout byContext a ring num => Sys2Proof.Machine.execFrameWaitTimeout byContext a ring num s
  | .lendingSetup lender node gib t1 fns => Sys2Proof.Machine.execLendingSetup lender node gib t1 fns s
  | .recallNotice node handles time => Sys2Proof.Machine.execRecallNotice node handles time s
  | .recallDeadline lender node time => Sys2Proof.Machine.execRecallDeadline lender node time s
  | .remoteTimeout what key time => Sys2Proof.Machine.execRemoteTimeout what key time s
  | .attnReq node id handles req errs => Sys2Proof.Machine.execAttnReq node id handles req errs s
  | .partialData id status records => Sys2Proof.Machine.execPartialData id status records s
  | .ringPage handle header table batts time => Sys2Proof.Machine.execRingPage handle header table batts time s
  | .ringClose handle origin gen epoch time => Sys2Proof.Machine.execRingClose handle origin gen epoch time s
  | .ringAbortNotice handle => Sys2Proof.Machine.execRingAbortNotice handle s
  | .coll group id kind count bf16 epoch member down elems time => Sys2Proof.Machine.execColl group id kind count bf16 epoch member down elems time s
  | .collTimeout group id epoch time => Sys2Proof.Machine.execCollTimeout group id epoch time s
  | .collTimeoutMarker group id epoch source st => Sys2Proof.Machine.execCollTimeoutMarker group id epoch source st s
  | .dataFlit port vc fill codewords flit time => Sys2Proof.Machine.execDataFlit port vc fill codewords flit time s
  | .idle port codewords flit time => Sys2Proof.Machine.execIdle port codewords flit time s
  | .replay port codewords flit time => Sys2Proof.Machine.execReplay port codewords flit time s
  | .sync port codewords flit arrival => Sys2Proof.Machine.execSync port codewords flit arrival s
  | .hello port codewords flit time => Sys2Proof.Machine.execHello port codewords flit time s
  | .linkWord port sb rejected => Sys2Proof.Machine.execLinkWord port sb rejected s
  | .replayWaitExpiry port => Sys2Proof.Machine.execReplayWaitExpiry port s
  | .syncPeriod port time => Sys2Proof.Machine.execSyncPeriod port time s
  | .helloRepeat port => Sys2Proof.Machine.execHelloRepeat port s
  | .holdoverExpiry time => Sys2Proof.Machine.execHoldoverExpiry time s
  | .laneBurst port lane symbols lost time => Sys2Proof.Machine.execLaneBurst port lane symbols lost time s
  | .retrainDone port lane time => Sys2Proof.Machine.execRetrainDone port lane time s
  | .reformDone port time => Sys2Proof.Machine.execReformDone port time s
  | .lossOfSignal port time => Sys2Proof.Machine.execLossOfSignal port time s
  | .noFlitTimeout port time => Sys2Proof.Machine.execNoFlitTimeout port time s
  | .trainingAttempt port time => Sys2Proof.Machine.execTrainingAttempt port time s
  | .trainingDone port converged time => Sys2Proof.Machine.execTrainingDone port converged time s
  | .fabricReferenceLost => Sys2Proof.Machine.execFabricReferenceLost s
  | .write port vc header payload copy errs time => Sys2Proof.Machine.execWrite port vc header payload copy errs time s
  | .handoffRecord port vc header payload errs time => Sys2Proof.Machine.execHandoffRecord port vc header payload errs time s
  | .writeImm port vc header payload errs time => Sys2Proof.Machine.execWriteImm port vc header payload errs time s
  | .read port vc header payload errs time => Sys2Proof.Machine.execRead port vc header payload errs time s
  | .atomic port vc header payload errs time => Sys2Proof.Machine.execAtomic port vc header payload errs time s
  | .atomicComb port vc header payload errs time => Sys2Proof.Machine.execAtomicComb port vc header payload errs time s
  | .absorb port vc header payload time => Sys2Proof.Machine.execAbsorb port vc header payload time s
  | .partialPkt port vc header payload time => Sys2Proof.Machine.execPartialPkt port vc header payload time s
  | .flowReset port vc header payload time => Sys2Proof.Machine.execFlowReset port vc header payload time s
  | .ack port vc header payload time => Sys2Proof.Machine.execAck port vc header payload time s
  | .readData port vc header payload time => Sys2Proof.Machine.execReadData port vc header payload time s
  | .atomicData port vc header payload time => Sys2Proof.Machine.execAtomicData port vc header payload time s
  | .retry port vc header payload time => Sys2Proof.Machine.execRetry port vc header payload time s
  | .retryBackoffExpiry isEp id psn time => Sys2Proof.Machine.execRetryBackoffExpiry isEp id psn time s
  | .noRoute port vc header payload time => Sys2Proof.Machine.execNoRoute port vc header payload time s
  | .ackTimeout isEp id time => Sys2Proof.Machine.execAckTimeout isEp id time s
  | .missFetchDone isEp id time => Sys2Proof.Machine.execMissFetchDone isEp id time s
  | .missFetchTimeout isEp id time => Sys2Proof.Machine.execMissFetchTimeout isEp id time s
  | .bucketSend time => Sys2Proof.Machine.execBucketSend time s
  | .injectionWindow time => Sys2Proof.Machine.execInjectionWindow time s
  | .queueAppend queue handle bytes poison first last opEnd abandon node contrib time => Sys2Proof.Machine.execQueueAppend queue handle bytes poison first last opEnd abandon node contrib time s
  | .take queue time => Sys2Proof.Machine.execTake queue time s
  | .mark queue => Sys2Proof.Machine.execMark queue s
  | .rewind queue time => Sys2Proof.Machine.execRewind queue time s
  | .release queue position time => Sys2Proof.Machine.execRelease queue position time s
  | .unmark queue => Sys2Proof.Machine.execUnmark queue s
  | .qmFlush src value => Sys2Proof.Machine.execQmFlush src value s
  | .staleTimeout queue time => Sys2Proof.Machine.execStaleTimeout queue time s
  | .telemetrySample time => Sys2Proof.Machine.execTelemetrySample time s
  | .qstatAvgRead src => Sys2Proof.Machine.execQstatAvgRead src s
  | .shqCfgWrite src queue value => Sys2Proof.Machine.execShqCfgWrite src queue value s
  | .swap src port value => Sys2Proof.Machine.execSwap src port value s
  | .gateCycleStart port time => Sys2Proof.Machine.execGateCycleStart port time s
  | .mapStage epoch applyAt lost groups members targets time => Sys2Proof.Machine.execMapStage epoch applyAt lost groups members targets time s
  | .mapApply time => Sys2Proof.Machine.execMapApply time s
  | .drainWindowClose time => Sys2Proof.Machine.execDrainWindowClose time s
  | .newerEpochHoldExpiry time => Sys2Proof.Machine.execNewerEpochHoldExpiry time s
  | .rebuild holder node old fn body gen mode members lost rows scales span base => Sys2Proof.Machine.execRebuild holder node old fn body gen mode members lost rows scales span base s
  | .errorLogEvent fn time => Sys2Proof.Machine.execErrorLogEvent fn time s
  | .tlsConnect close terms anchor certOk => Sys2Proof.Machine.execTlsConnect close terms anchor certOk s
  | .claim codeOk anchors certOk => Sys2Proof.Machine.execClaim codeOk anchors certOk s
  | .releaseClaim => Sys2Proof.Machine.execReleaseClaim s
  | .constellationCeremony id members rekey stepsOk => Sys2Proof.Machine.execConstellationCeremony id members rekey stepsOk s
  | .releaseToken id keyGen sigOk idOk blocks => Sys2Proof.Machine.execReleaseToken id keyGen sigOk idOk blocks s
  | .releaseRevoke id => Sys2Proof.Machine.execReleaseRevoke id s
  | .firmwareInstall version svn sigOk => Sys2Proof.Machine.execFirmwareInstall version svn sigOk s
  | .commitSvn => Sys2Proof.Machine.execCommitSvn s
  | .clearRetirement kind unit_ => Sys2Proof.Machine.execClearRetirement kind unit_ s
  | .watchdogExpiry => Sys2Proof.Machine.execWatchdogExpiry s
  | .getVersion src => Sys2Proof.Machine.execGetVersion src s
  | .getCapabilities src => Sys2Proof.Machine.execGetCapabilities src s
  | .negotiateAlgorithms src => Sys2Proof.Machine.execNegotiateAlgorithms src s
  | .getDigests src => Sys2Proof.Machine.execGetDigests src s
  | .getCertificate src slot => Sys2Proof.Machine.execGetCertificate src slot s
  | .challenge src slot nonce => Sys2Proof.Machine.execChallenge src slot nonce s
  | .getMeasurements src index signed nonce => Sys2Proof.Machine.execGetMeasurements src index signed nonce s
  | .spdmUnsupportedRequest src => Sys2Proof.Machine.execSpdmUnsupportedRequest src s
  | .moduleReset fails edgeFails => Sys2Proof.Machine.execModuleReset fails edgeFails s
  | .resetN lowNs fails edgeFails => Sys2Proof.Machine.execResetN lowNs fails edgeFails s
  | .portReset port time => Sys2Proof.Machine.execPortReset port time s
  | .powerOff => Sys2Proof.Machine.execPowerOff s
  | .perstN => Sys2Proof.Machine.execPerstN s
  | .coldStart lowNs leakLow refs junction fails edgeFails => Sys2Proof.Machine.execColdStart lowNs leakLow refs junction fails edgeFails s
  | .pwrEnFall => Sys2Proof.Machine.execPwrEnFall s
  | .inputFault below40 => Sys2Proof.Machine.execInputFault below40 s
  | .leakN lowNs => Sys2Proof.Machine.execLeakN lowNs s
  | .thermalTrip cdMax pdMax dramMax afterLeak => Sys2Proof.Machine.execThermalTrip cdMax pdMax dramMax afterLeak s
  | .softThrottle cdMax pdMax time => Sys2Proof.Machine.execSoftThrottle cdMax pdMax time s
  | .softThrottleStep cdMax pdMax time => Sys2Proof.Machine.execSoftThrottleStep cdMax pdMax time s
  | .stackHot stack temp time => Sys2Proof.Machine.execStackHot stack temp time s
  | .dramAbove85 stack temp time => Sys2Proof.Machine.execDramAbove85 stack temp time s
  | .ceilingEvent watts cdMax pdMax time => Sys2Proof.Machine.execCeilingEvent watts cdMax pdMax time s
  | .ceilingRecoveryStep watts cdMax pdMax time => Sys2Proof.Machine.execCeilingRecoveryStep watts cdMax pdMax time s
  | .levelWindow watts vin inlet outlet filling compacted recodedSpans recodedTensors time => Sys2Proof.Machine.execLevelWindow watts vin inlet outlet filling compacted recodedSpans recodedTensors time s
  | .levelTclkStep watts time => Sys2Proof.Machine.execLevelTclkStep watts time s
  | .pwrCeilWrite src value => Sys2Proof.Machine.execPwrCeilWrite src value s
  | .lvlSetWrite src value => Sys2Proof.Machine.execLvlSetWrite src value s
  | .napEntry idleUs time => Sys2Proof.Machine.execNapEntry idleUs time s
  | .deepReq src value => Sys2Proof.Machine.execDeepReq src value s
  | .napExit time => Sys2Proof.Machine.execNapExit time s
  | .napExitDone tiles nbus time => Sys2Proof.Machine.execNapExitDone tiles nbus time s
  | .smbusStateRead => Sys2Proof.Machine.execSmbusStateRead s
  | .smbusFruRead => Sys2Proof.Machine.execSmbusFruRead s
  | .smbusPowerRead => Sys2Proof.Machine.execSmbusPowerRead s
  | .smbusWrite => Sys2Proof.Machine.execSmbusWrite s
  | .lockSet src addr value => Sys2Proof.Machine.execLockSet src addr value s
  | .w1cClear src addr size value => Sys2Proof.Machine.execW1cClear src addr size value s
  | .rcRead src addr size => Sys2Proof.Machine.execRcRead src addr size s
  | .badAccess src addr size write value => Sys2Proof.Machine.execBadAccess src addr size write value s
  | .registerWrite src addr size value => Sys2Proof.Machine.execRegisterWrite src addr size value s
  | .retrainTimeout port lane time => Sys2Proof.Machine.execRetrainTimeout port lane time s
  | .failureWindowExpiry time => Sys2Proof.Machine.execFailureWindowExpiry time s
  | .dramTemperatureFall stack temp time => Sys2Proof.Machine.execDramTemperatureFall stack temp time s
  | .perstNRelease => Sys2Proof.Machine.execPerstNRelease s
  | .thermTripRelease lowNs => Sys2Proof.Machine.execThermTripRelease lowNs s
  | .fabricReferenceReturn fails edgeFails => Sys2Proof.Machine.execFabricReferenceReturn fails edgeFails s
  | .recall node handles => Sys2Proof.Machine.execRecall node handles s
  | .recallAcknowledgement node handles last => Sys2Proof.Machine.execRecallAcknowledgement node handles last s
  | .lentPageRelease node handles => Sys2Proof.Machine.execLentPageRelease node handles s
  | .borrowerFlrNotice node fn => Sys2Proof.Machine.execBorrowerFlrNotice node fn s
  | .restoreFromReplica sending fn node id keyGen base packets => Sys2Proof.Machine.execRestoreFromReplica sending fn node id keyGen base packets s
  | .constellationMemberRemoval id => Sys2Proof.Machine.execConstellationMemberRemoval id s
  | .operatorConfigurationChange anchors publishers config => Sys2Proof.Machine.execOperatorConfigurationChange anchors publishers config s

end Sys2Proof.Machine
end

