-- ==== Sys2Proof/Machine/Idle.lean ====
section
/-! DEFINITION. What the module does on its own while no command waits. -/

namespace Sys2Proof.Machine

open Sys2Proof

/-- With no command waiting the background scrub completes: everything that waits to be scrubbed becomes free (R93, R346).
With nothing to scrub the module idles.
DESIGN CHOICE (unsafe in part): log entry 1. -/
def idleStep (s : State) : State := if scrubBusy s then scrubAll s else s

end Sys2Proof.Machine
end

