-- ==== Sys2Proof/Machine/Step.lean ====
section
/-! DEFINITION. One step of the module: the command at the front of the queue, run with the queue's rest. On an empty queue the
module's background scrub goes on (log entry 1). -/

namespace Sys2Proof.Machine

open Sys2Proof

/-- One step: the oldest waiting command, or, with none waiting, what the module does on its own.
DESIGN CHOICE (unsafe in part): log entry 1. -/
def step (s : State) : Host.Outcome State Fault Refusal :=
  match s.pending with
  | c :: rest => exec c { s with pending := rest }
  | [] => .next (idleStep s)

/-- The state with the command that a word spells put at the front of its queue; unchanged where the word spells none. -/
def State.withFetchWord (s : State) (nbits w : Nat) : State :=
  match decodeTableWord nbits w with
  | some c => { s with pending := c :: s.pending }
  | none => s

end Sys2Proof.Machine
end

