-- ==== Sys2Proof/Safety.lean ====
section
/-! DEFINITION. What counts as a safe step, the invariants of the module's state, and what the end of a command may change. -/

namespace Sys2Proof.Machine

open Sys2Proof

/-- A step of the module from a state answers a next state. -/
def StepsOn (s : State) : Prop := ∃ t, step s = .next t

/-- A command answers a next state. -/
def RunsOn (c : Instr) (s : State) : Prop := ∃ t, exec c s = .next t

/-- The commands that the management island answers, and the pin events and resets it watches, in every power state: they reach it while the
module is off, in reset or out of service too (R18, R310, Table 17-6). -/
def worksOff (c : Instr) : Bool :=
  match c with
  | .tlsConnect .. | .claim .. | .releaseClaim .. | .firmwareInstall .. | .commitSvn .. | .clearRetirement .. | .watchdogExpiry ..
  | .operatorConfigurationChange .. | .moduleReset .. | .resetN .. | .powerOff .. | .perstN .. | .perstNRelease .. | .coldStart ..
  | .pwrEnFall .. | .inputFault .. | .leakN .. | .thermalTrip .. | .thermTripRelease .. | .smbusStateRead .. | .smbusFruRead ..
  | .smbusPowerRead .. | .smbusWrite .. | .fabricReferenceReturn .. => true
  | _ => false

/-- Is ALERT_N driven low: a bit unmasked in ALERT_MGMT is 1 (R355), or the module is out of service or held in reset (R18, R302, R310)? -/
def alertLow (s : State) : Bool :=
  (List.range 18).any (fun b => bitAt (s.fld R.ALERT_STAT.BLOCKS) b && bitAt (s.fld R.ALERT_MGMT.MGMT) b) ||
    s.pow.st == .outOfService || s.pow.st == .held

/-- ALERT_STAT follows the leaves of the alert tree, and ALERT_N follows ALERT_MGMT (R355). -/
structure AlertInv (s : State) : Prop where
  blocks : s.fld R.ALERT_STAT.BLOCKS = alertBits s
  pin : s.pins.alertN = !alertLow s

/-- The canonical form of the memory: addresses strictly rising and no entry equal to what an unlisted byte reads as, and the sets and
tables kept beside it in order. -/
def Memory.wf (m : Memory) : Bool :=
  Tab.wf 0#8 m.mem && Tab.sorted m.unfenced && Tab.sorted m.remap && Tab.sorted m.frames && Tab.sorted m.runs

/-- The host memory as the model holds it, in the same form. -/
def HostIf.wf (h : HostIf) : Bool := Tab.wf 0#8 h.hostMem && Tab.wf ring0 h.rings && Tab.wf fnHost0 h.fns

/-- The places of the register store that an event of a function, or the alert tree, writes. -/
def EvtKey (f k : Nat) : Prop :=
  k = Fld.key R.ALERT_STAT.BLOCKS 0 0 ∨ k = Fld.key R.HI_FN_EVT_LOST.COUNT f 0 ∨ k = Fld.key R.HI_FN_STAT.EVT_LOST f 0 ∨
    k = Fld.key R.FLT_FN_LOST.COUNT f 0 ∨ ∃ r, k = Fld.key R.HI_RING_STAT.FETCH_ERR f r

/-- What delivering events of function `f`, and bringing up the alert tree, leaves as it was: everything but host records and their counts
for that function, its error log, the last fault entered, the free values drawn, what is sent out, and ALERT_N. -/
structure Quiet (f : Nat) (s t : State) : Prop where
  pending : t.pending = s.pending
  mm : t.mm = s.mm
  pg : t.pg = s.pg
  sch : t.sch = s.sch
  qm : t.qm = s.qm
  nbu : t.nbu = s.nbu
  attn : t.attn = s.attn
  tl : t.tl = s.tl
  tr : t.tr = s.tr
  fab : t.fab = s.fab
  mer : t.mer = s.mer
  pow : t.pow = s.pow
  sec : t.sec = s.sec
  pins : t.pins = { s.pins with alertN := t.pins.alertN }
  regs : ∀ k, ¬ EvtKey f k → Tab.find? k t.regs = Tab.find? k s.regs
  rings : ∀ g r, (t.ring g r).acc = (s.ring g r).acc ∧ (t.ring g r).fetched = (s.ring g r).fetched ∧
    (t.ring g r).tail = (s.ring g r).tail ∧ (t.ring g r).head = (s.ring g r).head ∧ (t.ring g r).stopped = (s.ring g r).stopped
  fns : ∀ g, g ≠ f → t.fnHost g = s.fnHost g
  resetting : ∀ g, (t.fnHost g).resetting = (s.fnHost g).resetting
  msix : t.host.msix = s.host.msix
  accepted : t.host.accepted = s.host.accepted
  numVfs : t.host.numVfs = s.host.numVfs
  linkDown : t.host.linkDown = s.host.linkDown
  flt : t.flt = { s.flt with fnLogs := t.flt.fnLogs, latest := t.flt.latest }
  logs : ∀ g, g ≠ f → t.fnLog g = s.fnLog g
  out : ∃ l, t.out = s.out ++ l

/-- Step op `k.o` is the one at OP of context `k.h`, of a kind that `sel` accepts, and it may issue now (R178, R180, R181, R191, R341). -/
structure Issues (s : State) (sel : Op → Bool) (k : OpCtx) : Prop where
  awake : inA0 s = true
  ctx : s.ctx? k.h = some k.c
  idx : k.idx = k.c.op
  prog : progOf s k.c.program = some (k.q, k.p)
  op : opAt k.p k.c k.c.op = some k.o
  kind : sel k.o = true
  running : k.c.st = .running
  stepping : ∃ e, k.c.step = some e ∧ e.stopped = false
  dep : depOk k.c k.o = true
  slot : mayIssue s k.h k.c = true

/-- The state in which an issued op runs: OP has moved past it, and it is in flight. -/
def issued (s : State) (k : OpCtx) : State :=
  s.setCtx k.h { k.c with op := k.c.op + 1, inflight := NSet.add k.c.op k.c.inflight }

/-- A page at hand: it does not migrate, and lies in T1 on a stack that does not drain, or in T2 where the span's batts are read in place, or
has never been backed (Table 8-7). -/
def PageHere (s : State) (x : Span) (n p : Nat) : Prop :=
  migOf s n p = none ∧ ((s.pte n p).st = .unbacked ∨ ((s.pte n p).st = .t1 ∧ drains s (frameStack (s.pte n p).frame) = false) ∨
    ((s.pte n p).st = .t2 ∧ x.t2Attn = true))

/-- The state after the pages of an operation, all at hand, have been read: batts of T2 decoded where they lie, and the pages touched. -/
def readHere (s : State) (n ctx : Nat) (bad : List (Nat × Nat × Byte)) (ps : List (Nat × List Nat)) : State :=
  let d := (decodeInPlace n ctx bad ((ps.map (·.1)).filter (fun p => (s.pte n p).st = .t2)) s).1
  touchRead { d with pg := { d.pg with ptes := s.pg.ptes } } n ps

/-- The partials of an operation whose pages are all at hand (R142). -/
def partsHere (s : State) (n ctx : Nat) (x : Span) (q : AttnReq) (bad : List (Nat × Nat × Byte)) (ps : List (Nat × List Nat)) : List Partial :=
  let d := decodeInPlace n ctx bad ((ps.map (·.1)).filter (fun p => (s.pte n p).st = .t2)) s
  localParts d.1 x q n d.2 ps

/-- What a tile op may leave changed, given the tiles `ts` it ran on and the bytes `len` its form stores: the bytes of DST on each of those
tiles, in memory or in PROGRAM_AREA, the poison marks of their lines, the context's TOKEN where `tok` says so, and the free values drawn. -/
structure OpKeeps (k : OpCtx) (len : Nat) (tok : Bool) (s u : State) (ts : List Nat) : Prop where
  rest : u = { s with mm := { s.mm with mem := u.mm.mem, psn := u.mm.psn }, sch := { s.sch with ctxs := u.sch.ctxs }, freeCtr := u.freeCtr }
  others : ∀ h, h ≠ k.h → u.ctx? h = s.ctx? h
  own : ∀ c, s.ctx? k.h = some c → ∃ d, u.ctx? k.h = some d ∧
    d = { c with area := d.area, areaPsn := d.areaPsn, token := d.token } ∧ (tok = false → d.token = c.token) ∧
    ∀ i, (∀ t o, t ∈ ts → operand s k k.o.dst t 0 len true = some (.area o) → i < o ∨ o + len ≤ i) → d.area.getD i 0#8 = c.area.getD i 0#8
  bytes : ∀ x, (∀ t a i, t ∈ ts → operand s k k.o.dst t 0 len true = some (.mem a) → i < len → remapAddr s (a + i) ≠ x) →
    Tab.get 0#8 x u.mm.mem = Tab.get 0#8 x s.mm.mem
  marks : ∀ l, (∀ t a i, t ∈ ts → operand s k k.o.dst t 0 len true = some (.mem a) → i < len → remapAddr s (a + i) / 64 ≠ l / 2) →
    NSet.has l u.mm.psn = NSet.has l s.mm.psn

end Sys2Proof.Machine
end

