-- ==== Sys2Proof/Certificates/Slice0/Obligations.lean ====
section
/-! DEFINITION. The statements about the model, for the provers. Each says in its docstring which rules of spec/ it comes from. -/

open Sys2Proof Sys2Proof.Machine

/-- With the module on, an 8-byte SQ_TAIL or CQ_HEAD write with reserved bits zero, to an enabled ring of a function that is not being reset and within
the bounds R205 gives, sets the ring's tail or head and nothing else before the end of the command; any other doorbell sets DB_REJECT, counts in
HI_FN_DB_CNT and leaves the ring as it was. Each answers a next state. -/
def Obligations.DoorbellsPost : Prop :=
  (∀ (s : State) (f r v : Nat), s.pow.st = .on → v < 2 ^ 32 → s.flag R.HI_RING_CTL.ENABLE f r = true →
    (s.fnHost f).resetting = none →
    (v + 2 ^ 32 - (s.ring f r).tail) % 2 ^ 32 < 2 ^ 31 →
    (v + 2 ^ 32 - (s.ring f r).fetched) % 2 ^ 32 ≤ 2 ^ s.fld R.HI_SQ_BASE.SQ_LOG2 f r →
    exec (.sqTail f r 8 v) s = .next (finish (s.setRing f r { s.ring f r with tail := v }))) ∧
  (∀ (s : State) (f r v : Nat), s.pow.st = .on → v < 2 ^ 32 → s.flag R.HI_RING_CTL.ENABLE f r = true →
    (s.fnHost f).resetting = none →
    (v + 2 ^ 32 - (s.ring f r).head) % 2 ^ 32 < 2 ^ 31 →
    ((s.ring f r).produced + 2 ^ 32 - v) % 2 ^ 32 ≤ 2 ^ s.fld R.HI_CQ_BASE.CQ_LOG2 f r →
    exec (.cqHead f r 8 v) s = .next (finish (s.setRing f r { s.ring f r with head := v }))) ∧
  (∀ (s : State) (f r n v : Nat), s.pow.st = .on →
    (n ≠ 8 ∨ 2 ^ 32 ≤ v ∨ s.flag R.HI_RING_CTL.ENABLE f r = false ∨ (s.fnHost f).resetting.isSome = true ∨
      2 ^ 31 ≤ (v + 2 ^ 32 - (s.ring f r).tail) % 2 ^ 32 ∨
      2 ^ s.fld R.HI_SQ_BASE.SQ_LOG2 f r < (v + 2 ^ 32 - (s.ring f r).fetched) % 2 ^ 32) →
    exec (.sqTail f r n v) s =
      .next (finish ((s.setFld R.HI_RING_STAT.DB_REJECT 1 f r).incFld R.HI_FN_DB_CNT.COUNT 1 f))) ∧
  (∀ (s : State) (f r n v : Nat), s.pow.st = .on →
    (n ≠ 8 ∨ 2 ^ 32 ≤ v ∨ s.flag R.HI_RING_CTL.ENABLE f r = false ∨ (s.fnHost f).resetting.isSome = true ∨
      2 ^ 31 ≤ (v + 2 ^ 32 - (s.ring f r).head) % 2 ^ 32 ∨
      2 ^ s.fld R.HI_CQ_BASE.CQ_LOG2 f r < ((s.ring f r).produced + 2 ^ 32 - v) % 2 ^ 32) →
    exec (.cqHead f r n v) s =
      .next (finish ((s.setFld R.HI_RING_STAT.DB_REJECT 1 f r).incFld R.HI_FN_DB_CNT.COUNT 1 f)))

/-- Clause by clause, with the module on: a fetch that may be made, is not in error and that the window table allows accepts the descriptor at FETCHED and
advances it; one that meets an error stops the ring, sets FETCH_ERR and raises the RING_ERROR event; held records drain in order; HI_RING_CTL written
with ENABLE 1 to a stopped ring below RINGS_MAX starts it with its counts at 0 (and a pass number one up where descriptors are in flight), with ENABLE
0 stops it; RESUME resumes fetching; WIN_SYNC leaves SYNC at 0; an expiry of COAL_TIME with unsignalled records signals the ring's vector; link
training, the host reference being in tolerance, clears linkDown and gives RATE and WIDTH, and without the reference HOST_REF reads 0 and the link
does not train; a NOP completes with ST_OK; a FENCE completes with ST_OK and, with NBU set, no unfenced sector of its function is left. Each answers
the next state named. -/
def Obligations.RingsRun : Prop :=
  (∀ (s : State) (f r : Nat) (b : List Byte), s.pow.st = .on → mayFetch s f r = true →
    hostRead s f (s.fld R.HI_SQ_BASE.ADDR f r * 4096 + (s.ring f r).fetched % 2 ^ s.fld R.HI_SQ_BASE.SQ_LOG2 f r * 64) 64 = some b →
    descKnown b = true →
    ∃ t, exec (.descriptorFetch f r false) s = .next (finish t) ∧
      t.ring f r = { s.ring f r with fetched := ((s.ring f r).fetched + 1) % 2 ^ 32, acc := (s.ring f r).acc ++
        [⟨(s.ring f r).pass * 2 ^ 32 + (s.ring f r).fetched, b, s.host.accepted, false⟩] } ∧
      t.host.accepted = s.host.accepted + 1 ∧ t.regs = s.regs ∧ t.mm = s.mm ∧ t.host.hostMem = s.host.hostMem) ∧
  (∀ (s : State) (f r : Nat) (b : List Byte), s.pow.st = .on → mayFetch s f r = true →
    hostRead s f (s.fld R.HI_SQ_BASE.ADDR f r * 4096 + (s.ring f r).fetched % 2 ^ s.fld R.HI_SQ_BASE.SQ_LOG2 f r * 64) 64 = some b →
    exec (.descriptorFetch f r true) s = .next (finish (raiseEvent ((s.setRing f r { s.ring f r with stopped := true }).setFld
      R.HI_RING_STAT.FETCH_ERR 1 f r) f 0x03 .deviceFault (leBytes 4 r ++ leBytes 4 (s.ring f r).fetched)))) ∧
  (∀ (s : State) (f r : Nat), s.pow.st = .on →
    exec (.heldRecordDrain f r) s = .next (finish (flushEvents (drainHeld s f r) f))) ∧
  (∀ (s : State) (f r v : Nat), s.pow.st = .on → bits v 11 1 < vectorsOf s f → r < s.fld R.HI_FN_LIMIT.RINGS_MAX f →
    s.flag R.HI_RING_CTL.ENABLE f r = false → v < 2 ^ 30 → v % 2 = 1 →
    exec (.ringEnable f r v) s = .next (finish (flushEvents (startRing (setRingCtl s f r v) f r) f)) ∧
      (startRing (setRingCtl s f r v) f r).ring f r =
        { s.ring f r with fetched := 0, tail := 0, head := 0, produced := 0, stopped := false, unsig := 0,
                          pass := if (s.ring f r).acc.isEmpty then 0 else (s.ring f r).pass + 1 } ∧
      (startRing (setRingCtl s f r v) f r).flag R.HI_RING_CTL.ENABLE f r = true) ∧
  (∀ (s : State) (f r v : Nat), s.pow.st = .on → bits v 11 1 < vectorsOf s f → v < 2 ^ 30 → v % 2 = 0 →
    exec (.ringDisable f r v) s = .next (finish ((setRingCtl s f r v).setFld R.HI_RING_CTL.ENABLE 0 f r))) ∧
  (∀ (s : State) (f r : Nat), s.pow.st = .on →
    exec (.resume f r) s = .next (finish ((s.setRing f r { s.ring f r with stopped := false }).setFld R.HI_RING_STAT.FETCH_ERR 0 f r))) ∧
  (∀ (s : State) (f : Nat), s.pow.st = .on → exec (.winSync f) s = .next (finish (s.setFld R.HI_WIN_SYNC.SYNC 0 f))) ∧
  (∀ (s : State) (f r : Nat), s.pow.st = .on → s.fld R.HI_RING_CTL.COAL_TIME f r ≠ 0 → (s.ring f r).unsig ≠ 0 →
    exec (.coalTimeExpiry f r) s = .next (finish (signalVec (s.setRing f r { s.ring f r with unsig := 0 }) f
      (s.fld R.HI_RING_CTL.VECTOR f r)))) ∧
  (∀ (s : State) (rate width : Nat), s.pow.st = .on →
    ∃ t, exec (.linkTrained rate width true) s = .next (finish t) ∧ t.host.linkDown = false ∧ t.flag R.HI_STAT.LINK_UP = true ∧
      t.fld R.HI_STAT.RATE = rate % 2 ^ R.HI_STAT.RATE.wd ∧ t.fld R.HI_STAT.WIDTH = width % 2 ^ R.HI_STAT.WIDTH.wd ∧
      t.fld R.CLK_STAT.HOST_REF = 1) ∧
  (∀ (s : State) (rate width : Nat), s.pow.st = .on →
    ∃ t, exec (.linkTrained rate width false) s = .next (finish t) ∧ t.host = s.host ∧ t.fld R.CLK_STAT.HOST_REF = 0 ∧
      t.fld R.HI_STAT.LINK_UP = s.fld R.HI_STAT.LINK_UP) ∧
  (∀ (s : State) (f r n : Nat) (b : List Byte), s.pow.st = .on → takeDesc s f r n 0x3F = some b → zeroAt b 8 56 = true →
    exec (.nop f r n) s = .next (finish (complete s f r n .ok))) ∧
  (∀ (s : State) (f r n : Nat) (b : List Byte), s.pow.st = .on → takeDesc s f r n 0x3E = some b → fieldAt b 8 1 = 1 →
    zeroAt b 9 55 = true →
    exec (.fence f r n) s = .next (finish (complete (fenceSectors s (fun u => u.1 == f)) f r n .ok)) ∧
      ∀ p ∈ (fenceSectors s (fun u => u.1 == f)).mm.unfenced, ∀ w ∈ p.2.by_, w.1 ≠ f) ∧
  (∀ (s : State) (f r n : Nat) (b : List Byte), s.pow.st = .on → takeDesc s f r n 0x3E = some b → fieldAt b 8 1 = 0 →
    zeroAt b 9 55 = true → exec (.fence f r n) s = .next (finish (complete s f r n .ok)))

/-- Clause by clause, with the module on: PROGRAM_LOAD of a valid image stores the image in its T1 region, lists the program and completes with ST_OK,
wherever its region can be made, and so below the function's ceiling on picked frames that are free; CTX_OPEN whose fields, program, bindings and
quota are good makes the context and completes with what making it answers, which for a program without receive queues, below the ceiling, on free
frames and with a free place in the save area is ST_OK and an open context, idle or parked, that holds what the descriptor gives; CTX_CLOSE of an open
context of its function aborts it and completes the earlier CTX_STEPs with ST_ABORTED, so that an idle context with nothing waiting is ABORTING;
CTX_STEP of an open, healthy context with no earlier CTX_STEP before it is marked started and asks the step of it, so that an idle resident context
with nothing waiting is READY at the phase asked; UNPARK of a parked context with a step waiting makes it resident and starts the step, wherever it
can be made resident, and so below its function's ceiling with a hardware number free, its program's tiles in service with room for its slices, and
admission not held back; an expired UNPARK_WAIT completes the step with ST_RETRY_LATER; the end of an abort completes the CTX_CLOSE with ST_OK in a
state that lists neither the context's record nor its slices, its T1 region or its queues. -/
def Obligations.ContextsOpenRunClose : Prop :=
  (∀ (s t : State) (f r n pick a : Nat) (tlp : List (Nat × Nat)) (d img : List (BitVec 8)) (p : Prog), s.pow.st = .on →
    takeDesc s f r n 0x20 = some d →
    zeroAt d 20 44 = true → hostRead s f (fieldAt d 8 8) (fieldAt d 16 4) = some img →
    hostPsn (withTlp tlp s) (fieldAt d 8 8) (fieldAt d 16 4) = false → validProg img = some p →
    (fnPrograms s f).any (fun q => q.2.id == p.hdr.id) = false → s.sch.programs.length < 256 →
    combReserved s + ((memberGroups s p).map (·.1.depth)).foldl (· + ·) 0 ≤ 2048 →
    makeRegion (withTlp tlp s) f img.length .image (Tab.freeFrom 0 s.sch.programs) pick = some (a, t) →
    let u := pwrite' t a (cleanBytes img)
    let q : Program := ⟨f, p.hdr.id, a, img.length, (memberGroups u p).map (fun g => (g.1.id, g.2))⟩
    let v := { u with
      sch := { u.sch with programs := Tab.ins (Tab.freeFrom 0 s.sch.programs) q u.sch.programs }
      tl := { u.tl with dir := u.tl.dir ++ progTables f a p } }
    exec (.programLoad f r n pick tlp) s = .next (finish (complete (endWait v (.desc f r n)) f r n .ok 0
      (leBytes 2 p.hdr.id ++ List.replicate 6 0#8 ++ leBytes 8 (ceilDiv img.length 65536 * 65536))))) ∧
  (∀ (s : State) (f r n pick : Nat) (tlp : List (Nat × Nat)) (d img : List (BitVec 8)) (p : Prog), s.pow.st = .on →
    takeDesc s f r n 0x20 = some d → zeroAt d 20 44 = true → hostRead s f (fieldAt d 8 8) (fieldAt d 16 4) = some img →
    hostPsn (withTlp tlp s) (fieldAt d 8 8) (fieldAt d 16 4) = false → validProg img = some p → img ≠ [] →
    (fnPrograms s f).any (fun q => q.2.id == p.hdr.id) = false → s.sch.programs.length < 256 →
    combReserved s + ((memberGroups s p).map (·.1.depth)).foldl (· + ·) 0 ≤ 2048 →
    fnT1 s f + ceilDiv img.length 65536 ≤ s.fld R.FN_T1_CEIL f → framesFree s pick (ceilDiv img.length 65536) = true →
    let slot := Tab.freeFrom 0 s.sch.programs
    ∃ t, exec (.programLoad f r n pick tlp) s = .next (finish (complete t f r n .ok 0
        (leBytes 2 p.hdr.id ++ List.replicate 6 0#8 ++ leBytes 8 (ceilDiv img.length 65536 * 65536)))) ∧
      Tab.find? slot t.sch.programs =
        some ⟨f, p.hdr.id, frameAddr pick, img.length, (memberGroups s p).map (fun g => (g.1.id, g.2))⟩ ∧
      t.mm.regions = s.mm.regions ++ [⟨frameAddr pick, img.length, f, .image, slot⟩] ∧ t.regs = s.regs ∧ t.sch.ctxs = s.sch.ctxs) ∧
  (∀ (s : State) (f r n handle region slot : Nat) (queues : List Nat) (tlp : List (Nat × Nat)) (d bb pa : List (BitVec 8)) (q : Program)
    (p : Prog) (bs : List Binding) (t : State) (st : Status) (res : List (BitVec 8)), s.pow.st = .on → takeDesc s f r n 0x01 = some d →
    (fnPrograms s f).find? (fun q => q.2.id == fieldAt d 8 2) = some (slot, q) → progOf s slot = some (q, p) →
    fieldAt d 12 1 ≤ 8 → fieldAt d 40 2 ≤ 1536 → zeroAt d 13 3 = true → zeroAt d 42 6 = true → zeroAt d 56 8 = true →
    fieldAt d 10 2 % 64 = 0 → p.hdr.workKib ≤ fieldAt d 10 2 → fieldAt d 10 2 ≤ 8192 - 256 * p.hdr.winSize →
    hostRead s f (fieldAt d 32 8) (16 * fieldAt d 12 1) = some bb → hostRead s f (fieldAt d 48 8) (fieldAt d 40 2) = some pa →
    hostPsn (withTlp tlp s) (fieldAt d 32 8) (16 * fieldAt d 12 1) = false →
    parseBindings bb (fieldAt d 12 1) = some bs → foreignBinding s f bs = false →
    residentOf s f + parkedOf s f < s.fld R.FN_CTX_HW_CEIL f + s.fld R.FN_CTX_PARK_CEIL f →
    let bad := areaLost (withTlp tlp s) (fieldAt d 48 8) (fieldAt d 40 2)
    makeCtx (withTlp tlp s) f r handle region queues
        ⟨slot, p, fieldAt d 10 2, fieldAt d 16 8, fieldAt d 24 4, fieldAt d 28 4, bs, padTo 1536 pa, bad⟩ = some (t, st, res) →
    exec (.ctxOpen f r n handle region queues tlp) s =
      .next (finish (complete (endWait t (.desc f r n)) f r n (st.worse (psnStatus (!bad.isEmpty))) 0 res))) ∧
  (∀ (s : State) (f r n handle region slot h : Nat) (queues : List Nat) (d bb pa : List (BitVec 8)) (q : Program)
    (p : Prog) (bs : List Binding), s.pow.st = .on → takeDesc s f r n 0x01 = some d →
    (fnPrograms s f).find? (fun q => q.2.id == fieldAt d 8 2) = some (slot, q) → progOf s slot = some (q, p) →
    fieldAt d 12 1 ≤ 8 → fieldAt d 40 2 ≤ 1536 → zeroAt d 13 3 = true → zeroAt d 42 6 = true → zeroAt d 56 8 = true →
    fieldAt d 10 2 % 64 = 0 → p.hdr.workKib ≤ fieldAt d 10 2 → fieldAt d 10 2 ≤ 8192 - 256 * p.hdr.winSize →
    hostRead s f (fieldAt d 32 8) (16 * fieldAt d 12 1) = some bb → hostRead s f (fieldAt d 48 8) (fieldAt d 40 2) = some pa →
    parseBindings bb (fieldAt d 12 1) = some bs → foreignBinding s f bs = false →
    residentOf s f + parkedOf s f < s.fld R.FN_CTX_HW_CEIL f + s.fld R.FN_CTX_PARK_CEIL f →
    pickFree s.sch.ctxs 0 266240 handle = some h → recvBufs p = [] → (freeSlot s).isSome = true →
    fnT1 s f + ceilDiv p.hdr.ctxBytes 65536 ≤ s.fld R.FN_T1_CEIL f →
    framesFree s region (ceilDiv p.hdr.ctxBytes 65536) = true →
    ∃ t c b, exec (.ctxOpen f r n handle region queues []) s = .next (finish (complete t f r n .ok 0 (leBytes 4 h ++ [b]))) ∧
      t.ctx? h = some c ∧ c.fn = f ∧ (c.st = .idle ∨ c.st = .parked) ∧ c.program = slot ∧ c.position = fieldAt d 24 4 ∧
      c.token = fieldAt d 28 4 ∧ c.seed = fieldAt d 16 8 ∧ c.workKib = fieldAt d 10 2 ∧ c.binds = bs ∧ c.area = padTo 1536 pa ∧
      c.t1Base = (if p.hdr.ctxBytes = 0 then 0 else frameAddr region) ∧ c.step = none ∧ c.queued = []) ∧
  (∀ (s : State) (f r n : Nat) (a : AccDesc) (c : Ctx), s.pow.st = .on → findDesc s f r n = some a →
    takeDesc s f r n 0x02 = some a.bytes → fieldAt a.bytes 8 4 < 2 ^ 19 → fieldAt a.bytes 12 1 ≤ 1 → zeroAt a.bytes 13 51 = true →
    s.ctx? (fieldAt a.bytes 8 4) = some c → c.fn = f → c.st ≠ .aborting →
    exec (.ctxClose f r n) s = .next (finish ((earlierSteps (beginAbort (markStarted s f r n) (fieldAt a.bytes 8 4)
        (fieldAt a.bytes 12 1 == 1) (some (.desc f r n))) f (fieldAt a.bytes 8 4) a.order).foldl
      (fun s p => complete s f p.1 p.2 .aborted (2 ^ 32 - 1))
      (beginAbort (markStarted s f r n) (fieldAt a.bytes 8 4) (fieldAt a.bytes 12 1 == 1) (some (.desc f r n)))))) ∧
  (∀ (s : State) (f r n : Nat) (a : AccDesc) (c : Ctx), s.pow.st = .on → findDesc s f r n = some a →
    takeDesc s f r n 0x02 = some a.bytes → fieldAt a.bytes 8 4 < 2 ^ 19 → fieldAt a.bytes 12 1 = 0 → zeroAt a.bytes 13 51 = true →
    s.ctx? (fieldAt a.bytes 8 4) = some c → c.fn = f → c.st ≠ .aborting → c.step = none → c.queued = [] →
    s.tl.streams.all (fun x => x.2.claim.map (·.1) != some (fieldAt a.bytes 8 4)) = true →
    Tab.find? (fieldAt a.bytes 8 4) s.attn.rings = none →
    ∃ t, exec (.ctxClose f r n) s = .next (finish t) ∧
      t.ctx? (fieldAt a.bytes 8 4) = some { c with st := .aborting, abort := false, closer := some (.desc f r n), unparkSince := none,
                                                   sequencer := none } ∧
      t.mm = s.mm ∧ t.qm = s.qm) ∧
  (∀ (s : State) (f r n : Nat) (bad : Bool) (a : AccDesc) (d : List (BitVec 8)) (c : Ctx) (q : Program) (p : Prog), s.pow.st = .on →
    findDesc s f r n = some a →
    takeDesc s f r n 0x03 = some d → fieldAt d 8 4 < 2 ^ 19 → fieldAt d 14 1 ≤ 1 → zeroAt d 15 1 = true → zeroAt d 20 44 = true →
    s.ctx? (fieldAt d 8 4) = some c → c.fn = f → progOf s c.program = some (q, p) →
    (fieldAt d 12 2 = 0xFFFF ∨ fieldAt d 12 2 < p.hdr.phases) → c.st ≠ .aborting → c.failed = false →
    earlierSteps s f (fieldAt d 8 4) a.order = [] →
    exec (.ctxStep f r n bad) s = .next (finish (askStep (markStarted s f r n) (fieldAt d 8 4)
      ⟨.desc f r n, fieldAt d 12 2, if fieldAt d 14 1 = 1 then some (fieldAt d 16 4) else none⟩ bad))) ∧
  (∀ (s : State) (f r n : Nat) (bad : Bool) (a : AccDesc) (d : List (BitVec 8)) (c : Ctx) (q : Program) (p : Prog), s.pow.st = .on →
    findDesc s f r n = some a →
    takeDesc s f r n 0x03 = some d → fieldAt d 8 4 < 2 ^ 19 → fieldAt d 14 1 ≤ 1 → zeroAt d 15 1 = true → zeroAt d 20 44 = true →
    s.ctx? (fieldAt d 8 4) = some c → c.fn = f → progOf s c.program = some (q, p) →
    (fieldAt d 12 2 = 0xFFFF ∨ fieldAt d 12 2 < p.hdr.phases) → c.st = .idle → c.resident = true → c.failed = false → c.queued = [] →
    earlierSteps s f (fieldAt d 8 4) a.order = [] →
    ∃ t, exec (.ctxStep f r n bad) s = .next (finish t) ∧
      t.ctx? (fieldAt d 8 4) = some { c with
        st := .ready, phase := if fieldAt d 12 2 = 0xFFFF then p.hdr.entry else fieldAt d 12 2, op := 0, iter := 0, retries := 0,
        accepted := 0, faultPhase := 0xFFFF, faultOp := 0xFFFF, step := some ⟨.desc f r n, .ok, false, false⟩, inflight := [],
        idleSince := s.sch.idleTick + 1, sequencer := none, quantumOver := false,
        token := if fieldAt d 14 1 = 1 then fieldAt d 16 4 else c.token } ∧
      t.regs = s.regs ∧ t.mm = s.mm ∧ t.qm = s.qm) ∧
  (∀ (s t : State) (h : Nat) (c : Ctx), s.pow.st = .on → s.ctx? h = some c → c.st = .parked → c.queued ≠ [] →
    c.badRecord = false → makeResident (s.updCtx h (fun c => { c with judged := true })) h = some t →
    exec (.unpark h false) s = .next (finish (startNext (t.incFld R.SCHED_UNPARK_CNT.COUNT) h))) ∧
  (∀ (s : State) (h hw : Nat) (c : Ctx) (q : Program) (p : Prog), s.pow.st = .on → s.ctx? h = some c → c.st = .parked →
    c.queued ≠ [] → c.badRecord = false → s.flag R.LVL_STAT.ADMIT_HELD = false →
    residentOf s c.fn < s.fld R.FN_CTX_HW_CEIL c.fn → freeHw s = some hw → progOf s c.program = some (q, p) →
    (∀ t ∈ progTiles p, tileRetired s t = false ∧ (findSlice s t (c.workKib * 1024)).isSome = true) →
    ∃ (t u : State) (hw' : Nat), exec (.unpark h false) s = .next (finish u) ∧ u = startNext (t.incFld R.SCHED_UNPARK_CNT.COUNT) h ∧
      t.ctx? h = some { c with judged := true, resident := true, hw := hw', st := .idle, unparkSince := none } ∧
      (u.ctx? h).map (·.st) = some .ready ∧ (u.ctx? h).map (·.queued) = some c.queued.tail) ∧
  (∀ (s : State) (h time since : Nat) (c : Ctx) (q : QStep) (rest : List QStep), s.pow.st = .on → s.ctx? h = some c →
    c.st = .parked → c.queued = q :: rest → c.unparkSince = some since →
    since + (atTime s time).fld R.SCHED_GUARD.UNPARK_WAIT * 1000 ≤ (atTime s time).now →
    let u := refuseStep (atTime s time) c q.src .retryLater
    exec (.unparkWaitExpiry h time) s = .next (finish (u.updCtx h (fun c =>
      { c with queued := rest, unparkSince := if rest.isEmpty then none else some u.now })))) ∧
  (∀ (s : State) (h f r n : Nat) (c : Ctx), s.pow.st = .on → s.ctx? h = some c → c.st = .aborting → c.closer = some (.desc f r n) →
    ∃ t, exec (.contextAbortDone h) s = .next (finish (complete t f r n .ok)) ∧ t.ctx? h = none ∧
      (∀ e ∈ t.sch.slices, ∀ p ∈ e.2, p.1 / 256 ≠ h) ∧ (c.t1Base ≠ 0 → ∀ x ∈ t.mm.regions, x.base ≠ c.t1Base) ∧
      (∀ q ∈ c.queues, t.qm.queues.all (fun p => p.1 != q) = true))

/-- Clause by clause, with the module on: SPAN_CREATE within the pin budget makes the span OPEN at HORIZON, APPENDED and GEN 0 at the number and extent
picked, and completes with both; SPAN_FREE of the owner frees the span, which is then gone; SPAN_PROTECT whose targets agree names the members to
them, sets the mode and the members, and sends the span's committed rows; KV_WRITE of FP32 rows or of head records with its fields in range writes the
rows in the state that the storage errors it meets leave, and of an archive record restores it; KV_COMMIT between HORIZON and APPENDED raises HORIZON
to what it names; KV_REWIND between them lowers APPENDED and counts GEN up modulo 2^32; the last two answer the counters. -/
def Obligations.SpansFromTheHost : Prop :=
  (∀ (s : State) (f r n span base k a : Nat) (d : List (BitVec 8)) (x : Span), s.pow.st = .on → takeDesc s f r n 0x08 = some d →
    parseSpan f d = some x → (x.pin = false ∨ pinnedOf s f + x.pages ≤ s.fld R.FN_PIN_BUDGET f) →
    pickFree s.pg.spans 0 262144 span = some k → findExtent s (x.pages * 65536) base = some a →
    exec (.spanCreate f r n span base) s = .next (finish (complete (s.setSpan k { x with base := a, start := placementStart s }) f r n .ok 0
      (leBytes 4 k ++ List.replicate 4 0#8 ++ leBytes 8 a))) ∧ x.st = .open ∧ x.fn = f ∧ x.horizon = 0 ∧ x.appended = 0 ∧ x.gen = 0) ∧
  (∀ (s : State) (f r n : Nat) (d : List (BitVec 8)) (x : Span), s.pow.st = .on → takeDesc s f r n 0x09 = some d →
    fieldAt d 8 4 < 2 ^ 18 → zeroAt d 12 52 = true → s.span? (fieldAt d 8 4) = some x → x.st ≠ .freeing → x.fn = f →
    exec (.spanFree f r n) s = .next (finish (complete (freeSpan s (fieldAt d 8 4)) f r n .ok)) ∧
      (freeSpan s (fieldAt d 8 4)).span? (fieldAt d 8 4) = none) ∧
  (∀ (s : State) (f r n k want : Nat) (mode : Prot) (d : List (BitVec 8)) (x : Span), s.pow.st = .on → takeDesc s f r n 0x0A = some d →
    fieldAt d 8 4 = k → k < 2 ^ 18 → protOf (fieldAt d 12 1) = some mode → zeroAt d 13 1 = true → zeroAt d 34 30 = true →
    fieldAt d 14 2 = want → want = protWant mode →
    (∀ i, want ≤ i → i < 9 → fieldAt d (16 + 2 * i) 2 = 0) → (∀ i, i < want → fieldAt d (16 + 2 * i) 2 < 32768) →
    spanFor s f k = .ok x → (mode = .none ∨ x.prot = .none ∨ x.prot = mode) →
    let named := if mode = .none then (Tab.find? k s.pg.prot).getD [] else (List.range want).map (fun i => fieldAt d (16 + 2 * i) 2)
    let u := (named.foldl (fun s m => s.emit (.protect m k want x.maxTokens x.layerSlots x.rowBytes)) s).setSpan k { x with prot := mode }
    let v := { u with pg := { u.pg with prot := if mode = .none then Tab.del k u.pg.prot else Tab.ins k named u.pg.prot } }
    exec (.spanProtect f r n 0) s = .next (finish (complete (sendRows v k 0 x.horizon (List.range x.layerSlots)) f r n .ok))) ∧
  (∀ (s : State) (f r n k l first last : Nat) (errs : Errs) (d : List (BitVec 8)) (bs : List PByte) (x : Span), s.pow.st = .on →
    takeDesc s f r n 0x10 = some d → fieldAt d 8 4 = k → k < 2 ^ 18 → fieldAt d 12 2 = l → l < 2 ^ 9 → fieldAt d 14 1 ≤ 1 →
    zeroAt d 15 1 = true → zeroAt d 40 24 = true → fieldAt d 16 4 = first → fieldAt d 20 4 = last → spanFor s f k = .ok x →
    l < x.layerSlots → first ≤ last → last ≤ x.maxTokens →
    fieldAt d 32 8 = (last - first) * (if fieldAt d 14 1 = 0 then x.kvHeads * 8 * x.dim else x.rowBytes) → x.appended = x.horizon →
    first ≤ x.horizon → (fieldAt d 14 1 = 0 ∨ x.fmt = .bf16 ∨ x.fixedScale = true) →
    hostReadP (withTlp errs.host s) f (fieldAt d 24 8) (fieldAt d 32 8) = some bs →
    let u := (kvWritePages x l first last).foldl (fun s p => poisonBatts s k p (badOf errs.batts p)) (errsOf f errs (withTlp errs.host s))
    exec (.kvWrite f r n errs) s = .next (finish (kvWriteRows f r n k l first last x (fieldAt d 14 1 = 1) bs u))) ∧
  (∀ (s : State) (f r n k : Nat) (errs : Errs) (d : List (BitVec 8)) (bs : List PByte) (x : Span), s.pow.st = .on →
    takeDesc s f r n 0x10 = some d → fieldAt d 8 4 = k → k < 2 ^ 18 → fieldAt d 12 2 < 2 ^ 9 → fieldAt d 14 1 = 2 →
    zeroAt d 15 1 = true → zeroAt d 40 24 = true → fieldAt d 16 4 = 0 → fieldAt d 20 4 = 0 → spanFor s f k = .ok x →
    hostReadP (withTlp errs.host s) f (fieldAt d 24 8) (fieldAt d 32 8) = some bs →
    exec (.kvWrite f r n errs) s =
      .next (finish (kvRestore f r n k x (errs.batts.map (·.2)) bs (errsOf f errs (withTlp errs.host s))))) ∧
  (∀ (s : State) (f r n k m : Nat) (d : List (BitVec 8)) (x : Span), s.pow.st = .on → takeDesc s f r n 0x11 = some d →
    fieldAt d 8 4 = k → k < 2 ^ 18 → fieldAt d 12 4 = m → m < 2 ^ 23 → zeroAt d 16 48 = true → spanFor s f k = .ok x →
    x.horizon < m → m ≤ x.appended →
    exec (.kvCommit f r n) s =
      .next (finish (complete (commitTo s k x m) f r n .ok 0 (counterResult (commitTo s k x m) k)))) ∧
  (∀ (s : State) (f r n k m : Nat) (d : List (BitVec 8)) (x : Span), s.pow.st = .on → takeDesc s f r n 0x12 = some d →
    fieldAt d 8 4 = k → k < 2 ^ 18 → fieldAt d 12 4 = m → m < 2 ^ 23 → zeroAt d 16 48 = true → spanFor s f k = .ok x →
    x.horizon ≤ m → m ≤ x.appended →
    ∃ at_, s.now ≤ at_ ∧ (∀ t, x.lastRewind = some t → t + 16 ≤ at_) ∧
      let u := setCounters s k { x with appended := m, gen := (x.gen + 1) % 2 ^ 32, lastRewind := some at_ }
      exec (.kvRewind f r n) s = .next (finish (complete u f r n .ok 0 (counterResult u k))))

/-- With the module on, for an op that may issue: KV_APPEND, in the state that the storage errors it meets leave, at a position that is not its binding's
retires with ST_OK and no effect; at a position of its binding it reads its operand, appends the row (decoding the row's page first where that lies in
T2 or T3) and retires with the status that takes precedence and the saturations; and with no error, its page in T1, not migrating, on a stack that
does not drain, it retires with ST_OK or ST_POISON and APPENDED covers the row. HZN COMMIT and REWIND apply their operation to every span of the mask
in order and retire with the status that takes precedence; HZN ACCEPT with a good verify result commits to POSITION + 1 + accepted, rewinds to it
where fewer drafts were accepted than offered, and sets ACCEPTED. -/
def Obligations.SpansFromPrograms : Prop :=
  (∀ (s : State) (k : OpCtx) (errs : Errs) (b : Binding) (x : Span), s.pow.st = .on → Issues s (fun o => o.opcode == 0x14) k →
    let v := errsMet k errs (issued s k)
    k.binding k.o.aux = some b → spanFor v k.c.fn b.span = .ok x →
    ((k.c.position + bits k.o.arg0 12 9) % 2 ^ 32 < b.posBase ∨
      ((k.c.position + bits k.o.arg0 12 9) % 2 ^ 32 - b.posBase) % b.posStride ≠ 0) →
    exec (.kvAppend k.h errs) s = .next (finish (retire (t0Fails errs.t0 (issued s k) v) k.h k.idx .ok 0))) ∧
  (∀ (s t u : State) (k : OpCtx) (errs : Errs) (b : Binding) (x : Span) (p a sat : Nat) (loc : Loc) (bs : List PByte) (st : Status),
    s.pow.st = .on →
    let v := errsMet k errs (issued s k)
    let pg := (x.rowAt k.layer a).1
    let w := (decodeStored t k.h b.span pg (badOf errs.batts pg)).1
    Issues s (fun o => o.opcode == 0x14) k → k.binding k.o.aux = some b → spanFor v k.c.fn b.span = .ok x →
    p = (k.c.position + bits k.o.arg0 12 9) % 2 ^ 32 → b.posBase ≤ p → p - b.posBase = a * b.posStride → 0 < b.posStride →
    operand v k k.o.src0 k.anyTile 0 (x.kvHeads * 8 * x.dim) false = some loc →
    locRead v k.h loc (x.kvHeads * 8 * x.dim) = (bs, t) →
    kvAppendRow w k.c.fn b.span k.layer a (elemsOf bs) (k.o.varBit 0) k.h = .done u st sat → pageDrains u b.span pg = false →
    exec (.kvAppend k.h errs) s = .next (finish (retire (t0Fails errs.t0 (issued s k) (endWait u (.ctx k.h))) k.h k.idx
      (st.worse (if anyPsn bs && st == .ok then .poison else st)) sat))) ∧
  (∀ (s : State) (k : OpCtx) (b : Binding) (x : Span) (p a : Nat) (loc : Loc), s.pow.st = .on →
    let pg := (x.rowAt k.layer a).1
    Issues s (fun o => o.opcode == 0x14) k → k.binding k.o.aux = some b → spanFor s k.c.fn b.span = .ok x →
    p = (k.c.position + bits k.o.arg0 12 9) % 2 ^ 32 → b.posBase ≤ p → p - b.posBase = a * b.posStride → 0 < b.posStride →
    operand (issued s k) k k.o.src0 k.anyTile 0 (x.kvHeads * 8 * x.dim) false = some loc →
    k.layer < x.layerSlots → a ≤ x.appended → a < x.maxTokens → (s.pte b.span pg).st = .t1 → migOf s b.span pg = none →
    pageDrains s b.span pg = false →
    ∃ t st sat, exec (.kvAppend k.h noErrs) s = .next (finish (retire t k.h k.idx st sat)) ∧ (st = .ok ∨ st = .poison) ∧
      (t.span? b.span).map (·.appended) = some (max x.appended (a + 1))) ∧
  (∀ (s : State) (k : OpCtx) (bs : List Binding), s.pow.st = .on → Issues s (fun o => o.opcode == 0x15 && o.var == 0) k →
    maskBinds k k.o.arg0 = some bs →
    let q := hznEach kvCommitTo k.c.fn (k.c.position + 1 + k.o.arg1) bs (issued s k) .ok
    exec (.hznCommit k.h) s = .next (finish (retire q.1 k.h k.idx q.2 0))) ∧
  (∀ (s : State) (k : OpCtx) (bs : List Binding), s.pow.st = .on → Issues s (fun o => o.opcode == 0x15 && o.var == 1) k →
    maskBinds k k.o.arg0 = some bs →
    let q := hznEach kvRewindTo k.c.fn (k.c.position + 1 + k.o.arg1) bs (issued s k) .ok
    exec (.hznRewind k.h) s = .next (finish (retire q.1 k.h k.idx q.2 0))) ∧
  (∀ (s : State) (k : OpCtx) (b : Binding) (x : Span), s.pow.st = .on → maskBinds k k.o.arg0 = some [b] → spanFor s k.c.fn b.span = .ok x →
    let m := rowsBelowPos (k.c.position + 1 + k.o.arg1) b x.maxTokens
    (Issues s (fun o => o.opcode == 0x15 && o.var == 0) k → x.horizon < m → m ≤ x.appended →
      ∃ t, exec (.hznCommit k.h) s = .next (finish (retire t k.h k.idx .ok 0)) ∧ t.span? b.span = some { x with horizon := m }) ∧
    (Issues s (fun o => o.opcode == 0x15 && o.var == 1) k → x.horizon ≤ m → m ≤ x.appended →
      ∃ t y, exec (.hznRewind k.h) s = .next (finish (retire t k.h k.idx .ok 0)) ∧ t.span? b.span = some y ∧ y.appended = m ∧
        y.horizon = x.horizon ∧ y.gen = (x.gen + 1) % 2 ^ 32)) ∧
  (∀ (s t : State) (k : OpCtx) (bs : List Binding) (loc : Loc) (v : List PByte) (a n : Nat), s.pow.st = .on →
    Issues s (fun o => o.opcode == 0x15 && o.var == 2) k → maskBinds k k.o.arg0 = some bs →
    operand (issued s k) k k.o.src0 k.anyTile 0 4 false = some loc → locRead (issued s k) k.h loc 4 = (v, t) → anyPsn v = false →
    fieldAt (rawBytes v) 0 2 = a → fieldAt (rawBytes v) 2 2 = n → 1 ≤ n → n ≤ 15 → a ≤ n →
    let c := hznEach kvCommitTo k.c.fn (k.c.position + 1 + a) bs t .ok
    let q := if a < n then hznEach kvRewindTo k.c.fn (k.c.position + 1 + a) bs c.1 c.2 else c
    exec (.hznAccept k.h) s = .next (finish (retire (q.1.updCtx k.h (fun c => { c with accepted := a })) k.h k.idx q.2 0)))

/-- With the module on, for a SYNC_OP whose fields are in order on a counter within its function's SYNC_COUNT: ADD whose sum is below 2^64 sets the
counter to the sum and releases the waiters whose threshold it meets; ADD whose sum is not sets SYNC_ERR.OVERFLOW, leaves the counter and completes
with ST_INVALID; WAIT completes at once where the counter meets the threshold and otherwise waits; SET of a counter with no waiter and no armed
trigger stores the value, and of any other sets SET_REJECT and completes with ST_INVALID; ARM of a good body within the ceilings arms a trigger; READ
answers the counter. A SYNC_OP on an index outside SYNC_COUNT completes with ST_PROTECTION. -/
def Obligations.CountersFromTheHost : Prop :=
  (∀ (s : State) (f r n c : Nat) (d : List (BitVec 8)), s.pow.st = .on → takeSync s f r n 0 = some d → syncFieldsOk d 0 = true →
    fnCounter s f (fieldAt d 12 4) = some c → counterVal s c + fieldAt d 16 8 < 2 ^ 64 →
    let u := { s with sch := { s.sch with counters := Tab.put 0 c (counterVal s c + fieldAt d 16 8) s.sch.counters } }
    exec (.syncOpAdd f r n) s = .next (finish (syncDone (releaseMet u c) f r n c .ok)) ∧ counterVal u c = counterVal s c + fieldAt d 16 8) ∧
  (∀ (s : State) (f r n c : Nat) (d : List (BitVec 8)), s.pow.st = .on → takeSync s f r n 0 = some d → syncFieldsOk d 0 = true →
    fnCounter s f (fieldAt d 12 4) = some c → 2 ^ 64 ≤ counterVal s c + fieldAt d 16 8 →
    exec (.syncOpAdd f r n) s = .next (finish (syncDone (s.setFld R.SYNC_ERR.OVERFLOW 1) f r n c .invalid))) ∧
  (∀ (s : State) (f r n c : Nat) (d : List (BitVec 8)), s.pow.st = .on → takeSync s f r n 1 = some d → syncFieldsOk d 1 = true →
    fnCounter s f (fieldAt d 12 4) = some c → fieldAt d 16 8 ≤ counterVal s c →
    exec (.syncOpWait f r n) s = .next (finish (syncDone s f r n c .ok))) ∧
  (∀ (s : State) (f r n c : Nat) (d : List (BitVec 8)), s.pow.st = .on → takeSync s f r n 1 = some d → syncFieldsOk d 1 = true →
    fnCounter s f (fieldAt d 12 4) = some c → counterVal s c < fieldAt d 16 8 →
    let u := markStarted s f r n
    let w : Waiter := ⟨.desc f r n, c, fieldAt d 16 8, fieldAt d 24 4⟩
    exec (.syncOpWait f r n) s = .next (finish { u with sch := { u.sch with waiters := u.sch.waiters ++ [w] } })) ∧
  (∀ (s : State) (f r n c : Nat) (d : List (BitVec 8)), s.pow.st = .on → takeSync s f r n 2 = some d → syncFieldsOk d 2 = true →
    fnCounter s f (fieldAt d 12 4) = some c → counterBusy s c = false →
    let u := { s with sch := { s.sch with counters := Tab.put 0 c (fieldAt d 16 8 % 2 ^ 64) s.sch.counters } }
    exec (.syncOpSet f r n) s = .next (finish (syncDone u f r n c .ok)) ∧ counterVal u c = fieldAt d 16 8 % 2 ^ 64) ∧
  (∀ (s : State) (f r n c : Nat) (d : List (BitVec 8)), s.pow.st = .on → takeSync s f r n 2 = some d → syncFieldsOk d 2 = true →
    fnCounter s f (fieldAt d 12 4) = some c → counterBusy s c = true →
    exec (.syncOpSet f r n) s = .next (finish (syncDone (s.setFld R.SYNC_ERR.SET_REJECT 1) f r n c .invalid))) ∧
  (∀ (s : State) (f r n c : Nat) (d : List (BitVec 8)), s.pow.st = .on → takeSync s f r n 3 = some d → syncFieldsOk d 3 = true →
    fnCounter s f (fieldAt d 12 4) = some c →
    bodyFormOk s f (fieldAt d 9 1) ((d.drop 32).take 32) (postBodyOk ((d.drop 32).take 32)) = true →
    armedOf s f < s.fld R.FN_TRIG_CEIL f → armedOn s (c / 65536) < 32768 →
    let g : Trigger := ⟨f, none, c, fieldAt d 16 8, fieldAt d 9 1, (d.drop 32).take 32⟩
    let u := { s with sch := { s.sch with triggers := Tab.ins s.sch.armTick g s.sch.triggers, armTick := s.sch.armTick + 1 } }
    exec (.syncOpArm f r n) s = .next (finish (syncDone u f r n c .ok))) ∧
  (∀ (s : State) (f r n c : Nat) (d : List (BitVec 8)), s.pow.st = .on → takeSync s f r n 4 = some d → syncFieldsOk d 4 = true →
    fnCounter s f (fieldAt d 12 4) = some c →
    exec (.syncOpRead f r n) s = .next (finish (complete s f r n .ok 0 (leBytes 8 (counterVal s c))))) ∧
  (∀ (s : State) (f r n : Nat) (d : List (BitVec 8)), s.pow.st = .on → takeSync s f r n 4 = some d → syncFieldsOk d 4 = true →
    s.fld R.SYNC_FN_COUNT.SYNC_COUNT f ≤ fieldAt d 12 4 →
    exec (.syncOpRead f r n) s = .next (finish (complete s f r n .protection)))

/-- With the module on, for an op that may issue: SYNC_ADD to a local counter adds and retires, and to a counter at a node that the fabric windows allow
posts the add on the hidden flow and waits for its answer; SYNC_WAIT on a met threshold retires with ST_OK, and on one not met makes the context
WAITING and lists the waiter; SYNC_SET and SYNC_ARM do to the counter what the descriptors do and retire with the answer. A wait with a timeout is
taken off the list: where its threshold is not met it is counted in SYNC_TIMEOUT_CNT and released with ST_TIMEOUT, where it is met it is released with
ST_OK. A trigger whose counter meets its threshold is disarmed, counted in SYNC_FIRE_CNT, and its body takes effect: kind 0 adds to its local counter,
kind 1 asks a step of its open context, kind 2 starts the work request. -/
def Obligations.CountersFromPrograms : Prop :=
  (∀ (s : State) (k : OpCtx) (c : Nat), s.pow.st = .on → Issues s (fun o => o.opcode == 0x20) k → workOf (issued s k) k.h k.idx = false →
    fnCounter (issued s k) k.c.fn k.o.arg0 = some c → k.o.aux = 0xFFFF →
    exec (.syncAdd k.h) s = .next (finish (retire (syncAdd (issued s k) c k.o.arg1).1 k.h k.idx (syncAdd (issued s k) c k.o.arg1).2 0))) ∧
  (∀ (s : State) (k : OpCtx) (c : Nat), s.pow.st = .on → Issues s (fun o => o.opcode == 0x20) k → workOf (issued s k) k.h k.idx = false →
    fnCounter (issued s k) k.c.fn k.o.arg0 = some c → k.o.aux ≠ 0xFFFF →
    fabricCheck (issued s k) k.c.fn (k.o.aux % 2 ^ 15) (counterAddr c) 8 .atomic = .ok →
    let w := newWork (issued s k) ⟨.ctx k.h, k.idx, k.c.fn, 3, 1, .ok, false, 0, [], 0⟩
    exec (.syncAdd k.h) s = .next (finish (holdCtx (post w.2 (.flow (k.o.aux % 2 ^ 15)) w.1
      [(0, remoteAdd w.2 (k.o.aux % 2 ^ 15) c k.o.arg1)]) k.h))) ∧
  (∀ (s : State) (k : OpCtx) (c : Nat), s.pow.st = .on → Issues s (fun o => o.opcode == 0x21) k →
    s.sch.waiters.any (fun w => w.who == .ctx k.h) = false → fnCounter (issued s k) k.c.fn k.o.arg0 = some c →
    k.o.arg1 + k.o.arg2 * 2 ^ 32 ≤ counterVal s c →
    exec (.syncWait k.h) s = .next (finish (retire (issued s k) k.h k.idx .ok 0))) ∧
  (∀ (s : State) (k : OpCtx) (c : Nat), s.pow.st = .on → Issues s (fun o => o.opcode == 0x21) k →
    s.sch.waiters.any (fun w => w.who == .ctx k.h) = false → fnCounter (issued s k) k.c.fn k.o.arg0 = some c →
    counterVal s c < k.o.arg1 + k.o.arg2 * 2 ^ 32 →
    ∃ t, exec (.syncWait k.h) s = .next (finish t) ∧
      t.sch.waiters = s.sch.waiters ++ [⟨.ctx k.h, c, k.o.arg1 + k.o.arg2 * 2 ^ 32, k.o.arg3⟩] ∧
      (∃ e, t.ctx? k.h = some e ∧ e.st = .waiting ∧ e.sequencer = none ∧ e.op = k.c.op + 1) ∧ t.mm = s.mm ∧ t.regs = s.regs) ∧
  (∀ (s : State) (k : OpCtx) (c : Nat), s.pow.st = .on → Issues s (fun o => o.opcode == 0x23) k →
    fnCounter (issued s k) k.c.fn k.o.arg0 = some c →
    let a := syncSet (issued s k) c (k.o.arg1 + k.o.arg2 * 2 ^ 32)
    exec (.syncSet k.h) s = .next (finish (retire a.1 k.h k.idx a.2 0))) ∧
  (∀ (s t : State) (k : OpCtx) (c : Nat) (l : Loc) (bs : List PByte), s.pow.st = .on → Issues s (fun o => o.opcode == 0x22) k →
    fnCounter (issued s k) k.c.fn k.o.arg0 = some c → operand (issued s k) k k.o.src0 k.anyTile 0 32 false = some l →
    locRead (issued s k) k.h l 32 = (bs, t) → anyPsn bs = false →
    let a := syncArm t k.c.fn (some k.h) c (k.o.arg1 + k.o.arg2 * 2 ^ 32) (k.o.var % 4) (rawBytes bs) (postBodyOk (rawBytes bs))
    exec (.syncArm k.h) s = .next (finish (retire a.1 k.h k.idx a.2 0))) ∧
  (∀ (s : State) (isDesc : Bool) (a b c : Nat) (w : Waiter), s.pow.st = .on →
    let who : Who := if isDesc then .desc a b c else .ctx a
    s.sch.waiters.find? (fun x => x.who == who && x.timeout != 0) = some w → counterVal s w.counter < w.threshold →
    let u := { s with sch := { s.sch with waiters := s.sch.waiters.filter (fun x => x.who != who) } }
    exec (.syncWaitTimeout isDesc a b c) s =
      .next (finish (releaseWaiter (u.incFld R.SYNC_TIMEOUT_CNT.COUNT) w .timeout))) ∧
  (∀ (s : State) (isDesc : Bool) (a b c : Nat) (w : Waiter), s.pow.st = .on →
    let who : Who := if isDesc then .desc a b c else .ctx a
    s.sch.waiters.find? (fun x => x.who == who && x.timeout != 0) = some w → w.threshold ≤ counterVal s w.counter →
    let u := { s with sch := { s.sch with waiters := s.sch.waiters.filter (fun x => x.who != who) } }
    exec (.syncWaitTimeout isDesc a b c) s = .next (finish (releaseWaiter u w .ok))) ∧
  (∀ (s : State) (n key c : Nat) (bad : Bool) (g : Trigger), s.pow.st = .on →
    s.sch.triggers.find? (fun t => t.2.counter == n && decide (t.2.threshold ≤ counterVal s n)) = some (key, g) → g.kind = 0 →
    let u := { s with sch := { s.sch with triggers := Tab.del key s.sch.triggers } }.incFld R.SYNC_FIRE_CNT.COUNT
    fnCounter u g.fn (fieldAt g.body 12 4) = some c → fieldAt g.body 10 2 = 0xFFFF → counterVal s c + fieldAt g.body 16 4 < 2 ^ 64 →
    let v := { u with sch := { u.sch with counters := Tab.put 0 c (counterVal u c + fieldAt g.body 16 4) u.sch.counters } }
    exec (.triggerFire n bad) s = .next (finish (releaseMet v c)) ∧ counterVal v c = counterVal s c + fieldAt g.body 16 4) ∧
  (∀ (s : State) (n key : Nat) (bad : Bool) (g : Trigger), s.pow.st = .on →
    s.sch.triggers.find? (fun t => t.2.counter == n && decide (t.2.threshold ≤ counterVal s n)) = some (key, g) →
    let u := { s with sch := { s.sch with triggers := Tab.del key s.sch.triggers } }.incFld R.SYNC_FIRE_CNT.COUNT
    (∀ (c : Ctx) (q : Program) (p : Prog), g.kind = 1 → s.ctx? (fieldAt g.body 0 4) = some c → c.fn = g.fn → c.st ≠ .aborting →
      c.failed = false → progOf s c.program = some (q, p) → (fieldAt g.body 4 2 = 0xFFFF ∨ fieldAt g.body 4 2 < p.hdr.phases) →
      exec (.triggerFire n bad) s =
        .next (finish (askStep u (fieldAt g.body 0 4) ⟨.trigger g.fn g.counter, fieldAt g.body 4 2, none⟩ bad))) ∧
    (g.kind = 2 → exec (.triggerFire n bad) s = .next (finish (firePost u key g))))

/-- Clause by clause, with the module on and for a COPY descriptor whose fields are good: one from host memory to local memory, both sides usable, reads
the host's bytes and places them, and completes with the two sides' status and the bytes copied (with no storage error the bytes are there whenever
the windows admit them); one from local memory to host memory does the same with what its source could be read as (local T1 or T2 memory outside the
system area is read at once); one with a side that may not be used as a whole completes with that side's status and copies no byte; one from a node
posts its reads; one to a node posts its WRITE packets where both sides are usable and the source was read whole, and completes with the bar's status
where a side is barred. A SEND op that may issue, with a readable operand: of no bytes it retires with ST_OK; barred by the window check it retires
with that status; to plain memory it posts its WRITE packets, and to a receive queue its PARTIAL packets, and waits for their answers. A bulk copy
list that may issue: with a poisoned header it retires with ST_POISON; a good one posts the packets of its segments, which are had whenever the
segments lie in local T1 or T2 memory and no check bars them. -/
def Obligations.CopiesAndSends : Prop :=
  (∀ (s : State) (f r n a b len : Nat) (errs : Errs) (d : List (BitVec 8)) (bs : List PByte), s.pow.st = .on → takeDesc s f r n 0x28 = some d →
    descWork s f r n = false → fieldAt d 24 8 = len → 0 < len → len ≤ 2 ^ 40 → fieldAt d 32 1 = 2 → zeroAt d 33 31 = true →
    fieldAt d 8 8 = a → fieldAt d 16 8 = b → bitAt a 63 = false → bitAt b 63 = false →
    sideCheck s f (.host a) len false = .ok → sideCheck s f (.local_ b) len true = .ok →
    let u := errsOf f errs (endWait (withTlp errs.host s) (.desc f r n))
    hostReadP u f a len = some bs →
    let w := copyDest u f (.local_ b) len bs
    exec (.copy f r n errs) s = .next (finish (complete w.2.1 f r n ((psnStatus (anyPsn bs)).worse w.2.2) 0 (leBytes 8 0 ++ leBytes 8 w.1)))) ∧
  (∀ (s : State) (f r n a b len : Nat) (tlp : List (Nat × Nat)) (d : List (BitVec 8)), s.pow.st = .on → takeDesc s f r n 0x28 = some d →
    descWork s f r n = false → fieldAt d 24 8 = len → 0 < len → len ≤ 2 ^ 40 → fieldAt d 32 1 = 2 → zeroAt d 33 31 = true →
    fieldAt d 8 8 = a → fieldAt d 16 8 = b → bitAt a 63 = false → bitAt b 63 = false →
    sideCheck s f (.host a) len false = .ok → sideCheck s f (.local_ b) len true = .ok →
    let u := endWait (withTlp tlp s) (.desc f r n)
    ∃ bs, hostReadP u f a len = some bs ∧
      exec (.copy f r n { noErrs with host := tlp }) s = .next (finish (complete (copyDest u f (.local_ b) len bs).2.1 f r n
        ((psnStatus (anyPsn bs)).worse (copyDest u f (.local_ b) len bs).2.2) 0 (leBytes 8 0 ++ leBytes 8 (copyDest u f (.local_ b) len bs).1)))) ∧
  (∀ (s t : State) (f r n a b len : Nat) (errs : Errs) (d : List (BitVec 8)) (bs : List PByte) (st : Status), s.pow.st = .on → takeDesc s f r n 0x28 = some d →
    descWork s f r n = false → fieldAt d 24 8 = len → 0 < len → len ≤ 2 ^ 40 → fieldAt d 32 1 = 1 → zeroAt d 33 31 = true →
    fieldAt d 8 8 = a → fieldAt d 16 8 = b → bitAt a 63 = false → bitAt b 63 = false →
    sideCheck s f (.local_ a) len false = .ok → sideCheck s f (.host b) len true = .ok →
    copySource (errsOf f errs (endWait (withTlp errs.host s) (.desc f r n))) errs.batts f (.local_ a) len = some (bs, t, st) → bs ≠ [] →
    let w := copyDest t f (.host b) len bs
    exec (.copy f r n errs) s = .next (finish (complete w.2.1 f r n (st.worse w.2.2) 0 (leBytes 8 0 ++ leBytes 8 w.1)))) ∧
  (∀ (s : State) (f r n a b len : Nat) (tlp : List (Nat × Nat)) (d : List (BitVec 8)), s.pow.st = .on → takeDesc s f r n 0x28 = some d →
    descWork s f r n = false → fieldAt d 24 8 = len → 0 < len → len ≤ 2 ^ 40 → fieldAt d 32 1 = 1 → zeroAt d 33 31 = true →
    fieldAt d 8 8 = a → fieldAt d 16 8 = b → bitAt a 63 = false → bitAt b 63 = false →
    localCheck s f a len false = .ok → inSystem s a len = false → (addrClass a = .t1 ∨ addrClass a = .t2) →
    hostUp s f = true → winOk s f b len true = true →
    let u := endWait (withTlp tlp s) (.desc f r n)
    let bs := (preadCtl u a len).1
    let w := copyDest (preadCtl u a len).2 f (.host b) len bs
    exec (.copy f r n { noErrs with host := tlp }) s = .next (finish (complete w.2.1 f r n ((psnStatus (anyPsn bs)).worse w.2.2) 0
      (leBytes 8 0 ++ leBytes 8 w.1)))) ∧
  (∀ (s : State) (f r n a b len : Nat) (errs : Errs) (d : List (BitVec 8)) (st : Status), s.pow.st = .on → takeDesc s f r n 0x28 = some d →
    descWork s f r n = false → fieldAt d 24 8 = len → 0 < len → len ≤ 2 ^ 40 → fieldAt d 32 1 = 2 → zeroAt d 33 31 = true →
    fieldAt d 8 8 = a → fieldAt d 16 8 = b → bitAt a 63 = false → bitAt b 63 = false →
    (sideCheck s f (.host a) len false).worse (sideCheck s f (.local_ b) len true) = st → st ≠ .ok →
    exec (.copy f r n errs) s = .next (finish (complete (withTlp errs.host s) f r n st 0 (leBytes 8 0 ++ leBytes 8 0)))) ∧
  (∀ (s : State) (f r n a len : Nat) (errs : Errs) (d : List (BitVec 8)), s.pow.st = .on → takeDesc s f r n 0x28 = some d →
    descWork s f r n = false → fieldAt d 24 8 = len → 0 < len → len ≤ 2 ^ 40 → fieldAt d 32 1 = 2 → zeroAt d 33 31 = true →
    fieldAt d 8 8 = a → bitAt a 63 = true → bitAt (fieldAt d 16 8) 63 = false →
    fabricCheck s f (a / 2 ^ 48 % 2 ^ 15) (a % 2 ^ 48) len .read = .ok → localCheck s f (fieldAt d 16 8) len true = .ok →
    let u := withTlp errs.host s
    let ps := (cutLens len).map (fun p => (p.1, flowPkt u 3 (a / 2 ^ 48 % 2 ^ 15) (a % 2 ^ 48 + p.1) (leBytes 4 p.2) false))
    let w := newWork (markStarted u f r n) ⟨.desc f r n, 0, f, 1, ps.length, .ok, false, fieldAt d 16 8, [], 0⟩
    exec (.copy f r n errs) s = .next (finish (post w.2 (.flow (a / 2 ^ 48 % 2 ^ 15)) w.1 ps))) ∧
  (∀ (s t : State) (f r n a b len : Nat) (errs : Errs) (d : List (BitVec 8)) (bs : List PByte) (st : Status), s.pow.st = .on → takeDesc s f r n 0x28 = some d →
    descWork s f r n = false → fieldAt d 24 8 = len → 0 < len → len ≤ 2 ^ 40 → fieldAt d 32 1 = 1 → zeroAt d 33 31 = true →
    fieldAt d 8 8 = a → bitAt a 63 = false → fieldAt d 16 8 = b → bitAt b 63 = true →
    sideCheck s f (.local_ a) len false = .ok → fabricCheck s f (b / 2 ^ 48 % 2 ^ 15) (b % 2 ^ 48) len .write = .ok →
    copySource (errsOf f errs (endWait (withTlp errs.host s) (.desc f r n))) errs.batts f (.local_ a) len = some (bs, t, st) → len ≤ bs.length →
    let ps := (cutPieces bs).map (fun p => (p.1, flowPkt t 1 (b / 2 ^ 48 % 2 ^ 15) (b % 2 ^ 48 + p.1) (rawBytes p.2) (anyPsn p.2)))
    let w := newWork (markStarted t f r n) ⟨.desc f r n, 0, f, 1, ps.length, st, false, 0, [], 0⟩
    exec (.copy f r n errs) s = .next (finish (post w.2 (.flow (b / 2 ^ 48 % 2 ^ 15)) w.1 ps))) ∧
  (∀ (s : State) (f r n b len : Nat) (errs : Errs) (d : List (BitVec 8)), s.pow.st = .on → takeDesc s f r n 0x28 = some d →
    descWork s f r n = false → fieldAt d 24 8 = len → 0 < len → len ≤ 2 ^ 40 → fieldAt d 32 1 = 1 → zeroAt d 33 31 = true →
    bitAt (fieldAt d 8 8) 63 = false → fieldAt d 16 8 = b → bitAt b 63 = true →
    let st := (sideCheck s f (.local_ (fieldAt d 8 8)) len false).worse (fabricCheck s f (b / 2 ^ 48 % 2 ^ 15) (b % 2 ^ 48) len .write)
    st ≠ .ok → exec (.copy f r n errs) s = .next (finish (complete (withTlp errs.host s) f r n st 0 (leBytes 8 0 ++ leBytes 8 0)))) ∧
  (∀ (s : State) (k : OpCtx) (remote act tab gen : Nat) (errs : Errs), s.pow.st = .on → Issues s (fun o => o.opcode == 0x12 && !o.varBit 2) k →
    let v := errsMet k errs (issued s k)
    workOf v k.h k.idx = false → k.o.arg2 = 0 →
    exec (.send k.h remote act tab gen errs) s = .next (finish (retire (t0Fails errs.t0 (issued s k) v) k.h k.idx .ok 0))) ∧
  (∀ (s : State) (k : OpCtx) (remote act tab gen : Nat) (errs : Errs) (l : Loc) (st : Status), s.pow.st = .on →
    Issues s (fun o => o.opcode == 0x12 && !o.varBit 2) k →
    let v := errsMet k errs (issued s k)
    workOf v k.h k.idx = false → k.o.arg2 ≠ 0 →
    operand v k k.o.src0 k.anyTile 0 k.o.arg2 false = some l → queueAt remote = none →
    fabricCheck v k.c.fn (k.o.arg0 % 2 ^ 15) remote (sendBody v k act (tab, gen) (locRead v k.h l k.o.arg2).1).length .write = st → st ≠ .ok →
    exec (.send k.h remote act tab gen errs) s = .next (finish (retire (t0Fails errs.t0 (issued s k) v) k.h k.idx st 0))) ∧
  (∀ (s : State) (k : OpCtx) (remote act tab gen : Nat) (errs : Errs) (l : Loc), s.pow.st = .on →
    Issues s (fun o => o.opcode == 0x12 && !o.varBit 2) k →
    let v := errsMet k errs (issued s k)
    workOf v k.h k.idx = false → k.o.arg2 ≠ 0 →
    operand v k k.o.src0 k.anyTile 0 k.o.arg2 false = some l → queueAt remote = none →
    let x := locRead v k.h l k.o.arg2
    let body := sendBody v k act (tab, gen) x.1
    fabricCheck v k.c.fn (k.o.arg0 % 2 ^ 15) remote body.length .write = .ok → body ≠ [] →
    let ps := withCadd (k.o.varBit 1) k.o.aux ((cutPieces body).map (fun p => (p.1,
      { flowPkt x.2 1 (k.o.arg0 % 2 ^ 15) (remote + p.1) (rawBytes p.2) (anyPsn p.2) with combine := k.o.varBit 0 })))
    let w := newWork x.2 ⟨.ctx k.h, k.idx, k.c.fn, 2, ps.length, psnStatus (anyPsn x.1), false, 0, [], 0⟩
    exec (.send k.h remote act tab gen errs) s = .next (finish (holdCtx
      (t0Fails errs.t0 (issued s k) (post w.2 (.flow (k.o.arg0 % 2 ^ 15)) w.1 ps)) k.h))) ∧
  (∀ (s : State) (k : OpCtx) (remote qn act tab gen : Nat) (errs : Errs) (l : Loc), s.pow.st = .on →
    Issues s (fun o => o.opcode == 0x12 && !o.varBit 2) k →
    let v := errsMet k errs (issued s k)
    workOf v k.h k.idx = false → k.o.arg2 ≠ 0 →
    operand v k k.o.src0 k.anyTile 0 k.o.arg2 false = some l → queueAt remote = some qn →
    fabricCheck v k.c.fn (k.o.arg0 % 2 ^ 15) remote 16 .write = .ok →
    let x := locRead v k.h l k.o.arg2
    let ps := (groupRecords (k.o.varBit 0) (splitRecords (k.o.arg2 + 1) (rawBytes x.1))).map (fun g => (0,
      { flowPkt x.2 7 (k.o.arg0 % 2 ^ 15) remote g (anyPsn x.1) with combine := k.o.varBit 0 }))
    ps ≠ [] →
    let w := newWork x.2 ⟨.ctx k.h, k.idx, k.c.fn, 2, ps.length, psnStatus (anyPsn x.1), false, 0, [], 0⟩
    exec (.send k.h remote act tab gen errs) s = .next (finish (holdCtx
      (t0Fails errs.t0 (issued s k) (post w.2 (.flow (k.o.arg0 % 2 ^ 15)) w.1 ps)) k.h))) ∧
  (∀ (s : State) (k : OpCtx) (errs : Errs) (l : Loc), s.pow.st = .on → Issues s (fun o => o.opcode == 0x12 && o.varBit 2) k →
    let v := errsMet k errs (issued s k)
    workOf v k.h k.idx = false → operand v k k.o.src0 k.anyTile 0 32 false = some l →
    anyPsn (locRead v k.h l 32).1 = true →
    exec (.bulkCopyList k.h errs) s = .next (finish (retire (t0Fails errs.t0 (issued s k) v) k.h k.idx .poison 0))) ∧
  (∀ (s t u : State) (k : OpCtx) (errs : Errs) (l m : Loc) (hb lb : List PByte) (cnt node c : Nat) (ps : List (Nat × Pkt)) (y : State) (st : Status),
    s.pow.st = .on → Issues s (fun o => o.opcode == 0x12 && o.varBit 2) k →
    let v := errsMet k errs (issued s k)
    workOf v k.h k.idx = false → operand v k k.o.src0 k.anyTile 0 32 false = some l →
    locRead v k.h l 32 = (hb, t) → anyPsn hb = false → fieldAt (rawBytes hb) 0 2 = cnt → fieldAt (rawBytes hb) 2 2 = node →
    fieldAt (rawBytes hb) 4 4 = c → 1 ≤ cnt → cnt ≤ 16 → node < 32768 → bits c 30 17 = 0 → zeroAt (rawBytes hb) 8 24 = true →
    operand v k k.o.src0 k.anyTile 32 (24 * cnt) false = some m → locRead t k.h m (24 * cnt) = (lb, u) → anyPsn lb = false →
    listPkts errs.batts k.c.fn node (segmentsOf (rawBytes lb) cnt) (endWait u (.ctx k.h)) = some (.ok ps, y, st) → ps ≠ [] →
    let qs := withCadd (bitAt c 31) (c % 2 ^ 17) ps
    let w := newWork y ⟨.ctx k.h, k.idx, k.c.fn, 2, qs.length, st, false, 0, [], 0⟩
    exec (.bulkCopyList k.h errs) s = .next (finish (holdCtx (t0Fails errs.t0 (issued s k) (post w.2 (.flow node) w.1 qs)) k.h))) ∧
  (∀ (s : State) (k : OpCtx) (l m : Loc) (cnt node c : Nat), s.pow.st = .on → Issues s (fun o => o.opcode == 0x12 && o.varBit 2) k →
    workOf (issued s k) k.h k.idx = false → operand (issued s k) k k.o.src0 k.anyTile 0 32 false = some l →
    let h := locRead (issued s k) k.h l 32
    anyPsn h.1 = false → fieldAt (rawBytes h.1) 0 2 = cnt → fieldAt (rawBytes h.1) 2 2 = node →
    fieldAt (rawBytes h.1) 4 4 = c → 1 ≤ cnt → cnt ≤ 16 → node < 32768 → bits c 30 17 = 0 → zeroAt (rawBytes h.1) 8 24 = true →
    operand (issued s k) k k.o.src0 k.anyTile 32 (24 * cnt) false = some m →
    let b := locRead h.2 k.h m (24 * cnt)
    let u := endWait b.2 (.ctx k.h)
    anyPsn b.1 = false →
    (∀ g ∈ segmentsOf (rawBytes b.1) cnt, g.2.1 < 2 ^ 48 ∧ 0 < g.2.2 ∧ g.2.2 ≤ 2 ^ 32 ∧ localCheck u k.c.fn g.1 g.2.2 false = .ok ∧
      fabricCheck u k.c.fn node g.2.1 g.2.2 .write = .ok ∧ (addrClass g.1 = .t1 ∨ addrClass g.1 = .t2)) →
    ∃ ps y st, listPkts [] k.c.fn node (segmentsOf (rawBytes b.1) cnt) u = some (.ok ps, y, st) ∧ ps ≠ [] ∧
      (let qs := withCadd (bitAt c 31) (c % 2 ^ 17) ps
       let w := newWork y ⟨.ctx k.h, k.idx, k.c.fn, 2, qs.length, st, false, 0, [], 0⟩
       exec (.bulkCopyList k.h noErrs) s = .next (finish (holdCtx (post w.2 (.flow node) w.1 qs) k.h))))

/-- Clause by clause, with the module on: an ATTN op that may issue, whose span and parameters are good and whose queries and bias tables are readable,
computes its partials over pages that are all at hand (in T1 on a stack that does not drain, in T2 where the span is read in place, or never backed,
and not migrating), stores its outputs or records at a writable DST, or sends its records to the receive queue of another node that is not lost, and
retires with the worst status of its heads (ST_POISON where the store met poison) and the saturations of its queries; whatever its dispatch answers
with no lender asked, it is delivered and retires with the delivery's status. ATTN_QUERY, whose span and fields are good, whose bias tables lie in a
region of the function, whose query bytes the host gives and whose results the windows admit, over pages all at hand, completes with the worst status
of its heads and the mask of the good ones. ATTN_REQ of the current epoch naming pages lent to the borrower whose T3 key is held is answered with
records of the partials over those pages, one page's partials for one handle, and counted; of a stale epoch, of a page lent to another node, of a
handle that is not held, or without the key it is answered with ST_EPOCH_STALE, ST_PROTECTION, ST_RETRY_LATER and ST_KEY_UNAVAILABLE. PARTIAL_DATA for
a waiting operation is taken up and counts its invalid records; where no request of the operation is then unanswered the operation ends, else it waits
on; for no waiting operation it changes nothing but the end of the command. -/
def Obligations.AttentionRuns : Prop :=
  (∀ (s : State) (k : OpCtx) (b : Binding) (x : Span) (l0 l : Loc) (a : Nat) (bb : Buf) (bf : Bool), s.pow.st = .on → Issues s (fun o => o.opcode == 0x10) k →
    s.attn.waits.find? (fun p => p.2.who == .ctx k.h && p.2.idx == k.idx) = none → k.binding k.o.aux = some b →
    spanIf (issued s k) k.c.fn b.span (attnOk k) = .ok x →
    operand (issued s k) k k.o.src0 k.anyTile 0 (vecBytes bf ((bits k.o.arg0 20 15 + 1) * x.dim)) false = some l0 →
    operand (issued s k) k k.o.src1 k.anyTile 0 (128 * (bits k.o.arg0 20 15 + 1)) false = some (.mem a) → k.p.bufs[k.o.src1]? = some bb → bb.kind ≤ 1 →
    let r := locRead (issued s k) k.h l0 (vecBytes bf ((bits k.o.arg0 20 15 + 1) * x.dim))
    let hs := makeHeads x (vecElems bf r.1) (biasTables r.2 a (bits k.o.arg0 20 15 + 1))
    let q := attnReqOf (issued s k) k b x hs.1
    let ps := pagesRead x q
    (∀ p ∈ ps, PageHere r.2 x b.span p.1) →
    let u := readHere r.2 b.span k.h [] ps
    let own := partsHere r.2 b.span k.h x q [] ps
    let st := own.foldl (fun z p => z.worse (partStatus p)) .ok
    (k.o.varBit 0 || k.o.dst != 0xFFFF) = true →
    let bs := attnOut q (k.o.varBit 0) (k.o.varBit 1) own
    operand u k k.o.dst k.anyTile 0 bs.length true = some l →
    let w := if ps.any (fun p => (r.2.pte b.span p.1).st == .t1) then chainStore u k l bs else locWrite u k.h l bs
    exec (.attn k.h bf noErrs) s =
      .next (finish (retire (endWait w.1 (.ctx k.h)) k.h k.idx (if w.2 && st == .ok then .poison else st) hs.2))) ∧
  (∀ (s : State) (k : OpCtx) (b : Binding) (x : Span) (l0 : Loc) (a : Nat) (bb : Buf) (bf : Bool), s.pow.st = .on → Issues s (fun o => o.opcode == 0x10) k →
    s.attn.waits.find? (fun p => p.2.who == .ctx k.h && p.2.idx == k.idx) = none → k.binding k.o.aux = some b →
    spanIf (issued s k) k.c.fn b.span (attnOk k) = .ok x →
    operand (issued s k) k k.o.src0 k.anyTile 0 (vecBytes bf ((bits k.o.arg0 20 15 + 1) * x.dim)) false = some l0 →
    operand (issued s k) k k.o.src1 k.anyTile 0 (128 * (bits k.o.arg0 20 15 + 1)) false = some (.mem a) → k.p.bufs[k.o.src1]? = some bb → bb.kind ≤ 1 →
    let r := locRead (issued s k) k.h l0 (vecBytes bf ((bits k.o.arg0 20 15 + 1) * x.dim))
    let hs := makeHeads x (vecElems bf r.1) (biasTables r.2 a (bits k.o.arg0 20 15 + 1))
    let q := attnReqOf (issued s k) k b x hs.1
    let ps := pagesRead x q
    (∀ p ∈ ps, PageHere r.2 x b.span p.1) →
    let u := readHere r.2 b.span k.h [] ps
    let own := partsHere r.2 b.span k.h x q [] ps
    let st := own.foldl (fun z p => z.worse (partStatus p)) .ok
    (k.o.varBit 0 || k.o.dst != 0xFFFF) = false →
    bits k.o.arg3 15 0 ≠ u.fld R.ROUTE_NODE.NODE → nodeLost u (bits k.o.arg3 15 0) = false →
    let w := (List.zip (headRecords q own) (own.map (·.psn))).foldl (fun s r => s.emit (.record (bits k.o.arg3 15 0) (bits k.o.arg3 31 16) false r.1)) u
    exec (.attn k.h bf noErrs) s = .next (finish (retire (endWait w (.ctx k.h)) k.h k.idx st hs.2))) ∧
  (∀ (s u : State) (k : OpCtx) (b : Binding) (x : Span) (l0 : Loc) (a : Nat) (bb : Buf) (bf chain : Bool) (errs : Errs) (own : List Partial)
    (w : State × Status), s.pow.st = .on → Issues s (fun o => o.opcode == 0x10) k →
    let v := errsMet k errs (issued s k)
    v.attn.waits.find? (fun p => p.2.who == .ctx k.h && p.2.idx == k.idx) = none → k.binding k.o.aux = some b →
    spanIf v k.c.fn b.span (attnOk k) = .ok x → operand v k k.o.src0 k.anyTile 0 (vecBytes bf ((bits k.o.arg0 20 15 + 1) * x.dim)) false = some l0 →
    operand v k k.o.src1 k.anyTile 0 (128 * (bits k.o.arg0 20 15 + 1)) false = some (.mem a) → k.p.bufs[k.o.src1]? = some bb → bb.kind ≤ 1 →
    let r := locRead v k.h l0 (vecBytes bf ((bits k.o.arg0 20 15 + 1) * x.dim))
    let hs := makeHeads x (vecElems bf r.1) (biasTables r.2 a (bits k.o.arg0 20 15 + 1))
    let q := attnReqOf v k b x hs.1
    dispatchAttn r.2 b.span x q k.h errs.batts = .go u own [] chain →
    deliverAttn u k ⟨.ctx k.h, k.idx, q, own, [], .ok, v.now, hs.2, chain⟩ own = some w →
    exec (.attn k.h bf errs) s =
      .next (finish (retire (t0Fails errs.t0 (issued s k) (endWait w.1 (.ctx k.h))) k.h k.idx w.2 hs.2))) ∧
  (∀ (s : State) (f r n k : Nat) (tlp : List (Nat × Nat)) (d : List (BitVec 8)) (bs : List PByte) (x : Span), s.pow.st = .on →
    takeDesc s f r n 0x18 = some d → s.attn.waits.any (fun p => p.2.who == .desc f r n) = false → f < 64 →
    fieldAt d 8 4 = k → k < 2 ^ 18 → spanIf s f k (fun x => queryOk x d) = .ok x →
    biasOk s f (fieldAt d 48 6) (128 * (bits (fieldAt d 14 1) 5 0 + 1)) = true →
    let u := withTlp tlp s
    hostReadP u f (fieldAt d 56 8) (4 * (bits (fieldAt d 14 1) 5 0 + 1) * x.dim) = some bs →
    let hs := makeHeads x (elemsOf bs) (biasTables u (fieldAt d 48 6) (bits (fieldAt d 14 1) 5 0 + 1))
    let q := queryReq u f x d hs.1
    let ps := pagesRead x q
    (∀ p ∈ ps, PageHere u x k p.1) →
    let own := partsHere u k (2 ^ 19 - 1) x q [] ps
    let out := (own.zipIdx).flatMap (fun p => queryOut q (bitAt (fieldAt d 15 1) 0) (bitAt (fieldAt d 15 1) 1) p.2 p.1)
    let t := (endWait (readHere u k (2 ^ 19 - 1) [] ps) (.desc f r n)).incFld R.FN_SAT_CNT hs.2 f
    (hostUp (readHere u k (2 ^ 19 - 1) [] ps) f &&
      winOk (readHere u k (2 ^ 19 - 1) [] ps) f (fieldAt d 56 8 + 64 * ceilDiv (4 * q.heads.length * q.dim) 64) out.length true) = true →
    ∃ m, exec (.attnQuery f r n { noErrs with host := tlp }) s = .next (finish (complete { t with host := { t.host with hostMem := m } } f r n
      (own.foldl (fun a p => a.worse (partStatus p)) .ok) 0 (leBytes 8 (okHeads own))))) ∧
  (∀ (s : State) (node id : Nat) (handles : List Nat) (req : AttnReq) (errs : Errs), s.pow.st = .on → req.epoch = s.epoch →
    (∀ h ∈ handles, ∃ l, Tab.find? h s.pg.lent = some l ∧ l.page.node = node ∧ NSet.has (node * 64 + l.page.fn) s.pg.lentKeys = true) →
    ∃ tot st, exec (.attnReq node id handles req errs) s =
      .next (finish (((errsModule errs s).emit (.partialData node id st (headRecords { req with tent := false } tot))).incFld
        R.ATTN_REMOTE_SRV_CNT.COUNT))) ∧
  (∀ (s : State) (node id h : Nat) (req : AttnReq) (errs : Errs) (l : LentPage), s.pow.st = .on → req.epoch = s.epoch →
    Tab.find? h s.pg.lent = some l → l.page.node = node → NSet.has (node * 64 + l.page.fn) s.pg.lentKeys = true →
    let p := lentParts (errsModule errs s) req l (badOf errs.batts h)
    let st := if p.2 then Status.battLength else psnStatus (p.1.any (·.psn))
    exec (.attnReq node id [h] req errs) s =
      .next (finish (((errsModule errs s).emit (.partialData node id st (headRecords { req with tent := false } p.1))).incFld
        R.ATTN_REMOTE_SRV_CNT.COUNT))) ∧
  (∀ (s : State) (node id : Nat) (handles : List Nat) (req : AttnReq) (errs : Errs), s.pow.st = .on → req.epoch ≠ s.epoch →
    s.flag R.MER_STAT.DRAINING = false →
    exec (.attnReq node id handles req errs) s = .next (finish (s.emit (.answer node id .epochStale)))) ∧
  (∀ (s : State) (node id h : Nat) (req : AttnReq) (errs : Errs), s.pow.st = .on → req.epoch = s.epoch →
    (Tab.find? h s.pg.lent = none → exec (.attnReq node id [h] req errs) s = .next (finish (s.emit (.answer node id .retryLater)))) ∧
    (∀ l, Tab.find? h s.pg.lent = some l → l.page.node ≠ node →
      exec (.attnReq node id [h] req errs) s = .next (finish (s.emit (.answer node id .protection)))) ∧
    (∀ l, Tab.find? h s.pg.lent = some l → l.page.node = node → NSet.has (node * 64 + l.page.fn) s.pg.lentKeys = false →
      exec (.attnReq node id [h] req errs) s = .next (finish (s.emit (.answer node id .keyUnavailable))))) ∧
  (∀ (s : State) (id st : Nat) (recs : List (List (BitVec 8))), s.pow.st = .on → waitOf s id = none →
    exec (.partialData id st recs) s = .next (finish s)) ∧
  (∀ (s : State) (id key st : Nat) (recs : List (List (BitVec 8))) (w : AttnWait) (r : Nat × RemoteReq), s.pow.st = .on →
    waitOf s id = some (key, w) → w.remotes.find? (fun r => r.1 == id) = some r → r.2.answer = none →
    let ps := recs.map (fun b => (parseRecord r.2.node 1 false b).filter (fun p => p.part.o.length == w.req.dim))
    let q := takeAnswer ((ps.filter (·.isNone)).foldl (fun s _ => s.incFld R.ATTN_BAD_CNT.COUNT) s) (statusOfNat st) (ps.filterMap (fun p => p)) w r.2
    let w' := { w.put id q.2 with status := (w.put id q.2).status.worse (if ps.any (·.isNone) then .invalid else .ok) }
    let u := { q.1 with attn := { q.1.attn with waits := Tab.ins key w' q.1.attn.waits } }
    (w'.remotes.all (fun r => r.2.answer.isSome) = true → exec (.partialData id st recs) s = .next (finish (endAttn u key w'))) ∧
    (w'.remotes.all (fun r => r.2.answer.isSome) = false → exec (.partialData id st recs) s = .next (finish u)))

/-- Clause by clause, with the module on: EP_CREATE whose fields are good, within the ceilings and with its number free makes an endpoint whose generation
is one more, modulo 256, than the number's last, brings its state in and answers number and generation; EP_DESTROY of an endpoint of its function
destroys it and completes with ST_OK; EP_POST of OP 0 to 4, not triggered, on a healthy endpoint to a node that is not lost cuts its packets, marks
the descriptor started and posts them as one work request: WRITE and WRITE_IMM with the bytes that their source gives (from host memory whatever a
window admits, from local memory the bytes of T1 or T2 that the function may read), READ with one packet for each 4,096 bytes, FETCH_ADD and
COMPARE_SWAP with one ATOMIC packet; a WRITE whose source is barred, and a READ whose answer may not be written where it asks, completes with that
status and sends nothing; on an endpoint in error a WRITE completes with ST_TIMEOUT; a triggered request whose trigger is armed and has no request yet
waits for it, below the function's ceiling, and one whose trigger has fired starts at once; REGION_SET of a free entry inside what its kind requires
sets the entry with the next generation and answers its key; REGION_CLEAR with the entry's key frees it. -/
def Obligations.EndpointsAndRegions : Prop :=
  (∀ (s : State) (f r n pick k : Nat) (d : List (BitVec 8)) (e : Endpoint), s.pow.st = .on → takeDesc s f r n 0x38 = some d →
    parseEpCreate f d = some e → epCreateStatus s f e = .ok → pickFree s.tr.eps 0 1048576 pick = some k →
    let g := (Tab.get 0 k s.tr.gens + 1) % 256
    let e' := { e with gen := g, ctr := (fnCounter s f e.ctr).getD 0, conn := { conn0 with resident := false } }
    let u := State.setEndp { s with tr := { s.tr with gens := Tab.put 0 k g s.tr.gens } } k e'
    exec (.epCreate f r n pick) s = .next (finish (complete (touchConn (bringIn u (.ep k)) (.ep k)) f r n .ok 0
      (leBytes 4 (k + g * 2 ^ 20))))) ∧
  (∀ (s : State) (f r n k : Nat) (d : List (BitVec 8)) (e : Endpoint), s.pow.st = .on → takeDesc s f r n 0x39 = some d →
    fieldAt d 8 4 < 2 ^ 28 → zeroAt d 12 52 = true → namedEp s f (fieldAt d 8 4) = .ok (k, e) →
    exec (.epDestroy f r n) s = .next (finish (complete (destroyEp s k) f r n .ok))) ∧
  (∀ (s t : State) (f r n k : Nat) (errs : Errs) (d : List (BitVec 8)) (e : Endpoint) (bs : List PByte), s.pow.st = .on → takeDesc s f r n 0x3A = some d →
    (findDesc s f r n).map (·.started) = some false → fieldAt d 12 1 = 0 → postFieldsOk d = true →
    namedEp s f (fieldAt d 8 4) = .ok (k, e) → bitAt (fieldAt d 13 1) 1 = false → e.err = false → nodeLost s e.node = false →
    postData (withTlp errs.host s) errs f (bitAt (fieldAt d 13 1) 0) (fieldAt d 16 8) (fieldAt d 36 4) = .ok (bs, t) →
    let ps := writePkts t e (fieldAt d 24 8) (fieldAt d 32 4) (bitAt (fieldAt d 13 1) 2) (bitAt (fieldAt d 13 1) 3) bs
    let w := newWork (markStarted t f r n) ⟨.desc f r n, 0, f, 0, ps.length, psnStatus (ps.any (·.2.poison)), bitAt (fieldAt d 13 1) 0,
      fieldAt d 16 8, [], 0⟩
    exec (.epPostWrite f r n errs) s = .next (finish (post w.2 (.ep k) w.1 ps))) ∧
  (∀ (s : State) (f r n k : Nat) (tlp : List (Nat × Nat)) (d : List (BitVec 8)) (e : Endpoint), s.pow.st = .on → takeDesc s f r n 0x3A = some d →
    (findDesc s f r n).map (·.started) = some false → fieldAt d 12 1 = 0 → postFieldsOk d = true →
    namedEp s f (fieldAt d 8 4) = .ok (k, e) → bitAt (fieldAt d 13 1) 1 = false → e.err = false → nodeLost s e.node = false →
    fieldAt d 36 4 ≠ 0 →
    (if bitAt (fieldAt d 13 1) 0 then hostUp s f && winOk s f (fieldAt d 16 8) (fieldAt d 36 4) false
     else epLocal s f (fieldAt d 16 8) (fieldAt d 36 4) false == .ok) = true →
    let u := withTlp tlp s
    ∃ bs t, (bitAt (fieldAt d 13 1) 0 = true → hostReadP u f (fieldAt d 16 8) (fieldAt d 36 4) = some bs ∧ t = u) ∧
      (bitAt (fieldAt d 13 1) 0 = false → (bs, t) = preadCtl u (fieldAt d 16 8) (fieldAt d 36 4)) ∧
      (let ps := writePkts t e (fieldAt d 24 8) (fieldAt d 32 4) (bitAt (fieldAt d 13 1) 2) (bitAt (fieldAt d 13 1) 3) bs
       let w := newWork (markStarted t f r n) ⟨.desc f r n, 0, f, 0, ps.length, psnStatus (ps.any (·.2.poison)), bitAt (fieldAt d 13 1) 0,
         fieldAt d 16 8, [], 0⟩
       exec (.epPostWrite f r n { noErrs with host := tlp }) s = .next (finish (post w.2 (.ep k) w.1 ps)))) ∧
  (∀ (s : State) (f r n k : Nat) (d : List (BitVec 8)) (e : Endpoint), s.pow.st = .on → takeDesc s f r n 0x3A = some d →
    (findDesc s f r n).map (·.started) = some false → fieldAt d 12 1 = 1 → postFieldsOk d = true →
    namedEp s f (fieldAt d 8 4) = .ok (k, e) → bitAt (fieldAt d 13 1) 1 = false → e.err = false → nodeLost s e.node = false →
    answerCheck s f (bitAt (fieldAt d 13 1) 0) (fieldAt d 16 8) (fieldAt d 36 4) = .ok →
    let ps := (cutLens (fieldAt d 36 4)).map (fun p => (p.1, epPkt s e 3 (fieldAt d 24 8 + p.1) (fieldAt d 32 4) (bitAt (fieldAt d 13 1) 2)
      (bitAt (fieldAt d 13 1) 3) (leBytes 4 p.2) false))
    let w := newWork (markStarted s f r n) ⟨.desc f r n, 0, f, 0, ps.length, .ok, bitAt (fieldAt d 13 1) 0, fieldAt d 16 8, [], 0⟩
    exec (.epPostRead f r n) s = .next (finish (post w.2 (.ep k) w.1 ps))) ∧
  (∀ (s t : State) (f r n k : Nat) (errs : Errs) (d : List (BitVec 8)) (e : Endpoint) (bs : List PByte), s.pow.st = .on → takeDesc s f r n 0x3A = some d →
    (findDesc s f r n).map (·.started) = some false → fieldAt d 12 1 = 2 → postFieldsOk d = true →
    namedEp s f (fieldAt d 8 4) = .ok (k, e) → bitAt (fieldAt d 13 1) 1 = false → e.err = false → nodeLost s e.node = false →
    postData (withTlp errs.host s) errs f (bitAt (fieldAt d 13 1) 0) (fieldAt d 16 8) (fieldAt d 36 4) = .ok (bs, t) →
    let ps := writeImmPkts t e (fieldAt d 24 8) (fieldAt d 32 4) (fieldAt d 40 4) (bitAt (fieldAt d 13 1) 2) (bitAt (fieldAt d 13 1) 3) bs
    let w := newWork (markStarted t f r n) ⟨.desc f r n, 0, f, 0, ps.length, psnStatus (ps.any (·.2.poison)), bitAt (fieldAt d 13 1) 0,
      fieldAt d 16 8, [], 0⟩
    exec (.epPostWriteImm f r n errs) s = .next (finish (post w.2 (.ep k) w.1 ps))) ∧
  (∀ (s : State) (f r n k : Nat) (tlp : List (Nat × Nat)) (d : List (BitVec 8)) (e : Endpoint), s.pow.st = .on → takeDesc s f r n 0x3A = some d →
    (findDesc s f r n).map (·.started) = some false → fieldAt d 12 1 = 2 → postFieldsOk d = true →
    namedEp s f (fieldAt d 8 4) = .ok (k, e) → bitAt (fieldAt d 13 1) 1 = false → e.err = false → nodeLost s e.node = false →
    fieldAt d 36 4 ≠ 0 →
    (if bitAt (fieldAt d 13 1) 0 then hostUp s f && winOk s f (fieldAt d 16 8) (fieldAt d 36 4) false
     else epLocal s f (fieldAt d 16 8) (fieldAt d 36 4) false == .ok) = true →
    let u := withTlp tlp s
    ∃ bs t, (bitAt (fieldAt d 13 1) 0 = true → hostReadP u f (fieldAt d 16 8) (fieldAt d 36 4) = some bs ∧ t = u) ∧
      (bitAt (fieldAt d 13 1) 0 = false → (bs, t) = preadCtl u (fieldAt d 16 8) (fieldAt d 36 4)) ∧
      (let ps := writeImmPkts t e (fieldAt d 24 8) (fieldAt d 32 4) (fieldAt d 40 4) (bitAt (fieldAt d 13 1) 2) (bitAt (fieldAt d 13 1) 3) bs
       let w := newWork (markStarted t f r n) ⟨.desc f r n, 0, f, 0, ps.length, psnStatus (ps.any (·.2.poison)), bitAt (fieldAt d 13 1) 0,
         fieldAt d 16 8, [], 0⟩
       exec (.epPostWriteImm f r n { noErrs with host := tlp }) s = .next (finish (post w.2 (.ep k) w.1 ps)))) ∧
  (∀ (s : State) (f r n k : Nat) (d : List (BitVec 8)) (e : Endpoint), s.pow.st = .on → takeDesc s f r n 0x3A = some d →
    (findDesc s f r n).map (·.started) = some false → fieldAt d 12 1 = 3 → postFieldsOk d = true →
    namedEp s f (fieldAt d 8 4) = .ok (k, e) → bitAt (fieldAt d 13 1) 1 = false → e.err = false → nodeLost s e.node = false →
    answerCheck s f (bitAt (fieldAt d 13 1) 0) (fieldAt d 16 8) 8 = .ok →
    let p := epPkt s e 4 (fieldAt d 24 8) (fieldAt d 32 4) (bitAt (fieldAt d 13 1) 2) (bitAt (fieldAt d 13 1) 3)
      (atomicPayload 0 (fieldAt d 56 8) (fieldAt d 40 8)) false
    let w := newWork (markStarted s f r n) ⟨.desc f r n, 0, f, 0, 1, .ok, bitAt (fieldAt d 13 1) 0, fieldAt d 16 8, [], 0⟩
    exec (.epPostFetchAdd f r n) s = .next (finish (post w.2 (.ep k) w.1 [(0, p)]))) ∧
  (∀ (s : State) (f r n k : Nat) (d : List (BitVec 8)) (e : Endpoint), s.pow.st = .on → takeDesc s f r n 0x3A = some d →
    (findDesc s f r n).map (·.started) = some false → fieldAt d 12 1 = 4 → postFieldsOk d = true →
    namedEp s f (fieldAt d 8 4) = .ok (k, e) → bitAt (fieldAt d 13 1) 1 = false → e.err = false → nodeLost s e.node = false →
    answerCheck s f (bitAt (fieldAt d 13 1) 0) (fieldAt d 16 8) 8 = .ok →
    let p := epPkt s e 4 (fieldAt d 24 8) (fieldAt d 32 4) (bitAt (fieldAt d 13 1) 2) (bitAt (fieldAt d 13 1) 3)
      (atomicPayload 1 (fieldAt d 56 8) (fieldAt d 40 8)) false
    let w := newWork (markStarted s f r n) ⟨.desc f r n, 0, f, 0, 1, .ok, bitAt (fieldAt d 13 1) 0, fieldAt d 16 8, [], 0⟩
    exec (.epPostCompareSwap f r n) s = .next (finish (post w.2 (.ep k) w.1 [(0, p)]))) ∧
  (∀ (s : State) (f r n k : Nat) (d : List (BitVec 8)) (e : Endpoint), s.pow.st = .on → takeDesc s f r n 0x3A = some d →
    (findDesc s f r n).map (·.started) = some false → fieldAt d 12 1 = 0 → postFieldsOk d = true →
    namedEp s f (fieldAt d 8 4) = .ok (k, e) → bitAt (fieldAt d 13 1) 1 = false → e.err = true →
    exec (.epPostWrite f r n noErrs) s = .next (finish (complete (withTlp [] s) f r n .timeout))) ∧
  (∀ (s : State) (f r n k : Nat) (errs : Errs) (d : List (BitVec 8)) (e : Endpoint) (st : Status), s.pow.st = .on → takeDesc s f r n 0x3A = some d →
    (findDesc s f r n).map (·.started) = some false → fieldAt d 12 1 = 0 → postFieldsOk d = true →
    namedEp s f (fieldAt d 8 4) = .ok (k, e) → bitAt (fieldAt d 13 1) 1 = false → e.err = false → nodeLost s e.node = false →
    postData (withTlp errs.host s) errs f (bitAt (fieldAt d 13 1) 0) (fieldAt d 16 8) (fieldAt d 36 4) = .error st →
    exec (.epPostWrite f r n errs) s = .next (finish (complete (withTlp errs.host s) f r n st))) ∧
  (∀ (s : State) (f r n k c t : Nat) (d : List (BitVec 8)) (e : Endpoint), s.pow.st = .on → takeDesc s f r n 0x3A = some d →
    (findDesc s f r n).map (·.started) = some false → fieldAt d 12 1 = 3 → postFieldsOk d = true →
    namedEp s f (fieldAt d 8 4) = .ok (k, e) → bitAt (fieldAt d 13 1) 1 = true → fnCounter s f (fieldAt d 48 4) = some c →
    s.tr.fired.find? (fun p => p.fn == f && p.counter == c && p.ep == fieldAt d 8 4 && p.tag == fieldAt d 4 4) = none →
    preTrigger s f c (fieldAt d 8 4) (fieldAt d 4 4) = some t → s.tr.pre.any (fun p => p.trigger == t) = false →
    s.tr.pre.countP (fun p => p.fn == f) < s.fld R.FN_PREPOST_CEIL f →
    let u := markStarted s f r n
    exec (.epPostFetchAdd f r n) s =
      .next (finish { u with tr := { u.tr with pre := u.tr.pre ++ [⟨f, r, n, fieldAt d 8 4, fieldAt d 4 4, c, t⟩] } })) ∧
  (∀ (s : State) (f r n k c : Nat) (d : List (BitVec 8)) (e : Endpoint) (q : PrePost), s.pow.st = .on → takeDesc s f r n 0x3A = some d →
    (findDesc s f r n).map (·.started) = some false → fieldAt d 12 1 = 3 → postFieldsOk d = true →
    namedEp s f (fieldAt d 8 4) = .ok (k, e) → bitAt (fieldAt d 13 1) 1 = true → fnCounter s f (fieldAt d 48 4) = some c →
    s.tr.fired.find? (fun p => p.fn == f && p.counter == c && p.ep == fieldAt d 8 4 && p.tag == fieldAt d 4 4) = some q →
    e.err = false → nodeLost s e.node = false → answerCheck s f (bitAt (fieldAt d 13 1) 0) (fieldAt d 16 8) 8 = .ok →
    let u := { s with tr := { s.tr with fired := s.tr.fired.filter (fun p => p.trigger != q.trigger) } }
    let p := epPkt u e 4 (fieldAt d 24 8) (fieldAt d 32 4) (bitAt (fieldAt d 13 1) 2) (bitAt (fieldAt d 13 1) 3)
      (atomicPayload 0 (fieldAt d 56 8) (fieldAt d 40 8)) false
    let w := newWork (markStarted u f r n) ⟨.desc f r n, 0, f, 0, 1, .ok, bitAt (fieldAt d 13 1) 0, fieldAt d 16 8, [], 0⟩
    exec (.epPostFetchAdd f r n) s = .next (finish (post w.2 (.ep k) w.1 [(0, p)]))) ∧
  (∀ (s : State) (f r n k : Nat) (d : List (BitVec 8)) (e : Endpoint) (st : Status), s.pow.st = .on → takeDesc s f r n 0x3A = some d →
    (findDesc s f r n).map (·.started) = some false → fieldAt d 12 1 = 1 → postFieldsOk d = true →
    namedEp s f (fieldAt d 8 4) = .ok (k, e) → bitAt (fieldAt d 13 1) 1 = false → e.err = false → nodeLost s e.node = false →
    answerCheck s f (bitAt (fieldAt d 13 1) 0) (fieldAt d 16 8) (fieldAt d 36 4) = st → st ≠ .ok →
    exec (.epPostRead f r n) s = .next (finish (complete s f r n st))) ∧
  (∀ (s : State) (f r n i fl kind g : Nat) (d : List (BitVec 8)), s.pow.st = .on → takeDesc s f r n 0x3A = some d → fieldAt d 12 1 = 5 →
    fieldAt d 8 4 < 2 ^ 16 → fieldAt d 13 1 = fl → bits fl 3 1 = 0 → (bitAt fl 0 && bitAt fl 4) = false → zeroAt d 14 2 = true →
    fieldAt d 32 4 = i → i < 2 ^ 24 → (if bitAt fl 4 then 2 else bit (bitAt fl 0)) = kind → (kind = 2 → fieldAt d 16 8 < 2 ^ 18) →
    1 ≤ fieldAt d 56 8 → fieldAt d 56 8 ≤ 2 ^ 48 → zeroAt d 52 4 = true → (∀ e, region? s f i = some e → e.used = false) →
    i < s.fld R.FN_REGIONS_MAX f → regionInside s f kind (fieldAt d 16 8) (fieldAt d 56 8) (bits fl 7 5) = true →
    (if ((region? s f i).map (·.gen)).getD 0 = 255 then 1 else ((region? s f i).map (·.gen)).getD 0 + 1) = g →
    let t := Tab.ins (f * 2 ^ 24 + i) ⟨true, g, kind, fieldAt d 8 2, bits fl 7 5, fieldAt d 16 8, fieldAt d 56 8⟩ s.tr.regions
    let u := { s with tr := { s.tr with regions := t } }
    exec (.regionSet f r n) s = .next (finish (complete u f r n .ok 0 (leBytes 4 (i + g * 2 ^ 24)))) ∧
      region? u f i = some ⟨true, g, kind, fieldAt d 8 2, bits fl 7 5, fieldAt d 16 8, fieldAt d 56 8⟩) ∧
  (∀ (s : State) (f r n key : Nat) (d : List (BitVec 8)) (e : RegEnt), s.pow.st = .on → takeDesc s f r n 0x3A = some d →
    fieldAt d 12 1 = 6 → zeroAt d 8 4 = true → zeroAt d 13 11 = true → zeroAt d 52 12 = true → fieldAt d 32 4 = key →
    region? s f (key % 2 ^ 24) = some e → e.used = true → e.gen = key / 2 ^ 24 →
    let t := Tab.ins (f * 2 ^ 24 + key % 2 ^ 24) { e with used := false } s.tr.regions
    let u := { s with tr := { s.tr with regions := t } }
    exec (.regionClear f r n) s = .next (finish (complete u f r n .ok)) ∧
      region? u f (key % 2 ^ 24) = some { e with used := false })

/-- Clause by clause, with the module on, at the fabric time the command brings: a producer's whole item of 1 to 1,048,576 bytes, on a queue with no open
item that may take the cells it needs, is appended behind the items there, and packetised where the queue is a send queue; any part of an item that
the queue takes is appended so; a free number opened for a context as a send queue takes the bytes; a producer that cannot finish its open item
flushes the queue, and with no open item changes nothing; TAKE, MARK, REWIND (of a marked queue), RELEASE (between MARK and HEAD) and UNMARK do their
operation to the queue, after which HEAD is past the first complete item after TAKE and where it was where there is none, MARK equals HEAD after MARK,
HEAD equals MARK after REWIND, MARK equals the position after RELEASE, and MARKED is set or clear as the operation says; REWIND without a mark sets
QM_ERR.NO_MARK and changes no queue; a stale timeout counts and takes its action; a sample time writes the listed queues' records where the ring is
enabled, and samples every queue; a gate cycle start applies a pending swap; a bucket send and an injection window let waiting packets leave. -/
def Obligations.QueueCommands : Prop :=
  (∀ (s u : State) (q h node contrib t : Nat) (x : Queue) (bs : List (BitVec 8)) (psn first last opEnd : Bool), s.pow.st = .on →
    (atTime s t).queue? q = some x → appendBytes (atTime s t) q bs psn first last node contrib = some u →
    (u.queue? q).map (·.action) = some 0 →
    exec (.queueAppend q h bs psn first last opEnd false node contrib t) s = .next (finish (packetise q (last && opEnd) 20 u))) ∧
  (∀ (s u : State) (q h node contrib t : Nat) (x : Queue) (bs : List (BitVec 8)) (psn first last opEnd : Bool), s.pow.st = .on →
    (atTime s t).queue? q = some x → appendBytes (atTime s t) q bs psn first last node contrib = some u →
    (∀ y, u.queue? q = some y → y.action ≠ 0) →
    exec (.queueAppend q h bs psn first last opEnd false node contrib t) s = .next (finish (pumpFabric u))) ∧
  (∀ (s : State) (q h node contrib t : Nat) (x : Queue) (bs : List (BitVec 8)) (psn opEnd : Bool), s.pow.st = .on →
    (atTime s t).queue? q = some x → x.openItem = none → bs ≠ [] → bs.length ≤ 1048576 →
    let e := x.nextStart + x.slotBytes + bs.length
    mayAppend (atTime s t) q x (x.cellsTo e) = true →
    let g := x.growTo (atTime s t).now e
    let y := { g with dropping := false, items := x.items ++ [⟨bs, psn, node, contrib, x.nextStart, e - x.nextStart, false⟩] }
    let u := (atTime s t).setQueue q y
    exec (.queueAppend q h bs psn true true opEnd false node contrib t) s =
      .next (finish (if x.action = 0 then packetise q opEnd 20 u else pumpFabric u))) ∧
  (∀ (s u v : State) (q h node contrib t : Nat) (bs : List (BitVec 8)) (psn first last opEnd : Bool), s.pow.st = .on →
    (atTime s t).queue? q = none → openSend (atTime s t) q h = some u → appendBytes u q bs psn first last node contrib = some v →
    (v.queue? q).map (·.action) = some 0 →
    exec (.queueAppend q h bs psn first last opEnd false node contrib t) s = .next (finish (packetise q (last && opEnd) 20 v))) ∧
  (∀ (s : State) (q h node contrib t : Nat) (x : Queue) (bs : List (BitVec 8)) (psn first last opEnd : Bool), s.pow.st = .on →
    (atTime s t).queue? q = some x →
    (x.openItem ≠ none → exec (.queueAppend q h bs psn first last opEnd true node contrib t) s = .next (finish (pumpFabric (flushQueue (atTime s t) q)))) ∧
    (x.openItem = none → exec (.queueAppend q h bs psn first last opEnd true node contrib t) s = .next (finish (atTime s t)))) ∧
  (∀ (s : State) (q t : Nat) (x : Queue), s.pow.st = .on → (atTime s t).queue? q = some x →
    let y := x.take (atTime s t).now
    exec (.take q t) s = .next (finish (pumpFabric ((atTime s t).setQueue q y))) ∧
      (∀ i r, x.waiting = i :: r → y.head = i.start + i.size ∧ y.tail = x.tail ∧ y.marked = x.marked ∧ y.mark = x.mark) ∧ (x.waiting = [] → y = x)) ∧
  (∀ (s : State) (q : Nat) (x : Queue), s.pow.st = .on → s.queue? q = some x →
    exec (.mark q) s = .next (finish (pumpFabric (s.setQueue q x.setMark))) ∧
      x.setMark.mark = x.head ∧ x.setMark.marked = true ∧ x.setMark.head = x.head ∧ x.setMark.tail = x.tail) ∧
  (∀ (s : State) (q t : Nat) (x : Queue), s.pow.st = .on → (atTime s t).queue? q = some x → x.marked = true →
    let y := x.rewind (atTime s t).now
    exec (.rewind q t) s = .next (finish (pumpFabric ((atTime s t).setQueue q y))) ∧
      y.head = x.mark ∧ y.mark = x.mark ∧ y.marked = true ∧ y.tail = x.tail ∧ y.items = x.items) ∧
  (∀ (s : State) (q t : Nat) (x : Queue), s.pow.st = .on → (atTime s t).queue? q = some x → x.marked = false →
    exec (.rewind q t) s = .next (finish ((atTime s t).setFld R.QM_ERR.NO_MARK 1))) ∧
  (∀ (s : State) (q pos t : Nat) (x : Queue), s.pow.st = .on → (atTime s t).queue? q = some x → x.marked = true → x.mark ≤ pos → pos ≤ x.head →
    let y := x.release (atTime s t).now pos
    exec (.release q pos t) s = .next (finish (pumpFabric ((atTime s t).setQueue q y))) ∧
      y.mark = pos ∧ y.head = x.head ∧ y.tail = x.tail ∧ ∀ i ∈ y.items, pos ≤ i.start) ∧
  (∀ (s : State) (q : Nat) (x : Queue), s.pow.st = .on → s.queue? q = some x →
    exec (.unmark q) s = .next (finish (pumpFabric (s.setQueue q x.unmark))) ∧
      x.unmark.marked = false ∧ x.unmark.head = x.head ∧ x.unmark.tail = x.tail ∧ ∀ i ∈ x.unmark.items, x.head ≤ i.start) ∧
  (∀ (s : State) (q t : Nat) (x : Queue), s.pow.st = .on → (atTime s t).queue? q = some x → staleNow (atTime s t) x = true →
    let u := ((atTime s t).setQueue q { x with restart := (atTime s t).now }).incFld R.QM_TIMEOUT_CNT.COUNT
    (x.action = 0 → exec (.staleTimeout q t) s = .next (finish (packetise q true 20 u))) ∧
    (x.action = 1 → exec (.staleTimeout q t) s = .next (finish (flushQueue u q))) ∧
    (2 ≤ x.action → ∃ e : LogEntry, e.code = 0x18 ∧ e.object = q ∧
      exec (.staleTimeout q t) s = .next (finish ((logModule (u.setFld R.QM_ERR.STALE 1) e).emit (.staleQueue q))))) ∧
  (∀ (s : State) (t : Nat), s.pow.st = .on → (atTime s t).now % 1024 = 0 →
    let u := putListed (listMiss (atTime s t))
    exec (.telemetrySample t) s = .next (finish
      { u with qm := { u.qm with queues := u.qm.queues.map (fun p => (p.1, p.2.sample (atTime s t).now)), ticks := u.qm.ticks + 1 } })) ∧
  (∀ (s : State) (p t : Nat), s.pow.st = .on → p < 16 → (atTime s t).flag R.SHP_GATE_CTL.SWAP p = true →
    cycleStarts (atTime s t) p (otherList (atTime s t) p) = true →
    exec (.gateCycleStart p t) s = .next (finish (pumpFabric
      (((atTime s t).setFld R.SHP_GATE_CTL.ACTIVE (otherList (atTime s t) p) p).setFld R.SHP_GATE_CTL.SWAP 0 p)))) ∧
  (∀ (s : State) (p t : Nat), s.pow.st = .on → (atTime s t).flag R.SHP_GATE_CTL.SWAP p = false →
    exec (.gateCycleStart p t) s = .next (finish (pumpFabric (atTime s t)))) ∧
  (∀ (s : State) (t : Nat), s.pow.st = .on → exec (.bucketSend t) s = .next (finish (pumpFabric (atTime s t)))) ∧
  (∀ (s : State) (t : Nat), s.pow.st = .on →
    let u := atTime s t
    exec (.injectionWindow t) s = .next (finish (pumpFabric { u with fab := { u.fab with window := [], held := false } })))

/-- Clause by clause, with the module on: a free sequencer of a die where the policy answers a READY context makes that context RUNNING on it and counts
the switch, so that without fixed slots some READY context of the die is RUNNING on it wherever the die has one; a quantum that expires while another
context of the die is READY makes the context READY again and counts; the end of an iteration goes to the next iteration, to the next phase or ends
the step, runs the iteration again where an op asked for a retry, and ends a stopped step; a slot boundary under the fixed-slot policy passes
ownership to the slot of that time and ends the guard, and counts the operations still running where the slot's time has ended; the guard of a slot
begins within GUARD of its end. -/
def Obligations.SequencersRun : Prop :=
  (∀ (s t : State) (die q h : Nat), s.pow.st = .on → die < 4 → q < 16 →
    s.sch.ctxs.any (fun p => p.2.sequencer == some (die * 16 + q)) = false → nextReady s die = some (h, t) →
    exec (.sequencerSelect die q) s = .next (finish ((t.updCtx h (fun c =>
      { c with st := .running, sequencer := some (die * 16 + q), quantumOver := false })).incFld R.SCHED_SWITCH_CNT.COUNT))) ∧
  (∀ (s : State) (die q h : Nat) (c : Ctx), s.pow.st = .on → die < 4 → q < 16 →
    s.sch.ctxs.any (fun p => p.2.sequencer == some (die * 16 + q)) = false → s.flag R.SCHED_CTL.POLICY = false →
    (h, c) ∈ s.sch.ctxs → c.st = .ready → c.home = die → c.fn < 64 →
    ∃ (k : Nat) (e : Ctx) (t : State), (k, e) ∈ s.sch.ctxs ∧ e.st = .ready ∧ e.home = die ∧ exec (.sequencerSelect die q) s = .next (finish t) ∧
      t.ctx? k = (s.ctx? k).map (fun c => { c with st := .running, sequencer := some (die * 16 + q), quantumOver := false }) ∧
      (∀ j, j ≠ k → t.ctx? j = s.ctx? j) ∧ t.fld R.SCHED_SWITCH_CNT.COUNT = satTo (2 ^ 32 - 1) (s.fld R.SCHED_SWITCH_CNT.COUNT + 1)) ∧
  (∀ (s : State) (h : Nat) (c : Ctx), s.pow.st = .on → s.ctx? h = some c → c.st = .running → iterDone s c = false →
    s.sch.ctxs.any (fun p => p.2.st == .ready && p.2.home == c.home) = true →
    exec (.quantumExpiry h) s = .next (finish ((toReady s h).incFld R.SCHED_QUANTUM_CNT.COUNT)) ∧
      ∃ e, (toReady s h).ctx? h = some e ∧ e.st = .ready ∧ e.sequencer = none ∧ e.op = c.op ∧ e.phase = c.phase) ∧
  (∀ (s : State) (h : Nat) (c : Ctx) (e : Machine.Step) (q : Program) (p : Prog) (f : Phase), s.pow.st = .on → s.ctx? h = some c →
    c.step = some e → progOf s c.program = some (q, p) → c.st ≠ .aborting → iterDone s c = true → e.stopped = false → e.retry = false →
    p.phases[c.phase]? = some f →
    (c.iter + 1 < f.repeat_ → exec (.phaseIterationEnd h) s = .next (finish (goTo s h c.phase (c.iter + 1) 0))) ∧
    (f.repeat_ ≤ c.iter + 1 → f.next ≠ 0xFFFF → exec (.phaseIterationEnd h) s = .next (finish (goTo s h f.next 0 0))) ∧
    (f.repeat_ ≤ c.iter + 1 → f.next = 0xFFFF → exec (.phaseIterationEnd h) s = .next (finish (startNext (endStep s h) h)))) ∧
  (∀ (s : State) (h : Nat) (c : Ctx) (e : Machine.Step) (q : Program) (p : Prog), s.pow.st = .on → s.ctx? h = some c →
    c.step = some e → progOf s c.program = some (q, p) → c.st ≠ .aborting → iterDone s c = true → e.stopped = true →
    exec (.phaseIterationEnd h) s = .next (finish (startNext (endStep s h) h))) ∧
  (∀ (s : State) (h : Nat) (c : Ctx) (e : Machine.Step) (q : Program) (p : Prog), s.pow.st = .on → s.ctx? h = some c →
    c.step = some e → progOf s c.program = some (q, p) → c.st ≠ .aborting → iterDone s c = true → e.stopped = false → e.retry = true →
    exec (.phaseIterationEnd h) s = .next (finish (goTo s h c.phase c.iter (c.retries + 1)))) ∧
  (∀ (s : State) (t : Nat), s.pow.st = .on → (atTime s t).flag R.SCHED_CTL.POLICY = true → (atTime s t).now < s.sch.slotEnd →
    let u := atTime s t
    exec (.slotBoundary t) s = .next (finish { u with sch :=
      { u.sch with slot := (slotOf u u.now).1, slotEnd := (slotOf u u.now).2, guard := false } })) ∧
  (∀ (s : State) (t : Nat), s.pow.st = .on → (atTime s t).flag R.SCHED_CTL.POLICY = true → s.sch.slotEnd ≤ (atTime s t).now →
    exec (.slotBoundary t) s =
      .next (finish (takeSlot ((atTime s t).incFld R.SCHED_OVERRUN_CNT.COUNT (runningOps (atTime s t)))))) ∧
  (∀ (s : State) (t : Nat), s.pow.st = .on → (atTime s t).flag R.SCHED_CTL.POLICY = true →
    s.sch.slotEnd ≤ (atTime s t).now + (atTime s t).fld R.SCHED_GUARD.GUARD →
    let u := atTime s t
    exec (.slotGuard t) s = .next (finish { u with sch := { u.sch with guard := true } }))

/-- With the module on, an ELEMWISE, SILU_GATE, CONVERT, SUM_PARTS, NORM (on tiles), TILE_COPY (of bytes or of an activation record), GATHER_ROW, ROUTE or
SAMPLE op that may issue, on a tile set of which no tile drains, runs another op or has an earlier op of the context, runs its part on the tiles of
its set and retires with what that answers. On a set of one tile whose part can be computed it retires in the part's state with the part's status and
saturations; where the first tile's operands are outside what the op may use, it retires with ST_PROTECTION in the state it found. NORM on the banks,
no stack of its set draining, runs its part once and retires with its status. STEP_NOP retires with ST_OK and no effect. -/
def Obligations.TileOpsRun : Prop :=
  (∀ (s : State) (k : OpCtx) (bx bz : Bool) (n : Nat) (errs : Errs), s.pow.st = .on →
    let v := errsMet k errs (issued s k)
    tilesBusy v k = false →
    let ends (part : Nat → State → TilePart) (c : Instr) : Prop := ∃ t st m, onTiles k v part = .done t st m ∧
      exec c s = .next (finish (retire (t0Fails errs.t0 (issued s k) t) k.h k.idx st m))
    (Issues s (isElem 0) k → ends (elem2 fAdd bx bz k) (.elemwiseAdd k.h bx bz errs)) ∧
    (Issues s (isElem 1) k → ends (elem2 fMul bx bz k) (.elemwiseMul k.h bx bz errs)) ∧
    (Issues s (isElem 2) k → ends (elemScale bx k) (.elemwiseScale k.h bx errs)) ∧
    (Issues s (isElem 3) k → ends (elem2 siluGate bx bz k) (.siluGate k.h bx bz errs)) ∧
    (Issues s (isElem 4) k → ends (elemConvert k) (.convert k.h errs)) ∧
    (Issues s (isElem 5) k → ends (elemParts k) (.sumParts k.h errs)) ∧
    (Issues s (fun o => o.opcode == 0x08) k → k.o.varBit 1 = false → ends (normPart false bx k) (.norm k.h bx errs)) ∧
    (Issues s (fun o => o.opcode == 0x06 && !o.varBit 0) k → ends (copyPart k) (.tileCopy k.h 0 errs)) ∧
    (Issues s (fun o => o.opcode == 0x06 && !o.varBit 0) k → ends (actPart (n + 1) k) (.tileCopy k.h (n + 1) errs)) ∧
    (Issues s (fun o => o.opcode == 0x06 && o.varBit 0) k → ends (gatherPart k) (.gatherRow k.h errs)) ∧
    (Issues s (fun o => o.opcode == 0x0B) k → ends (routePart k) (.route k.h errs)) ∧
    (Issues s (fun o => o.opcode == 0x30 && o.var % 4 == 0) k → ends (fullPart k) (.sampleFull k.h errs)) ∧
    (Issues s (fun o => o.opcode == 0x30 && o.var % 4 == 1) k → ends (localPart k) (.sampleLocal k.h errs)) ∧
    (Issues s (fun o => o.opcode == 0x30 && o.var % 4 == 2) k → ends (selectPart k) (.sampleSelect k.h errs))) ∧
  (∀ (s : State) (k : OpCtx) (part : Nat → State → TilePart), tilesBusy s k = false →
    ((∃ t, k.tiles.head? = some t ∧ part t s = none) → onTiles k s part = .done s .protection 0) ∧
    (∀ t u st n, k.tiles = [t] → part t s = some (u, st, n) → onTiles k s part = .done u (Status.ok.worse st) n)) ∧
  (∀ (s t : State) (k : OpCtx) (bx : Bool) (errs : Errs) (st : Status) (n : Nat), s.pow.st = .on → Issues s (fun o => o.opcode == 0x08) k →
    k.o.varBit 1 = true →
    let v := errsMet k errs (issued s k)
    maskDrains v k.o.unit_ = false → normPart true bx k k.anyTile v = some (t, st, n) →
    exec (.norm k.h bx errs) s = .next (finish (retire (t0Fails errs.t0 (issued s k) t) k.h k.idx st n))) ∧
  (∀ (s : State) (k : OpCtx), s.pow.st = .on → Issues s (fun o => o.opcode == 0x3F) k →
    exec (.stepNop k.h) s = .next (finish (retire (issued s k) k.h k.idx .ok 0)))

/-- With the operands read as the vectors and bytes named: ADD, MUL and SILU_GATE write the element-wise result, SCALE each element times the factor (the
constant ARG0, or the value of AUX), CONVERT the elements in the output format, from BF16 where that is FP32, SUM_PARTS each element's serial sum over
the parts times the factor, TILE_COPY the bytes, GATHER_ROW the row of the token, of TOKEN or of SRC1, ROUTE the indices and the gates of the top
elements, SAMPLE FULL and SELECT the selected token, which also becomes the context's TOKEN, and LOCAL the pairs of the best logits; an element is
poison where its inputs' elements are, a SUM_PARTS result also where the factor is NaN or infinite, and a ROUTE or SAMPLE result wholly where an input
is poison or NaN, or a sampled list's largest logit is minus infinity. -/
def Obligations.TileParts : Prop :=
  (∀ (s t u : State) (k : OpCtx) (bx bz : Bool) (n tile : Nat) (xs zs : List PElem) (f : W32 → W32 → W32), k.o.arg1 = n →
    tileVec s k bx k.o.src0 tile n = some (xs, t) → tileVec t k bz k.o.src1 tile n = some (zs, u) →
    elem2 f bx bz k tile s = vecOut u k tile (k.o.var / 8) (List.zipWith (fun (x z : PElem) => (f x.1 z.1, x.2 || z.2)) xs zs)) ∧
  (∀ (s t u : State) (k : OpCtx) (bf : Bool) (n tile : Nat) (xs : List PElem) (c : PElem), k.o.arg1 = n →
    tileVec s k bf k.o.src0 tile n = some (xs, t) → scaleValue t k tile = some (c, u) →
    elemScale bf k tile s = vecOut u k tile (k.o.var / 8) (xs.map (fun x => (fMul x.1 c.1, x.2 || c.2)))) ∧
  (∀ (s : State) (k : OpCtx) (tile : Nat), k.o.aux = 0xFFFF → scaleValue s k tile = some ((BitVec.ofNat 32 k.o.arg0, false), s)) ∧
  (∀ (s t : State) (k : OpCtx) (n tile : Nat) (xs : List PElem), k.o.arg1 = n → k.o.var / 8 ≠ 0 → tileF32 s k k.o.src0 tile 0 n = some (xs, t) →
    elemConvert k tile s = vecOut t k tile (k.o.var / 8) xs) ∧
  (∀ (s : State) (k : OpCtx) (n tile : Nat) (a : Loc), k.o.arg1 = n → k.o.var / 8 = 0 → operand s k k.o.src0 tile 0 (2 * n) false = some a →
    let r := locRead s k.h a (2 * n)
    elemConvert k tile s = vecOut r.2 k tile 0 (elemsBf r.1)) ∧
  (∀ (s t u : State) (k : OpCtx) (n tile : Nat) (xs : List PElem) (c : PElem), k.o.arg1 = n →
    tileF32 s k k.o.src0 tile 0 (k.o.arg2 * n) = some (xs, t) → scaleValue t k tile = some (c, u) →
    elemParts k tile s = vecOut u k tile (k.o.var / 8) ((List.range n).map (fun i =>
      let e := (chunk n xs).map (fun p => p.getD i (0#32, false))
      (fMul (serialSum (e.map (·.1))) c.1, e.any (·.2) || (c.2 || !fFinite c.1))))) ∧
  (∀ (s : State) (k : OpCtx) (tile : Nat) (a : Loc), operand s k k.o.src0 tile 0 k.o.arg0 false = some a →
    let r := locRead s k.h a k.o.arg0
    copyPart k tile s = tileOut r.2 k tile r.1 (anyPsn r.1) 0) ∧
  (∀ (s : State) (k : OpCtx) (tile : Nat) (c : Ctx) (a : Loc), k.o.src1 = 0xFFFF → s.ctx? k.h = some c →
    operand s k k.o.src0 tile (c.token * k.o.arg0) k.o.arg0 false = some a →
    let r := locRead s k.h a k.o.arg0
    gatherPart k tile s = tileOut r.2 k tile r.1 (anyPsn r.1) 0) ∧
  (∀ (s : State) (k : OpCtx) (tile : Nat) (a b : Loc), k.o.src1 ≠ 0xFFFF → operand s k k.o.src1 tile 0 4 false = some b →
    let q := locRead s k.h b 4
    (anyPsn q.1 = true → gatherPart k tile s = tileOut q.2 k tile (List.replicate k.o.arg0 (0#8, true)) true 0) ∧
    (anyPsn q.1 = false → operand q.2 k k.o.src0 tile (leNat (rawBytes q.1) * k.o.arg0) k.o.arg0 false = some a →
      gatherPart k tile s = tileOut (locRead q.2 k.h a k.o.arg0).2 k tile (locRead q.2 k.h a k.o.arg0).1 (anyPsn (locRead q.2 k.h a k.o.arg0).1) 0)) ∧
  (∀ (s t : State) (k : OpCtx) (tile : Nat) (xs : List PElem), tileF32 s k k.o.src0 tile 0 k.o.arg1 = some (xs, t) →
    let p := xs.any (fun x => x.2 || fIsNaN x.1)
    let r := routeTopK (xs.map (·.1)) k.o.arg0
    let bs := padTo (alignUp (2 * k.o.arg0) 4) (r.1.flatMap (fun i => leBytes 2 i)) ++ r.2.flatMap (fun w => leBytes 4 w.toNat)
    routePart k tile s = tileOut t k tile (bs.map (fun b => (b, p))) p 0) ∧
  (∀ (s t : State) (k : OpCtx) (tile : Nat) (xs : List PElem), tileF32 s k k.o.src0 tile 0 (bits k.o.arg4 19 0) = some (xs, t) →
    let cs := logitCands xs k.o.arg3
    let tok := selectTok cs k.o.arg0 (k.o.var / 4) (BitVec.ofNat 32 k.o.arg1) (BitVec.ofNat 32 k.o.arg2) (draw k.c.seed k.c.stepCtr (bits k.o.arg4 23 20))
    (candsBad cs = true → fullPart k tile s = tileOut t k tile (List.replicate 4 (0#8, true)) true 0) ∧
    (candsBad cs = false → fullPart k tile s =
      tileOut (t.updCtx k.h (fun c => { c with token := tok })) k tile (cleanBytes (leBytes 4 tok)) false 0) ∧
    localPart k tile s = tileOut t k tile ((topCands cs k.o.arg0).flatMap (fun b =>
      (leBytes 4 b.z.toNat ++ leBytes 4 b.id).map (fun x => (x, candsBad cs)))) (candsBad cs) 0) ∧
  (∀ (s : State) (k : OpCtx) (tile : Nat) (a : Loc), operand s k k.o.src0 tile 0 (8 * bits k.o.arg4 19 0) false = some a →
    let r := locRead s k.h a (8 * bits k.o.arg4 19 0)
    let cs := pairCands r.1
    let tok := selectTok cs k.o.arg0 (k.o.var / 4) (BitVec.ofNat 32 k.o.arg1) (BitVec.ofNat 32 k.o.arg2) (draw k.c.seed k.c.stepCtr (bits k.o.arg4 23 20))
    (candsBad cs = true → selectPart k tile s = tileOut r.2 k tile (List.replicate 4 (0#8, true)) true 0) ∧
    (candsBad cs = false → selectPart k tile s =
      tileOut (r.2.updCtx k.h (fun c => { c with token := tok })) k tile (cleanBytes (leBytes 4 tok)) false 0))

/-- Clause by clause, with the module on: an MV_TILE that may issue on tiles of which none drains, runs another op or has an earlier op of the context
retires with what running it answers, whatever storage errors it meets; with no storage error, one whose tensors are not valid retires with
ST_INVALID, its buffers' streams released; one whose tensors are valid and whose operands are in reach claims its streams, runs them to their end and
retires with the product's status, and on one tile writes the rows' products at DST and retires with the worst of the stream's status and poison; one
run stepwise claims its streams and waits while they are not decoded. A hint whose tensors are not valid retires with ST_INVALID; on a buffer with no
stream it counts and starts one, and on a buffer whose stream an op consumes it counts and is queued. VERIFY, its operands readable and clean, writes
the count of agreeing drafts, the draft count and the next token, and sets ACCEPTED and TOKEN. A fill takes the next batt that fits; an expansion of a
stream that no op consumes does nothing, and of another decodes the next batt, after the last of the op's tiles ending the op; a table used that is in
a slot comes to the most recent place; a failed self-check is a tile failure, and a passed one leaves only the time. -/
def Obligations.StreamsAndProducts : Prop :=
  (∀ (s : State) (k : OpCtx) (errs : Errs), s.pow.st = .on → Issues s (fun o => o.opcode == 0x01) k →
    tilesBusy (errsMet k { errs with t0 := [] } (issued s k)) k = false → tilesBusy (errsMet k errs (issued s k)) k = false →
    ∃ t st n, mvTileOp false k (errsMet k errs (issued s k)) = .done t st n ∧
      exec (.mvTile k.h false errs) s = .next (finish (retire (t0Fails errs.t0 (issued s k) t) k.h k.idx st n))) ∧
  (∀ (s : State) (k : OpCtx), s.pow.st = .on → Issues s (fun o => o.opcode == 0x01) k → tilesBusy (issued s k) k = false →
    opTensors (issued s k) k = none →
    exec (.mvTile k.h false noErrs) s = .next (finish (retire (mvRelease k .invalid (issued s k)) k.h k.idx .invalid 0))) ∧
  (∀ (s : State) (k : OpCtx) (ts : List (Nat × Nat × TensorDesc)), s.pow.st = .on →
    Issues s (fun o => o.opcode == 0x01) k → tilesBusy (issued s k) k = false → (∀ p ∈ ts, ownsStream (issued s k) k p.1 = false) →
    opTensors (issued s k) k = some ts → ts.all (fun p => (mvOperands (issued s k) k p.1 p.2.2).isSome) = true →
    let claimed := ts.foldl (fun u p => claimStream u p.1 (opBuf k) k.c.fn k.h p.2.1 p.2.2 (some (k.h, k.idx))) (issued s k)
    ∃ t st n, mvFinish k ts (ts.foldl (fun u p => runStream p.1 (bufKey p.1 (opBuf k)) (2 * p.2.2.batts + 2) u) claimed) = .done t st n ∧
      exec (.mvTile k.h false noErrs) s = .next (finish (retire t k.h k.idx st n))) ∧
  (∀ (s : State) (k : OpCtx) (t a : Nat) (d : TensorDesc) (la lb : Loc) (x : StreamSt), s.pow.st = .on →
    Issues s (fun o => o.opcode == 0x01) k → tilesBusy (issued s k) k = false → ownsStream (issued s k) k t = false →
    opTensors (issued s k) k = some [(t, a, d)] → (mvOperands (issued s k) k t d).isSome = true →
    let u := runStream t (bufKey t (opBuf k)) (2 * d.batts + 2)
      (claimStream (issued s k) t (opBuf k) k.c.fn k.h a d (some (k.h, k.idx)))
    mvOperands u k t d = some (la, lb) → stream? u (bufKey t (opBuf k)) = some x →
    let r := locRead u k.h la (k.o.arg0 * actRowBytes d)
    let ys := (chunk (actRowBytes d) r.1).map (mvRow d x (k.o.varBit 0))
    let q := locWrite r.2 k.h lb (ys.flatMap (fun y => (outVector (bit k.mvBf) y).1))
    let st := Status.ok.worse (x.status.worse (psnStatus (q.2 || ys.any (fun y => y.any (·.2)))))
    exec (.mvTile k.h false noErrs) s = .next (finish (retire (mvRelease k st q.1) k.h k.idx st 0))) ∧
  (∀ (s : State) (k : OpCtx) (ts : List (Nat × Nat × TensorDesc)), s.pow.st = .on →
    Issues s (fun o => o.opcode == 0x01) k → tilesBusy (issued s k) k = false → (∀ p ∈ ts, ownsStream (issued s k) k p.1 = false) →
    opTensors (issued s k) k = some ts → ts.all (fun p => (mvOperands (issued s k) k p.1 p.2.2).isSome) = true →
    let claimed := ts.foldl (fun u p => claimStream u p.1 (opBuf k) k.c.fn k.h p.2.1 p.2.2 (some (k.h, k.idx))) (issued s k)
    ts.all (fun p => streamDone claimed (bufKey p.1 (opBuf k))) = false →
    exec (.mvTile k.h true noErrs) s = .next (finish (holdCtx claimed k.h))) ∧
  (∀ (s : State) (k : OpCtx), s.pow.st = .on → Issues s (fun o => o.opcode == 0x05) k → setDrains (issued s k) k = false →
    opTensors (issued s k) k = none →
    exec (.streamHint k.h) s = .next (finish (retire (issued s k) k.h k.idx .invalid 0))) ∧
  (∀ (s : State) (k : OpCtx) (t a : Nat) (d : TensorDesc), s.pow.st = .on → Issues s (fun o => o.opcode == 0x05) k →
    setDrains (issued s k) k = false → opTensors (issued s k) k = some [(t, a, d)] →
    let u := (issued s k).incFld R.TILE_STREAM_CNT.HINTS 1 t
    (stream? (issued s k) (bufKey t (opBuf k)) = none →
      exec (.streamHint k.h) s = .next (finish (retire (claimStream u t (opBuf k) k.c.fn k.h a d none) k.h k.idx .ok 0))) ∧
    (∀ x, stream? (issued s k) (bufKey t (opBuf k)) = some x → x.claim.isSome = true →
      exec (.streamHint k.h) s = .next (finish (retire
        { u with tl := { u.tl with hints := Tab.ins (bufKey t (opBuf k)) (a, k.c.fn, k.h) u.tl.hints } } k.h k.idx .ok 0)))) ∧
  (∀ (s : State) (k : OpCtx) (errs : Errs) (a0 a1 a2 d : Loc) (b0 b1 b2 : List PByte) (s0 s1 s2 : State) (n : Nat), s.pow.st = .on →
    Issues s (fun o => o.opcode == 0x31) k →
    let u := errsMet k errs (issued s k)
    operand u k k.o.src1 k.anyTile 0 4 false = some a0 → locRead u k.h a0 4 = (b0, s0) → anyPsn b0 = false → leNat (rawBytes b0) = n →
    1 ≤ n → n ≤ 15 → operand s0 k k.o.src1 k.anyTile 4 (4 * n) false = some a1 →
    operand s0 k k.o.src0 k.anyTile 0 (8 * bits k.o.arg3 19 0 * (n + 1)) false = some a2 → operand s0 k k.o.dst k.anyTile 0 8 true = some d →
    locRead s0 k.h a1 (4 * n) = (b1, s1) → locRead s1 k.h a2 (8 * bits k.o.arg3 19 0 * (n + 1)) = (b2, s2) → anyPsn b1 = false →
    ((chunk (8 * bits k.o.arg3 19 0) b2).map pairCands).any candsBad = false →
    let toks := ((chunk (8 * bits k.o.arg3 19 0) b2).map pairCands).zipIdx.map (fun l => selectTok l.1 k.o.arg0 (k.o.var / 4)
      (BitVec.ofNat 32 k.o.arg1) (BitVec.ofNat 32 k.o.arg2) (draw k.c.seed k.c.stepCtr l.2))
    let acc := agreeing toks ((chunk 4 (rawBytes b1)).map leNat)
    let q := locWrite s2 k.h d (cleanBytes (leBytes 2 acc ++ leBytes 2 n ++ leBytes 4 (toks.getD acc 0)))
    let v := q.1.updCtx k.h (fun c => { c with accepted := acc, token := toks.getD acc 0 })
    exec (.verify k.h errs) s = .next (finish (retire (t0Fails errs.t0 (issued s k) v) k.h k.idx (psnStatus q.2) 0))) ∧
  (∀ (s : State) (t b : Nat) (errs : Errs) (x y : StreamSt) (d : TensorDesc), s.pow.st = .on → stream? s (bufKey t b) = some x →
    let u := errsOf x.fn { errs with t0 := [] } s
    stream? u (bufKey t b) = some y → descAt u y.fn y.desc = some d → y.next < d.batts →
    y.scales.length + (y.held.map (fun b => b.2.length)).foldl (· + ·) 0 + (battSpan u d.battBase y.next).2 ≤ bufBytes u t →
    let p := battSpan u d.battBase y.next
    exec (.streamFill t b errs) s = .next (finish (setStream (streamTraffic u p.1 p.2) (bufKey t b)
      { y with next := y.next + 1, held := y.held ++ [(y.next, tread u p.1 p.2)] }))) ∧
  (∀ (s : State) (t b : Nat) (errs : Errs) (x : StreamSt), s.pow.st = .on → stream? s (bufKey t b) = some x → x.claim = none →
    exec (.expanderDecode t b errs) s = .next (finish s)) ∧
  (∀ (s : State) (t b h i : Nat) (errs : Errs) (x : StreamSt) (c : OpCtx) (ts : List (Nat × Nat × TensorDesc)), s.pow.st = .on →
    stream? s (bufKey t b) = some x → x.claim = some (h, i) →
    let u := decodeNext (t0Words errs.t0 s) t (bufKey t b)
    opCtxOf u h i = some c → opTensors u c = some ts →
    (ts.all (fun p => streamDone u (bufKey p.1 (opBuf c))) = false →
      exec (.expanderDecode t b errs) s = .next (finish (t0Fails errs.t0 s u))) ∧
    (ts.all (fun p => streamDone u (bufKey p.1 (opBuf c))) = true →
      exec (.expanderDecode t b errs) s =
        .next (finish (t0Fails errs.t0 s (settle h i (mvFinish c ts (errsMet c { errs with t0 := [] } u))))))) ∧
  (∀ (s : State) (t f id g : Nat) (e : SlotEnt), s.pow.st = .on → t < 256 →
    (slotsOf s t).find? (fun e => e.fn == f && e.id == id && e.gen == g) = some e →
    exec (.tableMiss t f id g) s = .next (finish (setSlots s t ((slotsOf s t).filter (fun x => x != e) ++ [e])))) ∧
  (∀ (s : State) (t f id g k : Nat), s.pow.st = .on → t < 256 →
    (slotsOf s t).find? (fun e => e.fn == f && e.id == id && e.gen == g) = none → (tableOf s f id g).isSome = true →
    (List.range 16).find? (fun k => !(slotsOf s t).any (fun e => e.slot == k)) = some k →
    exec (.tableMiss t f id g) s = .next (finish (setSlots (s.incFld R.EXP_FAULT_CNT.MISSES 1 t) t (slotsOf s t ++ [⟨k, f, id, g⟩])))) ∧
  (∀ (s : State) (t time : Nat), s.pow.st = .on → exec (.tileSelfCheck t true time) s = .next (finish (atTime s time))) ∧
  (∀ (s : State) (t time : Nat), s.pow.st = .on → t < 256 →
    exec (.tileSelfCheck t false time) s = .next (finish (tileFailure (atTime s time) t 0x08)))

/-- With the module on, naming an NBU on a stack that does not drain: an ELEMWISE, SUMSQ, NORM_APPLY, LOCAL_COPY or FILL that is valid and barred by no
bundle has its effect on the banks and the chain, by the NBUs that hold its range, piece after piece; MV_SLICE adds its parts to the chain; each of
them that is not valid or is barred changes nothing, and neither does one on a draining stack; NBU_KV_APPEND that needs no frame appends the row and
counts its saturations; ATTN_SLICE adds its partials to the chain, which a fresh one clears; SCRUB handles each sector error it was given on a stack
that does not drain; a SELF_CHECK that passes leaves only the time, one that fails enters the window and the module's event log and at the limit
retires the NBU; FAILURE_WINDOW_EXPIRY brings the windows to the time; PSEUDO_CHANNEL_RETIRE evacuates every frame and, when none stays, reports the
pseudo-channel retired. -/
def Obligations.BankCommands : Prop :=
  (∀ (s : State) (k p fn hw fmt row len a b o q : Nat) (fs : List (Nat × Nat)), s.pow.st = .on → notIssued s k p = false →
    let good (c : NbuCmd) := cmdValid s c = true ∧ cmdBarred s c = false
    let gs := fs.map (fun f => (remapAddr s f.1, f.2))
    let run (c : NbuCmd) (f : State → NbuCmd → State × Status) := Host.Outcome.next (finish ((c.placed s).foldl (fun t d => (f t d).1) s))
    let c3 := mkCmd s 3 k p fn hw fmt row len a b o q
    let c4 := mkCmd s 4 k p fn hw fmt row len a b o q
    let c5 := mkCmd s 5 k p fn hw fmt row len a 0 0 q
    let c6 := mkCmd s 6 k p fn hw fmt row len a b o q
    let c7 := mkCmd s 7 k p fn hw 0 row len a 0 0 q
    let c8 := mkCmd s 8 k p fn hw 0 row len a 0 0 q
    (good c3 → exec (.mvSlice k p fn hw fmt row len a b o q fs) s = .next (finish (doMvSlice s c3 fs).1)) ∧
    (good c4 → exec (.nbuElemwise k p fn hw fmt row len a b o q fs) s = run c4 (fun t d => doNbuElemwise t d gs)) ∧
    (good c5 → exec (.sumsq k p fn hw fmt row len a q fs) s = run c5 (fun t d => doSumsq t d gs)) ∧
    (good c6 → exec (.normApply k p fn hw fmt row len a b o q fs) s = run c6 (fun t d => doNormApply t d gs)) ∧
    (good c7 → exec (.localCopy k p fn hw row len a q fs) s = run c7 (fun t d => doLocalCopy t d gs)) ∧
    (good c8 → exec (.fill k p fn hw row len a q) s = run c8 doFill) ∧
    (¬ good c3 → exec (.mvSlice k p fn hw fmt row len a b o q fs) s = .next (finish s)) ∧
    (¬ good c4 → exec (.nbuElemwise k p fn hw fmt row len a b o q fs) s = .next (finish s)) ∧
    (¬ good c5 → exec (.sumsq k p fn hw fmt row len a q fs) s = .next (finish s)) ∧
    (¬ good c6 → exec (.normApply k p fn hw fmt row len a b o q fs) s = .next (finish s)) ∧
    (¬ good c7 → exec (.localCopy k p fn hw row len a q fs) s = .next (finish s)) ∧
    (¬ good c8 → exec (.fill k p fn hw row len a q) s = .next (finish s))) ∧
  (∀ (s : State) (k p fn hw fmt row len a b o q : Nat) (fs : List (Nat × Nat)), s.pow.st = .on → drains s k = true →
    exec (.mvSlice k p fn hw fmt row len a b o q fs) s = .next (finish s) ∧
    exec (.nbuElemwise k p fn hw fmt row len a b o q fs) s = .next (finish s) ∧
    exec (.sumsq k p fn hw fmt row len a q fs) s = .next (finish s) ∧
    exec (.normApply k p fn hw fmt row len a b o q fs) s = .next (finish s) ∧
    exec (.localCopy k p fn hw row len a q fs) s = .next (finish s) ∧
    exec (.fill k p fn hw row len a q) s = .next (finish s) ∧
    exec (.nbuKvAppend k p fn hw a b row o q fs) s = .next (finish s)) ∧
  (∀ (s t : State) (k p fn hw span slot row o q n : Nat) (st : Status) (fs : List (Nat × Nat)), s.pow.st = .on → notIssued s k p = false →
    let c := mkCmd s 2 k p fn hw 0 0 0 0 0 o q
    (doNbuAppend s c span slot row fs = some (t, st, n) →
      exec (.nbuKvAppend k p fn hw span slot row o q fs) s = .next (finish (addSats t fn c.h n))) ∧
    (doNbuAppend s c span slot row fs = none → exec (.nbuKvAppend k p fn hw span slot row o q fs) s = .next (finish s))) ∧
  (∀ (s : State) (k p fn hw span slot head kvs n o q sq pq pb ps w sk sg a b : Nat) (tent fresh : Bool) (fs : List (Nat × Nat)), s.pow.st = .on →
    notIssued s k p = false →
    let u := if fresh then clearChain s k else s
    exec (.attnSlice k p fn hw span slot head kvs n o q sq pq pb ps w sk sg a b tent fresh fs) s = .next (finish (doAttnSlice u
      (mkCmd u 1 k p fn hw 0 0 0 0 0 o q) span (sliceReq fn span slot head sq pq pb ps w sk sg a b tent) kvs n fs).1)) ∧
  (∀ (s : State) (fs : List (Nat × Nat)) (t : Nat), s.pow.st = .on →
    exec (.scrub fs t) s = .next (finish (sectorFaults (atTime s t) ⟨9, 0, 0, true, 0⟩
      (fs.filter (fun f => !drains s (stackOf (remapAddr s f.1))))))) ∧
  (∀ (s : State) (k n t : Nat), s.pow.st = .on → k < 16 → n < 512 → exec (.selfCheck k n true t) s = .next (finish (atTime s t))) ∧
  (∀ (s : State) (k n t : Nat), s.pow.st = .on → k < 16 → n < 512 →
    let u := atTime s t
    let l := within u.now (Tab.get [] (k * 512 + n) u.flt.nbuFails) ++ [u.now]
    let v := logModule { u with flt := { u.flt with nbuFails := Tab.put [] (k * 512 + n) l u.flt.nbuFails } }
      { entry0 { u with flt := { u.flt with nbuFails := Tab.put [] (k * 512 + n) l u.flt.nbuFails } } 0x0D .ok 0 with
        unitKind := 2, unit_ := k * 512 + n }
    (l.length < v.fld R.NBU_SELFCHECK.FAIL_LIMIT → exec (.selfCheck k n false t) s = .next (finish v)) ∧
    (v.fld R.NBU_SELFCHECK.FAIL_LIMIT ≤ l.length → exec (.selfCheck k n false t) s = .next (finish (retireNbu v k n)))) ∧
  (∀ (s : State) (t : Nat), s.pow.st = .on → exec (.failureWindowExpiry t) s = .next (finish (expireWindows (atTime s t)))) ∧
  (∀ (s : State) (pc t : Nat), s.pow.st = .on → pc < 512 →
    bitAt ((atTime s t).fld R.NBU_PC_STAT.PC_RETIRED (pc / 32)) (pc % 32) = false →
    NSet.has pc s.flt.retPcs = true ∨ pcRowCount (atTime s t) pc ≥ (atTime s t).fld R.NBU_SELFCHECK.PC_UE_LIMIT →
    let u := { atTime s t with flt := { (atTime s t).flt with retPcs := NSet.add pc (atTime s t).flt.retPcs } }
    let v := (pcFrames u pc).foldl evacuateFrame u
    let w := ((v.setFld R.NBU_PC_STAT.PC_RETIRED (v.fld R.NBU_PC_STAT.PC_RETIRED (pc / 32) + 2 ^ (pc % 32)) (pc / 32)).setFld
      R.NBU_ERR.RETIRE_EVENT 1 (pc / 32))
    ((pcFrames v pc).isEmpty = false → exec (.pseudoChannelRetire pc t) s = .next (finish v)) ∧
    ((pcFrames v pc).isEmpty = true → exec (.pseudoChannelRetire pc t) s =
      .next (finish (logModule (syncRetired w) { entry0 (syncRetired w) 0x0F .ok 0 with flags := 3, unitKind := 3, unit_ := pc }))))

/-- With the module on, for an op that may issue, on stacks that do not drain: BANK_CMDS, in either form, clears the chains of its stacks, runs the
commands of its list in order, those that are not valid only raising the status, and retires with the worst status and the saturations, which a list
without KV_APPEND always reaches; it retires with ST_POISON where its list is poisoned; NBU_FENCE makes the context's own near-bank results visible
and retires; MV_BANK retires with the status of its rows, and with ST_PROTECTION where its weight set is too short for its stacks; ELEMWISE_BANK
changes its vector in place, notes the sector errors its NBUs met, and retires with ST_POISON where a value is poisoned; an operand out of reach ends
each of them in ST_PROTECTION. -/
def Obligations.BankStepOps : Prop :=
  (∀ (s : State) (k : OpCtx) (errs : Errs) (fails : List (Nat × Nat)), s.pow.st = .on → Issues s (fun o => o.opcode == 0x03) k →
    let v := errsMet k (ctlErrs errs) (issued s k)
    let k6 := k.o.varBit 0
    let n := k.o.arg0 * (if k6 then 16 else 32)
    let ends (t : State) (st : Status) (n : Nat) : Prop := exec (.bankCmds k.h errs fails) s =
      .next (finish (retire (t0Fails errs.t0 (issued s k) t) k.h k.idx st n))
    (operand v k k.o.src0 k.anyTile 0 n false = none → ends v .protection 0) ∧
    (∀ a, operand v k k.o.src0 k.anyTile 0 n false = some a →
      let r := locRead v k.h a n
      let cs := parseCmds v k k6 (rawBytes r.1)
      let u := (maskStacks k.o.unit_).foldl clearChain r.2
      let u := if k6 then u.takeFree else u
      let t1 := errs.t1.filter (fun f => f.2.2 != 0)
      (anyPsn r.1 = true → ends r.2 .poison 0) ∧
      (anyPsn r.1 = false → maskDrains v k.o.unit_ = false → (∀ c, some c ∈ cs → drains v c.stack = false) →
        (∀ t, runCmds fails t1 cs (u, .ok, 0) = some t → ends (endWait t.1 (.ctx k.h)) t.2.1 t.2.2) ∧
        ((∀ c, some c ∈ cs → c.op ≠ 2) →
          ∃ t, runCmds fails t1 cs (u, .ok, 0) = some t ∧ ends (endWait t.1 (.ctx k.h)) t.2.1 t.2.2)))) ∧
  (∀ (fails : List (Nat × Nat)) (fs : List (Nat × Nat × Nat)) (c : NbuCmd) (l : List (Option NbuCmd)) (r q : State × Status × Nat),
    (runCmds fails fs [] r = some r) ∧
    (runCmds fails fs (none :: l) r = runCmds fails fs l (r.1, r.2.1.worse .invalid, r.2.2)) ∧
    (cmdBarred r.1 c = true → runCmds fails fs (some c :: l) r = runCmds fails fs l (r.1, r.2.1.worse .protection, r.2.2)) ∧
    (cmdBarred r.1 c = false → nbuRun r.1 c ((fs.filter c.meets).map (fun f => (f.1, f.2.1))) fails = some q →
      runCmds fails fs (some c :: l) r =
        runCmds fails (fs.filter (fun f => !c.meets f)) l (q.1, r.2.1.worse q.2.1, r.2.2 + q.2.2))) ∧
  (∀ (s : State) (k : OpCtx), s.pow.st = .on → Issues s (fun o => o.opcode == 0x04) k →
    exec (.nbuFence k.h) s =
      .next (finish (retire (fenceSectors (issued s k) (fun u => u.1 == k.c.fn && u.2 == k.h)) k.h k.idx .ok 0))) ∧
  (∀ (s : State) (k : OpCtx) (ws : List (List Nat)) (errs : Errs), s.pow.st = .on → Issues s (fun o => o.opcode == 0x02) k →
    let v := errsMet k (ctlErrs errs) (issued s k)
    maskDrains v k.o.unit_ = false →
    (∃ t st, mvBankOp ws (errs.t1.filter (fun f => f.2.2 == 3)) k v = .done t st 0 ∧ exec (.mvBank k.h ws errs) s =
      .next (finish (retire (t0Fails errs.t0 (issued s k) t) k.h k.idx st 0))) ∧
    (wsetFits k = false → exec (.mvBank k.h ws errs) s =
      .next (finish (retire (t0Fails errs.t0 (issued s k) v) k.h k.idx .protection 0)))) ∧
  (∀ (s : State) (k : OpCtx) (bf bz : Bool) (errs : Errs), s.pow.st = .on →
    let v := errsMet k (ctlErrs errs) (issued s k)
    maskDrains v k.o.unit_ = false →
    let gs := (errs.t1.filter (fun f => f.2.2 == 4)).map (fun f => (f.1, f.2.1))
    let fmt := if bf then 2 else 3
    let c := BitVec.ofNat 32 k.o.arg0
    let y := sectorFaults v ⟨4, k.c.fn, k.c.hw, false, k.idx⟩ gs
    let ends (t : State) (st : Status) := Host.Outcome.next (finish (retire (t0Fails errs.t0 (issued s k) t) k.h k.idx st 0))
    (operand v k k.o.src0 k.anyTile 0 (vecBytes bf k.o.arg1) true = none →
      (Issues s (fun o => o.opcode == 0x0A && o.var == 0) k → exec (.elemwiseBankScale k.h bf errs) s = ends v .protection) ∧
      (Issues s (fun o => o.opcode == 0x0A && o.var == 1) k → exec (.elemwiseBankAdd k.h bf bz errs) s = ends v .protection) ∧
      (Issues s (fun o => o.opcode == 0x0A && o.var == 2) k → exec (.elemwiseBankMul k.h bf bz errs) s = ends v .protection)) ∧
    (∀ a, operand v k k.o.src0 k.anyTile 0 (vecBytes bf k.o.arg1) true = some a →
      let x := locRead y k.h a (vecBytes bf k.o.arg1)
      let out := lossy gs a (bankBytes fmt (elemwise 0 c (bankElems fmt x.1) []))
      let r := chainStore x.2 k a out
      (Issues s (fun o => o.opcode == 0x0A && o.var == 0) k →
        exec (.elemwiseBankScale k.h bf errs) s = ends r.1 (psnStatus (r.2 || anyPsn out))) ∧
      (operand v k k.o.src1 k.anyTile 0 (vecBytes bz k.o.arg1) false = none →
        (Issues s (fun o => o.opcode == 0x0A && o.var == 1) k → exec (.elemwiseBankAdd k.h bf bz errs) s = ends v .protection) ∧
        (Issues s (fun o => o.opcode == 0x0A && o.var == 2) k → exec (.elemwiseBankMul k.h bf bz errs) s = ends v .protection)) ∧
      (∀ b, operand v k k.o.src1 k.anyTile 0 (vecBytes bz k.o.arg1) false = some b →
        let z := locRead x.2 k.h b (vecBytes bz k.o.arg1)
        let u := (List.range 16).foldl (fun s j => if bitAt k.o.unit_ j then broadcast s j z.1 (s.stack j).scale else s) z.2
        let out (kind : Nat) := lossy gs a (bankBytes fmt (elemwise kind c (bankElems fmt x.1) (vecElems bz z.1)))
        let r (kind : Nat) := chainStore u k a (out kind)
        (Issues s (fun o => o.opcode == 0x0A && o.var == 1) k →
          exec (.elemwiseBankAdd k.h bf bz errs) s = ends (r 1).1 (psnStatus ((r 1).2 || anyPsn (out 1)))) ∧
        (Issues s (fun o => o.opcode == 0x0A && o.var == 2) k →
          exec (.elemwiseBankMul k.h bf bz errs) s = ends (r 2).1 (psnStatus ((r 2).2 || anyPsn (out 2)))))))

/-- With the module on: on a stack and pair that exist, a refresh that falls due while fewer than POSTPONE_MAX are postponed is postponed, one more
suspends a stride and counts, and one issued lowers the postponed count; a governor window admits from the held and arriving transfers by their
floors, records the sectors admitted of each class and what stays held, and counts the window when something stays; what a window admits costs no more
than its allowance, and every sector that arrived is either admitted or held; NBU_MODE_CHANGE is a write of its stack's control register. -/
def Obligations.GovernorAndRefresh : Prop :=
  (∀ (s : State) (k p : Nat), s.pow.st = .on → k < 16 → p < 512 →
    let u := k * 512 + p
    let n := Tab.get 0 u s.nbu.postponed
    (n < s.fld R.NBU_REF_CTL.POSTPONE_MAX k → exec (.refreshDue k p 0) s =
      .next (finish { s with nbu := { s.nbu with postponed := Tab.put 0 u (n + 1) s.nbu.postponed } })) ∧
    (s.fld R.NBU_REF_CTL.POSTPONE_MAX k ≤ n → exec (.refreshDue k p 0) s = .next (finish { s with nbu :=
      { s.nbu with suspensions := Tab.put 0 u (satTo (2 ^ 32 - 1) (Tab.get 0 u s.nbu.suspensions + 1)) s.nbu.suspensions } })) ∧
    (∀ m, 1 ≤ m → exec (.refreshDue k p m) s =
      .next (finish { s with nbu := { s.nbu with postponed := Tab.put 0 u (n - 1) s.nbu.postponed } }))) ∧
  (∀ (s : State) (k : Nat) (arrivals : List (Bool × Nat)), s.pow.st = .on → k < 16 →
    let a := allowanceOf s k
    let r := govWindow a (govFloor s k a true) (govFloor s k a false) ((s.stack k).held ++ arrivals)
    let u := ((s.setStack k { s.stack k with held := r.2.2 }).setFld R.NBU_GOV_LAST.EXT_SECTORS (r.1 / 41) k).setFld
      R.NBU_GOV_LAST.INT_SECTORS (r.2.1 / 12) k
    (r.2.2 = [] → exec (.governorWindow k arrivals) s = .next (finish u)) ∧
    (r.2.2 ≠ [] → exec (.governorWindow k arrivals) s = .next (finish (u.incFld R.NBU_GOV_STAT.HELD_WINDOWS 1 k)))) ∧
  (∀ (allow fE fI : Nat) (l : List (Bool × Nat)),
    let r := govWindow allow fE fI l
    r.1 + r.2.1 ≤ allow ∧ r.1 + 41 * ((r.2.2.filter (fun p => p.1)).map (·.2)).sum = govDemand true l ∧
    r.2.1 + 12 * ((r.2.2.filter (fun p => !p.1)).map (·.2)).sum = govDemand false l) ∧
  (∀ (s : State) (src k v : Nat), s.pow.st = .on → k < 16 →
    exec (.nbuModeChange src k v) s = .next (finish (regWrite src (0x300000 + 0x100 * k) 4 v s)))

/-- With the module on: a merge op whose SRC0 names no receive queue of the context, or which has no generation to compare with, retires with ST_INVALID;
one whose queue begins with a marker takes it and retires with ST_FLUSHED; one for which every waiting record is valid, of the present epoch and of
the reference generation, and for which their contributions reach what it expects, retires with what the merge of those records gives, and on a single
head whose merged output has a place, that place holds the output and the status is that of the merged partial; while the contributions have not
reached it, it waits with those records kept, and its context with it. A remote partial, or the oldest newer record a merge op holds, that has waited
REMOTE_TIMEOUT ends its operation with ST_TIMEOUT; before that time nothing but the clock changes. -/
def Obligations.MergeOps : Prop :=
  (∀ (s : State) (k : OpCtx), s.pow.st = .on → Issues s (fun o => o.opcode == 0x11) k →
    recvQueue k k.o.src0 = none ∨ mergeRef (issued s k) k = none →
    exec (.attnMerge k.h) s = .next (finish (retire (issued s k) k.h k.idx .invalid 0))) ∧
  (∀ (s : State) (k : OpCtx) (q ref : Nat) (x : Queue) (i : QItem) (l : List QItem), s.pow.st = .on → Issues s (fun o => o.opcode == 0x11) k →
    recvQueue k k.o.src0 = some q → mergeRef (issued s k) k = some ref → (issued s k).queue? q = some x → x.waiting = i :: l → i.marker = true →
    let u := (issued s k).setQueue q (x.take s.now)
    let v := { u with attn := { u.attn with merges := Tab.del (mergeKey k.h k.idx) s.attn.merges } }
    exec (.attnMerge k.h) s = .next (finish (retire v k.h k.idx .flushed 0))) ∧
  (∀ (s : State) (k : OpCtx) (q ref : Nat) (x : Queue) (rs : List PartRec), s.pow.st = .on → Issues s (fun o => o.opcode == 0x11) k →
    recvQueue k k.o.src0 = some q → mergeRef (issued s k) k = some ref → ref < 2 ^ 24 → (issued s k).queue? q = some x →
    x.waiting.map (fun i => (i.marker, parseRecord i.node i.contrib i.psn i.bytes)) = rs.map (fun r => (false, some r)) →
    (∀ r ∈ rs, r.qhead < k.o.arg1 ∧ r.epoch = s.epoch ∧ r.gen % 2 ^ 24 = ref) → Tab.find? (mergeKey k.h k.idx) s.attn.merges = none →
    let u := (issued s k).setQueue q (takeAll s.now x.waiting.length x)
    let n := (rs.map (·.contrib)).foldl (· + ·) 0
    let m : MergeSt := ⟨rs, [], .ok, [], n, s.epoch⟩
    let ends (t : State) (st : Status) : Prop := exec (.attnMerge k.h) s = .next (finish (retire t k.h k.idx st 0))
    (k.o.arg0 * k.o.arg1 ≤ n → ∃ t st, endMerge u k m = .done t st 0 ∧ ends t st) ∧
    (n < k.o.arg0 * k.o.arg1 →
      exec (.attnMerge k.h) s =
        .next (finish (holdCtx { u with attn := { u.attn with merges := Tab.ins (mergeKey k.h k.idx) m u.attn.merges } } k.h))) ∧
    (∀ p a, k.o.arg1 = 1 → k.o.arg0 ≤ n → mergedHead k m 0 = some p →
      let bs := mergeOut k 0 p
      let v := { u with attn := { u.attn with merges := Tab.del (mergeKey k.h k.idx) u.attn.merges } }
      operand v k k.o.dst k.anyTile 0 bs.length true = some a →
      let r := locWrite v k.h a bs
      ends r.1 (if r.2 then (partStatus p.1).worse .poison else partStatus p.1))) ∧
  (∀ (s : State) (id t key : Nat) (w : AttnWait), s.pow.st = .on → waitOf (atTime s t) id = some (key, w) →
    let u := atTime s t
    let due := w.since + u.fld R.ATTN_CTL.REMOTE_TIMEOUT * 1000
    (due ≤ u.now → exec (.remoteTimeout 0 id t) s = .next (finish (endAttn u key { w with status := w.status.worse .timeout }))) ∧
    (u.now < due → exec (.remoteTimeout 0 id t) s = .next (finish u))) ∧
  (∀ (s : State) (h i t : Nat) (m : MergeSt) (k : OpCtx), s.pow.st = .on → i < 65536 →
    Tab.find? (mergeKey h i) (atTime s t).attn.merges = some m → opCtxOf (atTime s t) h i = some k →
    let u := atTime s t
    let fresh (r : PartRec × Nat) : Prop := u.now < r.2 + u.fld R.ATTN_CTL.REMOTE_TIMEOUT * 1000
    ((∃ r ∈ m.newer, ¬ fresh r) → exec (.remoteTimeout 1 (mergeKey h i) t) s =
      .next (finish (settle h i (endMerge u k { m with newer := [], status := m.status.worse .timeout })))) ∧
    ((∀ r ∈ m.newer, fresh r) → exec (.remoteTimeout 1 (mergeKey h i) t) s = .next (finish u)))

/-- With the module on: a RING op that may issue, of a context with no ring in progress, completes with ST_INVALID where its parameters are out of range
or not its span's shape, with ST_EPOCH_STALE where its epoch is not accepted, with ST_DISPLACED where a neighbour is lost or a page of its block is
gone, and with ST_PROTECTION where its slots, tables, counters or queries are not the function's to use; otherwise, where no page of its block lies in
T3 and its halves fit its slots, the ring begins and its context waits. A page of no ring in progress, and a page or close of a newer epoch, is held;
a page with a bad header ends the ring with ST_INVALID; a page or close of an epoch that is not the ring's ends it with ST_EPOCH_STALE; a page of the
ring's epoch is taken, unless its span is gone (ST_ABORTED) or it does not fit its slot (ST_INVALID); a close of the ring's epoch is noted, once, and
passed on away from its origin; an abort notice ends the ring with ST_ABORTED; a ring that has waited REMOTE_TIMEOUT ends with ST_TIMEOUT. A ring
whose closes are all in is written and retired, or ends with ST_HORIZON where a close shows another generation. A ring that ends is no more in
progress, and no message is held for it. -/
def Obligations.MergeAndRing : Prop :=
  (∀ (s : State) (k : OpCtx) (p : RingParams) (code : Nat) (errs : Errs), s.pow.st = .on → Issues s (fun o => o.opcode == 0x13) k →
    fmtOfCode code = p.fmt →
    let v := errsMet k errs (issued s k)
    Tab.find? k.h v.attn.rings = none →
    let run := exec (.ring k.h p.members p.position p.bothWays p.span p.slot p.kvHeads p.dim code p.ilog p.strided p.length p.queries p.hPerKv
      p.posQ0 p.sQk.toNat p.bias p.window p.sinks p.segStart p.oBf16 p.tentative p.epoch p.slots p.slotBytes p.creditFwd p.creditBwd errs) s
    let ends (st : Status) := Host.Outcome.next (finish
      (ringReplay (retire (t0Fails errs.t0 (issued s k) (ringEnd v k.h p st)) k.h k.idx st 0) (some k.h)))
    let n := 4 * (p.queries * p.kvHeads * p.hPerKv * p.dim)
    (ringOk p = false → run = ends .invalid) ∧
    (∀ st, ringOk p = true → spanIf v k.c.fn p.span (shapeOk p) = .error st → run = ends st) ∧
    (∀ x, ringOk p = true → spanIf v k.c.fn p.span (shapeOk p) = .ok x →
      (epochAccepted v p.epoch = false → run = ends .epochStale) ∧
      (epochAccepted v p.epoch = true → p.both.any (nodeLost v) = true → run = ends .displaced) ∧
      (epochAccepted v p.epoch = true → p.both.any (nodeLost v) = false →
        (ringPlaces v k.c.fn p = false → run = ends .protection) ∧
        (ringPlaces v k.c.fn p = true → operand v k k.o.src0 k.anyTile 0 n false = none → run = ends .protection) ∧
        (∀ a, ringPlaces v k.c.fn p = true → operand v k k.o.src0 k.anyTile 0 n false = some a →
          let lim := (snapshot x p.tentative).1
          let pages := ringBlock v x p lim
          let halves := ringHalves v p x lim x.gen pages
          (pages.any (pageGone v p.span) = true → run = ends .displaced) ∧
          (pages.any (pageGone v p.span) = false → (∀ q ∈ pages, (v.pte p.span q).st ≠ .t3) →
            ((∃ l ∈ halves, p.slotBytes < halfSize l) → run = ends .invalid) ∧
            ((∀ l ∈ halves, halfSize l ≤ p.slotBytes) → run = .next (finish (ringReplay (holdCtx
              (t0Fails errs.t0 (issued s k) (ringBegin p errs.batts k x a pages [] halves.flatten v)) k.h) (some k.h))))))))) ∧
  (∀ (s : State) (x : Span) (k : OpCtx) (p : RingParams) (bad : List (Nat × Nat × Byte)) (a : Loc) (pages : List Nat)
    (f1 : List (Nat × Nat)) (l : List RingSend), ∃ g, Tab.find? k.h (ringBegin p bad k x a pages f1 l s).attn.rings = some g ∧
      g.idx = k.idx ∧ g.par = p) ∧
  (∀ (s : State) (h t : Nat) (hd table : List (BitVec 8)) (batts : List (List (BitVec 8) × Bool)), s.pow.st = .on →
    let u := atTime s t
    let m : RingMsg := .page hd table batts
    let run := exec (.ringPage h hd table batts t) s
    (Tab.find? h s.attn.rings = none → run = .next (finish (ringHold u h m))) ∧
    (∀ g, Tab.find? h s.attn.rings = some g →
      let dir := bits (fieldAt hd 2 1) 6 6
      let step := ringStep g.par (bits (fieldAt hd 2 1) 5 0) dir
      (ringHeaderOk g.par hd = false → run = .next (finish (ringFails u h g .invalid))) ∧
      (ringHeaderOk g.par hd = true → epochNewer u (fieldAt hd 8 2) = true → run = .next (finish (ringHold u h m))) ∧
      (ringHeaderOk g.par hd = true → epochNewer u (fieldAt hd 8 2) = false →
        (epochAccepted u (fieldAt hd 8 2) = false ∨ fieldAt hd 8 2 ≠ g.par.epoch → run = .next (finish (ringStale u h g (fieldAt hd 8 2)))) ∧
        (epochAccepted u (fieldAt hd 8 2) = true → fieldAt hd 8 2 = g.par.epoch →
          (u.span? g.par.span = none → run = .next (finish (ringFails u h g .aborted))) ∧
          (∀ x, u.span? g.par.span = some x →
            (g.par.slotBytes < ringFilled g step dir + ringSize table batts → run = .next (finish (ringFails u h g .invalid))) ∧
            (ringFilled g step dir + ringSize table batts ≤ g.par.slotBytes → run = .next (finish (ringTake u h g x hd table batts)))))))) ∧
  (∀ (s : State) (h o gen epoch t : Nat) (g : RingSt), s.pow.st = .on → Tab.find? h s.attn.rings = some g →
    let u := atTime s t
    let run := exec (.ringClose h o gen epoch t) s
    (epochNewer u epoch = true → run = .next (finish (ringHold u h (.close o gen epoch)))) ∧
    (epochNewer u epoch = false → (epochAccepted u epoch = false ∨ epoch ≠ g.par.epoch) → run = .next (finish (ringStale u h g epoch))) ∧
    (epochNewer u epoch = false → epochAccepted u epoch = true → epoch = g.par.epoch →
      (g.par.n ≤ o ∨ o = g.par.position ∨ g.closes.any (fun c => c.1 == o) = true → run = .next (finish u)) ∧
      (o < g.par.n → o ≠ g.par.position → g.closes.any (fun c => c.1 == o) = false →
        let f := ringStep g.par o 0
        let on := if f < g.par.n / 2 then [g.par.next 0]
          else if g.par.n / 2 < f ∧ g.par.n - f < g.par.n / 2 then [g.par.next 1] else []
        run = .next (finish (ringNext (on.foldl (fun s n => s.emit (.ringClose n o gen g.par.epoch)) u) h
          { g with closes := Tab.ins o gen g.closes, last := u.now }))))) ∧
  (∀ (s : State) (h o gen epoch t : Nat), s.pow.st = .on → Tab.find? h s.attn.rings = none →
    exec (.ringClose h o gen epoch t) s = .next (finish (atTime s t)) ∧ exec (.ringAbortNotice h) s = .next (finish s)) ∧
  (∀ (s : State) (h t : Nat) (g : RingSt), s.pow.st = .on → Tab.find? h s.attn.rings = some g →
    let u := atTime s t
    let due := g.last + u.fld R.ATTN_CTL.REMOTE_TIMEOUT * 1000
    exec (.ringAbortNotice h) s = .next (finish (ringFails s h g .aborted)) ∧
    (due ≤ u.now → exec (.remoteTimeout 2 h t) s = .next (finish (ringFails u h g .timeout))) ∧
    (u.now < due → exec (.remoteTimeout 2 h t) s = .next (finish u))) ∧
  (∀ (s : State) (h : Nat) (g : RingSt) (k : OpCtx), opCtxOf s h g.idx = some k →
    let stale := g.gens.any (fun o => match Tab.find? o.1 g.closes with
      | some c => decide ((c % 2 ^ 24 + 2 ^ 24 - o.2) % 2 ^ 24 ≠ 0)
      | none => false)
    let ps := (g.rows.foldl (fun l r => ringIns r l) []).map (·.parts)
    let tot := ps.foldl mergeHeads (List.replicate (g.par.queries * g.par.kvHeads * g.par.hPerKv) (emptyPart g.par.dim 0))
    let st := tot.foldl (fun a p => a.worse (partStatus p)) .ok
    let bs := tot.flatMap (fun p => outBytesOf false p.psn (finishPart p))
    (stale = true → ringFinish s h g = ringFails s h g .horizon) ∧
    (stale = false → operand s k k.o.dst k.anyTile 0 bs.length true = none → ringFinish s h g = ringFails s h g .protection) ∧
    (∀ a, stale = false → operand s k k.o.dst k.anyTile 0 bs.length true = some a →
      let r := locWrite s h a bs
      ringFinish s h g = ringFails r.1 h g (if r.2 then st.worse .poison else st))) ∧
  (∀ (s : State) (h : Nat) (p : RingParams) (st : Status),
    Tab.find? h (ringEnd s h p st).attn.rings = none ∧ (ringEnd s h p st).attn.ringIn = s.attn.ringIn.filter (fun m => m.2.1 != h))

/-- With the module on: a COLLECTIVE op of any kind, not yet issued, whose group is not in its program, or of which this node is no member, retires with
ST_INVALID; one whose collective has already failed here retires with that status, and one whose operand it may not use with ST_PROTECTION; one that
may go adds its own contribution to what has come for its group, id and epoch and the node goes on as far as it can, or fails it as a mismatch where
what has come differs. A node on which a member's own and all children's contributions are in combines them: the root delivers the result, and passes
it down in an ALL_SUM, another member sends it up; a broadcast is passed down by the root; a gather is sent up, or delivered by the root, in order of
members. A contribution that comes of an epoch that is no longer accepted fails the collective with ST_EPOCH_STALE; one that differs from what has
come is a mismatch; one of a newer epoch is held; the root's vector is passed down and delivered, or held until the op issues; any other is kept and
combined as far as the node can. A collective that has waited COLL_TIMEOUT fails with ST_TIMEOUT, which is logged and marked to the tree; a marker is
passed on to the other neighbours and the collective fails here with what it says; a collective that has failed takes nothing more. -/
def Obligations.CollectivesRun : Prop :=
  (∀ (s : State) (k : OpCtx) (errs : Errs), s.pow.st = .on →
    let v := errsMet k errs (issued s k)
    v.attn.colls.any (fun p => p.2.who == some (k.h, k.idx)) = false →
    let is (kind : Nat) := Issues s (fun o => o.opcode == 0x18 && o.var % 4 == kind) k
    let all (r : Nat → State) : Prop :=
      (is 0 → exec (.collectiveSum k.h errs) s = .next (finish (r 0))) ∧ (is 1 → exec (.allSum k.h errs) s = .next (finish (r 1))) ∧
      (is 2 → exec (.collectiveBroadcast k.h errs) s = .next (finish (r 2))) ∧
      (is 3 → exec (.collectiveGather k.h errs) s = .next (finish (r 3)))
    let ends (t : State) (st : Status) (_ : Nat) : State := retire (t0Fails errs.t0 (issued s k) t) k.h k.idx st 0
    let goes (t : State) : State := holdCtx (t0Fails errs.t0 (issued s k) t) k.h
    let id := k.c.stepCtr * 65536 + k.idx
    let key : CollKey := (k.o.arg0, id, v.epoch)
    let bf := k.o.varBit 2
    (progTree v k.q k.o.arg0 = none → all (ends v .invalid)) ∧
    (∀ g i f, progTree v k.q k.o.arg0 = some (g, i) → collFailed v k.o.arg0 id = some f → all (ends (dropColl v f.1) f.2)) ∧
    (∀ g i, progTree v k.q k.o.arg0 = some (g, i) → collFailed v k.o.arg0 id = none → collInFlight v k.c.program g.id < g.depth →
      ((∀ kind, collOwn v k (i == g.root) kind = none) → all (ends v .protection)) ∧
      (∀ (own : Nat → Option (List PElem)) (u : Nat → State), (∀ kind, collOwn v k (i == g.root) kind = some (own kind, u kind)) →
        ((∀ kind, coll? (u kind) key = none) → all (fun kind => goes (collStep (setColl (u kind) key
          ⟨kind, k.o.arg1, bf, v.epoch, own kind, [], some (k.h, k.idx), some k.c.program, none, false, v.now⟩) key))) ∧
        (∀ c : CollSt, (∀ kind, coll? (u kind) key = some c) →
          let c := { c with who := some (k.h, k.idx), prog := some k.c.program }
          all (fun kind => goes (if c.kind ≠ kind ∨ c.count ≠ k.o.arg1 ∨ c.bf16 ≠ bf then collMismatch (setColl (u kind) key c) g i key c
            else collStep (setColl (u kind) key { c with own := own kind }) key)))))) ∧
  (∀ (s : State) (key : CollKey) (c : CollSt) (g : Group) (i : Nat), coll? s key = some c → treeOf s key = some (g, i) → c.prog.isSome →
    c.failed = none → (treeNodes g i).any (nodeLost s) = false →
    let up : Nat := memberNode g ((g.members.getD i (0, 0)).2)
    let u := s.incFld R.COMB_COLL_CNT.COUNT c.kids.length
    let v := nodeSum c.own c.kids c.bf16
    let sent := u.emit (.coll up key.1 key.2.1 key.2.2 c.kind c.bf16 false i v)
    let all := collAll i c
    (collHas c (kidsOf g i) = true → i = g.root → (c.kind = 0 → collStep s key = collDeliver (dropColl u key) c.who c.bf16 (some v) .ok) ∧
      (c.kind = 1 → collStep s key = collDown u g i key c v)) ∧
    (collHas c (kidsOf g i) = true → i ≠ g.root →
      (c.kind = 0 → collStep s key = collDeliver (dropColl sent key) c.who c.bf16 none (psnStatus (v.any (·.2)))) ∧
      (c.kind = 1 → collStep s key = setColl sent key { c with sentUp := true })) ∧
    (c.kind < 2 → collHas c (kidsOf g i) = false → collStep s key = s) ∧
    (c.kind = 2 → i = g.root → collStep s key = collDown s g i key c (c.own.getD [])) ∧
    (∀ q l, c.kind = 2 → i ≠ g.root → c.kids = q :: l → collStep s key = collDeliver (dropColl s key) c.who c.bf16 (some q.2) .ok) ∧
    (c.kind = 3 → collHas c ((subtree g i).filter (fun j => j != i)) = true → i = g.root → collStep s key =
      collDeliver (dropColl u key) c.who c.bf16 (some ((all.foldl (fun l q => kidIns q l) []).flatMap (·.2))) .ok) ∧
    (c.kind = 3 → collHas c ((subtree g i).filter (fun j => j != i)) = true → i ≠ g.root → collStep s key =
      collDeliver (dropColl (all.foldl (fun s q => s.emit (.coll up key.1 key.2.1 key.2.2 3 c.bf16 false q.1 q.2)) u) key) c.who c.bf16 none
        (psnStatus ((c.own.getD []).any (·.2))))) ∧
  (∀ (s : State) (group id kind count e m t : Nat) (bf down : Bool) (x : List (BitVec 32 × Bool)), s.pow.st = .on →
    let u := atTime s t
    let key : CollKey := (group, id, e)
    let run := exec (.coll group id kind count bf e m down x t) s
    let c := (coll? u key).getD (newColl u kind count bf e)
    let kept := setColl u key { c with kids := c.kids.filter (fun q => q.1 != m) ++ [(m, x)] }
    (treeOf u key = none → run = .next (finish u)) ∧
    (∀ g i, treeOf u key = some (g, i) →
      (epochNewer u e = false → epochAccepted u e = false → run = .next (finish (collStale u g i key (newColl u kind count bf e) m))) ∧
      (epochNewer u e = true ∨ epochAccepted u e = true →
        (c.failed.isSome = true → run = .next (finish u)) ∧
        (c.failed = none → c.kind ≠ kind ∨ c.count ≠ count ∨ c.bf16 ≠ bf → run = .next (finish (collMismatch u g i key c))) ∧
        (c.failed = none → c.kind = kind → c.count = count → c.bf16 = bf →
          (epochNewer u e = true → run = .next (finish kept)) ∧
          (epochNewer u e = false → down = false → run = .next (finish (collStep kept key))) ∧
          (epochNewer u e = false → down = true →
            let w := (kidsOf g i).foldl (fun s j => s.emit (.coll (memberNode g j) group id e kind bf true m x)) u
            (c.prog.isSome = true → run = .next (finish (collDeliver (dropColl w key) c.who bf (some x) .ok))) ∧
            (c.prog = none → run = .next (finish (setColl w key { c with kids := [(m, x)] })))))))) ∧
  (∀ (s : State) (g : Group) (c : CollSt) (group id e i t : Nat), s.pow.st = .on →
    let v := atTime s t
    let key : CollKey := (group, id, e)
    coll? v key = some c → treeOf v key = some (g, i) →
    let run := exec (.collTimeout group id e t) s
    let due := c.since + v.fld R.COMB_CTL.COLL_TIMEOUT * 1000
    let u := ((collMark v g i key .timeout).incFld R.COMB_TIMEOUT_CNT.COUNT).setFld R.COMB_ERR.COLL_TIMEOUT 1
    (c.failed.isSome = true ∨ v.now < due → run = .next (finish v)) ∧
    (c.failed = none → c.who = none → due ≤ v.now → run = .next (finish (collFail
      (logModule u { entry0 u 0x19 .timeout 0 with context := 2 ^ 19 - 1, object := group }) key c .timeout))) ∧
    (∀ h j x, c.failed = none → c.who = some (h, j) → s.ctx? h = some x → due ≤ v.now → run = .next (finish (collFail
      (logFn u x.fn { entry0 u 0x19 .timeout x.fn with context := h, object := group }) key c .timeout)))) ∧
  (∀ (s : State) (g : Group) (group id e from_ st i : Nat), s.pow.st = .on → treeOf s (group, id, e) = some (g, i) →
    let key : CollKey := (group, id, e)
    let c := (coll? s key).getD (newColl s 0 0 false e)
    let run := exec (.collTimeoutMarker group id e from_ st) s
    (c.failed.isSome = true → run = .next (finish s)) ∧
    (c.failed = none → run = .next (finish (collFail (((treeNodes g i).filter (fun n => n != from_)).foldl
      (fun s n => s.emit (.collMarker n group id e (statusOfNat st))) s) key c (statusOfNat st)))))

/-- With the module on: an ageing period gives each T1 and T2 page age 0 if it was accessed and one more, to at most 7, if not, clears the accessed bit,
and leaves every other page; DEMOTE with migration off, or with the free count above the high water, ends demotion, and with the free count below the
low water starts the oldest page of the twilight list on its way, to a run of T2 within its function's ceiling or to a lender, or changes only that
demotion is on where there is none; PROMOTE of a T2 or T3 page that does not migrate claims a frame and starts its copy; MIGRATION_SWITCH of a page
with no migration changes nothing, of one that migrates it switches the entry to the place the migration names and ends it, and at a lender it stores
a borrower's page; a frame wait that times out completes its descriptor or op with ST_RETRY_LATER. Each of the engine's commands first meets the
storage errors it is given. -/
def Obligations.PagingCommands : Prop :=
  (∀ (s : State) (t : Nat), s.pow.st = .on →
    let u := tickPage (atTime s t)
    exec (.agePeriod t) s = .next (finish { u with pg := { u.pg with ptes := u.pg.ptes.map (fun p => (p.1, agePte u.pg.tick p.2)) } })) ∧
  (∀ (n : Nat) (e : Pte), (e.st = .t1 ∨ e.st = .t2 →
      (agePte n e).age = (if e.accessed then 0 else min 7 (e.age + 1)) ∧ (agePte n e).accessed = false ∧ (agePte n e).st = e.st) ∧
    (e.st ≠ .t1 → e.st ≠ .t2 → agePte n e = e)) ∧
  (∀ (s : State) (errs : Errs), s.pow.st = .on →
    let u := engineMet errs s
    (u.flag R.PAGE_CTL.MIG_ENABLE = false ∨ (u.fld R.PAGE_LOWATER.FRAMES ≤ t1Free u ∧ u.fld R.PAGE_HIWATER.FRAMES < t1Free u) →
      exec (.demote false errs) s = .next (finish { u with pg := { u.pg with demoting1 := false } })) ∧
    (u.flag R.PAGE_CTL.MIG_ENABLE = false ∨ (u.fld R.PAGE_T2_WATER.LOW ≤ t2Free u ∧ u.fld R.PAGE_T2_WATER.HIGH < t2Free u) →
      exec (.demote true errs) s = .next (finish { u with pg := { u.pg with demoting2 := false } }))) ∧
  (∀ (s : State) (errs : Errs), s.pow.st = .on →
    let u := engineMet errs s
    let v := { u with pg := { u.pg with demoting1 := true } }
    u.flag R.PAGE_CTL.MIG_ENABLE = true → t1Free u < u.fld R.PAGE_LOWATER.FRAMES →
    (oldest (twilight v .t1) = none → exec (.demote false errs) s = .next (finish v)) ∧
    (∀ k e x g, oldest (twilight v .t1) = some (k, e) → v.span? (k / 2 ^ 31) = some x →
      let sp := k / 2 ^ 31
      let p := k % 2 ^ 31
      let y := withTable v x (v.pte sp p)
      let n := codedGranules v y (v.pte sp p)
      fnT2 v y.fn + n ≤ v.fld R.FN_T2_CEIL y.fn → findRun v n = some g →
      let w := useRun (v.takeFree.setSpan sp y) g n (.dest y.fn sp p)
      let w := w.setPte sp p { w.pte sp p with mig := true }
      exec (.demote false errs) s = .next (finish { w with pg := { w.pg with migs := Tab.ins (pageKey sp p) ⟨.t1t2, 0, g, n, 0, 0⟩ w.pg.migs } }))) ∧
  (∀ (s : State) (errs : Errs), s.pow.st = .on →
    let u := engineMet errs s
    let v := { u with pg := { u.pg with demoting2 := true } }
    let l := (twilight v .t2).filter (fun p => t3May v p.1)
    u.flag R.PAGE_CTL.MIG_ENABLE = true → t2Free u < u.fld R.PAGE_T2_WATER.LOW →
    (oldest l = none ∨ t3Room v none = none → exec (.demote true errs) s = .next (finish v)) ∧
    (∀ k e node, oldest l = some (k, e) → t3Room v none = some node →
      exec (.demote true errs) s = .next (finish (startT3 v (k / 2 ^ 31) (k % 2 ^ 31) .t2t3 node)))) ∧
  (∀ (s v : State) (span p f : Nat) (errs : Errs) (x : Span), s.pow.st = .on →
    let u := poisonBatts (engineMet errs s) span p (badOf errs.batts p)
    u.span? span = some x →
    let e := u.pte span p
    e.mig = false → (e.st = .t2 ∨ e.st = .t3) → e.crcBad = false → u.flag R.PAGE_CTL.MIG_ENABLE = true →
    allocFrame u x.fn (rotIndex x p) = some (f, v) →
    exec (.promote span p errs) s = .next (finish (setMig (useFrame v f (.dest x.fn span p)) span p
      ⟨if e.st = .t3 then .t3t1 else .t2t1, f, 0, 0, 0, 0⟩))) ∧
  (∀ (s : State) (span p : Nat) (errs : Errs), s.pow.st = .on →
    let u := engineMet errs s
    (migOf u span p = none → exec (.migrationSwitch span p none errs) s = .next (finish u)) ∧
    (∀ m, migOf u span p = some m →
      let v := if m.kind.decodes then poisonBatts u span p (badOf errs.batts p) else u
      exec (.migrationSwitch span p none errs) s = .next (finish (ackRecalls (switchPage v span p m))))) ∧
  (∀ (s : State) (span p : Nat) (m : Mig),
    let e := (switchPage s span p m).pte span p
    e.mig = false ∧ migOf (switchPage s span p m) span p = none ∧
    (m.kind = .t1t2 ∨ m.kind = .t2t2 ∨ m.kind = .t3t2 → e.st = .t2 ∧ e.granule = m.granule ∧ e.count = m.count) ∧
    (m.kind = .t2t3 ∨ m.kind = .t3t3 → e.st = .t3 ∧ e.node = m.node ∧ e.handle = m.handle) ∧
    (m.kind = .t2t1 ∨ m.kind = .t3t1 → e.st = .t1 ∧ e.frame = m.frame) ∧ (m.kind = .t1t1 → e.frame = m.frame)) ∧
  (∀ (s : State) (span p h g : Nat) (l : LentIn) (d : Lending) (errs : Errs), s.pow.st = .on →
    let u := engineMet errs s
    let n := max 1 (min 17 (ceilDiv (battsLen l.batts) 4096))
    Tab.find? l.node u.pg.lendings = some d → NSet.has (l.node * 64 + l.fn) u.pg.lentKeys = true → Tab.find? h u.pg.lent = none →
    u.pg.lent.countP (fun p => p.2.page.node == l.node) < d.gib * 16384 → findRun u n = some g →
    let v := pwrite' (useRun u g n (.lent h)) (t2Base + g * 4096) (cleanBytes l.batts.flatten)
    exec (.migrationSwitch span p (some (h, l)) errs) s =
      .next (finish { v with pg := { v.pg with lent := Tab.ins h ⟨l, false, g, n, false⟩ v.pg.lent } })) ∧
  (∀ (s : State) (f r n : Nat), s.pow.st = .on → s.pg.waits.any (fun p => p.1 == Who.desc f r n) = true →
    exec (.frameWaitTimeout false f r n) s = .next (finish (complete (endWait s (.desc f r n)) f r n .retryLater))) ∧
  (∀ (s : State) (h r n i : Nat), s.pow.st = .on → s.pg.waits.any (fun p => p.1 == Who.ctx h) = true → frameOp (endWait s (.ctx h)) h = some i →
    exec (.frameWaitTimeout true h r n) s = .next (finish (retire (endWait s (.ctx h)) h i .retryLater 0)))

/-- With the module on: a lending set up at the lender is recorded with its functions' keys unless it would need more than 1,024 keys, and one of some
capacity at the borrower is recorded as an offer; a recall notice abandons the demotions it names, is held with a deadline 100 ms later, and the pages
it names begin to move; a recall none of whose pages is left at its deadline is forgotten, and of one that names one page still at the lender the page
is displaced; RECALL names at most RECALL_TRANCHE pages lent to the node that were not recalled before; an acknowledgement, a release and the lender's
deadline free the pages they name, which are then no longer lent, and an acknowledgement that says the loan ends as a whole erases it and its keys
once nothing of it is left; a borrower's function level reset erases its key. -/
def Obligations.LendingCommands : Prop :=
  (∀ (s : State) (node gib : Nat) (t1 : Bool) (fns : List Nat), s.pow.st = .on →
    let keys := fns.foldl (fun l f => NSet.add (node * 64 + f) l) s.pg.lentKeys
    (keys.length ≤ 1024 → exec (.lendingSetup true node gib t1 fns) s = .next (finish
      { s with pg := { s.pg with lendings := Tab.ins node ⟨node, gib, t1⟩ s.pg.lendings, lentKeys := keys } })) ∧
    (1024 < keys.length → exec (.lendingSetup true node gib t1 fns) s = .next (finish s)) ∧
    (0 < gib → exec (.lendingSetup false node gib t1 fns) s = .next (finish { s with pg := { s.pg with
      offers := Tab.ins node ⟨node, gib, t1⟩ s.pg.offers, t3keys := fns.foldl (fun l f => NSet.add f l) s.pg.t3keys } }))) ∧
  (∀ (s : State) (node t : Nat) (hs : List Nat), s.pow.st = .on →
    let gone := (atTime s t).pg.migs.filter (fun m => (m.2.kind == .t2t3 || m.2.kind == .t3t3) && m.2.node == node && hs.contains m.2.handle)
    let u := gone.foldl (fun s m => abandonDemote s (m.1 / 2 ^ 31) (m.1 % 2 ^ 31)) (atTime s t)
    let pages := (u.pg.ptes.filter (fun p => p.2.st == .t3 && p.2.node == node && hs.contains p.2.handle)).map (·.1)
    let v := { u with pg := { u.pg with recallsIn := u.pg.recallsIn ++ [⟨node, u.now + 100000000, pages⟩] } }
    exec (.recallNotice node hs t) s = .next (finish (ackRecalls (pages.foldl recallPage v)))) ∧
  (∀ (s : State) (node t : Nat), s.pow.st = .on →
    let u := atTime s t
    let due (r : RecallIn) : Bool := r.node == node && decide (r.deadline ≤ u.now)
    let v := { u with pg := { u.pg with recallsIn := u.pg.recallsIn.filter (fun r => !due r) } }
    (∀ r ∈ u.pg.recallsIn, due r = false) → exec (.recallDeadline false node t) s = .next (finish v)) ∧
  (∀ (s : State) (node t k : Nat) (r : RecallIn), s.pow.st = .on → (atTime s t).pg.recallsIn = [r] → r.node = node →
    r.deadline ≤ (atTime s t).now → r.pages = [k] →
    let v := { atTime s t with pg := { (atTime s t).pg with recallsIn := [] } }
    let e := v.pte (k / 2 ^ 31) (k % 2 ^ 31)
    (e.st = .t3 → e.node = node → e.recalling = true → migOf v (k / 2 ^ 31) (k % 2 ^ 31) = none →
      exec (.recallDeadline false node t) s = .next (finish (displaceAs v (k / 2 ^ 31) (k % 2 ^ 31) false))) ∧
    (e.st ≠ .t3 ∨ e.node ≠ node ∨ e.recalling = false → exec (.recallDeadline false node t) s = .next (finish v))) ∧
  (∀ (s : State) (node t : Nat), s.pow.st = .on →
    exec (.recallDeadline true node t) s =
      .next (finish (freeLent (atTime s t) node ((s.pg.lent.filter (fun p => p.2.recalled)).map (·.1))))) ∧
  (∀ (s : State) (node : Nat) (hs : List Nat), s.pow.st = .on →
    let due := recallDue s node hs
    let mark (p : Nat × LentPage) : Nat × LentPage := (p.1, if due.contains p.1 then { p.2 with recalled := true } else p.2)
    (due = [] → exec (.recall node hs) s = .next (finish s)) ∧
    (due ≠ [] → exec (.recall node hs) s =
      .next (finish (({ s with pg := { s.pg with lent := s.pg.lent.map mark } } : State).emit (.recallNotice node due)))) ∧
    due.length ≤ s.fld R.PAGE_RECALL.RECALL_TRANCHE) ∧
  (∀ (s : State) (node : Nat) (hs : List Nat), s.pow.st = .on →
    exec (.recallAcknowledgement node hs false) s = .next (finish (freeLent s node hs)) ∧
    (let u := freeLent s node hs;
      ((∃ p ∈ u.pg.lent, p.2.page.node = node) → exec (.recallAcknowledgement node hs true) s = .next (finish u)) ∧
      ((∀ p ∈ u.pg.lent, p.2.page.node ≠ node) → exec (.recallAcknowledgement node hs true) s = .next (finish { u with pg := { u.pg with
        lendings := Tab.del node u.pg.lendings, lentKeys := u.pg.lentKeys.filter (fun k => k / 64 ≠ node) } }))) ∧
    exec (.lentPageRelease node hs) s = .next (finish (freeLent s node hs)) ∧
    ∀ p ∈ (freeLent s node hs).pg.lent, ¬ (p.2.page.node = node ∧ p.1 ∈ hs)) ∧
  (∀ (s : State) (node fn : Nat), s.pow.st = .on →
    exec (.borrowerFlrNotice node fn) s = .next (finish { s with pg := { s.pg with lentKeys := NSet.del (node * 64 + fn) s.pg.lentKeys } }))

/-- With the module on: REGISTER_WRITE and W1C_CLEAR write the register at the address given, LOCK_SET writes it with bit 0 set where it holds a LOCK bit
and otherwise changes nothing; TILE_WIN_WRITE, TILE_STREAM_WRITE, QM_FLUSH, SHQ_CFG_WRITE, SWAP, PWR_CEIL_WRITE and LVL_SET_WRITE write the register
they name, SWAP with its bit set; DEEP_REQ of the operator asks for deep nap, and of a function writes PWR_CTL with DEEP_REQ set; RC_READ and
QSTAT_AVG_READ send back the value read; BAD_ACCESS of a good target does nothing, a bad read sends back 0. -/
def Obligations.RegisterCommands : Prop :=
  (∀ (s : State) (src a n v : Nat), s.pow.st = .on →
    let write (a n v : Nat) := Host.Outcome.next (finish (regWrite src a n v s))
    exec (.registerWrite src a n v) s = write a n v ∧ exec (.w1cClear src a n v) s = write a n v ∧
    (∀ t, t < 256 → exec (.tileWinWrite src t v) s = write (0x100004 + 0x1000 * t) 4 v) ∧
    (∀ t, t < 256 → exec (.tileStreamWrite src t v) s = write (0x100008 + 0x1000 * t) 4 v) ∧
    exec (.qmFlush src v) s = write 0xb00020 4 v ∧
    (∀ q, q < 8192 → exec (.shqCfgWrite src q v) s = write (0xc10000 + 16 * q) 8 v) ∧
    (∀ p, p < 16 → exec (.swap src p v) s = write (0xc00108 + 16 * p) 4 (setBits v 2 2 1)) ∧
    exec (.pwrCeilWrite src v) s = write 0xf0000c 4 v ∧ exec (.lvlSetWrite src v) s = write 0xf00004 4 v ∧
    (src ≠ mgmt → exec (.deepReq src v) s = write 0x10000 4 (setBits v 1 1 1)) ∧
    (∀ k, regAt a = some k → k.info.flds.any (fun x => x.lo == 0 && x.acc == .w1s) = true → exec (.lockSet src a v) s = write a 4 (setBits v 0 0 1)) ∧
    (∀ k, regAt a = some k → k.info.flds.any (fun x => x.lo == 0 && x.acc == .w1s) = false → exec (.lockSet src a v) s = .next (finish s))) ∧
  (∀ (s : State) (v : Nat), s.pow.st = .on → exec (.deepReq mgmt v) s = .next (finish (askDeep s))) ∧
  (∀ (s : State) (src a n : Nat), s.pow.st = .on →
    exec (.rcRead src a n) s = .next (finish ((regRead src a n s).2.emit (.readData src a (regRead src a n s).1))) ∧
    exec (.qstatAvgRead src) s = .next (finish ((regRead src 0xb00098 8 s).2.emit (.readData src 0xb00098 (regRead src 0xb00098 8 s).1)))) ∧
  (∀ (s : State) (src a n v : Nat), s.pow.st = .on →
    (badTarget s src a n = false → ∀ w, exec (.badAccess src a n w v) s = .next (finish s)) ∧
    (badTarget s src a n = true → exec (.badAccess src a n true v) s = .next (finish (s.incFld R.ID_BAD_ACCESS.COUNT))) ∧
    (target s src a n = .nothing → exec (.badAccess src a n false v) s = .next (finish (s.emit (.readData src a 0)))) ∧
    (target s src a n = .wrong →
      exec (.badAccess src a n false v) s = .next (finish ((s.incFld R.ID_BAD_ACCESS.COUNT).emit (.readData src a 0)))))

/-- A write by a source that may not write the register leaves the state as it was, but for HI_FN_LIMIT written by its own function, which sets
CFG_REJECT; a field whose value is out of its range discards the whole write and sets the block's CFG_REJECT; a PF0 write that is not PF0's to make
sets the block's CFG_REJECT, or where it meets an RWL field under LOCK is discarded and counted instead, and both where it would also set LOCK; a
write of locked RWL fields alone is discarded, counted and recorded; after the W1S and W1C part of a write, each W1C field written with 1 reads 0 and
every field that the write has no 1 for reads as before; read-only fields are never set by PF0 or a VF. -/
def Obligations.RegisterRules : Prop :=
  (∀ (s : State) (w : Wr), mayWrite w = false → w.k.info.addr ≠ 0x781000 → writeReg s w = s) ∧
  (∀ (s : State) (w : Wr), mayWrite w = false → w.k.info.addr = 0x781000 → w.src = w.k.i →
    writeReg s w = s.setFld R.HI_FN_STAT.CFG_REJECT 1 w.src) ∧
  (∀ (s : State) (w : Wr), pf0Barred w = true →
    (lockHit s w = false → plainWrite w s = rejectAt s w.k) ∧
    (lockHit s w = true → (w.flds .w1s).any (fun x => x.lo == 0 && w.one x) = false → plainWrite w s = lockDiscard s w) ∧
    (lockHit s w = true → (w.flds .w1s).any (fun x => x.lo == 0 && w.one x) = true → plainWrite w s = rejectAt (lockDiscard s w) w.k)) ∧
  (∀ (s : State) (w : Wr) (x : Fld), pf0Barred w = false → x ∈ w.sets s → inRange x (w.val s x) = false → plainWrite w s = rejectAt s w.k) ∧
  (∀ (s : State) (w : Wr), pf0Barred w = false → locked s w.k = true → w.flds .rwl ≠ [] → w.flds .rw = [] → w.flds .w1s = [] → w.flds .w1c = [] →
    w.src ≠ mgmt → w.k.info.addr ≠ 0xc00108 → plainWrite w s = lockDiscard s w) ∧
  (∀ (s : State) (w : Wr), (lockDiscard s w).fld R.ID_LOCK_ADDR.SOURCE = bit (w.src == mgmt) ∧
    (lockDiscard s w).fld R.ID_LOCK_ADDR.OFFSET = (w.k.base + w.off / 8) % 2 ^ R.ID_LOCK_ADDR.OFFSET.wd ∧
    (lockDiscard s w).fld R.ID_LOCK_DISC.COUNT = min (s.fld R.ID_LOCK_DISC.COUNT + 1) (2 ^ R.ID_LOCK_DISC.COUNT.wd - 1)) ∧
  (∀ (s : State) (w : Wr) (x : Fld), x ∈ w.flds .w1c → w.one x = true →
    (∀ y ∈ w.flds .w1c, y.key w.k.i w.k.j = x.key w.k.i w.k.j → y = x) → (w.strobe s).fld x w.k.i w.k.j = 0) ∧
  (∀ (s : State) (w : Wr) (y : Fld) (i j : Nat),
    (∀ x ∈ w.flds .w1c ++ w.flds .w1s, w.one x = true → y.key i j ≠ x.key w.k.i w.k.j) → (w.strobe s).fld y i j = s.fld y i j) ∧
  (∀ (s : State) (w : Wr) (x : Fld), w.src ≠ mgmt → x ∈ w.sets s → x.acc = .rw ∨ x.acc = .rwl ∧ locked s w.k = false)

/-- With the module on: a TCLK change makes the change in progress; a window whose power is at most the ceiling in force with every junction below 110 °C
only records its measurements, and where the conditions of a recovery in progress do not hold starts their wait anew, and one above the ceiling halves
the stack allowance and starts a ceiling event; recovery does nothing with no ceiling event, forgets its wait where its conditions fail, begins it
where they hold, and after 100 µs of it restores the halved stack allowance; the end of a level window first does, in level mode with no ceiling event
in progress, the background work it is given, then sets HOLDING, BELOW, ABOVE, ADMIT_HELD, FILLING and CEIL_WIN by its power and the target, records
the power, and moves the target, in level mode by at most SLEW and not above 95 % of the ceiling; level mode's TCLK is not stepped within 10 ms of the
last step, and above the band steps down, to TCLK_MIN at the lowest; a junction at 100 °C or above starts the soft throttle, whose step lowers TCLK by
25 MHz each 1 ms while one is at 98 °C or above; a DRAM die above 85 °C is noted and logged, one above 105 °C sets STACK_HOT and counts, and STACK_HOT
clears when none is; a module that is idle naps, with DEEP_REQ deeply, and not while level mode is on; a nap exit begins when asked for; one that is
in progress is done, from deep nap with the failed self-checks it is given counted, and one that is not in progress is not. -/
def Obligations.PowerCommands : Prop :=
  (∀ (s : State) (t : Nat), s.pow.st = .on → exec (.tclkChange t) s = .next (finish (makeTclk (atTime s t)))) ∧
  (∀ (s : State) (w c p t : Nat), s.pow.st = .on →
    let u := setTemps ((atTime s t).setFld R.PWR_MEAS.INPUT_W (min 4095 w)) c p
    (w ≤ effCeil u → max c p < 110 → exec (.ceilingEvent w c p t) s = .next (finish (calmKept u w (max c p)))) ∧
    (effCeil u < w → exec (.ceilingEvent w c p t) s = .next (finish (ceilingHit (ceilingHalve u) (decide (110 ≤ max c p))))) ∧
    (w ≤ effCeil u → 110 ≤ max c p → exec (.ceilingEvent w c p t) s = .next (finish (ceilingHit u true))) ∧
    (u.pow.ceil = 0 → exec (.ceilingRecoveryStep w c p t) s = .next (finish u)) ∧
    (u.pow.ceil ≠ 0 → recoverOk u w (max c p) = false →
      exec (.ceilingRecoveryStep w c p t) s = .next (finish (u.updPow (fun q => { q with calm := none })))) ∧
    (u.pow.ceil ≠ 0 → recoverOk u w (max c p) = true → u.pow.calm = none →
      exec (.ceilingRecoveryStep w c p t) s = .next (finish (u.updPow (fun q => { q with calm := some u.now })))) ∧
    (∀ a, u.pow.ceil ≠ 0 → recoverOk u w (max c p) = true → u.pow.calm = some a → a + 100000 ≤ u.now → u.pow.halved = true →
      exec (.ceilingRecoveryStep w c p t) s =
        .next (finish (u.updPow (fun q => { q with halved := false, ceil := 2, lastStep := u.now }))))) ∧
  (∀ (s : State) (w v i o t : Nat) (f : Bool) (cs sp : List Nat) (ts : List (Nat × Nat)), s.pow.st = .on →
    let b := windowWork cs sp ts (atTime s t)
    let u := doLevelWindow w v i o f cs sp ts t s
    let en := b.flag R.LVL_CTL.ENABLE
    exec (.levelWindow w v i o f cs sp ts t) s = .next (finish u) ∧
      u.fld R.LVL_STAT.HOLDING = bit (en && inBand b w) ∧ u.fld R.LVL_STAT.BELOW = bit (en && decide (w * 1000 < b.pow.target * 98)) ∧
      u.fld R.LVL_STAT.ABOVE =
        bit (en && decide (b.pow.target * 102 < w * 1000) && decide (b.fld R.CLK_STAT.TCLK ≤ b.fld R.LVL_CTL.TCLK_MIN)) ∧
      u.fld R.LVL_STAT.ADMIT_HELD = admission b w % 2 ∧ u.fld R.LVL_STAT.FILLING = bit (en && f && b.flag R.LVL_CTL.FILL_EN) ∧
      u.fld R.LVL_STAT.CEIL_WIN = bit b.pow.ceilIn ∧ u.pow.ceilIn = false ∧ u.fld R.PWR_MEAS.WINDOW_W = min 4095 w ∧
      u.pow.target = (moveTarget b).pow.target) ∧
  (∀ (s : State), s.flag R.LVL_CTL.ENABLE = true → ceil95 s ≥ s.pow.target →
    (moveTarget s).pow.target ≤ s.pow.target + s.fld R.LVL_SET.SLEW ∧ s.pow.target ≤ (moveTarget s).pow.target + s.fld R.LVL_SET.SLEW ∧
      (moveTarget s).pow.target ≤ ceil95 s) ∧
  (∀ (s : State) (w t : Nat), s.pow.st = .on →
    ((atTime s t).flag R.LVL_CTL.ENABLE = false ∨ (atTime s t).now < (atTime s t).pow.lvlStep + 10000000 →
      exec (.levelTclkStep w t) s = .next (finish (atTime s t))) ∧
    ((atTime s t).flag R.LVL_CTL.ENABLE = true → (atTime s t).pow.lvlStep + 10000000 ≤ (atTime s t).now →
      (atTime s t).pow.target * 102 < w * 1000 →
      let u := atTime s t
      let v := max (u.fld R.LVL_CTL.TCLK_MIN) (u.pow.lvlTclk - 1)
      let x := u.updPow (fun p => { p with lvlTclk := v, lvlStep := u.now })
      exec (.levelTclkStep w t) s = .next (finish (if v < tclkAim x then askTclk x v else x)))) ∧
  (∀ (s : State) (c p t : Nat), s.pow.st = .on →
    let u := setTemps (atTime s t) c p
    (max c p < 100 → exec (.softThrottle c p t) s = .next (finish u)) ∧
    (100 ≤ max c p → exec (.softThrottle c p t) s = .next (finish (softHit u))) ∧
    (let v := trackCool u (max c p)
     v.flag R.THERM_STAT.SOFT_THROTTLE = true → 98 ≤ max c p → v.pow.softStep + 1000000 ≤ v.now →
     exec (.softThrottleStep c p t) s =
       .next (finish ((askTclk v (tclkAim v - 1)).updPow (fun q => { q with softStep := v.now, thermIn := true }))))) ∧
  (∀ (s : State) (k d t : Nat), s.pow.st = .on → k < 16 →
    let u := setDram (atTime s t) k d
    (d ≤ 105 → exec (.stackHot k d t) s = .next (finish u)) ∧
    (105 < d → exec (.stackHot k d t) s = .next (finish (logPower ((u.setFld R.THERM_STAT.STACK_HOT 1).incFld R.THERM_CNT.STACK)))) ∧
    (85 < d → exec (.dramAbove85 k d t) s = .next (finish (logPower u))) ∧
    (d ≤ 85 → exec (.dramAbove85 k d t) s = .next (finish (atTime s t))) ∧
    (u.pow.dram.all (fun q => decide (q.2 ≤ 105)) = true →
      exec (.dramTemperatureFall k d t) s = .next (finish (u.setFld R.THERM_STAT.STACK_HOT 0)))) ∧
  (∀ (s : State) (i t : Nat), s.pow.st = .on →
    let u := atTime s t
    (u.flag R.LVL_CTL.ENABLE = true → exec (.napEntry i t) s = .next (finish u)) ∧
    (u.flag R.LVL_CTL.ENABLE = false → inA0 u = true → moduleIdle u = true → u.flag R.PWR_CTL.DEEP_REQ = true →
      exec (.napEntry i t) s = .next (finish (enterN2 u))) ∧
    (u.flag R.LVL_CTL.ENABLE = false → inA0 u = true → moduleIdle u = true → u.flag R.PWR_CTL.DEEP_REQ = false →
      u.flag R.PWR_CTL.NAP_EN = true → u.fld R.PWR_CTL.NAP_IDLE ≤ i → exec (.napEntry i t) s = .next (finish (enterN1 u))) ∧
    exec (.napExit t) s = .next (finish (startExit u)) ∧
    (∀ a b, u.flag R.PWR_STAT.EXITING = false → exec (.napExitDone a b t) s = .next (finish u)) ∧
    (∀ a b, u.flag R.PWR_STAT.EXITING = true → u.fld R.PWR_STAT.STATE ≠ 2 → exec (.napExitDone a b t) s = .next (finish (endExit u))) ∧
    (∀ a b, u.flag R.PWR_STAT.EXITING = true → u.fld R.PWR_STAT.STATE = 2 →
      let v := (a.filter (fun t => t < 256)).foldl (fun s t => tileFailure s t 0x08) (endExit u)
      exec (.napExitDone a b t) s =
        .next (finish ((b.filter (fun u => u < 8192)).foldl (fun s u => checkNbu s (u / 512) (u % 512) false) v))))

/-- With the module on: every flit first has the codewords reported with it counted, and each uncorrectable one logged. A data flit on a port that is not
up changes nothing but the time; one whose codewords are not all accepted is answered by a NAK once; while a NAK is out or the replay repeats old
flits a flit is not accepted again; an accepted one is taken. A control flit, IDLE, REPLAY, HELLO or SYNC, whose codewords are not all accepted is not
acted on, one that is well formed is, and one that is not, of its TYPE or of none, is discarded and counted. A bad link word counts WORD_BAD and a
good one applies its acknowledgement, its two credits and its NAK; an acknowledgement of nothing held counts BAD_ACK, and of flits held lets them go;
the NAK is repeated while the port waits. -/
def Obligations.LinkFlits : Prop :=
  (∀ (s : State) (p v t : Nat) (fill : Bool) (cw : List (Nat × Bool)) (b : List (BitVec 8)), s.pow.st = .on →
    let u := atTime s t
    let c := fecCount u p cw
    let run := exec (.dataFlit p v fill cw b t) s
    (portUp u p = false → run = .next (finish u)) ∧
    (portUp u p = true → v < 8 → fecOk cw = false →
      ((c.port p).nak = true → run = .next (finish c)) ∧
      ((c.port p).nak = false → run = .next (finish (sendNak (c.updPort p (fun x => { x with nak := true })) p)))) ∧
    (portUp u p = true → v < 8 → fecOk cw = true → (c.port p).nak = true → run = .next (finish c)) ∧
    (portUp u p = true → v < 8 → fecOk cw = true → (c.port p).nak = false → 0 < (c.port p).drop →
      run = .next (finish (c.updPort p (fun x => { x with drop := x.drop - 1, lastFlit := c.now })))) ∧
    (portUp u p = true → v < 8 → fecOk cw = true → (c.port p).nak = false → (c.port p).drop = 0 →
      run = .next (finish (acceptFlit c p v fill b)))) ∧
  (∀ (s : State) (p n : Nat) (cw : List (Nat × Bool)), fecCount s p [] = s ∧ fecCount s p ((n, false) :: cw) = fecCount s p cw ∧
    (n = 0 → fecCount s p ((n, true) :: cw) = fecCount s p cw) ∧
    (1 ≤ n → n ≤ 13 → fecCount s p ((n, true) :: cw) = fecCount (s.incFld R.PORT_FEC_CNT.CORRECTED 1 p) p cw) ∧
    (13 < n → fecCount s p ((n, true) :: cw) = fecCount (logModule (s.incFld R.PORT_FEC_CNT.UNCORRECTABLE 1 p)
      { entry0 s 0x04 .ok 0 with unitKind := 6, unit_ := p }) p cw)) ∧
  (∀ (s : State) (p a : Nat) (cw : List (Nat × Bool)) (b : List (BitVec 8)), s.pow.st = .on →
    let does (c : Instr) (t ty : Nat) (f : List (BitVec 8) → Bool) (g : State → State) : Prop :=
      let u := fecCount (atTime s t) p cw
      (fecOk cw = false → exec c s = .next (finish u)) ∧
      (fecOk cw = true → fieldAt b 0 1 ≠ ty → fieldAt b 0 1 < 4 → exec c s = .next (finish u)) ∧
      (fecOk cw = true → controlOk b ty f = true → exec c s = .next (finish (g (u.updPort p (fun x => { x with lastFlit := u.now }))))) ∧
      (fecOk cw = true → controlOk b ty f = false → fieldAt b 0 1 = ty ∨ 4 ≤ fieldAt b 0 1 → exec c s = .next (finish (controlBad u p)))
    does (.idle p cw b a) a 0 (fun b => zeroAt b 1 251) id ∧
    does (.replay p cw b a) a 1 (fun b => decide (fieldAt b 1 2 < 4096) && zeroAt b 3 249)
      (fun s => if portUp s p then takeReplay p (fieldAt b 1 2) s else s) ∧
    does (.sync p cw b a) (a / 256) 2 (fun b => zeroAt b 1 7 && decide (fieldAt b 32 1 < 64) && decide (fieldAt b 33 1 < 2) && zeroAt b 34 218)
      (takeSyncFlit p a b) ∧
    does (.hello p cw b a) a 3 (fun b => decide (fieldAt b 1 2 < 32768) && decide (fieldAt b 3 1 < 16) && decide (fieldAt b 4 1 < 64) &&
      zeroAt b 5 3 && zeroAt b 24 228) (takeHello p b)) ∧
  (∀ (s : State) (p f : Nat),
    let x := s.port p
    let d := (x.rxSeq + 4096 - f) % 4096
    (d < 2048 → takeReplay p f s = s.setPort p { x with nak := false, drop := d }) ∧ (2048 ≤ d → takeReplay p f s = s)) ∧
  (∀ (s : State) (p : Nat) (sb : List Nat) (r : Bool), s.pow.st = .on →
    let k := (s.port p).words
    let w := wordOfSb sb
    let u := s.updPort p (fun x => { x with words := (x.words + 1) % 4 })
    (portUp s p = false → exec (.linkWord p sb r) s = .next (finish s)) ∧
    (portUp s p = true → (r = true ∨ crc8 (w % 2 ^ 88) ≠ w / 2 ^ 88) →
      exec (.linkWord p sb r) s = .next (finish (u.incFld R.PORT_ERR_CNT.WORD_BAD 1 p))) ∧
    (portUp s p = true → r = false → crc8 (w % 2 ^ 88) = w / 2 ^ 88 →
      let a := if bitAt w 12 then takeAck p (w % 4096) u else u
      let c := takeCredits p ((2 * k + 1) % 8) (bits w 47 32) (takeCredits p (2 * k % 8) (bits w 31 16) a)
      exec (.linkWord p sb r) s = .next (finish (pumpFabric (if bitAt w 13 then replay c p else c))))) ∧
  (∀ (s : State) (p q : Nat), (s.port p).unacked = [] → takeAck p q s = s.incFld R.PORT_RETRY_CNT.BAD_ACK 1 p) ∧
  (∀ (s : State) (p q : Nat),
    let x := s.port p
    let n := (q + 1 + 4096 - (x.txSeq + 4096 - x.unacked.length % 4096) % 4096) % 4096
    0 < n → n ≤ x.unacked.length → ((takeAck p q s).port p).unacked = x.unacked.drop n) ∧
  (∀ (s : State) (p : Nat), s.pow.st = .on →
    ((s.port p).nak = true → portUp s p = true → exec (.replayWaitExpiry p) s = .next (finish (sendNak s p))) ∧
    ((s.port p).nak = false ∨ portUp s p = false → exec (.replayWaitExpiry p) s = .next (finish s)))

/-- With the module on: a lane in service of a port that carries data or is halted, with more symbol errors than BURST_SYM or alone without signal, is
logged and halts the port for a retrain, or is retired after three retrains within 10 ms; with no more, nothing changes but the time. A retrain of a
halted lane that ends lets the port resume, and its third failure in a row retires the lane; reform resumes the port at the widest width usable at
both ends, or takes it down. Loss of signal takes down a port that trains, is up or is halted; 10 us with no flit take down one that is up; an enabled
port that is down trains, and a port reset takes the port down first. Training that did not converge, that has no HELLO, or finds another variant, a
miswired port or no usable width fails; else the port is up. A SYNC flit is sent on a port that is up, with what the module says of itself; HELLO is
repeated in training and reform while none has come; holdover of 1 ms clears IN_SPEC. -/
def Obligations.PortsAndTime : Prop :=
  (∀ (s : State) (p l m t : Nat) (lost : Bool), s.pow.st = .on → portUp (atTime s t) p = true ∨ portHalted (atTime s t) p = true →
    bitAt (lanesOf (atTime s t) p) l = true → l < 4 →
    let a := atTime s t
    let u := logModule a { entry0 a 0x01 .ok 0 with unitKind := 5, unit_ := p * 4 + l }
    let recent := (Tab.get [] l (u.port p).retrains).filter (fun v => decide (u.now ≤ v + 10000000))
    (lost = false → m ≤ a.fld R.PORT_LANE_CFG.BURST_SYM p → exec (.laneBurst p l m lost t) s = .next (finish a)) ∧
    (lost = true ∨ a.fld R.PORT_LANE_CFG.BURST_SYM p < m → recent.length < 3 → exec (.laneBurst p l m lost t) s =
      .next (finish ((u.updPort p (fun x => { x with halted := NSet.add l x.halted })).setFld R.PORT_STAT.STATE 3 p))) ∧
    (lost = true ∨ a.fld R.PORT_LANE_CFG.BURST_SYM p < m → 3 ≤ recent.length →
      exec (.laneBurst p l m lost t) s = .next (finish (retireLane u p l)))) ∧
  (∀ (s : State) (p l t : Nat), s.pow.st = .on → ((atTime s t).port p).halted.contains l = true → portHalted (atTime s t) p = true →
    let u := atTime s t
    let v := u.updPort p (fun x =>
      { x with halted := x.halted.filter (· != l), fails := Tab.del l x.fails, retrains := Tab.ins l (u.now :: (Tab.get [] l x.retrains).take 7) x.retrains })
    exec (.retrainDone p l t) s = .next (finish (resumePort (v.incFld R.PORT_RETRAIN_CNT.RETRAINS 1 p) p)) ∧
    (2 ≤ Tab.get 0 l (u.port p).fails → exec (.retrainTimeout p l t) s = .next (finish (retireLane u p l))) ∧
    (Tab.get 0 l (u.port p).fails < 2 → exec (.retrainTimeout p l t) s =
      .next (finish (u.updPort p (fun x => { x with fails := Tab.ins l (Tab.get 0 l (u.port p).fails + 1) x.fails }))))) ∧
  (∀ (s : State) (p t lanes v : Nat) (c : List Nat), s.pow.st = .on → ((atTime s t).port p).hello = some (lanes, v, c) →
    portHalted (atTime s t) p = true → ((atTime s t).port p).reform = true →
    let u := atTime s t
    (∀ w, widthOf (Nat.land lanes (lanesOf u p)) (u.fld R.PORT_CTL.MAX_WIDTH p) = some w →
      exec (.reformDone p t) s = .next (finish (resumePort ((u.updPort p (fun x => { x with reform := false })).setFld R.PORT_STAT.WIDTH w p) p))) ∧
    (widthOf (Nat.land lanes (lanesOf u p)) (u.fld R.PORT_CTL.MAX_WIDTH p) = none →
      exec (.reformDone p t) s = .next (finish (downPort u p 4)))) ∧
  (∀ (s : State) (p t : Nat), s.pow.st = .on →
    let u := atTime s t
    (portLive s p = true → exec (.lossOfSignal p t) s = .next (finish (downPort u p 0))) ∧
    (portLive s p = false → exec (.lossOfSignal p t) s = .next (finish u)) ∧
    (portUp u p = true → (u.port p).lastFlit + 10000 ≤ u.now → exec (.noFlitTimeout p t) s = .next (finish (downPort u p 0))) ∧
    (u.now < (u.port p).lastFlit + 10000 → exec (.noFlitTimeout p t) s = .next (finish u)) ∧
    (u.flag R.PORT_CTL.ENABLE p = true → u.fld R.PORT_STAT.STATE p = 0 → exec (.trainingAttempt p t) s = .next (finish (startTraining u p))) ∧
    (u.flag R.PORT_CTL.ENABLE p = false → exec (.trainingAttempt p t) s = .next (finish u)) ∧
    (portLive u p = true → (downPort u p 0).flag R.PORT_CTL.ENABLE p = true → (downPort u p 0).fld R.PORT_STAT.STATE p = 0 →
      exec (.portReset p t) s = .next (finish (startTraining (downPort u p 0) p))) ∧
    (portLive u p = false → u.flag R.PORT_CTL.ENABLE p = false → exec (.portReset p t) s = .next (finish u))) ∧
  (∀ (s : State) (p t lanes v : Nat) (c : List Nat), s.pow.st = .on → (atTime s t).fld R.PORT_STAT.STATE p = 1 →
    ((atTime s t).port p).hello = some (lanes, v, c) →
    let u := atTime s t
    (v ≠ u.fld R.PORT_CTL.VARIANT p → exec (.trainingDone p true t) s = .next (finish (trainFails u p false))) ∧
    exec (.trainingDone p false t) s = .next (finish (trainFails u p false)) ∧
    (v = u.fld R.PORT_CTL.VARIANT p → miswired u p = true → exec (.trainingDone p true t) s = .next (finish (trainFails u p true))) ∧
    (∀ w, v = u.fld R.PORT_CTL.VARIANT p → miswired u p = false →
      widthOf (Nat.land lanes (lanesOf u p)) (u.fld R.PORT_CTL.MAX_WIDTH p) = some w →
      exec (.trainingDone p true t) s = .next (finish (bringUp u p w c))) ∧
    (v = u.fld R.PORT_CTL.VARIANT p → miswired u p = false → widthOf (Nat.land lanes (lanesOf u p)) (u.fld R.PORT_CTL.MAX_WIDTH p) = none →
      exec (.trainingDone p true t) s = .next (finish (trainFails u p false)))) ∧
  (∀ (s : State) (p t : Nat) (ok : Bool), s.pow.st = .on →
    let u := atTime s t
    (u.fld R.PORT_STAT.STATE p = 1 → (u.port p).hello = none → exec (.trainingDone p ok t) s = .next (finish (trainFails u p false))) ∧
    (u.fld R.PORT_STAT.STATE p ≠ 1 → exec (.trainingDone p ok t) s = .next (finish u))) ∧
  (∀ (s : State) (p t : Nat), s.pow.st = .on →
    let u := atTime s t
    let sent (hops locked : Nat) : State := sendIdles (emitControl u p 0x02
      (leBytes 7 0 ++ leBytes 8 u.time256 ++ leBytes 8 (u.port p).syncTx ++ leBytes 8 (u.port p).syncRx ++ leBytes 1 hops ++ leBytes 1 locked)) p
    (portUp u p = false → exec (.syncPeriod p t) s = .next (finish u)) ∧
    (portUp u p = true → u.flag R.TIME_CTL.ROOT = true → exec (.syncPeriod p t) s = .next (finish (sent 0 1))) ∧
    (portUp u p = true → u.flag R.TIME_CTL.ROOT = false → u.flag R.TIME_STAT.LOCKED = true →
      exec (.syncPeriod p t) s = .next (finish (sent (u.fld R.TIME_STAT.HOPS) 1))) ∧
    (portUp u p = true → u.flag R.TIME_CTL.ROOT = false → u.flag R.TIME_STAT.LOCKED = false →
      exec (.syncPeriod p t) s = .next (finish (sent 63 0)))) ∧
  (∀ (s : State) (p : Nat), s.pow.st = .on →
    (s.fld R.PORT_STAT.STATE p = 1 ∨ (portHalted s p = true ∧ (s.port p).reform = true) → (s.port p).hello = none →
      exec (.helloRepeat p) s = .next (finish (sendHello s p))) ∧
    (∀ h, (s.port p).hello = some h → exec (.helloRepeat p) s = .next (finish s))) ∧
  (∀ (s : State) (t : Nat), s.pow.st = .on →
    (∀ a, (atTime s t).fab.holdover = some a → (atTime s t).flag R.TIME_STAT.HOLDOVER = true → a + 1000000 ≤ (atTime s t).now →
      exec (.holdoverExpiry t) s = .next (finish ((atTime s t).setFld R.TIME_STAT.IN_SPEC 0))) ∧
    ((atTime s t).fab.holdover = none → exec (.holdoverExpiry t) s = .next (finish (atTime s t))))

/-- With the module on, for each packet command of its TYPE, a packet that reads or writes memory (WRITE, HANDOFF_RECORD, WRITE_IMM, READ, ATOMIC,
ATOMIC_COMB) meeting first the storage errors it names, with its tile failure events after it: a header and payload that are not a valid packet are
discarded and counted in EP_BAD_CNT; a valid packet for another node goes on to the fabric; one for this node that was truncated is discarded; an
untruncated request is admitted, a combined atomic is run, an answer is taken up; a FLOW_RESET restarts its flow's target, where it has one, at the
PSN it carries and is then admitted. -/
def Obligations.PacketsArrive : Prop :=
  (∀ (s : State) (port vc t : Nat) (h d : List (BitVec 8)) (k : Option CopyMsg) (e : Errs), s.pow.st = .on → parsePkt h d = none →
    let a := atTime (withTlp e.host s) t
    let m := atTime (pktBatts e.batts h d (errsModule e (t0Words e.t0 a))) t
    let bad := Host.Outcome.next (finish ((atTime s t).incFld R.EP_BAD_CNT.COUNT))
    let badE := Host.Outcome.next (finish (t0Fails e.t0 a (m.incFld R.EP_BAD_CNT.COUNT)))
    exec (.write port vc h d k e t) s = badE ∧ exec (.handoffRecord port vc h d e t) s = badE ∧ exec (.writeImm port vc h d e t) s = badE ∧
    exec (.read port vc h d e t) s = badE ∧ exec (.atomic port vc h d e t) s = badE ∧ exec (.atomicComb port vc h d e t) s = badE ∧
    exec (.absorb port vc h d t) s = bad ∧ exec (.partialPkt port vc h d t) s = bad ∧ exec (.ack port vc h d t) s = bad ∧
    exec (.readData port vc h d t) s = bad ∧ exec (.atomicData port vc h d t) s = bad ∧ exec (.retry port vc h d t) s = bad ∧
    exec (.noRoute port vc h d t) s = bad ∧ exec (.flowReset port vc h d t) s = bad) ∧
  (∀ (s : State) (port vc t : Nat) (h d : List (BitVec 8)) (k : Option CopyMsg) (e : Errs) (p : Pkt), s.pow.st = .on → parsePkt h d = some p →
    let a := atTime (withTlp e.host s) t
    let m := atTime (pktBatts e.batts h d (errsModule e (t0Words e.t0 a))) t
    let u := atTime s t
    let at_ (v : State) (q : Pkt) (r : State) : State :=
      if q.dst = v.node then (if q.trunc then v else r) else (transit v port vc q).getD v
    let ends (q : Pkt) (r : State) := Host.Outcome.next (finish (at_ u q r))
    let endsE (q : Pkt) (r : State) := Host.Outcome.next (finish (t0Fails e.t0 a (at_ m q r)))
    let admitted (v : State) (q : Pkt) := (admitReq v (port / 8) q).getD v
    let q : Pkt := { p with copy := none }
    (p.ty = 1 → exec (.write port vc h d k e t) s = endsE { p with copy := k } (admitted m { p with copy := k }) ∧
      exec (.handoffRecord port vc h d e t) s = endsE q (admitted m q)) ∧
    (p.ty = 2 → exec (.writeImm port vc h d e t) s = endsE q (admitted m q)) ∧
    (p.ty = 3 → exec (.read port vc h d e t) s = endsE q (admitted m q)) ∧
    (p.ty = 4 → exec (.atomic port vc h d e t) s = endsE q (admitted m q)) ∧
    (p.ty = 5 → exec (.atomicComb port vc h d e t) s = endsE q ((runComb m q).getD m)) ∧
    (p.ty = 6 → exec (.absorb port vc h d t) s = ends q (admitted u q)) ∧ (p.ty = 7 → exec (.partialPkt port vc h d t) s = ends q (admitted u q)) ∧
    (p.ty = 0x20 → exec (.ack port vc h d t) s = ends q (takeResponse (passAnswer u q) q)) ∧
    (p.ty = 0x21 → exec (.readData port vc h d t) s = ends q (takeResponse (passAnswer u q) q)) ∧
    (p.ty = 0x22 → exec (.atomicData port vc h d t) s = ends q (takeResponse (passAnswer u q) q)) ∧
    (p.ty = 0x23 → exec (.retry port vc h d t) s = ends q (takeResponse (passAnswer u q) q)) ∧
    (p.ty = 0x24 → exec (.noRoute port vc h d t) s = ends q (takeResponse (passAnswer u q) q)) ∧
    (p.ty = 10 → p.epLayer = false →
      (∀ c, getConn u (.flow p.src) = some c →
        let v := setConn u (.flow p.src) { c with exp := p.psn, ran := [], results := [], late := [], fenced := [] }
        exec (.flowReset port vc h d t) s = ends p (admitted v p)) ∧
      (getConn u (.flow p.src) = none → exec (.flowReset port vc h d t) s = ends p (admitted u p))))

/-- At a stream whose state is resident, a request whose PSN lies 128 or more above EXP, or is not among the last 128 executed, is dropped and counted;
one already executed is answered as a duplicate and not executed again; a fenced one ahead of EXP waits; any other is run. A request for no endpoint
or for another generation is answered ST_INVALID and counted; one whose source is not the endpoint's peer is discarded. An epoch equal to the module's
is executed, the previous one only while its drain window is open, a newer one is held, and any other is stale. -/
def Obligations.RequestsOnce : Prop :=
  (∀ (s : State) (i : ConnId) (e : Option Endpoint) (p : Pkt) (c : Conn), getConn (touchConn s i) i = some c →
    let u := touchConn s i
    let d := psnSub p.psn c.exp
    (Tab.find? p.psn c.ran = none → 128 ≤ d → handleReq s i e p = some (u.incFld R.EP_WINDOW_DROP_CNT.COUNT)) ∧
    (∀ st, Tab.find? p.psn c.ran = some st → 128 ≤ d → d < 2 ^ 24 - 128 → handleReq s i e p = some (u.incFld R.EP_WINDOW_DROP_CNT.COUNT)) ∧
    (∀ st, Tab.find? p.psn c.ran = some st → (d < 128 ∨ 2 ^ 24 - 128 ≤ d) → handleReq s i e p = some (answerDup u i e p c st)) ∧
    (Tab.find? p.psn c.ran = none → d < 128 → p.fence = true → d ≠ 0 →
      handleReq s i e p = some (setConn u i { c with fenced := c.fenced.filter (fun q => q.psn != p.psn) ++ [p] })) ∧
    (Tab.find? p.psn c.ran = none → d < 128 → (p.fence = false ∨ d = 0) → handleReq s i e p = (runReq u i e p).map (runFenced i 256))) ∧
  (∀ (s : State) (die : Nat) (p : Pkt), p.epLayer = true →
    (s.endp? (p.ep % 2 ^ 20) = none → admitReq s die p = some (answerGone s p)) ∧
    (∀ e, s.endp? (p.ep % 2 ^ 20) = some e → e.gen ≠ p.ep / 2 ^ 20 → admitReq s die p = some (answerGone s p)) ∧
    (∀ e, s.endp? (p.ep % 2 ^ 20) = some e → e.gen = p.ep / 2 ^ 20 → e.node ≠ p.src → admitReq s die p = some s)) ∧
  (∀ (s : State) (r : Nat), r < 2 ^ 16 → s.epoch < 2 ^ 16 →
    (r = s.epoch → epochSays s r = .run) ∧
    (r ≠ s.epoch → r = s.fld R.MER_CUR.PREV → s.flag R.MER_STAT.DRAINING = true → epochSays s r = .run) ∧
    (r ≠ s.epoch → r = s.fld R.MER_CUR.PREV → s.flag R.MER_STAT.DRAINING = false → epochSays s r = .stalePrev) ∧
    (r ≠ s.fld R.MER_CUR.PREV → 1 ≤ (r + 2 ^ 16 - s.epoch) % 2 ^ 16 → (r + 2 ^ 16 - s.epoch) % 2 ^ 16 ≤ 2 ^ 15 → epochSays s r = .hold) ∧
    (r ≠ s.fld R.MER_CUR.PREV → 2 ^ 15 < (r + 2 ^ 16 - s.epoch) % 2 ^ 16 → epochSays s r = .stale)) ∧
  (∀ (s : State) (i : ConnId) (x : SentPkt) (hint : Nat),
    let l := s.fld R.EP_TIMING.RNR_LIMIT
    (l ≠ 15 → l ≤ x.rnr + 1 → takeRetry s i x hint = takeStatus s i x .retryLater) ∧
    ((l = 15 ∨ x.rnr + 1 < l) → takeRetry s i x hint = updConn s i (fun c => { c with sent := c.sent.map (fun (y : SentPkt) =>
      if y.pkt.psn = x.pkt.psn then { y with rnr := y.rnr + 1, hold := some (s.now + hint * 1000) } else y) })))

/-- With the module on: a packet whose back-off has passed is sent again, and before that nothing happens; when the acknowledgement timeout has passed for
a stream, every unanswered packet that does not back off is sent again and counted, or, at RETRY_LIMIT, the stream is exhausted; before it nothing
happens; a fetch that completes makes the state resident and handles what waited in order; one that has not completed 50 us after a packet arrived
answers that packet RETRY and logs 0x16; a request of a newer epoch held for MER_DRAIN is answered ST_RETRY_LATER, logged as 0x1E and counted. -/
def Obligations.TransportTimers : Prop :=
  (∀ (s : State) (b : Bool) (n q t : Nat) (x : SentPkt), s.pow.st = .on → sentOf (atTime s t) (connOf b n) q = some x →
    let u := atTime s t
    (x.hold = none → exec (.retryBackoffExpiry b n q t) s = .next (finish u)) ∧
    (∀ a, x.hold = some a → u.now < a → exec (.retryBackoffExpiry b n q t) s = .next (finish u)) ∧
    (∀ a, x.hold = some a → a ≤ u.now →
      let v := updConn u (connOf b n) (fun c => { c with sent := c.sent.map (fun (y : SentPkt) =>
        if y.pkt.psn = q then { y with hold := none, since := u.now } else y) })
      exec (.retryBackoffExpiry b n q t) s = .next (finish (sendPkt v ((work? v x.work).map (·.fn)) x.pkt)))) ∧
  (∀ (s : State) (b : Bool) (n t : Nat) (c : Conn), s.pow.st = .on → getConn (atTime s t) (connOf b n) = some c →
    let u := atTime s t
    let i := connOf b n
    let due := c.sent.any (fun x => x.hold.isNone && decide (x.since + u.fld R.EP_TIMING.ACK_TIMEOUT * 1000 ≤ u.now))
    let out := c.sent.any (fun x => x.hold.isNone && decide (u.fld R.EP_TIMING.RETRY_LIMIT ≤ x.tries))
    (due = false → exec (.ackTimeout b n t) s = .next (finish u)) ∧
    (due = true → out = true → exec (.ackTimeout b n t) s = .next (finish (exhausted u i))) ∧
    (due = true → out = false →
      let v := setConn u i { c with sent := c.sent.map (fun (x : SentPkt) =>
        if x.hold.isNone then { x with tries := x.tries + 1, since := u.now } else x) }
      exec (.ackTimeout b n t) s = .next (finish ((c.sent.filter (fun x => x.hold.isNone)).foldl
        (fun s x => sendPkt s ((work? s x.work).map (·.fn)) x.pkt) v)))) ∧
  (∀ (s : State) (n t : Nat) (c : Conn), s.pow.st = .on → getConn (atTime s t) (.flow n) = some c →
    let u := atTime s t
    (c.fetching = false → exec (.missFetchDone false n t) s = .next (finish u)) ∧
    (c.fetching = true → c.missq = [] →
      exec (.missFetchDone false n t) s = .next (finish (bringIn (setConn u (.flow n) { c with missq := [] }) (.flow n)))) ∧
    (c.missq.all (fun q => decide (u.now < q.1 + 50000)) = true → exec (.missFetchTimeout false n t) s = .next (finish u)) ∧
    (∀ q, c.fetching = true → c.missq = [q] → q.1 + 50000 ≤ u.now →
      let v := setConn u (.flow n) { c with missq := [] }
      exec (.missFetchTimeout false n t) s =
        .next (finish (answerRetry (logModule v (entry0 v 0x16 .retryLater 0)) none q.2.2)))) ∧
  (∀ (s : State) (t : Nat), s.pow.st = .on →
    (s.tr.newer = [] → s.attn.colls = [] → s.attn.ringIn = [] → exec (.newerEpochHoldExpiry t) s = .next (finish (atTime s t))) ∧
    (∀ a p, (atTime s t).tr.newer = [(a, p)] → s.attn.colls = [] → s.attn.ringIn = [] → a + (atTime s t).fld R.MER_CTL.DRAIN * 1000 ≤ (atTime s t).now →
      p.epLayer = false → p.ty = 3 →
      let u := { atTime s t with tr := { (atTime s t).tr with newer := [] } }
      let v := u.incFld R.MER_LAG_CNT.COUNT
      let w := logModule v (entry0 v 0x1E .retryLater 0)
      exec (.newerEpochHoldExpiry t) s =
        .next (finish (answerReq (recordRan w (.flow p.src) p .retryLater [] false) (.flow p.src) none p .retryLater []))))

/-- With the module on, a function-level reset and D3hot to D0 begin the reset of their function, RESET_DONE ends it with its event, a link-down, which
tells whether the host reference is in tolerance, and a hot reset are a host reset, and a lost fabric reference logs 0x1D and ends in a module reset
that is held. In any state: PERST_N is a host reset where the module is on; a module reset and RESET_N low for 1 us with PWR_EN high are a module
reset, which does nothing in Off, and else clears the module and starts it, leaves it out of service without verified firmware, or holds it without
the fabric reference; a shorter pulse does nothing; a fabric reference that returns starts a held module; PWR_EN falling and POWER_OFF go to Off with
persisting; LEAK_N low for 10 us goes to Off and latches; a thermal trip of a module that is not off goes to Off and latches; an input fault goes to
Off without persisting; THERM_TRIP_N is released 10 ms after PWR_EN fell; a cold start of a module that is not off does nothing, one without the
management oscillator sets the pins alone, and one that nothing bars raises PWR_GOOD and starts the newest verified firmware, with 0x1D and held
without the fabric reference. -/
def Obligations.ResetCommands : Prop :=
  (∀ (s : State) (f : Nat), s.pow.st = .on → f < 64 →
    exec (.initiateFlr f) s = .next (finish (flrBegin f s)) ∧ exec (.d3hotToD0 f) s = .next (finish (flrBegin f s)) ∧
    ((s.fnHost f).resetting = none → exec (.resetDone f) s = .next (finish s)) ∧
    (∀ n, (s.fnHost f).resetting = some n → exec (.resetDone f) s = .next (finish (flrDone f s)))) ∧
  (∀ (s : State), s.pow.st = .on →
    (∀ r, exec (.dlDown r) s = .next (finish (hostReset (hostRefIs s r)))) ∧ exec .hotReset s = .next (finish (hostReset s)) ∧
    exec .perstN s = .next (finish (hostReset { s with pins := { s.pins with perstN := false } })) ∧
    exec .fabricReferenceLost s =
      .next (finish (moduleReset 3 false [] false (logModule s { entry0 s 0x1D .ok 0 with unitKind := 11 })))) ∧
  (∀ (s : State), (s.pow.st ≠ .on → exec .perstN s = .next (finish { s with pins := { s.pins with perstN := false } })) ∧
    exec .perstNRelease s = .next (finish { s with pins := { s.pins with perstN := true } })) ∧
  (∀ (s : State) (fs : List Nat) (e : Bool),
    exec (.moduleReset fs e) s = .next (finish (moduleReset 2 (s.pow.st ≠ .held) fs e (answerOp s true))) ∧
    (∀ n, n < 1000 ∨ s.pins.pwrEn = false → exec (.resetN n fs e) s = .next (finish s)) ∧
    (∀ n, 1000 ≤ n → s.pins.pwrEn = true → exec (.resetN n fs e) s = .next (finish (moduleReset 1 (s.pow.st ≠ .held) fs e s))) ∧
    (s.pow.st = .held → exec (.fabricReferenceReturn fs e) s = .next (finish (startUp fs e s))) ∧
    (s.pow.st ≠ .held → exec (.fabricReferenceReturn fs e) s = .next (finish s)) ∧
    (∀ n l r j, s.pow.st ≠ .off → exec (.coldStart n l r j fs e) s = .next (finish s)) ∧
    (∀ n l r j, s.pow.st = .off → exec (.coldStart n l r j fs e) s = .next (finish (coldStart n l r j fs e s)))) ∧
  (∀ (s : State) (c : Nat) (r e : Bool) (fs : List Nat),
    let t := sampleSlot (cleared (persistWork s) s.pow.st c)
    (s.pow.st = .off → moduleReset c r fs e s = s) ∧
    (s.pow.st ≠ .off → verifiedSlot s = none → moduleReset c r fs e s = outOfService t 0x1B 10) ∧
    (∀ k, s.pow.st ≠ .off → verifiedSlot s = some k → moduleReset c true fs e s = startUp fs e t ∧
      moduleReset c false fs e s = t.updPow (fun p => { p with st := .held }))) ∧
  (∀ (s : State) (n j : Nat) (h e : Bool) (fs : List Nat), s.pow.st = .off →
    (∀ l r, coldStart n l (false, r, h) j fs e s = { s with pins := { s.pins with pwrEn := true, leakN := !l, hostRef := h } }) ∧
    (s.pow.needCycle = false ∨ 10000000 ≤ n → s.pins.thermTripN = true ∨ 10000000 ≤ n → s.pow.thermLatch = false ∨ j < 90 →
      let u := { s with pins := { s.pins with pwrEn := true, leakN := true, hostRef := h, thermTripN := s.pins.thermTripN || decide (10000000 ≤ n) } }
      let v := eraseClaim (cleared u .off u.pow.cause)
      let t := sampleSlot { v with pins := { v.pins with pwrGood := true } }
      (verifiedSlot t = none → ∀ r, coldStart n false (true, r, h) j fs e s = outOfService t 0x1B 10) ∧
      (∀ k, verifiedSlot t = some k →
        let w := t.updSec (fun c => { c with running := k })
        coldStart n false (true, true, h) j fs e s = startUp fs e w ∧
        coldStart n false (true, false, h) j fs e s =
          (logModule w { entry0 w 0x1D .ok 0 with unitKind := 11 }).updPow (fun p => { p with st := .held })))) ∧
  (∀ (s : State), exec .pwrEnFall s = .next (finish (goOff 0 true { s with pins := { s.pins with pwrEn := false } })) ∧
    exec .powerOff s = .next (finish (goOff 0 true (answerOp s true))) ∧
    exec (.inputFault false) s = .next (finish (goOff 4 false (logPower s))) ∧
    exec (.inputFault true) s = .next (finish (goOff 4 false (s.updSec (fun c => { c with sessions := 0 }))))) ∧
  (∀ (s : State) (n : Nat),
    (n < 10000 → exec (.leakN n) s = .next (finish s)) ∧
    (10000 ≤ n → exec (.leakN n) s = .next (finish (doLeak n s)) ∧ (doLeak n s).pow.leakLatch = true ∧ (doLeak n s).pow.needCycle = true ∧
      (doLeak n s).pins.leakN = false) ∧
    (s.pins.pwrEn = false → 10000000 ≤ n → exec (.thermTripRelease n) s = .next (finish { s with pins := { s.pins with thermTripN := true } })) ∧
    (s.pins.pwrEn = true ∨ n < 10000000 → exec (.thermTripRelease n) s = .next (finish s))) ∧
  (∀ (s : State) (c p d : Nat) (a : Bool),
    (max c p < 120 → d < 115 → exec (.thermalTrip c p d a) s = .next (finish s)) ∧
    ((120 ≤ max c p ∨ 115 ≤ d) → s.pow.st ≠ .off → exec (.thermalTrip c p d a) s = .next (finish (doThermalTrip c p d a s)) ∧
      (doThermalTrip c p d a s).pow.thermLatch = true ∧ (doThermalTrip c p d a s).pow.cause = 5 ∧
      (doThermalTrip c p d a s).pins.thermTripN = false ∧ (doThermalTrip c p d a s).pow.st = .off)) ∧
  (∀ (s : State),
    exec .smbusStateRead s = .next (finish (s.emit (.smbus (some (leBytes 1 (smbusState s)))))) ∧
    exec .smbusFruRead s = .next (finish (s.emit (.smbus (some (fruRecord s))))) ∧
    exec .smbusPowerRead s = .next (finish (s.emit (.smbus (some (leBytes 2 (s.fld R.PWR_MEAS.WINDOW_W)))))) ∧
    exec .smbusWrite s = .next (finish (s.emit (.smbus none))))

/-- After a module reset has cleared the module, and in Off: memory, page, queue, context, transport and attention state are as after reset; the
retirement tables, the kept log entries, host memory, the membership sealed in the vault, the firmware slots and the security version survive; every
release is lost; Off drops PWR_GOOD and takes the state to off. A host reset with no function-level reset in progress keeps memory, spans, contexts,
queues, transport, attention and security state, sets the link down, disables the virtual functions and takes the MSI-X tables to default. A
function-level reset already begun is not begun again. -/
def Obligations.ResetLeaves : Prop :=
  (∀ (s : State) (st : PowSt) (c : Nat),
    let t := cleared s st c
    t.mm = State.reset.mm ∧ t.pg = State.reset.pg ∧ t.sch = State.reset.sch ∧ t.qm = State.reset.qm ∧ t.tr = State.reset.tr ∧
    t.attn = State.reset.attn ∧ t.nbu = State.reset.nbu ∧ t.tl = State.reset.tl ∧ t.fab = State.reset.fab ∧ t.mer = State.reset.mer ∧
    t.regs = State.reset.regs ∧ t.flt.retTiles = s.flt.retTiles ∧ t.flt.retNbus = s.flt.retNbus ∧ t.flt.retPcs = s.flt.retPcs ∧
    t.flt.retRanks = s.flt.retRanks ∧ t.flt.retLanes = s.flt.retLanes ∧ t.flt.kept = s.flt.kept ∧ t.host.hostMem = s.host.hostMem ∧
    t.pending = s.pending ∧ t.sec.slots = s.sec.slots ∧ t.sec.svn = s.sec.svn ∧ t.sec.claimed = s.sec.claimed ∧ t.sec.anchors = s.sec.anchors ∧
    t.sec.sealed = s.sec.sealed.map (fun p => (p.1, { p.2 with released := false })) ∧ t.pow.st = st ∧ t.pow.cause = c) ∧
  (∀ (s : State) (c : Nat) (p : Bool), (s.pow.st = .off → goOff c p s = s) ∧
    (s.pow.st ≠ .off → (goOff c p s).pow.st = .off ∧ (goOff c p s).pins.pwrGood = false ∧ (goOff c p s).mm = State.reset.mm)) ∧
  (∀ (s : State), (∀ f, (s.fnHost f).resetting = none) →
    let t := hostReset s
    t.mm = s.mm ∧ t.pg = s.pg ∧ t.sch = s.sch ∧ t.qm = s.qm ∧ t.tr = s.tr ∧ t.attn = s.attn ∧ t.sec = s.sec ∧ t.host.msix = [] ∧
      t.host.msixPba = [] ∧ t.host.numVfs = 0 ∧ t.host.linkDown = true) ∧
  (∀ (s : State) (f n : Nat), (s.fnHost f).resetting = some n → flrBegin f s = s)

/-- A close takes a session back; a connection of an unclaimed module, of bad terms or beyond four sessions is refused, one whose certificate does not
verify counts AUTH_FAIL, and a good one opens a session, with which SLOT_ID is reported; a claim needs an unclaimed module and the code, one to four
anchors and a good alias certificate, and then the module is claimed with them; a release of the claim of a claimed module is asked for; with the
module on a ceremony whose steps succeed seals a new constellation in a free slot or makes the next key generation of a sealed one with its release
lost, a removal of a sealed one erases it, a release token sets the release of its generation where the signature, the identity and the measurements
agree, and a revoke withdraws the releases of a sealed one; a change of the operator's configuration that management storage may hold is taken up and
loses every release where it changes what is measured; an image goes to the slot that does not run; COMMIT_SVN never lowers the security version; a
watchdog expiry counts, logs 0x1A and ends the sessions; a retirement entry to clear is noted. -/
def Obligations.SecurityCommands : Prop :=
  (∀ (s : State) (t c : Bool) (a : Nat),
    exec (.tlsConnect true t a c) s = .next (finish (s.updSec (fun x => { x with sessions := x.sessions - 1 }))) ∧
    (s.sec.claimed = false ∨ t = false ∨ 4 ≤ s.sec.sessions → exec (.tlsConnect false t a c) s = .next (finish (answerOp s false))) ∧
    (s.sec.claimed = true → t = true → s.sec.sessions < 4 → (c = false ∨ s.sec.anchors.contains a = false) →
      exec (.tlsConnect false t a c) s = .next (finish (authFail s))) ∧
    (s.sec.claimed = true → t = true → s.sec.sessions < 4 → c = true → s.sec.anchors.contains a = true →
      exec (.tlsConnect false t a c) s =
        .next (finish (answerOp (reportSlot (s.updSec (fun x => { x with sessions := x.sessions + 1 }))) true)))) ∧
  (∀ (s : State) (c o : Bool) (l : List Nat),
    ((s.sec.claimed = true ∨ o = false) → exec (.claim o l c) s = .next (finish (authFail s))) ∧
    (s.sec.claimed = false → o = true → (l = [] ∨ 4 < l.length) → exec (.claim o l c) s = .next (finish (answerOp (reportSlot s) false))) ∧
    (s.sec.claimed = false → o = true → l ≠ [] → l.length ≤ 4 → c = true → exec (.claim o l c) s = .next (finish (answerOp
      (((reportSlot s).emit .aliasRequest).updSec (fun x => { x with claimed := true, anchors := l, alias_ := true })) true))) ∧
    (s.sec.claimed = true → exec .releaseClaim s = .next (finish (answerOp (s.updSec (fun x => { x with releaseAsked := true })) true)))) ∧
  (∀ (s : State) (id k : Nat) (m : List Nat), s.pow.st = .on → m ≠ [] → m.length ≤ 32768 → id < 2 ^ 32 →
    (s.sec.sealed.find? (fun c => c.2.id == id) = none → pickFree s.sec.sealed 0 16 0 = some k →
      exec (.constellationCeremony id m false true) s =
        .next (finish (answerOp (s.updSec (fun x => { x with sealed := Tab.ins k ⟨id, 1, m, false⟩ x.sealed })) true))) ∧
    (∀ c, s.sec.sealed.find? (fun c => c.2.id == id) = some (k, c) → exec (.constellationCeremony id m true true) s =
      .next (finish (answerOp (s.updSec (fun x => { x with sealed := Tab.ins k ⟨id, c.keyGen + 1, m, false⟩ x.sealed, sent := if 2 ^ 64 ≤ x.sent + 1 then 0 else x.sent })) true))) ∧
    (∀ c, s.sec.sealed.find? (fun c => c.2.id == id) = some (k, c) → exec (.constellationCeremony id m false true) s = .next (finish (answerOp s false))) ∧
    (s.sec.sealed.find? (fun c => c.2.id == id) = none → exec (.constellationCeremony id m true true) s = .next (finish (answerOp s false))) ∧
    (∀ q, exec (.constellationCeremony id m q false) s = .next (finish (answerOp s false)))) ∧
  (∀ (s : State) (id : Nat), s.pow.st = .on → s.sec.sealed.any (fun c => c.2.id == id) = true →
    exec (.constellationMemberRemoval id) s = .next (finish (answerOp (s.updSec (fun x =>
      { x with sealed := x.sealed.filter (fun c => c.2.id != id) })) true)) ∧
    exec (.releaseRevoke id) s = .next (finish (answerOp (setRelease s (fun c => c.id == id) false) true))) ∧
  (∀ (s : State) (id : Nat), s.pow.st = .on → s.sec.sealed.any (fun c => c.2.id == id) = false →
    exec (.constellationMemberRemoval id) s = .next (finish (answerOp s false)) ∧ exec (.releaseRevoke id) s = .next (finish (answerOp s false))) ∧
  (∀ (s : State) (id g : Nat) (b : List (List Nat)), s.pow.st = .on →
    (b = [1, 2, 3, 4, 5, 6].map (measurement s) → (sealedSlot s id g).isSome = true → exec (.releaseToken id g true true b) s =
      .next (finish (answerOp (setRelease s (fun c => c.id == id && c.keyGen == g) true) true))) ∧
    (b ≠ [1, 2, 3, 4, 5, 6].map (measurement s) → exec (.releaseToken id g true true b) s = .next (finish (answerOp s false))) ∧
    exec (.releaseToken id g false true b) s = .next (finish (answerOp s false)) ∧
    exec (.releaseToken id g true false b) s = .next (finish (answerOp s false))) ∧
  (∀ (s : State) (a : Option (List Nat)) (p : Option (List (Nat × Nat))) (c : Option (List (Nat × (Nat × Nat)))),
    let t := s.updSec (fun x => { x with anchors := a.getD x.anchors, publishers := p.getD x.publishers, config := c.getD x.config })
    (storageOk a p = false → exec (.operatorConfigurationChange a p c) s = .next (finish (answerOp s false))) ∧
    (storageOk a p = true → operatorConfig t.sec = operatorConfig s.sec → exec (.operatorConfigurationChange a p c) s = .next (finish (answerOp t true))) ∧
    (storageOk a p = true → operatorConfig t.sec ≠ operatorConfig s.sec →
      exec (.operatorConfigurationChange a p c) s = .next (finish (answerOp (loseReleases t) true)) ∧
      ∀ q ∈ (loseReleases t).sec.sealed, q.2.released = false)) ∧
  (∀ (s : State) (v n : Nat) (o : Bool),
    exec (.firmwareInstall v n o) s = .next (finish (answerOp (s.updSec (fun c =>
      { c with slots := Tab.ins (1 - c.running) ⟨v, n, o⟩ c.slots, preferred := 1 - c.running })) true)) ∧
    exec (.clearRetirement v n) s = .next (finish (({ s with flt :=
      { s.flt with clearAsked := NSet.add (v * 65536 + n % 65536) s.flt.clearAsked } } : State).emit (.barnopa true)))) ∧
  (∀ (s : State), s.sec.svn ≤ 64 →
    exec .commitSvn s = .next (finish (answerOp (s.updSec (fun c =>
      { c with svn := min 64 (max c.svn (Tab.get ⟨0, 0, false⟩ c.running c.slots).svn) })) true)) ∧
    s.sec.svn ≤ min 64 (max s.sec.svn (Tab.get ⟨0, 0, false⟩ s.sec.running s.sec.slots).svn)) ∧
  (∀ (s : State), ∃ u : State, u = (s.incFld R.BRIM_STAT.WATCHDOG).updSec (fun c => { c with sessions := 0 }) ∧
    exec .watchdogExpiry s = .next (finish (logModule u { entry0 u 0x1A .ok 0 with unitKind := 10 })))

/-- With the module on: the responder answers each request of its table with what the table gives, the certificate and challenge of an empty slot and a
measurement index outside 1 to 7 and 255 with an error, and any other request as unsupported. A replica transfer under a key that is not released
answers ST_KEY_UNAVAILABLE; a sender answers how its packets went, or ST_PROTECTION where it has no such region; a receiver places the packets, as
poison where a tag failed or they carry it, and answers ST_OK, ST_POISON or ST_INVALID, or ST_RETRY_LATER without frames. A bundle piece with a bad
descriptor or an unknown handle answers ST_INVALID, at an offset that is not the bytes accepted it gives up the bundle, one whose host bytes cannot be
read answers ST_PROTECTION, one that comes in poisoned TLPs ST_POISON, one whose checks fail gives up the bundle, one without room waits for a frame,
and a good one answers the handle and the bytes accepted. A bad header and a bundle of a key that is not released fail their checks. -/
def Obligations.AttestationAndReplicas : Prop :=
  (∀ (s : State) (f : Nat), s.pow.st = .on →
    let ans (r : SpdmReply) := Host.Outcome.next (finish (s.emit (.spdm f r)))
    exec (.getVersion f) s = ans (.version 1 3) ∧ exec (.getCapabilities f) s = ans (.capabilities true true true true) ∧
    exec (.negotiateAlgorithms f) s = ans .algorithms ∧ exec (.getDigests f) s = ans (.digests ([0, 1].filter (certSlot s))) ∧
    (∀ k, certSlot s k = true → exec (.getCertificate f k) s = ans (.certificate k)) ∧
    (∀ k, certSlot s k = false → exec (.getCertificate f k) s = ans .invalid) ∧
    (∀ k n, certSlot s k = true → exec (.challenge f k n) s = ans (.challengeAuth k n)) ∧
    (∀ k n, certSlot s k = false → exec (.challenge f k n) s = ans .invalid) ∧
    (∀ i g n, 1 ≤ i → i ≤ 7 → exec (.getMeasurements f i g n) s = ans (.measurements g n [(i, measurement s i)])) ∧
    (∀ g n, exec (.getMeasurements f 255 g n) s = ans (.measurements g n ([1, 2, 3, 4, 5, 6, 7].map (fun i => (i, measurement s i))))) ∧
    (∀ i g n, (i = 0 ∨ 7 < i) → i ≠ 255 → exec (.getMeasurements f i g n) s = ans .invalid) ∧
    exec (.spdmUnsupportedRequest f) s = ans .unsupported) ∧
  (∀ (s : State) (f node id g base : Nat) (ps : List (List (BitVec 8) × Bool × Bool)) (r : Region), s.pow.st = .on →
    (keyStatus s id g ≠ .ok → exec (.restoreFromReplica false f node id g base ps) s = .next (finish (s.emit (.restored node 0 .keyUnavailable)))) ∧
    (s.mm.regions.find? (fun r => r.base == base && r.kind == .bundle) = none →
      exec (.restoreFromReplica true f node id g base ps) s = .next (finish (s.emit (.restored node base .protection)))) ∧
    (s.mm.regions.find? (fun r => r.base == base && r.kind == .bundle) = some r → keyStatus s id g ≠ .ok →
      exec (.restoreFromReplica true f node id g base ps) s = .next (finish (s.emit (.restored node base .keyUnavailable)))) ∧
    (s.mm.regions.find? (fun r => r.base == base && r.kind == .bundle) = some r → keyStatus s id g = .ok →
      let b := pread s base r.size
      let t := sendLink node id g (cutPackets (r.size + 1) b) s
      exec (.restoreFromReplica true f node id g base ps) s = .next (finish (t.1.emit (.restored node base (t.2.worse (psnStatus (anyPsn b)))))))) ∧
  (∀ (s : State) (f node id g base : Nat) (ps : List (List (BitVec 8) × Bool × Bool)), s.pow.st = .on → keyStatus s id g = .ok →
    let new := makeRegion s f ((ps.map (fun p => p.1.length)).foldl (· + ·) 0) .bundle 0 base
    (new = none → exec (.restoreFromReplica false f node id g base ps) s = .next (finish (s.emit (.restored node 0 .retryLater)))) ∧
    (∀ a t, new = some (a, t) → exec (.restoreFromReplica false f node id g base ps) s = .next (finish
      ((pwrite' t a (ps.flatMap (fun p => p.1.map (fun b => (b, !p.2.1 || p.2.2))))).emit (.restored node a
        (if ps.all (fun p => p.2.1) then psnStatus (ps.any (fun p => p.2.2)) else .invalid)))))) ∧
  (∀ (s : State) (f r n pick : Nat) (so uo : Bool) (secs : List (Bool × List (BitVec 8))) (fs : List Nat) (tlp : List (Nat × Nat)) (d : List (BitVec 8)),
    s.pow.st = .on → takeDesc s f r n 0x21 = some d →
    let w := withTlp tlp s
    let run := exec (.bundleLoad f r n pick so uo secs fs tlp) s
    let given := fieldAt d 32 4
    (1 < fieldAt d 36 1 ∨ zeroAt d 37 27 = false → run = .next (finish (complete w f r n .invalid))) ∧
    (fieldAt d 36 1 ≤ 1 → zeroAt d 37 27 = true → given ≠ 0 → Tab.find? given s.sec.bundles = none → run = .next (finish (complete w f r n .invalid))) ∧
    (∀ (h : Nat) (u : BundleSt), fieldAt d 36 1 ≤ 1 → zeroAt d 37 27 = true →
      (given = 0 ∧ pickFree s.sec.bundles 1 (2 ^ 32) pick = some h ∧ u = ⟨f, [], false, 0, []⟩) ∨
      (given ≠ 0 ∧ h = given ∧ Tab.find? given s.sec.bundles = some u ∧ u.fn = f) →
      (fieldAt d 24 8 ≠ u.bytes.length → run = .next (finish (complete (abandonBundle w h) f r n .invalid))) ∧
      (fieldAt d 24 8 = u.bytes.length →
        (hostRead w f (fieldAt d 8 8) (fieldAt d 16 8) = none → run = .next (finish (complete w f r n .protection))) ∧
        (∀ bs, hostRead w f (fieldAt d 8 8) (fieldAt d 16 8) = some bs →
          (hostPsn w (fieldAt d 8 8) (fieldAt d 16 8) = true → run = .next (finish (complete w f r n .poison))) ∧
          (hostPsn w (fieldAt d 8 8) (fieldAt d 16 8) = false →
            let b := u.bytes ++ bs
            let t := w.updSec (fun c => { c with bundles := Tab.ins h { u with bytes := b } c.bundles })
            let e := checkPiece f h u.bytes.length b u.checked (fieldAt d 36 1 == 1) so uo secs fs t
            (∀ st, e = .failed st → run = .next (finish (complete (endWait (abandonBundle t h) (.desc f r n)) f r n st))) ∧
            (e = .noRoom → run = .next (finish (waitFrame w (.desc f r n) false []))) ∧
            (∀ v, e = .taken v → run = .next (finish (complete (endWait (if fieldAt d 36 1 == 1 then finishBundle v h else v) (.desc f r n)) f r n .ok 0
              (leBytes 4 h ++ List.replicate 4 0#8 ++ leBytes 8 b.length))))))))) ∧
  (∀ (f h old : Nat) (b : List (BitVec 8)) (wc last so uo : Bool) (secs : List (Bool × List (BitVec 8))) (fs : List Nat) (s : State),
    (256 ≤ b.length → Machine.headerOk b = false → checkPiece f h old b wc last so uo secs fs s = .failed .invalid) ∧
    (b.length < 256 → last = false → checkPiece f h old b wc last so uo secs fs s = .taken s) ∧
    (256 ≤ b.length → Machine.headerOk b = true → b.length ≤ fieldAt b 72 8 → manifestEnd b ≤ b.length → manifestOk b = true → wc = false →
      last = false → so = true → (Tab.find? (fieldAt b 68 1) s.sec.publishers).isSome = true →
      keyStatus s (fieldAt b 16 4) (fieldAt b 20 4) ≠ .ok → checkPiece f h old b wc last so uo secs fs s = .failed .keyUnavailable))

/-- R313 to R315, R322, R326. That a map is held until the first is staged after a reset is R313's After reset; the waiting of REBUILD for a frame is the
model's (see the assumption log). -/
def Obligations.EpochCommands : Prop :=
  (∀ (s : State) (e a t : Nat) (lost : List Nat) (gs ms ts : List (Nat × Nat)), s.pow.st = .on →
    let u := atTime s t
    let d := (e + 65536 - u.epoch) % 65536
    let m : FabMap := ⟨e, a % 2 ^ 64, lost.foldr NSet.add [], gs, ms, ts⟩
    (e < 65536 → u.mer.held = true → (d = 0 ∨ 32768 < d) → exec (.mapStage e a lost gs ms ts t) s = .next (finish (u.emit (.barnopa false)))) ∧
    (e < 65536 → (u.mer.held = false ∨ (1 ≤ d ∧ d ≤ 32768)) → a % 2 ^ 64 ≤ (u.emit (.barnopa true)).now →
      exec (.mapStage e a lost gs ms ts t) s = .next (finish (applyMap (u.emit (.barnopa true)) m))) ∧
    (e < 65536 → (u.mer.held = false ∨ (1 ≤ d ∧ d ≤ 32768)) → (u.emit (.barnopa true)).now < a % 2 ^ 64 →
      ∃ v, exec (.mapStage e a lost gs ms ts t) s = .next (finish v) ∧ v.mer = { u.mer with staged := some m } ∧
        v.fld R.MER_STAT.STAGED = 1 ∧ v.fld R.MER_STAT.STAGED_EPOCH = e ∧ v.fld R.MER_APPLY.APPLY_AT = a % 2 ^ 64 ∧
        v.epoch = u.epoch ∧ v.out = u.out ++ [.barnopa true])) ∧
  (∀ (s : State) (t : Nat), s.pow.st = .on →
    let u := atTime s t
    (∀ m, u.mer.staged = some m → m.applyAt ≤ u.now → exec (.mapApply t) s = .next (finish (applyMap u m))) ∧
    ((∀ m, u.mer.staged = some m → u.now < m.applyAt) → exec (.mapApply t) s = .next (finish u)) ∧
    (u.fld R.MER_STAT.DRAINING = 1 → u.mer.drainEnd ≤ u.now →
      ∃ v, exec (.drainWindowClose t) s = .next (finish v) ∧ v.fld R.MER_STAT.DRAINING = 0 ∧ v.mer = u.mer ∧ v.epoch = u.epoch) ∧
    ((u.fld R.MER_STAT.DRAINING ≠ 1 ∨ u.now < u.mer.drainEnd) → exec (.drainWindowClose t) s = .next (finish u))) ∧
  (∀ (s : State) (m : FabMap), m.epoch < 65536 →
    let v := moveEpoch s m
    let stop := m.applyAt + s.fld R.MER_CTL.DRAIN * 1000
    v.epoch = m.epoch ∧ v.fld R.MER_CUR.PREV = s.epoch % 65536 ∧ v.mer = { staged := none, held := true, targets := m.targets, drainEnd := stop } ∧
    v.fld R.MER_STAT.STAGED = 0 ∧ (v.fld R.MER_STAT.DRAINING = 1 ↔ s.now < stop) ∧
    (∀ n, n < 32768 → nodeLost v n = m.lost.contains n) ∧
    (∀ g, g < 256 → v.fld R.ROUTE_GROUP.PORTS g = ((Tab.find? g m.groups).getD 0) % 65536 ∧
      v.fld R.ROUTE_GROUP.VALID g = ((Tab.find? g m.groups).getD 0) / 65536 % 2) ∧
    (∀ g, g < 128 → v.fld R.ROUTE_MEMBER.PORTS g = ((Tab.find? g m.members).getD 0) % 65536 ∧
      v.fld R.ROUTE_MEMBER.VALID g = ((Tab.find? g m.members).getD 0) / 65536 % 2) ∧
    applyMap s m = pumpFabric (ringReplay (retryNewer (collMapApplied
      (borrowersLost (lendersLost (copiesLost (streamsLost (ringsLost (attnLost v)))))))) none)) ∧
  (∀ (s : State) (node old fn gen mode span base : Nat) (body : List (BitVec 8)) (mems lost : List Nat)
      (rows : List ((Nat × Nat) × List (Nat × List (BitVec 8)))) (scales : List (Nat × (Nat × Nat))), s.pow.st = .on →
    (Tab.find? node s.mer.targets = none ∨ nodeLost s node = false →
      exec (.rebuild true node old fn body gen mode mems lost rows scales span base) s = .next (finish s)) ∧
    (∀ t, Tab.find? node s.mer.targets = some t → nodeLost s node = true →
      ∃ v, exec (.rebuild true node old fn body gen mode mems lost rows scales span base) s = .next (finish v) ∧
        v.out = s.out ++ (withHeld s node old rows).map (fun q => .rebuildRow t node old q.1.1 q.1.2 (recoverRow lost q.2)) ∧
        v = { s with out := v.out }) ∧
    (let f := if fn ≤ s.host.numVfs then fn else 0
     let run := exec (.rebuild false node old fn body gen mode mems lost rows scales span base) s
     ∀ (x : Span) (mm : Prot) (k a : Nat), parseSpan f (List.replicate 8 0#8 ++ padTo 56 body) = some x → protOf mode = some mm →
      pickFree s.pg.spans 0 262144 span = some k → findExtent s (x.pages * 65536) base = some a →
      let rs := (rows.map (fun q => (q.1, recoverRow lost q.2))).filter (fun q => q.1.1 < x.layerSlots ∧ q.1.2 < x.maxTokens)
      let h := rowsInAll x.layerSlots (rs.map (·.1)) x.maxTokens 0
      let y := { x with base := a, start := placementStart s, pin := false, prot := mm, horizon := h, appended := h, gen := (gen + 1) % 2 ^ 32 }
      let placed := placeRows k y (rs.filter (fun q => q.1.2 < h)) (s.setSpan k y)
      (placed = none → run = .next (finish s)) ∧
      (∀ t, placed = some t →
        let u := setScales t k scales
        let v := if mm = .none then u else { u with pg := { u.pg with prot := Tab.ins k mems u.pg.prot } }
        let e : LogEntry := { entry0 v 0x1F .ok f with object := k, detail := leBytes 2 node ++ leBytes 4 old ++ leBytes 4 k }
        run = .next (finish (sendRows (logFn v f e) k 0 h (List.range x.layerSlots)))))) ∧
  (∀ (s : State) (f t : Nat), s.pow.st = .on →
    let u := atTime s t
    ((u.fnHost f).logAdded = 0 ∨ u.now < (u.fnHost f).logEvt + 1000000 → exec (.errorLogEvent f t) s = .next (finish u)) ∧
    ((u.fnHost f).logAdded ≠ 0 → (u.fnHost f).logEvt + 1000000 ≤ u.now → ∃ st : Status,
      exec (.errorLogEvent f t) s = .next (finish (raiseEvent
        (u.setFnHost f { u.fnHost f with logAdded := 0, logEvt := u.now }) f 2 st (leBytes 4 (u.fnHost f).logAdded))) ∧
      (∀ e, (u.fnLog f).entries.getLast? = some e → st = e.status)))

/-- R320's parity_update, rebuild_one and rebuild_two. The case of a data member and P0 is inferred from its sentence that a coded group survives the loss
of any two of its ten members (see the assumption log). -/
def Obligations.RebuildRecovers : Prop :=
  ∀ (n : Nat) (ms : List (Nat × List (BitVec 8))), (∀ q ∈ ms, q.1 < 8 ∧ q.2.length = n) →
    let parity := fun (l : List (Nat × List (BitVec 8))) =>
      l.foldl (fun p q => parityUpdate p.1 p.2 q.1 q.2) (List.replicate n 0#8, List.replicate n 0#8)
    let p0 := (parity ms).1
    let p1 := (parity ms).2
    (∀ ms', ms'.Perm ms → parity ms' = parity ms) ∧
    (∀ (i : Nat) (d d' : List (BitVec 8)) (others : List (Nat × List (BitVec 8))), ms.Perm ((i, d) :: others) → d'.length = n →
      parityUpdate p0 p1 i (rowXor d d') = parity ((i, d') :: others)) ∧
    (∀ (i : Nat) (d : List (BitVec 8)) (others : List (Nat × List (BitVec 8))), ms.Perm ((i, d) :: others) →
      rebuildOne p0 (others.map (·.2)) = d ∧
      (∀ got, got.Perm ((8, p0) :: (9, p1) :: others) → recoverRow [i] got = d) ∧
      (∀ got, got.Perm ((9, p1) :: others) → recoverRow [i, 8] got = d)) ∧
    (∀ (i j : Nat) (d e : List (BitVec 8)) (others : List (Nat × List (BitVec 8))), ms.Perm ((i, d) :: (j, e) :: others) → i ≠ j →
      rebuildTwo p0 p1 others i j = (d, e) ∧
      (∀ got, got.Perm ((8, p0) :: (9, p1) :: others) → recoverRow [i, j] got = d ∧ recoverRow [j, i] got = e))

/-- The queue is the model's own (the spec names no queue of commands): log entry 1. -/
def Obligations.StepRunsFront : Prop :=
  ∀ (c : Instr) (rest : List Instr) (s : State), Machine.step { s with pending := c :: rest } = exec c { s with pending := rest }

/-- That a step on an empty queue is the scrub's time is the model's choice (log entry 1); R93 and R346 say what a scrub does. -/
def Obligations.IdleStep : Prop :=
  ∀ s : State, s.pending = [] →
    (scrubBusy s = false → Machine.step s = .next s) ∧
    (scrubBusy s = true → ∃ m, Machine.step s = .next { s with mm := m } ∧ Machine.step s = .next (scrubAll s))

/-- AlertInv is R355's; the canonical forms are the model's own. -/
def Obligations.ResetInvariants : Prop :=
  AlertInv State.reset ∧ State.reset.mm.wf = true ∧ State.reset.host.wf = true ∧ State.reset.pending = []

/-- The model takes every command in every state: one whose occurrence the state does not hold leaves the state as it is (log entry 2). -/
def Obligations.EveryCommandAnswers : Prop :=
  (∀ (c : Instr) (s : State), exec c s = .next s ∨ ∃ t, exec c s = .next (finish t)) ∧
  (∀ s : State, StepsOn s) ∧ (∀ (c : Instr) (s : State), RunsOn c s)

/-- R18, R310 and Table 17-6; which management commands work in Off is in part the model's reading (see the assumption log). -/
def Obligations.OffDoesNothing : Prop :=
  ∀ (c : Instr) (s : State), s.pow.st ≠ .on → worksOff c = false → exec c s = .next s

/-- R355. That ALERT_N is low out of service and while held is R18, R302 and R310. -/
def Obligations.AlertTreeKept : Prop :=
  (∀ s t : State, AlertInv s → Machine.step s = .next t → AlertInv t) ∧
  (∀ (c : Instr) (s t : State), s.pow.st = .on → exec c s = .next t → AlertInv t)

/-- R355's events go to PF0; R326 and R217 say what an event writes. -/
def Obligations.EndOfCommandFrame : Prop :=
  ∀ s : State, Quiet 0 s (finish s)

/-- A record's 32 bytes hold TAG, SEQ, STATUS, OPCODE, EVENT, OVF, PHASE, DETAIL and RESULT where Table 11-5 puts them. Completing an accepted descriptor
takes it off its ring's list and delivers one record: with earlier records held, or no slot free, it joins the ring's held records, and is reported
over Barnopa while the link is down for the function; with a slot free and the write inside a window, its bytes are written at slot PRODUCED mod
2^CQ_LOG2 and PRODUCED rises by one; outside a window it is held and FETCH_ERR is set. While its function is reset a completed descriptor is counted
and its record discarded. A descriptor that is not accepted completes to nothing. -/
def Obligations.CompletionRecords : Prop :=
  (∀ (c : Rec) (ovf : Bool) (n lg dt : Nat), c.tag < 2 ^ 32 → c.seq < 2 ^ 32 → c.opcode < 256 → dt < 2 ^ 32 → c.result.length ≤ 16 →
    let b := recBytes c ovf n lg dt
    b.length = 32 ∧ fieldAt b 0 4 = c.tag ∧ fieldAt b 4 4 = c.seq ∧ fieldAt b 8 1 = c.status.val ∧ fieldAt b 9 1 = c.opcode ∧
    bitAt (fieldAt b 10 1) 0 = c.event ∧ bitAt (fieldAt b 10 1) 1 = ovf ∧ bits (fieldAt b 10 1) 6 2 = 0 ∧
    bits (fieldAt b 10 1) 7 7 = (n / 2 ^ lg + 1) % 2 ∧ fieldAt b 11 1 = 0 ∧ fieldAt b 12 4 = dt ∧
    b.drop 16 = c.result ++ List.replicate (16 - c.result.length) 0#8) ∧
  (∀ (s : State) (f r : Nat) (c : Rec), ((s.ring f r).held ≠ [] ∨ slotFree s f r = false) →
    ((deliver s f r c).ring f r).held = (s.ring f r).held ++ [c] ∧ (deliver s f r c).host.hostMem = s.host.hostMem ∧
    (linkDownFor s f = true → (deliver s f r c).out = s.out ++ [.heldReport f r c.tag c.status]) ∧
    (linkDownFor s f = false → (deliver s f r c).out = s.out)) ∧
  (∀ (s : State) (f r : Nat) (c : Rec), (s.ring f r).held = [] → slotFree s f r = true →
    let lg := s.fld R.HI_CQ_BASE.CQ_LOG2 f r
    let n := (s.ring f r).produced
    let a := s.fld R.HI_CQ_BASE.ADDR f r * 4096 + n % 2 ^ lg * 32
    let b := recBytes c false n lg (if c.event then (s.fnHost f).lost else c.detail)
    (winOk s f a b.length true = true → (deliver s f r c).host.hostMem = cellsWrite s.host.hostMem a b ∧
      ((deliver s f r c).ring f r).held = [] ∧ ((deliver s f r c).ring f r).produced = (n + 1) % 2 ^ 32) ∧
    (winOk s f a b.length true = false → (deliver s f r c).host.hostMem = s.host.hostMem ∧
      ((deliver s f r c).ring f r).held = [c] ∧ (deliver s f r c).fld R.HI_RING_STAT.FETCH_ERR f r = 1)) ∧
  (∀ (s : State) (f r n dt : Nat) (st : Status) (res : List (BitVec 8)),
    (findDesc s f r n = none → complete s f r n st dt res = s) ∧
    (∀ d, findDesc s f r n = some d → (s.fnHost f).resetting = none →
      complete s f r n st dt res = deliver (s.setRing f r { s.ring f r with acc := (s.ring f r).acc.filter (fun x => x.num != n) }) f r
        ⟨fieldAt d.bytes 4 4, n % 2 ^ 32, st, fieldAt d.bytes 0 1, false, dt, res, bitAt (fieldAt d.bytes 1 1) 0⟩) ∧
    (∀ d k, findDesc s f r n = some d → (s.fnHost f).resetting = some k →
      complete s f r n st dt res = (s.setRing f r { s.ring f r with acc := (s.ring f r).acc.filter (fun x => x.num != n) }).setFnHost f
        { s.fnHost f with resetting := some (k + 1) }))

/-- The retirement of a step op records its result in its own context, which is then READY if it was WAITING and nothing holds it any more, and changes
nothing else but the scheduler's state. While the step is not stopped, ST_OK, ST_POISON and ST_BATT_LENGTH join its status; ST_HORIZON and
ST_EPOCH_STALE in a RETRY phase with fewer than 3 retries ask for the retry; any other status stops the step with FAULT_PHASE and FAULT_OP. The
delivery of a record, and the raising of an event, of one function change only that function's records, counts and log and what is sent out. -/
def Obligations.RetirementAndRecordFrames : Prop :=
  (∀ (s : State) (h idx sat : Nat) (st : Status), retire s h idx st sat = wake (retireOp s h idx st sat) h ∧
    (∃ q, retire s h idx st sat = { s with sch := q }) ∧ (∀ g, g ≠ h → (retire s h idx st sat).ctx? g = s.ctx? g)) ∧
  (∀ (s : State) (h : Nat) (c : Ctx), s.ctx? h = some c →
    (c.st ≠ .waiting ∨ heldByUnit s c = true ∨ s.sch.waiters.any (fun w => w.who == .ctx h) = true → wake s h = s) ∧
    (c.st = .waiting → heldByUnit s c = false → s.sch.waiters.any (fun w => w.who == .ctx h) = false →
      (wake s h).ctx? h = some { c with st := .ready, idleSince := s.sch.idleTick + 1 })) ∧
  (∀ (s : State) (h idx sat : Nat) (st : Status) (c : Ctx) (e : Machine.Step) (q : Program) (p : Prog) (f : Phase), s.ctx? h = some c → c.step = some e →
    progOf s c.program = some (q, p) → p.phases[c.phase]? = some f → e.stopped = false →
    let d := { c with sat := satTo (2 ^ 32 - 1) (c.sat + sat), inflight := NSet.del idx c.inflight }
    ((st = .ok ∨ st = .poison ∨ st = .battLength) →
      (retireOp s h idx st sat).ctx? h = some { d with step := some { e with status := e.status.worse st } }) ∧
    ((st = .horizon ∨ st = .epochStale) → f.retry = true → c.retries < 3 →
      (retireOp s h idx st sat).ctx? h = some { d with step := some { e with retry := true } }) ∧
    (st ≠ .ok → st ≠ .poison → st ≠ .battLength → ((st ≠ .horizon ∧ st ≠ .epochStale) ∨ f.retry = false ∨ 3 ≤ c.retries) →
      (retireOp s h idx st sat).ctx? h = some { d with step := some { e with status := st, stopped := true }, faultPhase := c.phase, faultOp := idx })) ∧
  (∀ (s : State) (f r code : Nat) (c : Rec) (st : Status) (res : List (BitVec 8)),
    Quiet f s (deliver s f r c) ∧ Quiet f s (raiseEvent s f code st res))

/-- R244. What a hidden-flow WRITE says of a protection copy is an operand of the model (log entry 144): the spec gives it no place in the packet. -/
def Obligations.PacketBytesRoundTrip : Prop :=
  ∀ p : Pkt, p.ty < 256 → p.detours < 4 → p.dst < 2 ^ 16 → p.src < 2 ^ 16 → p.epoch < 2 ^ 16 → p.contrib < 256 → p.status < 256 →
    p.ep < 2 ^ 32 → p.psn < 2 ^ 24 → p.key < 2 ^ 32 → p.addr < 2 ^ 64 → p.data.length < 2 ^ 16 - 32 →
    pktOf p.bytes = { p with copy := none } ∧ p.bytes.length = 32 + p.data.length ∧
    fieldAt p.bytes 0 1 = p.ty ∧ fieldAt p.bytes 2 2 = 32 + p.data.length ∧ fieldAt p.bytes 4 2 = p.dst ∧ fieldAt p.bytes 6 2 = p.src ∧
    fieldAt p.bytes 8 2 = p.epoch ∧ fieldAt p.bytes 10 1 = p.contrib ∧ fieldAt p.bytes 11 1 = p.status ∧ fieldAt p.bytes 12 4 = p.ep ∧
    fieldAt p.bytes 16 3 = p.psn ∧ fieldAt p.bytes 19 1 = 0 ∧ fieldAt p.bytes 20 4 = p.key ∧ fieldAt p.bytes 24 8 = p.addr

/-- For every sequence of 1 to 16,384 symbols of 4 or 8 bits, every content and either FINAL, the batt that the module's encoder emits raw decodes, where
the operation expects that width, content, count and last batt, to exactly those symbols with no fault, whatever bytes follow; and its header says
RAW, the width, FINAL, the content, the count and the payload units, with a good CRC. -/
def Obligations.RawBattRoundTrip : Prop :=
  ∀ (wide final : Bool) (content : Nat) (syms : List Nat) (rest : List (BitVec 8)) (look : Nat → Nat → Option CodeTable),
    content < 3 → 1 ≤ syms.length → syms.length ≤ 16384 → (∀ x ∈ syms, x < if wide then 256 else 16) →
    decodeBatt ⟨wide, content, final, syms.length⟩ look (encodeRaw wide final content syms ++ rest) = (syms, none) ∧
    parseHeader (encodeRaw wide final content syms ++ rest) =
      { raw := true, wide := wide, final := final, content := content, tableId := 0, tableGen := 0, count := syms.length,
        units := rawUnits wide syms.length, good := true } ∧
    (encodeRaw wide final content syms).length = 32 + 16 * rawUnits wide syms.length

/-- The CRC of no bytes is 0xFFFF. A byte more is taken most significant bit first: each of its bits is XORed into the top bit of the 16-bit register,
which moves up by one and takes 0x1021 when that bit was 1. Nothing is reflected or XORed at the end, and the nine ASCII bytes "123456789" give
0x29B1. -/
def Obligations.HeaderCrc : Prop :=
  crc16 [] = 0xFFFF ∧
  (∀ (bs : List (BitVec 8)) (b : BitVec 8), crc16 (bs ++ [b]) =
    (([7, 6, 5, 4, 3, 2, 1, 0].map (fun i => b.getLsbD i)).foldl
      (fun (r : BitVec 16) x => if r.getLsbD 15 ^^ x then (r <<< 1) ^^^ 0x1021#16 else r <<< 1) (BitVec.ofNat 16 (crc16 bs))).toNat) ∧
  crc16 [0x31#8, 0x32#8, 0x33#8, 0x34#8, 0x35#8, 0x36#8, 0x37#8, 0x38#8, 0x39#8] = 0x29B1

/-- Of an offset into T1, bits [39:36] are the stack, bits [35:27] the bank pair and bits [26:0] the byte within the bank pair. A page frame number is
offset bits [39:16], so [23:20] is its stack, [19:11] its bank pair and [10:0] the frame within the bank pair, of which there are 2,048; and every
byte of a 64 KiB page lies in the frame's bank pair. -/
def Obligations.T1AddressLayout : Prop :=
  (∀ o, o < 2 ^ 40 → stackOf (t1Base + o) = bits o 39 36 ∧ pairOf (t1Base + o) = bits o 35 27 ∧
    pairAddr (bits o 39 36) (bits o 35 27) (bits o 26 0) = t1Base + o ∧ frameAddr (bits o 39 16) + o % 65536 = t1Base + o) ∧
  (∀ n, n < 2 ^ 24 → stackOf (frameAddr n) = bits n 23 20 ∧ pairOf (frameAddr n) = bits n 19 11 ∧
    frameAddr n = pairAddr (bits n 23 20) (bits n 19 11) (bits n 10 0 * 65536) ∧ bits n 10 0 < 2048 ∧
    ∀ i, i < 65536 → stackOf (frameAddr n + i) = stackOf (frameAddr n) ∧ pairOf (frameAddr n + i) = pairOf (frameAddr n))

/-- R24. With the pattern's fields s = p / 128, e = p / 8 % 16 and m = p % 8. The model reads the zero pattern of either sign as +0, as Table 3-2 treats
it; the value is 0 either way. -/
def Obligations.S8Values : Prop :=
  ∀ p : Nat, p < 256 →
    (p % 128 = 127 → fDec (s8Value (BitVec.ofNat 8 p)) = .nan) ∧
    (p % 128 ≠ 127 → ∃ (s : Bool) (k : Nat) (q : Int), fDec (s8Value (BitVec.ofNat 8 p)) = .fin s k q ∧ -149 ≤ q ∧
      (k ≠ 0 → s = decide (128 ≤ p)) ∧
      (p / 8 % 16 = 0 → 8 * k * 2 ^ (q + 149).toNat = (p % 8) * 2 ^ 143) ∧
      (p / 8 % 16 ≠ 0 → 8 * k * 2 ^ (q + 149).toNat * 2 ^ 7 = (8 + p % 8) * 2 ^ (p / 8 % 16) * 2 ^ 149))

/-- R26. Magnitudes are compared exactly, in units of 2^−k for any k that makes them whole. -/
def Obligations.NearestEven : Prop :=
  (∀ (sg : Bool) (m : Nat) (e : Int) (k : Nat), m ≠ 0 → 149 ≤ k → 0 ≤ e + k →
    let exact : Int := m * 2 ^ (e + k).toNat
    let mag := fun (x : W32) => (match fDec x with | .fin _ a q => (a * 2 ^ (q + k).toNat : Int) | _ => 0)
    let r := fRound sg m e false
    (((2 ^ 25 - 1) * 2 ^ (103 + k) : Int) ≤ exact → r = fInf sg) ∧
    (exact < ((2 ^ 25 - 1) * 2 ^ (103 + k) : Int) → fFinite r = true ∧ bitAt r.toNat 31 = sg ∧
      ∀ y : W32, fFinite y = true → bitAt y.toNat 31 = sg →
        (exact - mag r).natAbs ≤ (exact - mag y).natAbs ∧
        ((exact - mag r).natAbs = (exact - mag y).natAbs → mag y = mag r ∨ r.toNat % 2 = 0))) ∧
  (∀ (x y z : W32) (s t u : Bool) (m n l : Nat) (e f g : Int), fDec x = .fin s m e → fDec y = .fin t n f → fDec z = .fin u l g →
    fMul x y = fRound (s != t) (m * n) (e + f) false ∧
    (∃ (a : Int) (h : Int), h ≤ e ∧ h ≤ f ∧ a = sgnInt s (m * 2 ^ (e - h).toNat) + sgnInt t (n * 2 ^ (f - h).toNat) ∧
      (a ≠ 0 → fAdd x y = fRound (decide (a < 0)) a.natAbs h false) ∧ (a = 0 → m ≠ 0 → fAdd x y = 0#32)) ∧
    (∃ (a : Int) (h : Int), h ≤ e + f ∧ h ≤ g ∧ a = sgnInt (s != t) (m * n * 2 ^ (e + f - h).toNat) + sgnInt u (l * 2 ^ (g - h).toNat) ∧
      (a ≠ 0 → fFma x y z = fRound (decide (a < 0)) a.natAbs h false))) ∧
  (∀ x y : W32, (fDec x = .nan ∨ fDec y = .nan) → fAdd x y = fNaN ∧ fMul x y = fNaN ∧ fDiv x y = fNaN)

/-- R25, R27 and R30. That the value stored for a poisoned element is 0 is R33's and Table 3-8's. -/
def Obligations.ConversionsRound : Prop :=
  (∀ (x : W32) (s : Bool) (m : Nat) (e : Int) (q : Nat), fDec x = .fin s m e →
    (∃ a : Nat, fRna x = sgnInt s a ∧ (0 ≤ e → a = m * 2 ^ e.toNat) ∧
      (e < 0 → ((2 * a : Int) - 1) * 2 ^ (-e).toNat ≤ 2 * m ∧ (2 * m : Int) < (2 * a + 1) * 2 ^ (-e).toNat)) ∧
    (fRna x > q → rnaClamp x q = ((q : Int), true)) ∧ (fRna x < -(q : Int) → rnaClamp x q = (-(q : Int), true)) ∧
    (-(q : Int) ≤ fRna x → fRna x ≤ q → rnaClamp x q = (fRna x, false))) ∧
  (∀ (op : W32 → W32) (q : Nat) (v : W32), fFinite v = false → quantElem op q v = (0, true, false)) ∧
  (∀ t : W32, fFinite t = true → fLt t 0#32 = false →
    (fLt 0x43E00000#32 t = true → s8Select t = (0x7E#8, true)) ∧
    (fLt 0x43E00000#32 t = false → (s8Select t).2 = false ∧ (s8Select t).1.toNat < 0x7F ∧ fLt (s8Value (s8Select t).1) t = false ∧
      (∀ p : BitVec 8, p.toNat % 128 ≠ 127 → fLt (s8Value p) t = false → fLt (s8Value p) (s8Value (s8Select t).1) = false)) ∧
    (fIsZero t = true → s8Select t = (0#8, false))) ∧
  (∀ w a : List Int, w.length ≤ 128 → (∀ x ∈ w, x.natAbs ≤ 128) → (∀ x ∈ a, x.natAbs ≤ 128) → (intDot w a).natAbs ≤ 2 ^ 21) ∧
  (∀ n : Int, n.natAbs ≤ 2 ^ 24 → ∃ (s : Bool) (m : Nat) (e : Int), fDec (fOfInt n 0) = .fin s m e ∧
    (e ≤ 0 → sgnInt s m = n * 2 ^ (-e).toNat) ∧ (0 < e → sgnInt s m * 2 ^ e.toNat = n))

/-- R39, R66, R120 and R129 (an address of a remapped frame stands for the frame it is remapped to). The canonical form is the model's own. -/
def Obligations.MemoryWrites : Prop :=
  ∀ (s : State) (a : Nat) (bs : List (BitVec 8 × Bool)),
    let r := pwrite s a bs
    (s.mm.wf = true → r.1.mm.wf = true) ∧
    (∃ m p, r.1 = { s with mm := { s.mm with mem := m, psn := p } }) ∧
    (∀ x, (∀ i, i < bs.length → remapAddr s (a + i) ≠ x) → Tab.get 0#8 x r.1.mm.mem = Tab.get 0#8 x s.mm.mem) ∧
    (∀ l, (∀ i, i < bs.length → remapAddr s (a + i) / 64 ≠ l / 2) → NSet.has l r.1.mm.psn = NSet.has l s.mm.psn) ∧
    ((∀ i, i < bs.length → remapAddr s (a + i) = a + i) → (∀ i l, i < bs.length → (a + i) / 64 = l / 2 → NSet.has l s.mm.psn = false) →
      anyPsn bs = false → pread r.1 a bs.length = bs ∧ r.2 = false) ∧
    (bs ≠ [] → a % lineWidth a + bs.length ≤ lineWidth a → remapAddr s a = a →
      let line := a / lineWidth a * lineWidth a
      (anyPsn bs = true → r.1.mm.mem = s.mm.mem ∧ linePsn r.1 line = true ∧ r.2 = false) ∧
      (anyPsn bs = false → bs.length = lineWidth a → r.1.mm.mem = cellsWrite s.mm.mem a (rawBytes bs) ∧ linePsn r.1 line = false ∧ r.2 = false) ∧
      (anyPsn bs = false → bs.length < lineWidth a → linePsn s line = true → r.1 = s ∧ r.2 = (addrClass line == .t1)) ∧
      (anyPsn bs = false → bs.length < lineWidth a → linePsn s line = false →
        r.1 = { s with mm := { s.mm with mem := cellsWrite s.mm.mem a (rawBytes bs) } } ∧ r.2 = false))

/-- Where every field fits its width: a span's record is 64 bytes with the fields of Table 6-4 in their places and its CRC at the end; a page table entry
is 32 bytes with the fields of Table 6-5; the record of a parked context whose CRC has not failed is 2,048 bytes with the fields of Table 10-1, its
PROGRAM_AREA and its CRC. In the system area of the model (whose place and order are the model's choice, log entry 13) record n of the descriptor
table reads as the record of span n, or as zero where the span is free; slot n of the save area as the record of the context parked there, or as zero.
An access to the area is answered ST_PROTECTION, but for a COPY of PF0 that reads it, which gives these bytes. -/
def Obligations.SystemAreaRecords : Prop :=
  (∀ (n : Nat) (x : Span), n < 2 ^ 18 → x.fn < 64 → x.maxTokens < 2 ^ 32 → x.layerSlots < 2 ^ 16 → x.kvHeads < 256 → x.ilog < 16 → x.base < 2 ^ 64 →
    x.fixedPk < 2 ^ 32 → x.fixedPv < 2 ^ 32 → x.horizon < 2 ^ 32 → x.gen < 2 ^ 32 → x.appended < 2 ^ 32 → x.tableGen < 2 ^ 16 → x.start < 2 ^ 16 →
    x.ptBase < 2 ^ 64 → x.handoff < 2 ^ 16 →
    let b := spanRecord n x
    b.length = 64 ∧ bits (fieldAt b 0 4) 17 0 = n ∧ bits (fieldAt b 0 4) 23 18 = x.fn ∧ bits (fieldAt b 0 4) 25 24 = x.st.code ∧
    bits (fieldAt b 0 4) 31 26 = 0 ∧ fieldAt b 4 4 = x.maxTokens ∧ fieldAt b 8 2 = x.layerSlots ∧ fieldAt b 10 1 = x.kvHeads ∧
    fieldAt b 11 1 = x.shape ∧ fieldAt b 12 1 = x.policy ∧ fieldAt b 13 1 = x.prot.code ∧ fieldAt b 14 2 = x.rowBytes % 65536 ∧
    fieldAt b 16 8 = x.base ∧ fieldAt b 24 4 = x.fixedPk ∧ fieldAt b 28 4 = x.fixedPv ∧ fieldAt b 32 4 = x.horizon ∧ fieldAt b 36 4 = x.gen ∧
    fieldAt b 40 4 = x.appended ∧ fieldAt b 44 2 = x.tableGen ∧ fieldAt b 46 2 = x.start ∧ fieldAt b 48 8 = x.ptBase ∧
    fieldAt b 56 2 = x.handoff ∧ fieldAt b 58 4 = 0 ∧ leBytes 2 (crc16 (b.take 62)) = b.drop 62) ∧
  (∀ e : Pte, e.pk < 2 ^ 32 → e.pv < 2 ^ 32 → e.age < 256 → e.battGen < 2 ^ 16 → e.frame < 2 ^ 32 → e.lower < 2 ^ 64 → e.written.length < 2 ^ 16 →
    let b := pteRecord e
    b.length = 32 ∧ fieldAt b 0 4 = e.pk ∧ fieldAt b 4 4 = e.pv ∧ bits (fieldAt b 8 1) 2 0 = e.st.code ∧ bitAt (fieldAt b 8 1) 3 = e.mig ∧
    bitAt (fieldAt b 8 1) 4 = e.tent ∧ bitAt (fieldAt b 8 1) 5 = e.psn ∧ bitAt (fieldAt b 8 1) 6 = e.recalling ∧ bitAt (fieldAt b 8 1) 7 = false ∧
    fieldAt b 9 1 = e.age ∧ fieldAt b 10 2 = e.battGen ∧ (e.st = .t1 → fieldAt b 12 4 = e.frame) ∧ fieldAt b 16 8 = e.lower ∧
    fieldAt b 24 2 = e.written.length ∧ fieldAt b 26 4 = 0 ∧ leBytes 2 (crc16 (b.take 30)) = b.drop 30) ∧
  (∀ (free h prog : Nat) (c : Ctx), c.badRecord = false → c.failed = false → h < 2 ^ 19 → c.fn < 64 → prog < 2 ^ 16 → c.seed < 2 ^ 64 →
    c.stepCtr < 2 ^ 64 → c.position < 2 ^ 32 → c.token < 2 ^ 32 → c.sat < 2 ^ 32 → c.workKib < 2 ^ 32 → c.t1Base < 2 ^ 64 →
    let b := ctxRecord free h prog c
    b.length = 2048 ∧ bits (fieldAt b 0 4) 18 0 = h ∧ bits (fieldAt b 0 4) 24 19 = c.fn ∧ bits (fieldAt b 0 4) 27 25 = 5 ∧
    fieldAt b 4 2 = 0 ∧ fieldAt b 6 2 = prog ∧ fieldAt b 16 8 = c.seed ∧ fieldAt b 24 8 = c.stepCtr ∧ fieldAt b 32 4 = c.position ∧
    fieldAt b 36 4 = c.token ∧ fieldAt b 40 4 = c.sat ∧ fieldAt b 52 4 = c.workKib ∧ fieldAt b 56 8 = c.t1Base ∧
    (b.drop 64).take 128 = padTo 128 (c.binds.flatMap bindRecord) ∧ (b.drop 192).take 1536 = padTo 1536 c.area ∧
    leBytes 2 (crc16 (b.take 2046)) = b.drop 2046) ∧
  (∀ (s : State) (n : Nat), n < 2 ^ 18 → regionAt s (sysRegion.base + 64 * n) 64 = some sysRegion →
    (∀ x, s.span? n = some x → systemBytes s (sysRegion.base + 64 * n) 64 = spanRecord n x) ∧
    (s.span? n = none → systemBytes s (sysRegion.base + 64 * n) 64 = List.replicate 64 0#8)) ∧
  (∀ (s : State) (n : Nat), n < 2 ^ 18 → regionAt s (sysRegion.base + 2 ^ 24 + 2048 * n) 2048 = some sysRegion →
    (∀ p : Nat × Ctx, s.sch.ctxs.find? (fun p => p.2.st == .parked && p.2.slot == n) = some p →
      systemBytes s (sysRegion.base + 2 ^ 24 + 2048 * n) 2048 = ctxRecord (s.freeCtr + 2048 * n) p.1 (programIdOf s p.2) p.2) ∧
    (s.sch.ctxs.find? (fun p => p.2.st == .parked && p.2.slot == n) = none →
      systemBytes s (sysRegion.base + 2 ^ 24 + 2048 * n) 2048 = List.replicate 2048 0#8)) ∧
  (∀ (s : State) (f a n : Nat) (w : Bool), regionAt s a n = some sysRegion → addrClass a = .t1 → absentIn s a n = false → 0 < n →
    localCheck s f a n w = .protection ∧ targetBar s a n w = some .protection ∧
    sideCheck s f (.local_ a) n w = (if f = 0 ∧ w = false then .ok else .protection) ∧
    (∀ bad, ∃ t, copySource s bad 0 (.local_ a) n = some (cleanBytes (systemBytes s a n), t, .ok)))

/-- R73, R179, R186 and R372 say what each op writes; the lengths are those of its form. What the retirement and the end of the command may change is said
in RetirementAndRecordFrames and EndOfCommandFrame. -/
def Obligations.TileOpsStore : Prop :=
  ∀ (s : State) (k : OpCtx) (bx bz : Bool) (e : Errs), s.pow.st = .on →
    let v := errsMet k e (issued s k)
    tilesBusy v k = false →
    let keeps := fun (i : Instr) (len : Nat) (tok : Bool) =>
      ∃ u st n, exec i s = .next (finish (retire (t0Fails e.t0 (issued s k) u) k.h k.idx st n)) ∧ OpKeeps k len tok v u k.tiles
    let fmt := k.o.var / 8
    (Issues s (isElem 0) k → fmt ≤ 2 → keeps (.elemwiseAdd k.h bx bz e) (outBytes fmt k.o.arg1) false) ∧
    (Issues s (isElem 1) k → fmt ≤ 2 → keeps (.elemwiseMul k.h bx bz e) (outBytes fmt k.o.arg1) false) ∧
    (Issues s (isElem 2) k → fmt ≤ 2 → keeps (.elemwiseScale k.h bx e) (outBytes fmt k.o.arg1) false) ∧
    (Issues s (isElem 3) k → fmt ≤ 2 → keeps (.siluGate k.h bx bz e) (outBytes fmt k.o.arg1) false) ∧
    (Issues s (isElem 4) k → fmt ≤ 2 → keeps (.convert k.h e) (outBytes fmt k.o.arg1) false) ∧
    (Issues s (isElem 5) k → fmt ≤ 2 → keeps (.sumParts k.h e) (outBytes fmt k.o.arg1) false) ∧
    (Issues s (fun o => o.opcode == 0x08) k → k.o.varBit 1 = false → k.o.var / 4 % 4 ≤ 2 →
      keeps (.norm k.h bx e) (outBytes (k.o.var / 4 % 4) k.o.arg1) false) ∧
    (Issues s (fun o => o.opcode == 0x06 && !o.varBit 0) k → keeps (.tileCopy k.h 0 e) k.o.arg0 false) ∧
    (Issues s (fun o => o.opcode == 0x06 && o.varBit 0) k → keeps (.gatherRow k.h e) k.o.arg0 false) ∧
    (Issues s (fun o => o.opcode == 0x0B) k → keeps (.route k.h e) (alignUp (2 * k.o.arg0) 4 + 4 * min k.o.arg0 k.o.arg1) false) ∧
    (Issues s (fun o => o.opcode == 0x30 && o.var % 4 == 0) k → keeps (.sampleFull k.h e) 4 true) ∧
    (Issues s (fun o => o.opcode == 0x30 && o.var % 4 == 1) k → keeps (.sampleLocal k.h e) (8 * min k.o.arg0 (bits k.o.arg4 19 0)) false) ∧
    (Issues s (fun o => o.opcode == 0x30 && o.var % 4 == 2) k → keeps (.sampleSelect k.h e) 4 true)

/-- R112 and R114 say what each command computes, R118 that a write is unseen by tile and controller reads until a fence, R120 that whole sectors are
written, R97 that an NBU command's read of a page is an access. That a command is valid and reaches these operations is said in BankCommands. -/
def Obligations.NearBankStores : Prop :=
  ∀ (s : State) (c : NbuCmd),
    let a := c.addr
    let n := 32 * c.len
    let e := c.arg0 % 2 ^ 27
    let d := pairAddr c.home.1 c.home.2 e
    let aged := fun (t : State) => ∀ n p, { t.pte n p with accessed := false } = { s.pte n p with accessed := false }
    let kept := fun (t : State) (b : Nat) =>
      t = { s with mm := { s.mm with mem := t.mm.mem, psn := t.mm.psn, unfenced := t.mm.unfenced }, pg := { s.pg with ptes := t.pg.ptes }, freeCtr := t.freeCtr } ∧
      aged t ∧
      (∀ x, (∀ i, i < n → remapAddr s (b + i) ≠ x) → Tab.get 0#8 x t.mm.mem = Tab.get 0#8 x s.mm.mem) ∧
      (∀ l, (∀ i, i < n → remapAddr s (b + i) / 64 ≠ l / 2) → NSet.has l t.mm.psn = NSet.has l s.mm.psn)
    let chain := fun (t : State) (touched : Nat → Prop) =>
      t = { s with nbu := { s.nbu with perStack := t.nbu.perStack }, pg := { s.pg with ptes := t.pg.ptes }, freeCtr := t.freeCtr } ∧
      aged t ∧ ∀ k, ¬ touched k → t.stack k = s.stack k
    let plain := fun (b : Nat) => ∀ i, i < n → addrClass (b + i) = .t1 ∧ remapAddr s (b + i) = b + i
    kept (doFill s c).1 a ∧ kept (doNbuElemwise s c []).1 a ∧ kept (doNormApply s c []).1 a ∧ kept (doLocalCopy s c []).1 d ∧
    chain (doMvSlice s c []).1 (fun k => ∃ x ∈ parseSegs c.fmt c.arg0 0 (pread s a n), (segPlace s c x).1 = k) ∧
    chain (doSumsq s c []).1 (fun k => k = c.stack) ∧
    (c.row % 32 = 0 → plain a →
      (∀ i, i < n → Tab.get 0#8 (a + i) (doFill s c).1.mm.mem = BitVec.ofNat 8 (c.arg0 / 256 ^ (i % 4)) ∧
        linePsn (doFill s c).1 (a + i) = false) ∧
      (∀ k, a / 32 ≤ k → k < a / 32 + c.len → ∃ w, Tab.find? k (doFill s c).1.mm.unfenced = some w ∧ (c.fn, c.h) ∈ w.by_ ∧
        (cellsRead s.mm.mem (k * 32) 32, NSet.has k s.mm.psn) ∈ w.olds) ∧
      (let xs := bankElems c.fmt (pread s a n)
       let zs := bankElems c.fmt (bufRead s c.stack c.operand n)
       let ys := bankBytes c.fmt (elemwise (c.arg0 % 4) (BitVec.ofNat 32 c.arg1) xs zs)
       anyPsn ys = false → pread (doNbuElemwise s c []).1 a n = ys ∧ (doNbuElemwise s c []).2 = .ok)) ∧
    (inBundle s d n = false → storeBarred s d n = false → e % 32 = 0 → e + n ≤ 2 ^ 27 → pairOwned s c.fn d n = true →
      (d + n ≤ a ∨ a + n ≤ d) → plain d → anyPsn (pread s a n) = false →
      pread (doLocalCopy s c []).1 d n = pread s a n ∧ (doLocalCopy s c []).2 = .ok)

/-- R89. GROUPS and RPP are R89's quotients. -/
def Obligations.RowsApart : Prop :=
  ∀ x : Span, 1 ≤ x.rowBytes → x.rowBytes ≤ 65536 →
    (∀ l r, x.rowAddress l r = x.base + (l * x.groups * 2 ^ x.ilog + (r / (2 ^ x.ilog * (65536 / x.rowBytes)) * 2 ^ x.ilog + r % 2 ^ x.ilog)) * 65536 +
      r / 2 ^ x.ilog % (65536 / x.rowBytes) * x.rowBytes) ∧
    (∀ l r, l < x.layerSlots → r < x.maxTokens → (x.rowAt l r).1 < x.pages ∧ (x.rowAt l r).2 + x.rowBytes ≤ 65536) ∧
    (∀ l r m q, l < x.layerSlots → m < x.layerSlots → r < x.maxTokens → q < x.maxTokens → (l ≠ m ∨ r ≠ q) →
      x.rowAddress l r + x.rowBytes ≤ x.rowAddress m q ∨ x.rowAddress m q + x.rowBytes ≤ x.rowAddress l r)

/-- R134. That a masked row adds nothing to a partial is R135's. -/
def Obligations.BiasBuckets : Prop :=
  (∀ (x : Span) (q : AttnReq) (h : QHead) (hr : HeadRec) (pk : BitVec 32) (pos : Nat), pos ≤ q.posQ →
    rowScore x q h hr pk pos = fAdd (fMul (kDot x h hr pk) q.sQk) (fOfBf16 (h.bias.getD (bucket (q.posQ - pos)) 0#16))) ∧
  (∀ d, d < 16 → bucket d = d) ∧
  (∀ e d, 4 ≤ e → 2 ^ e ≤ d → d < 2 ^ (e + 1) → bucket d = min 63 (16 + 4 * (e - 4) + (d - 2 ^ e) / 2 ^ (e - 2)) ∧ (d - 2 ^ e) / 2 ^ (e - 2) < 4) ∧
  (∀ d, 57344 ≤ d → bucket d = 63) ∧
  (∀ (x : Span) (q : AttnReq) (e : Pte) (b : Bool) (r : Nat) (hr : HeadRec) (h : QHead) (p : Partial), q.posQ < posOf q r →
    maskedAt q (posOf q r) = true ∧ (foldRow x q e b r hr h p).m = p.m ∧ (foldRow x q e b r hr h p).l = p.l ∧ (foldRow x q e b r hr h p).o = p.o)
end

