-- ==== Sys2Proof/Laws/Tab.lean ====
section
/-! SUPPORT. The laws of the sparse tables: a read after a write, and that every operation keeps the canonical form. -/

namespace Sys2Proof.Machine

variable {V : Type}

@[simp] theorem Tab.find?_nil (k : Nat) : Tab.find? k ([] : List (Nat × V)) = none := rfl

theorem Tab.find?_cons (k k' : Nat) (v : V) (r : List (Nat × V)) :
    Tab.find? k ((k', v) :: r) = if k = k' then some v else Tab.find? k r := rfl

theorem Tab.find?_ins_same (k : Nat) (v : V) (t : List (Nat × V)) : Tab.find? k (Tab.ins k v t) = some v := by
  induction t with
  | nil => simp [Tab.ins, Tab.find?]
  | cons p r ih =>
    obtain ⟨a, w⟩ := p
    simp only [Tab.ins]
    split_ifs with h1 h2
    · simp [Tab.find?]
    · simp [Tab.find?]
    · rw [Tab.find?_cons, if_neg h2, ih]

theorem Tab.find?_ins_ne {k k' : Nat} (h : k ≠ k') (v : V) (t : List (Nat × V)) :
    Tab.find? k (Tab.ins k' v t) = Tab.find? k t := by
  induction t with
  | nil => simp [Tab.ins, Tab.find?, h]
  | cons p r ih =>
    obtain ⟨a, w⟩ := p
    simp only [Tab.ins]
    split_ifs with h1 h2
    · rw [Tab.find?_cons, if_neg h]
    · subst h2; simp [Tab.find?_cons, h]
    · rw [Tab.find?_cons, Tab.find?_cons, ih]

theorem Tab.find?_del_same (k : Nat) (t : List (Nat × V)) : Tab.find? k (Tab.del k t) = none := by
  induction t with
  | nil => rfl
  | cons p r ih =>
    obtain ⟨a, w⟩ := p
    by_cases h : a = k
    · have : Tab.del k ((a, w) :: r) = Tab.del k r := by simp [Tab.del, h]
      rw [this, ih]
    · have : Tab.del k ((a, w) :: r) = (a, w) :: Tab.del k r := by simp [Tab.del, h]
      rw [this, Tab.find?_cons, if_neg (fun e => h e.symm), ih]

theorem Tab.find?_del_ne {k k' : Nat} (h : k ≠ k') (t : List (Nat × V)) :
    Tab.find? k (Tab.del k' t) = Tab.find? k t := by
  induction t with
  | nil => rfl
  | cons p r ih =>
    obtain ⟨a, w⟩ := p
    by_cases ha : a = k'
    · have e : Tab.del k' ((a, w) :: r) = Tab.del k' r := by simp [Tab.del, ha]
      rw [e, ih, Tab.find?_cons, if_neg (by omega)]
    · have e : Tab.del k' ((a, w) :: r) = (a, w) :: Tab.del k' r := by simp [Tab.del, ha]
      rw [e, Tab.find?_cons, Tab.find?_cons, ih]

/-- A key reads back what was written to it. -/
@[simp] theorem Tab.get_put_same [DecidableEq V] (d : V) (k : Nat) (v : V) (t : List (Nat × V)) :
    Tab.get d k (Tab.put d k v t) = v := by
  unfold Tab.put Tab.get
  split_ifs with h
  · rw [Tab.find?_del_same]; simpa using h.symm
  · rw [Tab.find?_ins_same]; rfl

/-- A write leaves every other key alone, whatever either key's default is. -/
theorem Tab.get_put_ne [DecidableEq V] {k k' : Nat} (h : k ≠ k') (d d' v : V) (t : List (Nat × V)) :
    Tab.get d k (Tab.put d' k' v t) = Tab.get d k t := by
  unfold Tab.put Tab.get
  split_ifs
  · rw [Tab.find?_del_ne h]
  · rw [Tab.find?_ins_ne h]

@[simp] theorem Tab.get_ins_same (d : V) (k : Nat) (v : V) (t : List (Nat × V)) : Tab.get d k (Tab.ins k v t) = v := by
  simp [Tab.get, Tab.find?_ins_same]

theorem Tab.get_ins_ne {k k' : Nat} (h : k ≠ k') (d v : V) (t : List (Nat × V)) :
    Tab.get d k (Tab.ins k' v t) = Tab.get d k t := by
  simp [Tab.get, Tab.find?_ins_ne h]

@[simp] theorem Tab.get_del_same (d : V) (k : Nat) (t : List (Nat × V)) : Tab.get d k (Tab.del k t) = d := by
  simp [Tab.get, Tab.find?_del_same]

theorem Tab.get_del_ne {k k' : Nat} (h : k ≠ k') (d : V) (t : List (Nat × V)) :
    Tab.get d k (Tab.del k' t) = Tab.get d k t := by
  simp [Tab.get, Tab.find?_del_ne h]

theorem Tab.find?_upd_same (k : Nat) (f : V → V) (t : List (Nat × V)) :
    Tab.find? k (Tab.upd k f t) = (Tab.find? k t).map f := by
  induction t with
  | nil => rfl
  | cons p r ih =>
    obtain ⟨a, w⟩ := p
    unfold Tab.upd at ih ⊢
    by_cases h : a = k
    · subst h; simp [Tab.find?_cons]
    · simp only [List.map_cons, if_neg h, Tab.find?_cons, if_neg (fun e : k = a => h e.symm), ih]

theorem Tab.find?_upd_ne {k k' : Nat} (h : k ≠ k') (f : V → V) (t : List (Nat × V)) :
    Tab.find? k (Tab.upd k' f t) = Tab.find? k t := by
  induction t with
  | nil => rfl
  | cons p r ih =>
    obtain ⟨a, w⟩ := p
    unfold Tab.upd at ih ⊢
    by_cases ha : a = k'
    · subst ha; simp [Tab.find?_cons, h, ih]
    · simp only [List.map_cons, if_neg ha, Tab.find?_cons, ih]

/-! The canonical form, said with `List.Pairwise` on the keys. -/

/-- Keys rise strictly. -/
theorem Tab.sorted_iff (t : List (Nat × V)) : Tab.sorted t = true ↔ t.Pairwise (fun p q => p.1 < q.1) := by
  induction t with
  | nil => simp [Tab.sorted]
  | cons p r ih =>
    obtain ⟨a, v⟩ := p
    cases r with
    | nil => simp [Tab.sorted]
    | cons q r =>
      obtain ⟨b, w⟩ := q
      simp only [Tab.sorted, Bool.and_eq_true, decide_eq_true_eq, ih, List.pairwise_cons]
      constructor
      · rintro ⟨h, hb, hr⟩
        refine ⟨?_, hb, hr⟩
        intro x hx
        rcases List.mem_cons.1 hx with rfl | hx
        · exact h
        · exact Nat.lt_trans h (hb x hx)
      · rintro ⟨h, hb, hr⟩
        exact ⟨h (b, w) (by simp), hb, hr⟩

theorem Tab.sorted_filter (p : Nat × V → Bool) {t : List (Nat × V)} (h : Tab.sorted t = true) :
    Tab.sorted (t.filter p) = true := by
  rw [Tab.sorted_iff] at *; exact h.filter p

theorem Tab.mem_ins {k : Nat} {v : V} {t : List (Nat × V)} {q : Nat × V} (h : q ∈ Tab.ins k v t) : q = (k, v) ∨ q ∈ t := by
  induction t with
  | nil => simpa [Tab.ins] using h
  | cons p r ih =>
    obtain ⟨a, w⟩ := p
    simp only [Tab.ins] at h
    split_ifs at h with h1 h2
    · simpa using h
    · rcases List.mem_cons.1 h with h | h
      · exact .inl h
      · exact .inr (List.mem_cons_of_mem _ h)
    · rcases List.mem_cons.1 h with h | h
      · exact .inr (by simp [h])
      · rcases ih h with h | h
        · exact .inl h
        · exact .inr (List.mem_cons_of_mem _ h)

theorem Tab.sorted_ins (k : Nat) (v : V) {t : List (Nat × V)} (h : Tab.sorted t = true) : Tab.sorted (Tab.ins k v t) = true := by
  rw [Tab.sorted_iff] at *
  induction t with
  | nil => simp [Tab.ins]
  | cons p r ih =>
    obtain ⟨a, w⟩ := p
    rw [List.pairwise_cons] at h
    simp only [Tab.ins]
    split_ifs with h1 h2
    · rw [List.pairwise_cons, List.pairwise_cons]
      refine ⟨?_, h.1, h.2⟩
      intro x hx
      rcases List.mem_cons.1 hx with rfl | hx
      · exact h1
      · exact Nat.lt_trans h1 (h.1 x hx)
    · subst h2; rw [List.pairwise_cons]; exact ⟨h.1, h.2⟩
    · rw [List.pairwise_cons]
      refine ⟨?_, ih h.2⟩
      intro x hx
      rcases Tab.mem_ins hx with rfl | hx
      · change a < k; omega
      · exact h.1 x hx

theorem Tab.sorted_del (k : Nat) {t : List (Nat × V)} (h : Tab.sorted t = true) : Tab.sorted (Tab.del k t) = true :=
  Tab.sorted_filter _ h

theorem Tab.sorted_put [DecidableEq V] (d : V) (k : Nat) (v : V) {t : List (Nat × V)} (h : Tab.sorted t = true) :
    Tab.sorted (Tab.put d k v t) = true := by
  unfold Tab.put; split_ifs
  · exact Tab.sorted_del k h
  · exact Tab.sorted_ins k v h

theorem Tab.sorted_upd (k : Nat) (f : V → V) {t : List (Nat × V)} (h : Tab.sorted t = true) :
    Tab.sorted (Tab.upd k f t) = true := by
  rw [Tab.sorted_iff] at *
  unfold Tab.upd
  rw [List.pairwise_map]
  refine h.imp ?_
  intro a b hab
  split_ifs <;> simpa using hab

theorem Tab.wf_nil [DecidableEq V] (d : V) : Tab.wf d ([] : List (Nat × V)) = true := rfl

theorem Tab.wf_filter [DecidableEq V] (d : V) (p : Nat × V → Bool) {t : List (Nat × V)} (h : Tab.wf d t = true) :
    Tab.wf d (t.filter p) = true := by
  unfold Tab.wf at *
  rw [Bool.and_eq_true] at *
  refine ⟨Tab.sorted_filter p h.1, ?_⟩
  rw [List.all_eq_true] at *
  exact fun x hx => h.2 x (List.mem_filter.1 hx).1

/-- A write keeps the canonical form. -/
theorem Tab.wf_put [DecidableEq V] (d : V) (k : Nat) (v : V) {t : List (Nat × V)} (h : Tab.wf d t = true) :
    Tab.wf d (Tab.put d k v t) = true := by
  unfold Tab.put
  split_ifs with hv
  · exact Tab.wf_filter d _ h
  · unfold Tab.wf at *
    rw [Bool.and_eq_true] at *
    refine ⟨Tab.sorted_ins k v h.1, ?_⟩
    rw [List.all_eq_true] at *
    intro x hx
    rcases Tab.mem_ins hx with rfl | hx
    · simpa using hv
    · exact h.2 x hx

/-- Tables in canonical form that read alike at every key are equal. -/
theorem Tab.ext_of_get [DecidableEq V] (d : V) : ∀ {t u : List (Nat × V)}, Tab.wf d t = true → Tab.wf d u = true →
    (∀ k, Tab.get d k t = Tab.get d k u) → t = u := by
  have low : ∀ (k : Nat) (t : List (Nat × V)), (∀ q ∈ t, k < q.1) → Tab.get d k t = d := by
    intro k t ht
    induction t with
    | nil => rfl
    | cons p r ih =>
      obtain ⟨a, w⟩ := p
      have h1 := ht (a, w) (by simp)
      unfold Tab.get at *
      rw [Tab.find?_cons, if_neg (by simp only at h1; omega)]
      exact ih (fun q hq => ht q (by simp [hq]))
  intro t
  induction t with
  | nil =>
    intro u _ hu h
    cases u with
    | nil => rfl
    | cons q r =>
      obtain ⟨b, w⟩ := q
      have := h b
      simp only [Tab.wf, List.all_cons, Bool.and_eq_true] at hu
      simp [Tab.get, Tab.find?] at this
      have h2 := hu.2.1
      simp at h2
      exact absurd this.symm h2
  | cons p r ih =>
    intro u ht hu h
    obtain ⟨a, v⟩ := p
    have ht' := ht
    simp only [Tab.wf, List.all_cons, Bool.and_eq_true, Tab.sorted_iff, List.pairwise_cons] at ht
    cases u with
    | nil =>
      have := h a
      simp [Tab.get, Tab.find?] at this
      have h2 := ht.2.1
      simp at h2
      exact absurd this h2
    | cons q r' =>
      obtain ⟨b, w⟩ := q
      have hu' := hu
      simp only [Tab.wf, List.all_cons, Bool.and_eq_true, Tab.sorted_iff, List.pairwise_cons] at hu
      have hv : v ≠ d := by simpa using ht.2.1
      have hw : w ≠ d := by simpa using hu.2.1
      have hab : a = b := by
        rcases Nat.lt_trichotomy a b with l | e | l
        · have h1 := h a
          rw [low a ((b, w) :: r') (by
            intro q hq; rcases List.mem_cons.1 hq with rfl | hq
            · exact l
            · exact Nat.lt_trans l (hu.1.1 q hq))] at h1
          simp [Tab.get, Tab.find?] at h1; exact absurd h1 hv
        · exact e
        · have h1 := h b
          rw [low b ((a, v) :: r) (by
            intro q hq; rcases List.mem_cons.1 hq with rfl | hq
            · exact l
            · exact Nat.lt_trans l (ht.1.1 q hq))] at h1
          simp [Tab.get, Tab.find?] at h1; exact absurd h1.symm hw
      subst hab
      have hvw : v = w := by have := h a; simpa [Tab.get, Tab.find?] using this
      subst hvw
      have hr : r = r' := by
        refine ih ?_ ?_ ?_
        · simp only [Tab.wf, Bool.and_eq_true, Tab.sorted_iff]; exact ⟨ht.1.2, ht.2.2⟩
        · simp only [Tab.wf, Bool.and_eq_true, Tab.sorted_iff]; exact ⟨hu.1.2, hu.2.2⟩
        · intro k
          by_cases hk : k = a
          · subst hk; rw [low k r ht.1.1, low k r' hu.1.1]
          · have := h k
            simpa [Tab.get, Tab.find?, hk] using this
      rw [hr]

end Sys2Proof.Machine
end

