-- ==== Sys2Proof/Laws/State.lean ====
section
/-! SUPPORT. What each update of the state leaves in each field: one lemma a field and update, true by definition, and the laws of
reading a register field after a write. -/

namespace Sys2Proof.Machine

open Sys2Proof

variable (s : State)

@[simp] theorem State.setFld_pending (f : Fld) (v i j : Nat) : (State.setFld s f v i j).pending = s.pending := rfl
@[simp] theorem State.setFld_freeCtr (f : Fld) (v i j : Nat) : (State.setFld s f v i j).freeCtr = s.freeCtr := rfl
@[simp] theorem State.setFld_regs (f : Fld) (v i j : Nat) : (State.setFld s f v i j).regs = Tab.put (f.rstOf i) (f.key i j) (v % 2 ^ f.wd) s.regs := rfl
@[simp] theorem State.setFld_mm (f : Fld) (v i j : Nat) : (State.setFld s f v i j).mm = s.mm := rfl
@[simp] theorem State.setFld_pg (f : Fld) (v i j : Nat) : (State.setFld s f v i j).pg = s.pg := rfl
@[simp] theorem State.setFld_host (f : Fld) (v i j : Nat) : (State.setFld s f v i j).host = s.host := rfl
@[simp] theorem State.setFld_flt (f : Fld) (v i j : Nat) : (State.setFld s f v i j).flt = s.flt := rfl
@[simp] theorem State.setFld_sch (f : Fld) (v i j : Nat) : (State.setFld s f v i j).sch = s.sch := rfl
@[simp] theorem State.setFld_qm (f : Fld) (v i j : Nat) : (State.setFld s f v i j).qm = s.qm := rfl
@[simp] theorem State.setFld_nbu (f : Fld) (v i j : Nat) : (State.setFld s f v i j).nbu = s.nbu := rfl
@[simp] theorem State.setFld_attn (f : Fld) (v i j : Nat) : (State.setFld s f v i j).attn = s.attn := rfl
@[simp] theorem State.setFld_tl (f : Fld) (v i j : Nat) : (State.setFld s f v i j).tl = s.tl := rfl
@[simp] theorem State.setFld_tr (f : Fld) (v i j : Nat) : (State.setFld s f v i j).tr = s.tr := rfl
@[simp] theorem State.setFld_fab (f : Fld) (v i j : Nat) : (State.setFld s f v i j).fab = s.fab := rfl
@[simp] theorem State.setFld_mer (f : Fld) (v i j : Nat) : (State.setFld s f v i j).mer = s.mer := rfl
@[simp] theorem State.setFld_pow (f : Fld) (v i j : Nat) : (State.setFld s f v i j).pow = s.pow := rfl
@[simp] theorem State.setFld_sec (f : Fld) (v i j : Nat) : (State.setFld s f v i j).sec = s.sec := rfl
@[simp] theorem State.setFld_pins (f : Fld) (v i j : Nat) : (State.setFld s f v i j).pins = s.pins := rfl
@[simp] theorem State.setFld_out (f : Fld) (v i j : Nat) : (State.setFld s f v i j).out = s.out := rfl

@[simp] theorem State.takeFree_pending (n : Nat) : (State.takeFree s n).pending = s.pending := rfl
@[simp] theorem State.takeFree_freeCtr (n : Nat) : (State.takeFree s n).freeCtr = s.freeCtr + n := rfl
@[simp] theorem State.takeFree_regs (n : Nat) : (State.takeFree s n).regs = s.regs := rfl
@[simp] theorem State.takeFree_mm (n : Nat) : (State.takeFree s n).mm = s.mm := rfl
@[simp] theorem State.takeFree_pg (n : Nat) : (State.takeFree s n).pg = s.pg := rfl
@[simp] theorem State.takeFree_host (n : Nat) : (State.takeFree s n).host = s.host := rfl
@[simp] theorem State.takeFree_flt (n : Nat) : (State.takeFree s n).flt = s.flt := rfl
@[simp] theorem State.takeFree_sch (n : Nat) : (State.takeFree s n).sch = s.sch := rfl
@[simp] theorem State.takeFree_qm (n : Nat) : (State.takeFree s n).qm = s.qm := rfl
@[simp] theorem State.takeFree_nbu (n : Nat) : (State.takeFree s n).nbu = s.nbu := rfl
@[simp] theorem State.takeFree_attn (n : Nat) : (State.takeFree s n).attn = s.attn := rfl
@[simp] theorem State.takeFree_tl (n : Nat) : (State.takeFree s n).tl = s.tl := rfl
@[simp] theorem State.takeFree_tr (n : Nat) : (State.takeFree s n).tr = s.tr := rfl
@[simp] theorem State.takeFree_fab (n : Nat) : (State.takeFree s n).fab = s.fab := rfl
@[simp] theorem State.takeFree_mer (n : Nat) : (State.takeFree s n).mer = s.mer := rfl
@[simp] theorem State.takeFree_pow (n : Nat) : (State.takeFree s n).pow = s.pow := rfl
@[simp] theorem State.takeFree_sec (n : Nat) : (State.takeFree s n).sec = s.sec := rfl
@[simp] theorem State.takeFree_pins (n : Nat) : (State.takeFree s n).pins = s.pins := rfl
@[simp] theorem State.takeFree_out (n : Nat) : (State.takeFree s n).out = s.out := rfl

@[simp] theorem State.emit_pending (o : Out) : (State.emit s o).pending = s.pending := rfl
@[simp] theorem State.emit_freeCtr (o : Out) : (State.emit s o).freeCtr = s.freeCtr := rfl
@[simp] theorem State.emit_regs (o : Out) : (State.emit s o).regs = s.regs := rfl
@[simp] theorem State.emit_mm (o : Out) : (State.emit s o).mm = s.mm := rfl
@[simp] theorem State.emit_pg (o : Out) : (State.emit s o).pg = s.pg := rfl
@[simp] theorem State.emit_host (o : Out) : (State.emit s o).host = s.host := rfl
@[simp] theorem State.emit_flt (o : Out) : (State.emit s o).flt = s.flt := rfl
@[simp] theorem State.emit_sch (o : Out) : (State.emit s o).sch = s.sch := rfl
@[simp] theorem State.emit_qm (o : Out) : (State.emit s o).qm = s.qm := rfl
@[simp] theorem State.emit_nbu (o : Out) : (State.emit s o).nbu = s.nbu := rfl
@[simp] theorem State.emit_attn (o : Out) : (State.emit s o).attn = s.attn := rfl
@[simp] theorem State.emit_tl (o : Out) : (State.emit s o).tl = s.tl := rfl
@[simp] theorem State.emit_tr (o : Out) : (State.emit s o).tr = s.tr := rfl
@[simp] theorem State.emit_fab (o : Out) : (State.emit s o).fab = s.fab := rfl
@[simp] theorem State.emit_mer (o : Out) : (State.emit s o).mer = s.mer := rfl
@[simp] theorem State.emit_pow (o : Out) : (State.emit s o).pow = s.pow := rfl
@[simp] theorem State.emit_sec (o : Out) : (State.emit s o).sec = s.sec := rfl
@[simp] theorem State.emit_pins (o : Out) : (State.emit s o).pins = s.pins := rfl
@[simp] theorem State.emit_out (o : Out) : (State.emit s o).out = s.out ++ [o] := rfl

@[simp] theorem State.setFnHost_pending (f : Nat) (h : FnHost) : (State.setFnHost s f h).pending = s.pending := rfl
@[simp] theorem State.setFnHost_freeCtr (f : Nat) (h : FnHost) : (State.setFnHost s f h).freeCtr = s.freeCtr := rfl
@[simp] theorem State.setFnHost_regs (f : Nat) (h : FnHost) : (State.setFnHost s f h).regs = s.regs := rfl
@[simp] theorem State.setFnHost_mm (f : Nat) (h : FnHost) : (State.setFnHost s f h).mm = s.mm := rfl
@[simp] theorem State.setFnHost_pg (f : Nat) (h : FnHost) : (State.setFnHost s f h).pg = s.pg := rfl
@[simp] theorem State.setFnHost_host (f : Nat) (h : FnHost) : (State.setFnHost s f h).host = { s.host with fns := Tab.put fnHost0 f h s.host.fns } := rfl
@[simp] theorem State.setFnHost_flt (f : Nat) (h : FnHost) : (State.setFnHost s f h).flt = s.flt := rfl
@[simp] theorem State.setFnHost_sch (f : Nat) (h : FnHost) : (State.setFnHost s f h).sch = s.sch := rfl
@[simp] theorem State.setFnHost_qm (f : Nat) (h : FnHost) : (State.setFnHost s f h).qm = s.qm := rfl
@[simp] theorem State.setFnHost_nbu (f : Nat) (h : FnHost) : (State.setFnHost s f h).nbu = s.nbu := rfl
@[simp] theorem State.setFnHost_attn (f : Nat) (h : FnHost) : (State.setFnHost s f h).attn = s.attn := rfl
@[simp] theorem State.setFnHost_tl (f : Nat) (h : FnHost) : (State.setFnHost s f h).tl = s.tl := rfl
@[simp] theorem State.setFnHost_tr (f : Nat) (h : FnHost) : (State.setFnHost s f h).tr = s.tr := rfl
@[simp] theorem State.setFnHost_fab (f : Nat) (h : FnHost) : (State.setFnHost s f h).fab = s.fab := rfl
@[simp] theorem State.setFnHost_mer (f : Nat) (h : FnHost) : (State.setFnHost s f h).mer = s.mer := rfl
@[simp] theorem State.setFnHost_pow (f : Nat) (h : FnHost) : (State.setFnHost s f h).pow = s.pow := rfl
@[simp] theorem State.setFnHost_sec (f : Nat) (h : FnHost) : (State.setFnHost s f h).sec = s.sec := rfl
@[simp] theorem State.setFnHost_pins (f : Nat) (h : FnHost) : (State.setFnHost s f h).pins = s.pins := rfl
@[simp] theorem State.setFnHost_out (f : Nat) (h : FnHost) : (State.setFnHost s f h).out = s.out := rfl

@[simp] theorem State.setRing_pending (f r : Nat) (g : Ring) : (State.setRing s f r g).pending = s.pending := rfl
@[simp] theorem State.setRing_freeCtr (f r : Nat) (g : Ring) : (State.setRing s f r g).freeCtr = s.freeCtr := rfl
@[simp] theorem State.setRing_regs (f r : Nat) (g : Ring) : (State.setRing s f r g).regs = s.regs := rfl
@[simp] theorem State.setRing_mm (f r : Nat) (g : Ring) : (State.setRing s f r g).mm = s.mm := rfl
@[simp] theorem State.setRing_pg (f r : Nat) (g : Ring) : (State.setRing s f r g).pg = s.pg := rfl
@[simp] theorem State.setRing_host (f r : Nat) (g : Ring) : (State.setRing s f r g).host = { s.host with rings := Tab.put ring0 (ringKey f r) g s.host.rings } := rfl
@[simp] theorem State.setRing_flt (f r : Nat) (g : Ring) : (State.setRing s f r g).flt = s.flt := rfl
@[simp] theorem State.setRing_sch (f r : Nat) (g : Ring) : (State.setRing s f r g).sch = s.sch := rfl
@[simp] theorem State.setRing_qm (f r : Nat) (g : Ring) : (State.setRing s f r g).qm = s.qm := rfl
@[simp] theorem State.setRing_nbu (f r : Nat) (g : Ring) : (State.setRing s f r g).nbu = s.nbu := rfl
@[simp] theorem State.setRing_attn (f r : Nat) (g : Ring) : (State.setRing s f r g).attn = s.attn := rfl
@[simp] theorem State.setRing_tl (f r : Nat) (g : Ring) : (State.setRing s f r g).tl = s.tl := rfl
@[simp] theorem State.setRing_tr (f r : Nat) (g : Ring) : (State.setRing s f r g).tr = s.tr := rfl
@[simp] theorem State.setRing_fab (f r : Nat) (g : Ring) : (State.setRing s f r g).fab = s.fab := rfl
@[simp] theorem State.setRing_mer (f r : Nat) (g : Ring) : (State.setRing s f r g).mer = s.mer := rfl
@[simp] theorem State.setRing_pow (f r : Nat) (g : Ring) : (State.setRing s f r g).pow = s.pow := rfl
@[simp] theorem State.setRing_sec (f r : Nat) (g : Ring) : (State.setRing s f r g).sec = s.sec := rfl
@[simp] theorem State.setRing_pins (f r : Nat) (g : Ring) : (State.setRing s f r g).pins = s.pins := rfl
@[simp] theorem State.setRing_out (f r : Nat) (g : Ring) : (State.setRing s f r g).out = s.out := rfl

@[simp] theorem State.setSpan_pending (n : Nat) (x : Span) : (State.setSpan s n x).pending = s.pending := rfl
@[simp] theorem State.setSpan_freeCtr (n : Nat) (x : Span) : (State.setSpan s n x).freeCtr = s.freeCtr := rfl
@[simp] theorem State.setSpan_regs (n : Nat) (x : Span) : (State.setSpan s n x).regs = s.regs := rfl
@[simp] theorem State.setSpan_mm (n : Nat) (x : Span) : (State.setSpan s n x).mm = s.mm := rfl
@[simp] theorem State.setSpan_pg (n : Nat) (x : Span) : (State.setSpan s n x).pg = { s.pg with spans := Tab.ins n x s.pg.spans } := rfl
@[simp] theorem State.setSpan_host (n : Nat) (x : Span) : (State.setSpan s n x).host = s.host := rfl
@[simp] theorem State.setSpan_flt (n : Nat) (x : Span) : (State.setSpan s n x).flt = s.flt := rfl
@[simp] theorem State.setSpan_sch (n : Nat) (x : Span) : (State.setSpan s n x).sch = s.sch := rfl
@[simp] theorem State.setSpan_qm (n : Nat) (x : Span) : (State.setSpan s n x).qm = s.qm := rfl
@[simp] theorem State.setSpan_nbu (n : Nat) (x : Span) : (State.setSpan s n x).nbu = s.nbu := rfl
@[simp] theorem State.setSpan_attn (n : Nat) (x : Span) : (State.setSpan s n x).attn = s.attn := rfl
@[simp] theorem State.setSpan_tl (n : Nat) (x : Span) : (State.setSpan s n x).tl = s.tl := rfl
@[simp] theorem State.setSpan_tr (n : Nat) (x : Span) : (State.setSpan s n x).tr = s.tr := rfl
@[simp] theorem State.setSpan_fab (n : Nat) (x : Span) : (State.setSpan s n x).fab = s.fab := rfl
@[simp] theorem State.setSpan_mer (n : Nat) (x : Span) : (State.setSpan s n x).mer = s.mer := rfl
@[simp] theorem State.setSpan_pow (n : Nat) (x : Span) : (State.setSpan s n x).pow = s.pow := rfl
@[simp] theorem State.setSpan_sec (n : Nat) (x : Span) : (State.setSpan s n x).sec = s.sec := rfl
@[simp] theorem State.setSpan_pins (n : Nat) (x : Span) : (State.setSpan s n x).pins = s.pins := rfl
@[simp] theorem State.setSpan_out (n : Nat) (x : Span) : (State.setSpan s n x).out = s.out := rfl

@[simp] theorem State.setPte_pending (n p : Nat) (e : Pte) : (State.setPte s n p e).pending = s.pending := rfl
@[simp] theorem State.setPte_freeCtr (n p : Nat) (e : Pte) : (State.setPte s n p e).freeCtr = s.freeCtr := rfl
@[simp] theorem State.setPte_regs (n p : Nat) (e : Pte) : (State.setPte s n p e).regs = s.regs := rfl
@[simp] theorem State.setPte_mm (n p : Nat) (e : Pte) : (State.setPte s n p e).mm = s.mm := rfl
@[simp] theorem State.setPte_pg (n p : Nat) (e : Pte) : (State.setPte s n p e).pg = { s.pg with ptes := Tab.put pte0 (pageKey n p) e s.pg.ptes } := rfl
@[simp] theorem State.setPte_host (n p : Nat) (e : Pte) : (State.setPte s n p e).host = s.host := rfl
@[simp] theorem State.setPte_flt (n p : Nat) (e : Pte) : (State.setPte s n p e).flt = s.flt := rfl
@[simp] theorem State.setPte_sch (n p : Nat) (e : Pte) : (State.setPte s n p e).sch = s.sch := rfl
@[simp] theorem State.setPte_qm (n p : Nat) (e : Pte) : (State.setPte s n p e).qm = s.qm := rfl
@[simp] theorem State.setPte_nbu (n p : Nat) (e : Pte) : (State.setPte s n p e).nbu = s.nbu := rfl
@[simp] theorem State.setPte_attn (n p : Nat) (e : Pte) : (State.setPte s n p e).attn = s.attn := rfl
@[simp] theorem State.setPte_tl (n p : Nat) (e : Pte) : (State.setPte s n p e).tl = s.tl := rfl
@[simp] theorem State.setPte_tr (n p : Nat) (e : Pte) : (State.setPte s n p e).tr = s.tr := rfl
@[simp] theorem State.setPte_fab (n p : Nat) (e : Pte) : (State.setPte s n p e).fab = s.fab := rfl
@[simp] theorem State.setPte_mer (n p : Nat) (e : Pte) : (State.setPte s n p e).mer = s.mer := rfl
@[simp] theorem State.setPte_pow (n p : Nat) (e : Pte) : (State.setPte s n p e).pow = s.pow := rfl
@[simp] theorem State.setPte_sec (n p : Nat) (e : Pte) : (State.setPte s n p e).sec = s.sec := rfl
@[simp] theorem State.setPte_pins (n p : Nat) (e : Pte) : (State.setPte s n p e).pins = s.pins := rfl
@[simp] theorem State.setPte_out (n p : Nat) (e : Pte) : (State.setPte s n p e).out = s.out := rfl

@[simp] theorem State.setCtx_pending (h : Nat) (c : Ctx) : (State.setCtx s h c).pending = s.pending := rfl
@[simp] theorem State.setCtx_freeCtr (h : Nat) (c : Ctx) : (State.setCtx s h c).freeCtr = s.freeCtr := rfl
@[simp] theorem State.setCtx_regs (h : Nat) (c : Ctx) : (State.setCtx s h c).regs = s.regs := rfl
@[simp] theorem State.setCtx_mm (h : Nat) (c : Ctx) : (State.setCtx s h c).mm = s.mm := rfl
@[simp] theorem State.setCtx_pg (h : Nat) (c : Ctx) : (State.setCtx s h c).pg = s.pg := rfl
@[simp] theorem State.setCtx_host (h : Nat) (c : Ctx) : (State.setCtx s h c).host = s.host := rfl
@[simp] theorem State.setCtx_flt (h : Nat) (c : Ctx) : (State.setCtx s h c).flt = s.flt := rfl
@[simp] theorem State.setCtx_sch (h : Nat) (c : Ctx) : (State.setCtx s h c).sch = { s.sch with ctxs := Tab.ins h c s.sch.ctxs } := rfl
@[simp] theorem State.setCtx_qm (h : Nat) (c : Ctx) : (State.setCtx s h c).qm = s.qm := rfl
@[simp] theorem State.setCtx_nbu (h : Nat) (c : Ctx) : (State.setCtx s h c).nbu = s.nbu := rfl
@[simp] theorem State.setCtx_attn (h : Nat) (c : Ctx) : (State.setCtx s h c).attn = s.attn := rfl
@[simp] theorem State.setCtx_tl (h : Nat) (c : Ctx) : (State.setCtx s h c).tl = s.tl := rfl
@[simp] theorem State.setCtx_tr (h : Nat) (c : Ctx) : (State.setCtx s h c).tr = s.tr := rfl
@[simp] theorem State.setCtx_fab (h : Nat) (c : Ctx) : (State.setCtx s h c).fab = s.fab := rfl
@[simp] theorem State.setCtx_mer (h : Nat) (c : Ctx) : (State.setCtx s h c).mer = s.mer := rfl
@[simp] theorem State.setCtx_pow (h : Nat) (c : Ctx) : (State.setCtx s h c).pow = s.pow := rfl
@[simp] theorem State.setCtx_sec (h : Nat) (c : Ctx) : (State.setCtx s h c).sec = s.sec := rfl
@[simp] theorem State.setCtx_pins (h : Nat) (c : Ctx) : (State.setCtx s h c).pins = s.pins := rfl
@[simp] theorem State.setCtx_out (h : Nat) (c : Ctx) : (State.setCtx s h c).out = s.out := rfl

@[simp] theorem State.updCtx_pending (h : Nat) (f : Ctx → Ctx) : (State.updCtx s h f).pending = s.pending := rfl
@[simp] theorem State.updCtx_freeCtr (h : Nat) (f : Ctx → Ctx) : (State.updCtx s h f).freeCtr = s.freeCtr := rfl
@[simp] theorem State.updCtx_regs (h : Nat) (f : Ctx → Ctx) : (State.updCtx s h f).regs = s.regs := rfl
@[simp] theorem State.updCtx_mm (h : Nat) (f : Ctx → Ctx) : (State.updCtx s h f).mm = s.mm := rfl
@[simp] theorem State.updCtx_pg (h : Nat) (f : Ctx → Ctx) : (State.updCtx s h f).pg = s.pg := rfl
@[simp] theorem State.updCtx_host (h : Nat) (f : Ctx → Ctx) : (State.updCtx s h f).host = s.host := rfl
@[simp] theorem State.updCtx_flt (h : Nat) (f : Ctx → Ctx) : (State.updCtx s h f).flt = s.flt := rfl
@[simp] theorem State.updCtx_sch (h : Nat) (f : Ctx → Ctx) : (State.updCtx s h f).sch = { s.sch with ctxs := Tab.upd h f s.sch.ctxs } := rfl
@[simp] theorem State.updCtx_qm (h : Nat) (f : Ctx → Ctx) : (State.updCtx s h f).qm = s.qm := rfl
@[simp] theorem State.updCtx_nbu (h : Nat) (f : Ctx → Ctx) : (State.updCtx s h f).nbu = s.nbu := rfl
@[simp] theorem State.updCtx_attn (h : Nat) (f : Ctx → Ctx) : (State.updCtx s h f).attn = s.attn := rfl
@[simp] theorem State.updCtx_tl (h : Nat) (f : Ctx → Ctx) : (State.updCtx s h f).tl = s.tl := rfl
@[simp] theorem State.updCtx_tr (h : Nat) (f : Ctx → Ctx) : (State.updCtx s h f).tr = s.tr := rfl
@[simp] theorem State.updCtx_fab (h : Nat) (f : Ctx → Ctx) : (State.updCtx s h f).fab = s.fab := rfl
@[simp] theorem State.updCtx_mer (h : Nat) (f : Ctx → Ctx) : (State.updCtx s h f).mer = s.mer := rfl
@[simp] theorem State.updCtx_pow (h : Nat) (f : Ctx → Ctx) : (State.updCtx s h f).pow = s.pow := rfl
@[simp] theorem State.updCtx_sec (h : Nat) (f : Ctx → Ctx) : (State.updCtx s h f).sec = s.sec := rfl
@[simp] theorem State.updCtx_pins (h : Nat) (f : Ctx → Ctx) : (State.updCtx s h f).pins = s.pins := rfl
@[simp] theorem State.updCtx_out (h : Nat) (f : Ctx → Ctx) : (State.updCtx s h f).out = s.out := rfl

@[simp] theorem State.setQueue_pending (q : Nat) (x : Queue) : (State.setQueue s q x).pending = s.pending := rfl
@[simp] theorem State.setQueue_freeCtr (q : Nat) (x : Queue) : (State.setQueue s q x).freeCtr = s.freeCtr := rfl
@[simp] theorem State.setQueue_regs (q : Nat) (x : Queue) : (State.setQueue s q x).regs = s.regs := rfl
@[simp] theorem State.setQueue_mm (q : Nat) (x : Queue) : (State.setQueue s q x).mm = s.mm := rfl
@[simp] theorem State.setQueue_pg (q : Nat) (x : Queue) : (State.setQueue s q x).pg = s.pg := rfl
@[simp] theorem State.setQueue_host (q : Nat) (x : Queue) : (State.setQueue s q x).host = s.host := rfl
@[simp] theorem State.setQueue_flt (q : Nat) (x : Queue) : (State.setQueue s q x).flt = s.flt := rfl
@[simp] theorem State.setQueue_sch (q : Nat) (x : Queue) : (State.setQueue s q x).sch = s.sch := rfl
@[simp] theorem State.setQueue_qm (q : Nat) (x : Queue) : (State.setQueue s q x).qm = { s.qm with queues := Tab.ins q x s.qm.queues } := rfl
@[simp] theorem State.setQueue_nbu (q : Nat) (x : Queue) : (State.setQueue s q x).nbu = s.nbu := rfl
@[simp] theorem State.setQueue_attn (q : Nat) (x : Queue) : (State.setQueue s q x).attn = s.attn := rfl
@[simp] theorem State.setQueue_tl (q : Nat) (x : Queue) : (State.setQueue s q x).tl = s.tl := rfl
@[simp] theorem State.setQueue_tr (q : Nat) (x : Queue) : (State.setQueue s q x).tr = s.tr := rfl
@[simp] theorem State.setQueue_fab (q : Nat) (x : Queue) : (State.setQueue s q x).fab = s.fab := rfl
@[simp] theorem State.setQueue_mer (q : Nat) (x : Queue) : (State.setQueue s q x).mer = s.mer := rfl
@[simp] theorem State.setQueue_pow (q : Nat) (x : Queue) : (State.setQueue s q x).pow = s.pow := rfl
@[simp] theorem State.setQueue_sec (q : Nat) (x : Queue) : (State.setQueue s q x).sec = s.sec := rfl
@[simp] theorem State.setQueue_pins (q : Nat) (x : Queue) : (State.setQueue s q x).pins = s.pins := rfl
@[simp] theorem State.setQueue_out (q : Nat) (x : Queue) : (State.setQueue s q x).out = s.out := rfl

@[simp] theorem State.setPort_pending (p : Nat) (x : Port) : (State.setPort s p x).pending = s.pending := rfl
@[simp] theorem State.setPort_freeCtr (p : Nat) (x : Port) : (State.setPort s p x).freeCtr = s.freeCtr := rfl
@[simp] theorem State.setPort_regs (p : Nat) (x : Port) : (State.setPort s p x).regs = s.regs := rfl
@[simp] theorem State.setPort_mm (p : Nat) (x : Port) : (State.setPort s p x).mm = s.mm := rfl
@[simp] theorem State.setPort_pg (p : Nat) (x : Port) : (State.setPort s p x).pg = s.pg := rfl
@[simp] theorem State.setPort_host (p : Nat) (x : Port) : (State.setPort s p x).host = s.host := rfl
@[simp] theorem State.setPort_flt (p : Nat) (x : Port) : (State.setPort s p x).flt = s.flt := rfl
@[simp] theorem State.setPort_sch (p : Nat) (x : Port) : (State.setPort s p x).sch = s.sch := rfl
@[simp] theorem State.setPort_qm (p : Nat) (x : Port) : (State.setPort s p x).qm = s.qm := rfl
@[simp] theorem State.setPort_nbu (p : Nat) (x : Port) : (State.setPort s p x).nbu = s.nbu := rfl
@[simp] theorem State.setPort_attn (p : Nat) (x : Port) : (State.setPort s p x).attn = s.attn := rfl
@[simp] theorem State.setPort_tl (p : Nat) (x : Port) : (State.setPort s p x).tl = s.tl := rfl
@[simp] theorem State.setPort_tr (p : Nat) (x : Port) : (State.setPort s p x).tr = s.tr := rfl
@[simp] theorem State.setPort_fab (p : Nat) (x : Port) : (State.setPort s p x).fab = { s.fab with ports := Tab.put port0 p x s.fab.ports } := rfl
@[simp] theorem State.setPort_mer (p : Nat) (x : Port) : (State.setPort s p x).mer = s.mer := rfl
@[simp] theorem State.setPort_pow (p : Nat) (x : Port) : (State.setPort s p x).pow = s.pow := rfl
@[simp] theorem State.setPort_sec (p : Nat) (x : Port) : (State.setPort s p x).sec = s.sec := rfl
@[simp] theorem State.setPort_pins (p : Nat) (x : Port) : (State.setPort s p x).pins = s.pins := rfl
@[simp] theorem State.setPort_out (p : Nat) (x : Port) : (State.setPort s p x).out = s.out := rfl

@[simp] theorem State.setStack_pending (k : Nat) (x : StackSt) : (State.setStack s k x).pending = s.pending := rfl
@[simp] theorem State.setStack_freeCtr (k : Nat) (x : StackSt) : (State.setStack s k x).freeCtr = s.freeCtr := rfl
@[simp] theorem State.setStack_regs (k : Nat) (x : StackSt) : (State.setStack s k x).regs = s.regs := rfl
@[simp] theorem State.setStack_mm (k : Nat) (x : StackSt) : (State.setStack s k x).mm = s.mm := rfl
@[simp] theorem State.setStack_pg (k : Nat) (x : StackSt) : (State.setStack s k x).pg = s.pg := rfl
@[simp] theorem State.setStack_host (k : Nat) (x : StackSt) : (State.setStack s k x).host = s.host := rfl
@[simp] theorem State.setStack_flt (k : Nat) (x : StackSt) : (State.setStack s k x).flt = s.flt := rfl
@[simp] theorem State.setStack_sch (k : Nat) (x : StackSt) : (State.setStack s k x).sch = s.sch := rfl
@[simp] theorem State.setStack_qm (k : Nat) (x : StackSt) : (State.setStack s k x).qm = s.qm := rfl
@[simp] theorem State.setStack_nbu (k : Nat) (x : StackSt) : (State.setStack s k x).nbu = { s.nbu with perStack := Tab.put stack0 k x s.nbu.perStack } := rfl
@[simp] theorem State.setStack_attn (k : Nat) (x : StackSt) : (State.setStack s k x).attn = s.attn := rfl
@[simp] theorem State.setStack_tl (k : Nat) (x : StackSt) : (State.setStack s k x).tl = s.tl := rfl
@[simp] theorem State.setStack_tr (k : Nat) (x : StackSt) : (State.setStack s k x).tr = s.tr := rfl
@[simp] theorem State.setStack_fab (k : Nat) (x : StackSt) : (State.setStack s k x).fab = s.fab := rfl
@[simp] theorem State.setStack_mer (k : Nat) (x : StackSt) : (State.setStack s k x).mer = s.mer := rfl
@[simp] theorem State.setStack_pow (k : Nat) (x : StackSt) : (State.setStack s k x).pow = s.pow := rfl
@[simp] theorem State.setStack_sec (k : Nat) (x : StackSt) : (State.setStack s k x).sec = s.sec := rfl
@[simp] theorem State.setStack_pins (k : Nat) (x : StackSt) : (State.setStack s k x).pins = s.pins := rfl
@[simp] theorem State.setStack_out (k : Nat) (x : StackSt) : (State.setStack s k x).out = s.out := rfl

@[simp] theorem State.setEndp_pending (n : Nat) (e : Endpoint) : (State.setEndp s n e).pending = s.pending := rfl
@[simp] theorem State.setEndp_freeCtr (n : Nat) (e : Endpoint) : (State.setEndp s n e).freeCtr = s.freeCtr := rfl
@[simp] theorem State.setEndp_regs (n : Nat) (e : Endpoint) : (State.setEndp s n e).regs = s.regs := rfl
@[simp] theorem State.setEndp_mm (n : Nat) (e : Endpoint) : (State.setEndp s n e).mm = s.mm := rfl
@[simp] theorem State.setEndp_pg (n : Nat) (e : Endpoint) : (State.setEndp s n e).pg = s.pg := rfl
@[simp] theorem State.setEndp_host (n : Nat) (e : Endpoint) : (State.setEndp s n e).host = s.host := rfl
@[simp] theorem State.setEndp_flt (n : Nat) (e : Endpoint) : (State.setEndp s n e).flt = s.flt := rfl
@[simp] theorem State.setEndp_sch (n : Nat) (e : Endpoint) : (State.setEndp s n e).sch = s.sch := rfl
@[simp] theorem State.setEndp_qm (n : Nat) (e : Endpoint) : (State.setEndp s n e).qm = s.qm := rfl
@[simp] theorem State.setEndp_nbu (n : Nat) (e : Endpoint) : (State.setEndp s n e).nbu = s.nbu := rfl
@[simp] theorem State.setEndp_attn (n : Nat) (e : Endpoint) : (State.setEndp s n e).attn = s.attn := rfl
@[simp] theorem State.setEndp_tl (n : Nat) (e : Endpoint) : (State.setEndp s n e).tl = s.tl := rfl
@[simp] theorem State.setEndp_tr (n : Nat) (e : Endpoint) : (State.setEndp s n e).tr = { s.tr with eps := Tab.ins n e s.tr.eps } := rfl
@[simp] theorem State.setEndp_fab (n : Nat) (e : Endpoint) : (State.setEndp s n e).fab = s.fab := rfl
@[simp] theorem State.setEndp_mer (n : Nat) (e : Endpoint) : (State.setEndp s n e).mer = s.mer := rfl
@[simp] theorem State.setEndp_pow (n : Nat) (e : Endpoint) : (State.setEndp s n e).pow = s.pow := rfl
@[simp] theorem State.setEndp_sec (n : Nat) (e : Endpoint) : (State.setEndp s n e).sec = s.sec := rfl
@[simp] theorem State.setEndp_pins (n : Nat) (e : Endpoint) : (State.setEndp s n e).pins = s.pins := rfl
@[simp] theorem State.setEndp_out (n : Nat) (e : Endpoint) : (State.setEndp s n e).out = s.out := rfl

@[simp] theorem State.updPow_pending (f : Power → Power) : (State.updPow s f).pending = s.pending := rfl
@[simp] theorem State.updPow_freeCtr (f : Power → Power) : (State.updPow s f).freeCtr = s.freeCtr := rfl
@[simp] theorem State.updPow_regs (f : Power → Power) : (State.updPow s f).regs = s.regs := rfl
@[simp] theorem State.updPow_mm (f : Power → Power) : (State.updPow s f).mm = s.mm := rfl
@[simp] theorem State.updPow_pg (f : Power → Power) : (State.updPow s f).pg = s.pg := rfl
@[simp] theorem State.updPow_host (f : Power → Power) : (State.updPow s f).host = s.host := rfl
@[simp] theorem State.updPow_flt (f : Power → Power) : (State.updPow s f).flt = s.flt := rfl
@[simp] theorem State.updPow_sch (f : Power → Power) : (State.updPow s f).sch = s.sch := rfl
@[simp] theorem State.updPow_qm (f : Power → Power) : (State.updPow s f).qm = s.qm := rfl
@[simp] theorem State.updPow_nbu (f : Power → Power) : (State.updPow s f).nbu = s.nbu := rfl
@[simp] theorem State.updPow_attn (f : Power → Power) : (State.updPow s f).attn = s.attn := rfl
@[simp] theorem State.updPow_tl (f : Power → Power) : (State.updPow s f).tl = s.tl := rfl
@[simp] theorem State.updPow_tr (f : Power → Power) : (State.updPow s f).tr = s.tr := rfl
@[simp] theorem State.updPow_fab (f : Power → Power) : (State.updPow s f).fab = s.fab := rfl
@[simp] theorem State.updPow_mer (f : Power → Power) : (State.updPow s f).mer = s.mer := rfl
@[simp] theorem State.updPow_pow (f : Power → Power) : (State.updPow s f).pow = f s.pow := rfl
@[simp] theorem State.updPow_sec (f : Power → Power) : (State.updPow s f).sec = s.sec := rfl
@[simp] theorem State.updPow_pins (f : Power → Power) : (State.updPow s f).pins = s.pins := rfl
@[simp] theorem State.updPow_out (f : Power → Power) : (State.updPow s f).out = s.out := rfl

@[simp] theorem State.updSec_pending (f : Security → Security) : (State.updSec s f).pending = s.pending := rfl
@[simp] theorem State.updSec_freeCtr (f : Security → Security) : (State.updSec s f).freeCtr = s.freeCtr := rfl
@[simp] theorem State.updSec_regs (f : Security → Security) : (State.updSec s f).regs = s.regs := rfl
@[simp] theorem State.updSec_mm (f : Security → Security) : (State.updSec s f).mm = s.mm := rfl
@[simp] theorem State.updSec_pg (f : Security → Security) : (State.updSec s f).pg = s.pg := rfl
@[simp] theorem State.updSec_host (f : Security → Security) : (State.updSec s f).host = s.host := rfl
@[simp] theorem State.updSec_flt (f : Security → Security) : (State.updSec s f).flt = s.flt := rfl
@[simp] theorem State.updSec_sch (f : Security → Security) : (State.updSec s f).sch = s.sch := rfl
@[simp] theorem State.updSec_qm (f : Security → Security) : (State.updSec s f).qm = s.qm := rfl
@[simp] theorem State.updSec_nbu (f : Security → Security) : (State.updSec s f).nbu = s.nbu := rfl
@[simp] theorem State.updSec_attn (f : Security → Security) : (State.updSec s f).attn = s.attn := rfl
@[simp] theorem State.updSec_tl (f : Security → Security) : (State.updSec s f).tl = s.tl := rfl
@[simp] theorem State.updSec_tr (f : Security → Security) : (State.updSec s f).tr = s.tr := rfl
@[simp] theorem State.updSec_fab (f : Security → Security) : (State.updSec s f).fab = s.fab := rfl
@[simp] theorem State.updSec_mer (f : Security → Security) : (State.updSec s f).mer = s.mer := rfl
@[simp] theorem State.updSec_pow (f : Security → Security) : (State.updSec s f).pow = s.pow := rfl
@[simp] theorem State.updSec_sec (f : Security → Security) : (State.updSec s f).sec = f s.sec := rfl
@[simp] theorem State.updSec_pins (f : Security → Security) : (State.updSec s f).pins = s.pins := rfl
@[simp] theorem State.updSec_out (f : Security → Security) : (State.updSec s f).out = s.out := rfl

/-- A field reads back what was written to it, within its width. -/
@[simp] theorem State.fld_setFld_same (f : Fld) (v i j : Nat) : (s.setFld f v i j).fld f i j = v % 2 ^ f.wd := by
  simp [State.fld, State.setFld]

/-- A write to a field leaves every field with another place alone. -/
theorem State.fld_setFld_ne {f g : Fld} {i j i' j' : Nat} (h : g.key i' j' ≠ f.key i j) (v : Nat) :
    (s.setFld f v i j).fld g i' j' = s.fld g i' j' := by
  simp [State.fld, State.setFld, Tab.get_put_ne h]

/-- States with the same register store read every field alike. -/
theorem State.fld_congr {s t : State} (h : t.regs = s.regs) (f : Fld) (i j : Nat) : t.fld f i j = s.fld f i j := by
  simp [State.fld, h]

/-- The ring set is the ring read. -/
@[simp] theorem State.ring_setRing_same (f r : Nat) (g : Ring) : (s.setRing f r g).ring f r = g := by
  simp [State.ring, State.setRing]

/-- The function's host side set is the one read. -/
@[simp] theorem State.fnHost_setFnHost_same (f : Nat) (h : FnHost) : (s.setFnHost f h).fnHost f = h := by
  simp [State.fnHost, State.setFnHost]

/-- Setting a function's host side leaves the rings. -/
@[simp] theorem State.ring_setFnHost (f r k : Nat) (h : FnHost) : (s.setFnHost k h).ring f r = s.ring f r := rfl

/-- Setting a ring leaves the host side of every function. -/
@[simp] theorem State.fnHost_setRing (f r k : Nat) (g : Ring) : (s.setRing f r g).fnHost k = s.fnHost k := rfl

end Sys2Proof.Machine
end

