-- ==== Sys2Proof/Laws/Finish.lean ====
section
/-! SUPPORT. What the end of a command does, said once: the alert tree and ALERT_N agree with the leaves afterwards, and nothing but
events, their interrupts and their log changes. -/

namespace Sys2Proof.Machine

open Sys2Proof

/-! What events leave alone. -/

theorem Quiet.refl (f : Nat) (s : State) : Quiet f s s where
  pending := rfl
  mm := rfl
  pg := rfl
  sch := rfl
  qm := rfl
  nbu := rfl
  attn := rfl
  tl := rfl
  tr := rfl
  fab := rfl
  mer := rfl
  pow := rfl
  sec := rfl
  pins := rfl
  regs := fun _ _ => rfl
  rings := fun _ _ => ⟨rfl, rfl, rfl, rfl, rfl⟩
  fns := fun _ _ => rfl
  resetting := fun _ => rfl
  msix := rfl
  accepted := rfl
  numVfs := rfl
  linkDown := rfl
  flt := rfl
  logs := fun _ _ => rfl
  out := ⟨[], by simp⟩

theorem Quiet.trans {f : Nat} {s t u : State} (a : Quiet f s t) (b : Quiet f t u) : Quiet f s u where
  pending := b.pending.trans a.pending
  mm := b.mm.trans a.mm
  pg := b.pg.trans a.pg
  sch := b.sch.trans a.sch
  qm := b.qm.trans a.qm
  nbu := b.nbu.trans a.nbu
  attn := b.attn.trans a.attn
  tl := b.tl.trans a.tl
  tr := b.tr.trans a.tr
  fab := b.fab.trans a.fab
  mer := b.mer.trans a.mer
  pow := b.pow.trans a.pow
  sec := b.sec.trans a.sec
  pins := by rw [b.pins, a.pins]
  regs := fun k h => (b.regs k h).trans (a.regs k h)
  rings := fun g r => by
    obtain ⟨a1, a2, a3, a4, a5⟩ := a.rings g r
    obtain ⟨b1, b2, b3, b4, b5⟩ := b.rings g r
    exact ⟨b1.trans a1, b2.trans a2, b3.trans a3, b4.trans a4, b5.trans a5⟩
  fns := fun g h => (b.fns g h).trans (a.fns g h)
  resetting := fun g => (b.resetting g).trans (a.resetting g)
  msix := b.msix.trans a.msix
  accepted := b.accepted.trans a.accepted
  numVfs := b.numVfs.trans a.numVfs
  linkDown := b.linkDown.trans a.linkDown
  flt := by rw [b.flt, a.flt]
  logs := fun g h => (b.logs g h).trans (a.logs g h)
  out := by
    obtain ⟨l, hl⟩ := a.out
    obtain ⟨m, hm⟩ := b.out
    exact ⟨l ++ m, by rw [hm, hl, List.append_assoc]⟩

theorem quiet_foldl {α : Type} {f : Nat} (g : State → α → State) (h : ∀ s a, Quiet f s (g s a)) (l : List α) (s : State) :
    Quiet f s (l.foldl g s) := by
  induction l generalizing s with
  | nil => exact Quiet.refl f s
  | cons a r ih => exact (h s a).trans (ih _)

theorem State.find?_setFld_ne (s : State) {f : Fld} {i j k : Nat} (h : k ≠ f.key i j) (v : Nat) :
    Tab.find? k (s.setFld f v i j).regs = Tab.find? k s.regs := by
  simp only [State.setFld_regs]
  unfold Tab.put
  split_ifs
  · exact Tab.find?_del_ne h _
  · exact Tab.find?_ins_ne h _ _

theorem evtKey_alert (f : Nat) : EvtKey f (Fld.key R.ALERT_STAT.BLOCKS 0 0) := Or.inl (Eq.refl _)
theorem evtKey_evtLost (f : Nat) : EvtKey f (Fld.key R.HI_FN_EVT_LOST.COUNT f 0) := Or.inr (Or.inl (Eq.refl _))
theorem evtKey_stat (f : Nat) : EvtKey f (Fld.key R.HI_FN_STAT.EVT_LOST f 0) := Or.inr (Or.inr (Or.inl (Eq.refl _)))
theorem evtKey_fnLost (f : Nat) : EvtKey f (Fld.key R.FLT_FN_LOST.COUNT f 0) := Or.inr (Or.inr (Or.inr (Or.inl (Eq.refl _))))
theorem evtKey_fetch (f r : Nat) : EvtKey f (Fld.key R.HI_RING_STAT.FETCH_ERR f r) :=
  Or.inr (Or.inr (Or.inr (Or.inr ⟨r, Eq.refl _⟩)))

/-- Writing a field that events write is quiet. -/
theorem quiet_setFld {f : Nat} (s : State) (g : Fld) (v i j : Nat) (h : EvtKey f (g.key i j)) : Quiet f s (s.setFld g v i j) :=
  { Quiet.refl f s with
    regs := fun _ hk => State.find?_setFld_ne s (fun e => hk (by rw [e]; exact h)) v
    fns := fun _ _ => rfl
    resetting := fun _ => rfl
    rings := fun _ _ => ⟨rfl, rfl, rfl, rfl, rfl⟩
    logs := fun _ _ => rfl
    out := ⟨[], by simp⟩ }

theorem quiet_emit {f : Nat} (s : State) (o : Out) : Quiet f s (s.emit o) :=
  { Quiet.refl f s with out := ⟨[o], rfl⟩, rings := fun _ _ => ⟨rfl, rfl, rfl, rfl, rfl⟩ }

theorem quiet_takeFree {f : Nat} (s : State) (n : Nat) : Quiet f s (s.takeFree n) :=
  { Quiet.refl f s with rings := fun _ _ => ⟨rfl, rfl, rfl, rfl, rfl⟩ }

/-- A ring whose submission side stays may change in its completion side. -/
theorem quiet_setRing {f : Nat} (s : State) (f' r : Nat) (g : Ring) (h : g.acc = (s.ring f' r).acc ∧ g.fetched = (s.ring f' r).fetched ∧
    g.tail = (s.ring f' r).tail ∧ g.head = (s.ring f' r).head ∧ g.stopped = (s.ring f' r).stopped) : Quiet f s (s.setRing f' r g) :=
  { Quiet.refl f s with
    rings := fun f1 r1 => by
      by_cases e : ringKey f1 r1 = ringKey f' r
      · have e1 : (s.setRing f' r g).ring f1 r1 = g := by simp [State.ring, e]
        have e2 : s.ring f1 r1 = s.ring f' r := by simp [State.ring, e]
        rw [e1, e2]; exact h
      · have e1 : (s.setRing f' r g).ring f1 r1 = s.ring f1 r1 := by simp [State.ring, Tab.get_put_ne e]
        rw [e1]; exact ⟨rfl, rfl, rfl, rfl, rfl⟩ }

/-- A function's host side may change but for a reset in progress. -/
theorem quiet_setFnHost {f : Nat} (s : State) (h : FnHost) (hr : h.resetting = (s.fnHost f).resetting) : Quiet f s (s.setFnHost f h) :=
  { Quiet.refl f s with
    rings := fun _ _ => ⟨rfl, rfl, rfl, rfl, rfl⟩
    fns := fun g hg => by simp [State.fnHost, Tab.get_put_ne hg]
    resetting := fun g => by
      by_cases e : g = f
      · subst e; simpa using hr
      · simp [State.fnHost, Tab.get_put_ne e] }

theorem quiet_signalVec {f : Nat} (s : State) (g v : Nat) : Quiet f s (signalVec s g v) := by
  unfold signalVec
  split_ifs
  · exact { Quiet.refl f s with rings := fun _ _ => ⟨rfl, rfl, rfl, rfl, rfl⟩ }
  · exact quiet_emit s _

theorem quiet_signalRing {f : Nat} (s : State) (g r : Nat) : Quiet f s (signalRing s g r) := by
  unfold signalRing
  exact (quiet_setRing s g r _ (by simp)).trans (quiet_signalVec _ _ _)

theorem quiet_recIrq {f : Nat} (s : State) (g r : Nat) (c : Rec) : Quiet f s (recIrq s g r c) := by
  unfold recIrq
  simp only
  split_ifs
  · exact quiet_signalRing s g r
  · exact Quiet.refl f s

theorem quiet_hostWrite {f : Nat} {s t : State} {g a : Nat} {bs : List Byte} (h : hostWrite s g a bs = some t) : Quiet f s t := by
  unfold hostWrite at h
  split_ifs at h
  cases h
  exact { Quiet.refl f s with rings := fun _ _ => ⟨rfl, rfl, rfl, rfl, rfl⟩ }

theorem hostWrite_fnHost {s t : State} {g a : Nat} {bs : List Byte} (h : hostWrite s g a bs = some t) :
    (∀ k, t.fnHost k = s.fnHost k) ∧ (∀ k r, t.ring k r = s.ring k r) := by
  unfold hostWrite at h
  split_ifs at h
  cases h
  exact ⟨fun _ => rfl, fun _ _ => rfl⟩

theorem quiet_putRec {f : Nat} {s t : State} {r : Nat} {c : Rec} {ovf : Bool} (h : putRec s f r c ovf = some t) : Quiet f s t := by
  unfold putRec at h
  simp only at h
  split at h
  · cases h
  split at h
  · cases h
  · rename_i u hu
    have hu' := hostWrite_fnHost hu
    have q : Quiet f s u := quiet_hostWrite hu
    have q1 : Quiet f u (u.setRing f r { s.ring f r with produced := ((s.ring f r).produced + 1) % 2 ^ 32, unsig := (s.ring f r).unsig + 1 }) := by
      apply quiet_setRing
      rw [hu'.2]; exact ⟨rfl, rfl, rfl, rfl, rfl⟩
    cases h
    split_ifs
    · refine (q.trans q1).trans (quiet_setFnHost _ _ ?_)
      simp [hu'.1]
    · exact q.trans q1

theorem quiet_hold {f : Nat} (u : State) (r : Nat) (c : Rec) : Quiet f u
    (let u' := u.setRing f r { (u.ring f r) with held := (u.ring f r).held ++ [c] }
     if linkDownFor u' f then u'.emit (.heldReport f r c.tag c.status) else u') := by
  simp only
  split_ifs
  · exact (quiet_setRing u f r _ (by simp)).trans (quiet_emit _ _)
  · exact quiet_setRing u f r _ (by simp)

theorem quiet_deliver (s : State) (f r : Nat) (c : Rec) : Quiet f s (deliver s f r c) := by
  unfold deliver
  simp only
  split
  · exact quiet_hold s r c
  · split
    · rename_i u hu
      exact (quiet_putRec hu).trans (quiet_recIrq u f r c)
    · exact Quiet.trans (quiet_setFld s _ 1 _ _ (evtKey_fetch f r)) (quiet_hold _ r c)

theorem quiet_logFnRaw (s : State) (f : Nat) (e : LogEntry) : Quiet f s (logFnRaw s f e) := by
  have q : ∀ l : Log, Quiet f s { s with flt := { s.flt with fnLogs := Tab.put log0 f l s.flt.fnLogs, latest := some e } } := fun l =>
    { Quiet.refl f s with
      rings := fun _ _ => ⟨rfl, rfl, rfl, rfl, rfl⟩
      flt := rfl
      logs := fun g hg => by simp [State.fnLog, Tab.get_put_ne hg] }
  unfold logFnRaw
  simp only
  split
  · exact (q _).trans (quiet_setFnHost _ _ (by rfl))
  · exact (q _).trans (quiet_setFld _ _ _ _ _ (evtKey_fnLost f))

theorem quiet_setLog {f : Nat} (s : State) (a b : Nat) :
    Quiet f s (s.setFnHost f { s.fnHost f with logAdded := a, logEvt := b }) := quiet_setFnHost s _ rfl

/-- An event of a function is quiet. -/
theorem quiet_eventGo (k : Nat) : ∀ (s : State) (f code : Nat) (st : Status) (result : List Byte),
    Quiet f s (eventGo k f code st result s) := by
  induction k with
  | zero => intro s f _ _ _; exact Quiet.refl f s
  | succ k ih =>
    intro s f code st result
    simp only [eventGo]
    split_ifs with h1 h2 h3 h4 h5
    · exact Quiet.refl f s
    · refine Quiet.trans ?_ (ih _ _ _ _ _)
      refine Quiet.trans ?_ (quiet_setLog _ _ _)
      refine Quiet.trans ?_ (quiet_logFnRaw _ _ _)
      refine Quiet.trans ?_ (quiet_setFld _ _ _ _ _ (evtKey_stat f))
      refine Quiet.trans ?_ (quiet_setFld _ _ _ _ _ (evtKey_evtLost f))
      exact quiet_setFnHost s _ (by rfl)
    · refine Quiet.trans ?_ (quiet_logFnRaw _ _ _)
      refine Quiet.trans ?_ (quiet_setFld _ _ _ _ _ (evtKey_stat f))
      refine Quiet.trans ?_ (quiet_setFld _ _ _ _ _ (evtKey_evtLost f))
      exact quiet_setFnHost s _ (by rfl)
    · exact (quiet_setFnHost s _ (by rfl)).trans (quiet_deliver _ _ _ _)
    · exact ((quiet_setFnHost s _ (by rfl)).trans (quiet_setFnHost _ _ (by rfl))).trans (quiet_emit _ _)
    · exact (quiet_setFnHost s _ (by rfl)).trans (quiet_setFnHost _ _ (by rfl))

theorem quiet_raiseEvent (s : State) (f code : Nat) (st : Status) (result : List Byte) : Quiet f s (raiseEvent s f code st result) :=
  quiet_eventGo 3 s f code st result

theorem quiet_moduleEvent (s : State) : Quiet 0 s (moduleEvent s) := by
  unfold moduleEvent
  split
  · exact quiet_raiseEvent _ _ _ _ _
  · exact (quiet_takeFree s 17).trans (quiet_raiseEvent _ _ _ _ _)

theorem quiet_alertGo (k : Nat) : ∀ s : State, Quiet 0 s (alertGo k s) := by
  induction k with
  | zero => intro s; exact quiet_setFld s _ _ _ _ (evtKey_alert 0)
  | succ k ih =>
    intro s
    simp only [alertGo]
    split_ifs
    · exact quiet_setFld s _ _ _ _ (evtKey_alert 0)
    · refine Quiet.trans ?_ (ih _)
      refine Quiet.trans (Quiet.trans (quiet_setFld s _ (alertBits s) _ _ (evtKey_alert 0)) ?_) (quiet_foldl _ (fun s _ => quiet_moduleEvent s) _ _)
      exact quiet_foldl _ (fun s b => quiet_emit s _) _ _

theorem quiet_alertPin (s : State) : Quiet 0 s (alertPin s) :=
  { Quiet.refl 0 s with pins := rfl, rings := fun _ _ => ⟨rfl, rfl, rfl, rfl, rfl⟩ }

/-- What a command noted for its own end is forgotten with it. -/
theorem quiet_forget {f : Nat} (s : State) :
    Quiet f s { s with flt := { s.flt with latest := none }, host := { s.host with tlpPsn := [] } } :=
  { Quiet.refl f s with rings := fun _ _ => ⟨rfl, rfl, rfl, rfl, rfl⟩, flt := rfl }

/-- The end of a command is quiet. -/
theorem quiet_finish (s : State) : Quiet 0 s (finish s) := ((quiet_alertGo 3 s).trans (quiet_alertPin _)).trans (quiet_forget _)

/-! The alert tree. -/

/-- No leaf of the tree is ALERT_STAT itself. -/
theorem leaf_not_alertStat : alertLeaves.all (fun fs => fs.all (fun f => !f.owns (R.ALERT_STAT.BLOCKS.key 0 0))) = true := by
  decide

theorem any_del {k : Nat} {f : Fld} (h : f.owns k = false) (t : List (Nat × Nat)) :
    (Tab.del k t).any (fun p => f.owns p.1 && p.2 != 0) = t.any (fun p => f.owns p.1 && p.2 != 0) := by
  induction t with
  | nil => rfl
  | cons p r ih =>
    obtain ⟨a, v⟩ := p
    by_cases e : a = k
    · have e1 : Tab.del k ((a, v) :: r) = Tab.del k r := by simp [Tab.del, e]
      rw [e1, ih, List.any_cons, e, h]; rfl
    · have e1 : Tab.del k ((a, v) :: r) = (a, v) :: Tab.del k r := by simp [Tab.del, e]
      rw [e1, List.any_cons, List.any_cons, ih]

theorem any_ins {k w : Nat} {f : Fld} (h : f.owns k = false) (t : List (Nat × Nat)) :
    (Tab.ins k w t).any (fun p => f.owns p.1 && p.2 != 0) = t.any (fun p => f.owns p.1 && p.2 != 0) := by
  induction t with
  | nil => simp [Tab.ins, h]
  | cons p r ih =>
    obtain ⟨a, v⟩ := p
    simp only [Tab.ins]
    split_ifs with h1 h2
    · simp [h]
    · subst h2; simp [h]
    · rw [List.any_cons, List.any_cons, ih]

/-- The leaves do not move with ALERT_STAT. -/
theorem alertBits_setBlocks (s : State) (v : Nat) : alertBits (s.setFld R.ALERT_STAT.BLOCKS v) = alertBits s := by
  unfold alertBits
  congr 1
  apply List.map_congr_left
  intro q hq
  have hm : q.1 ∈ alertLeaves := by
    obtain ⟨a, n⟩ := q
    exact List.fst_mem_of_mem_zipIdx hq
  have hl := leaf_not_alertStat
  rw [List.all_eq_true] at hl
  have hf := hl _ hm
  rw [List.all_eq_true] at hf
  have e : anyLeaf (s.setFld R.ALERT_STAT.BLOCKS v).regs q.1 = anyLeaf s.regs q.1 := by
    unfold anyLeaf
    rw [Bool.eq_iff_iff, List.any_eq_true, List.any_eq_true]
    refine exists_congr (fun f => and_congr_right (fun hmem => ?_))
    have ho : f.owns (R.ALERT_STAT.BLOCKS.key 0 0) = false := by simpa using hf f hmem
    rw [State.setFld_regs]
    unfold Tab.put
    split_ifs
    · rw [any_del ho]
    · rw [any_ins ho]
  rw [e]

/-- ALERT_STAT has room for the 18 blocks. -/
theorem alertBits_lt (s : State) : alertBits s < 2 ^ 18 := by
  have key : ∀ (l : List (List Fld)) (n acc : Nat), acc < 2 ^ n →
      (((l.zipIdx n).map (fun q => if anyLeaf s.regs q.1 then 2 ^ q.2 else 0)).foldl (· + ·) acc) < 2 ^ (n + l.length) := by
    intro l
    induction l with
    | nil => intro n acc h; simpa using h
    | cons a r ih =>
      intro n acc h
      simp only [List.zipIdx_cons, List.map_cons, List.foldl_cons, List.length_cons]
      have := ih (n + 1) (acc + (if anyLeaf s.regs a then 2 ^ n else 0)) (by split_ifs <;> omega)
      have e : n + (r.length + 1) = n + 1 + r.length := by omega
      rw [e]; exact this
  have := key alertLeaves 0 0 (by decide)
  simpa [alertBits, alertLeaves] using this

theorem alertGo_blocks (k : Nat) : ∀ s : State, (alertGo k s).fld R.ALERT_STAT.BLOCKS = alertBits (alertGo k s) := by
  have base : ∀ s : State, (s.setFld R.ALERT_STAT.BLOCKS (alertBits s)).fld R.ALERT_STAT.BLOCKS =
      alertBits (s.setFld R.ALERT_STAT.BLOCKS (alertBits s)) := by
    intro s
    rw [State.fld_setFld_same, alertBits_setBlocks]
    exact Nat.mod_eq_of_lt (alertBits_lt s)
  induction k with
  | zero => intro s; exact base s
  | succ k ih =>
    intro s
    simp only [alertGo]
    split_ifs
    · exact base s
    · exact ih _

/-- After a command the alert tree and ALERT_N agree with the leaves (R355). -/
theorem finish_alertInv (s : State) : AlertInv (finish s) where
  blocks := alertGo_blocks 3 s
  pin := rfl

end Sys2Proof.Machine
end

