-- ==== Sys2Proof/Laws/Attn.lean ====
section
/-! SUPPORT. What the dispatch of an attention operation does where every page it reads is at hand. -/

namespace Sys2Proof.Machine

open Sys2Proof

theorem touch_only (s : State) (n p : Nat) : ∃ m, touch s n p = { s with pg := { s.pg with ptes := m } } := by
  unfold touch
  dsimp only
  split_ifs
  · exact ⟨s.pg.ptes, rfl⟩
  · exact ⟨_, rfl⟩

theorem touch_st (s : State) (n p q : Nat) : ((touch s n p).pte n q).st = (s.pte n q).st := by
  unfold touch
  dsimp only
  split_ifs
  · rfl
  · by_cases e : pageKey n q = pageKey n p
    · have : q = p := by unfold pageKey at e; omega
      subst this
      simp [State.pte, State.setPte]
    · simp [State.pte, State.setPte, Tab.get_put_ne e]

/-- Touching pages changes their entries alone. -/
theorem touchRead_only (n : Nat) (ps : List (Nat × List Nat)) : ∀ s : State, ∃ m, touchRead s n ps = { s with pg := { s.pg with ptes := m } } := by
  unfold touchRead
  induction ps with
  | nil => exact fun s => ⟨s.pg.ptes, rfl⟩
  | cons p ps ih =>
    intro s
    rw [List.foldl_cons]
    split_ifs
    · obtain ⟨m, h⟩ := touch_only s n p.1
      obtain ⟨m', h'⟩ := ih (touch s n p.1)
      exact ⟨m', by rw [h', h]⟩
    · exact ih s

theorem touchRead_st (n : Nat) (ps : List (Nat × List Nat)) : ∀ (s : State) (q : Nat), ((touchRead s n ps).pte n q).st = (s.pte n q).st := by
  unfold touchRead
  induction ps with
  | nil => exact fun s q => rfl
  | cons p ps ih =>
    intro s q
    rw [List.foldl_cons]
    split_ifs
    · rw [ih, touch_st]
    · exact ih s q

/-- Where every page an operation reads is at hand, its dispatch computes every partial here and asks no lender. -/
theorem dispatchPages_here {s : State} {n ctx : Nat} {x : Span} (q : AttnReq) (bad : List (Nat × Nat × Byte)) {ps : List (Nat × List Nat)}
    (h : ∀ p ∈ ps, PageHere s x n p.1) :
    dispatchPages s n x q ctx bad ps =
      .go (readHere s n ctx bad ps) (partsHere s n ctx x q bad ps) [] (ps.any (fun p => (s.pte n p.1).st == .t1)) := by
  have h1 : ps.any (fun p => pageGone s n p.1) = false := by
    rw [List.any_eq_false]
    intro p hp
    rcases (h p hp).2 with e | e | e <;> simp [pageGone, e]
  have h2 : (ps.map (·.1)).filter (needsT1 s x n) = [] := by
    rw [List.filter_eq_nil_iff]
    intro a ha
    obtain ⟨p, hp, rfl⟩ := List.mem_map.1 ha
    obtain ⟨hm, hc⟩ := h p hp
    rcases hc with e | e | e <;> simp [needsT1, hm, e]
  have h3 : ps.any (fun p => pageDrains s n p.1) = false := by
    rw [List.any_eq_false]
    intro p hp
    rcases (h p hp).2 with e | e | e <;> simp [pageDrains, e]
  unfold dispatchPages
  rw [if_neg (by simp [h1]), h2]
  simp only [promoteAll, List.nil_append]
  rw [if_neg (by simp [h3])]
  have h4 : ∀ u : State, (∀ q, (u.pte n q).st = (s.pte n q).st) → askLenders u n ps q = ([], u) := by
    intro u hu
    have : ps.filter (fun p => (u.pte n p.1).st = .t3) = [] := by
      rw [List.filter_eq_nil_iff]
      intro p hp
      rcases (h p hp).2 with e | e | e <;> simp [hu, e]
    unfold askLenders
    simp [this]
  have h5 := touchRead_st n ps { (decodeInPlace n ctx bad ((ps.map (·.1)).filter (fun p => (s.pte n p).st = .t2)) s).1 with
    pg := { (decodeInPlace n ctx bad ((ps.map (·.1)).filter (fun p => (s.pte n p).st = .t2)) s).1.pg with ptes := s.pg.ptes } }
  have h6 : ∀ q, ((touchRead { (decodeInPlace n ctx bad ((ps.map (·.1)).filter (fun p => (s.pte n p).st = .t2)) s).1 with
    pg := { (decodeInPlace n ctx bad ((ps.map (·.1)).filter (fun p => (s.pte n p).st = .t2)) s).1.pg with ptes := s.pg.ptes } } n ps).pte n q).st =
      (s.pte n q).st := fun q => (h5 q).trans rfl
  rw [h4 _ h6]
  simp only [h6]
  rfl

/-- An ATTN op's results stored at DST. -/
theorem deliverAttn_store {s : State} {k : OpCtx} {w : AttnWait} {ps : List Partial} {l : Loc}
    (h : (k.o.varBit 0 || k.o.dst != 0xFFFF) = true)
    (hl : operand s k k.o.dst k.anyTile 0 (attnOut w.req (k.o.varBit 0) (k.o.varBit 1) ps).length true = some l) :
    deliverAttn s k w ps =
      some ((if w.chain then chainStore s k l (attnOut w.req (k.o.varBit 0) (k.o.varBit 1) ps)
             else locWrite s k.h l (attnOut w.req (k.o.varBit 0) (k.o.varBit 1) ps)).1,
        if (if w.chain then chainStore s k l (attnOut w.req (k.o.varBit 0) (k.o.varBit 1) ps)
            else locWrite s k.h l (attnOut w.req (k.o.varBit 0) (k.o.varBit 1) ps)).2 && ps.foldl (fun a p => a.worse (partStatus p)) w.status == .ok
        then .poison else ps.foldl (fun a p => a.worse (partStatus p)) w.status) := by
  unfold deliverAttn
  simp only [h, if_true, hl]

/-- An ATTN op's records sent to a receive queue of another node. -/
theorem deliverAttn_send {s : State} {k : OpCtx} {w : AttnWait} {ps : List Partial} (h : (k.o.varBit 0 || k.o.dst != 0xFFFF) = false)
    (hn : bits k.o.arg3 15 0 ≠ s.fld R.ROUTE_NODE.NODE) (hg : nodeLost s (bits k.o.arg3 15 0) = false) :
    deliverAttn s k w ps =
      some ((List.zip (headRecords w.req ps) (ps.map (·.psn))).foldl
        (fun s r => s.emit (.record (bits k.o.arg3 15 0) (bits k.o.arg3 31 16) false r.1)) s, ps.foldl (fun a p => a.worse (partStatus p)) w.status) := by
  unfold deliverAttn
  simp only [h, Bool.false_eq_true, if_false, hn, hg]

/-- Counting a saturation leaves a function's host side. -/
theorem hostUp_satCnt (s : State) (f k v : Nat) : hostUp (s.incFld R.FN_SAT_CNT v k) f = hostUp s f := rfl

theorem winOk_satCnt (s : State) {f : Nat} (h : f < 64) (v a n : Nat) (w : Bool) : winOk (s.incFld R.FN_SAT_CNT v f) f a n w = winOk s f a n w := by
  have key : ∀ (g : Fld) (k : Nat), g.key f k ≠ R.FN_SAT_CNT.key f 0 → (s.incFld R.FN_SAT_CNT v f).fld g f k = s.fld g f k :=
    fun g k e => State.fld_setFld_ne s e _
  have e : ∀ (g : Fld) (k : Nat), g.addr = 0x781800 ∨ g.addr = 0x781808 → g.s1 = 8192 → g.key f k ≠ R.FN_SAT_CNT.key f 0 := by
    intro g k h1 h2
    unfold Fld.key
    rw [h2]
    simp only [R.FN_SAT_CNT, fld]
    omega
  unfold winOk winAdmits State.flag
  simp only [key _ _ (e R.WIN_BASE.VALID _ (Or.inl rfl) rfl), key _ _ (e R.WIN_BASE.READ _ (Or.inl rfl) rfl),
    key _ _ (e R.WIN_BASE.WRITE _ (Or.inl rfl) rfl), key _ _ (e R.WIN_BASE.BASE _ (Or.inl rfl) rfl), key _ _ (e R.WIN_LIMIT.LIMIT _ (Or.inr rfl) rfl)]

/-- An ATTN_QUERY of ST_OK whose results may be written completes with its heads' status. -/
theorem finishQuery_ok {s : State} {f : Nat} (r n : Nat) {d : List Byte} {w : AttnWait} {ps : List Partial} (h : w.status = .ok)
    (hw : hostUp s f && winOk s f (fieldAt d 56 8 + 64 * ceilDiv (4 * w.req.heads.length * w.req.dim) 64)
      ((ps.zipIdx).flatMap (fun p => queryOut w.req (bitAt (fieldAt d 15 1) 0) (bitAt (fieldAt d 15 1) 1) p.2 p.1)).length true) :
    ∃ m, finishQuery s f r n d w ps = complete { s with host := { s.host with hostMem := m } } f r n
      (ps.foldl (fun a p => a.worse (partStatus p)) .ok) 0 (leBytes 8 (okHeads ps)) := by
  unfold finishQuery
  simp only [h, true_or, if_true]
  split_ifs
  · exact ⟨s.host.hostMem, rfl⟩
  · rw [hostWrite, if_pos hw]
    exact ⟨_, rfl⟩

end Sys2Proof.Machine
end

