-- ==== Sys2Proof/Laws/Bytes.lean ====
section
/-! SUPPORT. Little-endian fields laid out one after another, and read back (R1). -/

namespace Sys2Proof.Machine

open Sys2Proof

@[simp] theorem leBytes_length (n v : Nat) : (leBytes n v).length = n := by
  induction n generalizing v with
  | zero => rfl
  | succ n ih => simp [leBytes, ih]

/-- A field written is read back, cut to its width. -/
theorem leNat_leBytes (n v : Nat) : leNat (leBytes n v) = v % 256 ^ n := by
  induction n generalizing v with
  | zero => simp [leBytes, leNat, Nat.mod_one]
  | succ n ih =>
    simp only [leBytes, leNat, ih]
    rw [pow_succ, Nat.mul_comm (256 ^ n), Nat.mod_mul, BitVec.toNat_ofNat]

theorem leNat_leBytes_lt {n v : Nat} (h : v < 256 ^ n) : leNat (leBytes n v) = v := by
  rw [leNat_leBytes, Nat.mod_eq_of_lt h]

/-- A CRC step stays within 16 bits. -/
theorem crcBit_lt {c : Nat} (h : c < 65536) : crcBit c < 65536 := by
  unfold crcBit
  split
  · omega
  · exact Nat.xor_lt_two_pow (n := 16) (Nat.mod_lt _ (by decide)) (by decide)

/-- A CRC has 16 bits. -/
theorem crc16_lt (bs : List Byte) : crc16 bs < 65536 := by
  unfold crc16
  have : ∀ (c : Nat), c < 65536 → bs.foldl crcByte c < 65536 := by
    induction bs with
    | nil => intro c h; exact h
    | cons a l ih =>
      intro c h
      rw [List.foldl_cons]
      apply ih
      unfold crcByte
      have : Nat.xor c (a.toNat * 256) < 65536 := Nat.xor_lt_two_pow (n := 16) h (by have := a.isLt; omega)
      iterate 8 apply crcBit_lt
      exact this
  exact this _ (by decide)

/-- The first field of a layout. -/
theorem fieldAt_head (n v : Nat) (r : List Byte) : fieldAt (leBytes n v ++ r) 0 n = v % 256 ^ n := by
  unfold fieldAt
  rw [List.drop_zero, List.take_append_of_le_length (by simp), List.take_of_length_le (by simp), leNat_leBytes]

/-- Past the first field of a layout. -/
theorem fieldAt_skip (m v o n : Nat) (r : List Byte) (h : m ≤ o) : fieldAt (leBytes m v ++ r) o n = fieldAt r (o - m) n := by
  unfold fieldAt
  rw [List.drop_append, List.drop_of_length_le (by simpa using h), leBytes_length, List.nil_append]

/-- Dropping past the first field. -/
theorem drop_skip (m v o : Nat) (r : List Byte) (h : m ≤ o) : (leBytes m v ++ r).drop o = r.drop (o - m) := by
  rw [List.drop_append, List.drop_of_length_le (by simpa using h), leBytes_length, List.nil_append]

/-- A layout that is all zero from a place on. -/
theorem zeroAt_replicate (o n k : Nat) (r : List Byte) (h : o + n ≤ k) : zeroAt (List.replicate k 0#8 ++ r) o n = true := by
  unfold zeroAt
  rw [List.all_eq_true]
  intro b hb
  have h1 := List.mem_of_mem_take hb
  rw [List.drop_append_of_le_length (by simp; omega)] at hb
  rw [List.take_append_of_le_length (by simp; omega)] at hb
  have h2 := List.mem_of_mem_drop (List.mem_of_mem_take hb)
  simp [List.eq_of_mem_replicate h2]

@[simp] theorem padTo_length (n : Nat) (bs : List Byte) : (padTo n bs).length = n := by
  simp [padTo]; omega

/-- A list no longer than the length is followed by zeros. -/
theorem padTo_le {n : Nat} {bs : List Byte} (h : bs.length ≤ n) : padTo n bs = bs ++ List.replicate (n - bs.length) 0#8 := by
  unfold padTo
  rw [List.take_of_length_le (by simp; omega)]

/-- A list at least as long as the length is cut to it. -/
theorem padTo_ge {n : Nat} {bs : List Byte} (h : n ≤ bs.length) : padTo n bs = bs.take n := by
  unfold padTo
  rw [show n - bs.length = 0 by omega]; simp

end Sys2Proof.Machine
end

