-- ==== Sys2Proof/Laws/Memory.lean ====
section
/-! SUPPORT. The laws of memory: a byte read back after a write, every other byte left alone, and that every memory operation keeps the
canonical form. -/

namespace Sys2Proof.Machine

open Sys2Proof

/-- A byte below the written range is left alone. -/
theorem get_cellsWrite_lt {x : Nat} (bs : List Byte) : ∀ (m : List Host.Cell) (a : Nat), x < a →
    Tab.get 0#8 x (cellsWrite m a bs) = Tab.get 0#8 x m := by
  induction bs with
  | nil => intro m a _; rfl
  | cons b r ih =>
    intro m a h
    simp only [cellsWrite]
    rw [ih _ _ (by omega), Tab.get_put_ne (by omega)]

/-- A byte outside the written range is left alone. -/
theorem get_cellsWrite_out {x : Nat} (bs : List Byte) : ∀ (m : List Host.Cell) (a : Nat), x < a ∨ a + bs.length ≤ x →
    Tab.get 0#8 x (cellsWrite m a bs) = Tab.get 0#8 x m := by
  induction bs with
  | nil => intro m a _; rfl
  | cons b r ih =>
    intro m a h
    simp only [List.length_cons] at h
    simp only [cellsWrite]
    rw [ih _ _ (by omega), Tab.get_put_ne (by omega)]

/-- A byte of the written range reads back what was written. -/
theorem get_cellsWrite_in (bs : List Byte) : ∀ (m : List Host.Cell) (a i : Nat) (h : i < bs.length),
    Tab.get 0#8 (a + i) (cellsWrite m a bs) = bs[i] := by
  induction bs with
  | nil => intro m a i h; simp at h
  | cons b r ih =>
    intro m a i h
    simp only [cellsWrite]
    cases i with
    | zero => rw [Nat.add_zero, get_cellsWrite_lt _ _ _ (by omega)]; simp
    | succ i =>
      have e : a + (i + 1) = a + 1 + i := by omega
      simp only [List.length_cons] at h
      rw [e, ih _ _ i (by omega)]; simp

/-- What was written reads back. -/
theorem cellsRead_cellsWrite (m : List Host.Cell) (a : Nat) (bs : List Byte) : cellsRead (cellsWrite m a bs) a bs.length = bs := by
  unfold cellsRead rangeFrom
  apply List.ext_getElem
  · simp
  · intro i h1 h2
    simp only [List.map_map, List.getElem_map, List.getElem_range, Function.comp]
    exact get_cellsWrite_in bs m a i h2

/-- A cleared byte reads 0, and every other byte is left alone. -/
theorem get_cellsClear (m : List Host.Cell) (a n x : Nat) :
    Tab.get 0#8 x (cellsClear m a n) = if a ≤ x ∧ x < a + n then 0#8 else Tab.get 0#8 x m := by
  unfold cellsClear
  induction m with
  | nil => simp [Tab.get]
  | cons p r ih =>
    obtain ⟨k, v⟩ := p
    unfold Tab.get at ih ⊢
    by_cases hk : a ≤ k ∧ k < a + n
    · rw [List.filter_cons_of_neg (by simp [hk]), ih, Tab.find?_cons]
      by_cases e : x = k
      · subst e; simp [hk]
      · rw [if_neg e]
    · rw [List.filter_cons_of_pos (by simp; omega), Tab.find?_cons, Tab.find?_cons]
      by_cases e : x = k
      · subst e; simp [hk]
      · rw [if_neg e, if_neg e, ih]

/-! The canonical form. -/

theorem cellsWrite_wf (bs : List Byte) : ∀ (m : List Host.Cell) (a : Nat), Tab.wf 0#8 m = true → Tab.wf 0#8 (cellsWrite m a bs) = true := by
  induction bs with
  | nil => intro m a h; exact h
  | cons b r ih => intro m a h; exact ih _ _ (Tab.wf_put 0#8 a b h)

theorem cellsClear_wf (m : List Host.Cell) (a n : Nat) (h : Tab.wf 0#8 m = true) : Tab.wf 0#8 (cellsClear m a n) = true :=
  Tab.wf_filter 0#8 _ h

theorem Memory.wf_iff (m : Memory) : m.wf = true ↔ Tab.wf 0#8 m.mem = true ∧ Tab.sorted m.unfenced = true ∧ Tab.sorted m.remap = true ∧
    Tab.sorted m.frames = true ∧ Tab.sorted m.runs = true := by
  simp [Memory.wf, and_assoc]

theorem markLine_wf {s : State} (a w : Nat) (h : s.mm.wf = true) : (markLine s a w).mm.wf = true := h

theorem clearLine_wf {s : State} (a w : Nat) (h : s.mm.wf = true) : (clearLine s a w).mm.wf = true := h

theorem writeLine_wf {s : State} (a : Nat) (bs : List PByte) (h : s.mm.wf = true) : (writeLine s a bs).1.mm.wf = true := by
  have hw : ∀ (u : State) (x : Nat), u.mm.wf = true →
      ({ u with mm := { u.mm with mem := cellsWrite u.mm.mem x (rawBytes bs) } } : State).mm.wf = true := by
    intro u x hu
    rw [Memory.wf_iff] at *
    exact ⟨cellsWrite_wf _ _ _ hu.1, hu.2⟩
  unfold writeLine
  simp only
  split
  · exact h
  · split
    · exact hw _ _ (clearLine_wf _ _ h)
    · split
      · exact h
      · exact hw _ _ h

theorem pwriteGo_wf (k : Nat) : ∀ (s : State) (a : Nat) (bs : List PByte), s.mm.wf = true → (pwriteGo k s a bs).1.mm.wf = true := by
  induction k with
  | zero => intro s a bs h; exact h
  | succ k ih =>
    intro s a bs h
    cases bs with
    | nil => exact h
    | cons b r => exact ih _ _ _ (writeLine_wf _ _ h)

/-- Writing memory keeps its canonical form. -/
theorem pwrite_wf {s : State} (a : Nat) (bs : List PByte) (h : s.mm.wf = true) : (pwrite s a bs).1.mm.wf = true := pwriteGo_wf _ _ _ _ h

theorem noteUnfenced_wf {s : State} (fn ctx a n : Nat) (h : s.mm.wf = true) : (noteUnfenced s fn ctx a n).mm.wf = true := by
  rw [Memory.wf_iff] at *
  refine ⟨h.1, ?_, h.2.2⟩
  unfold noteUnfenced
  simp only
  generalize (if n = 0 then [] else (rangeFrom (a / 32) ((a + n - 1) / 32 + 1 - a / 32)).map (fun k => remapAddr s (k * 32) / 32)) = secs
  have key : ∀ (l : List Nat) (t : List (Nat × Unfenced)), Tab.sorted t = true → Tab.sorted (l.foldl (fun t k =>
      let w : Unfenced := (Tab.find? k t).getD ⟨[], []⟩
      Tab.ins k ⟨w.by_ ++ [(fn, ctx)], w.olds ++ [(cellsRead s.mm.mem (k * 32) 32, NSet.has k s.mm.psn)]⟩ t) t) = true := by
    intro l
    induction l with
    | nil => intro t ht; exact ht
    | cons x r ih => intro t ht; exact ih _ (Tab.sorted_ins _ _ ht)
  exact key secs _ h.2.1

/-- A near-bank write keeps the canonical form. -/
theorem nbuWrite_wf {s : State} (fn ctx a : Nat) (bs : List PByte) (h : s.mm.wf = true) : (nbuWrite s fn ctx a bs).1.mm.wf = true :=
  pwrite_wf _ _ (noteUnfenced_wf _ _ _ _ h)

theorem fenceSectors_wf {s : State} (c : Nat × Nat → Bool) (h : s.mm.wf = true) : (fenceSectors s c).mm.wf = true := by
  rw [Memory.wf_iff] at *
  exact ⟨h.1, Tab.sorted_filter _ h.2.1, h.2.2⟩

theorem invalidate_wf {s : State} (a n : Nat) (h : s.mm.wf = true) : (invalidate s a n).mm.wf = true := by
  rw [Memory.wf_iff] at *
  exact ⟨h.1, Tab.sorted_filter _ h.2.1, h.2.2⟩

theorem scrubRange_wf {s : State} (a n : Nat) (h : s.mm.wf = true) : (scrubRange s a n).mm.wf = true := by
  rw [Memory.wf_iff] at *
  exact ⟨cellsClear_wf _ _ _ h.1, Tab.sorted_filter _ h.2.1, h.2.2⟩

theorem useFrame_wf {s : State} (n : Nat) (u : FrameUse) (h : s.mm.wf = true) : (useFrame s n u).mm.wf = true := by
  rw [Memory.wf_iff] at *
  exact ⟨h.1, h.2.1, h.2.2.1, Tab.sorted_ins _ _ h.2.2.2.1, h.2.2.2.2⟩

theorem useRun_wf {s : State} (g n : Nat) (u : FrameUse) (h : s.mm.wf = true) : (useRun s g n u).mm.wf = true := by
  rw [Memory.wf_iff] at *
  exact ⟨h.1, h.2.1, h.2.2.1, h.2.2.2.1, Tab.sorted_ins _ _ h.2.2.2.2⟩

theorem scrubRange_foldl_wf {α : Type} (f : α → Nat) (g : α → Nat) (l : List α) : ∀ s : State, s.mm.wf = true →
    (l.foldl (fun s p => scrubRange s (f p) (g p)) s).mm.wf = true := by
  induction l with
  | nil => intro s h; exact h
  | cons x r ih => intro s h; exact ih _ (scrubRange_wf _ _ h)

/-- The scrub keeps the canonical form. -/
theorem scrubAll_wf {s : State} (h : s.mm.wf = true) : (scrubAll s).mm.wf = true := by
  unfold scrubAll
  simp only
  have h1 := scrubRange_foldl_wf (fun p : Nat × FrameUse => frameAddr p.1) (fun _ => 65536)
    (s.mm.frames.filter (fun p => p.2 == .scrub)) s h
  generalize (s.mm.frames.filter (fun p => p.2 == .scrub)).foldl (fun s p => scrubRange s (frameAddr p.1) 65536) s = u at h1 ⊢
  have h2 := scrubRange_foldl_wf (fun p : Nat × (Nat × FrameUse) => t2Base + p.1 * 4096) (fun p => p.2.1 * 4096)
    (u.mm.runs.filter (fun p => p.2.2 == .scrub)) u h1
  generalize (u.mm.runs.filter (fun p => p.2.2 == .scrub)).foldl
    (fun s p => scrubRange s (t2Base + p.1 * 4096) (p.2.1 * 4096)) u = v at h2 ⊢
  rw [Memory.wf_iff] at *
  exact ⟨h2.1, h2.2.1, h2.2.2.1, Tab.sorted_filter _ h2.2.2.2.1, Tab.sorted_filter _ h2.2.2.2.2⟩

/-- A host write keeps the canonical form of the host memory. -/
theorem hostWrite_wf {s t : State} {f a : Nat} {bs : List Byte} (h : Tab.wf 0#8 s.host.hostMem = true) (e : hostWrite s f a bs = some t) :
    Tab.wf 0#8 t.host.hostMem = true := by
  unfold hostWrite at e
  split at e
  · cases e; exact cellsWrite_wf _ _ _ h
  · cases e

/-- Memory after reset is in canonical form. -/
theorem reset_mem_wf : State.reset.mm.wf = true ∧ State.reset.host.wf = true := ⟨rfl, rfl⟩

/-! What the memory operations leave alone. -/

theorem pwriteGo_only (k : Nat) : ∀ (s : State) (a : Nat) (bs : List PByte), ∃ m p, (pwriteGo k s a bs).1 =
    { s with mm := { s.mm with mem := m, psn := p } } := by
  have one : ∀ (s : State) (a : Nat) (bs : List PByte), ∃ m p, (writeLine s a bs).1 = { s with mm := { s.mm with mem := m, psn := p } } := by
    intro s a bs
    unfold writeLine
    simp only
    split
    · exact ⟨s.mm.mem, _, rfl⟩
    · split
      · exact ⟨_, _, rfl⟩
      · split
        · exact ⟨s.mm.mem, s.mm.psn, rfl⟩
        · exact ⟨_, s.mm.psn, rfl⟩
  induction k with
  | zero => intro s a bs; exact ⟨s.mm.mem, s.mm.psn, rfl⟩
  | succ k ih =>
    intro s a bs
    cases bs with
    | nil => exact ⟨s.mm.mem, s.mm.psn, rfl⟩
    | cons b r =>
      simp only [pwriteGo]
      obtain ⟨m, p, h⟩ := one s a ((b :: r).take (lineWidth a - a % lineWidth a))
      obtain ⟨m', p', h'⟩ := ih (writeLine s a ((b :: r).take (lineWidth a - a % lineWidth a))).1 (a + (lineWidth a - a % lineWidth a))
        ((b :: r).drop (lineWidth a - a % lineWidth a))
      exact ⟨m', p', by rw [h', h]⟩

/-- Writing memory changes nothing but its bytes and its poison. -/
theorem pwrite_only (s : State) (a : Nat) (bs : List PByte) : ∃ m p, (pwrite s a bs).1 = { s with mm := { s.mm with mem := m, psn := p } } :=
  pwriteGo_only _ _ _ _

theorem scrubRange_foldl_only {α : Type} (f g : α → Nat) (l : List α) : ∀ s : State,
    ∃ m, l.foldl (fun s p => scrubRange s (f p) (g p)) s = { s with mm := m } := by
  induction l with
  | nil => intro s; exact ⟨s.mm, rfl⟩
  | cons x r ih =>
    intro s
    obtain ⟨m, h⟩ := ih (scrubRange s (f x) (g x))
    exact ⟨m, by rw [List.foldl_cons, h]; rfl⟩

/-- The scrub changes nothing but memory. -/
theorem scrubAll_only (s : State) : ∃ m, scrubAll s = { s with mm := m } := by
  unfold scrubAll
  simp only
  obtain ⟨m, h⟩ := scrubRange_foldl_only (fun p : Nat × FrameUse => frameAddr p.1) (fun _ => 65536) (s.mm.frames.filter (fun p => p.2 == .scrub)) s
  rw [h]
  obtain ⟨m', h'⟩ := scrubRange_foldl_only (fun p : Nat × (Nat × FrameUse) => t2Base + p.1 * 4096) (fun p => p.2.1 * 4096)
    (m.runs.filter (fun p => p.2.2 == .scrub)) { s with mm := m }
  rw [h']
  exact ⟨_, rfl⟩

/-! What a write to T0, T1 or T2 does, byte by byte and mark by mark. -/

/-- Every class of addresses starts and ends on a 64-byte line. -/
theorem addrClass_line {a b : Nat} (h : a / 64 = b / 64) : addrClass a = addrClass b := by
  unfold addrClass
  have e : ∀ (c : Nat), c % 64 = 0 → ((a < c) ↔ (b < c)) := by intro c hc; omega
  have e' : ∀ (c : Nat), c % 64 = 0 → ((c ≤ a) ↔ (c ≤ b)) := by intro c hc; omega
  have h1 := e 0x80000000 rfl
  have h2 := e' t1Base rfl
  have h3 := e 0x020000000000 rfl
  have h4 := e' t2Base rfl
  have h5 := e 0x064000000000 rfl
  have h6 := e' 0x064000000000 rfl
  have h7 := e 0x080000000000 rfl
  have h8 := e' kvBase rfl
  have h9 := e kvEnd rfl
  have h10 := e' configBase rfl
  have h11 := e 0xF00100000000 rfl
  simp only [h1, h2, h3, h4, h5, h6, h7, h8, h9, h10, h11]

theorem lineWidth_cases (a : Nat) : lineWidth a = 64 ∨ lineWidth a = 32 := by unfold lineWidth; split <;> simp

/-- Within a line an address and its remapped place keep their distance. -/
theorem remapAddr_line {s : State} {a j : Nat} (h : a % lineWidth a + j < lineWidth a) : remapAddr s (a + j) = remapAddr s a + j := by
  have hw := lineWidth_cases a
  have hl : (a + j) / 64 = a / 64 := by
    rcases hw with hw | hw <;> rw [hw] at h <;> omega
  unfold remapAddr
  rw [addrClass_line hl]
  split
  · rename_i hc
    have hb : t1Base ≤ a := by
      unfold addrClass at hc
      split at hc
      · cases hc
      · split at hc
        · omega
        · split at hc <;> try cases hc
          split at hc <;> try cases hc
          split at hc <;> try cases hc
          split at hc <;> cases hc
    have e1 : (a + j - t1Base) / 65536 = (a - t1Base) / 65536 := by unfold t1Base at *; omega
    have e2 : (a + j - t1Base) % 65536 = (a - t1Base) % 65536 + j := by unfold t1Base at *; omega
    rw [e1, e2]
    split <;> omega
  · rfl

theorem NSet.mem_add {n m : Nat} {s : List Nat} : n ∈ NSet.add m s ↔ n = m ∨ n ∈ s := by
  induction s with
  | nil => simp [NSet.add]
  | cons a r ih =>
    unfold NSet.add
    split
    · simp
    · split
      · rename_i h; subst h; simp
      · simp only [List.mem_cons, ih]; tauto

theorem NSet.has_add (n m : Nat) (s : List Nat) : NSet.has n (NSet.add m s) = (decide (n = m) || NSet.has n s) := by
  rw [Bool.eq_iff_iff]
  simp [NSet.has, NSet.mem_add]

theorem NSet.has_del (n m : Nat) (s : List Nat) : NSet.has n (NSet.del m s) = (decide (n ≠ m) && NSet.has n s) := by
  rw [Bool.eq_iff_iff]
  simp [NSet.has, NSet.del, and_comm]

theorem rawBytes_length (bs : List PByte) : (rawBytes bs).length = bs.length := by simp [rawBytes]

/-- A write within a line leaves every byte behind other addresses, and every mark of other lines. -/
theorem writeLine_out (s : State) (a : Nat) (bs : List PByte) (h : a % lineWidth a + bs.length ≤ lineWidth a) (hb : bs ≠ []) :
    (∀ x, (∀ i, i < bs.length → remapAddr s (a + i) ≠ x) → Tab.get 0#8 x (writeLine s a bs).1.mm.mem = Tab.get 0#8 x s.mm.mem) ∧
    (∀ l, (∀ i, i < bs.length → remapAddr s (a + i) / 64 ≠ l / 2) → NSet.has l (writeLine s a bs).1.mm.psn = NSet.has l s.mm.psn) := by
  have hl : 0 < bs.length := List.length_pos_iff.2 hb
  have hr : ∀ i, i < bs.length → remapAddr s (a + i) = remapAddr s a + i := fun i hi => remapAddr_line (by omega)
  have hout : ∀ x, (∀ i, i < bs.length → remapAddr s (a + i) ≠ x) → x < remapAddr s a ∨ remapAddr s a + (rawBytes bs).length ≤ x := by
    intro x hx
    rw [rawBytes_length]
    by_contra hc
    have hi := hx (x - remapAddr s a) (by omega)
    rw [hr _ (by omega)] at hi
    omega
  refine ⟨?_, ?_⟩
  · intro x hx
    have ho := hout x hx
    unfold writeLine
    simp only
    split
    · rfl
    · split
      · exact get_cellsWrite_out _ _ _ ho
      · split
        · rfl
        · exact get_cellsWrite_out _ _ _ ho
  · intro l hx
    have h0 := hx 0 hl
    rw [hr 0 hl, Nat.add_zero] at h0
    have hw := lineWidth_cases (remapAddr s a)
    unfold writeLine
    simp only
    split
    · unfold markLine
      simp only
      rcases hw with hw | hw <;> rw [hw]
      · have e1 : ¬ l = remapAddr s a / 64 * 64 / 32 + 1 := by omega
        have e2 : ¬ l = remapAddr s a / 64 * 64 / 32 := by omega
        rw [if_pos rfl, NSet.has_add, NSet.has_add, decide_eq_false e1, decide_eq_false e2, Bool.false_or, Bool.false_or]
      · have e2 : ¬ l = remapAddr s a / 32 * 32 / 32 := by omega
        rw [if_neg (by decide), NSet.has_add, decide_eq_false e2, Bool.false_or]
    · split
      · unfold clearLine
        simp only
        rcases hw with hw | hw <;> rw [hw]
        · have e1 : l ≠ remapAddr s a / 64 * 64 / 32 + 1 := by omega
          have e2 : l ≠ remapAddr s a / 64 * 64 / 32 := by omega
          rw [if_pos rfl, NSet.has_del, NSet.has_del, decide_eq_true e1, decide_eq_true e2, Bool.true_and, Bool.true_and]
        · have e2 : l ≠ remapAddr s a / 32 * 32 / 32 := by omega
          rw [if_neg (by decide), NSet.has_del, decide_eq_true e2, Bool.true_and]
      · split <;> rfl

theorem writeLine_remap (s : State) (a : Nat) (bs : List PByte) : (writeLine s a bs).1.mm.remap = s.mm.remap := by
  unfold writeLine; simp only; split
  · rfl
  · split
    · rfl
    · split <;> rfl

theorem remapAddr_congr {s t : State} (h : t.mm.remap = s.mm.remap) (a : Nat) : remapAddr t a = remapAddr s a := by unfold remapAddr; rw [h]

/-- A write leaves every byte that lies behind no address written. -/
theorem pwriteGo_out (k : Nat) : ∀ (s : State) (a : Nat) (bs : List PByte),
    (∀ x, (∀ i, i < bs.length → remapAddr s (a + i) ≠ x) → Tab.get 0#8 x (pwriteGo k s a bs).1.mm.mem = Tab.get 0#8 x s.mm.mem) ∧
    (∀ l, (∀ i, i < bs.length → remapAddr s (a + i) / 64 ≠ l / 2) → NSet.has l (pwriteGo k s a bs).1.mm.psn = NSet.has l s.mm.psn) := by
  induction k with
  | zero => intro s a bs; exact ⟨fun _ _ => rfl, fun _ _ => rfl⟩
  | succ k ih =>
    intro s a bs
    cases bs with
    | nil => exact ⟨fun _ _ => rfl, fun _ _ => rfl⟩
    | cons b r =>
      have hw := lineWidth_cases a
      have hpos : 0 < lineWidth a - a % lineWidth a := by rcases hw with hw | hw <;> rw [hw] <;> omega
      generalize hn : lineWidth a - a % lineWidth a = n at hpos
      have h1 := writeLine_out s a ((b :: r).take n) (by simp only [List.length_take]; omega) (by simp; omega)
      have h2 := ih (writeLine s a ((b :: r).take n)).1 (a + n) ((b :: r).drop n)
      have hre := remapAddr_congr (writeLine_remap s a ((b :: r).take n))
      simp only [pwriteGo, hn]
      refine ⟨?_, ?_⟩
      · intro x hx
        rw [h2.1 x (fun i hi => by rw [hre, Nat.add_assoc]; exact hx _ (by simp only [List.length_drop] at hi; omega)),
          h1.1 x (fun i hi => hx i (by simp only [List.length_take] at hi; omega))]
      · intro l hx
        rw [h2.2 l (fun i hi => by rw [hre, Nat.add_assoc]; exact hx _ (by simp only [List.length_drop] at hi; omega)),
          h1.2 l (fun i hi => hx i (by simp only [List.length_take] at hi; omega))]

/-- Clean bytes written within a line that no poison marks. -/
theorem writeLine_clean {s : State} {a : Nat} {bs : List PByte} (hr : remapAddr s a = a) (hp : anyPsn bs = false)
    (hm : ∀ l, a / 64 = l / 2 → NSet.has l s.mm.psn = false) :
    (writeLine s a bs).1.mm.mem = cellsWrite s.mm.mem a (rawBytes bs) ∧ (writeLine s a bs).2 = false := by
  have hw := lineWidth_cases a
  unfold writeLine
  simp only [hr]
  rw [if_neg (by simp [hp])]
  split
  · exact ⟨rfl, rfl⟩
  · rw [if_neg]
    · exact ⟨rfl, rfl⟩
    · unfold linePsn
      rw [hm _ (by rcases hw with hw | hw <;> rw [hw] <;> omega)]
      simp

/-- No mark appears where clean bytes are written. -/
theorem writeLine_marks {s : State} {a : Nat} {bs : List PByte} (hp : anyPsn bs = false) (l : Nat) (h : NSet.has l s.mm.psn = false) :
    NSet.has l (writeLine s a bs).1.mm.psn = false := by
  unfold writeLine
  simp only
  rw [if_neg (by simp [hp])]
  split
  · unfold clearLine
    simp only
    split
    · rw [NSet.has_del, NSet.has_del, h, Bool.and_false, Bool.and_false]
    · rw [NSet.has_del, h, Bool.and_false]
  · split <;> exact h

theorem pwriteGo_marks (k : Nat) : ∀ {s : State} {a : Nat} {bs : List PByte}, anyPsn bs = false → ∀ l, NSet.has l s.mm.psn = false →
    NSet.has l (pwriteGo k s a bs).1.mm.psn = false := by
  induction k with
  | zero => intro s a bs _ l h; exact h
  | succ k ih =>
    intro s a bs hp l h
    cases bs with
    | nil => exact h
    | cons b r =>
      have h1 : anyPsn ((b :: r).take (lineWidth a - a % lineWidth a)) = false := by
        simp only [anyPsn, List.any_eq_false] at *
        exact fun x hx => hp x (List.mem_of_mem_take hx)
      have h2 : anyPsn ((b :: r).drop (lineWidth a - a % lineWidth a)) = false := by
        simp only [anyPsn, List.any_eq_false] at *
        exact fun x hx => hp x (List.mem_of_mem_drop hx)
      simp only [pwriteGo]
      exact ih h2 l (writeLine_marks h1 l h)

/-- Clean bytes written where nothing is poisoned are there afterwards, and none are lost. -/
theorem pwriteGo_clean (k : Nat) : ∀ (s : State) (a : Nat) (bs : List PByte), bs.length < k →
    (∀ i, i < bs.length → remapAddr s (a + i) = a + i) → (∀ i l, i < bs.length → (a + i) / 64 = l / 2 → NSet.has l s.mm.psn = false) →
    anyPsn bs = false →
    (∀ i (h : i < bs.length), Tab.get 0#8 (a + i) (pwriteGo k s a bs).1.mm.mem = (bs[i]).1) ∧ (pwriteGo k s a bs).2 = false := by
  induction k with
  | zero => intro s a bs h; omega
  | succ k ih =>
    intro s a bs hk hr hm hp
    cases bs with
    | nil => exact ⟨fun i h => absurd h (by simp), rfl⟩
    | cons b r =>
      have hw := lineWidth_cases a
      have hpos : 0 < lineWidth a - a % lineWidth a := by rcases hw with hw | hw <;> rw [hw] <;> omega
      have h1 : anyPsn ((b :: r).take (lineWidth a - a % lineWidth a)) = false := by
        simp only [anyPsn, List.any_eq_false] at *
        exact fun x hx => hp x (List.mem_of_mem_take hx)
      have h2 : anyPsn ((b :: r).drop (lineWidth a - a % lineWidth a)) = false := by
        simp only [anyPsn, List.any_eq_false] at *
        exact fun x hx => hp x (List.mem_of_mem_drop hx)
      generalize hn : lineWidth a - a % lineWidth a = n at hpos h1 h2
      have c := writeLine_clean (s := s) (a := a) (bs := (b :: r).take n) (by simpa using hr 0 (by simp)) h1
        (fun l hl => hm 0 l (by simp) (by simpa using hl))
      have hre := remapAddr_congr (writeLine_remap s a ((b :: r).take n))
      have hlen : ((b :: r).drop n).length = (b :: r).length - n := List.length_drop
      have q := ih (writeLine s a ((b :: r).take n)).1 (a + n) ((b :: r).drop n) (by rw [hlen]; simp only [List.length_cons] at *; omega)
        (fun i hi => by rw [hre, Nat.add_assoc]; exact hr _ (by omega))
        (fun i l hi hl => writeLine_marks h1 l (hm (n + i) l (by omega) (by rw [← Nat.add_assoc]; exact hl))) h2
      have o := pwriteGo_out k (writeLine s a ((b :: r).take n)).1 (a + n) ((b :: r).drop n)
      simp only [pwriteGo, hn]
      refine ⟨?_, ?_⟩
      · intro i hi
        by_cases hin : i < n
        · rw [o.1 (a + i) (fun j hj => by
            rw [hre, Nat.add_assoc]
            have hj' := hr (n + j) (by omega)
            rw [hj']; omega)]
          rw [c.1]
          have e := get_cellsWrite_in (rawBytes ((b :: r).take n)) s.mm.mem a i (by rw [rawBytes_length, List.length_take]; omega)
          rw [e]
          simp only [rawBytes, List.getElem_map, List.getElem_take]
        · have e := q.1 (i - n) (by omega)
          rw [show a + n + (i - n) = a + i by omega] at e
          rw [e]
          simp only [List.getElem_drop]
          congr 2
          omega
      · rw [c.2, q.2]; rfl

end Sys2Proof.Machine
end

