-- ==== Sys2Proof/Laws/Ops.lean ====
section
/-! SUPPORT. What the shared operations of the commands do, said once each: the gate of the module being on, descriptors, and the issue
of step ops. -/

namespace Sys2Proof.Machine

open Sys2Proof

/-- While the module is on a command ends in what it does. -/
theorem act_on {s : State} (h : s.pow.st = .on) (t : State) : act s t = .next (finish t) := by simp [act, done, h]

/-- While the module is not on nothing happens. -/
theorem act_off {s : State} (h : s.pow.st ≠ .on) (t : State) : act s t = .next s := by simp [act, h]

/-- A descriptor taken is an accepted one of the opcode, known, that may start. -/
theorem takeDesc_some {s : State} {f r n op : Nat} {b : List Byte} (h : takeDesc s f r n op = some b) :
    ∃ d, findDesc s f r n = some d ∧ d.bytes = b ∧ fieldAt b 0 1 = op ∧ descKnown b = true ∧ mayStart s f r n = true := by
  unfold takeDesc at h
  split at h
  · cases h
  · rename_i d hd
    split at h
    · rename_i hc
      cases h
      exact ⟨d, hd, rfl, hc.1, hc.2.1, hc.2.2⟩
    · cases h

/-- A descriptor that is not accepted completes to nothing. -/
theorem complete_none {s : State} {f r n : Nat} (h : findDesc s f r n = none) (st : Status) (detail : Nat) (res : List Byte) :
    complete s f r n st detail res = s := by simp [complete, h]

/-- A descriptor completes: its reservation goes and its record is delivered (R212, R215). -/
theorem complete_some {s : State} {f r n : Nat} {d : AccDesc} (h : findDesc s f r n = some d) (hr : (s.fnHost f).resetting = none)
    (st : Status) (detail : Nat) (res : List Byte) :
    complete s f r n st detail res = deliver (s.setRing f r { s.ring f r with acc := (s.ring f r).acc.filter (fun x => x.num != n) }) f r
      ⟨fieldAt d.bytes 4 4, n % 2 ^ 32, st, fieldAt d.bytes 0 1, false, detail, res, bitAt (fieldAt d.bytes 1 1) 0⟩ := by
  simp [complete, h, hr]

/-- An op that issues runs in the state with OP past it, and its answer is taken up. -/
theorem runOp_issue {s : State} {sel : Op → Bool} {k : OpCtx} (i : Issues s sel k) (body : OpCtx → State → OpOut) :
    runOp s k.h sel body = settle k.h k.idx (body k (issued s k)) := by
  obtain ⟨e, he, hs⟩ := i.stepping
  unfold runOp
  rw [if_pos i.awake, i.ctx]
  simp only [he, i.prog, i.op]
  rw [if_pos (by simp [i.running, hs, i.kind, i.dep, i.slot])]
  simp only [issued, i.idx]
  have : (⟨k.h, k.c, k.q, k.p, k.o, k.c.op⟩ : OpCtx) = k := by rw [← i.idx]
  rw [this, he]

/-! Storage errors a command meets (R371): with none, nothing is met. -/

@[simp] theorem errsMet_none (k : OpCtx) (s : State) : errsMet k noErrs s = s := rfl
@[simp] theorem errsOf_none (f : Nat) (s : State) : errsOf f noErrs s = s := rfl
@[simp] theorem errsModule_none (s : State) : errsModule noErrs s = s := rfl
@[simp] theorem t0Fails_none (s t : State) : t0Fails noErrs.t0 s t = t := rfl

/-- An op that ends with the errors it meets ends as its body does on what it reads. -/
theorem withErrs_done {e : Errs} {body : OpCtx → State → OpOut} {k : OpCtx} {s t : State} {st : Status} {n : Nat}
    (h : body k (errsMet k e s) = .done t st n) : withErrs e body k s = .done (t0Fails e.t0 s t) st n := by
  unfold withErrs
  rw [h]

/-- An op that waits is as it was: it has read nothing yet. -/
theorem withErrs_wait {e : Errs} {body : OpCtx → State → OpOut} {k : OpCtx} {s t : State}
    (h : body k (errsMet k e s) = .wait t) : withErrs e body k s = body k s := by
  unfold withErrs
  rw [h]

/-- An op that has read its operands ends, or waits, as its body does on what it reads. -/
theorem readErrs_done {e : Errs} {body : OpCtx → State → OpOut} {k : OpCtx} {s t : State} {st : Status} {n : Nat}
    (h : body k (errsMet k e s) = .done t st n) : readErrs e body k s = .done (t0Fails e.t0 s t) st n := by
  unfold readErrs
  rw [h]

theorem readErrs_wait {e : Errs} {body : OpCtx → State → OpOut} {k : OpCtx} {s t : State}
    (h : body k (errsMet k e s) = .wait t) : readErrs e body k s = .wait (t0Fails e.t0 s t) := by
  unfold readErrs
  rw [h]

end Sys2Proof.Machine
end

