-- ==== Sys2Proof/Laws/Tiles.lean ====
section
/-! SUPPORT. What the shared operations of the tile ops do, said once each: what reading an operand leaves, how long the vectors read and
written are, and what storing at DST changes. -/

namespace Sys2Proof.Machine

open Sys2Proof

/-! Reading operands. -/

/-- Two states that differ in the free values drawn at most. -/
def FreeOnly (s u : State) : Prop := ∃ c, u = { s with freeCtr := c }

theorem FreeOnly.refl (s : State) : FreeOnly s s := ⟨s.freeCtr, rfl⟩

theorem FreeOnly.trans {s t u : State} (a : FreeOnly s t) (b : FreeOnly t u) : FreeOnly s u := by
  obtain ⟨c, rfl⟩ := a; obtain ⟨d, rfl⟩ := b; exact ⟨d, rfl⟩

theorem FreeOnly.ctx {s t : State} (a : FreeOnly s t) (h : Nat) : t.ctx? h = s.ctx? h := by
  obtain ⟨c, rfl⟩ := a; rfl

theorem preadCtl_only (s : State) (a n : Nat) : FreeOnly s (preadCtl s a n).2 := by
  unfold preadCtl
  simp only
  split
  · exact ⟨s.freeCtr, rfl⟩
  · exact ⟨_, rfl⟩

theorem preadCtl_length (s : State) (a n : Nat) : (preadCtl s a n).1.length = n := by
  unfold preadCtl
  simp only
  split <;> simp [pread, rangeFrom]

theorem locRead_only (s : State) (h : Nat) (l : Loc) (n : Nat) : FreeOnly s (locRead s h l n).2 := by
  unfold locRead
  split
  · exact preadCtl_only _ _ _
  · split <;> exact ⟨s.freeCtr, rfl⟩

theorem locRead_length {s : State} {h : Nat} (l : Loc) (n : Nat) (hc : (s.ctx? h).isSome) : (locRead s h l n).1.length = n := by
  unfold locRead
  split
  · exact preadCtl_length _ _ _
  · split
    · simp [areaRead, rangeFrom]
    · rename_i e; rw [e] at hc; cases hc

/-! Lengths. -/

theorem chunks_nil {α : Type} (n k : Nat) : chunks n k ([] : List α) = [] := by cases k <;> rfl

theorem chunks_len {α β : Type} (m w : Nat) (hm : 0 < m) (_ : 0 < w) (hd : w ∣ m) (f : List α → List β) (hf : ∀ g, w ∣ g.length → (f g).length = g.length / w) :
    ∀ (k : Nat) (l : List α), l.length ≤ k → w ∣ l.length → ((chunks m k l).flatMap f).length = l.length / w := by
  intro k
  induction k with
  | zero => intro l h _; have : l = [] := List.length_eq_zero_iff.1 (by omega); subst this; simp [chunks]
  | succ k ih =>
    intro l h hl
    cases l with
    | nil => simp [chunks]
    | cons a r =>
      have ht : w ∣ ((a :: r).take m).length := by
        rw [List.length_take]
        rcases Nat.le_total m (a :: r).length with e | e
        · rw [Nat.min_eq_left e]; exact hd
        · rw [Nat.min_eq_right e]; exact hl
      have hdr : w ∣ ((a :: r).drop m).length := by
        rw [List.length_drop]
        exact Nat.dvd_sub hl hd
      show (List.flatMap f ((a :: r).take m :: chunks m k ((a :: r).drop m))).length = _
      rw [List.flatMap_cons, List.length_append, hf _ ht, ih _ (by simp only [List.length_drop, List.length_cons] at *; omega) hdr]
      rw [← Nat.add_div_of_dvd_right ht, ← List.length_append, List.take_append_drop]

theorem chunks_count {α : Type} (w : Nat) (hw : 0 < w) : ∀ (k : Nat) (l : List α), l.length ≤ k → w ∣ l.length → (chunks w k l).length = l.length / w := by
  intro k
  induction k with
  | zero => intro l h _; have : l = [] := List.length_eq_zero_iff.1 (by omega); subst this; simp [chunks]
  | succ k ih =>
    intro l h hl
    cases l with
    | nil => simp [chunks]
    | cons a r =>
      have hle : w ≤ (a :: r).length := Nat.le_of_dvd (by simp) hl
      have hdr : w ∣ ((a :: r).drop w).length := by rw [List.length_drop]; exact Nat.dvd_sub hl (dvd_refl w)
      show ((a :: r).take w :: chunks w k ((a :: r).drop w)).length = _
      rw [List.length_cons, ih _ (by simp only [List.length_drop, List.length_cons] at *; omega) hdr, List.length_drop, Nat.div_eq_sub_div hw hle]

theorem chunk_map_len {α β : Type} (w : Nat) (hw : 0 < w) (f : List α → β) (l : List α) (h : w ∣ l.length) : ((chunk w l).map f).length = l.length / w := by
  rw [List.length_map]; exact chunks_count w hw _ _ (le_refl _) h

theorem elemsOf_length {bs : List PByte} {n : Nat} (h : bs.length = 4 * n) : (elemsOf bs).length = n := by
  unfold elemsOf
  show ((chunks _ _ _).flatMap _).length = _
  rw [chunks_len 128 4 (by decide) (by decide) (by decide) _ (fun g hg => chunk_map_len 4 (by decide) _ g hg) _ _ (le_refl _) (by rw [h]; exact Nat.dvd_mul_right 4 n), h]
  omega

theorem elemsBf_length {bs : List PByte} {n : Nat} (h : bs.length = 2 * n) : (elemsBf bs).length = n := by
  unfold elemsBf
  show ((chunks _ _ _).flatMap _).length = _
  rw [chunks_len 64 2 (by decide) (by decide) (by decide) _ (fun g hg => chunk_map_len 2 (by decide) _ g hg) _ _ (le_refl _) (by rw [h]; exact Nat.dvd_mul_right 2 n), h]
  omega

theorem vecElems_length {bf : Bool} {bs : List PByte} {n : Nat} (h : bs.length = vecBytes bf n) : (vecElems bf bs).length = n := by
  cases bf
  · exact elemsOf_length h
  · exact elemsBf_length h

theorem spread_length (ps : List Bool) : (spread ps).length = ps.length := by
  unfold spread chunk
  rw [chunks_len 32 1 (by decide) (by decide) (by decide) _ (fun g _ => by simp) _ _ (le_refl _) (one_dvd _)]
  simp

theorem bytesOf_length (w : Nat) (es : List (Nat × Bool)) : (bytesOf w es).length = w * es.length := by
  unfold bytesOf
  induction es with
  | nil => simp
  | cons e r ih => simp only [List.flatMap_cons, List.length_append, ih]; simp [Nat.mul_add]; omega


theorem quantiseA8_lens (xs : List W32) : (quantiseA8 xs).vals.length = xs.length ∧ (quantiseA8 xs).bad.length = xs.length := by
  unfold quantiseA8
  simp only
  split <;> simp

theorem outVector_length {fmt : Nat} (hf : fmt ≤ 2) (es : List PElem) : (outVector fmt es).1.length = outBytes fmt es.length := by
  unfold outVector outBytes
  split
  · rename_i h
    subst h
    obtain ⟨h1, h2⟩ := quantiseA8_lens (es.map (·.1))
    simp only [List.length_append, List.length_zipWith, spread_length, h1, h2, List.length_map, List.length_replicate, leBytes_length]
    simp [alignUp]; omega
  · simp only
    have : fmt = 0 ∨ fmt = 1 := by omega
    rcases this with h | h <;> subst h <;> simp [bytesOf_length, spread_length]

theorem tileVec_only {s u : State} {k : OpCtx} {bf : Bool} {hd t n : Nat} {xs : List PElem} (e : tileVec s k bf hd t n = some (xs, u)) :
    FreeOnly s u ∧ ((s.ctx? k.h).isSome → xs.length = n) := by
  unfold tileVec at e
  split at e
  · cases e
  · simp only [Option.some.injEq, Prod.mk.injEq] at e
    obtain ⟨rfl, rfl⟩ := e
    exact ⟨locRead_only _ _ _ _, fun h => vecElems_length (locRead_length _ _ h)⟩

theorem tileF32_only {s u : State} {k : OpCtx} {hd t off n : Nat} {xs : List PElem} (e : tileF32 s k hd t off n = some (xs, u)) :
    FreeOnly s u ∧ ((s.ctx? k.h).isSome → xs.length = n) := by
  unfold tileF32 at e
  split at e
  · cases e
  · simp only [Option.some.injEq, Prod.mk.injEq] at e
    obtain ⟨rfl, rfl⟩ := e
    exact ⟨locRead_only _ _ _ _, fun h => elemsOf_length (locRead_length _ _ h)⟩

theorem scaleValue_only {s u : State} {k : OpCtx} {t : Nat} {x : PElem} (e : scaleValue s k t = some (x, u)) : FreeOnly s u := by
  unfold scaleValue at e
  split at e
  · simp only [Option.some.injEq, Prod.mk.injEq] at e; obtain ⟨-, rfl⟩ := e; exact FreeOnly.refl s
  · split at e
    · rename_i h; simp only [Option.some.injEq, Prod.mk.injEq] at e; obtain ⟨-, rfl⟩ := e; exact (tileF32_only h).1
    · cases e

theorem putBytes_getD (bs : List Byte) : ∀ (l : List Byte) (o i : Nat), i < o ∨ o + bs.length ≤ i → (putBytes l o bs).getD i 0#8 = l.getD i 0#8 := by
  induction bs with
  | nil => intro l o i _; rfl
  | cons b r ih =>
    intro l o i h
    simp only [List.length_cons] at h
    simp only [putBytes]
    rw [ih _ _ _ (by omega)]
    simp only [List.getD_eq_getElem?_getD]
    rw [List.getElem?_set_ne (by omega)]

theorem areaGo_only (k : Nat) : ∀ (c : Ctx) (o : Nat) (bs : List PByte),
    (areaGo k c o bs = { c with area := (areaGo k c o bs).area, areaPsn := (areaGo k c o bs).areaPsn }) ∧
    ∀ i, i < o ∨ o + bs.length ≤ i → (areaGo k c o bs).area.getD i 0#8 = c.area.getD i 0#8 := by
  induction k with
  | zero => intro c o bs; exact ⟨rfl, fun _ _ => rfl⟩
  | succ k ih =>
    intro c o bs
    cases bs with
    | nil => exact ⟨rfl, fun _ _ => rfl⟩
    | cons b r =>
      simp only [areaGo]
      generalize hn : 32 - o % 32 = n
      generalize hp : (b :: r).take n = part
      have hpl : part.length ≤ (b :: r).length := by rw [← hp]; simp
      have key : ∀ c' : Ctx, c' = { c with area := c'.area, areaPsn := c'.areaPsn } →
          (∀ i, i < o ∨ o + (b :: r).length ≤ i → c'.area.getD i 0#8 = c.area.getD i 0#8) →
          (areaGo k c' (o + n) ((b :: r).drop n) = { c with area := (areaGo k c' (o + n) ((b :: r).drop n)).area, areaPsn := (areaGo k c' (o + n) ((b :: r).drop n)).areaPsn }) ∧
          ∀ i, i < o ∨ o + (b :: r).length ≤ i → (areaGo k c' (o + n) ((b :: r).drop n)).area.getD i 0#8 = c.area.getD i 0#8 := by
        intro c' e1 e2
        obtain ⟨h1, h2⟩ := ih c' (o + n) ((b :: r).drop n)
        refine ⟨?_, ?_⟩
        · rw [h1]; rw [e1]
        · intro i hi
          rw [h2 i ?_, e2 i hi]
          rcases hi with hi | hi
          · left; omega
          · simp only [List.length_drop]
            by_cases hl : (b :: r).length ≤ n
            · by_cases hh : i < o + n
              · left; exact hh
              · right; omega
            · right; omega
      apply key
      · split_ifs <;> rfl
      · intro i hi
        split_ifs
        · rfl
        · exact putBytes_getD _ _ _ _ (by rw [rawBytes_length]; omega)
        · rfl
        · exact putBytes_getD _ _ _ _ (by rw [rawBytes_length]; omega)

theorem ctx_updCtx_same (s : State) (h : Nat) (f : Ctx → Ctx) : (s.updCtx h f).ctx? h = (s.ctx? h).map f := by
  simp [State.ctx?, State.updCtx, Tab.find?_upd_same]

theorem ctx_updCtx_ne (s : State) {h g : Nat} (e : g ≠ h) (f : Ctx → Ctx) : (s.updCtx h f).ctx? g = s.ctx? g := by
  simp [State.ctx?, State.updCtx, Tab.find?_upd_ne e]

theorem operand_congr {s v : State} (h1 : v.sch.slices = s.sch.slices) (h2 : v.regs = s.regs) 
    (k : OpCtx) (hd t off n : Nat) (w : Bool) : operand v k hd t off n w = operand s k hd t off n w := by
  have hb : ∀ m t, bindGo v m t = bindGo s m t := by
    intro m
    induction m with
    | zero => intro t; rfl
    | succ m ih => intro t; simp only [bindGo, tileRetired, State.flag, State.fld, h2, ih]; rfl
  have : ∀ h t, sliceAt v h t = sliceAt s h t := by
    intro h t; unfold sliceAt bindTile; rw [hb]; simp only [slicesOn, h1]
  have hw : ∀ t, winBytes v t = winBytes s t := fun t => by simp only [winBytes, State.fld, h2]
  unfold operand
  simp only [this, hw]

theorem rankIns_length (x : W32 × Nat) (l : List (W32 × Nat)) : (rankIns x l).length = l.length + 1 := by
  induction l with
  | nil => rfl
  | cons y r ih => unfold rankIns; split <;> simp [ih]

theorem rankAll_length (l : List (W32 × Nat)) : (rankAll l).length = l.length := by
  unfold rankAll
  induction l with
  | nil => rfl
  | cons y r ih => rw [List.foldr_cons, rankIns_length, ih, List.length_cons]

theorem candIns_length (x : Cand) (l : List Cand) : (candIns x l).length = l.length + 1 := by
  induction l with
  | nil => rfl
  | cons y r ih => unfold candIns; split <;> simp [ih]

theorem topCands_length (l : List Cand) (k : Nat) : (topCands l k).length = min k l.length := by
  unfold topCands
  rw [List.length_take]
  congr 1
  induction l with
  | nil => rfl
  | cons y r ih => rw [List.foldr_cons, candIns_length, ih, List.length_cons]

/-! What an op keeps. -/

theorem OpKeeps.ofFree {k : OpCtx} {len : Nat} {tok : Bool} {s u : State} (f : FreeOnly s u) : OpKeeps k len tok s u [] := by
  obtain ⟨c, rfl⟩ := f
  exact ⟨rfl, fun _ _ => rfl, fun c hc => ⟨c, hc, rfl, fun _ => rfl, fun _ _ => rfl⟩, fun _ _ => rfl, fun _ _ => rfl⟩

/-- Stores one after another: on the tiles of both. -/
theorem OpKeeps.append {k : OpCtx} {len : Nat} {tok : Bool} {s v u : State} {ts us : List Nat} (a : OpKeeps k len tok s v ts)
    (b : OpKeeps k len tok v u us) : OpKeeps k len tok s u (ts ++ us) := by
  have hv := a.rest
  have ho : ∀ hd t off n w, operand v k hd t off n w = operand s k hd t off n w :=
    fun _ _ _ _ _ => operand_congr (by rw [hv]) (by rw [hv]) _ _ _ _ _ _
  have hr : ∀ x, remapAddr v x = remapAddr s x := remapAddr_congr (by rw [hv])
  refine ⟨?_, fun h hh => by rw [b.others h hh, a.others h hh], ?_, ?_, ?_⟩
  · rw [b.rest]; rw [hv]
  · intro c hc
    obtain ⟨d, d1, d2, d3, d4⟩ := a.own c hc
    obtain ⟨e, e1, e2, e3, e4⟩ := b.own d d1
    refine ⟨e, e1, ?_, fun h => by rw [e3 h, d3 h], ?_⟩
    · rw [e2]; rw [d2]
    · intro i hi
      rw [e4 i (fun t o h1 h2 => hi t o (by simp [h1]) (by rw [← ho]; exact h2)), d4 i (fun t o h1 h2 => hi t o (by simp [h1]) h2)]
  · intro x hx
    rw [b.bytes x (fun t a i h1 h2 h3 => by rw [hr]; exact hx t a i (by simp [h1]) (by rw [← ho]; exact h2) h3),
      a.bytes x (fun t a i h1 h2 h3 => hx t a i (by simp [h1]) h2 h3)]
  · intro l hx
    rw [b.marks l (fun t a i h1 h2 h3 => by rw [hr]; exact hx t a i (by simp [h1]) (by rw [← ho]; exact h2) h3),
      a.marks l (fun t a i h1 h2 h3 => hx t a i (by simp [h1]) h2 h3)]

theorem OpKeeps.ctxSome {k : OpCtx} {len : Nat} {tok : Bool} {s v : State} {ts : List Nat} (a : OpKeeps k len tok s v ts)
    (h : (s.ctx? k.h).isSome = true) : (v.ctx? k.h).isSome = true := by
  obtain ⟨c, hc⟩ := Option.isSome_iff_exists.1 h
  obtain ⟨d, h1, _⟩ := a.own c hc
  rw [h1]; rfl

/-- Storing at DST on a tile. -/
theorem tileOut_keeps {s u : State} {k : OpCtx} {t sat n : Nat} {bs : List PByte} {p : Bool} {st : Status}
    (e : tileOut s k t bs p sat = some (u, st, n)) : OpKeeps k bs.length false s u [t] := by
  unfold tileOut at e
  split at e
  · cases e
  · rename_i a ha
    simp only [Option.some.injEq, Prod.mk.injEq] at e
    obtain ⟨rfl, -, -⟩ := e
    cases a with
    | mem a =>
      simp only [locWrite]
      obtain ⟨m, q, he⟩ := pwrite_only s a bs
      have ho := pwriteGo_out (bs.length + 1) s a bs
      refine ⟨by rw [he], fun h _ => by rw [he]; rfl, fun c hc => ⟨c, by rw [he]; exact hc, rfl, fun _ => rfl, fun _ _ => rfl⟩, ?_, ?_⟩
      · intro x hx; exact ho.1 x (fun i hi => hx t a i (by simp) ha hi)
      · intro l hx; exact ho.2 l (fun i hi => hx t a i (by simp) ha hi)
    | area o =>
      simp only [locWrite]
      refine ⟨rfl, fun h hh => ctx_updCtx_ne s hh _, ?_, fun _ _ => rfl, fun _ _ => rfl⟩
      intro c hc
      obtain ⟨h1, h2⟩ := areaGo_only (bs.length + 1) c o bs
      refine ⟨areaWrite c o bs, by rw [ctx_updCtx_same, hc]; rfl, by unfold areaWrite; rw [h1], fun _ => by unfold areaWrite; rw [h1], ?_⟩
      intro i hi
      exact h2 i (hi t o (by simp) ha)

end Sys2Proof.Machine
end

