-- ==== Sys2Proof/Laws/Contexts.lean ====
section
/-! SUPPORT. What making, parking and starting contexts does, said once: room found without a demotion, slices on tiles of their own, and
the record of a context that becomes resident. -/

namespace Sys2Proof.Machine

open Sys2Proof

/-- What a completion leaves: it changes no context, no memory of the module and no paging state. -/
theorem complete_kept (s : State) (f r n : Nat) (st : Status) (detail : Nat) (res : List Byte) :
    (complete s f r n st detail res).sch = s.sch ∧ (complete s f r n st detail res).mm = s.mm ∧
    (complete s f r n st detail res).pg = s.pg ∧ (complete s f r n st detail res).qm = s.qm ∧
    (complete s f r n st detail res).attn = s.attn ∧ (complete s f r n st detail res).tl = s.tl ∧
    (complete s f r n st detail res).tr = s.tr := by
  unfold complete
  split
  · exact ⟨rfl, rfl, rfl, rfl, rfl, rfl, rfl⟩
  · dsimp only
    split
    · exact ⟨rfl, rfl, rfl, rfl, rfl, rfl, rfl⟩
    · have q := fun u c => quiet_deliver u f r c
      refine ⟨(q _ _).sch, (q _ _).mm, (q _ _).pg, (q _ _).qm, (q _ _).attn, (q _ _).tl, (q _ _).tr⟩

/-- Completions in a row change no context. -/
theorem completes_ctx {α : Type} (g : α → Nat × Nat × Nat × Status × Nat) (l : List α) : ∀ (s : State) (h : Nat),
    (l.foldl (fun s p => complete s (g p).1 (g p).2.1 (g p).2.2.1 (g p).2.2.2.1 (g p).2.2.2.2) s).ctx? h = s.ctx? h := by
  induction l with
  | nil => exact fun _ _ => rfl
  | cons a l ih =>
    intro s h
    rw [List.foldl_cons, ih]
    unfold State.ctx?
    rw [(complete_kept _ _ _ _ _ _ _).1]

/-- Below its ceiling a function finds room in T1 at once (R106). -/
theorem makeT1Room_below {s : State} {f n : Nat} (h : fnT1 s f + n ≤ s.fld R.FN_T1_CEIL f) : makeT1Room s f n = some s := by
  simp [makeT1Room, makeT1RoomGo, h]

/-- Below its ceiling a function's region is made on the frames picked, where these are free (R83). -/
theorem makeRegion_picked {s : State} {f size owner pick : Nat} {kind : RegionKind} (hs : size ≠ 0)
    (h : fnT1 s f + ceilDiv size 65536 ≤ s.fld R.FN_T1_CEIL f) (hf : framesFree s pick (ceilDiv size 65536) = true) :
    makeRegion s f size kind owner pick =
      some (frameAddr pick, { s with mm := { s.mm with regions := s.mm.regions ++ [⟨frameAddr pick, size, f, kind, owner⟩] } }) := by
  simp [makeRegion, makeT1Room_below h, allocRegion, hs, findFrames, hf]

/-- A region of no bytes takes no frame. -/
theorem makeRegion_none {s : State} {f owner pick : Nat} {kind : RegionKind} (h : fnT1 s f ≤ s.fld R.FN_T1_CEIL f) :
    makeRegion s f 0 kind owner pick = some (0, s) := by
  have : makeT1Room s f (ceilDiv 0 65536) = some s := makeT1Room_below (by simpa [ceilDiv] using h)
  simp [makeRegion, this, allocRegion]

/-! Slices (R65). -/

/-- A slice allotted changes the slices alone. -/
theorem allotSlice_only {s t : State} {h kib n : Nat} (e : allotSlice s h kib n = some t) :
    ∃ l, t = { s with sch := { s.sch with slices := l } } := by
  obtain ⟨a, -, rfl⟩ := Option.map_eq_some_iff.1 e
  exact ⟨_, rfl⟩

/-- Slices allotted change the slices alone. -/
theorem allotAll_only {h kib : Nat} (l : List Nat) : ∀ {s t : State}, allotAll h kib l s = some t →
    ∃ x, t = { s with sch := { s.sch with slices := x } } := by
  induction l with
  | nil => intro s t e; cases e; exact ⟨_, rfl⟩
  | cons a l ih =>
    intro s t e
    obtain ⟨u, hu, e⟩ := Option.bind_eq_some_iff.1 e
    obtain ⟨x, rfl⟩ := allotSlice_only hu
    obtain ⟨y, rfl⟩ := ih e
    exact ⟨y, rfl⟩

/-- A context given its resources is resident and idle, and nothing else changes but the slices. -/
theorem takeResources_only {s t : State} {h : Nat} {c : Ctx} (e : takeResources s h c = some t) :
    ∃ x hw, t = ({ s with sch := { s.sch with slices := x } }).setCtx h { c with resident := true, hw := hw, st := .idle, unparkSince := none } := by
  unfold takeResources at e
  split at e
  · split at e
    · rename_i u hu
      obtain ⟨x, rfl⟩ := allotAll_only _ hu
      cases e
      exact ⟨x, _, rfl⟩
    · cases e
  · cases e

theorem freeSlices_ctxs (s : State) (h : Nat) : (freeSlices s h).sch.ctxs = s.sch.ctxs := by
  have inner : ∀ (a : Nat) (l : List (Nat × (Nat × Nat))) (s : State),
      (l.foldl (fun s p => scrubRange s (a * 8388608 + p.2.1) p.2.2) s).sch = s.sch := by
    intro a l
    induction l with
    | nil => exact fun _ => rfl
    | cons x l ih => intro s; rw [List.foldl_cons, ih]; rfl
  have outer : ∀ (l : List (Nat × List (Nat × (Nat × Nat)))) (s : State),
      (l.foldl (fun s e => (e.2.filter (fun p => p.1 / 256 = h)).foldl (fun s p => scrubRange s (e.1 * 8388608 + p.2.1) p.2.2) s) s).sch = s.sch := by
    intro l
    induction l with
    | nil => exact fun _ => rfl
    | cons x l ih => intro s; rw [List.foldl_cons, ih, inner]
  unfold freeSlices
  dsimp only
  rw [outer]

/-- Parking a context leaves the others as they are. -/
theorem park_ctx_ne (s : State) {g h : Nat} (e : h ≠ g) : (park s g).ctx? h = s.ctx? h := by
  unfold park
  split
  · rfl
  · simp only [State.ctx?, State.incFld, State.setFld_sch, State.updCtx, Tab.find?_upd_ne e, freeSlices_ctxs]

/-- A context made resident is idle, with a hardware number of its own. -/
theorem residentGo_ctx (h : Nat) (k : Nat) : ∀ {s t : State} {c : Ctx}, residentGo h k s = some t → s.ctx? h = some c →
    ∃ hw, t.ctx? h = some { c with resident := true, hw := hw, st := .idle, unparkSince := none } := by
  induction k with
  | zero => intro s t c e; cases e
  | succ k ih =>
    intro s t c e hc
    unfold residentGo at e
    rw [hc] at e
    dsimp only at e
    split at e
    · rename_i u hu
      cases e
      split_ifs at hu
      obtain ⟨x, hw, rfl⟩ := takeResources_only hu
      exact ⟨hw, by simp [State.ctx?, State.setCtx, Tab.find?_ins_same]⟩
    · split at e
      · cases e
      · rename_i g hg
        have ne : h ≠ g := by
          intro he
          subst he
          have key : ∀ (l : List (Nat × Ctx)) (g : Nat), longestIdle l = some g → ∃ q ∈ l, q.1 = g := by
            intro l
            induction l with
            | nil => intro g hg; cases hg
            | cons p r ih =>
              intro g hg
              unfold longestIdle at hg
              split at hg
              · cases hg; exact ⟨p, by simp, rfl⟩
              · rename_i h' hh
                obtain ⟨q, hq, e⟩ := ih _ hh
                split at hg
                · split_ifs at hg
                  · cases hg; exact ⟨p, by simp, rfl⟩
                  · cases hg; exact ⟨q, by simp [hq], e⟩
                · cases hg; exact ⟨p, by simp, rfl⟩
          obtain ⟨q, hq, e'⟩ := key _ _ hg
          simp at hq
          exact hq.2.1 e'
        exact ih e (by rw [park_ctx_ne s ne]; exact hc)

theorem makeResident_ctx {h : Nat} {s t : State} {c : Ctx} (e : makeResident s h = some t) (hc : s.ctx? h = some c) :
    ∃ hw, t.ctx? h = some { c with resident := true, hw := hw, st := .idle, unparkSince := none } := by
  unfold makeResident at e
  split_ifs at e
  exact residentGo_ctx h _ e hc

/-- On an in-service tile a share is bound where it is. -/
theorem bindTile_self {s : State} {t : Nat} (h : tileRetired s t = false) : bindTile s t = t := by simp [bindTile, bindGo, h]

theorem findSlice_congr {s u : State} {t n : Nat} (h : slicesOn u t = slicesOn s t) (hr : u.regs = s.regs) : findSlice u t n = findSlice s t n := by
  unfold findSlice sliceClear winBytes State.fld
  rw [h, hr]

/-- Slices are had where every tile of a list without repeats is in service and has the room (R65). -/
theorem allotAll_some {h kib : Nat} (l : List Nat) : ∀ {s : State}, l.Nodup →
    (∀ t ∈ l, tileRetired s t = false ∧ (findSlice s t (kib * 1024)).isSome = true) → (allotAll h kib l s).isSome = true := by
  induction l with
  | nil => exact fun _ _ => rfl
  | cons a l ih =>
    intro s nd hl
    obtain ⟨h1, h2⟩ := hl a (by simp)
    obtain ⟨w, hw⟩ := Option.isSome_iff_exists.1 h2
    rw [allotAll, allotSlice, bindTile_self h1, hw, Option.map_some, Option.bind_some]
    refine ih (List.nodup_cons.1 nd).2 (fun t ht => ?_)
    obtain ⟨h3, h4⟩ := hl t (by simp [ht])
    have ne : t ≠ a := fun e => (List.nodup_cons.1 nd).1 (e ▸ ht)
    refine ⟨by simpa only [tileRetired, State.flag, State.fld] using h3, ?_⟩
    have : slicesOn { s with sch := { s.sch with slices := Tab.put [] a (Tab.ins (h * 256 + a) (w, kib * 1024) (slicesOn s a)) s.sch.slices } } t =
        slicesOn s t := by simp [slicesOn, Tab.get_put_ne ne]
    rw [findSlice_congr (s := s) this (by rfl)]
    exact h4

theorem progTiles_nodup (p : Prog) : (progTiles p).Nodup := List.Nodup.filter _ List.nodup_range

/-- A context finds its resources where a hardware number is free and its tiles are in service with room for its slices. -/
theorem takeResources_some {s : State} {h hw : Nat} {c : Ctx} {q : Program} {p : Prog} (h1 : freeHw s = some hw)
    (h2 : progOf s c.program = some (q, p))
    (h3 : ∀ t ∈ progTiles p, tileRetired s t = false ∧ (findSlice s t (c.workKib * 1024)).isSome = true) :
    (takeResources s h c).isSome = true := by
  obtain ⟨t, ht⟩ := Option.isSome_iff_exists.1 (allotAll_some (h := h) (kib := c.workKib) _ (progTiles_nodup p) h3)
  simp [takeResources, h1, h2, ht]

/-- A context below its function's ceiling becomes resident where its resources are free and admission is not held back (R175, R335). -/
theorem makeResident_some {s : State} {h hw : Nat} {c : Ctx} {q : Program} {p : Prog} (hl : s.flag R.LVL_STAT.ADMIT_HELD = false)
    (hc : s.ctx? h = some c) (h0 : residentOf s c.fn < s.fld R.FN_CTX_HW_CEIL c.fn) (h1 : freeHw s = some hw)
    (h2 : progOf s c.program = some (q, p))
    (h3 : ∀ t ∈ progTiles p, tileRetired s t = false ∧ (findSlice s t (c.workKib * 1024)).isSome = true) :
    (makeResident s h).isSome = true := by
  obtain ⟨t, ht⟩ := Option.isSome_iff_exists.1 (takeResources_some (h := h) h1 h2 h3)
  simp [makeResident, hl, residentGo, hc, Nat.not_le.2 h0, ht]

/-- A new context of a program without receive queues, where its region can be had and a place in the save area is free, is open (R176). -/
theorem makeCtx_ok {s t : State} {f ring handle region h base : Nat} {picks : List Nat} {q : OpenReq}
    (h1 : pickFree s.sch.ctxs 0 266240 handle = some h) (h2 : makeRegion s f q.prog.hdr.ctxBytes .context h region = some (base, t))
    (h3 : recvBufs q.prog = []) (h4 : (freeSlot t).isSome = true) :
    ∃ u c b, makeCtx s f ring handle region picks q = some (u, .ok, leBytes 4 h ++ [b]) ∧ u.ctx? h = some c ∧ c.fn = f ∧
      (c.st = .idle ∨ c.st = .parked) ∧ c.program = q.slot ∧ c.position = q.position ∧ c.token = q.token ∧ c.seed = q.seed ∧
      c.workKib = q.work ∧ c.t1Base = base ∧ c.binds = q.binds ∧ c.area = q.area ∧ c.step = none ∧ c.queued = [] := by
  obtain ⟨n, hn⟩ := Option.isSome_iff_exists.1 h4
  unfold makeCtx
  simp only [h1, h2, h3, openQueues, hn]
  split
  · rename_i u hu
    obtain ⟨hw, hc⟩ := makeResident_ctx hu (Tab.find?_ins_same _ _ _)
    exact ⟨_, _, _, rfl, hc, rfl, Or.inl rfl, rfl, rfl, rfl, rfl, rfl, rfl, rfl, rfl, rfl, rfl⟩
  · exact ⟨_, _, _, rfl, Tab.find?_ins_same _ _ _, rfl, Or.inr rfl, rfl, rfl, rfl, rfl, rfl, rfl, rfl, rfl, rfl, rfl⟩

theorem endLate_ctx (s : State) (f h g : Nat) (st : Status) : (endLate s f h st).ctx? g = s.ctx? g := by
  unfold endLate
  exact completes_ctx (fun p : Nat × Nat × Nat => (f, p.1, p.2.1, st, p.2.2)) _ s g

/-- The first step that waits starts at once in an idle resident context (R181). -/
theorem startNext_idle {s : State} {h : Nat} {c : Ctx} {q : QStep} {rest : List QStep} (hc : s.ctx? h = some c)
    (hq : c.queued = q :: rest) (hi : c.st = .idle) (hr : c.resident = true) :
    (startNext s h).ctx? h = some { c with
      queued := rest, st := .ready, phase := if q.phase = 0xFFFF then entryOf s c.program else q.phase, op := 0, iter := 0,
      retries := 0, accepted := 0, faultPhase := 0xFFFF, faultOp := 0xFFFF, step := some ⟨q.src, .ok, false, false⟩, inflight := [],
      idleSince := s.sch.idleTick + 1, sequencer := none, quantumOver := false, token := q.token.getD c.token } ∧
    (startNext s h).regs = s.regs ∧ (startNext s h).mm = s.mm ∧ (startNext s h).qm = s.qm ∧ (startNext s h).tl = s.tl := by
  have e1 : (s.setCtx h { c with queued := rest }).ctx? h = some { c with queued := rest } := Tab.find?_ins_same _ _ _
  have e2 : entryOf (s.setCtx h { c with queued := rest }) c.program = entryOf s c.program := rfl
  have e0 : startNext s h = beginQueued (s.setCtx h { c with queued := rest }) h q := by
    unfold startNext
    simp only [hc, hq]
    rw [if_pos (by simp [hi, hr])]
  rw [e0]
  unfold beginQueued
  simp only [e1, e2]
  unfold startStep
  cases q.token with
  | none =>
    refine ⟨?_, rfl, rfl, rfl, rfl⟩
    simp only [ctx_updCtx_same]
    simp [State.ctx?, State.setCtx, Tab.find?_ins_same]
  | some t =>
    refine ⟨?_, rfl, rfl, rfl, rfl⟩
    simp only [ctx_updCtx_same]
    simp [State.ctx?, State.setCtx, Tab.find?_ins_same]

/-- Completions in a row change none of what a completion leaves. -/
theorem completes_kept {α : Type} (g : α → Nat × Nat × Nat × Status × Nat) (l : List α) : ∀ (s : State),
    let t := l.foldl (fun s p => complete s (g p).1 (g p).2.1 (g p).2.2.1 (g p).2.2.2.1 (g p).2.2.2.2) s
    t.sch = s.sch ∧ t.mm = s.mm ∧ t.qm = s.qm ∧ t.attn = s.attn ∧ t.tl = s.tl := by
  induction l with
  | nil => exact fun _ => ⟨rfl, rfl, rfl, rfl, rfl⟩
  | cons a l ih =>
    intro s
    obtain ⟨a1, a2, -, a3, a4, a5, -⟩ := complete_kept s (g a).1 (g a).2.1 (g a).2.2.1 (g a).2.2.2.1 (g a).2.2.2.2 []
    obtain ⟨b1, b2, b3, b4, b5⟩ := ih (complete s (g a).1 (g a).2.1 (g a).2.2.1 (g a).2.2.2.1 (g a).2.2.2.2)
    simp only [List.foldl_cons]
    exact ⟨b1.trans a1, b2.trans a2, b3.trans a3, b4.trans a4, b5.trans a5⟩

theorem dropCtxSync_kept (s : State) (h : Nat) : (dropCtxSync s h).sch.ctxs = s.sch.ctxs ∧ (dropCtxSync s h).mm = s.mm ∧
    (dropCtxSync s h).qm = s.qm ∧ (dropCtxSync s h).attn = s.attn ∧ (dropCtxSync s h).tl = s.tl := by
  unfold dropCtxSync disarm
  obtain ⟨a1, a2, a3, a4, a5⟩ := completes_kept (fun p : PrePost => (p.fn, p.ring, p.num, Status.aborted, 0))
    (s.tr.pre.filter (fun p => (((s.sch.triggers.filter (fun t => t.2.ctx == some h)).map (·.1)).contains p.trigger)))
    { s with sch := { s.sch with triggers := s.sch.triggers.filter (fun t => !(t.2.ctx == some h)) },
             tr := { s.tr with pre := s.tr.pre.filter (fun p => !(((s.sch.triggers.filter (fun t => t.2.ctx == some h)).map (·.1)).contains p.trigger)) } }
  dsimp only at a1 a2 a3 a4 a5 ⊢
  exact ⟨by rw [a1], a2, a3, a4, a5⟩

/-- Abort of a context with nothing in flight: it is ABORTING, and memory and queues are as they were (R176). -/
theorem beginAbort_idle {s : State} {h : Nat} {c : Ctx} {w : Option Who} (hc : s.ctx? h = some c) (h1 : c.step = none) (h2 : c.queued = [])
    (h3 : s.tl.streams.all (fun x => x.2.claim.map (·.1) != some h) = true) (h4 : Tab.find? h s.attn.rings = none) :
    (beginAbort s h false w).ctx? h =
      some { c with st := .aborting, queued := [], abort := false, closer := w, unparkSince := none, sequencer := none } ∧
    (beginAbort s h false w).mm = s.mm ∧ (beginAbort s h false w).qm = s.qm := by
  obtain ⟨k1, k2, k3, k4, k5⟩ := dropCtxSync_kept s h
  have e1 : dropClaims (dropCtxSync s h) h = dropCtxSync s h := by
    unfold dropClaims
    dsimp only
    rw [k5]
    rw [List.filter_eq_nil_iff.2, List.foldl_nil]
    intro p hp
    have := List.all_eq_true.1 h3 p hp
    cases e : p.2.claim with
    | none => simp
    | some x => simpa [e] using this
  have e2 : (dropInflight (dropCtxSync s h) h).sch = (dropCtxSync s h).sch ∧ (dropInflight (dropCtxSync s h) h).mm = s.mm ∧
      (dropInflight (dropCtxSync s h) h).qm = s.qm := by
    unfold dropInflight
    rw [e1]
    dsimp only
    rw [k4, h4]
    exact ⟨rfl, k2, k3⟩
  unfold beginAbort
  simp only [hc, h1, h2, List.foldl_nil, Bool.false_eq_true, if_false]
  refine ⟨?_, e2.2.1, e2.2.2⟩
  rw [ctx_updCtx_same]
  have : (dropInflight (dropCtxSync s h) h).ctx? h = some c := by unfold State.ctx?; rw [e2.1, k1]; exact hc
  rw [this, Option.map_some]
  simp [h1]

/-- A change of a context's record that leaves its function and residency leaves the counts of contexts and the free hardware numbers. -/
theorem updCtx_counts (s : State) (h : Nat) (u : Ctx → Ctx) (hf : ∀ c, (u c).fn = c.fn) (hr : ∀ c, (u c).resident = c.resident)
    (hw : ∀ c, (u c).hw = c.hw) (f : Nat) : residentOf (s.updCtx h u) f = residentOf s f ∧ freeHw (s.updCtx h u) = freeHw s := by
  have e : ∀ l : List (Nat × Ctx), ((Tab.upd h u l).filter (fun p => p.2.resident)).map (fun p => p.2.hw) =
      (l.filter (fun p => p.2.resident)).map (fun p => p.2.hw) := by
    intro l
    induction l with
    | nil => rfl
    | cons p l ih =>
      unfold Tab.upd at ih ⊢
      rw [List.map_cons, List.filter_cons, List.filter_cons]
      by_cases hp : p.1 = h
      · rw [if_pos hp]
        simp only [hr]
        split_ifs <;> simp [ih, hw]
      · rw [if_neg hp]
        split_ifs <;> simp [ih]
  constructor
  · unfold residentOf State.updCtx Tab.upd
    rw [List.countP_map]
    congr 1
    funext p
    by_cases hp : p.1 = h <;> simp [hp, hf, hr]
  · unfold freeHw State.updCtx
    dsimp only
    rw [e]

theorem endLate_kept (s : State) (f h : Nat) (st : Status) : (endLate s f h st).sch = s.sch ∧ (endLate s f h st).mm = s.mm ∧
    (endLate s f h st).qm = s.qm := by
  unfold endLate
  obtain ⟨a, b, c, -, -⟩ := completes_kept (fun p : Nat × Nat × Nat => (f, p.1, p.2.1, st, p.2.2)) _ s
  exact ⟨a, b, c⟩

/-- No slice of a context is left once its slices are freed (R176). -/
theorem freeSlices_gone (s : State) (h : Nat) : ∀ e ∈ (freeSlices s h).sch.slices, ∀ p ∈ e.2, p.1 / 256 ≠ h := by
  unfold freeSlices
  dsimp only
  intro e he p hp
  rw [List.mem_filter, List.mem_map] at he
  obtain ⟨⟨x, -, rfl⟩, -⟩ := he
  rw [List.mem_filter] at hp
  simpa using hp.2

/-- A region freed is not listed any more, and slices and contexts are as they were (R93). -/
theorem freeRegion_gone (s : State) (base : Nat) : (∀ r ∈ (freeRegion s base).mm.regions, r.base ≠ base) ∧ (freeRegion s base).sch = s.sch ∧
    (freeRegion s base).qm = s.qm := by
  have one : ∀ (u : State) (k : Nat), (dropRemapped u k).mm.regions = u.mm.regions ∧ (dropRemapped u k).sch = u.sch ∧
      (dropRemapped u k).qm = u.qm := by
    intro u k
    unfold dropRemapped
    split <;> exact ⟨rfl, rfl, rfl⟩
  have key : ∀ (l : List Nat) (u : State),
      let t := l.foldl dropRemapped u
      t.mm.regions = u.mm.regions ∧ t.sch = u.sch ∧ t.qm = u.qm := by
    intro l
    induction l with
    | nil => exact fun _ => ⟨rfl, rfl, rfl⟩
    | cons a l ih =>
      intro u
      obtain ⟨x, y, z⟩ := ih (dropRemapped u a)
      obtain ⟨x', y', z'⟩ := one u a
      exact ⟨x.trans x', y.trans y', z.trans z'⟩
  unfold freeRegion
  split
  · rename_i hn
    refine ⟨fun r hr e => ?_, rfl, rfl⟩
    have := List.find?_eq_none.1 hn r hr
    simp [e] at this
  · dsimp only
    obtain ⟨x, y, z⟩ := key (rangeFrom ((Region.base _ - t1Base) / 65536) (Region.framesOf _))
      { s with mm := { s.mm with regions := s.mm.regions.filter (fun r => r.base != base) } }
    refine ⟨fun r hr => ?_, y, z⟩
    rw [x] at hr
    simpa using (List.mem_filter.1 hr).2

end Sys2Proof.Machine
end

