-- ==== Sys2Proof/Laws/Copy.lean ====
section
/-! SUPPORT. What copies read, where nothing bars them. -/

namespace Sys2Proof.Machine

open Sys2Proof

theorem cutPieces_ne {bs : List PByte} (h : bs ≠ []) : cutPieces bs ≠ [] := by
  cases bs with
  | nil => exact absurd rfl h
  | cons b r => simp [cutPieces, chunk, chunks]

theorem hostReadP_length {s : State} {f a n : Nat} {bs : List PByte} (h : hostReadP s f a n = some bs) : bs.length = n := by
  unfold hostReadP hostRead at h
  split_ifs at h
  · simp only [Option.map_some, Option.some.injEq] at h
    rw [← h]
    simp [cellsRead, rangeFrom]
  · cases h

/-- Host bytes are read where the link is up and a window admits them. -/
theorem hostReadP_some {s : State} {f a n : Nat} (h : (hostUp s f && winOk s f a n false) = true) : ∃ bs, hostReadP s f a n = some bs := by
  unfold hostReadP hostRead
  rw [if_pos h]
  exact ⟨_, rfl⟩

/-- Local memory is read at once. -/
theorem localRead_mem {s : State} (bad : List (Nat × Nat × Byte)) {a : Nat} (n : Nat) (h : addrClass a = .t1 ∨ addrClass a = .t2) :
    localRead s bad a n = some ((preadCtl s a n).1, (preadCtl s a n).2, psnStatus (anyPsn (preadCtl s a n).1)) := by
  unfold localRead
  rcases h with h | h <;> rw [h]

theorem localCheck_free (s : State) (c f a n : Nat) (w : Bool) : localCheck { s with freeCtr := c } f a n w = localCheck s f a n w := by
  have kv : ∀ k a n, kvCheck { s with freeCtr := c } f k a n = kvCheck s f k a n := by
    intro k
    induction k with
    | zero => exact fun _ _ => rfl
    | succ k ih =>
      intro a n
      unfold kvCheck
      have e : spanOfAddr { s with freeCtr := c } a = spanOfAddr s a := rfl
      rw [e]
      cases spanOfAddr s a with
      | none => rfl
      | some p =>
        dsimp only
        split_ifs
        · rfl
        · rfl
        · rfl
        · rfl
        · exact ih _ _
  unfold localCheck
  simp only [kv]
  rfl

/-- A bulk copy list whose segments lie in local memory and may be sent is read through (R265). -/
theorem listPkts_mem (bad : List (Nat × Nat × Byte)) (f node : Nat) (l : List (Nat × Nat × Nat)) : ∀ {s : State},
    (∀ g ∈ l, g.2.1 < 2 ^ 48 ∧ 0 < g.2.2 ∧ g.2.2 ≤ 2 ^ 32 ∧ localCheck s f g.1 g.2.2 false = .ok ∧
      fabricCheck s f node g.2.1 g.2.2 .write = .ok ∧ (addrClass g.1 = .t1 ∨ addrClass g.1 = .t2)) →
    ∃ ps t st, listPkts bad f node l s = some (.ok ps, t, st) ∧ (l ≠ [] → ps ≠ []) := by
  induction l with
  | nil => exact fun {s} _ => ⟨[], s, .ok, rfl, fun h => absurd rfl h⟩
  | cons g l ih =>
    intro s h
    obtain ⟨h1, h2, h3, h4, h5, h6⟩ := h g (by simp)
    obtain ⟨src, dst, len⟩ := g
    dsimp only at h1 h2 h3 h4 h5 h6
    obtain ⟨c, hc⟩ := preadCtl_only s src len
    obtain ⟨ps, t, st, hp, -⟩ := ih (s := (preadCtl s src len).2) (fun g hg => by
      obtain ⟨k1, k2, k3, k4, k5, k6⟩ := h g (by simp [hg])
      rw [hc]
      exact ⟨k1, k2, k3, by rw [localCheck_free]; exact k4, k5, k6⟩)
    have hl : (preadCtl s src len).1.length = len := preadCtl_length _ _ _
    have hn : cutPieces (preadCtl s src len).1 ≠ [] := cutPieces_ne (fun e => by rw [e] at hl; simp at hl; omega)
    refine ⟨(cutPieces (preadCtl s src len).1).map (fun p => (p.1, flowPkt t 1 node (dst + p.1) (rawBytes p.2) (anyPsn p.2))) ++ ps,
      t, (psnStatus (anyPsn (preadCtl s src len).1)).worse st, ?_, fun _ => ?_⟩
    · unfold listPkts
      rw [if_neg (by omega), h4, h5]
      simp only [show (Status.ok).worse Status.ok = Status.ok from rfl, localRead_mem bad len h6]
      rw [if_neg (by omega), hp]
    · simp only [ne_eq, List.append_eq_nil_iff, List.map_eq_nil_iff, not_and]
      exact fun e => absurd e hn

end Sys2Proof.Machine
end

