-- ==== Sys2Proof/Laws/Epochs.lean ====
section
/-! SUPPORT. What a map's routing entries and lost nodes leave in the registers (R313, R316). -/

namespace Sys2Proof.Machine

open Sys2Proof

/-- A run over entries leaves a place that no entry writes. -/
theorem find?_foldl_range (g : State → Nat → State) (k : Nat) (n : Nat)
    (h : ∀ t i, i < n → Tab.find? k (g t i).regs = Tab.find? k t.regs) (s : State) :
    Tab.find? k ((List.range n).foldl g s).regs = Tab.find? k s.regs := by
  induction n with
  | zero => rfl
  | succ n ih =>
    rw [List.range_succ, List.foldl_append, List.foldl_cons, List.foldl_nil, h _ _ (Nat.lt_succ_self n)]
    exact ih (fun t i hi => h t i (Nat.lt_succ_of_lt hi))

/-- The value a run over entries leaves in the entry i. -/
theorem find?_foldl_range_at (g : State → Nat → State) (key : Nat → Nat) (n i : Nat) (hi : i < n)
    (h : ∀ t j, j ≠ i → Tab.find? (key i) (g t j).regs = Tab.find? (key i) t.regs) (s : State) :
    ∃ t, Tab.find? (key i) ((List.range n).foldl g s).regs = Tab.find? (key i) (g t i).regs := by
  induction n with
  | zero => omega
  | succ n ih =>
    rw [List.range_succ, List.foldl_append, List.foldl_cons, List.foldl_nil]
    by_cases e : n = i
    · subst e; exact ⟨_, rfl⟩
    · obtain ⟨t, ht⟩ := ih (by omega)
      exact ⟨t, by rw [h _ _ e, ht]⟩

/-- A field after a run that does not write it. -/
theorem fld_of_find? {s t : State} {f : Fld} {i j : Nat} (h : Tab.find? (f.key i j) t.regs = Tab.find? (f.key i j) s.regs) :
    t.fld f i j = s.fld f i j := by
  unfold State.fld Tab.get
  rw [h]

/-- The step of a routing table. -/
def putRoute (fp fv : Fld) (l : List (Nat × Nat)) (s : State) (g : Nat) : State :=
  match Tab.find? g l with
  | some e => (s.setFld fp (e % 65536) g).setFld fv (e / 65536 % 2) g
  | none => (s.setFld fp 0 g).setFld fv 0 g

theorem setRoutes_eq (s : State) (gs ms : List (Nat × Nat)) : setRoutes s gs ms =
    (List.range 128).foldl (putRoute R.ROUTE_MEMBER.PORTS R.ROUTE_MEMBER.VALID ms)
      ((List.range 256).foldl (putRoute R.ROUTE_GROUP.PORTS R.ROUTE_GROUP.VALID gs) s) := rfl

theorem putRoute_ne (fp fv : Fld) (l : List (Nat × Nat)) (s : State) {g k : Nat} (h1 : k ≠ fp.key g 0) (h2 : k ≠ fv.key g 0) :
    Tab.find? k (putRoute fp fv l s g).regs = Tab.find? k s.regs := by
  unfold putRoute
  split
  · rw [State.find?_setFld_ne _ h2, State.find?_setFld_ne _ h1]
  · rw [State.find?_setFld_ne _ h2, State.find?_setFld_ne _ h1]

theorem putRoute_ports (fp fv : Fld) (l : List (Nat × Nat)) (s : State) (g : Nat) (h : fp.key g 0 ≠ fv.key g 0) (hw : fp.wd = 16) :
    (putRoute fp fv l s g).fld fp g = ((Tab.find? g l).getD 0) % 65536 := by
  unfold putRoute
  split <;> rename_i e
  · rw [State.fld_setFld_ne _ h, State.fld_setFld_same, hw, e]; exact Nat.mod_mod _ _
  · rw [State.fld_setFld_ne _ h, State.fld_setFld_same, e]; simp

theorem putRoute_valid (fp fv : Fld) (l : List (Nat × Nat)) (s : State) (g : Nat) (hw : fv.wd = 1) :
    (putRoute fp fv l s g).fld fv g = ((Tab.find? g l).getD 0) / 65536 % 2 := by
  unfold putRoute
  split <;> rename_i e
  · rw [State.fld_setFld_same, hw, e]; exact Nat.mod_mod _ _
  · rw [State.fld_setFld_same, e]; simp

/-- Places of the group table, of the member table and of the lost nodes, and every other place. -/
def GroupKey (k : Nat) : Prop := 0x901000 * 8 ≤ k ∧ k < 0x901400 * 8
def MemberKey (k : Nat) : Prop := 0x901400 * 8 ≤ k ∧ k < 0x901600 * 8
def LostKey (k : Nat) : Prop := 0x907000 * 8 ≤ k ∧ k < 0x908000 * 8

theorem key_groupPorts (g : Nat) : R.ROUTE_GROUP.PORTS.key g 0 = 0x901000 * 8 + 32 * g := by
  change (0x901000 + g * 4 + 0 * 0) * 8 + 0 = _; omega
theorem key_groupValid (g : Nat) : R.ROUTE_GROUP.VALID.key g 0 = 0x901000 * 8 + 32 * g + 16 := by
  change (0x901000 + g * 4 + 0 * 0) * 8 + 16 = _; omega
theorem key_memberPorts (g : Nat) : R.ROUTE_MEMBER.PORTS.key g 0 = 0x901400 * 8 + 32 * g := by
  change (0x901400 + g * 4 + 0 * 0) * 8 + 0 = _; omega
theorem key_memberValid (g : Nat) : R.ROUTE_MEMBER.VALID.key g 0 = 0x901400 * 8 + 32 * g + 16 := by
  change (0x901400 + g * 4 + 0 * 0) * 8 + 16 = _; omega
theorem key_lost (g : Nat) : R.MER_LOST.NODE_MAP.key g 0 = 0x907000 * 8 + 32 * g := by
  change (0x907000 + g * 4 + 0 * 0) * 8 + 0 = _; omega

/-- The routing tables alone change. -/
theorem setRoutes_ne (s : State) (gs ms : List (Nat × Nat)) {k : Nat} (h1 : ¬ GroupKey k) (h2 : ¬ MemberKey k) :
    Tab.find? k (setRoutes s gs ms).regs = Tab.find? k s.regs := by
  unfold GroupKey at h1; unfold MemberKey at h2
  rw [setRoutes_eq, find?_foldl_range, find?_foldl_range]
  · intro t i hi
    exact putRoute_ne _ _ _ _ (by rw [key_groupPorts]; omega) (by rw [key_groupValid]; omega)
  · intro t i hi
    exact putRoute_ne _ _ _ _ (by rw [key_memberPorts]; omega) (by rw [key_memberValid]; omega)

/-- Entries of the group table. -/
theorem setRoutes_group (s : State) (gs ms : List (Nat × Nat)) {g : Nat} (h : g < 256) :
    (setRoutes s gs ms).fld R.ROUTE_GROUP.PORTS g = ((Tab.find? g gs).getD 0) % 65536 ∧
    (setRoutes s gs ms).fld R.ROUTE_GROUP.VALID g = ((Tab.find? g gs).getD 0) / 65536 % 2 := by
  rw [setRoutes_eq]
  constructor
  · rw [fld_of_find? (s := (List.range 256).foldl (putRoute R.ROUTE_GROUP.PORTS R.ROUTE_GROUP.VALID gs) s)]
    · obtain ⟨t, ht⟩ := find?_foldl_range_at (putRoute R.ROUTE_GROUP.PORTS R.ROUTE_GROUP.VALID gs) (fun i => R.ROUTE_GROUP.PORTS.key i 0)
        256 g h (fun t j hj => putRoute_ne _ _ _ _ (by rw [key_groupPorts, key_groupPorts]; omega)
          (by rw [key_groupPorts, key_groupValid]; omega)) s
      rw [fld_of_find? ht]
      exact putRoute_ports _ _ _ _ _ (by rw [key_groupPorts, key_groupValid]; omega) rfl
    · refine find?_foldl_range _ _ _ (fun t i hi => ?_) _
      exact putRoute_ne _ _ _ _ (by rw [key_groupPorts, key_memberPorts]; omega) (by rw [key_groupPorts, key_memberValid]; omega)
  · rw [fld_of_find? (s := (List.range 256).foldl (putRoute R.ROUTE_GROUP.PORTS R.ROUTE_GROUP.VALID gs) s)]
    · obtain ⟨t, ht⟩ := find?_foldl_range_at (putRoute R.ROUTE_GROUP.PORTS R.ROUTE_GROUP.VALID gs) (fun i => R.ROUTE_GROUP.VALID.key i 0)
        256 g h (fun t j hj => putRoute_ne _ _ _ _ (by rw [key_groupPorts, key_groupValid]; omega)
          (by rw [key_groupValid, key_groupValid]; omega)) s
      rw [fld_of_find? ht]
      exact putRoute_valid _ _ _ _ _ rfl
    · refine find?_foldl_range _ _ _ (fun t i hi => ?_) _
      exact putRoute_ne _ _ _ _ (by rw [key_groupValid, key_memberPorts]; omega) (by rw [key_groupValid, key_memberValid]; omega)

/-- Entries of the member table. -/
theorem setRoutes_member (s : State) (gs ms : List (Nat × Nat)) {g : Nat} (h : g < 128) :
    (setRoutes s gs ms).fld R.ROUTE_MEMBER.PORTS g = ((Tab.find? g ms).getD 0) % 65536 ∧
    (setRoutes s gs ms).fld R.ROUTE_MEMBER.VALID g = ((Tab.find? g ms).getD 0) / 65536 % 2 := by
  rw [setRoutes_eq]
  constructor
  · obtain ⟨t, ht⟩ := find?_foldl_range_at (putRoute R.ROUTE_MEMBER.PORTS R.ROUTE_MEMBER.VALID ms) (fun i => R.ROUTE_MEMBER.PORTS.key i 0)
      128 g h (fun t j hj => putRoute_ne _ _ _ _ (by rw [key_memberPorts, key_memberPorts]; omega)
        (by rw [key_memberPorts, key_memberValid]; omega)) ((List.range 256).foldl (putRoute R.ROUTE_GROUP.PORTS R.ROUTE_GROUP.VALID gs) s)
    rw [fld_of_find? ht]
    exact putRoute_ports _ _ _ _ _ (by rw [key_memberPorts, key_memberValid]; omega) rfl
  · obtain ⟨t, ht⟩ := find?_foldl_range_at (putRoute R.ROUTE_MEMBER.PORTS R.ROUTE_MEMBER.VALID ms) (fun i => R.ROUTE_MEMBER.VALID.key i 0)
      128 g h (fun t j hj => putRoute_ne _ _ _ _ (by rw [key_memberPorts, key_memberValid]; omega)
        (by rw [key_memberValid, key_memberValid]; omega)) ((List.range 256).foldl (putRoute R.ROUTE_GROUP.PORTS R.ROUTE_GROUP.VALID gs) s)
    rw [fld_of_find? ht]
    exact putRoute_valid _ _ _ _ _ rfl

/-- The lost nodes alone change. -/
theorem setLost_ne (s : State) (lost : List Nat) {k : Nat} (h : ¬ LostKey k) :
    Tab.find? k (setLost s lost).regs = Tab.find? k s.regs := by
  unfold LostKey at h
  refine find?_foldl_range _ _ _ (fun t i hi => ?_) _
  exact State.find?_setFld_ne _ (by rw [key_lost]; omega) _

theorem testBit_foldl_lor (b : Nat) (l : List Nat) : ∀ a : Nat, (l.foldl Nat.lor a).testBit b = (a.testBit b || l.any (fun x => x.testBit b)) := by
  induction l with
  | nil => intro a; simp
  | cons x r ih =>
    intro a
    rw [List.foldl_cons, ih, List.any_cons]
    change ((a ||| x).testBit b || _) = _
    rw [Nat.testBit_lor, Bool.or_assoc]

/-- A node is lost exactly if the map lists it. -/
theorem nodeLost_setLost (s : State) (lost : List Nat) {n : Nat} (h : n < 32768) : nodeLost (setLost s lost) n = lost.contains n := by
  obtain ⟨t, ht⟩ := find?_foldl_range_at (fun s k => s.setFld R.MER_LOST.NODE_MAP
      (((lost.filter (fun n => n / 32 = k)).map (fun n => 2 ^ (n % 32))).foldl Nat.lor 0) k) (fun i => R.MER_LOST.NODE_MAP.key i 0)
    1024 (n / 32) (by omega) (fun t j hj => State.find?_setFld_ne _ (by rw [key_lost, key_lost]; omega) _) s
  unfold nodeLost
  rw [show (setLost s lost).fld R.MER_LOST.NODE_MAP (n / 32) = _ from fld_of_find? ht, State.fld_setFld_same]
  change bitAt (_ % 2 ^ 32) (n % 32) = _
  have hb : ∀ a b : Nat, bitAt a b = a.testBit b := by
    intro a b
    rw [Nat.testBit_eq_decide_div_mod_eq, bitAt]
    rfl
  rw [hb, Nat.testBit_mod_two_pow, testBit_foldl_lor]
  have : n % 32 < 32 := Nat.mod_lt _ (by decide)
  simp only [this, decide_true, Bool.true_and, Nat.zero_testBit, Bool.false_or, List.any_map, List.any_filter]
  rw [Bool.eq_iff_iff]
  simp only [List.any_eq_true, List.contains_iff_mem, Function.comp, Bool.and_eq_true, decide_eq_true_eq, Nat.testBit_two_pow]
  constructor
  · rintro ⟨x, hx, h1, h2⟩
    have : x = n := by omega
    exact this ▸ hx
  · intro hx
    exact ⟨n, hx, rfl, rfl⟩

end Sys2Proof.Machine
end

