-- ==== Sys2Proof/Laws/Errors.lean ====
section
/-! SUPPORT. What meeting storage errors leaves alone, said once: the contexts, slices and programs of the scheduler. -/

namespace Sys2Proof.Machine

open Sys2Proof

theorem logMod_sch (s : State) (e : LogEntry) : (logMod s e).sch = s.sch := by
  unfold logMod
  simp only
  split <;> rfl

theorem logModule_sch (s : State) (e : LogEntry) : (logModule s e).sch = s.sch := logMod_sch _ _

theorem logFn_sch (s : State) (f : Nat) (e : LogEntry) : (logFn s f e).sch = s.sch := by
  unfold logFn
  split
  · exact logMod_sch _ _
  · have h := (quiet_logFnRaw s f e).sch
    simp only
    split
    · unfold errorLogEvent
      exact (quiet_raiseEvent _ _ _ _ _).sch.trans h
    · exact h

/-- A fold of steps that leave the scheduler alone leaves it alone. -/
theorem foldl_sch {α : Type} (g : State → α → State) (h : ∀ s a, (g s a).sch = s.sch) (l : List α) : ∀ s : State, (l.foldl g s).sch = s.sch := by
  induction l with
  | nil => intro s; rfl
  | cons a r ih => intro s; rw [List.foldl_cons, ih, h]

theorem t0Word_sch (s : State) (w : Nat × Nat × Nat × Bool) : (t0Word s w).sch = s.sch := by
  obtain ⟨t, o, b, d⟩ := w
  have hs : ∀ (s : State) (k i : Nat), (poisonScales s k i).sch = s.sch := by
    intro s k i; unfold poisonScales; split <;> rfl
  have hb : ∀ (s : State) (k i : Nat), (poisonBatt s k i).sch = s.sch := by
    intro s k i; unfold poisonBatt; split <;> rfl
  unfold t0Word
  simp only
  split
  · rfl
  · split
    · exact logModule_sch _ _
    · repeat' split
      all_goals first
        | rfl
        | exact hs _ _ _
        | exact hb _ _ _

theorem logEither_sch (c : Bool) (s : State) (f : Nat) (e : LogEntry) : (if c then logModule s e else logFn s f e).sch = s.sch := by
  cases c
  · exact logFn_sch _ _ _
  · exact logModule_sch _ _

theorem markLine_sch (s : State) (a n : Nat) : (markLine s a n).sch = s.sch := by
  unfold markLine
  split <;> rfl

theorem notePcRow_sch (s : State) (pc row : Nat) : (notePcRow s pc row).sch = s.sch := rfl

theorem captureSector_sch (s : State) (m : Met) (k n off : Nat) : (captureSector s m k n off).sch = s.sch := by
  unfold captureSector
  split
  · rfl
  · simp only [State.setFld_sch]

theorem sectorLost_sch (s : State) (m : Met) (a : Nat) : (sectorLost s m a).sch = s.sch := by
  unfold sectorLost
  dsimp only
  rw [logEither_sch, notePcRow_sch, captureSector_sch, State.incFld, State.setFld_sch, markLine_sch]

theorem sectorSaved_sch (s : State) (m : Met) (a k : Nat) : (sectorSaved s m a k).sch = s.sch := by
  unfold sectorSaved
  simp only
  rw [logEither_sch]
  split
  · rfl
  · split <;> rfl

theorem sectorFaults_sch (s : State) (m : Met) (fs : List (Nat × Nat)) : (sectorFaults s m fs).sch = s.sch := by
  unfold sectorFaults
  refine foldl_sch _ ?_ fs s
  intro s f
  simp only
  split
  · rfl
  · split
    · exact sectorSaved_sch _ _ _ _
    · exact sectorLost_sch _ _ _

theorem failDie_sch (s : State) (rk d : Nat) : (failDie s rk d).sch = s.sch := logModule_sch _ _

theorem correctLine_sch (s : State) (l : Nat × Nat) : (correctLine s l).sch = s.sch := by
  obtain ⟨a, d⟩ := l
  unfold correctLine
  simp only
  split
  · rfl
  · split
    · exact (failDie_sch _ _ _).trans (logFn_sch _ _ _)
    · exact logFn_sch _ _ _

theorem loseLine_sch (s : State) (l : Nat) : (loseLine s l).sch = s.sch := by
  unfold loseLine
  simp only
  refine (logFn_sch _ _ _).trans ?_
  split
  · split
    · split <;> rfl
    · rfl
  · exact markLine_sch _ _ _

theorem t2Lines_sch (ls : List (Nat × Nat × Bool)) (s : State) : (t2Lines ls s).sch = s.sch := by
  unfold t2Lines
  refine foldl_sch _ ?_ ls s
  intro s l
  split
  · exact loseLine_sch _ _
  · exact correctLine_sch _ _

theorem pteFails_sch (s : State) (p : Nat × Nat) : (pteFails s p).sch = s.sch := by
  unfold pteFails
  split
  · rfl
  · split
    · rfl
    · refine (logFn_sch _ _ _).trans ?_
      split
      · rename_i m _
        show (freeDest s m).sch = s.sch
        unfold freeDest dropRun dropFrame
        repeat' split
        all_goals rfl
      · rfl

/-- Errors met by a step op leave every context, slice and program as it was. -/
theorem errsMet_sch (k : OpCtx) (e : Errs) (s : State) : (errsMet k e s).sch = s.sch := by
  unfold errsMet
  simp only
  refine (foldl_sch _ pteFails_sch _ _).trans ((t2Lines_sch _ _).trans ((foldl_sch _ ?_ _ _).trans (foldl_sch _ t0Word_sch _ _)))
  exact fun s f => sectorFaults_sch _ _ _

/-- So do those of a command of a function. -/
theorem errsOf_sch (f : Nat) (e : Errs) (s : State) : (errsOf f e s).sch = s.sch := by
  unfold errsOf
  simp only
  refine (foldl_sch _ pteFails_sch _ _).trans ((t2Lines_sch _ _).trans ((foldl_sch _ ?_ _ _).trans (foldl_sch _ t0Word_sch _ _)))
  exact fun s f => sectorFaults_sch _ _ _

/-- So do those of module-owned work. -/
theorem errsModule_sch (e : Errs) (s : State) : (errsModule e s).sch = s.sch := by
  unfold errsModule
  simp only
  refine (foldl_sch _ pteFails_sch _ _).trans ((t2Lines_sch _ _).trans (foldl_sch _ ?_ _ _))
  exact fun s f => sectorFaults_sch _ _ _

end Sys2Proof.Machine
end

