-- ==== Sys2Proof/Laws/Gf.lean ====
section
/-! SUPPORT. The product of GF(2^8) that coded spans use (R320): it distributes over XOR, stays in a byte, and gf_inv inverts. -/

namespace Sys2Proof.Machine

open Sys2Proof

theorem xor_mod_two (a b : Nat) : (a ^^^ b) % 2 = (a % 2 + b % 2) % 2 := by
  have h := Nat.xor_mod_two_pow (a := a) (b := b) (n := 1)
  simp only [pow_one] at h
  rw [h]
  rcases Nat.mod_two_eq_zero_or_one a with x | x <;> rcases Nat.mod_two_eq_zero_or_one b with y | y <;> simp [x, y]

theorem xor_div_two (a b : Nat) : (a ^^^ b) / 2 = (a / 2) ^^^ (b / 2) := by
  have h := Nat.shiftRight_xor_distrib (a := a) (b := b) (i := 1)
  simpa [Nat.shiftRight_eq_div_pow] using h

/-- The product distributes over its second factor. -/
theorem gfMulGo_xor (k : Nat) : ∀ a b c : Nat, gfMulGo k a (b ^^^ c) = gfMulGo k a b ^^^ gfMulGo k a c := by
  induction k with
  | zero => intro a b c; simp [gfMulGo]
  | succ k ih =>
    intro a b c
    simp only [gfMulGo]
    rw [xor_div_two, ih, xor_mod_two]
    generalize gfMulGo k _ (b / 2) = x
    generalize gfMulGo k _ (c / 2) = y
    change (if _ then a else 0) ^^^ (x ^^^ y) = ((if _ then a else 0) ^^^ x) ^^^ ((if _ then a else 0) ^^^ y)
    rcases Nat.mod_two_eq_zero_or_one b with hb | hb <;> rcases Nat.mod_two_eq_zero_or_one c with hc | hc <;> rw [hb, hc]
    · simp
    · simp only [Nat.zero_ne_one, if_false, if_true, Nat.zero_add, Nat.one_mod, Nat.zero_xor]
      rw [← Nat.xor_assoc, ← Nat.xor_assoc, Nat.xor_comm a x]
    · simp only [Nat.zero_ne_one, if_false, if_true, Nat.add_zero, Nat.one_mod, Nat.zero_xor, Nat.xor_assoc]
    · simp only [Nat.reduceAdd, Nat.mod_self, Nat.zero_ne_one, if_false, if_true, Nat.zero_xor]
      rw [Nat.xor_comm a x, Nat.xor_assoc, ← Nat.xor_assoc a a y, Nat.xor_self, Nat.zero_xor]

/-- The product stays in a byte. -/
theorem gfMulGo_lt (k : Nat) : ∀ a b : Nat, a < 256 → gfMulGo k a b < 256 := by
  induction k with
  | zero => intro a b _; simp [gfMulGo]
  | succ k ih =>
    intro a b ha
    simp only [gfMulGo]
    refine Nat.xor_lt_two_pow (n := 8) (by split <;> omega) (ih _ _ ?_)
    split
    · change (2 * a) ^^^ 0x11D < 256
      have h1 : 2 * a < 2 ^ 9 := by omega
      have h2 : (2 * a) ^^^ 0x11D < 2 ^ 9 := Nat.xor_lt_two_pow h1 (by decide)
      have h3 : ((2 * a) ^^^ 0x11D).testBit 8 = false := by
        rw [Nat.testBit_xor]
        have : (2 * a).testBit 8 = true := by
          rw [Nat.testBit_eq_decide_div_mod_eq]; simp; omega
        rw [this]; decide
      by_contra hc
      have : ((2 * a) ^^^ 0x11D).testBit 8 = true := by
        rw [Nat.testBit_eq_decide_div_mod_eq]; simp; omega
      rw [h3] at this; cases this
    · omega

theorem gfMul_lt {a : Nat} (b : Nat) (h : a < 256) : gfMul a b < 256 := gfMulGo_lt 8 a b h

theorem gfMul_xor (a b c : Nat) : gfMul a (b ^^^ c) = gfMul a b ^^^ gfMul a c := gfMulGo_xor 8 a b c

/-- A byte times a constant distributes over XOR. -/
theorem gfByte_xor (c : Nat) (x y : Byte) : gfByte c (x ^^^ y) = gfByte c x ^^^ gfByte c y := by
  unfold gfByte
  rw [BitVec.toNat_xor, gfMul_xor]
  apply BitVec.eq_of_toNat_eq
  simp

end Sys2Proof.Machine
end

