-- ==== Sys2Proof/Laws/Nbu.lean ====
section
/-! SUPPORT. What the stores of the near-bank commands do, said once each: which sectors are noted as unfenced, which bytes change, and that
whole clean sectors read back. -/

namespace Sys2Proof.Machine

open Sys2Proof

/-- A sector that a near-bank write notes is listed for who wrote it, with what it held (R118, R119). -/
theorem notes_find (s : State) (fn ctx : Nat) (l : List Nat) (t : List (Nat × Unfenced)) (k : Nat) (hk : k ∈ l) :
    ∃ w, Tab.find? k (l.foldl (fun t k =>
      let w : Unfenced := (Tab.find? k t).getD ⟨[], []⟩
      Tab.ins k ⟨w.by_ ++ [(fn, ctx)], w.olds ++ [(cellsRead s.mm.mem (k * 32) 32, NSet.has k s.mm.psn)]⟩ t) t) = some w ∧
      (fn, ctx) ∈ w.by_ ∧ (cellsRead s.mm.mem (k * 32) 32, NSet.has k s.mm.psn) ∈ w.olds := by
  have keep : ∀ (l : List Nat) (t : List (Nat × Unfenced)) (v : Unfenced), Tab.find? k t = some v → (fn, ctx) ∈ v.by_ →
      (cellsRead s.mm.mem (k * 32) 32, NSet.has k s.mm.psn) ∈ v.olds → ∃ w, Tab.find? k (l.foldl (fun t k =>
        let w : Unfenced := (Tab.find? k t).getD ⟨[], []⟩
        Tab.ins k ⟨w.by_ ++ [(fn, ctx)], w.olds ++ [(cellsRead s.mm.mem (k * 32) 32, NSet.has k s.mm.psn)]⟩ t) t) = some w ∧
        (fn, ctx) ∈ w.by_ ∧ (cellsRead s.mm.mem (k * 32) 32, NSet.has k s.mm.psn) ∈ w.olds := by
    intro l
    induction l with
    | nil => intro t v h h1 h2; exact ⟨v, h, h1, h2⟩
    | cons a r ih =>
      intro t v h h1 h2
      rw [List.foldl_cons]
      by_cases e : k = a
      · subst e
        exact ih _ _ (Tab.find?_ins_same _ _ _) (by simp) (by simp)
      · exact ih _ v (by rw [Tab.find?_ins_ne e]; exact h) h1 h2
  induction l generalizing t with
  | nil => simp at hk
  | cons a r ih =>
    rw [List.foldl_cons]
    by_cases e : k = a
    · subst e
      exact keep r _ _ (Tab.find?_ins_same _ _ _) (by simp) (by simp)
    · exact ih _ (by simpa [e] using hk)

/-- Pages touched: their ACCESSED bits alone change (R97). -/
theorem touchRange_only (s : State) (a n : Nat) : ∃ m, touchRange s a n = { s with pg := { s.pg with ptes := m } } ∧
    ∀ n p, { ({ s with pg := { s.pg with ptes := m } } : State).pte n p with accessed := false } = { s.pte n p with accessed := false } := by
  have one : ∀ (s : State) (n p n' p' : Nat), { (touch s n p).pte n' p' with accessed := false } = { s.pte n' p' with accessed := false } := by
    intro s n p n' p'
    unfold touch
    dsimp only
    split_ifs
    · rfl
    · by_cases e : pageKey n' p' = pageKey n p
      · simp only [State.pte, State.setPte, e, Tab.get_put_same]
      · simp only [State.pte, State.setPte, Tab.get_put_ne e]
  unfold touchRange
  generalize frameCuts (a - t1Base) n = l
  induction l generalizing s with
  | nil => exact ⟨s.pg.ptes, rfl, fun _ _ => rfl⟩
  | cons c l ih =>
    rw [List.foldl_cons]
    split
    · rename_i q hq
      obtain ⟨m, e⟩ := touch_only s q.2.1 q.2.2
      obtain ⟨m', e', k⟩ := ih (touch s q.2.1 q.2.2)
      refine ⟨m', by rw [e', e], fun n p => ?_⟩
      have := k n p
      rw [one] at this
      exact this
    · exact ih s

theorem nbuWrite_only (s : State) (fn ctx a : Nat) (bs : List PByte) : ∃ m p u, (nbuWrite s fn ctx a bs).1 =
    { s with mm := { s.mm with mem := m, psn := p, unfenced := u } } ∧ u = (noteUnfenced s fn ctx a bs.length).mm.unfenced := by
  unfold nbuWrite
  obtain ⟨m, p, h⟩ := pwrite_only (noteUnfenced s fn ctx a bs.length) a bs
  exact ⟨m, p, _, h, rfl⟩

theorem nbuWrite_out (s : State) (fn ctx a : Nat) (bs : List PByte) :
    (∀ x, (∀ i, i < bs.length → remapAddr s (a + i) ≠ x) → Tab.get 0#8 x (nbuWrite s fn ctx a bs).1.mm.mem = Tab.get 0#8 x s.mm.mem) ∧
    (∀ l, (∀ i, i < bs.length → remapAddr s (a + i) / 64 ≠ l / 2) → NSet.has l (nbuWrite s fn ctx a bs).1.mm.psn = NSet.has l s.mm.psn) :=
  pwriteGo_out (bs.length + 1) (noteUnfenced s fn ctx a bs.length) a bs

/-- Whole clean lines written are there afterwards, clean, whatever marked them. -/
theorem pwriteGo_whole (k : Nat) : ∀ (s : State) (a : Nat) (bs : List PByte), bs.length < k → a % 32 = 0 → 32 ∣ bs.length →
    (∀ i, i < bs.length → lineWidth (a + i) = 32) → (∀ i, i < bs.length → remapAddr s (a + i) = a + i) → anyPsn bs = false →
    (∀ i (h : i < bs.length), Tab.get 0#8 (a + i) (pwriteGo k s a bs).1.mm.mem = (bs[i]).1 ∧ NSet.has ((a + i) / 32) (pwriteGo k s a bs).1.mm.psn = false) ∧
      (pwriteGo k s a bs).2 = false := by
  induction k with
  | zero => intro s a bs h; omega
  | succ k ih =>
    intro s a bs hk ha hd hw hr hp
    cases bs with
    | nil => exact ⟨fun i h => absurd h (by simp), rfl⟩
    | cons b r =>
      have h32 : 32 ≤ (b :: r).length := Nat.le_of_dvd (by simp) hd
      have hw0 : lineWidth a = 32 := by simpa using hw 0 (by simp)
      have h1 : anyPsn ((b :: r).take 32) = false := by
        simp only [anyPsn, List.any_eq_false] at *
        exact fun x hx => hp x (List.mem_of_mem_take hx)
      have h2 : anyPsn ((b :: r).drop 32) = false := by
        simp only [anyPsn, List.any_eq_false] at *
        exact fun x hx => hp x (List.mem_of_mem_drop hx)
      have hr0 : remapAddr s a = a := by simpa using hr 0 (by simp)
      have hlt : ((b :: r).take 32).length = 32 := by rw [List.length_take]; omega
      have c : (writeLine s a ((b :: r).take 32)).1.mm.mem = cellsWrite s.mm.mem a (rawBytes ((b :: r).take 32)) ∧
          (writeLine s a ((b :: r).take 32)).2 = false ∧ NSet.has (a / 32) (writeLine s a ((b :: r).take 32)).1.mm.psn = false := by
        unfold writeLine
        simp only [hr0, hw0]
        rw [if_neg (by rw [h1]; simp), if_pos hlt]
        refine ⟨rfl, rfl, ?_⟩
        have : a / 32 * 32 = a := by omega
        simp [clearLine, NSet.has_del, this]
      have hre := remapAddr_congr (writeLine_remap s a ((b :: r).take 32))
      have hlen : ((b :: r).drop 32).length = (b :: r).length - 32 := List.length_drop
      have hn : lineWidth a - a % lineWidth a = 32 := by rw [hw0]; omega
      have q := ih (writeLine s a ((b :: r).take 32)).1 (a + 32) ((b :: r).drop 32) (by rw [hlen]; simp only [List.length_cons] at *; omega)
        (by omega) (by rw [hlen]; exact Nat.dvd_sub hd (dvd_refl _))
        (fun i hi => by rw [Nat.add_assoc]; exact hw _ (by omega))
        (fun i hi => by rw [hre, Nat.add_assoc]; exact hr _ (by omega)) h2
      have o := pwriteGo_out k (writeLine s a ((b :: r).take 32)).1 (a + 32) ((b :: r).drop 32)
      simp only [pwriteGo, hn]
      refine ⟨?_, by rw [c.2.1, q.2]; rfl⟩
      intro i hi
      by_cases hin : i < 32
      · refine ⟨?_, ?_⟩
        · rw [o.1 (a + i) (fun j hj => by
            rw [hre, Nat.add_assoc]
            have hj' := hr (32 + j) (by omega)
            rw [hj']; omega)]
          rw [c.1]
          have e := get_cellsWrite_in (rawBytes ((b :: r).take 32)) s.mm.mem a i (by rw [rawBytes_length, hlt]; omega)
          rw [e]
          simp only [rawBytes, List.getElem_map, List.getElem_take]
        · have e : (a + i) / 32 = a / 32 := by omega
          rw [e]
          exact pwriteGo_marks k h2 _ c.2.2
      · have e := q.1 (i - 32) (by omega)
        rw [show a + 32 + (i - 32) = a + i by omega] at e
        refine ⟨?_, e.2⟩
        rw [e.1]
        simp only [List.getElem_drop]
        congr 2
        omega

theorem bankElems_length {fmt len : Nat} {bs : List PByte} (h : bs.length = 32 * len) : (bankElems fmt bs).length = (if fmt % 4 = 2 then 16 else 8) * len := by
  unfold bankElems
  split
  · exact elemsBf_length (by omega)
  · exact elemsOf_length (by omega)

theorem bankBytes_length (fmt : Nat) (es : List PElem) : (bankBytes fmt es).length = (if fmt % 4 = 2 then 2 else 4) * es.length := by
  unfold bankBytes
  simp only
  split <;> simp [bytesOf_length, spread_length]

theorem pread_length (s : State) (a n : Nat) : (pread s a n).length = n := by simp [pread, rangeFrom]
theorem bufRead_length (s : State) (k o n : Nat) : (bufRead s k o n).length = n := by simp [bufRead, rangeFrom]

theorem elemwise_length (kind : Nat) (c : W32) (xs zs : List PElem) (h : xs.length = zs.length) : (elemwise kind c xs zs).length = xs.length := by
  unfold elemwise; split <;> simp [h]

theorem nbuStore_kept (s : State) (c : NbuCmd) (a n : Nat) (bs : List PByte) (lost : Bool) (h : bs.length ≤ n) :
    (∃ m p u, (nbuStore s c a bs lost).1 = { s with mm := { s.mm with mem := m, psn := p, unfenced := u } }) ∧
    (∀ x, (∀ i, i < n → remapAddr s (a + i) ≠ x) → Tab.get 0#8 x (nbuStore s c a bs lost).1.mm.mem = Tab.get 0#8 x s.mm.mem) ∧
    (∀ l, (∀ i, i < n → remapAddr s (a + i) / 64 ≠ l / 2) → NSet.has l (nbuStore s c a bs lost).1.mm.psn = NSet.has l s.mm.psn) := by
  unfold nbuStore
  simp only
  generalize hb : (if lost = true then bs.map (fun b => (b.1, true)) else bs) = bs'
  have hl : bs'.length ≤ n := by rw [← hb]; split <;> simpa using h
  obtain ⟨m, p, u, e, -⟩ := nbuWrite_only s c.fn c.h a bs'
  refine ⟨⟨m, p, u, e⟩, ?_, ?_⟩
  · intro x hx; exact (nbuWrite_out s c.fn c.h a bs').1 x (fun i hi => hx i (by omega))
  · intro x hx; exact (nbuWrite_out s c.fn c.h a bs').2 x (fun i hi => hx i (by omega))

theorem nbuStore_reads {s : State} {c : NbuCmd} {a n : Nat} {bs : List PByte} (hl : bs.length = n) (ha : a % 32 = 0) (hd : 32 ∣ n)
    (hok : ∀ i, i < n → addrClass (a + i) = .t1 ∧ remapAddr s (a + i) = a + i) (hp : anyPsn bs = false) :
    pread (nbuStore s c a bs false).1 a n = bs ∧ (nbuStore s c a bs false).2 = .ok := by
  subst hl
  have w := pwriteGo_whole (bs.length + 1) (noteUnfenced s c.fn c.h a bs.length) a bs (by omega) ha hd
    (fun i hi => by unfold lineWidth; rw [(hok i hi).1]; simp) (fun i hi => (hok i hi).2) hp
  obtain ⟨m, p, u, e, -⟩ := nbuWrite_only s c.fn c.h a bs
  have hre : ∀ x, remapAddr (nbuStore s c a bs false).1 x = remapAddr s x := remapAddr_congr (by unfold nbuStore; simp [e])
  refine ⟨?_, ?_⟩
  · apply List.ext_getElem
    · simp [pread, rangeFrom]
    · intro i h1 h2
      simp only [pread, rangeFrom, List.getElem_map, List.getElem_range, hre, (hok i h2).2]
      have q := w.1 i h2
      have e3 : (bs[i]).2 = false := by
        simp only [anyPsn, List.any_eq_false] at hp
        have := hp _ (List.getElem_mem h2)
        simpa using this
      apply Prod.ext
      · exact q.1
      · rw [e3]; exact q.2
  · unfold nbuStore nbuWrite pwrite
    simp only [Bool.false_eq_true, if_false, w.2, hp, psnStatus, Bool.or_self]

end Sys2Proof.Machine
end

