-- ==== Sys2Proof/Laws/Scheduler.lean ====
section
/-! SUPPORT. What the selection of a context answers. -/

namespace Sys2Proof.Machine

open Sys2Proof

theorem longestIdle_some {l : List (Nat × Ctx)} (h : l ≠ []) : ∃ k, longestIdle l = some k := by
  cases l with
  | nil => exact absurd rfl h
  | cons p r =>
    unfold longestIdle
    split
    · exact ⟨_, rfl⟩
    · split
      · split_ifs <;> exact ⟨_, rfl⟩
      · exact ⟨_, rfl⟩

theorem longestIdle_mem {l : List (Nat × Ctx)} : ∀ {h : Nat}, longestIdle l = some h → ∃ c, (h, c) ∈ l := by
  induction l with
  | nil => intro h e; cases e
  | cons p r ih =>
    intro h e
    unfold longestIdle at e
    split at e
    · cases e; exact ⟨p.2, by simp⟩
    · rename_i k hk
      split at e
      · split_ifs at e
        · cases e; exact ⟨p.2, by simp⟩
        · cases e; obtain ⟨c, hc⟩ := ih hk; exact ⟨c, by simp [hc]⟩
      · cases e; exact ⟨p.2, by simp⟩

/-- Where a READY context of a die passes the test, one is chosen. -/
theorem longestReady_some {s : State} {die h : Nat} {c : Ctx} {sel : Nat × Ctx → Bool} (hm : (h, c) ∈ s.sch.ctxs) (hr : c.st = .ready)
    (hd : c.home = die) (hs : sel (h, c) = true) : (longestReady s die sel).isSome = true := by
  obtain ⟨k, hk⟩ := longestIdle_some (l := s.sch.ctxs.filter (fun p => p.2.st == .ready && p.2.home == die && sel p))
    (List.ne_nil_of_mem (List.mem_filter.2 ⟨hm, by simp [hr, hd, hs]⟩))
  simp [longestReady, hk]

theorem longestReady_mem {s : State} {die h : Nat} {sel : Nat × Ctx → Bool} (e : longestReady s die sel = some h) :
    ∃ c, (h, c) ∈ s.sch.ctxs ∧ c.st = .ready ∧ c.home = die ∧ sel (h, c) = true := by
  obtain ⟨c, hc⟩ := longestIdle_mem e
  rw [List.mem_filter] at hc
  simp only [Bool.and_eq_true, beq_iff_eq] at hc
  exact ⟨c, hc.1, hc.2.1.1, hc.2.1.2, hc.2.2⟩

/-- The deficit round-robin choice answers a function with a READY context wherever one has one, and changes deficits alone (R189). -/
theorem drrFunction_some {s : State} {die h : Nat} {c : Ctx} {sel : Nat × Ctx → Bool} (hm : (h, c) ∈ s.sch.ctxs) (hr : c.st = .ready)
    (hd : c.home = die) (hs : sel (h, c) = true) (hf : c.fn < 64) :
    ∃ f d, drrFunction s die sel = some (f, { s with sch := { s.sch with deficits := d } }) ∧
      (longestReady s die (fun p => sel p && p.2.fn == f)).isSome = true := by
  have hc : (longestReady s die (fun p => sel p && p.2.fn == c.fn)).isSome = true := longestReady_some hm hr hd (by simp [hs])
  unfold drrFunction
  dsimp only
  by_cases h0 : ((longestReady s die (fun p => sel p && p.2.fn == turnOf s die)).isSome && decide (0 < deficit s die (turnOf s die))) = true
  · rw [if_pos h0]
    exact ⟨_, _, rfl, (Bool.and_eq_true _ _ ▸ h0).1⟩
  · rw [if_neg h0]
    cases hh : (rangeFrom (turnOf s die + 1) 64).find? (fun i => (longestReady s die (fun p => sel p && p.2.fn == i % 64)).isSome) with
    | none =>
      rw [List.find?_eq_none] at hh
      have : turnOf s die + 1 + (c.fn + 64 - (turnOf s die + 1) % 64) % 64 ∈ rangeFrom (turnOf s die + 1) 64 :=
        List.mem_map.2 ⟨(c.fn + 64 - (turnOf s die + 1) % 64) % 64, by simp; omega, rfl⟩
      have e : (turnOf s die + 1 + (c.fn + 64 - (turnOf s die + 1) % 64) % 64) % 64 = c.fn := by omega
      have := hh _ this
      rw [e] at this
      exact absurd hc this
    | some i =>
      have hq := List.find?_some hh
      exact ⟨_, _, rfl, hq⟩

/-- Without fixed slots a context is chosen on a die wherever one is READY (R189). -/
theorem nextReady_some {s : State} {die h : Nat} {c : Ctx} (hp : s.flag R.SCHED_CTL.POLICY = false) (hm : (h, c) ∈ s.sch.ctxs)
    (hr : c.st = .ready) (hd : c.home = die) (hf : c.fn < 64) :
    ∃ k e d, nextReady s die = some (k, { s with sch := { s.sch with deficits := d } }) ∧ (k, e) ∈ s.sch.ctxs ∧ e.st = .ready ∧ e.home = die := by
  obtain ⟨f, d, h1, h2⟩ := drrFunction_some (sel := fun _ => true) hm hr hd rfl hf
  obtain ⟨k, hk⟩ := Option.isSome_iff_exists.1 h2
  obtain ⟨e, he1, he2, he3, -⟩ := longestReady_mem hk
  refine ⟨k, e, d, ?_, he1, he2, he3⟩
  unfold nextReady
  simp only [hp, Bool.not_false, if_true, h1, hk, Option.map_some]

end Sys2Proof.Machine
end

