-- ==== Sys2Proof/Laws/Spans.lean ====
section
/-! SUPPORT. What the operations on spans do, said once: the counters they leave, what they send to copies, and a row written to a page that
lies in T1. -/

namespace Sys2Proof.Machine

open Sys2Proof

/-- Things sent outside in a row change nothing else. -/
theorem emits_only {α : Type} (g : State → α → Out) (l : List α) : ∀ s : State, ∃ o, l.foldl (fun s a => s.emit (g s a)) s = { s with out := o } := by
  induction l with
  | nil => exact fun s => ⟨s.out, rfl⟩
  | cons a l ih =>
    intro s
    obtain ⟨o, h⟩ := ih (s.emit (g s a))
    exact ⟨o, h⟩

/-- Rows sent to copies change nothing but what is sent. -/
theorem sendRows_only (s : State) (n a b : Nat) (slots : List Nat) : ∃ o, sendRows s n a b slots = { s with out := o } := by
  unfold sendRows
  split
  · dsimp only
    generalize List.flatMap _ _ = rs
    have key : ∀ (rs : List (Nat × Nat)) (d : List Nat) (g : State → Nat × Nat → Nat → Out) (s : State),
        ∃ o, rs.foldl (fun s lr => d.foldl (fun s m => s.emit (g s lr m)) s) s = { s with out := o } := by
      intro rs d g
      induction rs with
      | nil => exact fun s => ⟨s.out, rfl⟩
      | cons x rs ih =>
        intro s
        obtain ⟨o, h⟩ := emits_only (fun s m => g s x m) d s
        obtain ⟨o', h'⟩ := ih { s with out := o }
        exact ⟨o', by rw [List.foldl_cons, h, h']⟩
    exact key rs _ (fun s lr m => .protRow m n lr.1 lr.2 _ _ (rowScalesAt s n lr.1 lr.2) (rowBytesAt s n lr.1 lr.2)) s
  · exact ⟨s.out, rfl⟩

/-- A row sent again to copies changes nothing but what is sent. -/
theorem resendRow_only (s : State) (n l r : Nat) (old : List PByte) : ∃ o, resendRow s n l r old = { s with out := o } := by
  unfold resendRow
  split
  · dsimp only
    split_ifs
    · exact emits_only (fun s m => .protRow m n l r _ _ (rowScalesAt s n l r) _) _ s
    · exact emits_only (fun s m => .protRow m n l r _ _ (rowScalesAt s n l r) _) _ s
    · exact ⟨s.out, rfl⟩
  · exact ⟨s.out, rfl⟩

theorem sendRows_pg (s : State) (n a b : Nat) (slots : List Nat) : (sendRows s n a b slots).pg = s.pg := by
  obtain ⟨o, h⟩ := sendRows_only s n a b slots; rw [h]

theorem sendRows_regs (s : State) (n a b : Nat) (slots : List Nat) : (sendRows s n a b slots).regs = s.regs := by
  obtain ⟨o, h⟩ := sendRows_only s n a b slots; rw [h]

theorem resendRow_pg (s : State) (n l r : Nat) (old : List PByte) : (resendRow s n l r old).pg = s.pg := by
  obtain ⟨o, h⟩ := resendRow_only s n l r old; rw [h]

theorem resendRow_regs (s : State) (n l r : Nat) (old : List PByte) : (resendRow s n l r old).regs = s.regs := by
  obtain ⟨o, h⟩ := resendRow_only s n l r old; rw [h]

@[simp] theorem span?_setSpan (s : State) (n : Nat) (x : Span) : (s.setSpan n x).span? n = some x := Tab.find?_ins_same _ _ _

@[simp] theorem span?_setCounters (s : State) (n : Nat) (x : Span) : (setCounters s n x).span? n = some x := Tab.find?_ins_same _ _ _

/-- HORIZON raised (R146). -/
theorem span?_commitTo (s : State) (n h : Nat) (x : Span) : (commitTo s n x h).span? n = some { x with horizon := h } := by
  unfold commitTo State.span?
  rw [sendRows_pg]
  exact Tab.find?_ins_same _ _ _

/-- A span on which a function may act is listed. -/
theorem spanFor_span {s : State} {f n : Nat} {x : Span} (h : spanFor s f n = .ok x) : s.span? n = some x := by
  unfold spanFor at h
  split at h
  · cases h
  · split_ifs at h
    cases h
    assumption

/-- A page that lies in T1 and does not migrate is ready to be written. -/
theorem pageForWrite_t1 {s : State} {n p : Nat} {x : Span} (hx : s.span? n = some x) (ht : (s.pte n p).st = .t1) (hm : migOf s n p = none) :
    pageForWrite s n p = .ok s := by
  simp [pageForWrite, promoteNow, hx, ht, hm]

theorem nbuWrite_pg (s : State) (fn ctx a : Nat) (bs : List PByte) : (nbuWrite s fn ctx a bs).1.pg = s.pg := by
  obtain ⟨m, p, u, h, -⟩ := nbuWrite_only s fn ctx a bs
  rw [h]

theorem pwrite_pg (s : State) (a : Nat) (bs : List PByte) : (pwrite s a bs).1.pg = s.pg := by
  obtain ⟨m, p, h⟩ := pwrite_only s a bs
  rw [h]

theorem fixPsn_spans (s : State) (n p : Nat) : (fixPsn s n p).pg.spans = s.pg.spans ∧ (fixPsn s n p).regs = s.regs ∧
    (∀ q, (((fixPsn s n p).pte n q).st, ((fixPsn s n p).pte n q).frame) = ((s.pte n q).st, (s.pte n q).frame)) := by
  unfold fixPsn
  dsimp only
  split_ifs with h
  · refine ⟨rfl, rfl, fun q => ?_⟩
    by_cases e : pageKey n q = pageKey n p
    · have : q = p := by unfold pageKey at e; omega
      subst this
      simp [State.pte, State.setPte]
    · simp [State.pte, State.setPte, Tab.get_put_ne e]
  · exact ⟨rfl, rfl, fun _ => rfl⟩

/-- A row placed in a page that lies in T1: it is written, and spans, registers, and where pages lie are as they were. -/
theorem placeRow_t1 {s : State} {n l r : Nat} {x : Span} (nbu : Option Nat) (mk : Pte → List PByte × Nat × Bool × Pte) (hx : s.span? n = some x)
    (ht : (s.pte n (x.rowAt l r).1).st = .t1) (hm : migOf s n (x.rowAt l r).1 = none)
    (hk : ∀ e, ((mk e).2.2.2).st = e.st ∧ ((mk e).2.2.2).frame = e.frame) :
    ∃ u psn sat, placeRow s n l r x nbu mk = .ok u psn sat ∧ u.pg.spans = s.pg.spans ∧ u.regs = s.regs ∧
      (∀ q, ((u.pte n q).st, (u.pte n q).frame) = ((s.pte n q).st, (s.pte n q).frame)) := by
  unfold placeRow
  simp only [pageForWrite_t1 hx ht hm]
  refine ⟨_, _, _, rfl, ?_⟩
  generalize hE : (mk (s.pte n (x.rowAt l r).1)).2.2.2 = e
  have he : e.st = (s.pte n (x.rowAt l r).1).st ∧ e.frame = (s.pte n (x.rowAt l r).1).frame := by rw [← hE]; exact hk _
  have fin : ∀ u : State, u.pg = (s.setPte n (x.rowAt l r).1 { e with written := NSet.add (r / x.interleave % x.rpp) e.written, accessed := true }).pg →
      u.regs = s.regs → (fixPsn u n (x.rowAt l r).1).pg.spans = s.pg.spans ∧ (fixPsn u n (x.rowAt l r).1).regs = s.regs ∧
      (∀ q, (((fixPsn u n (x.rowAt l r).1).pte n q).st, ((fixPsn u n (x.rowAt l r).1).pte n q).frame) = ((s.pte n q).st, (s.pte n q).frame)) := by
    intro u hu hr
    obtain ⟨a, b, c⟩ := fixPsn_spans u n (x.rowAt l r).1
    refine ⟨a.trans (by rw [hu]; rfl), b.trans hr, fun q => (c q).trans ?_⟩
    have : u.pte n q = (s.setPte n (x.rowAt l r).1 { e with written := NSet.add (r / x.interleave % x.rpp) e.written, accessed := true }).pte n q := by
      unfold State.pte; rw [hu]
    rw [this]
    by_cases e' : pageKey n q = pageKey n (x.rowAt l r).1
    · have : q = (x.rowAt l r).1 := by unfold pageKey at e'; omega
      subst this
      simp [State.pte, State.setPte]
      exact he
    · simp [State.pte, State.setPte, Tab.get_put_ne e']
  cases nbu with
  | some c => exact fin _ (nbuWrite_pg _ _ _ _ _) (by obtain ⟨m, p, u, h, -⟩ := nbuWrite_only _ _ _ _ _; rw [h]; rfl)
  | none => exact fin _ (by simp only [invalidate]; exact pwrite_pg _ _ _) (by simp only [invalidate]; obtain ⟨m, p, h⟩ := pwrite_only _ _ _; rw [h]; rfl)

/-- Where a page lies does not follow the counters. -/
theorem pte_setCounters (s : State) (n m q : Nat) (x : Span) : ((setCounters s n x).pte m q).st = (s.pte m q).st ∧
    ((setCounters s n x).pte m q).frame = (s.pte m q).frame := by
  have key : ∀ (l : List (Nat × Pte)) (k : Nat) (g : Nat × Pte → Nat × Pte), (∀ p, (g p).1 = p.1) → (∀ p, (g p).2.st = p.2.st) →
      (∀ p, (g p).2.frame = p.2.frame) → (Tab.get pte0 k (l.map g)).st = (Tab.get pte0 k l).st ∧
      (Tab.get pte0 k (l.map g)).frame = (Tab.get pte0 k l).frame := by
    intro l k g h1 h2 h3
    induction l with
    | nil => exact ⟨rfl, rfl⟩
    | cons p l ih =>
      unfold Tab.get at ih ⊢
      rw [List.map_cons]
      rw [show g p = ((g p).1, (g p).2) from rfl, show p = (p.1, p.2) from rfl, Tab.find?_cons, Tab.find?_cons, h1]
      by_cases e : k = p.1
      · simp [e, h2, h3]
      · simpa [e] using ih
  unfold State.pte setCounters
  refine key s.pg.ptes (pageKey m q) _ ?_ ?_ ?_ <;> intro p <;> split_ifs <;> rfl

/-- A row appended to a page that lies in T1: it retires with ST_OK or ST_POISON, APPENDED covers it, and pages lie where they lay (R146). -/
theorem kvAppendRow_t1 {s : State} {f n l r nbu : Nat} {x : Span} (es : List PElem) (commit : Bool) (hs : spanFor s f n = .ok x)
    (h1 : l < x.layerSlots) (h2 : r ≤ x.appended) (h3 : r < x.maxTokens) (ht : (s.pte n (x.rowAt l r).1).st = .t1)
    (hm : migOf s n (x.rowAt l r).1 = none) :
    ∃ t st sat, kvAppendRow s f n l r es commit nbu = .done t st sat ∧ (st = .ok ∨ st = .poison) ∧
      (t.span? n).map (·.appended) = some (max x.appended (r + 1)) ∧ t.regs = s.regs ∧
      (∀ q, ((t.pte n q).st, (t.pte n q).frame) = ((s.pte n q).st, (s.pte n q).frame)) := by
  have hx := spanFor_span hs
  obtain ⟨u, psn, sat, hw, u1, u2, u3⟩ := placeRow_t1 (l := l) (r := r) (some nbu) (fun e =>
    let e := if x.fixedScale || x.fmt = .bf16 || e.pk ≠ 0 then e else { e with pk := (rowScales x es).1, pv := (rowScales x es).2 }
    let w := putRow x (BitVec.ofNat 32 e.pk) (BitVec.ofNat 32 e.pv) es
    (w.1, w.2.1, w.2.2, e)) hx ht hm (by intro e; dsimp only; split_ifs <;> exact ⟨rfl, rfl⟩)
  have hu : u.span? n = some x := by unfold State.span? at hx ⊢; rw [u1]; exact hx
  have c0 : ∀ q, (((setCounters u n { x with appended := max x.appended (r + 1) }).pte n q).st,
      ((setCounters u n { x with appended := max x.appended (r + 1) }).pte n q).frame) = ((s.pte n q).st, (s.pte n q).frame) := fun q => by
    rw [← u3 q]
    exact Prod.ext (pte_setCounters _ _ _ _ _).1 (pte_setCounters _ _ _ _ _).2
  have c1 : (setCounters u n { x with appended := max x.appended (r + 1) }).regs = s.regs := u2
  have e : kvAppendRow s f n l r es commit nbu = .done (
      let t := setCounters u n { x with appended := max x.appended (r + 1) }
      let y := { x with appended := max x.appended (r + 1) }
      if commit && decide (y.horizon < r + 1) then commitTo t n y (r + 1) else if r < y.horizon then resendRow t n l r (oldRow s n l r x) else t)
      (if psn then .poison else .ok) sat := by
    unfold kvAppendRow
    rw [hs]
    dsimp only
    rw [if_neg (by omega)]
    unfold writeRow
    rw [hw]
    simp only [hu]
  refine ⟨_, _, _, e, by cases psn <;> simp, ?_, ?_, ?_⟩
  all_goals dsimp only
  · split_ifs
    · rw [span?_commitTo]; rfl
    · unfold State.span?; rw [resendRow_pg]; exact congrArg (Option.map _) (span?_setCounters _ _ _)
    · rw [span?_setCounters]; rfl
  · split_ifs
    · unfold commitTo
      rw [sendRows_regs]; exact c1
    · rw [resendRow_regs]; exact c1
    · exact c1
  · intro q
    split_ifs
    · rw [← c0 q]
      unfold commitTo State.pte
      rw [sendRows_pg]
      exact Prod.ext (pte_setCounters _ _ _ _ _).1 (pte_setCounters _ _ _ _ _).2
    · rw [← c0 q]
      unfold State.pte
      rw [resendRow_pg]
    · exact c0 q

end Sys2Proof.Machine
end

