-- ==== Sys2Proof/WellFormed.lean ====
section
/-! DEFINITION. The operands a command can carry: each inside the range the spec numbers it by. -/

namespace Sys2Proof

/-- A stream buffer of a tile (R64). -/
def bufferOk (n : Nat) : Bool := decide (n < 4)

/-- A compute die (R189). -/
def dieOk (n : Nat) : Bool := decide (n < 4)

/-- A meridian epoch (R313). -/
def epochOk (n : Nat) : Bool := decide (n < 65536)

/-- A flit of 256 bytes (R223). -/
def flitOk (b : List Byte) : Bool := b.length == 256

/-- A function: PF0 or one of 63 VFs (R199). -/
def fnOk (n : Nat) : Bool := decide (n < 64)

/-- A context handle (R172), or for BUNDLE_LOAD the pick of a handle. -/
def handleOk (n : Nat) : Bool := decide (n < 2 ^ 19)

/-- A transport header of 32 bytes (Table 13-2). -/
def headerOk (b : List Byte) : Bool := b.length == 32

/-- A hardware context number (R172). -/
def hwOk (n : Nat) : Bool := decide (n < 4096)

/-- A lane of a port (R221). -/
def laneOk (n : Nat) : Bool := decide (n < 4)

/-- An NBU of a stack (R108). -/
def nbuOk (n : Nat) : Bool := decide (n < 512)

/-- A node number (R242). -/
def nodeOk (n : Nat) : Bool := decide (n < 32768)

/-- A descriptor number (R206). -/
def numOk (n : Nat) : Bool := decide (n < 2 ^ 64)

/-- A bank pair of a stack (R108). -/
def pairOk (n : Nat) : Bool := decide (n < 512)

/-- A pseudo-channel, stack × 32 + n (R129). -/
def pcOk (n : Nat) : Bool := decide (n < 512)

/-- A fabric port (R13). -/
def portOk (n : Nat) : Bool := decide (n < 16)

/-- A queue number (R271). -/
def queueOk (n : Nat) : Bool := decide (n < 65536)

/-- A ring pair of a function (R204). -/
def ringOk (n : Nat) : Bool := decide (n < 64)

/-- A span number (R88). -/
def spanOk (n : Nat) : Bool := decide (n < 2 ^ 18)

/-- A register source: a function, or 64 for the management controller (R5). -/
def srcOk (n : Nat) : Bool := decide (n < 65)

/-- A Wensol stack (R13). -/
def stackOk (n : Nat) : Bool := decide (n < 16)

/-- A tile (R13). -/
def tileOk (n : Nat) : Bool := decide (n < 256)

/-- A fabric time in ns (R239). -/
def timeOk (n : Nat) : Bool := decide (n < 2 ^ 64)

/-- A virtual channel (R228). -/
def vcOk (n : Nat) : Bool := decide (n < 8)

/-- A well-formed command: every operand that names a unit, an item or a time lies in its range.
DESIGN CHOICE (unsafe): log entry 11. -/
def wellFormed (i : Instr) : Bool :=
  match i with
  | .ctxOpen fn ring num handle _ _ _ => fnOk fn && ringOk ring && numOk num && handleOk handle
  | .ctxClose fn ring num => fnOk fn && ringOk ring && numOk num
  | .ctxStep fn ring num _ => fnOk fn && ringOk ring && numOk num
  | .spanCreate fn ring num span _ => fnOk fn && ringOk ring && numOk num && spanOk span
  | .spanFree fn ring num => fnOk fn && ringOk ring && numOk num
  | .spanProtect fn ring num _ => fnOk fn && ringOk ring && numOk num
  | .kvWrite fn ring num _ => fnOk fn && ringOk ring && numOk num
  | .kvCommit fn ring num => fnOk fn && ringOk ring && numOk num
  | .kvRewind fn ring num => fnOk fn && ringOk ring && numOk num
  | .attnQuery fn ring num _ => fnOk fn && ringOk ring && numOk num
  | .programLoad fn ring num _ _ => fnOk fn && ringOk ring && numOk num
  | .bundleLoad fn ring num _ _ _ _ _ _ => fnOk fn && ringOk ring && numOk num
  | .copy fn ring num _ => fnOk fn && ringOk ring && numOk num
  | .syncOpAdd fn ring num => fnOk fn && ringOk ring && numOk num
  | .syncOpWait fn ring num => fnOk fn && ringOk ring && numOk num
  | .syncOpSet fn ring num => fnOk fn && ringOk ring && numOk num
  | .syncOpArm fn ring num => fnOk fn && ringOk ring && numOk num
  | .syncOpRead fn ring num => fnOk fn && ringOk ring && numOk num
  | .epCreate fn ring num _ => fnOk fn && ringOk ring && numOk num
  | .epDestroy fn ring num => fnOk fn && ringOk ring && numOk num
  | .epPostWrite fn ring num _ => fnOk fn && ringOk ring && numOk num
  | .epPostRead fn ring num => fnOk fn && ringOk ring && numOk num
  | .epPostWriteImm fn ring num _ => fnOk fn && ringOk ring && numOk num
  | .epPostFetchAdd fn ring num => fnOk fn && ringOk ring && numOk num
  | .epPostCompareSwap fn ring num => fnOk fn && ringOk ring && numOk num
  | .regionSet fn ring num => fnOk fn && ringOk ring && numOk num
  | .regionClear fn ring num => fnOk fn && ringOk ring && numOk num
  | .fence fn ring num => fnOk fn && ringOk ring && numOk num
  | .nop fn ring num => fnOk fn && ringOk ring && numOk num
  | .sqTail fn ring _ _ => fnOk fn && ringOk ring
  | .cqHead fn ring _ _ => fnOk fn && ringOk ring
  | .descriptorFetch fn ring _ => fnOk fn && ringOk ring
  | .heldRecordDrain fn ring => fnOk fn && ringOk ring
  | .ringEnable fn ring _ => fnOk fn && ringOk ring
  | .ringDisable fn ring _ => fnOk fn && ringOk ring
  | .resume fn ring => fnOk fn && ringOk ring
  | .winSync fn => fnOk fn
  | .coalTimeExpiry fn ring => fnOk fn && ringOk ring
  | .initiateFlr fn => fnOk fn
  | .resetDone fn => fnOk fn
  | .dlDown _ => true
  | .linkTrained _ _ _ => true
  | .hotReset => true
  | .d3hotToD0 fn => fnOk fn
  | .mvTile handle _ _ => handleOk handle
  | .mvBank handle _ _ => handleOk handle
  | .bankCmds handle _ _ => handleOk handle
  | .nbuFence handle => handleOk handle
  | .streamHint handle => handleOk handle
  | .tileCopy handle _ _ => handleOk handle
  | .gatherRow handle _ => handleOk handle
  | .norm handle _ _ => handleOk handle
  | .elemwiseAdd handle _ _ _ => handleOk handle
  | .elemwiseMul handle _ _ _ => handleOk handle
  | .elemwiseScale handle _ _ => handleOk handle
  | .siluGate handle _ _ _ => handleOk handle
  | .convert handle _ => handleOk handle
  | .sumParts handle _ => handleOk handle
  | .elemwiseBankScale handle _ _ => handleOk handle
  | .elemwiseBankAdd handle _ _ _ => handleOk handle
  | .elemwiseBankMul handle _ _ _ => handleOk handle
  | .route handle _ => handleOk handle
  | .attn handle _ _ => handleOk handle
  | .attnMerge handle => handleOk handle
  | .send handle _ _ _ _ _ => handleOk handle
  | .bulkCopyList handle _ => handleOk handle
  | .ring handle _ _ _ span _ _ _ _ _ _ _ _ _ _ _ _ _ _ _ _ _ epoch _ _ _ _ _ => handleOk handle && spanOk span && epochOk epoch
  | .kvAppend handle _ => handleOk handle
  | .hznCommit handle => handleOk handle
  | .hznRewind handle => handleOk handle
  | .hznAccept handle => handleOk handle
  | .collectiveSum handle _ => handleOk handle
  | .allSum handle _ => handleOk handle
  | .collectiveBroadcast handle _ => handleOk handle
  | .collectiveGather handle _ => handleOk handle
  | .syncAdd handle => handleOk handle
  | .syncWait handle => handleOk handle
  | .syncArm handle => handleOk handle
  | .syncSet handle => handleOk handle
  | .sampleFull handle _ => handleOk handle
  | .sampleLocal handle _ => handleOk handle
  | .sampleSelect handle _ => handleOk handle
  | .verify handle _ => handleOk handle
  | .stepNop handle => handleOk handle
  | .sequencerSelect die _ => dieOk die
  | .quantumExpiry handle => handleOk handle
  | .phaseIterationEnd handle => handleOk handle
  | .slotBoundary time => timeOk time
  | .slotGuard time => timeOk time
  | .unpark handle _ => handleOk handle
  | .unparkWaitExpiry handle time => handleOk handle && timeOk time
  | .contextAbortDone handle => handleOk handle
  | .syncWaitTimeout _ _ _ _ => true
  | .triggerFire _ _ => true
  | .streamFill tile buffer _ => tileOk tile && bufferOk buffer
  | .tableMiss tile fn _ _ => tileOk tile && fnOk fn
  | .expanderDecode tile buffer _ => tileOk tile && bufferOk buffer
  | .tileSelfCheck tile _ time => tileOk tile && timeOk time
  | .tileWinWrite src tile _ => srcOk src && tileOk tile
  | .tileStreamWrite src tile _ => srcOk src && tileOk tile
  | .tclkChange time => timeOk time
  | .attnSlice stack pair fn hw span _ _ _ _ _ _ _ _ _ _ _ _ _ _ _ _ _ _ => stackOk stack && pairOk pair && fnOk fn && hwOk hw && spanOk span
  | .nbuKvAppend stack pair fn hw span _ _ _ _ _ => stackOk stack && pairOk pair && fnOk fn && hwOk hw && spanOk span
  | .mvSlice stack pair fn hw _ _ _ _ _ _ _ _ => stackOk stack && pairOk pair && fnOk fn && hwOk hw
  | .nbuElemwise stack pair fn hw _ _ _ _ _ _ _ _ => stackOk stack && pairOk pair && fnOk fn && hwOk hw
  | .sumsq stack pair fn hw _ _ _ _ _ _ => stackOk stack && pairOk pair && fnOk fn && hwOk hw
  | .normApply stack pair fn hw _ _ _ _ _ _ _ _ => stackOk stack && pairOk pair && fnOk fn && hwOk hw
  | .localCopy stack pair fn hw _ _ _ _ _ => stackOk stack && pairOk pair && fnOk fn && hwOk hw
  | .fill stack pair fn hw _ _ _ _ => stackOk stack && pairOk pair && fnOk fn && hwOk hw
  | .scrub _ time => timeOk time
  | .selfCheck stack nbu _ time => stackOk stack && nbuOk nbu && timeOk time
  | .pseudoChannelRetire pc time => pcOk pc && timeOk time
  | .refreshDue stack pair _ => stackOk stack && pairOk pair
  | .governorWindow stack _ => stackOk stack
  | .nbuModeChange src stack _ => srcOk src && stackOk stack
  | .agePeriod time => timeOk time
  | .demote _ _ => true
  | .promote span _ _ => spanOk span
  | .migrationSwitch span _ _ _ => spanOk span
  | .frameWaitTimeout _ _ ring num => ringOk ring && numOk num
  | .lendingSetup _ node _ _ _ => nodeOk node
  | .recallNotice node _ time => nodeOk node && timeOk time
  | .recallDeadline _ node time => nodeOk node && timeOk time
  | .remoteTimeout _ _ time => timeOk time
  | .attnReq node _ _ _ _ => nodeOk node
  | .partialData _ _ _ => true
  | .ringPage handle header _ _ time => handleOk handle && headerOk header && timeOk time
  | .ringClose handle _ _ epoch time => handleOk handle && epochOk epoch && timeOk time
  | .ringAbortNotice handle => handleOk handle
  | .coll _ _ _ _ _ epoch _ _ _ time => epochOk epoch && timeOk time
  | .collTimeout _ _ epoch time => epochOk epoch && timeOk time
  | .collTimeoutMarker _ _ epoch _ _ => epochOk epoch
  | .dataFlit port vc _ _ flit time => portOk port && vcOk vc && flitOk flit && timeOk time
  | .idle port _ flit time => portOk port && flitOk flit && timeOk time
  | .replay port _ flit time => portOk port && flitOk flit && timeOk time
  | .sync port _ flit arrival => portOk port && flitOk flit && timeOk arrival
  | .hello port _ flit time => portOk port && flitOk flit && timeOk time
  | .linkWord port _ _ => portOk port
  | .replayWaitExpiry port => portOk port
  | .syncPeriod port time => portOk port && timeOk time
  | .helloRepeat port => portOk port
  | .holdoverExpiry time => timeOk time
  | .laneBurst port lane _ _ time => portOk port && laneOk lane && timeOk time
  | .retrainDone port lane time => portOk port && laneOk lane && timeOk time
  | .reformDone port time => portOk port && timeOk time
  | .lossOfSignal port time => portOk port && timeOk time
  | .noFlitTimeout port time => portOk port && timeOk time
  | .trainingAttempt port time => portOk port && timeOk time
  | .trainingDone port _ time => portOk port && timeOk time
  | .fabricReferenceLost => true
  | .write port vc header _ _ _ time => portOk port && vcOk vc && headerOk header && timeOk time
  | .handoffRecord port vc header _ _ time => portOk port && vcOk vc && headerOk header && timeOk time
  | .writeImm port vc header _ _ time => portOk port && vcOk vc && headerOk header && timeOk time
  | .read port vc header _ _ time => portOk port && vcOk vc && headerOk header && timeOk time
  | .atomic port vc header _ _ time => portOk port && vcOk vc && headerOk header && timeOk time
  | .atomicComb port vc header _ _ time => portOk port && vcOk vc && headerOk header && timeOk time
  | .absorb port vc header _ time => portOk port && vcOk vc && headerOk header && timeOk time
  | .partialPkt port vc header _ time => portOk port && vcOk vc && headerOk header && timeOk time
  | .flowReset port vc header _ time => portOk port && vcOk vc && headerOk header && timeOk time
  | .ack port vc header _ time => portOk port && vcOk vc && headerOk header && timeOk time
  | .readData port vc header _ time => portOk port && vcOk vc && headerOk header && timeOk time
  | .atomicData port vc header _ time => portOk port && vcOk vc && headerOk header && timeOk time
  | .retry port vc header _ time => portOk port && vcOk vc && headerOk header && timeOk time
  | .retryBackoffExpiry _ _ _ time => timeOk time
  | .noRoute port vc header _ time => portOk port && vcOk vc && headerOk header && timeOk time
  | .ackTimeout _ _ time => timeOk time
  | .missFetchDone _ _ time => timeOk time
  | .missFetchTimeout _ _ time => timeOk time
  | .bucketSend time => timeOk time
  | .injectionWindow time => timeOk time
  | .queueAppend queue handle _ _ _ _ _ _ node _ time => queueOk queue && handleOk handle && nodeOk node && timeOk time
  | .take queue time => queueOk queue && timeOk time
  | .mark queue => queueOk queue
  | .rewind queue time => queueOk queue && timeOk time
  | .release queue _ time => queueOk queue && timeOk time
  | .unmark queue => queueOk queue
  | .qmFlush src _ => srcOk src
  | .staleTimeout queue time => queueOk queue && timeOk time
  | .telemetrySample time => timeOk time
  | .qstatAvgRead src => srcOk src
  | .shqCfgWrite src queue _ => srcOk src && queueOk queue
  | .swap src port _ => srcOk src && portOk port
  | .gateCycleStart port time => portOk port && timeOk time
  | .mapStage epoch _ _ _ _ _ time => epochOk epoch && timeOk time
  | .mapApply time => timeOk time
  | .drainWindowClose time => timeOk time
  | .newerEpochHoldExpiry time => timeOk time
  | .rebuild _ node _ fn _ _ _ _ _ _ _ span _ => nodeOk node && fnOk fn && spanOk span
  | .errorLogEvent fn time => fnOk fn && timeOk time
  | .tlsConnect _ _ _ _ => true
  | .claim _ _ _ => true
  | .releaseClaim => true
  | .constellationCeremony _ _ _ _ => true
  | .releaseToken _ _ _ _ _ => true
  | .releaseRevoke _ => true
  | .firmwareInstall _ _ _ => true
  | .commitSvn => true
  | .clearRetirement _ _ => true
  | .watchdogExpiry => true
  | .getVersion src => srcOk src
  | .getCapabilities src => srcOk src
  | .negotiateAlgorithms src => srcOk src
  | .getDigests src => srcOk src
  | .getCertificate src _ => srcOk src
  | .challenge src _ _ => srcOk src
  | .getMeasurements src _ _ _ => srcOk src
  | .spdmUnsupportedRequest src => srcOk src
  | .moduleReset _ _ => true
  | .resetN _ _ _ => true
  | .portReset port time => portOk port && timeOk time
  | .powerOff => true
  | .perstN => true
  | .coldStart _ _ _ _ _ _ => true
  | .pwrEnFall => true
  | .inputFault _ => true
  | .leakN _ => true
  | .thermalTrip _ _ _ _ => true
  | .softThrottle _ _ time => timeOk time
  | .softThrottleStep _ _ time => timeOk time
  | .stackHot stack _ time => stackOk stack && timeOk time
  | .dramAbove85 stack _ time => stackOk stack && timeOk time
  | .ceilingEvent _ _ _ time => timeOk time
  | .ceilingRecoveryStep _ _ _ time => timeOk time
  | .levelWindow _ _ _ _ _ _ _ _ time => timeOk time
  | .levelTclkStep _ time => timeOk time
  | .pwrCeilWrite src _ => srcOk src
  | .lvlSetWrite src _ => srcOk src
  | .napEntry _ time => timeOk time
  | .deepReq src _ => srcOk src
  | .napExit time => timeOk time
  | .napExitDone _ _ time => timeOk time
  | .smbusStateRead => true
  | .smbusFruRead => true
  | .smbusPowerRead => true
  | .smbusWrite => true
  | .lockSet src _ _ => srcOk src
  | .w1cClear src _ _ _ => srcOk src
  | .rcRead src _ _ => srcOk src
  | .badAccess src _ _ _ _ => srcOk src
  | .registerWrite src _ _ _ => srcOk src
  | .retrainTimeout port lane time => portOk port && laneOk lane && timeOk time
  | .failureWindowExpiry time => timeOk time
  | .dramTemperatureFall stack _ time => stackOk stack && timeOk time
  | .perstNRelease => true
  | .thermTripRelease _ => true
  | .fabricReferenceReturn _ _ => true
  | .recall node _ => nodeOk node
  | .recallAcknowledgement node _ _ => nodeOk node
  | .lentPageRelease node _ => nodeOk node
  | .borrowerFlrNotice node fn => nodeOk node && fnOk fn
  | .restoreFromReplica _ fn node _ _ _ _ => fnOk fn && nodeOk node
  | .constellationMemberRemoval _ => true
  | .operatorConfigurationChange _ _ _ => true

end Sys2Proof
end

