-- ==== Sys2Proof/Tests/Slice0.lean ====
section
/-! SUPPORT. Tests of the model: an ill-formed command for each check of WellFormed, values worked out from the spec, and for every
statement of the certificates a state and operands that meet its hypotheses together. -/

set_option maxRecDepth 100000

namespace Sys2Proof.Tests

open Sys2Proof Sys2Proof.Machine

/-! Small states. -/

/-- The module after reset, with the link of the host up. -/
def base : State := { State.reset with host := { State.reset.host with linkDown := false } }

/-- A 64-byte descriptor: opcode and flags, TAG 7, then the bytes from byte 8 on. -/
def desc (op flags : Nat) (body : List Byte) : List Byte :=
  padTo 64 (leBytes 1 op ++ leBytes 1 flags ++ leBytes 2 0 ++ leBytes 4 7 ++ body)

/-- Ring 0 of PF0 holds one accepted descriptor, number 0. -/
def withDesc (d : List Byte) (s : State := base) : State := s.setRing 0 0 { ring0 with fetched := 1, tail := 1, acc := [⟨0, d, 0, false⟩] }

/-- Does the descriptor run from ring 0 of PF0, and hold `p` of its bytes? -/
def runs (s : State) (op : Nat) (p : List Byte → Bool) : Bool := s.pow.st == .on && (takeDesc s 0 0 0 op).any p

/-- A window over the first 16 MiB of host addresses for PF0, read and write. -/
def window (s : State) : State :=
  ((s.setFld R.WIN_BASE.VALID 1).setFld R.WIN_BASE.READ 1).setFld R.WIN_BASE.WRITE 1 |>.setFld R.WIN_LIMIT.LIMIT 4095

/-- Sparse bytes from an address on. -/
def cellsAt (a : Nat) (bs : List Byte) : List Host.Cell := (bs.zipIdx.filter (fun p => p.1 != 0#8)).map (fun p => (a + p.2, p.1))

/-- Host memory with bytes at an address. -/
def hostHas (a : Nat) (bs : List Byte) (s : State) : State := { s with host := { s.host with hostMem := cellsAt a bs } }

/-- Module memory with bytes at an address, after those it has. -/
def has (a : Nat) (bs : List Byte) (s : State) : State := { s with mm := { s.mm with mem := s.mm.mem ++ cellsAt a bs } }

/-- The scrub of T1 and T2 done. -/
def clean (s : State) : State := { s with mm := { s.mm with fresh1 := true, fresh2 := true } }

/-- A region of PF0's at the start of T1. -/
def region0 (s : State) : State := { s with mm := { s.mm with regions := [⟨t1Base, 65536, 0, .context, 5⟩] } }

/-- A fabric window on nodes 1 and 2, all addresses, all rights. -/
def fwin (s : State) : State :=
  ((((((s.setFld R.FWIN_CTL.VALID 1).setFld R.FWIN_CTL.READ 1).setFld R.FWIN_CTL.WRITE 1).setFld R.FWIN_CTL.ATOMIC 1).setFld R.FWIN_CTL.NODE_LO 1).setFld
    R.FWIN_NODE_HI.NODE_HI 2).setFld R.FWIN_LIMIT.LIMIT (2 ^ 36 - 1)

/-- A span of PF0: 16 tokens, one layer slot, one KV8 head of 64, with `appended` rows, `horizon` of them committed. -/
def span1 (horizon appended : Nat) : Span :=
  { fn := 0, st := .open, maxTokens := 16, layerSlots := 1, kvHeads := 1, dim := 64, fmt := .kv8, ilog := 0, fixedScale := false, pin := false,
    t2Attn := false, holed := false, prot := .none, base := kvBase, fixedPk := 0, fixedPv := 0, horizon := horizon, gen := 0, appended := appended,
    tableGen := 0, start := 0, ptBase := 0, handoff := 0, lastRewind := some 5, tables := [] }

/-- The module with span 3. -/
def withSpan (x : Span) (s : State := base) : State := s.setSpan 3 x

/-- Span 3 as PF0 may use it. -/
def spanOk (s : State) (p : Span → Bool) : Bool := match spanFor s 0 3 with | .ok x => p x | .error _ => false

/-- Page 0 of span 3 in T1, in frame 100, or lower down. -/
def withPage (st : PgSt) (s : State) : State :=
  s.setPte 3 0 ⟨0, 0, st, false, false, false, false, 0, 0, 100, 0, 1, 9, 0, [], false, false, 0, [], []⟩

/-- Has page `p` of span `n` a frame to be written in? -/
def pageOk (s : State) (n p : Nat) : Bool := match pageForWrite s n p with | .ok _ => true | _ => false

/-- A row whose page can be written is appended, whatever its elements are. -/
theorem kvAppendRow_done {s : State} {f n l r : Nat} {x : Span} (es : List PElem) (c : Bool) (m : Nat) (hs : spanFor s f n = .ok x)
    (hr : ¬ (x.layerSlots ≤ l ∨ x.appended < r ∨ x.maxTokens ≤ r)) (hp : pageOk s n (x.rowAt l r).1 = true) :
    ∃ t st sat, kvAppendRow s f n l r es c m = .done t st sat := by
  unfold pageOk at hp
  split at hp
  · rename_i t ht
    unfold kvAppendRow writeRow placeRow
    rw [hs]
    simp only [ht]
    rw [if_neg hr]
    exact ⟨_, _, _, rfl⟩
  · cases hp

/-! A step program of one phase, its context, and the op it stands at. -/

/-- A buffer of a kind. -/
def bufB (kind at_ size : Nat) : List Byte := leBytes 6 at_ ++ leBytes 1 kind ++ leBytes 1 0 ++ leBytes 4 size ++ leBytes 4 0

/-- An op: opcode, VAR, UNIT, SRC0, SRC1, DST, AUX, then its arguments. -/
def opB (code var unit_ s0 s1 d aux : Nat) (args : List Nat) : List Byte :=
  padTo 32 (leBytes 1 code ++ leBytes 1 (8 * var) ++ leBytes 2 unit_ ++ leBytes 2 s0 ++ leBytes 2 s1 ++ leBytes 2 d ++ leBytes 2 aux ++
    args.flatMap (leBytes 4))

/-- An image: a header of one phase of the ops, the buffers, one tile set of tile 0, and a group where one is given. -/
def image (bufs ops : List (List Byte)) (grp : List Byte := []) (next : Nat := 0xFFFF) : List Byte :=
  let h := leBytes 2 9 ++ leBytes 1 1 ++ leBytes 1 0 ++ leBytes 2 1 ++ leBytes 2 bufs.length ++ leBytes 4 ops.length ++ leBytes 2 1 ++
    leBytes 2 (if grp.isEmpty then 0 else 1) ++ leBytes 4 65536 ++ leBytes 10 0
  h ++ leBytes 2 (crc16 h) ++ (leBytes 4 0 ++ leBytes 2 ops.length ++ leBytes 2 1 ++ leBytes 2 next ++ leBytes 6 0) ++ bufs.flatten ++
    padTo 32 [1#8] ++ grp ++ ops.flatten

/-- A context of PF0 that runs program 0, its region at frame 16 of T1. -/
def ctx1 : Ctx :=
  { fn := 0, st := .running, hw := 0, resident := true, program := 0, phase := 0, op := 0, iter := 0, home := 0, retries := 0, seed := 0,
    stepCtr := 0, position := 0, token := 0, sat := 0, accepted := 0, lastStatus := .ok, faultPhase := 0xFFFF, faultOp := 0xFFFF, workKib := 0,
    t1Base := t1Base + 0x100000, binds := [⟨0, true, 0, 1, 0⟩], area := [], areaPsn := [], step := some ⟨.desc 0 0 0, .ok, false, false⟩,
    inflight := [], queued := [], queues := [], ring := 0, abort := false, closer := none, failed := false, badRecord := false, slot := 0,
    quantumOver := false, idleSince := 0, unparkSince := none, sequencer := some 0 }

/-- The module with a program at the start of T1 and context 5 running it. -/
def withProg (img : List Byte) (c : Ctx := ctx1) (s : State := base) : State :=
  let t := has t1Base img s
  { t with sch := { t.sch with programs := [(0, ⟨0, 9, t1Base, img.length, []⟩)], ctxs := [(5, c)] } }

/-- A program of one op over an image buffer, a 64 KiB region buffer and the other kinds an op may name. -/
def opS (op : List Byte) (s : State := base) (c : Ctx := ctx1) : State := withProg (image [bufB 1 0 65536] [op]) c s

def spanCtx : Ctx := { ctx1 with binds := [⟨3, true, 0, 1, 0⟩] }

/-- An image of one NOP. -/
def nopImg : List Byte := image [bufB 1 0 64] [opB 0x3F 0 0 0 0 0 0 []]

/-- The step op that context 5 stands at, and what `p` says of it. -/
def withOp (s : State) (p : OpCtx → Bool) : Bool :=
  match s.ctx? 5 with
  | some c => match progOf s c.program with
    | some (q, pr) => match opAt pr c c.op with
      | some o => p ⟨5, c, q, pr, o, c.op⟩
      | none => false
    | none => false
  | none => false

/-- May that op issue now? -/
def ready (s : State) (sel : Op → Bool) (k : OpCtx) : Bool :=
  inA0 s && sel k.o && k.c.st == .running && k.c.step.any (fun e => !e.stopped) && depOk k.c k.o && mayIssue s k.h k.c

/-- The op is issued, and `p` holds of it. -/
def issues (s : State) (sel : Op → Bool) (p : OpCtx → Bool) : Bool := s.pow.st == .on && withOp s (fun k => ready s sel k && p k)

/-- What `issues` says: the op meets `Issues`. -/
theorem issues_spec {s : State} {sel : Op → Bool} {p : OpCtx → Bool} (h : issues s sel p = true) :
    ∃ k, s.pow.st = .on ∧ Issues s sel k ∧ p k = true := by
  unfold issues withOp at h
  simp only [Bool.and_eq_true, beq_iff_eq] at h
  obtain ⟨on, h⟩ := h
  split at h
  · rename_i c hc
    split at h
    · rename_i q pr hq
      split at h
      · rename_i o ho
        simp only [Bool.and_eq_true, ready, beq_iff_eq] at h
        obtain ⟨⟨⟨⟨⟨⟨a, b⟩, d⟩, e⟩, f⟩, g⟩, x⟩ := h
        refine ⟨_, on, ⟨a, hc, rfl, hq, ho, b, d, ?_, f, g⟩, x⟩
        cases hs : c.step with
        | none => rw [hs] at e; cases e
        | some e' =>
          rw [hs] at e
          simp only [Option.any_some, Bool.not_eq_true'] at e
          exact ⟨e', rfl, e⟩
      · cases h
    · cases h
  · cases h


/-! Rings and contexts. -/

def ring1 : State := (base.setFld R.HI_RING_CTL.ENABLE 1)

/-- DoorbellsPost: a doorbell moves forward by the whole ring of 16. -/
theorem wit_DoorbellsPost :
    (ring1.pow.st = .on ∧ 16 < 2 ^ 32 ∧ ring1.flag R.HI_RING_CTL.ENABLE 0 0 = true ∧ (ring1.fnHost 0).resetting = none ∧
      (16 + 2 ^ 32 - (ring1.ring 0 0).tail) % 2 ^ 32 < 2 ^ 31 ∧
      (16 + 2 ^ 32 - (ring1.ring 0 0).fetched) % 2 ^ 32 ≤ 2 ^ ring1.fld R.HI_SQ_BASE.SQ_LOG2 0 0) ∧
    ((0 + 2 ^ 32 - (ring1.ring 0 0).head) % 2 ^ 32 < 2 ^ 31 ∧
      ((ring1.ring 0 0).produced + 2 ^ 32 - 0) % 2 ^ 32 ≤ 2 ^ ring1.fld R.HI_CQ_BASE.CQ_LOG2 0 0) ∧
    2 ^ ring1.fld R.HI_SQ_BASE.SQ_LOG2 0 0 < (17 + 2 ^ 32 - (ring1.ring 0 0).fetched) % 2 ^ 32 ∧
    (base.pow.st = .on ∧ base.flag R.HI_RING_CTL.ENABLE 0 0 = false) := by decide

def fetchS : State := hostHas 0 (desc 0x3F 0 []) (window (ring1.setRing 0 0 { ring0 with tail := 1 }))

/-- RingsRun: a descriptor waits in host memory; rings, vectors, fences and NOPs at hand. -/
theorem wit_RingsRun :
    (fetchS.pow.st = .on ∧ mayFetch fetchS 0 0 = true ∧ (hostRead fetchS 0 (fetchS.fld R.HI_SQ_BASE.ADDR 0 0 * 4096 +
      (fetchS.ring 0 0).fetched % 2 ^ fetchS.fld R.HI_SQ_BASE.SQ_LOG2 0 0 * 64) 64).any descKnown = true) ∧
    (bits 1 11 1 < vectorsOf base 0 ∧ 63 < base.fld R.HI_FN_LIMIT.RINGS_MAX 0 ∧ base.flag R.HI_RING_CTL.ENABLE 0 63 = false) ∧
    (let s := (base.setFld R.HI_RING_CTL.COAL_TIME 1023).setRing 0 0 { ring0 with unsig := 1 }
     s.fld R.HI_RING_CTL.COAL_TIME 0 0 ≠ 0 ∧ (s.ring 0 0).unsig ≠ 0) ∧
    runs (withDesc (desc 0x3F 0 [])) 0x3F (fun b => zeroAt b 8 56) = true ∧
    runs (withDesc (desc 0x3E 0 [1#8])) 0x3E (fun b => fieldAt b 8 1 == 1 && zeroAt b 9 55) = true ∧
    runs (withDesc (desc 0x3E 0 [])) 0x3E (fun b => fieldAt b 8 1 == 0 && zeroAt b 9 55) = true := by decide

def loadS : State := withDesc (desc 0x20 0 (leBytes 8 0 ++ leBytes 4 nopImg.length)) (hostHas 0 nopImg (window (clean base)))

/-- ContextsOpenRunClose: a valid image to load, by whatever means its region is made, and on frame 100, the last the ceiling allows. -/
theorem wit_ContextsOpenRunClose_load : runs loadS 0x20 (fun d => zeroAt d 20 44 && (hostRead loadS 0 (fieldAt d 8 8) (fieldAt d 16 4)).any (fun img =>
    !hostPsn (withTlp [(2 ^ 20, 64)] loadS) (fieldAt d 8 8) (fieldAt d 16 4) && !img.isEmpty &&
    (validProg img).any (fun p => !(fnPrograms loadS 0).any (fun q => q.2.id == p.hdr.id) && decide (loadS.sch.programs.length < 256) &&
      decide (combReserved loadS + ((memberGroups loadS p).map (·.1.depth)).foldl (· + ·) 0 ≤ 2048) &&
      decide (fnT1 loadS 0 + ceilDiv img.length 65536 ≤ loadS.fld R.FN_T1_CEIL 0) && framesFree loadS 100 (ceilDiv img.length 65536) &&
      (makeRegion (withTlp [(2 ^ 20, 64)] loadS) 0 img.length .image (Tab.freeFrom 0 loadS.sch.programs) 100).isSome))) = true := by decide

def openS : State := withDesc (desc 0x01 0 (leBytes 2 9)) (withProg nopImg ctx1 (window (clean base)))

/-- What CTX_OPEN of `openS` gives its context. -/
def openNew (d : List Byte) (slot : Nat) (p : Prog) (bs : List Binding) (pa : List Byte) : OpenReq :=
  ⟨slot, p, fieldAt d 10 2, fieldAt d 16 8, fieldAt d 24 4, fieldAt d 28 4, bs, padTo 1536 pa,
    areaLost (withTlp [] openS) (fieldAt d 48 8) (fieldAt d 40 2)⟩

/-- A context to open on a loaded program, on frame 100. -/
theorem wit_ContextsOpenRunClose_open : runs openS 0x01 (fun d =>
    ((fnPrograms openS 0).find? (fun q => q.2.id == fieldAt d 8 2)).any (fun x => (progOf openS x.1).any (fun y => y.1 == x.2 &&
      decide (y.2.hdr.workKib ≤ fieldAt d 10 2) && decide (fieldAt d 10 2 ≤ 8192 - 256 * y.2.hdr.winSize) && (recvBufs y.2).isEmpty &&
      decide (fnT1 openS 0 + ceilDiv y.2.hdr.ctxBytes 65536 ≤ openS.fld R.FN_T1_CEIL 0) &&
      framesFree openS 100 (ceilDiv y.2.hdr.ctxBytes 65536) &&
      (hostRead openS 0 (fieldAt d 32 8) (16 * fieldAt d 12 1)).any (fun bb => (parseBindings bb (fieldAt d 12 1)).any (fun bs =>
        !foreignBinding openS 0 bs && (hostRead openS 0 (fieldAt d 48 8) (fieldAt d 40 2)).any (fun pa =>
          (makeCtx (withTlp [] openS) 0 0 266239 100 [] (openNew d x.1 y.2 bs pa)).isSome))))) &&
    decide (fieldAt d 12 1 ≤ 8) && decide (fieldAt d 40 2 ≤ 1536) && zeroAt d 13 3 && zeroAt d 42 6 && zeroAt d 56 8 && fieldAt d 10 2 % 64 == 0 &&
    !hostPsn (withTlp [] openS) (fieldAt d 32 8) (16 * fieldAt d 12 1) &&
    (pickFree openS.sch.ctxs 0 266240 266239).isSome && (freeSlot openS).isSome &&
    decide (residentOf openS 0 + parkedOf openS 0 < openS.fld R.FN_CTX_HW_CEIL 0 + openS.fld R.FN_CTX_PARK_CEIL 0)) = true := by decide

def stepS (op : Nat) : State := withDesc (desc op 0 (leBytes 4 5)) (withProg nopImg { ctx1 with st := .idle, step := none } base)

/-- A context to close, idle with nothing waiting, and one to step. -/
theorem wit_ContextsOpenRunClose_close_step :
    (runs (stepS 0x02) 0x02 (fun d => decide (fieldAt d 8 4 < 2 ^ 19) && fieldAt d 12 1 == 0 && zeroAt d 13 51 &&
      ((stepS 0x02).ctx? (fieldAt d 8 4)).any (fun c => c.fn == 0 && c.st != .aborting && c.step.isNone && c.queued.isEmpty) &&
      (stepS 0x02).tl.streams.all (fun x => x.2.claim.map (·.1) != some (fieldAt d 8 4)) &&
      (Tab.find? (fieldAt d 8 4) (stepS 0x02).attn.rings).isNone &&
      (findDesc (stepS 0x02) 0 0 0).any (fun a => a.bytes == d)) = true) ∧
    (runs (stepS 0x03) 0x03 (fun d => decide (fieldAt d 8 4 < 2 ^ 19) && decide (fieldAt d 14 1 ≤ 1) && zeroAt d 15 1 && zeroAt d 20 44 &&
      (findDesc (stepS 0x03) 0 0 0).any (fun a => (earlierSteps (stepS 0x03) 0 (fieldAt d 8 4) a.order).isEmpty) &&
      ((stepS 0x03).ctx? (fieldAt d 8 4)).any (fun c => c.fn == 0 && c.st == .idle && c.resident && c.queued.isEmpty && !c.failed &&
        (progOf (stepS 0x03) c.program).any (fun y => fieldAt d 12 2 == 0xFFFF || decide (fieldAt d 12 2 < y.2.hdr.phases)))) = true) := by decide

def parkedS : State := withProg nopImg { ctx1 with st := .parked, resident := false, step := none, queued := [⟨.desc 0 0 0, 0, none⟩], unparkSince := some 0 } base

/-- A parked context to bring back, or whose wait has run out; and one that has aborted. -/
theorem wit_ContextsOpenRunClose_unpark :
    (parkedS.ctx? 5).any (fun c => c.st == .parked && !c.queued.isEmpty && !c.badRecord) = true ∧
    (makeResident (parkedS.updCtx 5 (fun c => { c with judged := true })) 5).isSome = true ∧
    ((parkedS.ctx? 5).any (fun c => !parkedS.flag R.LVL_STAT.ADMIT_HELD && decide (residentOf parkedS c.fn < parkedS.fld R.FN_CTX_HW_CEIL c.fn) &&
      (freeHw parkedS).isSome && (progOf parkedS c.program).any (fun y => (progTiles y.2).all (fun t =>
        !tileRetired parkedS t && (findSlice parkedS t (c.workKib * 1024)).isSome))) = true) ∧
    (let t := 10 ^ 12
     (parkedS.ctx? 5).any (fun c => c.st == .parked && !c.queued.isEmpty && c.unparkSince.any (fun since =>
       decide (since + (atTime parkedS t).fld R.SCHED_GUARD.UNPARK_WAIT * 1000 ≤ (atTime parkedS t).now))) = true) ∧
    ((withProg nopImg { ctx1 with st := .aborting, closer := some (.desc 0 0 0) } base).ctx? 5).any (fun c =>
      c.st == .aborting && c.closer == some (.desc 0 0 0)) = true := by decide

/-! Spans. -/

/-- SpansFromTheHost: a span to create and one to free. -/
theorem wit_SpansFromTheHost_create :
    (let s := withDesc (desc 0x08 0 (leBytes 4 16 ++ leBytes 2 1 ++ leBytes 1 1))
     runs s 0x08 (fun d => (parseSpan 0 d).any (fun x => !x.pin && (pickFree s.pg.spans 0 262144 0).isSome &&
       (findExtent s (x.pages * 65536) kvBase).isSome))) = true ∧
    (let s := withDesc (desc 0x09 0 (leBytes 4 3)) (withSpan (span1 0 0))
     runs s 0x09 (fun d => decide (fieldAt d 8 4 < 2 ^ 18) && zeroAt d 12 52 && (s.span? (fieldAt d 8 4)).any (fun x => x.st != .freeing && x.fn == 0))) = true := by
  decide

/-- A mirror to set, at the highest node. -/
theorem wit_SpansFromTheHost_protect :
    (let s := withDesc (desc 0x0A 0 (leBytes 4 3 ++ leBytes 2 1 ++ leBytes 2 1 ++ leBytes 2 32767)) (withSpan (span1 0 0))
     runs s 0x0A (fun d => fieldAt d 8 4 == 3 && fieldAt d 12 1 == 1 && zeroAt d 13 1 && zeroAt d 34 30 && fieldAt d 14 2 == 1 &&
       (List.range 9).all (fun i => i == 0 || fieldAt d (16 + 2 * i) 2 == 0) && decide (fieldAt d 16 2 < 32768) &&
       spanOk s (fun x => x.prot == .none))) = true := by decide

/-- An archive record to lay back. -/
theorem wit_SpansFromTheHost_restore :
    let s := withDesc (desc 0x10 0 (leBytes 4 3 ++ leBytes 2 511 ++ leBytes 1 2 ++ leBytes 9 0 ++ leBytes 8 0 ++ leBytes 8 4096)) (window (withSpan (span1 2 2)))
    runs s 0x10 (fun d => fieldAt d 8 4 == 3 && decide (fieldAt d 12 2 < 2 ^ 9) && fieldAt d 14 1 == 2 && zeroAt d 15 1 && zeroAt d 40 24 &&
      fieldAt d 16 4 == 0 && fieldAt d 20 4 == 0 && spanOk s (fun _ => true) && (hostReadP (withTlp [(64, 64)] s) 0 (fieldAt d 24 8) (fieldAt d 32 8)).isSome) = true := by
  decide

/-- No rows to write at the horizon, then one to commit and one to rewind, up to the rows appended. -/
theorem wit_SpansFromTheHost_rows :
    (let s := withDesc (desc 0x10 0 (leBytes 4 3 ++ leBytes 2 0 ++ leBytes 2 0 ++ leBytes 4 2 ++ leBytes 4 3 ++ leBytes 8 0 ++ leBytes 8 512))
       (window (withSpan (span1 2 2)))
     runs s 0x10 (fun d => fieldAt d 8 4 == 3 && fieldAt d 12 2 == 0 && fieldAt d 14 1 == 0 && zeroAt d 15 1 && zeroAt d 40 24 &&
       spanOk s (fun x => decide (0 < x.layerSlots) && decide (fieldAt d 16 4 ≤ fieldAt d 20 4) && decide (fieldAt d 20 4 ≤ x.maxTokens) &&
         fieldAt d 32 8 == (fieldAt d 20 4 - fieldAt d 16 4) * (x.kvHeads * 8 * x.dim) && x.appended == x.horizon &&
         decide (fieldAt d 16 4 ≤ x.horizon) && (hostReadP (withTlp [] s) 0 (fieldAt d 24 8) (fieldAt d 32 8)).isSome))) = true ∧
    (let s (op : Nat) := withDesc (desc op 0 (leBytes 4 3 ++ leBytes 4 4)) (withSpan (span1 2 4))
     runs (s 0x11) 0x11 (fun d => fieldAt d 8 4 == 3 && decide (fieldAt d 12 4 < 2 ^ 23) && zeroAt d 16 48 &&
       spanOk (s 0x11) (fun x => decide (x.horizon < fieldAt d 12 4) && decide (fieldAt d 12 4 ≤ x.appended))) = true ∧
     runs (s 0x12) 0x12 (fun d => fieldAt d 8 4 == 3 && decide (fieldAt d 12 4 < 2 ^ 23) && zeroAt d 16 48 &&
       spanOk (s 0x12) (fun x => decide (x.horizon ≤ fieldAt d 12 4) && decide (fieldAt d 12 4 ≤ x.appended))) = true) := by decide

/-- The span in binding 0 of context 5, whose position is 0. -/
def bound (x : Span) : State := (withSpan x).setFld R.FN_TRIG_CEIL 4

/-- SpansFromPrograms: a row that belongs to another member. -/
theorem wit_SpansFromPrograms_skip :
    let s := opS (opB 0x14 0 0 0 0 0 0 []) (withSpan (span1 0 0)) { ctx1 with binds := [⟨3, true, 7, 1, 0⟩] }
    issues s (fun o => o.opcode == 0x14) (fun k => (k.binding k.o.aux).any (fun b => spanOk (errsMet k noErrs (issued s k)) (fun _ =>
      decide ((k.c.position + bits k.o.arg0 12 9) % 2 ^ 32 < b.posBase)))) = true := by decide

/-- A row that the context appends (see `kvAppendRow_done`), its page in T1 where it is. -/
theorem wit_SpansFromPrograms_append :
    let s := opS (opB 0x14 0 0 0 0 0 0 []) (withPage .t1 (withSpan (span1 0 0))) spanCtx
    issues s (fun o => o.opcode == 0x14) (fun k => (k.binding k.o.aux).any (fun b => let v := errsMet k noErrs (issued s k)
      spanOk s (fun _ => true) && spanOk v (fun x =>
      b.posBase == 0 && b.posStride == 1 && (operand v k k.o.src0 k.anyTile 0 (x.kvHeads * 8 * x.dim) false).any (fun loc =>
        let r := locRead v k.h loc (x.kvHeads * 8 * x.dim)
        let pg := (x.rowAt k.layer 0).1
        let w := (decodeStored r.2 k.h 3 pg []).1
        !anyPsn r.1 && (s.pte 3 pg).st == .t1 && (migOf s 3 pg).isNone && !pageDrains s 3 pg && !pageDrains w 3 pg &&
          spanOk w (fun y => decide (k.layer < y.layerSlots) && decide (0 < y.maxTokens) && pageOk w 3 pg))))) = true := by
  decide

/-- Horizons to commit, to rewind, and to accept. -/
theorem wit_SpansFromPrograms_horizon :
    (let s := opS (opB 0x15 0 0 0 0 0 0 [1]) (withSpan (span1 0 1)) spanCtx
     issues s (fun o => o.opcode == 0x15 && o.var == 0) (fun k => (maskBinds k k.o.arg0).any (fun bs =>
       bs.all (fun b => b.span == 3 && rowsBelowPos (k.c.position + 1 + k.o.arg1) b 16 == 1) && bs.length == 1 && spanOk s (fun x => x.horizon == 0 && x.appended == 1))) = true) ∧
    (let s := opS (opB 0x15 1 0 0 0 0 0 [1]) (withSpan (span1 0 1)) spanCtx
     issues s (fun o => o.opcode == 0x15 && o.var == 1) (fun k => (maskBinds k k.o.arg0).any (fun bs =>
       bs.all (fun b => b.span == 3 && rowsBelowPos (k.c.position + 1 + k.o.arg1) b 16 == 1) && bs.length == 1 && spanOk s (fun x => x.horizon == 0 && x.appended == 1))) = true) ∧
    (let s := has (t1Base + 0x100000) [14#8, 0#8, 15#8] (opS (opB 0x15 2 0 0 0 0 0 [1]) (withSpan (span1 0 1)) spanCtx)
     issues s (fun o => o.opcode == 0x15 && o.var == 2) (fun k => (maskBinds k k.o.arg0).isSome &&
       (operand (issued s k) k k.o.src0 k.anyTile 0 4 false).any (fun loc =>
         let r := locRead (issued s k) k.h loc 4
         !anyPsn r.1 && fieldAt (rawBytes r.1) 0 2 == 14 && fieldAt (rawBytes r.1) 2 2 == 15)) = true) := by decide

/-! Counters. -/

/-- PF0 has four counters from number 8, the first at a value, and may arm four triggers. -/
def cnts (v : Nat) (s : State := base) : State :=
  let s := ((s.setFld R.SYNC_FN_COUNT.SYNC_COUNT 4).setFld R.SYNC_FN_BASE.SYNC_BASE 8).setFld R.FN_TRIG_CEIL 4
  { s with sch := { s.sch with counters := Tab.put 0 8 v s.sch.counters } }

/-- A SYNC_OP on counter 8. -/
def syncS (kind v : Nat) (s : State) : State := withDesc (desc 0x30 0 (leBytes 1 kind ++ leBytes 3 0 ++ leBytes 4 0 ++ leBytes 8 v)) s

/-- CountersFromTheHost: adds up to and past 2^64 − 1. -/
theorem wit_CountersFromTheHost_add :
    (let s := syncS 0 (2 ^ 64 - 3) (cnts 2)
     s.pow.st = .on ∧ (takeSync s 0 0 0 0).any (fun d => syncFieldsOk d 0 && fnCounter s 0 (fieldAt d 12 4) == some 8 &&
       decide (counterVal s 8 + fieldAt d 16 8 < 2 ^ 64)) = true) ∧
    (let s := syncS 0 (2 ^ 64 - 3) (cnts 3)
     s.pow.st = .on ∧ (takeSync s 0 0 0 0).any (fun d => syncFieldsOk d 0 && fnCounter s 0 (fieldAt d 12 4) == some 8 &&
       decide (2 ^ 64 ≤ counterVal s 8 + fieldAt d 16 8)) = true) := by decide

/-- Waits for a value reached, and for one more. -/
theorem wit_CountersFromTheHost_wait :
    (let s := syncS 1 5 (cnts 5)
     (takeSync s 0 0 0 1).any (fun d => syncFieldsOk d 1 && fnCounter s 0 (fieldAt d 12 4) == some 8 &&
       decide (fieldAt d 16 8 ≤ counterVal s 8)) = true) ∧
    (let s := syncS 1 6 (cnts 5)
     (takeSync s 0 0 0 1).any (fun d => syncFieldsOk d 1 && fnCounter s 0 (fieldAt d 12 4) == some 8 &&
       decide (counterVal s 8 < fieldAt d 16 8)) = true) := by decide

/-- A counter that waits for nothing, and one that does. -/
theorem wit_CountersFromTheHost_set :
    (let s := syncS 2 (2 ^ 64 - 1) (cnts 5)
     (takeSync s 0 0 0 2).any (fun d => syncFieldsOk d 2 && fnCounter s 0 (fieldAt d 12 4) == some 8 && !counterBusy s 8) = true) ∧
    (let s := syncS 2 6 (cnts 5)
     let s := { s with sch := { s.sch with waiters := [⟨.ctx 5, 8, 9, 0⟩] } }
     (takeSync s 0 0 0 2).any (fun d => syncFieldsOk d 2 && fnCounter s 0 (fieldAt d 12 4) == some 8 && counterBusy s 8) = true) := by decide

/-- An add to arm; a counter to read, and the first that the function does not have. -/
theorem wit_CountersFromTheHost_arm_read :
    (let s := withDesc (desc 0x30 0 (leBytes 1 3 ++ leBytes 1 0 ++ leBytes 2 0 ++ leBytes 4 0 ++ leBytes 8 1 ++ leBytes 8 0 ++
        (leBytes 1 0x20 ++ leBytes 9 0 ++ leBytes 2 0xFFFF ++ leBytes 4 3 ++ leBytes 4 1))) (cnts 0)
     (takeSync s 0 0 0 3).any (fun d => syncFieldsOk d 3 && fnCounter s 0 (fieldAt d 12 4) == some 8 &&
       bodyFormOk s 0 (fieldAt d 9 1) ((d.drop 32).take 32) (postBodyOk ((d.drop 32).take 32)) &&
       decide (armedOf s 0 < s.fld R.FN_TRIG_CEIL 0) && decide (armedOn s (8 / 65536) < 32768)) = true) ∧
    (let s := syncS 4 0 (cnts 5)
     (takeSync s 0 0 0 4).any (fun d => syncFieldsOk d 4 && fnCounter s 0 (fieldAt d 12 4) == some 8) = true) ∧
    (let s := withDesc (desc 0x30 0 (leBytes 1 4 ++ leBytes 3 0 ++ leBytes 4 4)) (cnts 5)
     (takeSync s 0 0 0 4).any (fun d => syncFieldsOk d 4 && decide (s.fld R.SYNC_FN_COUNT.SYNC_COUNT 0 ≤ fieldAt d 12 4)) = true) := by decide

/-- CountersFromPrograms: an add here; waits for a value reached, and for one more; a set. -/
theorem wit_CountersFromPrograms_ops :
    issues (opS (opB 0x20 0 0 0 0 0 0xFFFF [0, 1]) (cnts 5)) (fun o => o.opcode == 0x20) (fun k => let s := issued (opS (opB 0x20 0 0 0 0 0 0xFFFF [0, 1]) (cnts 5)) k
      !workOf s k.h k.idx && fnCounter s k.c.fn k.o.arg0 == some 8 && k.o.aux == 0xFFFF) = true ∧
    (let s := opS (opB 0x21 0 0 0 0 0 0 [0, 5]) (cnts 5)
     issues s (fun o => o.opcode == 0x21) (fun k => !s.sch.waiters.any (fun w => w.who == .ctx k.h) &&
       fnCounter (issued s k) k.c.fn k.o.arg0 == some 8 && decide (k.o.arg1 + k.o.arg2 * 2 ^ 32 ≤ counterVal s 8)) = true) ∧
    (let s := opS (opB 0x21 0 0 0 0 0 0 [0, 6]) (cnts 5)
     issues s (fun o => o.opcode == 0x21) (fun k => !s.sch.waiters.any (fun w => w.who == .ctx k.h) &&
       fnCounter (issued s k) k.c.fn k.o.arg0 == some 8 && decide (counterVal s 8 < k.o.arg1 + k.o.arg2 * 2 ^ 32)) = true) ∧
    (let s := opS (opB 0x23 0 0 0 0 0 0 [3, 6]) (cnts 5)
     issues s (fun o => o.opcode == 0x23) (fun k => fnCounter (issued s k) k.c.fn k.o.arg0 == some 11) = true) := by decide

/-- An add at node 2, which a window admits. -/
theorem wit_CountersFromPrograms_remote :
    let s := opS (opB 0x20 0 0 0 0 0 2 [0, 1]) (fwin (cnts 5))
    issues s (fun o => o.opcode == 0x20) (fun k => !workOf (issued s k) k.h k.idx && fnCounter (issued s k) k.c.fn k.o.arg0 == some 8 &&
      k.o.aux != 0xFFFF && fabricCheck (issued s k) k.c.fn (k.o.aux % 2 ^ 15) (counterAddr 8) 8 .atomic == .ok) = true := by decide

/-- A body of zeros in the context's region to arm with. -/
theorem wit_CountersFromPrograms_arm :
    let s := opS (opB 0x22 1 0 0 0 0 0 [0, 6]) (clean (cnts 5))
    issues s (fun o => o.opcode == 0x22) (fun k => fnCounter (issued s k) k.c.fn k.o.arg0 == some 8 &&
      (operand (issued s k) k k.o.src0 k.anyTile 0 32 false).any (fun l => !anyPsn (locRead (issued s k) k.h l 32).1)) = true := by decide

/-- A wait that times out, one whose value came at the same time, and triggers of each kind whose threshold is just met. -/
theorem wit_CountersFromPrograms_fire :
    (let s (v : Nat) : State := { cnts v with sch := { (cnts v).sch with waiters := [⟨.ctx 5, 8, 6, 100⟩] } }
     ((s 5).sch.waiters.find? (fun x => x.who == .ctx 5 && x.timeout != 0)).any (fun w => decide (counterVal (s 5) w.counter < w.threshold)) = true ∧
     ((s 6).sch.waiters.find? (fun x => x.who == .ctx 5 && x.timeout != 0)).any (fun w => decide (w.threshold ≤ counterVal (s 6) w.counter)) = true) ∧
    (let g : Trigger := ⟨0, none, 8, 5, 0, padTo 32 (leBytes 1 0x20 ++ leBytes 9 0 ++ leBytes 2 0xFFFF ++ leBytes 4 3 ++ leBytes 4 1)⟩
     let s := { cnts 5 with sch := { (cnts 5).sch with triggers := [(0, g)] } }
     s.sch.triggers.find? (fun t => t.2.counter == 8 && decide (t.2.threshold ≤ counterVal s 8)) = some (0, g) ∧ g.kind = 0 ∧
     fnCounter s g.fn (fieldAt g.body 12 4) = some 11 ∧ fieldAt g.body 10 2 = 0xFFFF ∧ counterVal s 11 + fieldAt g.body 16 4 < 2 ^ 64) ∧
    (let g : Trigger := ⟨0, none, 8, 5, 1, padTo 32 (leBytes 4 5 ++ leBytes 2 0)⟩
     let s := withProg nopImg { ctx1 with st := .idle, step := none } { cnts 5 with sch := { (cnts 5).sch with triggers := [(0, g)] } }
     s.sch.triggers.find? (fun t => t.2.counter == 8 && decide (t.2.threshold ≤ counterVal s 8)) = some (0, g) ∧ g.kind = 1 ∧
     (s.ctx? (fieldAt g.body 0 4)).any (fun c => c.fn == g.fn && c.st != .aborting && !c.failed && (progOf s c.program).any (fun y =>
       decide (fieldAt g.body 4 2 < y.2.hdr.phases))) = true) ∧
    (let g : Trigger := ⟨0, none, 8, 5, 2, padTo 32 []⟩
     let s := { cnts 5 with sch := { (cnts 5).sch with triggers := [(0, g)] } }
     s.sch.triggers.find? (fun t => t.2.counter == 8 && decide (t.2.threshold ≤ counterVal s 8)) = some (0, g) ∧ g.kind = 2) := by decide


/-! Copies. -/

/-- A COPY of some bytes: source, destination, length, flags. -/
def copyD (a b len fl : Nat) : List Byte := desc 0x28 0 (leBytes 8 a ++ leBytes 8 b ++ leBytes 8 len ++ leBytes 1 fl)

/-- What every COPY of these clauses meets. -/
def copyOk (s : State) (len fl : Nat) (p : List Byte → Bool) : Bool :=
  runs s 0x28 (fun d => !descWork s 0 0 0 && fieldAt d 24 8 == len && decide (0 < len) && decide (len ≤ 2 ^ 40) &&
    fieldAt d 32 1 == fl && zeroAt d 33 31 && p d)

/-- CopiesAndSends: from the host, the last byte of it in a poisoned TLP, and to it. -/
theorem wit_CopiesAndSends_here :
    (let s := withDesc (copyD 4095 t1Base 2 2) (window (region0 (clean base)))
     copyOk s 2 2 (fun d => !bitAt (fieldAt d 8 8) 63 && !bitAt (fieldAt d 16 8) 63 && sideCheck s 0 (.host (fieldAt d 8 8)) 2 false == .ok &&
       sideCheck s 0 (.local_ (fieldAt d 16 8)) 2 true == .ok &&
       (hostReadP (endWait (withTlp [(4096, 1)] s) (.desc 0 0 0)) 0 (fieldAt d 8 8) 2).isSome)) = true ∧
    (let s := withDesc (copyD t1Base 4095 2 1) (window (region0 (clean base)))
     copyOk s 2 1 (fun d => !bitAt (fieldAt d 8 8) 63 && !bitAt (fieldAt d 16 8) 63 && sideCheck s 0 (.local_ (fieldAt d 8 8)) 2 false == .ok &&
       sideCheck s 0 (.host (fieldAt d 16 8)) 2 true == .ok && localCheck s 0 (fieldAt d 8 8) 2 false == .ok && !inSystem s (fieldAt d 8 8) 2 &&
       addrClass (fieldAt d 8 8) == .t1 && hostUp s 0 && winOk s 0 (fieldAt d 16 8) 2 true &&
       (copySource (endWait (withTlp [] s) (.desc 0 0 0)) [] 0 (.local_ (fieldAt d 8 8)) 2).any (fun x => !x.1.isEmpty))) = true := by decide

/-- A source that leaves its window by one byte. -/
theorem wit_CopiesAndSends_barred :
    let s := withDesc (copyD (2 ^ 24 - 1) t1Base 2 2) (window (region0 (clean base)))
    copyOk s 2 2 (fun d => !bitAt (fieldAt d 8 8) 63 && !bitAt (fieldAt d 16 8) 63 &&
      (sideCheck s 0 (.host (fieldAt d 8 8)) 2 false).worse (sideCheck s 0 (.local_ (fieldAt d 16 8)) 2 true) == .protection) = true := by decide

/-- From a node and to it, and to one that no window admits. -/
theorem wit_CopiesAndSends_fabric :
    (let s := withDesc (copyD (2 ^ 63 + 2 * 2 ^ 48 + t1Base) t1Base 8 2) (fwin (region0 (clean base)))
     copyOk s 8 2 (fun d => let a := fieldAt d 8 8
       bitAt a 63 && !bitAt (fieldAt d 16 8) 63 && fabricCheck s 0 (a / 2 ^ 48 % 2 ^ 15) (a % 2 ^ 48) 8 .read == .ok &&
         localCheck s 0 (fieldAt d 16 8) 8 true == .ok)) = true ∧
    (let s (n : Nat) := withDesc (copyD t1Base (2 ^ 63 + n * 2 ^ 48 + t1Base) 8 1) (fwin (region0 (clean base)))
     let good (n : Nat) (st : Status → Bool) := copyOk (s n) 8 1 (fun d => let b := fieldAt d 16 8
       !bitAt (fieldAt d 8 8) 63 && bitAt b 63 && sideCheck (s n) 0 (.local_ (fieldAt d 8 8)) 8 false == .ok &&
         (copySource (endWait (withTlp [] (s n)) (.desc 0 0 0)) [] 0 (.local_ (fieldAt d 8 8)) 8).any (fun x => x.1.length == 8) &&
         st (fabricCheck (s n) 0 (b / 2 ^ 48 % 2 ^ 15) (b % 2 ^ 48) 8 .write))
     good 2 (· == .ok) = true ∧ good 3 (· != .ok) = true) := by decide

/-- What the clauses of a SEND meet. -/
def sendOk (args : List Nat) (p : OpCtx → State → Bool) : Bool :=
  let s := opS (opB 0x12 0 0 0 0 0 0 args) (fwin (clean base))
  issues s (fun o => o.opcode == 0x12 && !o.varBit 2) (fun k => let v := errsMet k noErrs (issued s k); !workOf v k.h k.idx && p k v)

/-- A SEND of nothing, of 8 bytes to a node that no window admits, to one that one does, and to its highest receive queue. -/
theorem wit_CopiesAndSends_send :
    sendOk [1, 0, 0] (fun k _ => k.o.arg2 == 0) = true ∧
    sendOk [3, 0, 8] (fun k v => k.o.arg2 != 0 && (queueAt t1Base).isNone && (operand v k k.o.src0 k.anyTile 0 k.o.arg2 false).any (fun l =>
      fabricCheck v k.c.fn (k.o.arg0 % 2 ^ 15) t1Base (sendBody v k 0 (0, 0) (locRead v k.h l k.o.arg2).1).length .write != .ok)) = true ∧
    sendOk [2, 0, 8] (fun k v => k.o.arg2 != 0 && (queueAt t1Base).isNone && (operand v k k.o.src0 k.anyTile 0 k.o.arg2 false).any (fun l =>
      let b := sendBody v k 0 (0, 0) (locRead v k.h l k.o.arg2).1
      !b.isEmpty && fabricCheck v k.c.fn (k.o.arg0 % 2 ^ 15) t1Base b.length .write == .ok)) = true ∧
    sendOk [2, 0, 8] (fun k v => k.o.arg2 != 0 && (queueAt (0xF00060000000 + 16 * 65535)).isSome && (operand v k k.o.src0 k.anyTile 0 k.o.arg2 false).any (fun l =>
      fabricCheck v k.c.fn (k.o.arg0 % 2 ^ 15) (0xF00060000000 + 16 * 65535) 16 .write == .ok &&
        !(groupRecords (k.o.varBit 0) (splitRecords (k.o.arg2 + 1) (rawBytes (locRead v k.h l k.o.arg2).1))).isEmpty)) = true := by decide

/-- A list of one segment, and one whose bytes are poisoned. -/
theorem wit_CopiesAndSends_list :
    (let s := has (t1Base + 0x100000) (leBytes 2 1 ++ leBytes 2 2 ++ leBytes 28 0 ++ leBytes 8 (t1Base + 0x100000) ++ leBytes 8 t1Base ++ leBytes 8 8)
        (opS (opB 0x12 4 0 0 0 0 0 []) (fwin (clean base)))
     let s := { s with mm := { s.mm with regions := [⟨t1Base + 0x100000, 65536, 0, .context, 5⟩] } }
     issues s (fun o => o.opcode == 0x12 && o.varBit 2) (fun k => !workOf (issued s k) k.h k.idx &&
       (operand (issued s k) k k.o.src0 k.anyTile 0 32 false).any (fun l =>
         let h := locRead (issued s k) k.h l 32
         let b := rawBytes h.1
         !anyPsn h.1 && fieldAt b 0 2 == 1 && fieldAt b 2 2 == 2 && fieldAt b 4 4 == 0 && zeroAt b 8 24 &&
           (operand (issued s k) k k.o.src0 k.anyTile 32 24 false).any (fun m =>
             let lb := locRead h.2 k.h m 24
             let u := endWait lb.2 (.ctx k.h)
             !anyPsn lb.1 && (segmentsOf (rawBytes lb.1) 1).all (fun g => decide (g.2.1 < 2 ^ 48) && decide (0 < g.2.2) && decide (g.2.2 ≤ 2 ^ 32) &&
               localCheck u k.c.fn g.1 g.2.2 false == .ok && fabricCheck u k.c.fn 2 g.2.1 g.2.2 .write == .ok && addrClass g.1 == .t1) &&
             (listPkts [] k.c.fn 2 (segmentsOf (rawBytes lb.1) 1) u).any (fun x => match x.1 with | .ok ps => !ps.isEmpty | .error _ => false))))) = true ∧
    (let s := opS (opB 0x12 4 0 0 0 0 0 []) (clean base)
     let s := { s with mm := { s.mm with psn := [(t1Base + 0x100000) / 32] } }
     issues s (fun o => o.opcode == 0x12 && o.varBit 2) (fun k => !workOf (issued s k) k.h k.idx &&
       (operand (issued s k) k k.o.src0 k.anyTile 0 32 false).any (fun l => anyPsn (locRead (issued s k) k.h l 32).1)) = true) := by decide

/-! Attention. -/

/-- Is a page of span 3 at hand (`PageHere`)? -/
def hereB (s : State) (x : Span) (p : Nat) : Bool :=
  (migOf s 3 p).isNone && ((s.pte 3 p).st == .unbacked || ((s.pte 3 p).st == .t1 && !drains s (frameStack (s.pte 3 p).frame)) ||
    ((s.pte 3 p).st == .t2 && x.t2Attn))

theorem hereB_spec {s : State} {x : Span} {p : Nat} (h : hereB s x p = true) : PageHere s x 3 p := by
  unfold hereB at h
  unfold PageHere
  simp only [Bool.and_eq_true, Bool.or_eq_true, Option.isNone_iff_eq_none, beq_iff_eq, Bool.not_eq_true'] at h
  obtain ⟨a, (b | b) | b⟩ := h
  · exact ⟨a, .inl b⟩
  · exact ⟨a, .inr (.inl b)⟩
  · exact ⟨a, .inr (.inr b)⟩

/-- An ATTN over span 3 with one row, its page in T1, and what `p` says of it: the span, where its queries and tables lie, and its request. -/
def attnOp1 (op : List Byte) (p : State → OpCtx → State → Span → AttnReq → List (Nat × List Nat) → Nat → Bool) : Bool :=
  let s := opS op (withPage .t1 (clean (withSpan (span1 1 1)))) spanCtx
  issues s (fun o => o.opcode == 0x10) (fun k =>
    (s.attn.waits.find? (fun p => p.2.who == .ctx k.h && p.2.idx == k.idx)).isNone &&
    (k.binding k.o.aux).any (fun b => b.span == 3 && match spanIf (issued s k) k.c.fn b.span (attnOk k) with
      | .error _ => false
      | .ok x =>
        match operand (issued s k) k k.o.src0 k.anyTile 0 (vecBytes true ((bits k.o.arg0 20 15 + 1) * x.dim)) false,
          operand (issued s k) k k.o.src1 k.anyTile 0 (128 * (bits k.o.arg0 20 15 + 1)) false, k.p.bufs[k.o.src1]? with
        | some l0, some (.mem a), some bb =>
          let r := locRead (issued s k) k.h l0 (vecBytes true ((bits k.o.arg0 20 15 + 1) * x.dim))
          let hs := makeHeads x (vecElems true r.1) (biasTables r.2 a (bits k.o.arg0 20 15 + 1))
          let q := attnReqOf (issued s k) k b x hs.1
          decide (bb.kind ≤ 1) && p s k r.2 x q (pagesRead x q) hs.2
        | _, _, _ => false))

/-- AttentionRuns: an ATTN of one head at the highest window and sinks, over a row in T1, that stores its result. -/
theorem wit_AttentionRuns_op :
    attnOp1 (opB 0x10 1 0 0 0 0 0 [0, 0, 4194304 + 16 * 2 ^ 23, 0]) (fun _ k r x q ps _ =>
      !ps.isEmpty && ps.all (fun p => hereB r x p.1) && (k.o.varBit 0 || k.o.dst != 0xFFFF) &&
      (operand (readHere r 3 k.h [] ps) k k.o.dst k.anyTile 0
        (attnOut q (k.o.varBit 0) (k.o.varBit 1) (partsHere r 3 k.h x q [] ps)).length true).isSome) = true := by decide

/-- One that sends its record to node 5, and one whose dispatch is delivered. -/
theorem wit_AttentionRuns_records :
    attnOp1 (opB 0x10 0 0 0 0 0xFFFF 0 [0, 0, 0, 5]) (fun _ k r x _ ps _ =>
      ps.all (fun p => hereB r x p.1) && !(k.o.varBit 0 || k.o.dst != 0xFFFF) &&
      bits k.o.arg3 15 0 != (readHere r 3 k.h [] ps).fld R.ROUTE_NODE.NODE && !nodeLost (readHere r 3 k.h [] ps) (bits k.o.arg3 15 0)) = true ∧
    attnOp1 (opB 0x10 1 0 0 0 0 0 [0, 0, 0, 0]) (fun s k r x q _ sat => match dispatchAttn r 3 x q k.h [] with
      | .go u own [] chain => (deliverAttn u k ⟨.ctx k.h, k.idx, q, own, [], .ok, s.now, sat, chain⟩ own).isSome
      | _ => false) = true := by decide

/-- A query of one head over that row, with its bias table in a region of PF0's. -/
theorem wit_AttentionRuns_query :
    let s := withDesc (desc 0x18 0 (leBytes 4 3 ++ leBytes 2 0 ++ leBytes 1 0 ++ leBytes 1 0 ++ leBytes 16 0 ++ leBytes 4 0 ++ leBytes 3 0 ++ leBytes 3 1 ++ leBytes 6 0 ++
      leBytes 6 t1Base ++ leBytes 1 1 ++ leBytes 1 0 ++ leBytes 8 0)) (window (region0 (withPage .t1 (clean (withSpan (span1 1 1))))))
    runs s 0x18 (fun d => !s.attn.waits.any (fun p => p.2.who == .desc 0 0 0) && fieldAt d 8 4 == 3 &&
      biasOk s 0 (fieldAt d 48 6) (128 * (bits (fieldAt d 14 1) 5 0 + 1)) && match spanIf s 0 3 (fun x => queryOk x d) with
      | .error _ => false
      | .ok x =>
        let u := withTlp [] s
        (hostReadP u 0 (fieldAt d 56 8) (4 * (bits (fieldAt d 14 1) 5 0 + 1) * x.dim)).any (fun bs =>
          let hs := makeHeads x (elemsOf bs) (biasTables u (fieldAt d 48 6) (bits (fieldAt d 14 1) 5 0 + 1))
          let q := queryReq u 0 x d hs.1
          let ps := pagesRead x q
          let out := ((partsHere u 3 (2 ^ 19 - 1) x q [] ps).zipIdx).flatMap (fun p => queryOut q (bitAt (fieldAt d 15 1) 0) (bitAt (fieldAt d 15 1) 1) p.2 p.1)
          let v := readHere u 3 (2 ^ 19 - 1) [] ps
          !ps.isEmpty && ps.all (fun p => hereB u x p.1) && hostUp v 0 &&
            winOk v 0 (fieldAt d 56 8 + 64 * ceilDiv (4 * q.heads.length * q.dim) 64) out.length true)) = true := by decide

/-- A request that names nothing. -/
def req0 (epoch : Nat) : AttnReq := AttnReq.mk 0 3 0 0 [] 0#32 0 0 1 0 0 0 [(0, 0)] false 64 epoch 0 0 false 0

/-- A query that waits for lender 9, requests 4 and, where `more`, 5. -/
def waitQ (more : Bool) : AttnWait :=
  ⟨.desc 0 0 0, 0, req0 0, [], [(4, ⟨9, [0], 0, none⟩)] ++ (if more then [(5, ⟨8, [1], 0, none⟩)] else []), .ok, 0, 0, false⟩

/-- A page of PF0's of node 9. -/
def lent9 : LentPage := ⟨⟨9, 0, 3, 16, 1, 1, 64, 0, 0, 0, 0, 0, 1, [], [], []⟩, true, 0, 1, false⟩

/-- A lent page asked for with and without its key, of another node, of no handle, an epoch that is not this one, an unknown request, and a
failed answer to the last request waited for and to one of two. -/
theorem wit_AttentionRuns_remote :
    (let s := { base with pg := { base.pg with lent := [(2, lent9)], lentKeys := [9 * 64] } }
     (∀ h ∈ [2], ∃ l, Tab.find? h s.pg.lent = some l ∧ l.page.node = 9 ∧ NSet.has (9 * 64 + l.page.fn) s.pg.lentKeys = true) ∧
     (req0 0).epoch = s.epoch ∧ (req0 1).epoch ≠ s.epoch ∧ s.flag R.MER_STAT.DRAINING = false ∧ waitOf s 4 = none ∧
     Tab.find? 1 s.pg.lent = none ∧ lent9.page.node ≠ 8) ∧
    (let s := { base with pg := { base.pg with lent := [(2, lent9)] } }
     Tab.find? 2 s.pg.lent = some lent9 ∧ lent9.page.node = 9 ∧ NSet.has (9 * 64 + lent9.page.fn) s.pg.lentKeys = false) ∧
    ([false, true].all (fun more => let s := { base with attn := { base.attn with waits := [(4, waitQ more)] } }
     waitOf s 4 == some (4, waitQ more) && (waitQ more).remotes.find? (fun r => r.1 == 4) == some (4, ⟨9, [0], 0, none⟩) &&
       (((waitQ more).put 4 (takeAnswer s (statusOfNat 12) [] (waitQ more) ⟨9, [0], 0, none⟩).2).remotes.all (fun r => r.2.answer.isSome) == !more)) = true) := by
  refine ⟨⟨fun h m => ?_, by decide⟩, by decide, by decide⟩
  obtain rfl : h = 2 := by simpa using m
  exact ⟨_, rfl, rfl, rfl⟩

/-! Endpoints and regions. -/

/-- Endpoint 6 of PF0, generation 1, to endpoint 5 of node 2. -/
def ep1 : Endpoint := ⟨0, 1, 0, 2, 5, true, false, false, 0, 0, 0, false, 0, conn0⟩

/-- PF0 may hold endpoints and regions; endpoint 6 is given. -/
def epS (e : Endpoint) (s : State := base) : State :=
  let s := ((s.setFld R.FN_PD_MAX 1).setFld R.FN_EP_CEIL 2).setFld R.FN_REGIONS_MAX 4
  s.setEndp 6 e

/-- EndpointsAndRegions: endpoints to create and to destroy. -/
theorem wit_EndpointsAndRegions_create :
    (let s := withDesc (desc 0x38 0 (leBytes 2 0 ++ leBytes 2 32767 ++ leBytes 4 (2 ^ 28 - 1) ++ leBytes 1 1)) (epS ep1)
     runs s 0x38 (fun d => (parseEpCreate 0 d).any (fun e => epCreateStatus s 0 e == .ok) && (pickFree s.tr.eps 0 1048576 0).isSome) = true) ∧
    (let s := withDesc (desc 0x39 0 (leBytes 4 (6 + 2 ^ 20))) (epS ep1)
     runs s 0x39 (fun d => decide (fieldAt d 8 4 < 2 ^ 28) && zeroAt d 12 52 && (match namedEp s 0 (fieldAt d 8 4) with | .ok _ => true | _ => false)) = true) := by
  decide

/-- A work request on endpoint 6 of an OP, flags and a length, its data in PF0's region or in host memory; with what every one of these clauses
meets. -/
def postOk (op fl len : Nat) (err : Bool) (p : State → List Byte → Bool) (f : State → State := id) : Bool :=
  let s := withDesc (desc 0x3A 0 (leBytes 4 (6 + 2 ^ 20) ++ leBytes 1 op ++ leBytes 1 fl ++ leBytes 2 0 ++ leBytes 8 (if fl % 2 = 1 then 0 else t1Base) ++
    leBytes 8 0 ++ leBytes 4 0 ++ leBytes 4 len)) (f (epS { ep1 with err := err } (window (region0 (clean base)))))
  runs s 0x3A (fun d => (findDesc s 0 0 0).map (·.started) == some false && fieldAt d 12 1 == op && postFieldsOk d &&
    bitAt (fieldAt d 13 1) 1 == decide (fl / 2 = 1) &&
    (match namedEp s 0 (fieldAt d 8 4) with | .ok (_, e) => e.err == err && !nodeLost s e.node | _ => false) && p s d)

/-- May the data of a request be read? -/
def dataOk (s : State) (d : List Byte) : Bool :=
  (match postData (withTlp [] s) noErrs 0 (bitAt (fieldAt d 13 1) 0) (fieldAt d 16 8) (fieldAt d 36 4) with | .ok _ => true | _ => false) &&
  (fieldAt d 36 4 == 0 || (if bitAt (fieldAt d 13 1) 0 then hostUp s 0 && winOk s 0 (fieldAt d 16 8) (fieldAt d 36 4) false
     else epLocal s 0 (fieldAt d 16 8) (fieldAt d 36 4) false == .ok))

/-- May the answer of a request be written where it asks? -/
def answerOk (n : Option Nat) (s : State) (d : List Byte) : Bool :=
  answerCheck s 0 (bitAt (fieldAt d 13 1) 0) (fieldAt d 16 8) (n.getD (fieldAt d 36 4)) == .ok

/-- Work requests of every OP: a byte to write, the whole window, the region and a byte more, to read the same, an immediate alone and one
with data, atomics; and one on an endpoint in error. -/
theorem wit_EndpointsAndRegions_post :
    postOk 0 0 1 false dataOk = true ∧ postOk 0 1 1 false dataOk = true ∧
    postOk 0 0 65537 false (fun s d => match postData (withTlp [] s) noErrs 0 (bitAt (fieldAt d 13 1) 0) (fieldAt d 16 8) (fieldAt d 36 4) with
      | .ok _ => false | .error _ => true) = true ∧
    postOk 1 0 65536 false (answerOk none) = true ∧ postOk 1 0 65537 false (fun s d => !answerOk none s d) = true ∧
    postOk 2 0 0 false dataOk = true ∧ postOk 2 0 1 false dataOk = true ∧
    postOk 3 0 8 false (answerOk (some 8)) = true ∧ postOk 4 0 8 false (answerOk (some 8)) = true ∧ postOk 0 0 1 true (fun _ _ => true) = true := by decide

/-- A trigger of kind 2 on counter 8 armed for work request 7 of endpoint 6, or one that has fired. -/
def armed (fired : Bool) (s : State) : State :=
  let s := (cnts 5 s).setFld R.FN_PREPOST_CEIL 1
  if fired then { s with tr := { s.tr with fired := [⟨0, 0, 0, 6 + 2 ^ 20, 7, 8, 0⟩] } }
  else { s with sch := { s.sch with triggers := [(0, ⟨0, none, 8, 6, 2, padTo 32 (leBytes 4 (6 + 2 ^ 20) ++ leBytes 4 7)⟩)] } }

/-- A triggered FETCH_ADD that waits, the last that PF0 may have, and one whose trigger has fired. -/
theorem wit_EndpointsAndRegions_triggered :
    ([false, true].all (fun fired => postOk 3 2 8 false (fun s d => fnCounter s 0 (fieldAt d 48 4) == some 8 &&
      (s.tr.fired.find? (fun p => p.fn == 0 && p.counter == 8 && p.ep == fieldAt d 8 4 && p.tag == fieldAt d 4 4)).isSome == fired &&
      (preTrigger s 0 8 (fieldAt d 8 4) (fieldAt d 4 4)).isSome == !fired && s.tr.pre.isEmpty && answerOk (some 8) s d &&
      decide (s.tr.pre.countP (fun p => p.fn == 0) < s.fld R.FN_PREPOST_CEIL 0)) (armed fired))) = true := by decide

/-- The last index that PF0 may use for a region, and a region in use. -/
theorem wit_EndpointsAndRegions_regions :
    (let s := withDesc (desc 0x3A 0 (leBytes 4 0xFFFF ++ leBytes 1 5 ++ leBytes 1 0xE0 ++ leBytes 2 0 ++ leBytes 8 t1Base ++ leBytes 8 0 ++ leBytes 4 3 ++
        leBytes 20 0 ++ leBytes 8 65536)) (epS ep1 (region0 base))
     runs s 0x3A (fun d => fieldAt d 12 1 == 5 && decide (fieldAt d 8 4 < 2 ^ 16) && bits (fieldAt d 13 1) 4 0 == 0 && zeroAt d 14 2 &&
       decide (fieldAt d 32 4 < 2 ^ 24) && decide (1 ≤ fieldAt d 56 8) && decide (fieldAt d 56 8 ≤ 2 ^ 48) && zeroAt d 52 4 &&
       (region? s 0 (fieldAt d 32 4)).isNone && decide (fieldAt d 32 4 < s.fld R.FN_REGIONS_MAX 0) &&
       regionInside s 0 0 (fieldAt d 16 8) (fieldAt d 56 8) (bits (fieldAt d 13 1) 7 5)) = true) ∧
    (let s := withDesc (desc 0x3A 0 (leBytes 4 0 ++ leBytes 1 6 ++ leBytes 19 0 ++ leBytes 4 (3 + 2 ^ 24))) (epS ep1)
     let s := { s with tr := { s.tr with regions := [(3, ⟨true, 1, 0, 0, 7, t1Base, 65536⟩)] } }
     runs s 0x3A (fun d => fieldAt d 12 1 == 6 && zeroAt d 8 4 && zeroAt d 13 11 && zeroAt d 52 12 &&
       (region? s 0 (fieldAt d 32 4 % 2 ^ 24)).any (fun e => e.used && e.gen == fieldAt d 32 4 / 2 ^ 24)) = true) := by decide

/-! Queues and sequencers. -/

/-- A queue of 16 cells with an action, holding one item of 5 bytes behind its slot; HEAD past it where it is taken. -/
def queue1 (action : Nat) (marked : Bool) (head : Nat) : Queue :=
  { emptyQueue 0 with module_ := false, slots := true, action := action, reserve := 16, limit := 16, timeout := 1, marked := marked, head := head,
                      tail := 9, items := [⟨[1#8], false, 0, 1, 0, 9, false⟩] }

/-- The module with queue 1024. -/
def withQ (x : Queue) : State := base.setQueue 1024 x

/-- QueueCommands: bytes appended to a send queue and to a receive queue, up to the limit. -/
theorem wit_QueueCommands_append :
    (let s := withQ (queue1 0 false 0)
     (((atTime s 0).queue? 1024).isSome && (appendBytes (atTime s 0) 1024 [1#8] false true true 0 1).any (fun u => (u.queue? 1024).map (·.action) == some 0)) = true) ∧
    (let s := withQ (queue1 1 false 0)
     (appendBytes (atTime s 0) 1024 (List.replicate 256 1#8) false true true 0 1).any (fun u => (u.queue? 1024).any (fun y => y.action != 0)) = true) := by decide

/-- A whole item that may be appended; a send queue that a context may open, and its first byte. -/
theorem wit_QueueCommands_whole :
    (let s := atTime (withQ (queue1 1 false 0)) 0
     (s.queue? 1024).any (fun x => x.openItem.isNone && mayAppend s 1024 x (x.cellsTo (x.nextStart + x.slotBytes + 256))) = true) ∧
    (let s := atTime (withProg nopImg ctx1 (base.setFld R.FN_QCELL_CEIL 16)) 0
     ((s.queue? 65535).isNone && (openSend s 65535 5).any (fun u => (appendBytes u 65535 [1#8] false true true 0 1).any (fun v =>
       (v.queue? 65535).map (·.action) == some 0))) = true) := by decide

/-- A queue to take from, to mark and to unmark; marked ones to rewind and to release up to HEAD; one without a mark. -/
theorem wit_QueueCommands_consume :
    ((atTime (withQ (queue1 1 false 0)) 5).queue? 1024).isSome = true ∧ ((withQ (queue1 1 false 0)).queue? 1024).isSome = true ∧
    ((atTime (withQ (queue1 1 true 9)) 5).queue? 1024).any (fun x => x.marked && decide (x.mark ≤ 9) && decide (9 ≤ x.head)) = true ∧
    ((atTime (withQ (queue1 1 false 9)) 5).queue? 1024).any (fun x => !x.marked) = true := by decide

/-- Queues of every action at the end of their timeout, 1 µs. -/
theorem wit_QueueCommands_stale : ([0, 1, 2] : List Nat).all (fun a =>
    let s := atTime (withQ (queue1 a false 0)) 1000
    (s.queue? 1024).any (fun x => staleNow s x && x.action == a)) = true := by decide

/-- A sample time with the telemetry ring off; a cycle of the other list with a swap pending, and a port without one. -/
theorem wit_QueueCommands_times :
    ((atTime base 1024).now % 1024 = 0 ∧ base.flag R.QTEL_BASE.ENABLE = false) ∧
    (let s := ((base.setFld R.SHP_GATE_CTL.SWAP 1 15).setFld R.SHP_GCL.ENTRY (10 * 256) 15 (otherList base 15 * 256))
     15 < 16 ∧ (atTime s 10).flag R.SHP_GATE_CTL.SWAP 15 = true ∧ cycleStarts (atTime s 10) 15 (otherList (atTime s 10) 15) = true) ∧
    (atTime base 10).flag R.SHP_GATE_CTL.SWAP 0 = false := by decide

/-- SequencersRun: a READY context of the last die, for its last sequencer. -/
theorem wit_SequencersRun_select :
    let s := withProg nopImg { ctx1 with st := .ready, home := 3, sequencer := none } (base.setFld R.FN_SCHED.WEIGHT 1)
    s.sch.ctxs.any (fun p => p.2.sequencer == some (3 * 16 + 15)) = false ∧ (nextReady s 3).isSome = true ∧
    s.flag R.SCHED_CTL.POLICY = false ∧ s.sch.ctxs.any (fun p => p.2.st == .ready && p.2.home == 3 && decide (p.2.fn < 64)) = true := by decide

/-- A context whose op is in flight, with another one READY. -/
theorem wit_SequencersRun_quantum :
    let t := withProg nopImg ctx1
    let s := t.setCtx 6 { ctx1 with st := .ready, sequencer := none, hw := 1 }
    (s.ctx? 5).any (fun c => c.st == .running && !iterDone s c && s.sch.ctxs.any (fun p => p.2.st == .ready && p.2.home == c.home)) = true := by decide

/-- A context at the end of an iteration of a phase: of one that repeats, of one with a next, of the last, of one whose issue stopped, and of one
to run again. -/
def iterOk (s : State) (p : Ctx → Machine.Step → Phase → Bool) : Bool :=
  (s.ctx? 5).any (fun c => c.st != .aborting && iterDone s c && c.step.any (fun e => (progOf s c.program).any (fun y => (y.2.phases[c.phase]?).any (p c e))))

theorem wit_SequencersRun_iteration :
    (let im := image [bufB 1 0 64] [opB 0x3F 0 0 0 0 0 0 []]
     -- bytes 38 and 39 hold REPEAT of phase 0
     let two := im.set 38 2#8
     iterOk (withProg two { ctx1 with op := 1 }) (fun c e f => !e.stopped && !e.retry && decide (c.iter + 1 < f.repeat_)) = true) ∧
    iterOk (withProg (image [bufB 1 0 64] [opB 0x3F 0 0 0 0 0 0 []] [] 0) { ctx1 with op := 1 })
      (fun c e f => !e.stopped && !e.retry && decide (f.repeat_ ≤ c.iter + 1) && f.next != 0xFFFF) = true ∧
    iterOk (withProg nopImg { ctx1 with op := 1 }) (fun c e f => !e.stopped && !e.retry && decide (f.repeat_ ≤ c.iter + 1) && f.next == 0xFFFF) = true ∧
    iterOk (withProg nopImg { ctx1 with step := some ⟨.desc 0 0 0, .ok, false, true⟩ }) (fun _ e _ => e.stopped) = true ∧
    iterOk (withProg nopImg { ctx1 with op := 1, step := some ⟨.desc 0 0 0, .ok, true, false⟩ }) (fun _ e _ => !e.stopped && e.retry) = true := by decide

/-- The fixed-slot policy: within a slot, and at its guard. -/
theorem wit_SequencersRun_slots :
    let t := base.setFld R.SCHED_CTL.POLICY 1
    let s := { t with sch := { t.sch with slotEnd := 10 } }
    (atTime s 9).flag R.SCHED_CTL.POLICY = true ∧ (atTime s 9).now < s.sch.slotEnd ∧
      s.sch.slotEnd ≤ (atTime s 10).now ∧ s.sch.slotEnd ≤ (atTime s 10).now + (atTime s 10).fld R.SCHED_GUARD.GUARD := by decide

/-! Tiles. -/

/-- A tile op issues and its part of tile 0 ends, its operands being in reach. -/
def tileRuns (op : List Byte) (sel : Op → Bool) (part : OpCtx → Nat → State → TilePart) : Bool :=
  let s := opS op (clean base)
  issues s sel (fun k => !tilesBusy (errsMet k noErrs (issued s k)) k && (match onTiles k (errsMet k noErrs (issued s k)) (part k) with | .done _ st _ => st != .protection | _ => false))

/-- TileOpsRun: element-wise ops of one element. -/
theorem wit_TileOpsRun_elemwise :
    tileRuns (opB 9 0 0 0 0 0 0xFFFF [0, 1, 1]) (isElem 0) (elem2 fAdd true false) = true ∧ tileRuns (opB 9 1 0 0 0 0 0xFFFF [0, 1, 1]) (isElem 1) (elem2 fMul false true) = true ∧
    tileRuns (opB 9 2 0 0 0 0 0xFFFF [0, 1, 1]) (isElem 2) (elemScale true) = true ∧ tileRuns (opB 9 3 0 0 0 0 0xFFFF [0, 1, 1]) (isElem 3) (elem2 siluGate true true) = true ∧
    tileRuns (opB 9 12 0 0 0 0 0xFFFF [0, 1, 1]) (isElem 4) elemConvert = true ∧ tileRuns (opB 9 5 0 0 0 0 0xFFFF [0, 1, 1]) (isElem 5) elemParts = true := by
  decide

/-- A norm, copies, a route and samples. -/
theorem wit_TileOpsRun_others :
    tileRuns (opB 8 0 0 0 0 0 0xFFFF [0x3727C5AC, 1]) (fun o => o.opcode == 0x08 && !o.varBit 1) (normPart false true) = true ∧
    tileRuns (opB 6 0 0 0 0 0 0 [32]) (fun o => o.opcode == 0x06 && !o.varBit 0) copyPart = true ∧
    tileRuns (opB 6 0 0 0 0 0 0 [32]) (fun o => o.opcode == 0x06 && !o.varBit 0) (actPart 1) = true ∧
    tileRuns (opB 6 1 0 0 0xFFFF 0 0 [32]) (fun o => o.opcode == 0x06 && o.varBit 0) gatherPart = true ∧
    tileRuns (opB 11 0 0 0 0 0 0 [1, 1]) (fun o => o.opcode == 0x0B) routePart = true ∧
    tileRuns (opB 0x30 0 0 0 0 0 0 [1, 0, 0, 0, 1]) (fun o => o.opcode == 0x30 && o.var % 4 == 0) fullPart = true ∧
    tileRuns (opB 0x30 1 0 0 0 0 0 [1, 0, 0, 0, 1]) (fun o => o.opcode == 0x30 && o.var % 4 == 1) localPart = true ∧
    tileRuns (opB 0x30 2 0 0 0 0 0 [1, 0, 0, 0, 1]) (fun o => o.opcode == 0x30 && o.var % 4 == 2) selectPart = true := by decide

/-- A tile set of one tile, and a part that its operand bars; and a NOP. -/
theorem wit_TileOpsRun_sets :
    withOp (opS (opB 9 0 0 7 0 0 0xFFFF [0, 1])) (fun k => !tilesBusy base k && k.tiles == [0] && (elem2 fAdd false false k 0 base).isNone) = true ∧
    withOp (opS (opB 9 0 0 0 0 0 0xFFFF [0, 1, 1]) (clean base)) (fun k => !tilesBusy (clean base) k && k.tiles == [0] &&
      (elem2 fAdd false false k 0 (opS (opB 9 0 0 0 0 0 0xFFFF [0, 1, 1]) (clean base))).isSome) = true ∧
    (let s := opS (opB 8 2 1 0 0 0 0xFFFF [0x3727C5AC, 1]) (clean base)
     issues s (fun o => o.opcode == 0x08) (fun k => let v := errsMet k noErrs (issued s k)
       k.o.varBit 1 && !maskDrains v k.o.unit_ && (normPart true true k k.anyTile v).isSome)) = true ∧
    issues (opS (opB 0x3F 0 0 0 0 0 0 [])) (fun o => o.opcode == 0x3F) (fun _ => true) = true := by decide

/-- What `p` says of an op's context. -/
def opOf (op : List Byte) (p : State → OpCtx → Bool) : Bool := let s := opS op (clean base); withOp s (p s)

/-- TileParts: vectors of one element. -/
theorem wit_TileParts_vectors :
    opOf (opB 9 0 0 0 0 0 0 [0, 1]) (fun s k => (tileVec s k true k.o.src0 0 1).any (fun x => (tileVec x.2 k false k.o.src1 0 1).isSome)) = true ∧
    opOf (opB 9 2 0 0 0 0 0xFFFF [0, 1]) (fun s k => (tileVec s k false k.o.src0 0 1).any (fun x => (scaleValue x.2 k 0).isSome) && k.o.aux == 0xFFFF) = true ∧
    opOf (opB 9 12 0 0 0 0 0 [0, 1]) (fun s k => k.o.var / 8 != 0 && (tileF32 s k k.o.src0 0 0 1).isSome) = true ∧
    opOf (opB 9 4 0 0 0 0 0 [0, 1]) (fun s k => k.o.var / 8 == 0 && (operand s k k.o.src0 0 0 2 false).isSome) = true ∧
    opOf (opB 9 5 0 0 0 0 0xFFFF [0, 1, 2]) (fun s k => (tileF32 s k k.o.src0 0 0 (k.o.arg2 * 1)).any (fun x => (scaleValue x.2 k 0).isSome)) = true := by decide

/-- Copies up to the end of the buffer, a route, and logits: none at all, and one. -/
theorem wit_TileParts_others :
    opOf (opB 6 0 0 0 0 0 0 [65536]) (fun s k => (operand s k k.o.src0 0 0 k.o.arg0 false).isSome) = true ∧
    opOf (opB 6 1 0 0 0xFFFF 0 0 [65536]) (fun s k => k.o.src1 == 0xFFFF && (s.ctx? k.h).any (fun c =>
      (operand s k k.o.src0 0 (c.token * k.o.arg0) k.o.arg0 false).isSome)) = true ∧
    opOf (opB 6 1 0 0 0 0 0 [4]) (fun s k => k.o.src1 != 0xFFFF && (operand s k k.o.src1 0 0 4 false).any (fun b =>
      let q := locRead s k.h b 4
      !anyPsn q.1 && (operand q.2 k k.o.src0 0 (leNat (rawBytes q.1) * k.o.arg0) k.o.arg0 false).isSome)) = true ∧
    opOf (opB 6 1 0 0 0 0 0 [4]) (fun s k => let s : State := { s with mm := { s.mm with psn := [(t1Base + 0x100000) / 32] } }
      (operand s k k.o.src1 0 0 4 false).any (fun b => anyPsn (locRead s k.h b 4).1)) = true ∧
    opOf (opB 0x30 2 0 0 0 0 0 [1, 0, 0, 0, 1]) (fun s k => (operand s k k.o.src0 0 0 (8 * bits k.o.arg4 19 0) false).any (fun a =>
      !candsBad (pairCands (locRead s k.h a (8 * bits k.o.arg4 19 0)).1))) = true ∧
    opOf (opB 11 0 0 0 0 0 0 [1, 1]) (fun s k => (tileF32 s k k.o.src0 0 0 k.o.arg1).isSome) = true ∧
    opOf (opB 0x30 0 0 0 0 0 0 []) (fun s k => (tileF32 s k k.o.src0 0 0 (bits k.o.arg4 19 0)).any (fun x => candsBad (logitCands x.1 k.o.arg3))) = true ∧
    opOf (opB 0x30 0 0 0 0 0 0 [1, 0, 0, 0, 1]) (fun s k => (tileF32 s k k.o.src0 0 0 (bits k.o.arg4 19 0)).any (fun x =>
      !candsBad (logitCands x.1 k.o.arg3))) = true := by decide

/-- A BF16 tensor of one row of 32, in one raw batt. -/
def tensor : List Byte :=
  let b := leBytes 4 9 ++ leBytes 4 1 ++ leBytes 4 32 ++ leBytes 1 2 ++ leBytes 1 0 ++ leBytes 6 0 ++ leBytes 4 1 ++
    leBytes 6 (t1Base + 0x200040) ++ leBytes 2 0 ++ leBytes 6 (t1Base + 0x200040) ++ leBytes 24 0
  b ++ leBytes 2 (crc16 b)

/-- The module with the tensor in a bundle of PF0's and an op on it, MV_TILE or STREAM_HINT. -/
def mvS (op : List Byte) : State :=
  let s := (clean base).setFld R.TILE_WIN.WIN_SIZE 1
  let s := has (t1Base + 0x200000) tensor (withProg (image [bufB 1 0 65536, bufB 4 (t1Base + 0x200000) 64] [op]) ctx1 s)
  { s with mm := { s.mm with regions := [⟨t1Base + 0x200000, 65536, 0, .bundle, 0⟩] } }

/-- A product always ends. -/
theorem mvFinish_done (k : OpCtx) (ts : List (Nat × Nat × TensorDesc)) (s : State) : ∃ t st n, mvFinish k ts s = .done t st n := by
  unfold mvFinish; split <;> exact ⟨_, _, _, rfl⟩

/-- An MV_TILE that may issue on tiles that are free, with what `p` says of it. -/
def mvOk (op : List Byte) (p : OpCtx → State → Bool) : Bool :=
  let s := mvS op
  issues s (fun o => o.opcode == 0x01) (fun k => !tilesBusy (issued s k) k && !tilesBusy (errsMet k noErrs (issued s k)) k && p k (issued s k))

/-- The stream of an MV_TILE of one tile run to its end. -/
def mvRun (k : OpCtx) (v : State) (t a : Nat) (d : TensorDesc) : State :=
  runStream t (bufKey t (opBuf k)) (2 * d.batts + 2) (claimStream v t (opBuf k) k.c.fn k.h a d (some (k.h, k.idx)))

/-- StreamsAndProducts: a product of a tensor, whole and stepwise; an op without one. -/
theorem wit_StreamsAndProducts_mv :
    mvOk (opB 1 0 0 0 1 0 0 [1]) (fun k v => match opTensors v k with
      | some [(t, a, d)] => !ownsStream v k t && (mvOperands v k t d).isSome && (mvOperands (mvRun k v t a d) k t d).isSome &&
          (stream? (mvRun k v t a d) (bufKey t (opBuf k))).isSome &&
          !streamDone (claimStream v t (opBuf k) k.c.fn k.h a d (some (k.h, k.idx))) (bufKey t (opBuf k))
      | _ => false) = true ∧
    mvOk (opB 1 0 0 0 0 0 0 [1]) (fun k v => (opTensors v k).isNone) = true := by decide

/-- Hints: without a tensor, on a free buffer, and on one whose stream an op consumes. -/
theorem wit_StreamsAndProducts_hint :
    (let s := mvS (opB 5 0 0 0 0 0 0 [])
     issues s (fun o => o.opcode == 0x05) (fun k => !setDrains (issued s k) k && (opTensors (issued s k) k).isNone) = true) ∧
    (let s := mvS (opB 5 0 0 0 1 0 0 [])
     issues s (fun o => o.opcode == 0x05) (fun k => !setDrains (issued s k) k && match opTensors (issued s k) k with
       | some [p] => (stream? (issued s k) (bufKey p.1 (opBuf k))).isNone
       | _ => false) = true) ∧
    (let s := setStream (mvS (opB 5 0 0 0 1 0 0 [])) 0 ⟨t1Base + 0x200000, 0, 0, 5, false, [], 0, [], 0, [], .ok, some (4, 0)⟩
     issues s (fun o => o.opcode == 0x05) (fun k => !setDrains (issued s k) k && match opTensors (issued s k) k with
       | some [p] => (stream? (issued s k) (bufKey p.1 (opBuf k))).any (fun x => x.claim.isSome)
       | _ => false) = true) := by decide

/-- One draft token to verify against two lists of one candidate: the first 32 bytes of the region hold the count and the draft. -/
theorem wit_StreamsAndProducts_verify :
    let s := has (t1Base + 0x100000) [1#8] (withProg (image [bufB 1 64 65472, bufB 1 0 64] [opB 0x31 0 0 0 1 0 0 [1, 0, 0, 1]]) ctx1 (clean base))
    issues s (fun o => o.opcode == 0x31) (fun k =>
      let u := errsMet k noErrs (issued s k)
      match operand u k k.o.src1 k.anyTile 0 4 false with
      | none => false
      | some a0 =>
        let r0 := locRead u k.h a0 4
        match operand r0.2 k k.o.src1 k.anyTile 4 4 false, operand r0.2 k k.o.src0 k.anyTile 0 (8 * bits k.o.arg3 19 0 * 2) false,
          operand r0.2 k k.o.dst k.anyTile 0 8 true with
        | some a1, some a2, some _ =>
          let r1 := locRead r0.2 k.h a1 4
          let r2 := locRead r1.2 k.h a2 (8 * bits k.o.arg3 19 0 * 2)
          !anyPsn r0.1 && leNat (rawBytes r0.1) == 1 && !anyPsn r1.1 && !((chunk (8 * bits k.o.arg3 19 0) r2.1).map pairCands).any candsBad
        | _, _, _ => false) = true := by decide

/-- The stream of the tensor in buffer 0 of tile 0, claimed or not. -/
def stream1 (claim : Option (Nat × Nat)) : StreamSt := ⟨t1Base + 0x200000, 0, 0, 5, false, [], 0, [], 0, [], .ok, claim⟩

/-- A batt to fill that just fits; streams to decode, unclaimed and claimed; a table in a slot; a tile. -/
theorem wit_StreamsAndProducts_streams :
    (let s := setStream (mvS (opB 1 0 0 0 1 0 0 [1])) 0 (stream1 none)
     (stream? s (bufKey 0 0)).any (fun x => (descAt s x.fn x.desc).any (fun d => decide (x.next < d.batts) &&
       decide (x.scales.length + (x.held.map (fun b => b.2.length)).foldl (· + ·) 0 + (battSpan s d.battBase x.next).2 ≤ bufBytes s 0)) &&
       x.claim.isNone) = true) ∧
    (let s := setStream (mvS (opB 1 0 0 0 1 0 0 [1])) 0 (stream1 (some (5, 0)))
     let u := decodeNext s 0 (bufKey 0 0)
     (stream? s (bufKey 0 0)).any (fun x => x.claim == some (5, 0)) = true ∧
       (opCtxOf u 5 0).any (fun c => (opTensors u c).any (fun ts => !ts.all (fun p => streamDone u (bufKey p.1 (opBuf c))))) = true) ∧
    (let s := setStream (mvS (opB 1 0 0 0 1 0 0 [1])) 0 { stream1 (some (5, 0)) with decoded := 1, next := 1 }
     let u := decodeNext s 0 (bufKey 0 0)
     (opCtxOf u 5 0).any (fun c => (opTensors u c).any (fun ts => ts.all (fun p => streamDone u (bufKey p.1 (opBuf c))))) = true) ∧
    255 < 256 ∧ ((slotsOf (setSlots base 255 [⟨0, 0, 1, 1⟩]) 255).find? (fun e => e.fn == 0 && e.id == 1 && e.gen == 1)).isSome = true := by decide

/-- The record of a table of two nibbles, before its CRC. -/
def tblB : List Byte := (tableRecord (tableOfLens 1 1 false [1, 1])).take 318

/-- It is a good record with its CRC after it, whatever the CRC is. -/
theorem tblB_parses {r : List Byte} (h1 : (tblB ++ r).length = 320) (h2 : crc16 ((tblB ++ r).take 318) = fieldAt (tblB ++ r) 318 2) :
    (parseTable (tblB ++ r)).isSome = true := by
  have a : fieldAt (tblB ++ r) 4 1 = 0 := rfl
  have b : fieldAt (tblB ++ r) 6 2 = 2 := rfl
  have c : (List.range 12).map (fun l => fieldAt (tblB ++ r) (8 + 2 * l) 2) = [2, 0, 0, 0, 0, 0, 0, 0, 0, 0, 0, 0] := rfl
  have d : ((tblB ++ r).drop 32).take 2 = [0#8, 1#8] := rfl
  have e : fieldAt (tblB ++ r) 5 1 = 1 := rfl
  have f : zeroAt (tblB ++ r) 288 30 = true := rfl
  have g : zeroAt (tblB ++ r) 34 254 = true := rfl
  unfold parseTable
  dsimp only
  rw [a, b, c, d, e]
  rw [if_pos ⟨h1, h2, f, by decide, by decide, by decide, by decide, by decide, by decide, by decide, by decide, g⟩]
  rfl

/-- A table that is in memory and in no slot yet: the directory entry names its 320 bytes, whose CRC is good. -/
theorem wit_StreamsAndProducts_table :
    let t := tableOfLens 1 1 false [1, 1]
    let s := { base with mm := { base.mm with mem := cellsWrite [] t1Base (tableRecord t) }, tl := { base.tl with dir := [⟨0, 1, 1, t1Base⟩] } }
    (slotsOf s 255).find? (fun e => e.fn == 0 && e.id == 1 && e.gen == 1) = none ∧
      (List.range 16).find? (fun k => !(slotsOf s 255).any (fun e => e.slot == k)) = some 0 ∧ (tableOf s 0 1 1).isSome = true := by
  intro t s
  refine ⟨rfl, rfl, ?_⟩
  have rd : clearPsn (pread s t1Base 320) = tableRecord t := by
    have e : clearPsn (pread s t1Base 320) = cellsRead s.mm.mem t1Base 320 := by
      unfold clearPsn pread cellsRead
      rw [List.map_map]
      refine List.map_congr_left (fun x _ => ?_)
      have m : remapAddr s x = x := by unfold remapAddr; split <;> rfl
      simp only [Function.comp, m, linePsn]
      rfl
    rw [e]
    exact cellsRead_cellsWrite [] t1Base (tableRecord t)
  have hb : tblB.length = 318 := rfl
  have he : tableRecord t = tblB ++ leBytes 2 (crc16 tblB) := rfl
  have cr : fieldAt (tblB ++ leBytes 2 (crc16 tblB)) 318 2 = crc16 tblB := by
    unfold fieldAt
    rw [List.drop_left' hb, List.take_of_length_le (by simp), leNat_leBytes_lt (crc16_lt tblB)]
  show (parseTable (clearPsn (pread s t1Base 320))).isSome = true
  rw [rd, he]
  exact tblB_parses (by simp [hb]) (by rw [List.take_left' hb, cr])

/-! Near-bank units. -/

/-- The module with the last bank pair, stack 15 pair 511, in a region of PF0's. -/
def pairS : State := { base with mm := { base.mm with regions := [⟨pairAddr 15 511 0, 2 ^ 27, 0, .context, 5⟩] } }

/-- BankCommands: commands over the whole of the last bank pair, and one of no sectors. -/
theorem wit_BankCommands_good : notIssued pairS 15 511 = false ∧ drains (base.setFld R.NBU_STACK_CTL.DRAIN 1 15) 15 = true ∧
    ([3, 4, 5, 6, 7, 8] : List Nat).all (fun op => let c := mkCmd pairS op 15 511 0 0 0 0 4194304 0 0 0 0; cmdValid pairS c && !cmdBarred pairS c) = true ∧
    cmdValid pairS (mkCmd pairS 8 15 511 0 0 0 0 0 0 0 0 0) = false := by decide

/-- A row whose page can be written is appended by the NBU command too. -/
theorem doNbuAppend_some {s : State} {c : NbuCmd} {n l r : Nat} {x : Span} (h : spanFor s c.fn n = .ok x)
    (hs : spanFor (s.takeFree 8192) c.fn n = .ok x) (hr : ¬ (x.layerSlots ≤ l ∨ x.appended < r ∨ x.maxTokens ≤ r))
    (hp : pageOk (s.takeFree 8192) n (x.rowAt l r).1 = true) : ∃ t st m, doNbuAppend s c n l r [] = some (t, st, m) := by
  obtain ⟨t, st, sat, e⟩ := kvAppendRow_done (elemsOf (bufRead s c.stack c.operand (8 * x.kvHeads * x.dim))) false c.h hs hr hp
  unfold doNbuAppend
  simp only [h, sectorFaults, List.foldl_nil, e]
  exact ⟨_, _, _, rfl⟩

/-- A row to append. -/
theorem wit_BankCommands_append :
    let s := withPage .t1 (withSpan (span1 0 0))
    notIssued s 15 511 = false ∧ ∃ t st m, doNbuAppend s (mkCmd s 2 15 511 0 0 0 0 0 0 0 0 0) 3 0 0 [] = some (t, st, m) :=
  ⟨by decide, doNbuAppend_some (x := span1 0 0) rfl rfl (by decide) (by decide)⟩

/-- Failures up to the limit and at it. -/
theorem wit_BankCommands_selfCheck :
    let n := base.fld R.NBU_SELFCHECK.FAIL_LIMIT
    (within base.now (Tab.get [] (15 * 512 + 511) base.flt.nbuFails) ++ [base.now]).length < n ∧
      n ≤ (within base.now (List.replicate (n - 1) base.now) ++ [base.now]).length := by decide

/-- A frame that a migration writes stays where it is. -/
theorem evacuateFrame_dest {s : State} {a f n p : Nat} (h : Tab.find? a s.mm.frames = some (.dest f n p)) : evacuateFrame s a = s := by
  unfold evacuateFrame
  simp only [h]
  cases (placeFrame s 8192 (a / 2 ^ 20 + a / 2 ^ 11 % 512 * 16) false).map (·.1) <;> rfl

/-- So a pseudo-channel that holds nothing else keeps it. -/
theorem pcFrames_dest {s : State} {pc a f n p : Nat} (h : pcFrames s pc = [a]) (hd : Tab.find? a s.mm.frames = some (.dest f n p)) :
    (pcFrames ((pcFrames s pc).foldl evacuateFrame s) pc).isEmpty = false := by
  rw [h, List.foldl_cons, List.foldl_nil, evacuateFrame_dest hd, h]
  rfl

/-- The last pseudo-channel, asked for, with a frame that cannot move. -/
def pcS : State := { base with flt := { base.flt with retPcs := [511] }, mm := { base.mm with regions := [], frames := [(511 * 32768, .dest 0 3 0)] } }

/-- The same as the command finds it. -/
def pcU : State := { atTime pcS 0 with flt := { (atTime pcS 0).flt with retPcs := NSet.add 511 (atTime pcS 0).flt.retPcs } }

theorem wit_BankCommands_pc_waits :
    NSet.has 511 pcS.flt.retPcs = true ∧ bitAt ((atTime pcS 0).fld R.NBU_PC_STAT.PC_RETIRED (511 / 32)) (511 % 32) = false ∧
      (pcFrames ((pcFrames pcU 511).foldl evacuateFrame pcU) 511).isEmpty = false :=
  ⟨by decide, by decide, pcFrames_dest (a := 511 * 32768) (f := 0) (n := 3) (p := 0) (by decide) (by decide)⟩

/-- The last pseudo-channel with failed rows at the limit and nothing in it. -/
def pcE : State := { base with flt := { base.flt with pcRows := [(511, [(0, 0), (1, 0), (2, 0), (3, 0)])] }, mm := { base.mm with regions := [] } }

theorem wit_BankCommands_pc_ends :
    (atTime pcE 0).fld R.NBU_SELFCHECK.PC_UE_LIMIT = 4 ∧ pcRowCount (atTime pcE 0) 511 = 4 ∧
      bitAt ((atTime pcE 0).fld R.NBU_PC_STAT.PC_RETIRED (511 / 32)) (511 % 32) = false ∧
      pcFrames { atTime pcE 0 with flt := { (atTime pcE 0).flt with retPcs := NSet.add 511 (atTime pcE 0).flt.retPcs } } 511 = [] :=
  ⟨by decide, by decide, by decide, by decide⟩

/-- BankStepOps: lists of one command on every stack, in both forms, readable, poisoned and out of its buffer; a fence. -/
theorem wit_BankStepOps_lists :
    (([(0, 32), (1, 16)] : List (Nat × Nat)).all (fun v => let s := opS (opB 3 v.1 0xFFFF 0 0 0 0 [1]) (clean base)
     issues s (fun o => o.opcode == 0x03) (fun k => let u := errsMet k (ctlErrs noErrs) (issued s k)
       !maskDrains u k.o.unit_ && k.o.varBit 0 == decide (v.1 = 1) &&
       (operand u k k.o.src0 k.anyTile 0 (k.o.arg0 * v.2) false).any (fun a => let r := locRead u k.h a (k.o.arg0 * v.2)
         !anyPsn r.1 && (parseCmds u k (k.o.varBit 0) (rawBytes r.1)).all (fun c => c.all (fun c => !drains u c.stack && c.op != 2))))) = true) ∧
    (let t := opS (opB 3 0 0xFFFF 0 0 0 0 [1]) (clean base)
     let s := { t with mm := { t.mm with psn := [(t1Base + 0x100000) / 32] } }
     issues s (fun o => o.opcode == 0x03) (fun k => let u := errsMet k (ctlErrs noErrs) (issued s k)
       (operand u k k.o.src0 k.anyTile 0 (k.o.arg0 * 32) false).any (fun a => anyPsn (locRead u k.h a (k.o.arg0 * 32)).1)) = true) ∧
    (let s := opS (opB 3 0 0xFFFF 0 0 0 0 [2049]) (clean base)
     issues s (fun o => o.opcode == 0x03) (fun k => (operand (errsMet k (ctlErrs noErrs) (issued s k)) k k.o.src0 k.anyTile 0 (k.o.arg0 * 32) false).isNone) = true) ∧
    issues (opS (opB 4 0 0 0 0 0 0 [])) (fun o => o.opcode == 0x04) (fun _ => true) = true := by decide

/-- A weight set that just fits its sixteen stacks, and one that does not. -/
theorem wit_BankStepOps_weights :
    (([256, 255] : List Nat).all (fun n => let s := withProg (image [bufB 1 0 65536, bufB 5 0 n] [opB 2 0 0xFFFF 0 1 0 0 []]) ctx1 (clean base)
     issues s (fun o => o.opcode == 0x02) (fun k => !maskDrains (errsMet k (ctlErrs noErrs) (issued s k)) k.o.unit_ &&
       wsetFits k == decide (n = 256)))) = true := by decide

/-- A fill of one sector, and the same over a bundle. -/
theorem wit_BankStepOps_cmds :
    let c := mkCmd pairS 8 15 511 0 0 0 0 1 0 0 0 0
    let b := { base with mm := { base.mm with regions := [⟨pairAddr 15 511 0, 2 ^ 27, 0, .bundle, 0⟩] } }
    cmdBarred pairS c = false ∧ (nbuRun pairS c [] []).isSome = true ∧ cmdBarred b c = true := by decide

/-- Vectors in the banks, of the kinds of ELEMWISE_BANK, and one out of its buffer. -/
theorem wit_BankStepOps_elemwise :
    (let s := opS (opB 10 0 0xFFFF 0 0 0 0 [0, 16384]) (clean base)
     issues s (fun o => o.opcode == 0x0A && o.var == 0) (fun k => !maskDrains (errsMet k (ctlErrs noErrs) (issued s k)) k.o.unit_ &&
       (operand (errsMet k (ctlErrs noErrs) (issued s k)) k k.o.src0 k.anyTile 0 (vecBytes true k.o.arg1) true).isSome) = true) ∧
    ([1, 2] : List Nat).all (fun v =>
      let s := opS (opB 10 v 0xFFFF 0 0 0 0 [0, 1]) (clean base)
      issues s (fun o => o.opcode == 0x0A && o.var == v) (fun k => !maskDrains (errsMet k (ctlErrs noErrs) (issued s k)) k.o.unit_ &&
       (operand (errsMet k (ctlErrs noErrs) (issued s k)) k k.o.src0 k.anyTile 0 (vecBytes false k.o.arg1) true).isSome &&
        (operand (errsMet k (ctlErrs noErrs) (issued s k)) k k.o.src1 k.anyTile 0 (vecBytes true k.o.arg1) false).isSome)) = true ∧
    (let s := withProg (image [bufB 1 0 65536, bufB 1 0 1] [opB 10 1 0xFFFF 0 1 0 0 [0, 1]]) ctx1 (clean base)
     issues s (fun o => o.opcode == 0x0A && o.var == 1) (fun k =>
       (operand (errsMet k (ctlErrs noErrs) (issued s k)) k k.o.src0 k.anyTile 0 (vecBytes true k.o.arg1) true).isSome &&
       (operand (errsMet k (ctlErrs noErrs) (issued s k)) k k.o.src1 k.anyTile 0 (vecBytes true k.o.arg1) false).isNone) = true) ∧
    ([0, 1, 2] : List Nat).all (fun v =>
      let s := opS (opB 10 v 0xFFFF 0 0 0 0 [0, 32769]) (clean base)
      issues s (fun o => o.opcode == 0x0A && o.var == v) (fun k => !maskDrains (errsMet k (ctlErrs noErrs) (issued s k)) k.o.unit_ &&
       (operand (errsMet k (ctlErrs noErrs) (issued s k)) k k.o.src0 k.anyTile 0 (vecBytes true k.o.arg1) true).isNone)) = true := by decide

/-- GovernorAndRefresh: refreshes up to the limit and at it; a window without and with transfers that stay held. -/
theorem wit_GovernorAndRefresh :
    (let s := base.setFld R.NBU_REF_CTL.POSTPONE_MAX 1 15
     Tab.get 0 (15 * 512 + 511) s.nbu.postponed < s.fld R.NBU_REF_CTL.POSTPONE_MAX 15 ∧
     s.fld R.NBU_REF_CTL.POSTPONE_MAX 15 ≤ Tab.get 0 (15 * 512 + 511) (Tab.put 0 (15 * 512 + 511) 1 s.nbu.postponed)) ∧
    (let run (l : List (Bool × Nat)) := (govWindow (allowanceOf base 15) (govFloor base 15 (allowanceOf base 15) true)
       (govFloor base 15 (allowanceOf base 15) false) ((base.stack 15).held ++ l)).2.2
     run [] = [] ∧ run [(true, 2 ^ 40)] ≠ []) := by decide

/-! Merges, rings and collectives. -/

/-- A program of one ATTN_MERGE whose buffer is receive queue 1024. -/
def mergeS (n : Nat) (items : List QItem) : State :=
  (withProg (image [bufB 6 0 0, bufB 1 0 65536] [opB 0x11 0 0 0 0 1 0xFFFF [n, 1]]) { ctx1 with queues := [1024] } (clean base)).setQueue 1024
    { queue1 1 false 0 with items := items }

/-- A record of head 0 with no rows, of the present epoch and generation 0. -/
def rec0 : List Byte := recordBytes 0 0 0 0 base.epoch 64 false false false (emptyPart 64 0)

/-- MergeOps: a merge op without a receive queue, one whose queue was flushed, and ones with as many records as they expect and fewer. -/
theorem wit_MergeOps_ops :
    issues (opS (opB 0x11 0 0 0 0 0 0xFFFF [1, 1])) (fun o => o.opcode == 0x11) (fun k => (recvQueue k k.o.src0).isNone) = true ∧
    (let s := mergeS 1 [⟨[], false, 0, 0, 0, 4, true⟩]
     issues s (fun o => o.opcode == 0x11) (fun k => recvQueue k k.o.src0 == some 1024 && (mergeRef (issued s k) k).isSome &&
       ((issued s k).queue? 1024).any (fun x => x.waiting.head?.any (·.marker))) = true) ∧
    ([1, 2] : List Nat).all (fun n =>
      let s := mergeS n [⟨rec0, false, 0, 1, 0, 9, false⟩]
      issues s (fun o => o.opcode == 0x11) (fun k => recvQueue k k.o.src0 == some 1024 && (mergeRef (issued s k) k).any (fun ref =>
       ref < 2 ^ 24 && ((issued s k).queue? 1024).any (fun x => (Tab.find? (mergeKey k.h k.idx) s.attn.merges).isNone &&
         (parseRecord 0 1 false rec0).any (fun r =>
           x.waiting.map (fun i => (i.marker, parseRecord i.node i.contrib i.psn i.bytes)) == [(false, some r)] &&
           decide (r.qhead < k.o.arg1) && r.epoch == s.epoch && r.gen % 2 ^ 24 == ref && (n == 1) == decide (k.o.arg0 * k.o.arg1 ≤ r.contrib) &&
           (let m : MergeSt := ⟨[r], [], .ok, [], 1, s.epoch⟩
            let u := (issued s k).setQueue 1024 (takeAll s.now x.waiting.length x)
            n == 2 || (mergedHead k m 0).any (fun p =>
              (operand { u with attn := { u.attn with merges := Tab.del (mergeKey k.h k.idx) u.attn.merges } } k k.o.dst k.anyTile 0
                (mergeOut k 0 p).length true).isSome)))))) ) = true := by decide

/-- A remote partial and a merge with a newer record at their timeout, and before it. -/
theorem wit_MergeOps_timeouts :
    (let s := { base with attn := { base.attn with waits := [(4, waitQ false)] } }
     let t := s.fld R.ATTN_CTL.REMOTE_TIMEOUT * 1000
     (waitOf (atTime s t) 4).any (fun p => decide (p.2.since + (atTime s t).fld R.ATTN_CTL.REMOTE_TIMEOUT * 1000 ≤ (atTime s t).now)) = true ∧
     (waitOf (atTime s 0) 4).any (fun p => decide ((atTime s 0).now < p.2.since + (atTime s 0).fld R.ATTN_CTL.REMOTE_TIMEOUT * 1000)) = true) ∧
    (let r : PartRec := ⟨1, 0, 0, 0, false, false, false, 1, 0, 1, emptyPart 64 0⟩
     let t := mergeS 1 []
     let s := { t with attn := { t.attn with merges := [(mergeKey 5 0, ⟨[], [(r, 0)], .ok, [], 0, 0⟩)] } }
     let late (u : State) (r : PartRec × Nat) : Bool := decide (r.2 + u.fld R.ATTN_CTL.REMOTE_TIMEOUT * 1000 ≤ u.now)
     let u := atTime s (s.fld R.ATTN_CTL.REMOTE_TIMEOUT * 1000)
     let v := atTime s 0
     (Tab.find? (mergeKey 5 0) u.attn.merges).any (fun m => m.newer.any (late u)) = true ∧ (opCtxOf u 5 0).isSome = true ∧
     (Tab.find? (mergeKey 5 0) v.attn.merges).any (fun m => m.newer.all (fun r => !late v r)) = true ∧ (opCtxOf v 5 0).isSome = true) := by decide

/-- Ring parameters of two members over span 3, with slots and tables in a region of PF0's. -/
def ringP (epoch : Nat) : RingParams :=
  { members := [0, 1], position := 0, bothWays := false, span := 3, slot := 0, kvHeads := 1, dim := 64, fmt := .kv8, ilog := 0, strided := false
    length := 16, queries := 1, hPerKv := 1, posQ0 := 0, sQk := 0#32, bias := t1Base + 0x200000, window := 0, sinks := 0, segStart := 0, oBf16 := false
    tentative := false, epoch := epoch, slots := t1Base + 0x300000, slotBytes := 2 ^ 18, creditFwd := 0, creditBwd := 0 }

/-- A RING op of PF0, with counters and the region. -/
def ringOpS (s : State := withSpan (span1 0 0) (clean base)) : State :=
  let t := opS (opB 0x13 0 0 0 0 0 0 []) (cnts 0 s)
  { t with mm := { t.mm with regions := [⟨t1Base + 0x200000, 2 ^ 21, 0, .context, 5⟩] } }

/-- It may issue with no ring in progress, and `p` holds of the state it meets. -/
def ringIs (s : State) (p : State → OpCtx → Bool) : Bool :=
  issues s (fun o => o.opcode == 0x13) (fun k => let v := errsMet k noErrs (issued s k); (Tab.find? k.h v.attn.rings).isNone && p v k)

/-- The ring may go as far as its operands. -/
def ringGoes (v : State) (k : OpCtx) (p : RingParams) : Bool :=
  Machine.ringOk p && (match spanIf v k.c.fn p.span (shapeOk p) with | .ok _ => true | .error _ => false) && epochAccepted v p.epoch &&
    !p.both.any (nodeLost v)

/-- MergeAndRing: parameters out of range, a span of another shape, an epoch that is not this one, a neighbour lost, a counter that PF0 has not,
queries past the buffer, a page of the block gone. -/
theorem wit_MergeAndRing_turned :
    ringIs (ringOpS) (fun v _ => !Machine.ringOk { ringP v.epoch with members := [0] }) = true ∧
    ringIs (ringOpS) (fun v k => Machine.ringOk { ringP v.epoch with slot := 1 } &&
      match spanIf v k.c.fn 3 (shapeOk { ringP v.epoch with slot := 1 }) with | .error _ => true | .ok _ => false) = true ∧
    ringIs (ringOpS) (fun v k => Machine.ringOk (ringP (v.epoch + 1)) && !epochAccepted v (v.epoch + 1) &&
      match spanIf v k.c.fn 3 (shapeOk (ringP (v.epoch + 1))) with | .error _ => false | .ok _ => true) = true ∧
    ringIs (ringOpS ((withSpan (span1 0 0) (clean base)).setFld R.MER_LOST.NODE_MAP 2)) (fun v _ => epochAccepted v v.epoch &&
      (ringP v.epoch).both.any (nodeLost v)) = true ∧
    ringIs (ringOpS) (fun v k => ringGoes v k { ringP v.epoch with creditFwd := 4 } && !ringPlaces v k.c.fn { ringP v.epoch with creditFwd := 4 }) = true ∧
    ringIs (ringOpS) (fun v k => let p := { ringP v.epoch with queries := 257 }
      ringGoes v k p && ringPlaces v k.c.fn p && (operand v k k.o.src0 k.anyTile 0 (4 * (p.queries * p.kvHeads * p.hPerKv * p.dim)) false).isNone) = true ∧
    ringIs (ringOpS (withPage .holed (withSpan (span1 1 1) (clean base)))) (fun v k => let p := ringP v.epoch
      ringGoes v k p && ringPlaces v k.c.fn p && (operand v k k.o.src0 k.anyTile 0 256 false).isSome &&
        (ringBlock v (span1 1 1) p 1).any (pageGone v 3)) = true := by decide

/-- A ring whose block is empty goes as far as its halves. -/
theorem wit_MergeAndRing_goes : ringIs (ringOpS) (fun v k => let p := ringP v.epoch
    ringGoes v k p && ringPlaces v k.c.fn p && (operand v k k.o.src0 k.anyTile 0 256 false).isSome && (ringBlock v (span1 0 0) p 0).isEmpty) = true := by
  decide

/-- No raw batts of a page take more than nine times 16,416 bytes. -/
theorem rawBatts_le (w : Bool) (c : Nat) : ∀ (k : Nat) (l : List Nat), battsLen (encodeBatts none w c k l) ≤ k * 16416 := by
  have one : ∀ (f : Bool) (l : List Nat), l.length ≤ 16384 → (encodeBatt none w f c l).length ≤ 16416 := by
    intro f l h
    simp only [encodeBatt, encodeRaw, headerBytes, List.length_append, leBytes, List.length_cons, List.length_nil, List.length_replicate, padTo,
      List.length_take, rawUnits, ceilDiv]
    split_ifs <;> omega
  have fold : ∀ (l : List Nat) (a : Nat), l.foldl (· + ·) a = a + l.foldl (· + ·) 0 := by
    intro l
    induction l with
    | nil => simp
    | cons b l ih => intro a; rw [List.foldl_cons, List.foldl_cons, ih (a + b), ih (0 + b)]; omega
  intro k
  induction k with
  | zero => intro l; simp [encodeBatts, battsLen]
  | succ k ih =>
    intro l
    cases l with
    | nil => simp [encodeBatts, battsLen]
    | cons a l =>
      have := ih ((a :: l).drop 16384)
      have h1 := one (decide ((a :: l).length ≤ 16384)) ((a :: l).take 16384) (by simp)
      simp only [encodeBatts, battsLen, List.map_cons, List.foldl_cons] at *
      rw [fold]
      omega

/-- Its half, one page of no rows, fits a slot of 256 KiB, and none of no bytes. -/
theorem wit_MergeAndRing_halves (s : State) (p : RingParams) : p.bothWays = false →
    (∀ l ∈ ringHalves s p (span1 0 0) 0 0 [], halfSize l ≤ 2 ^ 18) ∧ (∃ l ∈ ringHalves s p (span1 0 0) 0 0 [], 0 < halfSize l) := by
  intro hb
  have z : ∀ (m : List (List Byte)) (f : List Byte × Nat → Bool), (m.zipIdx.map (fun b => (b.1, f b))).map (·.1) = m := by
    intro m f
    apply List.ext_getElem <;> simp
  have e : ∃ bs, (ringBatts s (span1 0 0) pte0 0 false).map (·.1) = encodeBatts none (span1 0 0).wide 2 9 bs := by
    unfold ringBatts
    dsimp only
    rw [if_neg (by decide), if_neg (by decide), z]
    exact ⟨_, rfl⟩
  have sz : ∀ (t : List Byte) (b : List (List Byte × Bool)), t.length = 0 → (∃ bs, b.map (·.1) = encodeBatts none (span1 0 0).wide 2 9 bs) →
      32 ≤ ringSize t b ∧ ringSize t b ≤ 2 ^ 18 := by
    intro t b ht ⟨bs, hb⟩
    have := rawBatts_le (span1 0 0).wide 2 9 bs
    unfold ringSize
    rw [hb, ht]
    omega
  have one : ∀ r : RingSend, halfSize [r] = ringSize r.table r.batts := by
    intro r
    simp [halfSize]
  have h : ∀ l ∈ ringHalves s p (span1 0 0) 0 0 [], 32 ≤ halfSize l ∧ halfSize l ≤ 2 ^ 18 := by
    intro l hl
    rw [ringHalves, hb, if_neg (by simp), List.mem_singleton] at hl
    subst hl
    rw [ringHalf, one]
    exact sz _ _ (by show (ringTable (span1 0 0)).length = 0; decide) e
  refine ⟨fun l hl => (h l hl).2, ?_⟩
  have ne : ringHalves s p (span1 0 0) 0 0 [] = [ringHalf s p (span1 0 0) 0 0 0 []] := by rw [ringHalves, hb, if_neg (by simp)]
  exact ⟨_, by rw [ne]; exact List.mem_singleton.mpr rfl, by have := (h _ (by rw [ne]; exact List.mem_singleton.mpr rfl)).1; omega⟩

/-- A ring in progress on context 5, whose span is there or gone. -/
def ringS (there : Bool) (par : RingParams) : State :=
  let s := withProg nopImg ctx1 (if there then withSpan (span1 0 0) else base)
  { s with attn := { s.attn with rings := [(5, ⟨0, par, req0 0, [], [], [], [], 0, [], [], (0, 0), []⟩)] } }

/-- A page header of member 1, of an epoch. -/
def ringHd (epoch : Nat) : List Byte :=
  let b := leBytes 2 1 ++ leBytes 1 1 ++ leBytes 5 0 ++ leBytes 2 epoch ++ leBytes 20 0
  b ++ leBytes 2 (crc16 b)

/-- Pages malformed, of a newer epoch, of an older one, of this one, whose span is gone, and one byte too long for a slot. -/
theorem wit_MergeAndRing_pages :
    (let s := ringS true (ringP 0)
     let u := atTime s 0
     Tab.find? 5 base.attn.rings = none ∧ (Tab.find? 5 s.attn.rings).any (fun g => !ringHeaderOk g.par [] &&
       ringHeaderOk g.par (ringHd 1) && epochNewer u (fieldAt (ringHd 1) 8 2) && ringHeaderOk g.par (ringHd 65535) &&
       !epochNewer u (fieldAt (ringHd 65535) 8 2) && !epochAccepted u (fieldAt (ringHd 65535) 8 2) && ringHeaderOk g.par (ringHd 0) &&
       !epochNewer u (fieldAt (ringHd 0) 8 2) && epochAccepted u (fieldAt (ringHd 0) 8 2) && fieldAt (ringHd 0) 8 2 == g.par.epoch &&
       (u.span? g.par.span).isSome && decide (ringFilled g (ringStep g.par 1 0) 0 + ringSize [] [] ≤ g.par.slotBytes)) = true) ∧
    (let s := ringS false { ringP 0 with slotBytes := 31 }
     ((atTime s 0).span? 3).isNone = true ∧ (Tab.find? 5 s.attn.rings).any (fun g =>
       decide (g.par.slotBytes < ringFilled g (ringStep g.par 1 0) 0 + ringSize [] [])) = true) := by decide

/-- Closes of every kind: newer, stale, of an origin unknown, and to be noted; a ring at its timeout and before it. -/
theorem wit_MergeAndRing_closes :
    let s := ringS true (ringP 0)
    let u := atTime s 0
    epochNewer u 1 = true ∧ epochNewer u 65535 = false ∧ epochAccepted u 65535 = false ∧ epochNewer u 0 = false ∧ epochAccepted u 0 = true ∧
    (Tab.find? 5 s.attn.rings).any (fun g => g.par.epoch == 0 && decide (g.par.n ≤ 2) && decide (1 < g.par.n) && g.par.position != 1 &&
      !g.closes.any (fun c => c.1 == 1) &&
      (let t := (atTime s 0).fld R.ATTN_CTL.REMOTE_TIMEOUT * 1000
       decide (g.last + (atTime s t).fld R.ATTN_CTL.REMOTE_TIMEOUT * 1000 ≤ (atTime s t).now) &&
         decide ((atTime s 0).now < g.last + (atTime s 0).fld R.ATTN_CTL.REMOTE_TIMEOUT * 1000))) = true := by decide

/-- Rings to finish: with a close of another generation, and with a place for what they write, or none. -/
theorem wit_MergeAndRing_finish :
    let s (n : Nat) := withProg (image [bufB 1 0 n] [opB 0x13 0 0 0 0 0 0 []]) ctx1 (clean base)
    let g : RingSt := ⟨0, ringP 0, req0 0, [], [(1, 4)], [(1, 5)], [], 0, [], [], (0, 0), []⟩
    let stale (g : RingSt) := g.gens.any (fun o => match Tab.find? o.1 g.closes with
      | some c => decide ((c % 2 ^ 24 + 2 ^ 24 - o.2) % 2 ^ 24 ≠ 0)
      | none => false)
    let len := (((g.rows.foldl (fun l r => ringIns r l) []).map (·.parts)).foldl mergeHeads
      (List.replicate (g.par.queries * g.par.kvHeads * g.par.hPerKv) (emptyPart g.par.dim 0))).flatMap (fun p => outBytesOf false p.psn (finishPart p)) |>.length
    stale g = true ∧ stale { g with closes := [(1, 4)] } = false ∧
      (opCtxOf (s 256) 5 0).any (fun k => (operand (s 256) k k.o.dst k.anyTile 0 len true).isSome) = true ∧
      (opCtxOf (s 255) 5 0).any (fun k => (operand (s 255) k k.o.dst k.anyTile 0 len true).isNone) = true := by decide

/-- Group 7, whose root is member 0, node 0, and whose other member is node 1. -/
def grp7 (root : Nat) : List Byte :=
  leBytes 2 7 ++ leBytes 2 2 ++ leBytes 2 root ++ leBytes 1 1 ++ leBytes 1 0 ++ leBytes 2 0 ++ leBytes 2 (if root = 0 then 0xFFFF else 1) ++
    leBytes 2 1 ++ leBytes 2 (if root = 0 then 0 else 0xFFFF)

/-- A program of a COLLECTIVE of a kind on a group, this module member 0 of group 7, and collectives in progress. -/
def collS (kind group count : Nat) (colls : List (CollKey × CollSt)) (root : Nat := 0) : State :=
  let img := image [bufB 1 0 65536] [opB 0x18 kind 0 0 0 0 0 [group, count]] (grp7 root)
  let s := withProg img ctx1 (clean base)
  { s with sch := { s.sch with programs := [(0, ⟨0, 9, t1Base, img.length, [(7, 0)]⟩)] }, attn := { s.attn with colls := colls } }

/-- A collective of one element: kind, own contribution, children's, the program known or not, and how it failed. -/
def coll1 (kind : Nat) (own : Option (List PElem)) (kids : List (Nat × List PElem)) (prog : Bool := true) (failed : Option Status := none)
    (who : Option (Nat × Nat) := none) : CollSt := ⟨kind, 1, false, 0, own, kids, who, if prog then some 0 else none, failed, false, 0⟩

/-- The op may issue and is not issued yet; and what `p` says. -/
def collIs (s : State) (kind : Nat) (p : State → OpCtx → Bool) : Bool :=
  issues s (fun o => o.opcode == 0x18 && o.var % 4 == kind) (fun k => let v := errsMet k noErrs (issued s k)
    !v.attn.colls.any (fun p => p.2.who == some (k.h, k.idx)) && p v k)

/-- CollectivesRun: ops of every kind on a group that the program has not; one that has failed; operands past the buffer; and ones that go, where
nothing came before, or a contribution. -/
theorem wit_CollectivesRun_ops : ([0, 1, 2, 3] : List Nat).all (fun kind =>
    collIs (collS kind 6 1 []) kind (fun v k => (progTree v k.q k.o.arg0).isNone) &&
    collIs (collS kind 7 1 [((7, 0, 0), coll1 kind none [] false (some .timeout))]) kind (fun v k => (progTree v k.q k.o.arg0).isSome &&
      (collFailed v k.o.arg0 (k.c.stepCtr * 65536 + k.idx)).isSome) &&
    (let goes (v : State) (k : OpCtx) := (progTree v k.q k.o.arg0).any (fun g => (collFailed v k.o.arg0 (k.c.stepCtr * 65536 + k.idx)).isNone &&
       decide (collInFlight v k.c.program g.1.id < g.1.depth))
     collIs (collS kind 7 16385 []) kind (fun v k => goes v k && ([0, 1, 2, 3] : List Nat).all (fun n => (collOwn v k true n).isNone)) &&
     collIs (collS kind 7 1 []) kind (fun v k => goes v k && ([0, 1, 2, 3] : List Nat).all (fun n => (collOwn v k true n).any (fun o =>
       (coll? o.2 (k.o.arg0, k.c.stepCtr * 65536 + k.idx, v.epoch)).isNone))) &&
     collIs (collS kind 7 1 [((7, 0, 0), coll1 kind none [(1, [(0#32, false)])] false)]) kind (fun v k => goes v k && ([0, 1, 2, 3] : List Nat).all (fun n =>
       (collOwn v k true n).any (fun o => (coll? o.2 (k.o.arg0, k.c.stepCtr * 65536 + k.idx, v.epoch)).isSome))))) = true := by decide

/-- A node of group 7, root or not, that has its own contribution, with its child's or without. -/
def nodeIs (root kind : Nat) (kids : List (Nat × List PElem)) (p : Group → Nat → CollSt → Bool) : Bool :=
  let s := collS 0 7 1 [((7, 0, 0), coll1 kind (some [(0#32, true)]) kids)] root
  (coll? s (7, 0, 0)).any (fun c => c.prog.isSome && c.failed.isNone && (treeOf s (7, 0, 0)).any (fun t =>
    !(treeNodes t.1 t.2).any (nodeLost s) && p t.1 t.2 c))

/-- Nodes that are whole and not, at the root and below it, of every kind. -/
theorem wit_CollectivesRun_nodes :
    ([0, 1] : List Nat).all (fun kind => nodeIs 0 kind [(1, [(0#32, false)])] (fun g i c => c.kind == kind && collHas c (kidsOf g i) && i == g.root) &&
      nodeIs 0 kind [] (fun g i c => c.kind == kind && !collHas c (kidsOf g i)) &&
      nodeIs 1 kind [] (fun g i c => c.kind == kind && collHas c (kidsOf g i) && i != g.root)) = true ∧
    nodeIs 0 2 [] (fun g i c => c.kind == 2 && i == g.root) = true ∧
    nodeIs 1 2 [(0, [(0#32, false)])] (fun g i c => c.kind == 2 && i != g.root && !c.kids.isEmpty) = true ∧
    nodeIs 0 3 [(1, [(0#32, false)])] (fun g i c => c.kind == 3 && collHas c ((subtree g i).filter (fun j => j != i)) && i == g.root) = true ∧
    nodeIs 1 3 [] (fun g i c => c.kind == 3 && collHas c ((subtree g i).filter (fun j => j != i)) && i != g.root) = true := by decide

/-- Contributions for no tree, of one left behind, of a failed one, that differ, of a newer epoch, that are kept, and the root's, before the op
and after it. -/
theorem wit_CollectivesRun_arrivals :
    let s (l : List (CollKey × CollSt)) := atTime (collS 0 7 1 l) 0
    treeOf (s []) (6, 0, 0) = none ∧ (treeOf (s []) (7, 0, 65535)).isSome = true ∧ epochNewer (s []) 65535 = false ∧ epochAccepted (s []) 65535 = false ∧
    (coll? (s [((7, 0, 0), coll1 0 none [] false (some .timeout))]) (7, 0, 0)).any (fun c => c.failed.isSome) = true ∧ epochAccepted (s []) 0 = true ∧
    (coll? (s [((7, 0, 0), coll1 1 none [])]) (7, 0, 0)).any (fun c => c.failed.isNone && c.kind != 0) = true ∧
    (coll? (s []) (7, 0, 1)).isNone = true ∧ epochNewer (s []) 1 = true ∧ epochNewer (s []) 0 = false ∧
    (coll? (s [((7, 0, 0), coll1 1 none [])]) (7, 0, 0)).any (fun c => c.failed.isNone && c.kind == 1 && c.count == 1 && !c.bf16 && c.prog.isSome) = true := by
  decide

/-- A collective before its timeout and at it, of no op and of one; and a marker for a failed one and for another. -/
theorem wit_CollectivesRun_timeout :
    let s (failed : Option Status) (who : Option (Nat × Nat)) := collS 0 7 1 [((7, 0, 0), coll1 0 none [] true failed who)]
    let u := atTime (s none none) ((s none none).fld R.COMB_CTL.COLL_TIMEOUT * 1000)
    let v := atTime (s none (some (5, 0))) ((s none none).fld R.COMB_CTL.COLL_TIMEOUT * 1000)
    let due (u : State) (c : CollSt) := decide (c.since + u.fld R.COMB_CTL.COLL_TIMEOUT * 1000 ≤ u.now)
    (coll? u (7, 0, 0)).any (fun c => c.failed.isNone && c.who.isNone && due u c) = true ∧ (treeOf u (7, 0, 0)).isSome = true ∧
    (coll? v (7, 0, 0)).any (fun c => c.failed.isNone && c.who == some (5, 0) && due v c) = true ∧ (treeOf v (7, 0, 0)).isSome = true ∧
    ((s none (some (5, 0))).ctx? 5).isSome = true ∧
    (coll? (atTime (s none none) 0) (7, 0, 0)).any (fun c => !due (atTime (s none none) 0) c) = true ∧
    (coll? (s (some .timeout) none) (7, 0, 0)).any (fun c => c.failed.isSome) = true ∧ (treeOf (s (some .timeout) none) (7, 0, 0)).isSome = true ∧
    (coll? (s none none) (7, 0, 0)).any (fun c => c.failed.isNone) = true := by decide

/-! Pages. -/

/-- Page 0 of span 3 in a tier and its frame in use, old enough to go. -/
def oldS : State :=
  let s := withPage .t1 (withSpan (span1 2 2))
  let s := { s with mm := { s.mm with fresh2 := true, frames := [(100, .page 0 3 0)] } }
  let s := s.setPte 3 0 { s.pte 3 0 with age := 7 }
  ((s.setFld R.PAGE_CTL.MIG_ENABLE 1).setFld R.PAGE_LOWATER.FRAMES 1).setFld R.FN_T2_CEIL 17

/-- The module as it demotes that page. -/
def oldV : State := let u := engineMet noErrs oldS; { u with pg := { u.pg with demoting1 := true } }

/-- A run of T2 granules is found for every length that a coded page may take. -/
theorem oldV_run : ∀ n < 17, (findRun oldV (1 + n)).isSome = true ∧ fnT2 oldV 0 + (1 + n) ≤ oldV.fld R.FN_T2_CEIL 0 := by decide

/-- Its span with a code table, and the granules that its page takes coded. -/
def oldY : Span := withTable oldV (span1 2 2) (oldV.pte 3 0)

/-- PagingCommands: a page of T1 to demote, T1 at its low mark. -/
theorem wit_PagingCommands_demote :
    (oldS.pow.st = .on ∧ (engineMet noErrs oldS).flag R.PAGE_CTL.MIG_ENABLE = true ∧ t1Free (engineMet noErrs oldS) < (engineMet noErrs oldS).fld R.PAGE_LOWATER.FRAMES ∧
      oldest (twilight oldV .t1) = some (3 * 2 ^ 31, oldV.pte 3 0) ∧ oldV.span? 3 = some (span1 2 2)) ∧
    fnT2 oldV oldY.fn + codedGranules oldV oldY (oldV.pte 3 0) ≤ oldV.fld R.FN_T2_CEIL oldY.fn ∧
    ∃ g, findRun oldV (codedGranules oldV oldY (oldV.pte 3 0)) = some g := by
  obtain ⟨m, hm, e⟩ : ∃ m, m < 17 ∧ codedGranules oldV oldY (oldV.pte 3 0) = 1 + m := by
    unfold codedGranules
    generalize ceilDiv _ 4096 = c
    exact ⟨max 1 (min 17 c) - 1, by omega, by omega⟩
  rw [e]
  obtain ⟨r, c⟩ := oldV_run m hm
  exact ⟨by decide, c, Option.isSome_iff_exists.mp r⟩

/-- The water marks just cleared, T1 and T2, and migrations off; nothing to demote; and T2 below its low mark with a lender's room, and without. -/
theorem wit_PagingCommands_marks :
    (let u := engineMet noErrs (clean ((((base.setFld R.PAGE_LOWATER.FRAMES 0).setFld R.PAGE_HIWATER.FRAMES 0).setFld R.PAGE_T2_WATER.LOW 0).setFld
        R.PAGE_T2_WATER.HIGH 0))
     u.fld R.PAGE_LOWATER.FRAMES ≤ t1Free u ∧ u.fld R.PAGE_HIWATER.FRAMES < t1Free u ∧ u.fld R.PAGE_T2_WATER.LOW ≤ t2Free u ∧
       u.fld R.PAGE_T2_WATER.HIGH < t2Free u) ∧
    (engineMet noErrs (base.setFld R.PAGE_CTL.MIG_ENABLE 0)).flag R.PAGE_CTL.MIG_ENABLE = false ∧
    (let u := engineMet noErrs ((base.setFld R.PAGE_CTL.MIG_ENABLE 1).setFld R.PAGE_LOWATER.FRAMES 1)
     u.flag R.PAGE_CTL.MIG_ENABLE = true ∧ t1Free u < u.fld R.PAGE_LOWATER.FRAMES ∧ oldest (twilight u .t1) = none) ∧
    (let s := (((withPage .t2 (withSpan (span1 2 2))).setFld R.PAGE_CTL.MIG_ENABLE 1).setFld R.PAGE_T2_WATER.LOW 1).setFld R.FN_T3_CEIL 1
     let s := { s.setPte 3 0 { s.pte 3 0 with age := 7 } with mm := { s.mm with runs := [(0, 1, .page 0 3 0)] } }
     let u := engineMet noErrs s
     let v := { u with pg := { u.pg with demoting2 := true } }
     let w := { v with pg := { v.pg with offers := [(9, ⟨9, 1, false⟩)] } }
     u.flag R.PAGE_CTL.MIG_ENABLE = true ∧ t2Free u < u.fld R.PAGE_T2_WATER.LOW ∧ t3Room v none = none ∧ t3Room w none = some 9 ∧
       (oldest ((twilight w .t2).filter (fun p => t3May w p.1))).isSome = true) := by decide

/-- A page of T2 to promote, and one that no migration moves and one that one does; every kind of migration. -/
theorem wit_PagingCommands_promote :
    let s := (clean (withPage .t2 (withSpan (span1 2 2)))).setFld R.PAGE_CTL.MIG_ENABLE 1
    let u := poisonBatts (engineMet noErrs s) 3 0 (badOf noErrs.batts 0)
    (u.span? 3).any (fun x => let e := u.pte 3 0
      !e.mig && e.st == .t2 && !e.crcBad && u.flag R.PAGE_CTL.MIG_ENABLE && (allocFrame u x.fn (rotIndex x 0)).isSome) = true ∧
    migOf (engineMet noErrs s) 3 0 = none ∧ (migOf (engineMet noErrs (setMig s 3 0 ⟨.t2t1, 200, 0, 0, 0, 0⟩)) 3 0).isSome = true := by decide

/-- A page that the module takes from a borrower with a key. -/
theorem wit_PagingCommands_lent :
    let s := { clean base with pg := { base.pg with lendings := [(9, ⟨9, 1, false⟩)], lentKeys := [9 * 64] } }
    let u := engineMet noErrs s
    let l := { lent9.page with batts := [List.replicate 64 1#8] }
    (Tab.find? l.node u.pg.lendings).any (fun d => decide (u.pg.lent.countP (fun p => p.2.page.node == l.node) < d.gib * 16384)) = true ∧
      NSet.has (l.node * 64 + l.fn) u.pg.lentKeys = true ∧ Tab.find? 2 u.pg.lent = none ∧
      (findRun u (max 1 (min 17 (ceilDiv (battsLen l.batts) 4096)))).isSome = true := by decide

/-- A descriptor and a context's op that wait for a frame. -/
theorem wit_PagingCommands_waits :
    (let s := waitFrame base (.desc 0 0 0) false []
     s.pg.waits.any (fun p => p.1 == Who.desc 0 0 0) = true) ∧
    (let s := waitFrame (opS (opB 0x14 0 0 0 0 0 0 []) base { ctx1 with op := 1, inflight := [0] }) (.ctx 5) false []
     s.pg.waits.any (fun p => p.1 == Who.ctx 5) = true ∧ frameOp (endWait s (.ctx 5)) 5 = some 0) := by decide

/-- LendingCommands: lendings within the 1,024 keys and past them; recalls not due; one due with its page still out, and one with the page gone;
a page to recall and none; a borrower's last page and not. -/
theorem wit_LendingCommands :
    (([0] : List Nat).foldl (fun l f => NSet.add (9 * 64 + f) l) base.pg.lentKeys).length ≤ 1024 ∧
    (let s := { base with pg := { base.pg with lentKeys := List.range 1024 } }
     1024 < (([0] : List Nat).foldl (fun l f => NSet.add (32767 * 64 + f) l) s.pg.lentKeys).length) ∧
    (∀ r ∈ (atTime base 0).pg.recallsIn, (fun (r : RecallIn) => r.node == 9 && decide (r.deadline ≤ (atTime base 0).now)) r = false) ∧
    (let s := withPage .t3 (withSpan (span1 2 2))
     let s := s.setPte 3 0 { s.pte 3 0 with node := 9, recalling := true }
     let due (k : Nat) : State := { s with pg := { s.pg with recallsIn := [⟨9, 0, [k]⟩] } }
     let v := { atTime (due (3 * 2 ^ 31)) 0 with pg := { (atTime (due (3 * 2 ^ 31)) 0).pg with recallsIn := [] } }
     (atTime (due (3 * 2 ^ 31)) 0).pg.recallsIn = [⟨9, 0, [3 * 2 ^ 31]⟩] ∧ 0 ≤ (atTime (due 0) 0).now ∧ (v.pte 3 0).st = .t3 ∧ (v.pte 3 0).node = 9 ∧
       (v.pte 3 0).recalling = true ∧ migOf v 3 0 = none ∧ (v.pte 0 0).st ≠ .t3) ∧
    (let s := { base with pg := { base.pg with lent := [(2, lent9)] } }
     recallDue s 9 [2] ≠ [] ∧ recallDue s 9 [3] = [] ∧ (∃ p ∈ (freeLent s 9 [3]).pg.lent, p.2.page.node = 9) ∧
       ∀ p ∈ (freeLent s 9 [2]).pg.lent, p.2.page.node ≠ 9) := by decide

/-! Registers. -/

/-- Which register lies at an address of PF0's BAR0, and what `p` says of it. -/
def atReg (a : Nat) (p : RegRef → Bool) : Bool := (regAt a).any p

/-- RegisterCommands: a register with a LOCK bit and one without; a good access, an access of a wrong size, and one where nothing lies. -/
theorem wit_RegisterCommands :
    atReg 0x100000 (fun k => k.info.flds.any (fun x => x.lo == 0 && x.acc == .w1s)) = true ∧
    atReg 0x100030 (fun k => !k.info.flds.any (fun x => x.lo == 0 && x.acc == .w1s)) = true ∧
    badTarget base 0 0x100000 4 = false ∧ (badTarget base 0 0x100000 1 = true ∧ target base 0 0x100000 1 = .wrong) ∧
    (badTarget base 0 0xfffffc 4 = true ∧ target base 0 0xfffffc 4 = .nothing) := by decide

/-- RegisterRules: writes of a source that may not write, and of its own HI_FN_LIMIT. -/
theorem wit_RegisterRules_source :
    atReg 0x100000 (fun k => !mayWrite ⟨3, k, 0, 32, 0⟩ && k.info.addr != 0x781000) = true ∧
    atReg (0x781000 + 3 * 8192) (fun k => !mayWrite ⟨3, k, 0, 32, 0⟩ && k.info.addr == 0x781000 && k.i == 3) = true := by decide

/-- A write barred to PF0, one with a value out of range, and one under LOCK; PORT_CTL unlocked, and locked with and without setting LOCK. -/
theorem wit_RegisterRules_values :
    atReg 0x800000 (fun k => let w (v : Nat) : Wr := ⟨0, k, 0, 32, v⟩; let s := base.setFld R.PORT_CTL.LOCK 1 0
      pf0Barred (w 0) && pf0Barred (w 1) && !lockHit base (w 0) && lockHit s (w 0) && lockHit s (w 1) &&
        !((w 0).flds .w1s).any (fun x => x.lo == 0 && (w 0).one x) && ((w 1).flds .w1s).any (fun x => x.lo == 0 && (w 1).one x)) = true ∧
    atReg 0x301004 (fun k => let w : Wr := ⟨0, k, 0, 32, 0⟩
      !pf0Barred w && (w.sets base).any (fun x => !inRange x (w.val base x))) = true ∧
    (let s := base.setFld R.NBU_STACK_CTL.LOCK 1 0
     atReg 0x301004 (fun k => let w : Wr := ⟨0, k, 0, 32, 0⟩
      !pf0Barred w && locked s w.k && !(w.flds .rwl).isEmpty && (w.flds .rw).isEmpty && (w.flds .w1s).isEmpty && (w.flds .w1c).isEmpty &&
        w.src != mgmt && w.k.info.addr != 0xc00108) = true) := by decide

/-- A 1 written to each W1C field of TILE_ERR of the last tile, a field that the write leaves, and fields that a write sets. -/
theorem wit_RegisterRules_strobes :
    atReg (0x100030 + 4096 * 255) (fun k => let w : Wr := ⟨0, k, 0, 32, 3⟩
      [R.TILE_ERR.CFG_REJECT, R.TILE_ERR.FAULT].all (fun x => (w.flds .w1c).contains x && w.one x &&
        (w.flds .w1c).all (fun y => y.key w.k.i w.k.j != x.key w.k.i w.k.j || y == x)) &&
      (w.flds .w1c ++ w.flds .w1s).all (fun x => !w.one x || R.TILE_CTL.LOCK.key 255 0 != x.key w.k.i w.k.j)) = true ∧
    atReg 0x301004 (fun k => let w : Wr := ⟨0, k, 0, 32, 0⟩; w.src != mgmt && !(w.sets base).isEmpty) = true := by decide

/-! Power. -/

/-- The window's ceiling 600 W, level mode off. -/
def powS : State := base.setFld R.PWR_CEIL.CEIL 600

/-- Level mode on, with the target at 500 W. -/
def levelS : State := ((powS.setFld R.LVL_CTL.ENABLE 1).setFld R.LVL_SET.SET_W 500).updPow (fun p => { p with target := 5000, lvlTclk := 20 })

/-- PowerCommands, the ceiling: a window at 600 W and one at 601 W, a junction at 109 °C and at 110 °C. -/
theorem wit_PowerCommands_ceiling :
    base.pow.st = .on ∧ effCeil (setTemps ((atTime powS 5).setFld R.PWR_MEAS.INPUT_W (min 4095 600)) 109 50) = 600 ∧ max 110 50 = 110 := by decide

/-- Recovery at 570 W of 600: not in an event, the conditions unmet, met first, and met for 100 µs with the allowance halved. -/
theorem wit_PowerCommands_recovery :
    let u (s : State) := setTemps ((atTime s 100010).setFld R.PWR_MEAS.INPUT_W (min 4095 570)) 60 50
    let a (c : Option Nat) := u (powS.updPow (fun p => { p with ceil := 1, calm := c, halved := true }))
    (u powS).pow.ceil = 0 ∧ (a none).pow.ceil ≠ 0 ∧ recoverOk (a none) 571 60 = false ∧ recoverOk (a none) 570 60 = true ∧
      (a none).pow.calm = none ∧ (a (some 10)).pow.calm = some 10 ∧ 10 + 100000 ≤ (a (some 10)).now ∧ (a (some 10)).pow.halved = true := by decide

/-- Level mode: the target moves, a step is due and one is not, and the window is above the band. -/
theorem wit_PowerCommands_level :
    levelS.flag R.LVL_CTL.ENABLE = true ∧ ceil95 levelS ≥ levelS.pow.target ∧ (atTime base 5).flag R.LVL_CTL.ENABLE = false ∧
      (atTime levelS 10000000).pow.lvlStep + 10000000 ≤ (atTime levelS 10000000).now ∧ (atTime levelS 10000000).pow.target * 102 < 511 * 1000 ∧
      (atTime levelS 5).now < (atTime levelS 5).pow.lvlStep + 10000000 := by decide

/-- Temperatures: 99 °C and 100 °C; a throttle in progress at 98 °C, 1 ms on; a DRAM die at 105 °C, 106 °C, 85 °C and 86 °C. -/
theorem wit_PowerCommands_heat :
    (let v := trackCool (setTemps (atTime (base.setFld R.THERM_STAT.SOFT_THROTTLE 1) 1000000) 98 60) (max 98 60)
     v.flag R.THERM_STAT.SOFT_THROTTLE = true ∧ v.pow.softStep + 1000000 ≤ v.now) ∧
    (setDram (atTime base 5) 15 105).pow.dram.all (fun q => decide (q.2 ≤ 105)) = true ∧ (15 < 16) := by decide

/-- Napping: idle with and without DEEP_REQ, under level mode, an exit that has not begun, and ones from N1 and N2. -/
theorem wit_PowerCommands_nap :
    let i := clean base
    (atTime levelS 5).flag R.LVL_CTL.ENABLE = true ∧ (atTime i 5).flag R.LVL_CTL.ENABLE = false ∧ inA0 (atTime i 5) = true ∧
      moduleIdle (atTime i 5) = true ∧ (atTime (i.setFld R.PWR_CTL.DEEP_REQ 1) 5).flag R.PWR_CTL.DEEP_REQ = true ∧
      moduleIdle (atTime (i.setFld R.PWR_CTL.DEEP_REQ 1) 5) = true ∧ (atTime i 5).flag R.PWR_CTL.DEEP_REQ = false ∧
      (atTime (i.setFld R.PWR_CTL.NAP_EN 1) 5).flag R.PWR_CTL.NAP_EN = true ∧ (atTime i 5).fld R.PWR_CTL.NAP_IDLE ≤ 1000 ∧
      (atTime i 5).flag R.PWR_STAT.EXITING = false ∧
      (let x (st : Nat) := atTime ((i.setFld R.PWR_STAT.EXITING 1).setFld R.PWR_STAT.STATE st) 5
       (x 1).flag R.PWR_STAT.EXITING = true ∧ (x 1).fld R.PWR_STAT.STATE ≠ 2 ∧ (x 2).flag R.PWR_STAT.EXITING = true ∧
         (x 2).fld R.PWR_STAT.STATE = 2) := by decide

/-! Links and ports. -/

/-- Port 15 in a state, its record changed. -/
def portS (st : Nat) (f : Port → Port) : State := (base.setFld R.PORT_STAT.STATE st 15).updPort 15 f

/-- Port 15's record at time 9. -/
def port9 (s : State) : Port := (atTime s 9).port 15

/-- LinkFlits, data flits: codewords accepted and not; the port down; up, and a flit that was rejected first and again, one while a NAK stands,
one that a replay repeats, and one in order; its last VC is 7. -/
theorem wit_LinkFlits_data :
    let cw : List (Nat × Bool) := [(13, true), (0, true), (14, false)]
    let c (f : Port → Port) := fecCount (atTime (portS 2 f) 9) 15 cw
    fecOk [(13, true)] = true ∧ fecOk cw = false ∧ portUp (atTime base 9) 15 = false ∧ portUp (atTime (portS 2 id) 9) 15 = true ∧ 7 < 8 ∧
      ((c (fun x => { x with nak := true })).port 15).nak = true ∧ ((c id).port 15).nak = false ∧
      0 < ((c (fun x => { x with drop := 1 })).port 15).drop ∧ ((c id).port 15).drop = 0 := by decide

/-- Control flits: IDLE, REPLAY from number 4095 and HELLO of node 32767, each in order; IDLE with a reserved byte set. -/
theorem wit_LinkFlits_control :
    controlOk (controlFlit 0 []) 0 (fun b => zeroAt b 1 251) = true ∧ controlOk (controlFlit 0 [1#8]) 0 (fun b => zeroAt b 1 251) = false ∧
      fieldAt (controlFlit 0 [1#8]) 0 1 = 0 ∧
      controlOk (controlFlit 1 (leBytes 2 4095)) 1 (fun b => decide (fieldAt b 1 2 < 4096) && zeroAt b 3 249) = true ∧
      fieldAt (controlFlit 1 (leBytes 2 4095)) 0 1 = 1 := by decide

theorem wit_LinkFlits_hello :
    let b := controlFlit 3 (leBytes 2 32767 ++ leBytes 1 15 ++ leBytes 1 63)
    fieldAt b 0 1 = 3 ∧ controlOk b 3 (fun b => decide (fieldAt b 1 2 < 32768) && decide (fieldAt b 3 1 < 16) &&
        decide (fieldAt b 4 1 < 64) && zeroAt b 5 3 && zeroAt b 24 228) = true := by decide

/-- A replay from below the expected number, and from above it. -/
theorem wit_LinkFlits_replay : (0 + 4096 - 4095) % 4096 < 2048 ∧ 2048 ≤ (0 + 4096 - 1) % 4096 ∧ base.port 15 = port0 := by decide

/-- Link words: a good one with an acknowledgement and a bad one; nothing unacknowledged, and one flit that is; a NAK standing and none. -/
theorem wit_LinkFlits_words :
    (let w := 5 + 2 ^ 12 + 2 ^ 88 * crc8 (5 + 2 ^ 12)
     let sb := (List.range 32).map (fun i => bits w (3 * i + 2) (3 * i))
     wordOfSb sb = w ∧ crc8 (w % 2 ^ 88) = w / 2 ^ 88 ∧ bitAt w 12 = true) ∧ crc8 (wordOfSb [5] % 2 ^ 88) ≠ wordOfSb [5] / 2 ^ 88 ∧
      portUp base 15 = false ∧ portUp (portS 2 id) 15 = true ∧ ((portS 2 id).port 15).unacked = [] ∧ ((portS 2 id).port 15).nak = false ∧
      (let x := (portS 2 (fun x => { x with txSeq := 8, unacked := List.replicate 3 ⟨0, false, [], []⟩ })).port 15
       let n := (6 + 1 + 4096 - (x.txSeq + 4096 - x.unacked.length % 4096) % 4096) % 4096
       n = 2 ∧ n ≤ x.unacked.length) ∧
      (let s := portS 2 (fun x => { x with nak := true }); (s.port 15).nak = true ∧ portUp s 15 = true) := by decide

/-- PortsAndTime, lanes: a burst on lane 3 with none and with three retrains of the last 10 ms, BURST_SYM met and passed; a halted port whose
retrain has failed once and twice; a reform with lanes in common, and with none. -/
theorem wit_PortsAndTime_lanes :
    let recent (s : State) := (Tab.get [] 3 (port9 s).retrains).filter (fun v => decide ((atTime s 9).now ≤ v + 10000000))
    let up := portS 2 id
    let h (n : Nat) := portS 3 (fun x => { x with halted := [3], fails := [(3, n)] })
    let r (l : Nat) := portS 3 (fun x => { x with reform := true, hello := some (l, 0, []) })
    (bitAt (lanesOf (atTime up 9) 15) 3 = true ∧ portUp (atTime up 9) 15 = true) ∧ (atTime up 9).fld R.PORT_LANE_CFG.BURST_SYM 15 < 65535 ∧
      (recent up).length < 3 ∧ 3 ≤ (recent (portS 2 (fun x => { x with retrains := [(3, [1, 2, 3])] }))).length ∧
      (port9 (h 1)).halted.contains 3 = true ∧ portHalted (atTime (h 1) 9) 15 = true ∧ Tab.get 0 3 (port9 (h 1)).fails < 2 ∧
      (port9 (h 2)).halted.contains 3 = true ∧ portHalted (atTime (h 2) 9) 15 = true ∧ 2 ≤ Tab.get 0 3 (port9 (h 2)).fails ∧
      (port9 (r 15)).hello = some (15, 0, []) ∧ portHalted (atTime (r 15) 9) 15 = true ∧ (port9 (r 15)).reform = true ∧
      widthOf (Nat.land 15 (lanesOf (atTime (r 15) 9) 15)) ((atTime (r 15) 9).fld R.PORT_CTL.MAX_WIDTH 15) = some 2 ∧
      (port9 (r 0)).hello = some (0, 0, []) ∧
      widthOf (Nat.land 0 (lanesOf (atTime (r 0) 9) 15)) ((atTime (r 0) 9).fld R.PORT_CTL.MAX_WIDTH 15) = none := by decide

/-- Ports going down and training: a live one and none, no flit for exactly 10 µs and for less; enabled and down, and disabled; a live port
that is enabled goes down. -/
theorem wit_PortsAndTime_ports :
    let on := base.setFld R.PORT_CTL.ENABLE 1 15
    let off := base.setFld R.PORT_CTL.ENABLE 0 15
    portLive (portS 1 id) 15 = true ∧ portLive (portS 3 id) 15 = true ∧ portLive base 15 = false ∧
      (portUp (atTime (portS 2 id) 10000) 15 = true ∧ ((atTime (portS 2 id) 10000).port 15).lastFlit + 10000 ≤ (atTime (portS 2 id) 10000).now) ∧
      (atTime (portS 2 id) 9999).now < ((atTime (portS 2 id) 9999).port 15).lastFlit + 10000 ∧
      ((atTime on 9).flag R.PORT_CTL.ENABLE 15 = true ∧ (atTime on 9).fld R.PORT_STAT.STATE 15 = 0) ∧
      ((atTime off 9).flag R.PORT_CTL.ENABLE 15 = false ∧ portLive (atTime off 9) 15 = false) := by decide

theorem wit_PortsAndTime_reset :
    let u := atTime ((portS 1 id).setFld R.PORT_CTL.ENABLE 1 15) 9
    portLive u 15 = true ∧ (downPort u 15 0).flag R.PORT_CTL.ENABLE 15 = true ∧ (downPort u 15 0).fld R.PORT_STAT.STATE 15 = 0 := by decide

/-- Training ends with a HELLO of another variant, one of a wrong peer on a torus, and a good one. -/
theorem wit_PortsAndTime_training :
    let s (v : Nat) := portS 1 (fun x => { x with hello := some (15, v, []) })
    let t := (s 0).setFld R.ROUTE_CTL.TOPOLOGY 1
    (atTime (s 1) 9).fld R.PORT_STAT.STATE 15 = 1 ∧ (port9 (s 1)).hello = some (15, 1, []) ∧ 1 ≠ (atTime (s 1) 9).fld R.PORT_CTL.VARIANT 15 ∧
      (atTime t 9).fld R.PORT_STAT.STATE 15 = 1 ∧ (port9 t).hello = some (15, 0, []) ∧ 0 = (atTime t 9).fld R.PORT_CTL.VARIANT 15 ∧
      miswired (atTime t 9) 15 = true ∧ (atTime (s 0) 9).fld R.PORT_STAT.STATE 15 = 1 ∧ (port9 (s 0)).hello = some (15, 0, []) ∧
      miswired (atTime (s 0) 9) 15 = false ∧
      widthOf (Nat.land 15 (lanesOf (atTime (s 0) 9) 15)) ((atTime (s 0) 9).fld R.PORT_CTL.MAX_WIDTH 15) = some 2 := by decide

/-- Fabric time: the root, a node that is not locked, a SYNC flit in order and one out of order; HELLO unanswered and answered; holdover for
exactly 1 ms, and none. -/
theorem wit_PortsAndTime_time :
    let up := portS 2 id
    let root := up.setFld R.TIME_CTL.ROOT 1
    let ho := (fun s : State => { s with fab := { s.fab with holdover := some 0 } }) (base.setFld R.TIME_STAT.HOLDOVER 1)
    portUp (atTime base 9) 15 = false ∧ (portUp (atTime root 9) 15 = true ∧ (atTime root 9).flag R.TIME_CTL.ROOT = true) ∧
      (portUp (atTime up 9) 15 = true ∧ (atTime up 9).flag R.TIME_CTL.ROOT = false ∧ (atTime up 9).flag R.TIME_STAT.LOCKED = false) ∧
      ((portS 1 id).fld R.PORT_STAT.STATE 15 = 1 ∧ ((portS 1 id).port 15).hello = none) ∧
      ((portS 1 (fun x => { x with hello := some (15, 0, []) })).port 15).hello = some (15, 0, []) ∧
      ((atTime ho 1000000).fab.holdover = some 0 ∧ (atTime ho 1000000).flag R.TIME_STAT.HOLDOVER = true ∧ 0 + 1000000 ≤ (atTime ho 1000000).now) ∧
      (atTime base 9).fab.holdover = none := by decide

theorem wit_PortsAndTime_sync :
    let f := fun b : List (BitVec 8) => zeroAt b 1 7 && decide (fieldAt b 32 1 < 64) && decide (fieldAt b 33 1 < 2) && zeroAt b 34 218
    let good := controlFlit 2 (leBytes 31 0 ++ leBytes 1 63 ++ leBytes 1 1)
    let bad := controlFlit 2 (leBytes 31 0 ++ leBytes 1 64)
    fieldAt good 0 1 = 2 ∧ controlOk good 2 f = true ∧ fieldAt bad 0 1 = 2 ∧ controlOk bad 2 f = false := by decide

/-! Packets. -/

/-- A packet's header: type, flags, destination, endpoint word, PSN, from node 2 with LENGTH for `n` bytes of payload. -/
def pktH (ty flags dst n : Nat) (ep psn : Nat := 0) : List Byte :=
  leBytes 1 ty ++ leBytes 1 flags ++ leBytes 2 (32 + n) ++ leBytes 2 dst ++ leBytes 2 2 ++ leBytes 2 0 ++ leBytes 1 1 ++ leBytes 1 0 ++ leBytes 4 ep ++
    leBytes 3 psn ++ leBytes 1 0 ++ leBytes 4 0 ++ leBytes 8 0

/-- The packet of a type with `n` bytes of payload parses, and is one on a hidden flow for this node. -/
def arrives (ty n : Nat) (trunc : Bool := false) : Bool :=
  (parsePkt (pktH ty (if trunc then 4 else 0) (atTime base 9).node n) (List.replicate n 1#8)).any
    (fun p => p.ty == ty && p.trunc == trunc && !p.epLayer && p.dst == (atTime base 9).node)

/-- PacketsArrive: an invalid packet; one of every type that a command receives; a truncated one; a stream to reset. -/
theorem wit_PacketsArrive :
    base.pow.st = .on ∧ parsePkt (pktH 1 0 0 5) [] = none ∧
      [(1, 1), (2, 4), (3, 4), (4, 24), (5, 48), (6, 24), (7, 2), (0x20, 4), (0x21, 1), (0x22, 8), (0x23, 4), (0x24, 0), (10, 0)].all (fun t => arrives t.1 t.2) = true ∧
      arrives 1 1 true = true ∧ (getConn (atTime base 9) (.flow 2)).isSome = true := by decide

/-- A stream of node 2 that expects PSN 10 and has executed some. -/
def flowS (ran : List Nat) (s : State := base) : State :=
  { s with tr := { s.tr with flows := [(2, { conn0 with exp := 10, ran := ran.map (fun q => (q, .ok)) })] } }

/-- The packet of a header and payload. -/
def pktOk (h d : List Byte) (q : Pkt → Bool) : Bool := (parsePkt h d).any q

/-- RequestsOnce: new requests at the window's end and below it, and under a fence; executed ones at EXP + 128, below it, and before EXP. -/
theorem wit_RequestsOnce_window :
    let st (ran : List Nat) (psn : Nat) (q : Conn → Nat → Pkt → Bool) : Bool :=
      (getConn (touchConn (flowS ran) (.flow 2)) (.flow 2)).any (fun c =>
        pktOk (pktH 3 128 0 4 0 psn) (leBytes 4 8) (fun p => q c (psnSub p.psn c.exp) p))
    st [] 138 (fun c d p => (Tab.find? p.psn c.ran).isNone && decide (128 ≤ d)) = true ∧
      st [138] 138 (fun c d p => (Tab.find? p.psn c.ran).isSome && decide (128 ≤ d) && decide (d < 2 ^ 24 - 128)) = true ∧
      st [137] 137 (fun c d p => (Tab.find? p.psn c.ran).isSome && decide (d < 128)) = true ∧
      st [9] 9 (fun c d p => (Tab.find? p.psn c.ran).isSome && decide (2 ^ 24 - 128 ≤ d)) = true ∧
      st [] 11 (fun c d p => (Tab.find? p.psn c.ran).isNone && decide (d < 128) && p.fence && d != 0) = true ∧
      st [] 10 (fun c d p => (Tab.find? p.psn c.ran).isNone && decide (d < 128) && d == 0) = true := by decide

/-- Endpoints that a packet names: none, one of another generation, and one of another node than its source. -/
theorem wit_RequestsOnce_endpoints :
    pktOk (pktH 3 64 0 4 (6 + 2 ^ 20)) (leBytes 4 8) (fun p => p.epLayer && (base.endp? (p.ep % 2 ^ 20)).isNone &&
      ((epS { ep1 with gen := 2 }).endp? (p.ep % 2 ^ 20)).any (fun e => e.gen != p.ep / 2 ^ 20) &&
      ((epS { ep1 with node := 3 }).endp? (p.ep % 2 ^ 20)).any (fun e => e.gen == p.ep / 2 ^ 20 && e.node != p.src)) = true := by decide

/-- Epoch 1, with 0 before it: the current one, the one before while it drains and after, the newest that is held, and one staler. -/
theorem wit_RequestsOnce_epochs :
    let s := base.setFld R.MER_CUR.EPOCH 1
    let d := s.setFld R.MER_STAT.DRAINING 1
    (1 < 2 ^ 16 ∧ s.epoch = 1) ∧ (0 ≠ d.epoch ∧ 0 = d.fld R.MER_CUR.PREV ∧ d.flag R.MER_STAT.DRAINING = true) ∧
      (0 = s.fld R.MER_CUR.PREV ∧ s.flag R.MER_STAT.DRAINING = false) ∧
      (32769 ≠ s.fld R.MER_CUR.PREV ∧ (32769 + 2 ^ 16 - s.epoch) % 2 ^ 16 = 2 ^ 15) ∧
      (32770 ≠ s.fld R.MER_CUR.PREV ∧ 2 ^ 15 < (32770 + 2 ^ 16 - s.epoch) % 2 ^ 16) := by decide

/-- RETRY answers: RNR_LIMIT 3 reached and not, and 15, without a limit. -/
theorem wit_RequestsOnce_retry :
    let s := base.setFld R.EP_TIMING.RNR_LIMIT 3
    (s.fld R.EP_TIMING.RNR_LIMIT ≠ 15 ∧ s.fld R.EP_TIMING.RNR_LIMIT ≤ 2 + 1) ∧ 1 + 1 < s.fld R.EP_TIMING.RNR_LIMIT ∧
      (base.setFld R.EP_TIMING.RNR_LIMIT 15).fld R.EP_TIMING.RNR_LIMIT = 15 := by decide

/-- A packet sent to node 2, with a hold and a count of tries; the stream it is on, at time 900000. -/
def sentS (hold : Option Nat) (tries since : Nat) : State :=
  let p : Pkt := ⟨3, false, false, false, false, 0, false, false, 2, 0, 0, 1, 0, 0, 7, 0, 0, leBytes 4 8, none⟩
  { base with tr := { base.tr with flows := [(2, { conn0 with sent := [⟨p, 0, 0, since, tries, 0, hold⟩] })] } }

/-- TransportTimers, back-off: a packet with none, one whose hold ends later, and one whose hold has just ended. -/
theorem wit_TransportTimers_backoff :
    let h (x : Option Nat) (q : SentPkt → Bool) : Bool := (sentOf (atTime (sentS x 0 0) 900000) (connOf false 2) 7).any q
    h none (fun x => x.hold.isNone) = true ∧ h (some 900001) (fun x => x.hold.any (fun a => decide (900000 < a))) = true ∧
      h (some 900000) (fun x => x.hold.any (fun a => decide (a ≤ 900000))) = true ∧ (atTime (sentS none 0 0) 900000).now = 900000 := by decide

/-- Acknowledgement timeouts: not due, due with tries left, and due with none. -/
theorem wit_TransportTimers_ack :
    let s (tries since : Nat) := atTime (sentS none tries since) 900000
    let due (u : State) : Bool := (getConn u (connOf false 2)).any
      (fun c => c.sent.any (fun x => x.hold.isNone && decide (x.since + u.fld R.EP_TIMING.ACK_TIMEOUT * 1000 ≤ u.now)))
    let out (u : State) : Bool := (getConn u (connOf false 2)).any
      (fun c => c.sent.any (fun x => x.hold.isNone && decide (u.fld R.EP_TIMING.RETRY_LIMIT ≤ x.tries)))
    due (s 0 899999) = false ∧ (due (s 0 0) = true ∧ out (s 0 0) = false) ∧ (due (s 15 0) = true ∧ out (s 15 0) = true) := by decide

/-- Fetches of a stream's state: none in progress; one without and with a packet that waits, its 50 µs not over and over. Holds of newer
requests: none; one whose time is over. -/
theorem wit_TransportTimers_misses :
    let p : Pkt := ⟨3, false, false, false, false, 0, false, false, 0, 2, 1, 1, 0, 0, 7, 0, 0, leBytes 4 8, none⟩
    let f (g : Bool) (m : List (Nat × Nat × Pkt)) : Conn :=
      Tab.get conn0 2 ({ base with tr := { base.tr with flows := [(2, { conn0 with fetching := g, missq := m })] } } : State).tr.flows
    let n := { base with tr := { base.tr with newer := [(0, p)] } }
    (f false []).fetching = false ∧ ((f true []).fetching = true ∧ (f true []).missq = []) ∧
      (f true [(0, 1, p)]).missq.all (fun q => decide (49999 < q.1 + 50000)) = true ∧
      ((f true [(0, 1, p)]).fetching = true ∧ (f true [(0, 1, p)]).missq = [(0, 1, p)] ∧ 0 + 50000 ≤ 50000) ∧
      (base.tr.newer = [] ∧ base.attn.colls = [] ∧ base.attn.ringIn = []) ∧
      ((atTime n 900000000).tr.newer = [(0, p)] ∧ n.attn.colls = [] ∧ n.attn.ringIn = [] ∧
        0 + (atTime n 900000000).fld R.MER_CTL.DRAIN * 1000 ≤ (atTime n 900000000).now ∧ p.epLayer = false ∧ p.ty = 3) := by decide

/-! Resets. -/

/-- The module in a power state, and with PWR_EN low. -/
def inSt (st : PowSt) : State := base.updPow (fun p => { p with st := st })
def pwrLow : State := { base with pins := { base.pins with pwrEn := false } }

/-- Function 63 in its reset. -/
def flrS : State := flrBegin 63 base

/-- ResetCommands: functions in reset and not; module states; RESET_N and PWR_EN; the times of each pin. -/
theorem wit_ResetCommands :
    base.pow.st = .on ∧ 63 < 64 ∧ (base.fnHost 63).resetting = none ∧ flrS.pow.st = .on ∧ (flrS.fnHost 63).resetting.isSome = true ∧
      (inSt .held).pow.st ≠ .on ∧ (inSt .off).pow.st = .off ∧ (inSt .held).pow.st = .held ∧ base.pins.pwrEn = true ∧ pwrLow.pins.pwrEn = false ∧
      base.pow.st ≠ .off ∧ (max 119 0 < 120 ∧ 114 < 115) ∧ 120 ≤ max 120 0 := by decide

/-- ResetLeaves: no function in reset, one in reset, the module off and on. -/
theorem wit_ResetLeaves :
    (∀ f, (base.fnHost f).resetting = none) ∧ (flrS.fnHost 63).resetting.isSome = true ∧ (inSt .off).pow.st = .off ∧ base.pow.st ≠ .off := by
  refine ⟨fun _ => rfl, by decide, by decide, by decide⟩

/-- A cold start that nothing bars, with firmware that verifies and with none; one with the leak latch's power cycle, at its 10 ms; a module reset
with firmware and without. -/
theorem wit_ResetCommands_start :
    let none_ (s : State) : State := s.updSec (fun c => { c with slots := [] })
    let t (s : State) : State :=
      let u := { s with pins := { s.pins with pwrEn := true, leakN := true, hostRef := true, thermTripN := s.pins.thermTripN || decide (10000000 ≤ 0) } }
      let v := eraseClaim (cleared u .off u.pow.cause)
      sampleSlot { v with pins := { v.pins with pwrGood := true } }
    let off := inSt .off
    (off.pow.needCycle = false ∧ off.pins.thermTripN = true ∧ off.pow.thermLatch = false) ∧ verifiedSlot (t off) = some 0 ∧
      verifiedSlot (t (none_ off)) = none ∧ verifiedSlot base = some 0 ∧ verifiedSlot (none_ base) = none := by decide

/-! Security. -/

/-- The module claimed with trust anchor 4, `n` sessions up, and constellation 9 of generation 1 sealed in slot 15 or not. -/
def secS (n : Nat) (released : Bool) (s : State := base) : State :=
  s.updSec (fun c => { c with claimed := true, anchors := [4], sessions := n, sealed := [(15, ⟨9, 1, [1, 2], released⟩)], publishers := [(7, 1)] })

/-- SecurityCommands: claimed and not, 3 sessions and 4, a known and an unknown trust anchor; no, 4 and 5 anchors to claim with. -/
theorem wit_SecurityCommands_sessions :
    base.sec.claimed = false ∧ (secS 3 false).sec.claimed = true ∧ (secS 3 false).sec.sessions < 4 ∧ 4 ≤ (secS 4 false).sec.sessions ∧
      (secS 3 false).sec.anchors.contains 4 = true ∧ (secS 3 false).sec.anchors.contains 5 = false ∧
      ([1, 2, 3, 4] ≠ ([] : List Nat) ∧ [1, 2, 3, 4].length ≤ 4) ∧ 4 < [1, 2, 3, 4, 5].length := by decide

/-- A new constellation and one sealed here; its release, with the digest of blocks 1 to 6 and another; an operator configuration that stays and
one that changes, storage that may be and that may not; the committed security version within its range. -/
theorem wit_SecurityCommands_constellations :
    base.pow.st = .on ∧ (secS 0 false).pow.st = .on ∧ ([0] ≠ ([] : List Nat) ∧ [0].length ≤ 32768 ∧ 9 < 2 ^ 32) ∧
      (base.sec.sealed.find? (fun c => c.2.id == 9) = none ∧ pickFree base.sec.sealed 0 16 0 = some 0) ∧
      (secS 0 false).sec.sealed.find? (fun c => c.2.id == 9) = some (15, ⟨9, 1, [1, 2], false⟩) ∧
      (secS 0 false).sec.sealed.any (fun c => c.2.id == 9) = true ∧ (secS 0 false).sec.sealed.any (fun c => c.2.id == 8) = false ∧ (sealedSlot (secS 0 false) 9 1).isSome = true ∧
      ([] : List (List Nat)) ≠ [1, 2, 3, 4, 5, 6].map (measurement (secS 0 false)) ∧
      operatorConfig (secS 0 false).sec ≠ operatorConfig base.sec ∧ base.sec.svn ≤ 64 ∧
      (storageOk (some [1, 2, 3, 4]) (some [(7, 1)]) = true ∧ storageOk (some []) none = false) := by
  refine ⟨by decide, by decide, by decide, by decide, by decide, by decide, by decide, by decide, by simp, by decide, by decide, by decide⟩

/-- AttestationAndReplicas: certificate slots with and without a chain; measurement blocks 1, 7, 0, 8; keys that may be used and may not; a
bundle region, and a place for one. -/
theorem wit_AttestationAndReplicas_answers :
    certSlot base 0 = true ∧ certSlot base 1 = false ∧ (1 ≤ 1 ∧ 7 ≤ 7) ∧ ((0 = 0 ∨ 7 < 0) ∧ 0 ≠ 255) ∧ ((8 = 0 ∨ 7 < 8) ∧ 8 ≠ 255) ∧
      keyStatus (secS 0 false) 9 1 ≠ .ok ∧ keyStatus (secS 0 true) 9 1 = .ok ∧
      (let s := { base with mm := { base.mm with regions := [⟨t1Base, 65536, 0, .bundle, 1⟩] } }
       s.mm.regions.find? (fun r => r.base == t1Base && r.kind == .bundle) = some ⟨t1Base, 65536, 0, .bundle, 1⟩) := by decide

/-- A place for a replica, and none while the scrub after reset runs. -/
theorem wit_AttestationAndReplicas_place : (makeRegion (secS 0 true (clean base)) 0 65536 .bundle 0 0).isSome = true ∧
    makeRegion (secS 0 true base) 0 65536 .bundle 0 0 = none := by decide

/-- A bundle of constellation 9, publisher 7 and one section of a byte, of KIND 1 for bank pair 0. -/
def bundleB : List Byte :=
  [0x59#8, 0x4C#8, 0x55#8, 0x41#8] ++ leBytes 4 1 ++ leBytes 8 0 ++ leBytes 4 9 ++ leBytes 4 1 ++ leBytes 40 0 ++ leBytes 4 1 ++ leBytes 1 7 ++ leBytes 3 0 ++
    leBytes 8 321 ++ leBytes 176 0 ++ (leBytes 4 1 ++ leBytes 4 0 ++ leBytes 8 320 ++ leBytes 8 1 ++ leBytes 40 0) ++ [0#8]

/-- A piece of `n` bytes is the first of a bundle, and `p` says how its checks end. -/
def loads (b : List Byte) (s : State) (p : PieceEnd → Bool) : Bool :=
  let s := withDesc (desc 0x21 0 (leBytes 8 0 ++ leBytes 8 b.length)) (hostHas 0 b (window s))
  runs s 0x21 (fun d => fieldAt d 36 1 == 0 && zeroAt d 37 27 && fieldAt d 32 4 == 0 && pickFree s.sec.bundles 1 (2 ^ 32) 1 == some 1 && fieldAt d 24 8 == 0 &&
    (match hostRead s 0 (fieldAt d 8 8) (fieldAt d 16 8) with
      | some bs => p (checkPiece 0 1 0 bs false false true true [(true, [0#8])] [0]
          (s.updSec (fun c => { c with bundles := Tab.ins 1 ⟨0, bs, false, 0, []⟩ c.bundles })))
      | none => false))

/-- Bundles: reserved fields; a header that does not check, a piece below the header's size, and a section for whose bank pair no frame is free;
poisoned host bytes and clean ones, a handle of no bundle, bytes that cannot be read. -/
theorem wit_AttestationAndReplicas_bundles :
    (let s := withDesc (desc 0x21 0 (leBytes 28 0 ++ leBytes 1 2))
     runs s 0x21 (fun d => decide (1 < fieldAt d 36 1) || !zeroAt d 37 27)) = true ∧
    loads (leBytes 256 1) base (fun r => match r with | .failed _ => true | _ => false) = true ∧
    loads [1#8] base (fun r => match r with | .taken _ => true | _ => false) = true ∧
    (hostPsn (withTlp [(0, 1)] base) 0 1 = true ∧ hostPsn (withTlp [] base) 0 1 = false) ∧
    Tab.find? 5 base.sec.bundles = none ∧ hostRead base 0 0 1 = none := by decide

theorem wit_AttestationAndReplicas_noRoom :
    loads bundleB (secS 0 true { base with mm := { base.mm with regions := [⟨t1Base, 2048 * 65536, 0, .context, 5⟩] } })
      (fun r => match r with | .noRoom => true | _ => false) = true := by decide

/-- The checks of a piece: a bad header, less than a header, and a good manifest whose key may not be used. -/
theorem wit_AttestationAndReplicas_checks :
    (256 ≤ (leBytes 256 1).length ∧ Machine.headerOk (leBytes 256 1) = false) ∧ [1#8].length < 256 ∧
      (256 ≤ bundleB.length ∧ Machine.headerOk bundleB = true ∧ bundleB.length ≤ fieldAt bundleB 72 8 ∧ manifestEnd bundleB ≤ bundleB.length ∧
        manifestOk bundleB = true ∧ (Tab.find? (fieldAt bundleB 68 1) (secS 0 false).sec.publishers).isSome = true ∧
        keyStatus (secS 0 false) (fieldAt bundleB 16 4) (fieldAt bundleB 20 4) ≠ .ok) := by decide

/-! Epochs and rebuild. -/

/-- A map of epoch 1 that marks node 3 lost, with a target for it, staged or current; its drain window closes at 500. -/
def mapS (staged held : Bool) (s : State := base) : State :=
  let s := if held then (s.setFld R.MER_CUR.EPOCH 1).setFld R.MER_LOST.NODE_MAP 8 0 else s
  { s with mer := { s.mer with held := held, staged := if staged then some ⟨1, 9, [3], [], [], [(3, 1)]⟩ else none, targets := [(3, 1)], drainEnd := 500 } }

/-- EpochCommands: a map stale, first and next; one due and one not; none staged; a window that closes and one that does not. -/
theorem wit_EpochCommands_maps :
    base.pow.st = .on ∧ base.mer.held = false ∧ ((atTime (mapS false true) 9).mer.held = true ∧
      (1 + 65536 - (atTime (mapS false true) 9).epoch) % 65536 = 0 ∧ 32768 < (0 + 65536 - (atTime (mapS false true) 9).epoch) % 65536 ∧
      (32769 + 65536 - (atTime (mapS false true) 9).epoch) % 65536 = 32768) ∧
      (9 % 2 ^ 64 ≤ ((atTime base 9).emit (.barnopa true)).now ∧ ((atTime base 9).emit (.barnopa true)).now < 10 % 2 ^ 64) ∧
      ((atTime (mapS true false) 9).mer.staged = some ⟨1, 9, [3], [], [], [(3, 1)]⟩ ∧ 9 ≤ (atTime (mapS true false) 9).now) ∧
      (atTime (mapS true false) 8).now < 9 ∧ (atTime (mapS false false) 9).mer.staged = none ∧
      (let u := atTime ((mapS false true).setFld R.MER_STAT.DRAINING 1) 500; u.fld R.MER_STAT.DRAINING = 1 ∧ u.mer.drainEnd ≤ u.now) ∧
      (atTime base 9).fld R.MER_STAT.DRAINING ≠ 1 ∧ (atTime (mapS false true) 499).now < (atTime (mapS false true) 499).mer.drainEnd := by decide

/-- Rebuilds: of a node with a target that the map marks lost, and of one that has none. Log events: none to tell, one too soon, one due. -/
theorem wit_EpochCommands_rebuilds :
    Tab.find? 2 (mapS false true).mer.targets = none ∧ (Tab.find? 3 (mapS false true).mer.targets = some 1 ∧ nodeLost (mapS false true) 3 = true) ∧
      nodeLost (mapS false false) 3 = false ∧ ((atTime base 9).fnHost 63).logAdded = 0 ∧
      (let u (t : Nat) := atTime (base.setFnHost 63 { base.fnHost 63 with logAdded := 2, logEvt := 5 }) t
       (u 1000004).now < ((u 1000004).fnHost 63).logEvt + 1000000 ∧
         ((u 1000005).fnHost 63).logAdded ≠ 0 ∧ ((u 1000005).fnHost 63).logEvt + 1000000 ≤ (u 1000005).now) := by decide

/-- A span to rebuild, its one row placed; and with no frame for it. -/
theorem wit_EpochCommands_target :
    let body := leBytes 4 16 ++ leBytes 2 1 ++ leBytes 1 1
    let s := clean base
    (parseSpan 0 (List.replicate 8 0#8 ++ padTo 56 body)).any (fun x => protOf 2 == some .coded && pickFree s.pg.spans 0 262144 7 == some 7 &&
      (findExtent s (x.pages * 65536) 0).isSome && decide (rowsInAll x.layerSlots [(0, 0)] x.maxTokens 0 = 1) &&
      (placeRows 7 { x with base := kvBase, horizon := 1, appended := 1 } [((0, 0), [1#8])] (s.setSpan 7 x)).isSome &&
      (placeRows 7 { x with base := kvBase, horizon := 1, appended := 1 } [((0, 0), [1#8])] (base.setSpan 7 x)).isNone) = true := by decide

/-- RebuildRecovers: members 7 and 2 with rows of two bytes, either or both of them lost. -/
theorem wit_RebuildRecovers :
    let ms : List (Nat × List (BitVec 8)) := [(7, [1#8, 255#8]), (2, [0#8, 9#8])]
    (∀ q ∈ ms, q.1 < 8 ∧ q.2.length = 2) ∧ ms.Perm ((7, [1#8, 255#8]) :: [(2, [0#8, 9#8])]) ∧ ms.Perm ((7, [1#8, 255#8]) :: (2, [0#8, 9#8]) :: []) ∧
      (7 : Nat) ≠ 2 ∧ [0#8, 0#8].length = 2 := by
  refine ⟨by decide, .refl _, .refl _, by decide, rfl⟩

/-! Steps, records and encodings. -/

/-- IdleStep and OffDoesNothing: an empty queue with and without a scrub under way; a module that is off, and a command that does not work then. -/
theorem wit_IdleStep :
    base.pending = [] ∧ scrubBusy base = true ∧ scrubBusy (clean base) = false ∧ (clean base).pending = [] := by decide

theorem wit_OffDoesNothing : (inSt .off).pow.st ≠ .on ∧ worksOff (.napExit 0) = false := by decide

/-- AlertTreeKept: a state in order that takes a step. -/
theorem wit_AlertTreeKept :
    AlertInv base ∧ base.pow.st = .on ∧ ∃ t, Machine.step { base with pending := [.smbusWrite] } = .next t ∧ AlertInv { base with pending := [.smbusWrite] } :=
  have h : AlertInv base := ⟨by decide, by decide⟩
  have g : AlertInv { base with pending := [.smbusWrite] } := ⟨by decide, by decide⟩
  ⟨h, rfl, _, rfl, g⟩

/-- Ring 0 of PF0 enabled, its completion queue of 2 at `q` × 4,096, with `n` records produced. -/
def cqS (q n : Nat) : State :=
  (((window base).setFld R.HI_RING_CTL.ENABLE 1).setFld R.HI_CQ_BASE.CQ_LOG2 1 |>.setFld R.HI_CQ_BASE.ADDR q).setRing 0 0 { ring0 with produced := n }

def rec1 : Rec := ⟨2 ^ 32 - 1, 5, .ok, 0x3F, false, 0, List.replicate 16 1#8, true⟩

/-- CompletionRecords: a record; its ring with records held, full, with a slot in the window's last 64 bytes and in no window; a descriptor found
and none. -/
theorem wit_CompletionRecords :
    (rec1.tag < 2 ^ 32 ∧ rec1.seq < 2 ^ 32 ∧ rec1.opcode < 256 ∧ rec1.result.length ≤ 16) ∧
      ((base.setRing 0 0 { ring0 with held := [rec1] }).ring 0 0).held ≠ [] ∧ slotFree (cqS 4095 2) 0 0 = false ∧
      linkDownFor State.reset 0 = true ∧ linkDownFor ((cqS 4095 2).setFnHost 0 { (cqS 4095 2).fnHost 0 with ringUp := true }) 0 = false ∧
      (∀ q ∈ [4095, 4096], let s := cqS q 1
        (s.ring 0 0).held = [] ∧ slotFree s 0 0 = true ∧
          winOk s 0 (s.fld R.HI_CQ_BASE.ADDR 0 0 * 4096 + (s.ring 0 0).produced % 2 ^ s.fld R.HI_CQ_BASE.CQ_LOG2 0 0 * 32) 32 true = (q == 4095)) ∧
      findDesc base 0 0 0 = none ∧ (findDesc (withDesc (desc 0x3F 0 [])) 0 0 0).isSome = true ∧
      ((withDesc (desc 0x3F 0 [])).fnHost 0).resetting = none := by decide

/-- RetirementAndRecordFrames: a context in its step, its program's phase with RETRY 1 and 0, two retries made and three; another context; one
that waits, held by a unit and by nothing. -/
theorem wit_RetirementAndRecordFrames :
    let p (s : State) (n : Nat) (r : Bool) : Bool := match s.ctx? 5 with
      | some c => c.step.any (fun e => !e.stopped) && c.retries == n &&
          (match progOf s c.program with | some (_, p) => (p.phases[c.phase]?).any (fun f => f.retry == r) | none => false)
      | none => false
    let b := image [bufB 1 0 64] [opB 0x3F 0 0 0 0 0 0 []]
    let on := b.set 42 1#8
    p (withProg b { ctx1 with retries := 3 }) 3 false = true ∧ p (withProg on { ctx1 with retries := 2 }) 2 true = true ∧
      (6 : Nat) ≠ 5 ∧
      (let w (inf : List Nat) := withProg b { ctx1 with st := .waiting, inflight := inf }
       ((w []).ctx? 5).any (fun c => c.st == .waiting && !heldByUnit (w []) c && !(w []).sch.waiters.any (fun w => w.who == .ctx 5)) = true ∧
         ((w [0]).ctx? 5).any (fun c => heldByUnit { w [0] with sch := { (w [0]).sch with programs := [] } } c) = true) ∧
      (.horizon : Status) ≠ .ok ∧ (.invalid : Status) ≠ .horizon := by decide

/-- PacketBytesRoundTrip and RawBattRoundTrip: the last value of every field; symbols of both widths at their ends. -/
theorem wit_PacketBytesRoundTrip :
    let p : Pkt := ⟨255, true, true, true, true, 3, true, true, 65535, 65535, 65535, 255, 255, 2 ^ 32 - 1, 2 ^ 24 - 1, 2 ^ 32 - 1, 2 ^ 64 - 1, [7#8], none⟩
    (p.ty < 256 ∧ p.detours < 4 ∧ p.dst < 2 ^ 16 ∧ p.src < 2 ^ 16 ∧ p.epoch < 2 ^ 16 ∧ p.contrib < 256 ∧ p.status < 256 ∧ p.ep < 2 ^ 32 ∧
      p.psn < 2 ^ 24 ∧ p.key < 2 ^ 32 ∧ p.addr < 2 ^ 64 ∧ p.data.length < 2 ^ 16 - 32) ∧ pktOf p.bytes = p := by decide

theorem wit_RawBattRoundTrip :
    2 < 3 ∧ (∀ x ∈ [0, 255], x < if true then 256 else 16) ∧ (∀ x ∈ [0, 15, 3], x < if false then 256 else 16) ∧ [0, 15, 3].length ≤ 16384 ∧
      (decodeBatt ⟨false, 2, true, 3⟩ (fun _ _ => none) (encodeRaw false true 2 [0, 15, 3] ++ [9#8])).1 = [0, 15, 3] := by decide

/-- T1AddressLayout and S8Values: the ends of T1; NaN, a subnormal and the largest. -/
theorem wit_T1AddressLayout : 2 ^ 40 - 1 < 2 ^ 40 ∧ stackOf (t1Base + (2 ^ 40 - 1)) = 15 ∧ pairOf (t1Base + (2 ^ 40 - 1)) = 511 := by decide

theorem wit_S8Values : 255 % 128 = 127 ∧ (254 : Nat) < 256 ∧ 254 % 128 ≠ 127 ∧ 1 / 8 % 16 = 0 ∧ 254 / 8 % 16 ≠ 0 := by decide

/-- NearestEven: the least magnitude that rounds to infinity and the one below; 1 and −1 as operands of every operation; a NaN. -/
theorem wit_NearestEven :
    ((2 ^ 25 - 1 : Nat) ≠ 0 ∧ (0 : Int) ≤ 103 + 149 ∧ ((2 ^ 25 - 1) * 2 ^ (103 + 149) : Int) ≤ (2 ^ 25 - 1 : Nat) * 2 ^ ((103 : Int) + 149).toNat) ∧
      ((2 ^ 25 - 2 : Nat) * 2 ^ ((103 : Int) + 149).toNat : Int) < (2 ^ 25 - 1) * 2 ^ (103 + 149) ∧
      (fFinite 0x7F7FFFFF#32 = true ∧ bitAt (0x7F7FFFFF#32 : W32).toNat 31 = false) ∧
      (match fDec 0x3F800000#32, fDec 0xBF800000#32 with | .fin s m e, .fin t n f => m * 2 ^ 0 == n && e == f && s != t && m != 0 | _, _ => false) = true ∧
      fDec fNaN = .nan := by decide

/-- ConversionsRound: values with a fraction and whole, above, below and within a clamp to 7; a NaN; scales above and below 448, and zero; products of
two vectors; sums. -/
theorem wit_ConversionsRound :
    (match fDec 0x40200000#32 with | .fin _ _ e => decide (e < 0) | _ => false) = true ∧ (match fDec 0x4B800000#32 with | .fin _ _ e => decide (0 ≤ e) | _ => false) = true ∧
      fRna 0x41000000#32 > (7 : Nat) ∧ fRna 0xC1000000#32 < -((7 : Nat) : Int) ∧ (-((7 : Nat) : Int) ≤ fRna 0x40200000#32 ∧ fRna 0x40200000#32 ≤ (7 : Nat)) ∧
      fFinite fNaN = false ∧ (fFinite 0x43E10000#32 = true ∧ fLt 0x43E10000#32 0#32 = false ∧ fLt 0x43E00000#32 0x43E10000#32 = true) ∧
      (fFinite 0x3F800000#32 = true ∧ fLt 0x3F800000#32 0#32 = false ∧ fLt 0x43E00000#32 0x3F800000#32 = false) ∧ fIsZero 0#32 = true ∧
      ([(127 : Int)].length ≤ 128 ∧ ∀ x ∈ [(127 : Int), -128], x.natAbs ≤ 128) ∧ (-(2 : Int) ^ 24).natAbs ≤ 2 ^ 24 := by decide

/-- MemoryWrites: a canonical memory; poisoned bytes, a whole clean line, and a part of a line that is poisoned or not; a byte outside. -/
theorem wit_MemoryWrites :
    let a := t1Base + 32
    let s := has a [7#8] base
    let z := { base with mm := { base.mm with psn := [a / 32] } }
    s.mm.wf = true ∧ (∀ i, i < 32 → remapAddr base (a + i) = a + i) ∧ (∀ i, i < 32 → remapAddr base (a + i) ≠ a + 64) ∧
      (∀ i, i < 32 → remapAddr base (a + i) / 64 ≠ (a + 64) / 32 / 2) ∧ NSet.has (a / 32) base.mm.psn = false ∧
      anyPsn [(1#8, false)] = false ∧ anyPsn [(1#8, true)] = true ∧ lineWidth a = 32 ∧ (a % 32 + 32 ≤ 32 ∧ a % 32 + 1 ≤ 32) ∧
      linePsn z a = true ∧ linePsn base a = false ∧ remapAddr z a = a := by
  refine ⟨by decide, by decide, by decide, by decide, by decide, by decide, by decide, by decide, by decide, by decide, by decide, by decide⟩

/-! Ill-formed commands, one for each check of WellFormed, beside the last value that is well-formed. -/

theorem test_wellFormed_accepts : wellFormed (.ctxOpen 63 63 (2 ^ 32 - 1) (2 ^ 19 - 1) 0 [] []) = true ∧ wellFormed (.mapStage 65535 0 [] [] [] [] (2 ^ 64 - 1)) = true ∧
    wellFormed (.laneBurst 15 3 0 false 0) = true ∧ wellFormed (.attnSlice 15 511 63 4095 (2 ^ 18 - 1) 0 0 0 0 0 0 0 0 0 0 0 0 0 0 0 false false []) = true := by decide

theorem test_fnOk_refuses : wellFormed (.initiateFlr 64) = false := by decide
theorem test_ringOk_refuses : wellFormed (.resume 0 64) = false := by decide
theorem test_numOk_refuses : wellFormed (.nop 0 0 (2 ^ 64)) = false := by decide
theorem test_handleOk_refuses : wellFormed (.norm (2 ^ 19) false noErrs) = false := by decide
theorem test_spanOk_refuses : wellFormed (.migrationSwitch (2 ^ 18) 0 none noErrs) = false := by decide
theorem test_tileOk_bufferOk_refuse : wellFormed (.streamFill 256 0 noErrs) = false ∧ wellFormed (.streamFill 0 4 noErrs) = false := by decide
theorem test_dieOk_refuses : wellFormed (.sequencerSelect 4 0) = false := by decide
theorem test_epochOk_refuses : wellFormed (.mapStage 65536 0 [] [] [] [] 0) = false := by decide
theorem test_timeOk_refuses : wellFormed (.mapApply (2 ^ 64)) = false := by decide
theorem test_nodeOk_refuses : wellFormed (.recall 32768 []) = false := by decide
theorem test_portOk_laneOk_refuse : wellFormed (.laneBurst 16 0 0 false 0) = false ∧ wellFormed (.laneBurst 0 4 0 false 0) = false := by decide
theorem test_vcOk_flitOk_refuse : wellFormed (.dataFlit 0 8 false [] (leBytes 256 0) 0) = false ∧
    wellFormed (.idle 0 [] (leBytes 255 0) 0) = false := by decide
theorem test_headerOk_refuses : wellFormed (.write 0 0 (leBytes 31 0) [] none noErrs 0) = false := by decide
theorem test_queueOk_refuses : wellFormed (.mark 65536) = false := by decide
theorem test_srcOk_refuses : wellFormed (.getVersion 65) = false := by decide
theorem test_stackOk_nbuOk_refuse : wellFormed (.selfCheck 16 0 true 0) = false ∧ wellFormed (.selfCheck 0 512 true 0) = false := by decide
theorem test_pairOk_pcOk_refuse : wellFormed (.refreshDue 0 512 0) = false ∧ wellFormed (.pseudoChannelRetire 512 0) = false := by decide
theorem test_hwOk_refuses : wellFormed (.fill 0 0 0 4096 0 0 0 0) = false := by decide

/-! Values worked out in the spec. -/

/-- 1 + 2^−8 lies halfway between two BF16 values and goes to the even one, 1.0 (R27's example). -/
theorem test_bf16_halfway : bf16OfF 0x3F808000#32 = 0x3F80#16 := by decide

/-- −44.5 goes to −45 (R27's example). -/
theorem test_nearest_away : fRna 0xC2320000#32 = -45 := by decide

/-- Table 3-6: the group of 2.54, −0.75, 0.3 and −0.9560546875 on a page of scale 2^−9. -/
theorem test_kv8_append : let q := quantiseKvGroup [0x40228F5C#32, 0xBF400000#32, 0x3E99999A#32, 0xBF74C000#32] 0x3B000000#32 127
    q.code = 0x53#8 ∧ q.vals = [118, -35, 14, -45] ∧ q.scaleSat = false ∧ q.sat = [false, false, false, false] := by decide

/-- The row after it, whose amax is 120: scale 448, element 127, two saturations. -/
theorem test_kv8_saturates : let q := quantiseKvGroup [0x42F00000#32] 0x3B000000#32 127
    q.code = 0x7E#8 ∧ q.vals = [127] ∧ q.scaleSat = true ∧ q.sat = [true] := by decide

/-- Table 3-4: the bytes of a head record at d = 192. -/
theorem test_head_bytes : headBytes .kv8 192 = 396 ∧ headBytes .kv4 192 = 204 ∧ headBytes .bf16 192 = 768 := by decide

/-- Table 3-7: exp below −88, at −∞ and from 0x42B1_70A4 on; the reciprocals of 0 and of 2^−128. -/
theorem test_special_functions : fExp 0xC2B00001#32 = 0#32 ∧ fExp 0xFF800000#32 = 0#32 ∧ fExp 0x42B170A4#32 = 0x7F800000#32 ∧ fExp 0#32 = fOne ∧
    fRecip 0x80000000#32 = 0xFF800000#32 ∧ fRecip 0xFF800000#32 = 0x80000000#32 := by decide


/-! The system area, stores and layouts. -/

/-- SystemAreaRecords: a span and a page table entry with every field at its last value. -/
def spanMax : Span :=
  { span1 (2 ^ 32 - 1) (2 ^ 32 - 1) with fn := 63, maxTokens := 2 ^ 32 - 1, layerSlots := 65535, kvHeads := 255, ilog := 15, base := 2 ^ 64 - 1, fixedPk := 2 ^ 32 - 1, fixedPv := 2 ^ 32 - 1, gen := 2 ^ 32 - 1, tableGen := 65535, start := 65535, ptBase := 2 ^ 64 - 1, handoff := 65535 }

def pteMax : Pte :=
  ⟨2 ^ 32 - 1, 2 ^ 32 - 1, .t1, true, true, true, true, 255, 65535, 2 ^ 32 - 1, 2 ^ 64 - 1, 1, 9, 0, [3], false, false, 0, [], []⟩

def parked1 : Ctx :=
  { ctx1 with st := .parked, fn := 63, slot := 2 ^ 18 - 1, seed := 2 ^ 64 - 1, stepCtr := 2 ^ 64 - 1, position := 2 ^ 32 - 1, token := 2 ^ 32 - 1, sat := 2 ^ 32 - 1, workKib := 2 ^ 32 - 1, t1Base := 2 ^ 64 - 1 }

theorem wit_SystemAreaRecords_records :
    (spanMax.fn < 64 ∧ spanMax.maxTokens < 2 ^ 32 ∧ spanMax.layerSlots < 2 ^ 16 ∧ spanMax.kvHeads < 256 ∧ spanMax.ilog < 16 ∧ spanMax.base < 2 ^ 64 ∧
      spanMax.fixedPk < 2 ^ 32 ∧ spanMax.fixedPv < 2 ^ 32 ∧ spanMax.horizon < 2 ^ 32 ∧ spanMax.gen < 2 ^ 32 ∧ spanMax.appended < 2 ^ 32 ∧
      spanMax.tableGen < 2 ^ 16 ∧ spanMax.start < 2 ^ 16 ∧ spanMax.ptBase < 2 ^ 64 ∧ spanMax.handoff < 2 ^ 16) ∧
    (pteMax.pk < 2 ^ 32 ∧ pteMax.pv < 2 ^ 32 ∧ pteMax.age < 256 ∧ pteMax.battGen < 2 ^ 16 ∧ pteMax.frame < 2 ^ 32 ∧ pteMax.lower < 2 ^ 64 ∧
      pteMax.written.length < 2 ^ 16) ∧
    (parked1.badRecord = false ∧ parked1.failed = false ∧ parked1.fn < 64 ∧ parked1.seed < 2 ^ 64 ∧ parked1.stepCtr < 2 ^ 64 ∧
      parked1.position < 2 ^ 32 ∧ parked1.token < 2 ^ 32 ∧ parked1.sat < 2 ^ 32 ∧ parked1.workKib < 2 ^ 32 ∧ parked1.t1Base < 2 ^ 64) := by decide

/-- Spans 0 and 2^18 − 1 listed and not; the last slot with a parked context and a free one; the first and last byte of the area. -/
theorem wit_SystemAreaRecords_area :
    (∀ n ∈ [0, 2 ^ 18 - 1], regionAt base (sysRegion.base + 64 * n) 64 = some sysRegion ∧ ((base.setSpan n spanMax).span? n).isSome = true ∧
      base.span? n = none ∧ regionAt base (sysRegion.base + 2 ^ 24 + 2048 * n) 2048 = some sysRegion) ∧
    (let s := { base with sch := { base.sch with ctxs := [(5, parked1)] } }
     (s.sch.ctxs.find? (fun p => p.2.st == .parked && p.2.slot == 2 ^ 18 - 1)) = some (5, parked1) ∧
      (s.sch.ctxs.find? (fun p => p.2.st == .parked && p.2.slot == 0)) = none) ∧
    (∀ a ∈ [sysRegion.base, sysRegion.base + sysRegion.size - 1], regionAt base a 1 = some sysRegion ∧ addrClass a = .t1 ∧ absentIn base a 1 = false) := by
  refine ⟨by decide, by decide, by decide⟩

/-- The bytes of a span's record: span 3 of function 0, 16 tokens, its CRC the one of the 62 bytes before it (Table 6-4). -/
theorem test_spanRecord : (spanRecord 3 (span1 0 5)).take 8 = [3#8, 0#8, 0#8, 1#8, 16#8, 0#8, 0#8, 0#8] ∧
    ((spanRecord 3 (span1 0 5)).drop 40).take 4 = [5#8, 0#8, 0#8, 0#8] := by decide

/-- A tile op issues, on tiles that are free, with `p` of it. -/
def tileIssues (op : List Byte) (sel : Op → Bool) (p : OpCtx → Bool) : Bool :=
  let s := opS op (clean base)
  issues s sel (fun k => !tilesBusy (errsMet k noErrs (issued s k)) k && p k)

/-- TileOpsStore: an op of each form, the formats FP32, BF16 and A8 among them. -/
theorem wit_TileOpsStore_elemwise :
    tileIssues (opB 9 0 0 0 0 0 0xFFFF [0, 1, 1]) (isElem 0) (fun k => k.o.var / 8 == 0) = true ∧
    tileIssues (opB 9 9 0 0 0 0 0xFFFF [0, 1, 1]) (isElem 1) (fun k => k.o.var / 8 == 1) = true ∧
    tileIssues (opB 9 18 0 0 0 0 0xFFFF [0, 1, 1]) (isElem 2) (fun k => k.o.var / 8 == 2) = true ∧
    tileIssues (opB 9 3 0 0 0 0 0xFFFF [0, 1, 1]) (isElem 3) (fun k => k.o.var / 8 == 0) = true ∧
    tileIssues (opB 9 12 0 0 0 0 0xFFFF [0, 1, 1]) (isElem 4) (fun k => k.o.var / 8 == 1) = true ∧
    tileIssues (opB 9 5 0 0 0 0 0xFFFF [0, 1, 1]) (isElem 5) (fun k => k.o.var / 8 == 0) = true := by decide

theorem wit_TileOpsStore_others :
    tileIssues (opB 8 8 0 0 0 0 0xFFFF [0x3727C5AC, 1]) (fun o => o.opcode == 0x08) (fun k => !k.o.varBit 1 && k.o.var / 4 % 4 == 2) = true ∧
    tileIssues (opB 6 0 0 0 0 0 0 [32]) (fun o => o.opcode == 0x06 && !o.varBit 0) (fun _ => true) = true ∧
    tileIssues (opB 6 1 0 0 0xFFFF 0 0 [32]) (fun o => o.opcode == 0x06 && o.varBit 0) (fun _ => true) = true ∧
    tileIssues (opB 11 0 0 0 0 0 0 [1, 1]) (fun o => o.opcode == 0x0B) (fun _ => true) = true ∧
    tileIssues (opB 0x30 0 0 0 0 0 0 [1, 0, 0, 0, 1]) (fun o => o.opcode == 0x30 && o.var % 4 == 0) (fun _ => true) = true ∧
    tileIssues (opB 0x30 1 0 0 0 0 0 [1, 0, 0, 0, 1]) (fun o => o.opcode == 0x30 && o.var % 4 == 1) (fun _ => true) = true ∧
    tileIssues (opB 0x30 2 0 0 0 0 0 [1, 0, 0, 0, 1]) (fun o => o.opcode == 0x30 && o.var % 4 == 2) (fun _ => true) = true := by decide

/-- NearBankStores: the last sector of the last bank pair and the first, copied between; an address outside. -/
theorem wit_NearBankStores :
    let c := mkCmd pairS 7 15 511 0 0 0 (2 ^ 27 - 32) 1 0 0 0 0
    let a := pairAddr 15 511 (2 ^ 27 - 32)
    let d := pairAddr 15 511 0
    (∀ i ∈ [0, 31], addrClass (a + i) = .t1 ∧ remapAddr pairS (a + i) = a + i ∧ addrClass (d + i) = .t1 ∧ remapAddr pairS (d + i) = d + i) ∧
      c.row % 32 = 0 ∧ c.arg0 % 2 ^ 27 = 0 ∧ c.len = 1 ∧ d = pairAddr c.home.1 c.home.2 (c.arg0 % 2 ^ 27) ∧
      anyPsn (bankBytes 0 (elemwise 0 0#32 (bankElems 0 (pread pairS a 32)) [])) = false ∧
      inBundle pairS d 32 = false ∧ storeBarred pairS d 32 = false ∧ pairOwned pairS 0 d 32 = true ∧ (0 + 32 ≤ c.row) ∧ anyPsn (pread pairS a 32) = false ∧
      (∀ i, i < 32 → remapAddr pairS (a + i) ≠ d) := by
  refine ⟨by decide, by decide, by decide, by decide, by decide, by decide, by decide, by decide, by decide, by decide, by decide⟩

/-- RowsApart: rows of 132 bytes, 16 of them, and rows as long as a page. -/
theorem wit_RowsApart :
    (1 ≤ (span1 0 0).rowBytes ∧ (span1 0 0).rowBytes ≤ 65536 ∧ 0 < (span1 0 0).layerSlots ∧ 15 < (span1 0 0).maxTokens ∧ (14 : Nat) ≠ 15) ∧
    (let x := { span1 0 0 with fmt := .bf16, dim := 256, kvHeads := 64, layerSlots := 2 }
     x.rowBytes = 65536 ∧ 1 < x.layerSlots ∧ (x.rowAt 1 15).1 + 1 = x.pages) := by decide

/-- The last row of the span of Table 3-4's KV8 heads at d = 64: row 15 is at 15 × 132 in its only page. -/
theorem test_rowAt : (span1 0 0).rowAt 0 15 = (0, 1980) := by decide

/-- BiasBuckets: distances at the ends of octaves, and a row beyond the query. -/
theorem wit_BiasBuckets :
    (15 < 16 ∧ (2 ^ 4 ≤ 16 ∧ 31 < 2 ^ (4 + 1)) ∧ (2 ^ 15 ≤ 57343 ∧ 57343 < 2 ^ (15 + 1)) ∧ 57344 ≤ 57344) ∧
    (let q : AttnReq := ⟨0, 3, 0, 0, [], 0#32, 7, 0, 1, 0, 0, 0, [], false, 64, 0, 8, 0, false, 0⟩
     posOf q 7 ≤ q.posQ ∧ q.posQ < posOf q 8) := by decide

/-- Table 8-2. -/
theorem test_bucket : ([15, 16, 19, 20, 31, 32, 39, 96, 111, 32768, 40959, 49152, 57343, 57344].map bucket) =
    [15, 16, 16, 17, 19, 20, 20, 26, 26, 60, 60, 62, 62, 63] := by decide

end Sys2Proof.Tests
end

/-! PROOFS. The register commands and the rules of a register write (R4, R5, R220, R350, R351, R354). -/

namespace Sys2Proof.Machine

open Sys2Proof

/-! Fields read after writes. -/

section Fields

variable {i j : Nat} {v : Fld → Nat}

/-- A counter increased reads its old value plus the increase, held at its all-ones value (R7). -/
theorem fld_incFld_same (s : State) (f : Fld) (n i j : Nat) : (s.incFld f n i j).fld f i j = min (s.fld f i j + n) f.max := by
  have hpow : 0 < 2 ^ f.wd := Nat.two_pow_pos f.wd
  have hsat : satTo f.max (s.fld f i j + n) = min (s.fld f i j + n) f.max := by
    unfold satTo
    split <;> omega
  rw [State.incFld, State.fld_setFld_same, hsat]
  refine Nat.mod_eq_of_lt ?_
  unfold Fld.max
  omega

/-- Fields set one after another leave every field at another bit address as it was. -/
theorem fld_foldl_setFld_ne {y : Fld} {i' j' : Nat} {l : List Fld} (h : ∀ x ∈ l, y.key i' j' ≠ x.key i j) (s : State) :
    (l.foldl (fun t x => t.setFld x (v x) i j) s).fld y i' j' = s.fld y i' j' := by
  induction l generalizing s with
  | nil => rfl
  | cons x l ih =>
    obtain ⟨hx, hl⟩ := List.forall_mem_cons.mp h
    rw [List.foldl_cons, ih hl, State.fld_setFld_ne _ hx]

/-- Of fields set one after another, one that shares its bit address with no other reads what it was set to. -/
theorem fld_foldl_setFld_mem {x : Fld} {l : List Fld} (hx : x ∈ l) (huniq : ∀ y ∈ l, y.key i j = x.key i j → y = x) (s : State) :
    (l.foldl (fun t x => t.setFld x (v x) i j) s).fld x i j = v x % 2 ^ x.wd := by
  induction l generalizing s with
  | nil => cases hx
  | cons y l ih =>
    obtain ⟨hy, hl⟩ := List.forall_mem_cons.mp huniq
    rw [List.foldl_cons]
    by_cases hmem : x ∈ l
    · exact ih hmem hl _
    · obtain rfl : x = y := (List.mem_cons.mp hx).resolve_right hmem
      have hrest : ∀ z ∈ l, x.key i j ≠ z.key i j := fun z hz hkey => hmem (hl z hz hkey.symm ▸ hz)
      rw [fld_foldl_setFld_ne hrest, State.fld_setFld_same]

end Fields

/-! What a write does to one register entry. -/

section Writes

variable {s : State} {w : Wr} {x : Fld}

/-- The fields of an access code have that code. -/
theorem Wr.acc_of_mem_flds {a : Access} (h : x ∈ w.flds a) : x.acc = a := by
  simp only [Wr.flds, List.mem_filter, Bool.and_eq_true, decide_eq_true_eq] at h
  obtain ⟨_, hacc, _⟩ := h
  exact hacc

/-- A source other than the management controller sets RW fields, and RWL fields of a register that is not locked (R5, R354). -/
theorem Wr.acc_of_mem_sets (hsrc : w.src ≠ mgmt) (h : x ∈ w.sets s) : x.acc = .rw ∨ x.acc = .rwl ∧ locked s w.k = false := by
  rw [Wr.sets, if_neg hsrc, List.append_nil, List.mem_append] at h
  rcases h with hrw | hrwl
  · exact Or.inl (acc_of_mem_flds hrw)
  · cases hlock : locked s w.k with
    | true => simp [hlock] at hrwl
    | false => exact Or.inr ⟨acc_of_mem_flds (by simpa [hlock] using hrwl), rfl⟩

/-- A write by a function that touches, in a locked register, no RW field sets nothing. -/
theorem Wr.sets_eq_nil_of_locked (hlock : locked s w.k = true) (hrw : w.flds .rw = []) (hsrc : w.src ≠ mgmt) : w.sets s = [] := by
  simp [Wr.sets, hlock, hrw, hsrc]

/-- A write that touches no W1S and no W1C field strobes nothing. -/
theorem Wr.strobe_eq_self (hset : w.flds .w1s = []) (hclear : w.flds .w1c = []) (s : State) : w.strobe s = s := by
  simp [Wr.strobe, hset, hclear]

/-- A W1C field written with 1, at a bit address of its own, reads 0 after the strobes (R4). -/
theorem Wr.fld_strobe_w1c (hx : x ∈ w.flds .w1c) (hone : w.one x = true)
    (huniq : ∀ y ∈ w.flds .w1c, y.key w.k.i w.k.j = x.key w.k.i w.k.j → y = x) (s : State) : (w.strobe s).fld x w.k.i w.k.j = 0 := by
  have hmem : x ∈ (w.flds .w1c).filter (fun x => w.one x) := List.mem_filter.mpr ⟨hx, hone⟩
  exact (fld_foldl_setFld_mem hmem (fun y hy => huniq y (List.mem_of_mem_filter hy)) _).trans (Nat.zero_mod _)

/-- A field at a bit address where the write strobes no 1 keeps its value (R4). -/
theorem Wr.fld_strobe_ne {y : Fld} {i j : Nat} (h : ∀ x ∈ w.flds .w1c ++ w.flds .w1s, w.one x = true → y.key i j ≠ x.key w.k.i w.k.j)
    (s : State) : (w.strobe s).fld y i j = s.fld y i j := by
  obtain ⟨hclear, hset⟩ := List.forall_mem_append.mp h
  have hfilter : ∀ {l : List Fld}, (∀ x ∈ l, w.one x = true → y.key i j ≠ x.key w.k.i w.k.j) →
      ∀ x ∈ l.filter (fun x => w.one x), y.key i j ≠ x.key w.k.i w.k.j := fun hl x hx =>
    hl x (List.mem_of_mem_filter hx) (List.of_mem_filter hx)
  exact (fld_foldl_setFld_ne (hfilter hclear) _).trans (fld_foldl_setFld_ne (hfilter hset) s)

/-- The MODE rule keeps a state that the write did not change (R117). -/
theorem keepMode_self (s : State) (w : Wr) : keepMode s s w = s := by
  simp [keepMode]

/-- A discarded RWL write records its source, its offset and one more in the count (R354). -/
theorem fld_lockDiscard (s : State) (w : Wr) :
    (lockDiscard s w).fld R.ID_LOCK_ADDR.SOURCE = bit (w.src == mgmt) ∧
    (lockDiscard s w).fld R.ID_LOCK_ADDR.OFFSET = (w.k.base + w.off / 8) % 2 ^ R.ID_LOCK_ADDR.OFFSET.wd ∧
    (lockDiscard s w).fld R.ID_LOCK_DISC.COUNT = min (s.fld R.ID_LOCK_DISC.COUNT + 1) (2 ^ R.ID_LOCK_DISC.COUNT.wd - 1) := by
  have hoffset : R.ID_LOCK_ADDR.OFFSET.key 0 0 ≠ R.ID_LOCK_ADDR.SOURCE.key 0 0 := by decide
  have hcount : R.ID_LOCK_DISC.COUNT.key 0 0 ≠ R.ID_LOCK_ADDR.SOURCE.key 0 0 := by decide
  have hcount' : R.ID_LOCK_DISC.COUNT.key 0 0 ≠ R.ID_LOCK_ADDR.OFFSET.key 0 0 := by decide
  unfold lockDiscard
  refine ⟨?_, ?_, ?_⟩
  · rw [State.fld_setFld_same]
    cases w.src == mgmt <;> rfl
  · rw [State.fld_setFld_ne _ hoffset, State.fld_setFld_same]
  · rw [State.fld_setFld_ne _ hcount, State.fld_setFld_ne _ hcount', fld_incFld_same]
    rfl

/-- A PF0 write that is not PF0's to make ends in `pf0Discard`. -/
theorem plainWrite_pf0Barred (h : pf0Barred w = true) (s : State) : plainWrite w s = pf0Discard s w := by
  rw [plainWrite, if_pos h]

/-- Off the RWL fields under LOCK, a write barred to PF0 sets CFG_REJECT. -/
theorem pf0Discard_noLock (h : lockHit s w = false) : pf0Discard s w = rejectAt s w.k := by
  simp [pf0Discard, h]

/-- An RWL field under LOCK is discarded as R354 says, with no CFG_REJECT. -/
theorem pf0Discard_lock (h : lockHit s w = true) (hset : (w.flds .w1s).any (fun x => x.lo == 0 && w.one x) = false) :
    pf0Discard s w = lockDiscard s w := by
  simp only [pf0Discard, h, hset, if_true, Bool.not_false, Bool.and_self]

/-- A write that would set LOCK as well is rejected besides. -/
theorem pf0Discard_lock_setsLock (h : lockHit s w = true) (hset : (w.flds .w1s).any (fun x => x.lo == 0 && w.one x) = true) :
    pf0Discard s w = rejectAt (lockDiscard s w) w.k := by
  simp only [pf0Discard, h, hset, if_true, Bool.not_true, Bool.and_false, Bool.false_eq_true, if_false]

/-- One field out of its range discards the whole write. -/
theorem plainWrite_outOfRange (hpf0 : pf0Barred w = false) (hx : x ∈ w.sets s) (hrange : inRange x (w.val s x) = false) :
    plainWrite w s = rejectAt s w.k := by
  have hall : (w.sets s).all (fun x => inRange x (w.val s x)) = false := List.all_eq_false.mpr ⟨x, hx, by simp [hrange]⟩
  simp [plainWrite, hpf0, hall]

/-- A write of locked RWL fields alone is discarded, counted and recorded, and does nothing else (R354). SHP_GATE_CTL, whose SWAP is
held to the gate rules by itself, is left out. -/
theorem plainWrite_locked (hpf0 : pf0Barred w = false) (hlock : locked s w.k = true) (hrwl : w.flds .rwl ≠ []) (hrw : w.flds .rw = [])
    (hset : w.flds .w1s = []) (hclear : w.flds .w1c = []) (hsrc : w.src ≠ mgmt) (haddr : w.k.info.addr ≠ 0xc00108) :
    plainWrite w s = lockDiscard s w := by
  have hsets : w.sets s = [] := Wr.sets_eq_nil_of_locked hlock hrw hsrc
  have happly : w.apply s = s := by rw [Wr.apply, hsets, List.foldl_nil]
  have hhit : lockHit s w = true := by simp [lockHit, hlock, hrwl]
  simp [plainWrite, hpf0, hsets, happly, haddr, keepMode_self, Wr.strobe_eq_self hset hclear, hset, hhit]

/-- A write by a source that may not write the register does nothing outside HI_FN_LIMIT (R220, R351). -/
theorem writeReg_barred (hmay : mayWrite w = false) (haddr : w.k.info.addr ≠ 0x781000) : writeReg s w = s := by
  simp [writeReg, hmay, haddr]

/-- HI_FN_LIMIT written by its own function sets that function's CFG_REJECT. -/
theorem writeReg_own_limit (hmay : mayWrite w = false) (haddr : w.k.info.addr = 0x781000) (hsrc : w.src = w.k.i) :
    writeReg s w = s.setFld R.HI_FN_STAT.CFG_REJECT 1 w.src := by
  rw [writeReg, hmay, Bool.not_false, if_pos rfl, if_pos ⟨haddr, hsrc⟩]

end Writes

/-- Settles O25, from one lemma per rule of a write: who may write, PF0's bars, ranges, locks, and what the strobes set and leave. -/
theorem registerRules : Obligations.RegisterRules :=
  ⟨fun _ _ => writeReg_barred,
   fun _ _ => writeReg_own_limit,
   fun s _ hbar =>
    ⟨fun h => (plainWrite_pf0Barred hbar s).trans (pf0Discard_noLock h),
     fun h hset => (plainWrite_pf0Barred hbar s).trans (pf0Discard_lock h hset),
     fun h hset => (plainWrite_pf0Barred hbar s).trans (pf0Discard_lock_setsLock h hset)⟩,
   fun _ _ _ => plainWrite_outOfRange,
   fun _ _ => plainWrite_locked,
   fld_lockDiscard,
   fun s _ _ hx hone huniq => Wr.fld_strobe_w1c hx hone huniq s,
   fun s _ _ _ _ h => Wr.fld_strobe_ne h s,
   fun _ _ _ => Wr.acc_of_mem_sets⟩

/-! Accesses of a bad target (R350). -/

section BadTargets

variable {s : State} {src a n : Nat}

/-- A bad target is one of a wrong size or alignment, or one where nothing lies. -/
theorem badTarget_iff : badTarget s src a n = true ↔ target s src a n = .nothing ∨ target s src a n = .wrong := by
  unfold badTarget
  cases target s src a n <;> simp

/-- A write to a bad target is counted and does nothing else. -/
theorem regWrite_badTarget (h : badTarget s src a n = true) (v : Nat) : regWrite src a n v s = s.incFld R.ID_BAD_ACCESS.COUNT := by
  rcases badTarget_iff.mp h with ht | ht <;> simp only [regWrite, ht]

/-- A read where nothing lies sends back 0. -/
theorem readReg_nothing (h : target s src a n = .nothing) : readReg src a n s = s.emit (.readData src a 0) := by
  simp only [readReg, regRead, h]

/-- A read of a wrong size or alignment is counted and sends back 0. -/
theorem readReg_wrong (h : target s src a n = .wrong) :
    readReg src a n s = (s.incFld R.ID_BAD_ACCESS.COUNT).emit (.readData src a 0) := by
  simp only [readReg, regRead, h]

end BadTargets

/-! What each register command does while the module is on. -/

section Commands

variable {s : State} (hon : s.pow.st = .on) (src : Nat)
include hon

theorem exec_registerWrite_on (a n v : Nat) : exec (.registerWrite src a n v) s = .next (finish (regWrite src a n v s)) :=
  act_on hon _

theorem exec_w1cClear_on (a n v : Nat) : exec (.w1cClear src a n v) s = .next (finish (regWrite src a n v s)) :=
  act_on hon _

theorem exec_tileWinWrite_on {t : Nat} (ht : t < 256) (v : Nat) :
    exec (.tileWinWrite src t v) s = .next (finish (regWrite src (0x100004 + 0x1000 * t) 4 v s)) :=
  (act_on hon _).trans (by rw [if_pos ht])

theorem exec_tileStreamWrite_on {t : Nat} (ht : t < 256) (v : Nat) :
    exec (.tileStreamWrite src t v) s = .next (finish (regWrite src (0x100008 + 0x1000 * t) 4 v s)) :=
  (act_on hon _).trans (by rw [if_pos ht])

theorem exec_qmFlush_on (v : Nat) : exec (.qmFlush src v) s = .next (finish (regWrite src 0xb00020 4 v s)) :=
  act_on hon _

theorem exec_shqCfgWrite_on {q : Nat} (hq : q < 8192) (v : Nat) :
    exec (.shqCfgWrite src q v) s = .next (finish (regWrite src (0xc10000 + 16 * q) 8 v s)) :=
  (act_on hon _).trans (by rw [if_pos hq])

theorem exec_swap_on {p : Nat} (hp : p < 16) (v : Nat) :
    exec (.swap src p v) s = .next (finish (regWrite src (0xc00108 + 16 * p) 4 (setBits v 2 2 1) s)) :=
  (act_on hon _).trans (by rw [if_pos hp])

theorem exec_pwrCeilWrite_on (v : Nat) : exec (.pwrCeilWrite src v) s = .next (finish (regWrite src 0xf0000c 4 v s)) :=
  act_on hon _

theorem exec_lvlSetWrite_on (v : Nat) : exec (.lvlSetWrite src v) s = .next (finish (regWrite src 0xf00004 4 v s)) :=
  act_on hon _

theorem exec_deepReq_function {src : Nat} (hsrc : src ≠ mgmt) (v : Nat) :
    exec (.deepReq src v) s = .next (finish (regWrite src 0x10000 4 (setBits v 1 1 1) s)) :=
  (act_on hon _).trans (by rw [if_neg hsrc])

theorem exec_deepReq_operator (v : Nat) : exec (.deepReq mgmt v) s = .next (finish (askDeep s)) :=
  (act_on hon _).trans (by rw [if_pos rfl])

/-- LOCK_SET turns on whether the register at its address holds a LOCK bit. -/
theorem exec_lockSet_on {a : Nat} {k : RegRef} (hk : regAt a = some k) (v : Nat) :
    exec (.lockSet src a v) s = .next (finish
      (if k.info.flds.any (fun x => x.lo == 0 && x.acc == .w1s) then regWrite src a 4 (setBits v 0 0 1) s else s)) :=
  (act_on hon _).trans (by rw [hk])

theorem exec_rcRead_on (a n : Nat) : exec (.rcRead src a n) s = .next (finish (readReg src a n s)) :=
  act_on hon _

theorem exec_qstatAvgRead_on : exec (.qstatAvgRead src) s = .next (finish (readReg src 0xb00098 8 s)) :=
  act_on hon _

theorem exec_badAccess_good {a n : Nat} (h : badTarget s src a n = false) (write : Bool) (v : Nat) :
    exec (.badAccess src a n write v) s = .next (finish s) :=
  (act_on hon _).trans (by rw [h, Bool.not_false, if_pos rfl])

/-- BAD_ACCESS of a bad target is the access itself. -/
theorem exec_badAccess_bad {a n : Nat} (h : badTarget s src a n = true) (write : Bool) (v : Nat) :
    exec (.badAccess src a n write v) s = .next (finish (if write then regWrite src a n v s else readReg src a n s)) :=
  (act_on hon _).trans (by rw [h, Bool.not_true, if_neg Bool.false_ne_true])

end Commands

/-- Settles O24, from one lemma per command. -/
theorem registerCommands : Obligations.RegisterCommands := by
  unfold Obligations.RegisterCommands
  refine ⟨?writes, fun s v hon => exec_deepReq_operator hon v, ?reads, ?bad⟩
  case writes =>
    intro s src a n v hon
    refine ⟨exec_registerWrite_on hon src a n v, exec_w1cClear_on hon src a n v, fun t ht => exec_tileWinWrite_on hon src ht v,
      fun t ht => exec_tileStreamWrite_on hon src ht v, exec_qmFlush_on hon src v, fun q hq => exec_shqCfgWrite_on hon src hq v,
      fun p hp => exec_swap_on hon src hp v, exec_pwrCeilWrite_on hon src v, exec_lvlSetWrite_on hon src v,
      fun hsrc => exec_deepReq_function hon hsrc v, ?lock, ?noLock⟩
    case lock =>
      intro k hk hlock
      rw [exec_lockSet_on hon src hk, if_pos hlock]
    case noLock =>
      intro k hk hlock
      rw [exec_lockSet_on hon src hk, hlock, if_neg Bool.false_ne_true]
  case reads =>
    exact fun s src a n hon => ⟨exec_rcRead_on hon src a n, exec_qstatAvgRead_on hon src⟩
  case bad =>
    intro s src a n v hon
    refine ⟨fun h w => exec_badAccess_good hon src h w v, fun h => ?write, fun h => ?nothing, fun h => ?wrong⟩
    case write =>
      rw [exec_badAccess_bad hon src h, if_pos rfl, regWrite_badTarget h]
    case nothing =>
      rw [exec_badAccess_bad hon src (badTarget_iff.mpr (.inl h)), if_neg Bool.false_ne_true, readReg_nothing h]
    case wrong =>
      rw [exec_badAccess_bad hon src (badTarget_iff.mpr (.inr h)), if_neg Bool.false_ne_true, readReg_wrong h]

end Sys2Proof.Machine

/-! PROOFS. While the module is not on: every command but those of the management island, the pins and the resets does nothing (R18, R310). -/

namespace Sys2Proof.Machine

open Sys2Proof

/-- A command works in every power state, or it is one that the module takes only while it is on. -/
theorem worksOff_or_exec_eq_act (c : Instr) (s : State) : worksOff c = true ∨ ∃ t, exec c s = act s t := by
  cases c with
  | tlsConnect | claim | releaseClaim | firmwareInstall | commitSvn | clearRetirement | watchdogExpiry | operatorConfigurationChange
  | moduleReset | resetN | powerOff | perstN | perstNRelease | coldStart | pwrEnFall | inputFault | leakN | thermalTrip | thermTripRelease
  | smbusStateRead | smbusFruRead | smbusPowerRead | smbusWrite | fabricReferenceReturn => exact .inl rfl
  | _ => exact .inr ⟨_, rfl⟩

/-- Settles O42: a command that does not work in Off is taken only by a module that is on. -/
theorem offDoesNothing : Obligations.OffDoesNothing := by
  unfold Obligations.OffDoesNothing
  intro c s hnot hworks
  rcases worksOff_or_exec_eq_act c s with h | ⟨t, h⟩
  · exact absurd h (by simp [hworks])
  · exact h.trans (act_off hnot t)

end Sys2Proof.Machine

/-! PROOFS. The power commands: the clock, the ceilings, level mode, temperatures and naps (R17, R123, R331 to R342). -/

namespace Sys2Proof.Machine

open Sys2Proof

/-! Fields read after an update that sets no field. -/

@[simp] theorem State.fld_updPow (s : State) (f : Power → Power) (y : Fld) (i j : Nat) : (s.updPow f).fld y i j = s.fld y i j := rfl
@[simp] theorem State.fld_takeFree (s : State) (n : Nat) (y : Fld) (i j : Nat) : (s.takeFree n).fld y i j = s.fld y i j := rfl
@[simp] theorem State.fld_emit (s : State) (o : Out) (y : Fld) (i j : Nat) : (s.emit o).fld y i j = s.fld y i j := rfl

/-! Ceilings (R331). `u` is the state that a window leaves to judge: the time, the input power and the junctions are taken in. -/

section Ceiling

variable {s u : State} {w c p t : Nat} (hu : setTemps ((atTime s t).setFld R.PWR_MEAS.INPUT_W (min 4095 w)) c p = u)
include hu

/-- A window at or below the ceiling, every junction below 110 °C, is no event. -/
theorem doCeilingEvent_calm (hw : w ≤ effCeil u) (hj : max c p < 110) : doCeilingEvent w c p t s = calmKept u w (max c p) := by
  have hcool : ¬110 ≤ max c p := Nat.not_le.mpr hj
  simp only [doCeilingEvent, hu, hw, hcool, decide_true, decide_false, Bool.not_false, Bool.and_self, if_true]

/-- A window above the ceiling is an event that may halve the stacks' allowance, whatever the junctions are. -/
theorem doCeilingEvent_over (hw : effCeil u < w) :
    doCeilingEvent w c p t s = ceilingHit (ceilingHalve u) (decide (110 ≤ max c p)) := by
  have hover : ¬w ≤ effCeil u := Nat.not_le.mpr hw
  simp only [doCeilingEvent, hu, hw, hover, decide_false, Bool.false_and, Bool.false_eq_true, if_false, if_true]

/-- A junction at 110 °C is an event by itself. -/
theorem doCeilingEvent_hot (hw : w ≤ effCeil u) (hj : 110 ≤ max c p) : doCeilingEvent w c p t s = ceilingHit u true := by
  have hunder : ¬effCeil u < w := Nat.not_lt.mpr hw
  simp only [doCeilingEvent, hu, hunder, hj, decide_true, Bool.not_true, Bool.and_false, Bool.false_eq_true, if_false]

/-- With no ceiling event in progress there is nothing to recover from. -/
theorem doCeilingRecovery_none (hceil : u.pow.ceil = 0) : doCeilingRecovery w c p t s = u := by
  simp only [doCeilingRecovery, hu, hceil, if_true]

/-- A window in which the conditions of recovery fail ends the wait. -/
theorem doCeilingRecovery_unmet (hceil : u.pow.ceil ≠ 0) (hok : recoverOk u w (max c p) = false) :
    doCeilingRecovery w c p t s = u.updPow (fun q => { q with calm := none }) := by
  simp only [doCeilingRecovery, hu, hceil, hok, Bool.not_false, if_false, if_true]

/-- The first window in which the conditions hold begins the wait. -/
theorem doCeilingRecovery_begins (hceil : u.pow.ceil ≠ 0) (hok : recoverOk u w (max c p) = true) (hcalm : u.pow.calm = none) :
    doCeilingRecovery w c p t s = u.updPow (fun q => { q with calm := some u.now }) := by
  simp only [doCeilingRecovery, hu, hceil, hok, hcalm, Bool.not_true, Bool.false_eq_true, if_false]

/-- After 100 µs of the wait a halved allowance is what is restored first. -/
theorem doCeilingRecovery_restores {a : Nat} (hceil : u.pow.ceil ≠ 0) (hok : recoverOk u w (max c p) = true) (hcalm : u.pow.calm = some a)
    (hwait : a + 100000 ≤ u.now) (hhalved : u.pow.halved = true) :
    doCeilingRecovery w c p t s = u.updPow (fun q => { q with halved := false, ceil := 2, lastStep := u.now }) := by
  have hdue : ¬u.now < a + 100000 := Nat.not_lt.mpr hwait
  simp only [doCeilingRecovery, hu, hceil, hok, hcalm, hdue, hhalved, Bool.not_true, Bool.false_eq_true, if_false, if_true]

end Ceiling

/-! The end of a level window (R333 to R337). -/

section Window

variable {y : Fld}

/-- The fields that hold the measurements of a window. -/
def measuredFlds : List Fld :=
  [R.PWR_MEAS.WINDOW_W, R.PWR_MEAS.HEAT_W, R.PWR_MEAS.VIN, R.THERM_STAT.INLET, R.THERM_STAT.OUTLET, R.PWR_ENERGY.HEAT_J]

/-- The fields that hold what level mode reports of a window. -/
def levelFlds : List Fld :=
  [R.LVL_STAT.HOLDING, R.LVL_STAT.BELOW, R.LVL_STAT.ABOVE, R.LVL_STAT.ADMIT_HELD, R.LVL_STAT.FILLING, R.LVL_STAT.CEIL_WIN]

/-- Recording the measurements leaves every other field. -/
theorem fld_measured_ne (h : ∀ x ∈ measuredFlds, y.key 0 0 ≠ x.key 0 0) (w v n o e : Nat) (s : State) :
    (measured w v n o e s).fld y = s.fld y := by
  simp only [measuredFlds, List.forall_mem_cons] at h
  obtain ⟨hwindow, hheat, hvin, hinlet, houtlet, henergy, _⟩ := h
  simp (disch := assumption) only [measured, State.fld_updPow, State.fld_setFld_ne]

theorem flag_measured_ne (h : ∀ x ∈ measuredFlds, y.key 0 0 ≠ x.key 0 0) (w v n o e : Nat) (s : State) :
    (measured w v n o e s).flag y = s.flag y := by
  rw [State.flag, State.flag, fld_measured_ne h]

/-- The power that a window's record holds. -/
theorem fld_measured_windowW (w v n o e : Nat) (s : State) : (measured w v n o e s).fld R.PWR_MEAS.WINDOW_W = min 4095 w := by
  have hfits : min 4095 w % 2 ^ R.PWR_MEAS.WINDOW_W.wd = min 4095 w := Nat.mod_eq_of_lt (by change min 4095 w < 4096; omega)
  simp (disch := decide) only [measured, State.fld_updPow, State.fld_setFld_ne, State.fld_setFld_same, hfits]

/-- Of the power state only the heat's remainder changes. -/
theorem pow_measured (w v n o e : Nat) (s : State) : (measured w v n o e s).pow = { s.pow with tenths := (s.pow.tenths + e) % 10 } := rfl

/-- Reporting leaves every other field. -/
theorem fld_levelStatus_ne (h : ∀ x ∈ levelFlds, y.key 0 0 ≠ x.key 0 0) (w : Nat) (f : Bool) (s : State) :
    (levelStatus w f s).fld y = s.fld y := by
  simp only [levelFlds, List.forall_mem_cons] at h
  obtain ⟨hholding, hbelow, habove, hadmit, hfilling, hceil, _⟩ := h
  simp (disch := assumption) only [levelStatus, State.fld_setFld_ne]

/-- One bit reads back from a field one bit wide. -/
theorem bit_mod_two (b : Bool) : bit b % 2 = bit b := by cases b <;> rfl

/-- What level mode reports of a window, field by field. -/
theorem fld_levelStatus (w : Nat) (f : Bool) (s : State) :
    (levelStatus w f s).fld R.LVL_STAT.HOLDING = bit (s.flag R.LVL_CTL.ENABLE && inBand s w) ∧
    (levelStatus w f s).fld R.LVL_STAT.BELOW = bit (s.flag R.LVL_CTL.ENABLE && decide (w * 1000 < s.pow.target * 98)) ∧
    (levelStatus w f s).fld R.LVL_STAT.ABOVE = bit (s.flag R.LVL_CTL.ENABLE && (decide (s.pow.target * 102 < w * 1000) &&
      decide (s.fld R.CLK_STAT.TCLK ≤ s.fld R.LVL_CTL.TCLK_MIN))) ∧
    (levelStatus w f s).fld R.LVL_STAT.ADMIT_HELD = admission s w % 2 ∧
    (levelStatus w f s).fld R.LVL_STAT.FILLING = bit (s.flag R.LVL_CTL.ENABLE && (f && s.flag R.LVL_CTL.FILL_EN)) ∧
    (levelStatus w f s).fld R.LVL_STAT.CEIL_WIN = bit s.pow.ceilIn := by
  simp (disch := decide) only [levelStatus, State.fld_setFld_ne, State.fld_setFld_same]
  exact ⟨bit_mod_two _, bit_mod_two _, bit_mod_two _, rfl, bit_mod_two _, bit_mod_two _⟩

/-- The target after a window: with level mode on a step of at most SLEW toward SET_W, at most 95 % of the ceiling; else unchanged. -/
theorem target_moveTarget (s : State) :
    (moveTarget s).pow.target =
      if s.flag R.LVL_CTL.ENABLE = true then
        min (if s.pow.target < min (s.fld R.LVL_SET.SET_W * 10) (ceil95 s)
          then min (min (s.fld R.LVL_SET.SET_W * 10) (ceil95 s)) (s.pow.target + s.fld R.LVL_SET.SLEW)
          else max (min (s.fld R.LVL_SET.SET_W * 10) (ceil95 s)) (s.pow.target - s.fld R.LVL_SET.SLEW)) (ceil95 s)
      else s.pow.target := by
  unfold moveTarget
  cases s.flag R.LVL_CTL.ENABLE <;> rfl

/-- Moving the target sets no field. -/
theorem regs_moveTarget (s : State) : (moveTarget s).regs = s.regs := by
  unfold moveTarget
  split <;> rfl

theorem ceilIn_moveTarget (s : State) : (moveTarget s).pow.ceilIn = s.pow.ceilIn := by
  unfold moveTarget
  split <;> rfl

/-- From a target within 95 % of the ceiling the move is at most SLEW either way, and the target stays within (R333, R336). -/
theorem target_moveTarget_bounds {s : State} (hen : s.flag R.LVL_CTL.ENABLE = true) (hceil : s.pow.target ≤ ceil95 s) :
    (moveTarget s).pow.target ≤ s.pow.target + s.fld R.LVL_SET.SLEW ∧
    s.pow.target ≤ (moveTarget s).pow.target + s.fld R.LVL_SET.SLEW ∧ (moveTarget s).pow.target ≤ ceil95 s := by
  rw [target_moveTarget, if_pos hen]
  split <;> omega

/-- A window's measurements recorded and its report made: `e` is the heat estimate. -/
def windowClosed (w v n o e : Nat) (f : Bool) (b : State) : State :=
  (levelStatus w f (measured w v n o e b.takeFree)).updPow (fun p =>
    { p with ceilIn := false, thermIn := (levelStatus w f (measured w v n o e b.takeFree)).flag R.THERM_STAT.SOFT_THROTTLE })

section Closed

variable (w v n o e : Nat) (f : Bool) (b : State)

theorem target_windowClosed : (windowClosed w v n o e f b).pow.target = b.pow.target := rfl

theorem ceilIn_windowClosed : (windowClosed w v n o e f b).pow.ceilIn = false := rfl

/-- Closing a window leaves every field that is neither a measurement nor a part of the report. -/
theorem fld_windowClosed_ne (hmeasured : ∀ x ∈ measuredFlds, y.key 0 0 ≠ x.key 0 0) (hlevel : ∀ x ∈ levelFlds, y.key 0 0 ≠ x.key 0 0) :
    (windowClosed w v n o e f b).fld y = b.fld y := by
  rw [windowClosed, State.fld_updPow, fld_levelStatus_ne hlevel, fld_measured_ne hmeasured, State.fld_takeFree]

theorem flag_windowClosed_ne (hmeasured : ∀ x ∈ measuredFlds, y.key 0 0 ≠ x.key 0 0) (hlevel : ∀ x ∈ levelFlds, y.key 0 0 ≠ x.key 0 0) :
    (windowClosed w v n o e f b).flag y = b.flag y := by
  rw [State.flag, State.flag, fld_windowClosed_ne w v n o e f b hmeasured hlevel]

theorem fld_windowClosed_windowW : (windowClosed w v n o e f b).fld R.PWR_MEAS.WINDOW_W = min 4095 w := by
  rw [windowClosed, State.fld_updPow, fld_levelStatus_ne (by decide), fld_measured_windowW]

theorem inBand_measured : inBand (measured w v n o e b.takeFree) w = inBand b w := rfl

/-- Admission is judged alike before and after the measurements are recorded. -/
theorem admission_measured : admission (measured w v n o e b.takeFree) w = admission b w := by
  simp (disch := decide) only [admission, State.flag, fld_measured_ne, State.fld_takeFree, inBand_measured]
  rfl

/-- The report of a closed window is that of the state it found. -/
theorem fld_windowClosed_level :
    (windowClosed w v n o e f b).fld R.LVL_STAT.HOLDING = bit (b.flag R.LVL_CTL.ENABLE && inBand b w) ∧
    (windowClosed w v n o e f b).fld R.LVL_STAT.BELOW = bit (b.flag R.LVL_CTL.ENABLE && decide (w * 1000 < b.pow.target * 98)) ∧
    (windowClosed w v n o e f b).fld R.LVL_STAT.ABOVE = bit (b.flag R.LVL_CTL.ENABLE && (decide (b.pow.target * 102 < w * 1000) &&
      decide (b.fld R.CLK_STAT.TCLK ≤ b.fld R.LVL_CTL.TCLK_MIN))) ∧
    (windowClosed w v n o e f b).fld R.LVL_STAT.ADMIT_HELD = admission b w % 2 ∧
    (windowClosed w v n o e f b).fld R.LVL_STAT.FILLING = bit (b.flag R.LVL_CTL.ENABLE && (f && b.flag R.LVL_CTL.FILL_EN)) ∧
    (windowClosed w v n o e f b).fld R.LVL_STAT.CEIL_WIN = bit b.pow.ceilIn := by
  have h := fld_levelStatus w f (measured w v n o e b.takeFree)
  have hen := flag_measured_ne (y := R.LVL_CTL.ENABLE) (by decide) w v n o e b.takeFree
  have hfill := flag_measured_ne (y := R.LVL_CTL.FILL_EN) (by decide) w v n o e b.takeFree
  have htclk := fld_measured_ne (y := R.CLK_STAT.TCLK) (by decide) w v n o e b.takeFree
  have hmin := fld_measured_ne (y := R.LVL_CTL.TCLK_MIN) (by decide) w v n o e b.takeFree
  rw [hen, hfill, htclk, hmin, admission_measured, inBand_measured, pow_measured] at h
  simp only [windowClosed, State.fld_updPow]
  exact h

/-- The target moves from a closed window as it would from the state that the window found. -/
theorem target_moveTarget_windowClosed : (moveTarget (windowClosed w v n o e f b)).pow.target = (moveTarget b).pow.target := by
  have hen := flag_windowClosed_ne (y := R.LVL_CTL.ENABLE) w v n o e f b (by decide) (by decide)
  have hset := fld_windowClosed_ne (y := R.LVL_SET.SET_W) w v n o e f b (by decide) (by decide)
  have hslew := fld_windowClosed_ne (y := R.LVL_SET.SLEW) w v n o e f b (by decide) (by decide)
  have hceil : ceil95 (windowClosed w v n o e f b) = ceil95 b := by
    simp (disch := decide) only [ceil95, effCeil, fld_windowClosed_ne]
  rw [target_moveTarget, target_moveTarget, hen, hset, hslew, hceil, target_windowClosed]

end Closed

/-- A level window does its background work, closes, moves the target and reports (R333, R334, R337). -/
theorem doLevelWindow_eq (w v n o t : Nat) (f : Bool) (cs sp : List Nat) (ts : List (Nat × Nat)) (s : State) :
    ∃ e r, doLevelWindow w v n o f cs sp ts t s = (moveTarget (windowClosed w v n o e f (windowWork cs sp ts (atTime s t)))).emit r :=
  ⟨_, _, rfl⟩

/-- The end of a level window, in the fields and the power state (R333, R335, R337). -/
theorem doLevelWindow_reports (w v n o t : Nat) (f : Bool) (cs sp : List Nat) (ts : List (Nat × Nat)) (s : State) :
    let b := windowWork cs sp ts (atTime s t)
    let u := doLevelWindow w v n o f cs sp ts t s
    let en := b.flag R.LVL_CTL.ENABLE
    u.fld R.LVL_STAT.HOLDING = bit (en && inBand b w) ∧ u.fld R.LVL_STAT.BELOW = bit (en && decide (w * 1000 < b.pow.target * 98)) ∧
      u.fld R.LVL_STAT.ABOVE =
        bit (en && decide (b.pow.target * 102 < w * 1000) && decide (b.fld R.CLK_STAT.TCLK ≤ b.fld R.LVL_CTL.TCLK_MIN)) ∧
      u.fld R.LVL_STAT.ADMIT_HELD = admission b w % 2 ∧ u.fld R.LVL_STAT.FILLING = bit (en && f && b.flag R.LVL_CTL.FILL_EN) ∧
      u.fld R.LVL_STAT.CEIL_WIN = bit b.pow.ceilIn ∧ u.pow.ceilIn = false ∧ u.fld R.PWR_MEAS.WINDOW_W = min 4095 w ∧
      u.pow.target = (moveTarget b).pow.target := by
  intro b u en
  obtain ⟨e, r, hu⟩ : ∃ e r, u = (moveTarget (windowClosed w v n o e f b)).emit r := doLevelWindow_eq w v n o t f cs sp ts s
  have hfld (y : Fld) : u.fld y = (windowClosed w v n o e f b).fld y := by
    rw [hu, State.fld_emit, State.fld_congr (regs_moveTarget _)]
  obtain ⟨hholding, hbelow, habove, hadmit, hfilling, hceil⟩ := fld_windowClosed_level w v n o e f b
  simp only [hfld, Bool.and_assoc]
  refine ⟨hholding, hbelow, habove, hadmit, hfilling, hceil, ?_, fld_windowClosed_windowW .., ?_⟩
  · rw [hu, State.emit_pow, ceilIn_moveTarget, ceilIn_windowClosed]
  · rw [hu, State.emit_pow, target_moveTarget_windowClosed]

end Window

/-! Level mode's steps of TCLK (R335). -/

section LevelStep

variable {s u : State} {w t : Nat} (hu : atTime s t = u)
include hu

/-- With level mode off, or within 10 ms of the last step, TCLK is not stepped. -/
theorem doLevelStep_notDue (h : u.flag R.LVL_CTL.ENABLE = false ∨ u.now < u.pow.lvlStep + 10000000) : doLevelStep w t s = u := by
  have hskip : (!u.flag R.LVL_CTL.ENABLE || decide (u.now < u.pow.lvlStep + 10000000)) = true := by
    rcases h with h | h <;> simp [h]
  simp only [doLevelStep, hu, hskip, if_true]

/-- Above the band TCLK is stepped down, to TCLK_MIN at the lowest. -/
theorem doLevelStep_above (hen : u.flag R.LVL_CTL.ENABLE = true) (hdue : u.pow.lvlStep + 10000000 ≤ u.now)
    (habove : u.pow.target * 102 < w * 1000) :
    let v := max (u.fld R.LVL_CTL.TCLK_MIN) (u.pow.lvlTclk - 1)
    let x := u.updPow (fun p => { p with lvlTclk := v, lvlStep := u.now })
    doLevelStep w t s = if v < tclkAim x then askTclk x v else x := by
  have hnow : ¬u.now < u.pow.lvlStep + 10000000 := Nat.not_lt.mpr hdue
  simp only [doLevelStep, hu, hen, hnow, habove, Bool.not_true, decide_false, Bool.or_self, Bool.false_eq_true, if_false, if_true]

end LevelStep

/-! Temperatures (R123, R339). -/

section Heat

variable {s u : State} {c p t : Nat}

theorem doSoftThrottle_cool (hu : setTemps (atTime s t) c p = u) (h : max c p < 100) : doSoftThrottle c p t s = u := by
  simp only [doSoftThrottle, hu, h, if_true]

theorem doSoftThrottle_hot (hu : setTemps (atTime s t) c p = u) (h : 100 ≤ max c p) : doSoftThrottle c p t s = softHit u := by
  have hhot : ¬max c p < 100 := Nat.not_lt.mpr h
  simp only [doSoftThrottle, hu, hhot, if_false]

/-- While a throttle is in progress and a junction is at 98 °C, TCLK goes 25 MHz down each 1 ms. -/
theorem doSoftStep_hot (hu : trackCool (setTemps (atTime s t) c p) (max c p) = u) (hsoft : u.flag R.THERM_STAT.SOFT_THROTTLE = true)
    (hhot : 98 ≤ max c p) (hdue : u.pow.softStep + 1000000 ≤ u.now) :
    doSoftStep c p t s = (askTclk u (tclkAim u - 1)).updPow (fun q => { q with softStep := u.now, thermIn := true }) := by
  have hnow : ¬u.now < u.pow.softStep + 1000000 := Nat.not_lt.mpr hdue
  simp only [doSoftStep, hu, hsoft, hhot, hnow, if_false, if_true]

/-- A DRAM die at or below 85 °C is not noted. -/
theorem doDramAbove85_cool {k d : Nat} (hd : d ≤ 85) : doDramAbove85 k d t s = atTime s t := by
  simp only [doDramAbove85, hd, or_true, if_true]

end Heat

section Dram

variable {s u : State} {k d t : Nat} (hk : k < 16)
include hk

theorem doStackHot_cool (hu : setDram (atTime s t) k d = u) (hd : d ≤ 105) : doStackHot k d t s = u := by
  simp only [doStackHot, Nat.not_le.mpr hk, hu, hd, if_false, if_true]

theorem doStackHot_hot (hu : setDram (atTime s t) k d = u) (hd : 105 < d) :
    doStackHot k d t s = logPower ((u.setFld R.THERM_STAT.STACK_HOT 1).incFld R.THERM_CNT.STACK) := by
  simp only [doStackHot, Nat.not_le.mpr hk, hu, Nat.not_le.mpr hd, if_false]

theorem doDramAbove85_hot (hd : 85 < d) : doDramAbove85 k d t s = logPower (setDram (atTime s t) k d) := by
  simp only [doDramAbove85, Nat.not_le.mpr hk, Nat.not_le.mpr hd, or_self, if_false]

/-- STACK_HOT clears when the last stack has cooled to 105 °C. -/
theorem doDramFall_allCool (hu : setDram (atTime s t) k d = u) (hall : u.pow.dram.all (fun q => decide (q.2 ≤ 105)) = true) :
    doDramFall k d t s = u.setFld R.THERM_STAT.STACK_HOT 0 := by
  have hany : u.pow.dram.any (fun q => decide (105 < q.2)) = false := by
    simpa only [List.any_eq_false, List.all_eq_true, decide_eq_true_eq, Nat.not_lt] using hall
  simp only [doDramFall, Nat.not_le.mpr hk, hu, hany, Bool.false_eq_true, if_false]

end Dram

/-! Naps (R341, R342). -/

section Nap

variable {s u : State} {n t : Nat} (hu : atTime s t = u)
include hu

theorem doNapEntry_levelMode (hen : u.flag R.LVL_CTL.ENABLE = true) : doNapEntry n t s = u := by
  simp only [doNapEntry, hu, hen, Bool.true_or, if_true]

theorem doNapEntry_deep (hen : u.flag R.LVL_CTL.ENABLE = false) (hawake : inA0 u = true) (hidle : moduleIdle u = true)
    (hdeep : u.flag R.PWR_CTL.DEEP_REQ = true) : doNapEntry n t s = enterN2 u := by
  simp only [doNapEntry, hu, hen, hawake, hidle, hdeep, Bool.not_true, Bool.or_self, Bool.false_eq_true, if_false, if_true]

theorem doNapEntry_nap (hen : u.flag R.LVL_CTL.ENABLE = false) (hawake : inA0 u = true) (hidle : moduleIdle u = true)
    (hdeep : u.flag R.PWR_CTL.DEEP_REQ = false) (hnap : u.flag R.PWR_CTL.NAP_EN = true) (hlong : u.fld R.PWR_CTL.NAP_IDLE ≤ n) :
    doNapEntry n t s = enterN1 u := by
  simp only [doNapEntry, hu, hen, hawake, hidle, hdeep, hnap, hlong, Bool.not_true, Bool.or_self, Bool.false_eq_true, and_self, if_false,
    if_true]

variable {a b : List Nat}

theorem doNapExitDone_notExiting (hexit : u.flag R.PWR_STAT.EXITING = false) : doNapExitDone a b t s = u := by
  simp only [doNapExitDone, hu, hexit, Bool.not_false, if_true]

theorem doNapExitDone_shallow (hexit : u.flag R.PWR_STAT.EXITING = true) (hstate : u.fld R.PWR_STAT.STATE ≠ 2) :
    doNapExitDone a b t s = endExit u := by
  have hdeep : (u.fld R.PWR_STAT.STATE == 2) = false := beq_eq_false_iff_ne.mpr hstate
  simp only [doNapExitDone, hu, hexit, hdeep, Bool.not_true, Bool.not_false, Bool.false_eq_true, if_false, if_true]

/-- From deep nap the tiles and the near-bank units that failed their self-checks are counted (R80, R128). -/
theorem doNapExitDone_deep (hexit : u.flag R.PWR_STAT.EXITING = true) (hstate : u.fld R.PWR_STAT.STATE = 2) :
    let v := (a.filter (fun t => t < 256)).foldl (fun s t => tileFailure s t 0x08) (endExit u)
    doNapExitDone a b t s = (b.filter (fun u => u < 8192)).foldl (fun s u => checkNbu s (u / 512) (u % 512) false) v := by
  have hdeep : (u.fld R.PWR_STAT.STATE == 2) = true := beq_iff_eq.mpr hstate
  simp only [doNapExitDone, hu, hexit, hdeep, Bool.not_true, Bool.false_eq_true, if_false]

end Nap

/-! What each power command does while the module is on. -/

section Commands

variable {s : State} (hon : s.pow.st = .on)
include hon

theorem exec_tclkChange_on (t : Nat) : exec (.tclkChange t) s = .next (finish (makeTclk (atTime s t))) :=
  act_on hon _

theorem exec_ceilingEvent_on (w c p t : Nat) : exec (.ceilingEvent w c p t) s = .next (finish (doCeilingEvent w c p t s)) :=
  act_on hon _

theorem exec_ceilingRecoveryStep_on (w c p t : Nat) :
    exec (.ceilingRecoveryStep w c p t) s = .next (finish (doCeilingRecovery w c p t s)) :=
  act_on hon _

theorem exec_levelWindow_on (w v n o t : Nat) (f : Bool) (cs sp : List Nat) (ts : List (Nat × Nat)) :
    exec (.levelWindow w v n o f cs sp ts t) s = .next (finish (doLevelWindow w v n o f cs sp ts t s)) :=
  act_on hon _

theorem exec_levelTclkStep_on (w t : Nat) : exec (.levelTclkStep w t) s = .next (finish (doLevelStep w t s)) :=
  act_on hon _

theorem exec_softThrottle_on (c p t : Nat) : exec (.softThrottle c p t) s = .next (finish (doSoftThrottle c p t s)) :=
  act_on hon _

theorem exec_softThrottleStep_on (c p t : Nat) : exec (.softThrottleStep c p t) s = .next (finish (doSoftStep c p t s)) :=
  act_on hon _

theorem exec_stackHot_on (k d t : Nat) : exec (.stackHot k d t) s = .next (finish (doStackHot k d t s)) :=
  act_on hon _

theorem exec_dramAbove85_on (k d t : Nat) : exec (.dramAbove85 k d t) s = .next (finish (doDramAbove85 k d t s)) :=
  act_on hon _

theorem exec_dramTemperatureFall_on (k d t : Nat) : exec (.dramTemperatureFall k d t) s = .next (finish (doDramFall k d t s)) :=
  act_on hon _

theorem exec_napEntry_on (n t : Nat) : exec (.napEntry n t) s = .next (finish (doNapEntry n t s)) :=
  act_on hon _

theorem exec_napExit_on (t : Nat) : exec (.napExit t) s = .next (finish (startExit (atTime s t))) :=
  act_on hon _

theorem exec_napExitDone_on (a b : List Nat) (t : Nat) : exec (.napExitDone a b t) s = .next (finish (doNapExitDone a b t s)) :=
  act_on hon _

end Commands

/-- Settles O26: each command runs its operation, and each operation is read off case by case. -/
theorem powerCommands : Obligations.PowerCommands := by
  unfold Obligations.PowerCommands
  refine ⟨fun s t hon => exec_tclkChange_on hon t, ?ceiling, ?window, fun s => target_moveTarget_bounds, ?step, ?throttle, ?dram, ?nap⟩
  case ceiling =>
    intro s w c p t hon
    rw [exec_ceilingEvent_on hon, exec_ceilingRecoveryStep_on hon]
    exact ⟨fun hw hj => by rw [doCeilingEvent_calm rfl hw hj], fun hw => by rw [doCeilingEvent_over rfl hw],
      fun hw hj => by rw [doCeilingEvent_hot rfl hw hj], fun h => by rw [doCeilingRecovery_none rfl h],
      fun h hok => by rw [doCeilingRecovery_unmet rfl h hok],
      fun h hok hcalm => by rw [doCeilingRecovery_begins rfl h hok hcalm],
      fun a h hok hcalm hwait hhalved => by rw [doCeilingRecovery_restores rfl h hok hcalm hwait hhalved]⟩
  case window =>
    intro s w v n o t f cs sp ts hon
    exact ⟨exec_levelWindow_on hon w v n o t f cs sp ts, doLevelWindow_reports w v n o t f cs sp ts s⟩
  case step =>
    intro s w t hon
    rw [exec_levelTclkStep_on hon]
    exact ⟨fun h => by rw [doLevelStep_notDue rfl h], fun hen hdue habove => by rw [doLevelStep_above rfl hen hdue habove]⟩
  case throttle =>
    intro s c p t hon
    rw [exec_softThrottle_on hon, exec_softThrottleStep_on hon]
    exact ⟨fun h => by rw [doSoftThrottle_cool rfl h], fun h => by rw [doSoftThrottle_hot rfl h],
      fun hsoft hhot hdue => by rw [doSoftStep_hot rfl hsoft hhot hdue]⟩
  case dram =>
    intro s k d t hon hk
    rw [exec_stackHot_on hon, exec_dramAbove85_on hon, exec_dramTemperatureFall_on hon]
    exact ⟨fun h => by rw [doStackHot_cool hk rfl h], fun h => by rw [doStackHot_hot hk rfl h], fun h => by rw [doDramAbove85_hot hk h],
      fun h => by rw [doDramAbove85_cool h], fun h => by rw [doDramFall_allCool hk rfl h]⟩
  case nap =>
    intro s n t hon
    rw [exec_napEntry_on hon]
    refine ⟨fun h => by rw [doNapEntry_levelMode rfl h], fun hen hawake hidle hdeep => by rw [doNapEntry_deep rfl hen hawake hidle hdeep],
      fun hen hawake hidle hdeep hnap hlong => by rw [doNapEntry_nap rfl hen hawake hidle hdeep hnap hlong], exec_napExit_on hon t,
      fun a b hexit => ?_, fun a b hexit hstate => ?_, fun a b hexit hstate => ?_⟩
    · rw [exec_napExitDone_on hon, doNapExitDone_notExiting rfl hexit]
    · rw [exec_napExitDone_on hon, doNapExitDone_shallow rfl hexit hstate]
    · rw [exec_napExitDone_on hon, doNapExitDone_deep rfl hexit hstate]

end Sys2Proof.Machine

/-! PROOFS. The reset, power and pin commands (R18, R198, R200, R219, R330, R339, R340, R343 to R347, R364). -/

namespace Sys2Proof.Machine

open Sys2Proof

/-! A module reset, and Off (R343, R347). -/

section Reset

variable {s : State} {c : Nat} {r e : Bool} {fs : List Nat}

theorem moduleReset_off (hoff : s.pow.st = .off) : moduleReset c r fs e s = s := by
  simp only [moduleReset, hoff, if_true]

/-- Without verified firmware a module reset ends out of service (R310). -/
theorem moduleReset_unverified (hst : s.pow.st ≠ .off) (hslot : verifiedSlot s = none) :
    moduleReset c r fs e s = outOfService (sampleSlot (cleared (persistWork s) s.pow.st c)) 0x1B 10 := by
  simp only [moduleReset, hst, hslot, Option.isNone_none, if_false, if_true]

/-- With verified firmware it ends in a start, which the fabric reference decides. -/
theorem moduleReset_verified {k : Nat} (hst : s.pow.st ≠ .off) (hslot : verifiedSlot s = some k) :
    moduleReset c r fs e s = startIf r fs e (sampleSlot (cleared (persistWork s) s.pow.st c)) := by
  simp only [moduleReset, hst, hslot, Option.isNone_some, Bool.false_eq_true, if_false]

theorem startIf_ref (fs : List Nat) (e : Bool) (s : State) : startIf true fs e s = startUp fs e s := rfl

/-- Without the fabric reference the module is held in reset (R18). -/
theorem startIf_noRef (fs : List Nat) (e : Bool) (s : State) : startIf false fs e s = s.updPow (fun p => { p with st := .held }) := rfl

/-- Off is entered, or was in force. -/
theorem st_goOff (c : Nat) (persist : Bool) (s : State) : (goOff c persist s).pow.st = .off := by
  unfold goOff
  split
  · assumption
  · rfl

end Reset

/-! A cold start (R18, R346). -/

section ColdStart

variable {s : State} {n j : Nat} {l r h e : Bool} {fs : List Nat}

theorem coldStart_notOff (hst : s.pow.st ≠ .off) {refs : Refs} : coldStart n l refs j fs e s = s := by
  simp only [coldStart, hst, ne_eq, not_false_eq_true, if_true]

/-- Without the management oscillator a cold start sets the pins alone (R18). -/
theorem coldStart_noOscillator (hoff : s.pow.st = .off) :
    coldStart n l (false, r, h) j fs e s = { s with pins := { s.pins with pwrEn := true, leakN := !l, hostRef := h } } := by
  simp only [coldStart, hoff, ne_eq, not_true_eq_false, Bool.not_false, if_false, if_true]

/-- The pins as a cold start without a leak finds them: PWR_EN is high, and low for 10 ms it has released THERM_TRIP_N. -/
def startPins (n : Nat) (h : Bool) (s : State) : State :=
  { s with pins := { s.pins with pwrEn := true, leakN := true, hostRef := h, thermTripN := s.pins.thermTripN || decide (10000000 ≤ n) } }

/-- The module at PWR_GOOD, cleared, a claim erased where its release was asked for, and the straps sampled. -/
def goodState (u : State) : State :=
  let v := eraseClaim (cleared u .off u.pow.cause)
  sampleSlot { v with pins := { v.pins with pwrGood := true } }

/-- The start from PWR_GOOD: out of service without verified firmware (R310), else with the newest, and with 0x1D where the fabric
reference is lost (R18). -/
def startGood (r : Bool) (fs : List Nat) (e : Bool) (t : State) : State :=
  match verifiedSlot t with
  | none => outOfService t 0x1B 10
  | some k =>
    let w := t.updSec (fun c => { c with running := k })
    startIf r fs e (if r then w else logModule w { entry0 w 0x1D .ok 0 with unitKind := 11 })

theorem startGood_unverified {t : State} (hslot : verifiedSlot t = none) : startGood r fs e t = outOfService t 0x1B 10 := by
  rw [startGood, hslot]

theorem startGood_ref {t : State} {k : Nat} (hslot : verifiedSlot t = some k) :
    startGood true fs e t = startUp fs e (t.updSec (fun c => { c with running := k })) := by
  rw [startGood, hslot]
  rfl

theorem startGood_noRef {t : State} {k : Nat} (hslot : verifiedSlot t = some k) :
    let w := t.updSec (fun c => { c with running := k })
    startGood false fs e t = (logModule w { entry0 w 0x1D .ok 0 with unitKind := 11 }).updPow (fun p => { p with st := .held }) := by
  rw [startGood, hslot]
  rfl

/-- With the oscillator and no leak a cold start is barred by a cycle of PWR_EN that is still due, by THERM_TRIP_N that is still low and
by a junction that is still hot; else it reaches PWR_GOOD. -/
theorem coldStart_noLeak (hoff : s.pow.st = .off) :
    coldStart n false (true, r, h) j fs e s =
      if ((s.pow.needCycle && !decide (10000000 ≤ n)) || !(s.pins.thermTripN || decide (10000000 ≤ n))) = true then startPins n h s
      else if (s.pow.thermLatch && decide (90 ≤ j)) = true then logPower (startPins n h s)
      else startGood r fs e (goodState (startPins n h s)) := by
  rw [coldStart, if_neg (not_not_intro hoff)]
  rfl

/-- A cold start that nothing bars reaches PWR_GOOD. -/
theorem coldStart_free (hoff : s.pow.st = .off) (hcycle : s.pow.needCycle = false ∨ 10000000 ≤ n)
    (htrip : s.pins.thermTripN = true ∨ 10000000 ≤ n) (hcool : s.pow.thermLatch = false ∨ j < 90) :
    coldStart n false (true, r, h) j fs e s = startGood r fs e (goodState (startPins n h s)) := by
  have hcycled : (s.pow.needCycle && !decide (10000000 ≤ n)) = false := by
    rcases hcycle with hdone | hlong <;> simp [*]
  have hreleased : (s.pins.thermTripN || decide (10000000 ≤ n)) = true := by
    rcases htrip with hhigh | hlong <;> simp [*]
  have hcold : (s.pow.thermLatch && decide (90 ≤ j)) = false := by
    rcases hcool with hclear | hcold <;> simp [*]
  rw [coldStart_noLeak hoff, hcycled, hreleased, hcold]
  rfl

end ColdStart

/-! The pins, leaks and thermal trips (R330, R339, R340, R362, R363). -/

section Pins

variable {s : State} {n c p d : Nat} {a : Bool}

theorem doLeak_short (hn : n < 10000) : doLeak n s = s := by
  rw [doLeak, if_pos hn]

/-- LEAK_N low for 10 µs latches, and a start then needs PWR_EN cycled. -/
theorem doLeak_latches (hn : 10000 ≤ n) :
    (doLeak n s).pow.leakLatch = true ∧ (doLeak n s).pow.needCycle = true ∧ (doLeak n s).pins.leakN = false := by
  rw [doLeak, if_neg (Nat.not_lt.mpr hn)]
  exact ⟨rfl, rfl, rfl⟩

theorem doThermalTrip_cool (hj : max c p < 120) (hd : d < 115) : doThermalTrip c p d a s = s := by
  have hcool : ((decide (max c p < 120 ∧ d < 115)) || (s.pow.st == .off && !(a && s.pow.leakLatch))) = true := by
    rw [decide_eq_true ⟨hj, hd⟩, Bool.true_or]
  rw [doThermalTrip, if_pos hcool]

/-- A trip of a module that is not off latches, goes to Off and drives THERM_TRIP_N low. -/
theorem doThermalTrip_trips (hhot : 120 ≤ max c p ∨ 115 ≤ d) (hst : s.pow.st ≠ .off) :
    (doThermalTrip c p d a s).pow.thermLatch = true ∧ (doThermalTrip c p d a s).pow.cause = 5 ∧
    (doThermalTrip c p d a s).pins.thermTripN = false ∧ (doThermalTrip c p d a s).pow.st = .off := by
  have hnotCool : ¬(max c p < 120 ∧ d < 115) := by omega
  have hnotOff : (s.pow.st == .off) = false := beq_eq_false_iff_ne.mpr hst
  have htrip : ¬((decide (max c p < 120 ∧ d < 115)) || (s.pow.st == .off && !(a && s.pow.leakLatch))) = true := by
    rw [decide_eq_false hnotCool, hnotOff, Bool.false_and, Bool.or_self]
    exact Bool.false_ne_true
  rw [doThermalTrip, if_neg htrip]
  exact ⟨rfl, rfl, rfl, st_goOff 5 false (logPower s)⟩

end Pins

/-! What each command does: those that the module takes only while it is on, and those of the management island and the pins, which
it takes always. -/

section CommandsOn

variable {s : State} (hon : s.pow.st = .on)
include hon

theorem exec_initiateFlr_on {f : Nat} (hf : f < 64) : exec (.initiateFlr f) s = .next (finish (flrBegin f s)) :=
  (act_on hon _).trans (by rw [if_pos hf])

theorem exec_d3hotToD0_on {f : Nat} (hf : f < 64) : exec (.d3hotToD0 f) s = .next (finish (flrBegin f s)) :=
  (act_on hon _).trans (by rw [if_pos hf])

theorem exec_resetDone_on {f : Nat} (hf : f < 64) : exec (.resetDone f) s = .next (finish (flrDone f s)) :=
  (act_on hon _).trans (by rw [if_pos hf])

theorem exec_dlDown_on (r : Bool) : exec (.dlDown r) s = .next (finish (hostReset (hostRefIs s r))) :=
  act_on hon _

theorem exec_hotReset_on : exec .hotReset s = .next (finish (hostReset s)) :=
  act_on hon _

theorem exec_fabricReferenceLost_on : exec .fabricReferenceLost s =
    .next (finish (moduleReset 3 false [] false (logModule s { entry0 s 0x1D .ok 0 with unitKind := 11 }))) :=
  act_on hon _

theorem exec_perstN_on : exec .perstN s = .next (finish (hostReset (setPerst s false))) :=
  congrArg (fun t => Host.Outcome.next (finish t)) (if_pos hon)

end CommandsOn

/-- A function in no reset has none to end. -/
theorem flrDone_none {s : State} {f : Nat} (h : (s.fnHost f).resetting = none) : flrDone f s = s := by
  rw [flrDone, h]

section CommandsAlways

variable (s : State) (n : Nat) (fs : List Nat) (e : Bool)

theorem exec_perstN_notOn {s : State} (hst : s.pow.st ≠ .on) : exec .perstN s = .next (finish (setPerst s false)) :=
  congrArg (fun t => Host.Outcome.next (finish t)) (if_neg hst)

theorem exec_resetN : exec (.resetN n fs e) s =
    .next (finish (if (decide (n < 1000) || !s.pins.pwrEn) = true then s else moduleReset 1 (s.pow.st ≠ .held) fs e s)) := rfl

/-- RESET_N is ignored where its pulse is short or PWR_EN is low (R363). -/
theorem exec_resetN_ignored (h : n < 1000 ∨ s.pins.pwrEn = false) : exec (.resetN n fs e) s = .next (finish s) := by
  have hskip : (decide (n < 1000) || !s.pins.pwrEn) = true := by
    rcases h with h | h <;> simp [h]
  rw [exec_resetN, if_pos hskip]

theorem exec_resetN_taken (hn : 1000 ≤ n) (hpwr : s.pins.pwrEn = true) :
    exec (.resetN n fs e) s = .next (finish (moduleReset 1 (s.pow.st ≠ .held) fs e s)) := by
  have htake : ¬(decide (n < 1000) || !s.pins.pwrEn) = true := by simp [hpwr, hn]
  rw [exec_resetN, if_neg htake]

theorem exec_fabricReferenceReturn : exec (.fabricReferenceReturn fs e) s =
    .next (finish (if s.pow.st = .held then startUp fs e s else s)) := rfl

theorem exec_thermTripRelease : exec (.thermTripRelease n) s = .next (finish
    (if (s.pins.pwrEn || decide (n < 10000000)) = true then s else { s with pins := { s.pins with thermTripN := true } })) := rfl

/-- THERM_TRIP_N stays low while PWR_EN is high and for 10 ms after it fell (R362). -/
theorem exec_thermTripRelease_early (h : s.pins.pwrEn = true ∨ n < 10000000) : exec (.thermTripRelease n) s = .next (finish s) := by
  have hearly : (s.pins.pwrEn || decide (n < 10000000)) = true := by
    rcases h with h | h <;> simp [h]
  rw [exec_thermTripRelease, if_pos hearly]

theorem exec_thermTripRelease_due (hpwr : s.pins.pwrEn = false) (hn : 10000000 ≤ n) :
    exec (.thermTripRelease n) s = .next (finish { s with pins := { s.pins with thermTripN := true } }) := by
  have hdue : ¬(s.pins.pwrEn || decide (n < 10000000)) = true := by simp [hpwr, hn]
  rw [exec_thermTripRelease, if_neg hdue]

theorem exec_coldStart (l : Bool) (refs : Refs) (j : Nat) :
    exec (.coldStart n l refs j fs e) s = .next (finish (coldStart n l refs j fs e s)) := rfl

theorem exec_leakN : exec (.leakN n) s = .next (finish (doLeak n s)) := rfl

theorem exec_thermalTrip (c p d : Nat) (a : Bool) : exec (.thermalTrip c p d a) s = .next (finish (doThermalTrip c p d a s)) := rfl

end CommandsAlways

/-- Settles O32: each command runs its operation, and the resets, starts and trips are read off case by case. -/
theorem resetCommands : Obligations.ResetCommands := by
  unfold Obligations.ResetCommands
  refine ⟨?functions, ?host, ?perst, ?module, ?resets, ?starts, ?off, ?pins, ?trip, ?smbus⟩
  case functions =>
    intro s f hon hf
    refine ⟨exec_initiateFlr_on hon hf, exec_d3hotToD0_on hon hf, fun hnone => ?_, fun _ _ => exec_resetDone_on hon hf⟩
    rw [exec_resetDone_on hon hf, flrDone_none hnone]
  case host =>
    exact fun s hon => ⟨exec_dlDown_on hon, exec_hotReset_on hon, exec_perstN_on hon, exec_fabricReferenceLost_on hon⟩
  case perst =>
    exact fun s => ⟨exec_perstN_notOn, rfl⟩
  case module =>
    intro s fs e
    refine ⟨rfl, fun n h => exec_resetN_ignored s n fs e h, fun n hn hpwr => exec_resetN_taken s n fs e hn hpwr, fun h => ?_, fun h => ?_,
      fun n l r j h => ?_, fun n l r j _ => exec_coldStart s n fs e l r j⟩
    · rw [exec_fabricReferenceReturn, if_pos h]
    · rw [exec_fabricReferenceReturn, if_neg h]
    · rw [exec_coldStart, coldStart_notOff h]
  case resets =>
    intro s c r e fs
    refine ⟨moduleReset_off, moduleReset_unverified, fun k hst hslot => ⟨?_, ?_⟩⟩
    · rw [moduleReset_verified hst hslot, startIf_ref]
    · rw [moduleReset_verified hst hslot, startIf_noRef]
  case starts =>
    intro s n j h e fs hoff
    refine ⟨fun l r => coldStart_noOscillator hoff, fun hcycle htrip hcool => ⟨fun hslot r => ?_, fun k hslot => ⟨?_, ?_⟩⟩⟩
    · exact (coldStart_free hoff hcycle htrip hcool).trans (startGood_unverified hslot)
    · exact (coldStart_free hoff hcycle htrip hcool).trans (startGood_ref hslot)
    · exact (coldStart_free hoff hcycle htrip hcool).trans (startGood_noRef hslot)
  case off =>
    exact fun s => ⟨rfl, rfl, rfl, rfl⟩
  case pins =>
    intro s n
    refine ⟨fun hn => ?_, fun hn => ⟨exec_leakN s n, doLeak_latches hn⟩, exec_thermTripRelease_due s n, exec_thermTripRelease_early s n⟩
    rw [exec_leakN, doLeak_short hn]
  case trip =>
    intro s c p d a
    refine ⟨fun hj hd => ?_, fun hhot hst => ⟨exec_thermalTrip s c p d a, doThermalTrip_trips hhot hst⟩⟩
    rw [exec_thermalTrip, doThermalTrip_cool hj hd]
  case smbus =>
    exact fun s => ⟨rfl, rfl, rfl, rfl⟩

end Sys2Proof.Machine

/-! PROOFS. FP32 rounding to the nearest number, ties to even (R26). -/

namespace Sys2Proof.Machine

open Sys2Proof

/-! FP32 numbers taken apart and put together. -/

/-- The fields of a number written as sign, exponent field and fraction. -/
theorem fpFields (s : Bool) {E f : Nat} (hE : E < 256) (hf : f < 2 ^ 23) :
    let n := (BitVec.ofNat 32 ((if s then 2 ^ 31 else 0) + E * 2 ^ 23 + f)).toNat
    bitAt n 31 = s ∧ bits n 30 23 = E ∧ bits n 22 0 = f := by
  rw [BitVec.toNat_ofNat]
  cases s <;> simp only [bitAt, bits] <;> norm_num <;> omega

/-- The last bit of a number is that of its fraction. -/
theorem fpLastBit (s : Bool) (E f : Nat) : (BitVec.ofNat 32 ((if s then 2 ^ 31 else 0) + E * 2 ^ 23 + f)).toNat % 2 = f % 2 := by
  rw [BitVec.toNat_ofNat]
  cases s <;> simp only [if_true, Bool.false_eq_true, if_false] <;> omega

theorem fDec_normal (s : Bool) {E f : Nat} (h0 : E ≠ 0) (hE : E < 255) (hf : f < 2 ^ 23) :
    fDec (BitVec.ofNat 32 ((if s then 2 ^ 31 else 0) + E * 2 ^ 23 + f)) = .fin s (f + 2 ^ 23) ((E : Int) - 150) := by
  obtain ⟨hs, he, hfr⟩ := fpFields s (by omega : E < 256) hf
  simp only [fDec, hs, he, hfr]
  rw [if_neg (by omega), if_neg h0]

theorem fDec_subnormal (s : Bool) {f : Nat} (hf : f < 2 ^ 23) :
    fDec (BitVec.ofNat 32 ((if s then 2 ^ 31 else 0) + f)) = .fin s f (-149) := by
  obtain ⟨hs, he, hfr⟩ := fpFields s (by omega : 0 < 256) hf
  simp only [Nat.zero_mul, Nat.add_zero] at hs he hfr
  simp only [fDec, hs, he, hfr]
  rfl

/-- A finite number has a significand below 2^24 and an exponent of at least −149. -/
theorem fDec_of_finite {y : W32} (h : fFinite y = true) :
    ∃ c p, fDec y = .fin (bitAt y.toNat 31) c p ∧ -149 ≤ p ∧ c < 2 ^ 24 := by
  have hf : bits y.toNat 22 0 < 2 ^ 23 := Nat.mod_lt _ (by decide)
  have he : bits y.toNat 30 23 ≠ 255 := by simpa [fFinite] using h
  unfold fDec
  simp only [if_neg he]
  split_ifs with h0
  · exact ⟨_, _, rfl, le_refl _, by omega⟩
  · exact ⟨_, _, rfl, by omega, by omega⟩

/-- A number that has a value is finite and has the sign of that value. -/
theorem finite_of_fDec {x : W32} {s : Bool} {m : Nat} {e : Int} (h : fDec x = .fin s m e) :
    fFinite x = true ∧ bitAt x.toNat 31 = s := by
  unfold fDec at h
  simp only at h
  split_ifs at h with h1 h2 h3 <;> simp_all [fFinite]

/-! Rounding, in the three steps of `fRound`: the exponent of the result's last place, the integer nearest to the magnitude in
units of that place, and the number put together from the two. -/

/-- The integer nearest to m / 2^k, the even one of two, for k ≠ 0. -/
def nearestNat (m k : Nat) : Nat :=
  if 2 ^ (k - 1) < m % 2 ^ k ∨ m % 2 ^ k = 2 ^ (k - 1) ∧ m / 2 ^ k % 2 = 1 then m / 2 ^ k + 1 else m / 2 ^ k

/-- The exponent of the last place that FP32 gives a magnitude m · 2^e. -/
def lastPlace (m : Nat) (e : Int) : Int := max ((Nat.log2 m : Int) + e - 23) (-149)

/-- The magnitude in units of its last place, rounded. -/
def roundSig (m : Nat) (e : Int) : Nat :=
  if lastPlace m e ≤ e then m * 2 ^ (e - lastPlace m e).toNat else nearestNat m (lastPlace m e - e).toNat

/-- The number of sign `s` and magnitude a · 2^q, for a ≤ 2^24. -/
def packFp (s : Bool) (a : Nat) (q : Int) : W32 :=
  let (a, q) := if a ≥ 2 ^ 24 then (a / 2, q + 1) else (a, q)
  if a < 2 ^ 23 then BitVec.ofNat 32 ((if s then 2 ^ 31 else 0) + a)
  else if q + 150 ≥ 255 then fInf s
  else BitVec.ofNat 32 ((if s then 2 ^ 31 else 0) + (q + 150).toNat * 2 ^ 23 + (a - 2 ^ 23))

theorem fRound_eq_packFp (s : Bool) {m : Nat} (e : Int) (hm : m ≠ 0) :
    fRound s m e false = packFp s (roundSig m e) (lastPlace m e) := by
  unfold fRound roundSig
  rw [if_neg hm]
  by_cases h : lastPlace m e ≤ e
  · have h' : max ((Nat.log2 m : Int) + e - 23) (-149) ≤ e := h
    simp only [if_pos h, if_pos h']
    rfl
  · have h' : ¬ max ((Nat.log2 m : Int) + e - 23) (-149) ≤ e := h
    simp only [if_neg h, if_neg h', nearestNat, Bool.false_or, Bool.or_eq_true, Bool.and_eq_true, decide_eq_true_eq, beq_iff_eq]
    rfl

/-- The nearest integer is at most half a unit away, and half a unit only if it is even. -/
theorem nearestNat_spec (m : Nat) {k : Nat} (hk : k ≠ 0) :
    2 * nearestNat m k * 2 ^ k ≤ 2 * m + 2 ^ k ∧ 2 * m ≤ 2 * nearestNat m k * 2 ^ k + 2 ^ k ∧
      ((2 * nearestNat m k * 2 ^ k = 2 * m + 2 ^ k ∨ 2 * m = 2 * nearestNat m k * 2 ^ k + 2 ^ k) → nearestNat m k % 2 = 0) := by
  obtain ⟨j, rfl⟩ := Nat.exists_eq_succ_of_ne_zero hk
  have hdiv := Nat.div_add_mod m (2 ^ (j + 1))
  have hlt : m % 2 ^ (j + 1) < 2 ^ (j + 1) := Nat.mod_lt _ (by positivity)
  unfold nearestNat
  simp only [Nat.succ_eq_add_one, Nat.add_sub_cancel]
  generalize m / 2 ^ (j + 1) = a at *
  generalize m % 2 ^ (j + 1) = r at *
  rw [pow_succ] at *
  generalize 2 ^ j = h at *
  split_ifs with hc
  · have he : 2 * (a + 1) * (h * 2) = 2 * (h * 2 * a) + 4 * h := by ring
    rw [he]; omega
  · have he : 2 * a * (h * 2) = 2 * (h * 2 * a) := by ring
    rw [he]; omega

theorem two_pow_toNat_add {a b : Int} (ha : 0 ≤ a) (hb : 0 ≤ b) : 2 ^ (a + b).toNat = 2 ^ a.toNat * 2 ^ b.toNat := by
  rw [Int.toNat_add ha hb, pow_add]

section Rounding

variable {m k : Nat} {e : Int}

theorem le_lastPlace (m : Nat) (e : Int) : -149 ≤ lastPlace m e := le_max_right _ _

/-- What rounding to the last place answers, in any unit 2^−k that makes the magnitude and its last place whole. -/
theorem roundSig_spec (m : Nat) (hk : 149 ≤ k) (he : 0 ≤ e + k) :
    let a := roundSig m e
    let n := m * 2 ^ (e + k).toNat
    let u := 2 ^ (lastPlace m e + k).toNat
    2 * (a * u) ≤ 2 * n + u ∧ 2 * n ≤ 2 * (a * u) + u ∧ ((2 * (a * u) = 2 * n + u ∨ 2 * n = 2 * (a * u) + u) → a % 2 = 0) := by
  have hq := le_lastPlace m e
  intro a n u
  have hu : 0 < u := by positivity
  by_cases h : lastPlace m e ≤ e
  · have ha : a = m * 2 ^ (e - lastPlace m e).toNat := if_pos h
    have hn : n = a * u := by
      rw [ha, Nat.mul_assoc, ← two_pow_toNat_add (by omega) (by omega)]
      simp only [n]; congr 3; omega
    rw [hn]; omega
  · have ha : a = nearestNat m (lastPlace m e - e).toNat := if_neg h
    have hu : u = 2 ^ (lastPlace m e - e).toNat * 2 ^ (e + k).toNat := by
      rw [← two_pow_toNat_add (by omega) he]
      simp only [u]; congr 2; omega
    obtain ⟨h1, h2, h3⟩ := nearestNat_spec m (k := (lastPlace m e - e).toNat) (by omega)
    rw [← ha] at h1 h2 h3
    have hv : 0 < 2 ^ (e + k).toNat := by positivity
    have hau : 2 * (a * u) = 2 * a * 2 ^ (lastPlace m e - e).toNat * 2 ^ (e + k).toNat := by rw [hu]; ring
    have hn : 2 * n = 2 * m * 2 ^ (e + k).toNat := by simp only [n]; ring
    rw [hau, hn, hu, ← Nat.add_mul, ← Nat.add_mul]
    exact ⟨Nat.mul_le_mul_right _ h1, Nat.mul_le_mul_right _ h2, fun h => h3 (h.imp (Nat.eq_of_mul_eq_mul_right hv) (Nat.eq_of_mul_eq_mul_right hv))⟩

/-- A magnitude is below 2^24 units of its last place. -/
theorem mag_lt_lastPlace (m : Nat) (he : 0 ≤ e + k) :
    m * 2 ^ (e + k).toNat < 2 ^ 24 * 2 ^ (lastPlace m e + k).toNat := by
  have hq : (Nat.log2 m : Int) + e - 23 ≤ lastPlace m e := le_max_left _ _
  have hq' := le_lastPlace m e
  calc m * 2 ^ (e + k).toNat < 2 ^ (Nat.log2 m + 1) * 2 ^ (e + k).toNat :=
        Nat.mul_lt_mul_of_pos_right Nat.lt_log2_self (by positivity)
    _ = 2 ^ (Nat.log2 m + 1 + (e + k).toNat) := (pow_add ..).symm
    _ ≤ 2 ^ (24 + (lastPlace m e + k).toNat) := Nat.pow_le_pow_right (by decide) (by omega)
    _ = 2 ^ 24 * 2 ^ (lastPlace m e + k).toNat := pow_add ..

/-- A magnitude whose last place is not the least one is at least 2^23 units of it. -/
theorem lastPlace_le_mag (hm : m ≠ 0) (hk : 149 ≤ k) (he : 0 ≤ e + k) (hq : -149 < lastPlace m e) :
    2 ^ 23 * 2 ^ (lastPlace m e + k).toNat ≤ m * 2 ^ (e + k).toNat := by
  have hl : lastPlace m e = (Nat.log2 m : Int) + e - 23 := by unfold lastPlace at *; omega
  calc 2 ^ 23 * 2 ^ (lastPlace m e + k).toNat = 2 ^ (23 + (lastPlace m e + k).toNat) := (pow_add ..).symm
    _ = 2 ^ (Nat.log2 m + (e + k).toNat) := by congr 1; omega
    _ = 2 ^ Nat.log2 m * 2 ^ (e + k).toNat := pow_add ..
    _ ≤ m * 2 ^ (e + k).toNat := Nat.mul_le_mul_right _ (Nat.log2_self_le hm)

end Rounding

/-- A significand rounded has at most 24 bits, or is 2^24; it has 24 bits where its last place is not the least. -/
theorem roundSig_range {m : Nat} (hm : m ≠ 0) (e : Int) :
    roundSig m e ≤ 2 ^ 24 ∧ (-149 < lastPlace m e → 2 ^ 23 ≤ roundSig m e) := by
  obtain ⟨k, hk, he⟩ : ∃ k : Nat, 149 ≤ k ∧ 0 ≤ e + k := ⟨max 149 e.natAbs, by omega, by omega⟩
  obtain ⟨hlo, hhi, -⟩ := roundSig_spec m hk he
  have hu : 0 < 2 ^ (lastPlace m e + k).toNat := by positivity
  constructor
  · have hn := mag_lt_lastPlace m he
    generalize 2 ^ (lastPlace m e + k).toNat = u at *
    by_contra hc
    have : (2 ^ 24 + 1) * u ≤ roundSig m e * u := Nat.mul_le_mul_right u (by omega)
    omega
  · intro hq
    have hn := lastPlace_le_mag hm hk he hq
    generalize 2 ^ (lastPlace m e + k).toNat = u at *
    by_contra hc
    have : (roundSig m e + 1) * u ≤ 2 ^ 23 * u := Nat.mul_le_mul_right u (by omega)
    rw [Nat.add_mul] at this
    omega

/-! The number put together. -/

section Pack

variable {a : Nat} {q : Int}

theorem packFp_carry (s : Bool) (q : Int) : packFp s (2 ^ 24) q = packFp s (2 ^ 23) (q + 1) := rfl

theorem packFp_subnormal (s : Bool) (q : Int) (ha : a < 2 ^ 23) : packFp s a q = BitVec.ofNat 32 ((if s then 2 ^ 31 else 0) + a) := by
  unfold packFp
  simp only [if_neg (by omega : ¬ a ≥ 2 ^ 24), if_pos ha]

theorem packFp_normal (s : Bool) {E : Nat} (hlo : 2 ^ 23 ≤ a) (hhi : a < 2 ^ 24) (hE : q + 150 = E) (hq : E < 255) :
    packFp s a q = BitVec.ofNat 32 ((if s then 2 ^ 31 else 0) + E * 2 ^ 23 + (a - 2 ^ 23)) := by
  unfold packFp
  simp only [if_neg (by omega : ¬ a ≥ 2 ^ 24), if_neg (by omega : ¬ a < 2 ^ 23), hE, if_neg (by omega : ¬ (E : Int) ≥ 255), Int.toNat_natCast]

theorem packFp_large (s : Bool) (hlo : 2 ^ 23 ≤ a) (hhi : a < 2 ^ 24) (hq : 105 ≤ q) : packFp s a q = fInf s := by
  unfold packFp
  simp only [if_neg (by omega : ¬ a ≥ 2 ^ 24), if_neg (by omega : ¬ a < 2 ^ 23), if_pos (by omega : q + 150 ≥ 255)]

/-- A significand of 24 bits or fewer gives a number of its magnitude, whose last bit is the significand's. -/
theorem fDec_packFp (s : Bool) (ha : a < 2 ^ 24) (hq : -149 ≤ q) (hn : -149 < q → 2 ^ 23 ≤ a) (hmax : q ≤ 104) :
    fDec (packFp s a q) = .fin s a q ∧ (packFp s a q).toNat % 2 = a % 2 := by
  by_cases hsub : a < 2 ^ 23
  · obtain rfl : q = -149 := by by_contra hc; exact absurd (hn (by omega)) (by omega)
    have hlast := fpLastBit s 0 a
    rw [Nat.zero_mul, Nat.add_zero] at hlast
    rw [packFp_subnormal s _ hsub]
    exact ⟨fDec_subnormal s hsub, hlast⟩
  · obtain ⟨E, hE⟩ : ∃ E : Nat, q + 150 = E := ⟨(q + 150).toNat, by omega⟩
    rw [packFp_normal s (by omega) ha hE (by omega), fDec_normal s (by omega) (by omega) (by omega), fpLastBit]
    exact ⟨by congr <;> omega, by omega⟩

end Pack

/-! What `fRound` answers. -/

/-- The magnitude rounds beyond the largest finite number. -/
def RoundsOver (m : Nat) (e : Int) : Prop := 105 ≤ lastPlace m e ∨ lastPlace m e = 104 ∧ roundSig m e = 2 ^ 24

theorem fRound_over (s : Bool) {m : Nat} {e : Int} (hm : m ≠ 0) (h : RoundsOver m e) : fRound s m e false = fInf s := by
  obtain ⟨hle, hge⟩ := roundSig_range hm e
  rw [fRound_eq_packFp s e hm]
  rcases Nat.lt_or_eq_of_le hle with hlt | heq
  · have hq : 105 ≤ lastPlace m e := by unfold RoundsOver at h; omega
    exact packFp_large s (hge (by omega)) hlt hq
  · rw [heq, packFp_carry]
    exact packFp_large s (le_refl _) (by decide) (by unfold RoundsOver at h; omega)

/-- A magnitude that stays within the finite numbers becomes its rounded significand times its last place; the last bit is even
where the significand is. -/
theorem fDec_fRound (s : Bool) {m : Nat} {e : Int} (hm : m ≠ 0) (h : ¬ RoundsOver m e) :
    ∃ c p, fDec (fRound s m e false) = .fin s c p ∧ -149 ≤ p ∧
      (∀ k : Nat, 149 ≤ k → c * 2 ^ (p + k).toNat = roundSig m e * 2 ^ (lastPlace m e + k).toNat) ∧
      (roundSig m e % 2 = 0 → (fRound s m e false).toNat % 2 = 0) := by
  obtain ⟨hle, hge⟩ := roundSig_range hm e
  have hq := le_lastPlace m e
  unfold RoundsOver at h
  rw [fRound_eq_packFp s e hm]
  rcases Nat.lt_or_eq_of_le hle with hlt | heq
  · obtain ⟨hdec, hlast⟩ := fDec_packFp s hlt hq hge (by omega)
    exact ⟨_, _, hdec, hq, fun _ _ => rfl, fun h => hlast.trans h⟩
  · rw [heq, packFp_carry]
    obtain ⟨hdec, hlast⟩ := fDec_packFp s (a := 2 ^ 23) (q := lastPlace m e + 1) (by decide) (by omega) (fun _ => le_refl _) (by omega)
    refine ⟨_, _, hdec, by omega, fun k hk => ?_, fun _ => hlast.trans (by decide)⟩
    rw [show lastPlace m e + 1 + k = (lastPlace m e + k) + 1 by omega, two_pow_toNat_add (by omega) (by decide)]
    simp only [Int.toNat_one, pow_one]; ring

/-- From half way past the largest finite number on, and only there, a magnitude rounds over. -/
theorem roundsOver_iff {m k : Nat} {e : Int} (hm : m ≠ 0) (hk : 149 ≤ k) (he : 0 ≤ e + k) :
    RoundsOver m e ↔ (2 ^ 25 - 1) * 2 ^ (103 + k) ≤ m * 2 ^ (e + k).toNat := by
  obtain ⟨hle, hge⟩ := roundSig_range hm e
  have hlt := mag_lt_lastPlace m he
  have hq := le_lastPlace m e
  unfold RoundsOver
  rcases lt_trichotomy (lastPlace m e) 104 with h | h | h
  · have hu : 2 ^ (lastPlace m e + k).toNat ≤ 2 ^ (103 + k) := Nat.pow_le_pow_right (by decide) (by omega)
    omega
  · obtain ⟨hlo, hhi, htie⟩ := roundSig_spec m hk he
    have hu : 2 ^ (lastPlace m e + k).toNat = 2 * 2 ^ (103 + k) := by
      rw [h, ← pow_succ']; congr 1; omega
    rw [hu] at hlo hhi htie
    have hv : 0 < 2 ^ (103 + k) := by positivity
    generalize 2 ^ (103 + k) = v at *
    constructor
    · intro h'
      have ha : roundSig m e = 2 ^ 24 := by omega
      rw [ha] at hlo; omega
    · intro h'
      refine .inr ⟨h, ?_⟩
      by_contra hne
      have h1 : roundSig m e * (2 * v) ≤ (2 ^ 24 - 1) * (2 * v) := Nat.mul_le_mul_right _ (by omega)
      have h2 : roundSig m e % 2 = 0 := htie (.inr (by omega))
      have h3 : roundSig m e * (2 * v) ≤ (2 ^ 24 - 2) * (2 * v) := Nat.mul_le_mul_right _ (by omega)
      omega
  · have hlow := lastPlace_le_mag hm hk he (by omega)
    have hu : 4 * 2 ^ (103 + k) ≤ 2 ^ (lastPlace m e + k).toNat := by
      rw [show 4 * 2 ^ (103 + k) = 2 ^ (105 + k) by rw [show 105 + k = 2 + (103 + k) by omega, pow_add 2 2]; rfl]
      exact Nat.pow_le_pow_right (by decide) (by omega)
    omega

/-- A multiple of u within half a unit of n is no further from n than another multiple, and is as far as another only if it
lies half a unit away. -/
theorem nearest_multiple {n a u : Nat} (hlo : 2 * (a * u) ≤ 2 * n + u) (hhi : 2 * n ≤ 2 * (a * u) + u) (b : Nat) :
    ((n : Int) - (a * u : Nat)).natAbs ≤ ((n : Int) - (b * u : Nat)).natAbs ∧
      (((n : Int) - (a * u : Nat)).natAbs = ((n : Int) - (b * u : Nat)).natAbs →
        b = a ∨ 2 * (a * u) = 2 * n + u ∨ 2 * n = 2 * (a * u) + u) := by
  rcases lt_trichotomy b a with h | rfl | h
  · have := Nat.mul_le_mul_right u h
    rw [Nat.succ_mul] at this
    omega
  · exact ⟨le_refl _, fun _ => .inl rfl⟩
  · have := Nat.mul_le_mul_right u h
    rw [Nat.succ_mul] at this
    omega

/-- No number with at most 24 bits of significand lies nearer to a magnitude than the rounded one, and where one lies as near it
is the rounded one or the rounded significand is even. -/
theorem roundSig_nearest {m k : Nat} {e : Int} (hm : m ≠ 0) (hk : 149 ≤ k) (he : 0 ≤ e + k) {c : Nat} {p : Int} (hp : -149 ≤ p)
    (hc : c < 2 ^ 24) :
    let n := m * 2 ^ (e + k).toNat
    let r := roundSig m e * 2 ^ (lastPlace m e + k).toNat
    let y := c * 2 ^ (p + k).toNat
    ((n : Int) - r).natAbs ≤ ((n : Int) - y).natAbs ∧ (((n : Int) - r).natAbs = ((n : Int) - y).natAbs → y = r ∨ roundSig m e % 2 = 0) := by
  obtain ⟨hlo, hhi, htie⟩ := roundSig_spec m hk he
  have hq := le_lastPlace m e
  intro n r y
  by_cases hpq : lastPlace m e ≤ p
  · -- the other number is a multiple of the last place
    have hy : y = c * 2 ^ (p - lastPlace m e).toNat * 2 ^ (lastPlace m e + k).toNat := by
      rw [Nat.mul_assoc, ← two_pow_toNat_add (by omega) (by omega)]
      simp only [y]; congr 3; omega
    obtain ⟨hle, heq⟩ := nearest_multiple hlo hhi (c * 2 ^ (p - lastPlace m e).toNat)
    rw [← hy] at hle heq
    exact ⟨hle, fun h => (heq h).imp (fun hb => by rw [hy, hb]) htie⟩
  · -- the other number lies below 2^23 units of the last place, which lie no higher than the magnitude
    have hy : y < 2 ^ 23 * 2 ^ (lastPlace m e + k).toNat := by
      calc y < 2 ^ 24 * 2 ^ (p + k).toNat := Nat.mul_lt_mul_of_pos_right hc (by positivity)
        _ = 2 ^ (24 + (p + k).toNat) := (pow_add ..).symm
        _ ≤ 2 ^ (23 + (lastPlace m e + k).toNat) := Nat.pow_le_pow_right (by decide) (by omega)
        _ = 2 ^ 23 * 2 ^ (lastPlace m e + k).toNat := pow_add ..
    have hlow := lastPlace_le_mag hm hk he (by omega)
    obtain ⟨hle, -⟩ := nearest_multiple hlo hhi (2 ^ 23)
    constructor <;> omega

/-! R26's statement. -/

/-- Operands that are NaN give the canonical NaN. -/
theorem fNaN_of_nan {x y : W32} (h : fDec x = .nan ∨ fDec y = .nan) : fAdd x y = fNaN ∧ fMul x y = fNaN ∧ fDiv x y = fNaN := by
  unfold fAdd fMul fDiv
  rcases h with h | h
  · rw [h]; exact ⟨rfl, rfl, rfl⟩
  · rw [h]
    cases fDec x <;> exact ⟨rfl, rfl, rfl⟩

/-- The exact sum of two numbers, in units of the lower exponent, is rounded once. -/
theorem fSum_rounds (s t : Bool) (m n : Nat) (e f : Int) :
    ∃ a h : Int, h ≤ e ∧ h ≤ f ∧ a = sgnInt s (m * 2 ^ (e - h).toNat) + sgnInt t (n * 2 ^ (f - h).toNat) ∧
      (a ≠ 0 → fSum s m e t n f = fRound (decide (a < 0)) a.natAbs h false) ∧ (a = 0 → m ≠ 0 → fSum s m e t n f = 0#32) := by
  refine ⟨_, min e f, min_le_left _ _, min_le_right _ _, rfl, fun ha => ?_, fun ha hm => ?_⟩
  · simp only [fSum, fOfInt, if_neg ha]
  · simp only [fSum, fOfInt, if_pos ha, beq_eq_false_iff_ne.mpr hm, Bool.and_false, Bool.false_and]
    rfl

/-- Settles O52. A finite number is a multiple of the last place of the rounded magnitude, or lies below 2^23 units of it; so the
nearest multiple is the nearest number. -/
theorem nearestEven : Obligations.NearestEven := by
  refine ⟨fun sg m e k hm hk he => ?rounds, fun x y z s t u m n l e f g hx hy hz => ?once, fun x y h => fNaN_of_nan h⟩
  case rounds =>
    have hover := roundsOver_iff hm hk he
    intro exact mag r
    have hexact : exact = (m * 2 ^ (e + k).toNat : Nat) := by simp only [exact]; push_cast; rfl
    have hlimit : ((2 ^ 25 - 1) * 2 ^ (103 + k) : Int) = ((2 ^ 25 - 1) * 2 ^ (103 + k) : Nat) := by push_cast; norm_num
    have hmag : ∀ (x : W32) (s : Bool) (c : Nat) (p : Int), fDec x = .fin s c p → mag x = (c * 2 ^ (p + k).toNat : Nat) := by
      intro x s c p hx
      simp only [mag, hx]; push_cast; rfl
    rw [hexact, hlimit, Nat.cast_le, Nat.cast_lt]
    refine ⟨fun h => fRound_over sg hm (hover.mpr h), fun h => ?_⟩
    obtain ⟨c, p, hdec, -, hval, heven⟩ := fDec_fRound sg hm (fun hr => absurd (hover.mp hr) (by omega))
    obtain ⟨hfin, hsign⟩ := finite_of_fDec hdec
    refine ⟨hfin, hsign, fun y hy _ => ?_⟩
    obtain ⟨d, q, hydec, hq, hd⟩ := fDec_of_finite hy
    rw [hmag r _ _ _ hdec, hmag y _ _ _ hydec, hval k hk]
    obtain ⟨hle, htie⟩ := roundSig_nearest hm hk he hq hd
    exact ⟨hle, fun h => (htie h).imp (congrArg Nat.cast) heven⟩
  case once =>
    have hmul : fMul x y = fRound (s != t) (m * n) (e + f) false := by simp only [fMul, hx, hy]
    have hadd : fAdd x y = fSum s m e t n f := by simp only [fAdd, hx, hy]
    have hfma : fFma x y z = fSum (s != t) (m * n) (e + f) u l g := by simp only [fFma, hx, hy, hz]
    refine ⟨hmul, by rw [hadd]; exact fSum_rounds s t m n e f, ?_⟩
    obtain ⟨a, h, he, hg, ha, hround, -⟩ := fSum_rounds (s != t) u (m * n) l (e + f) g
    exact ⟨a, h, he, hg, ha, fun h0 => by rw [hfma, hround h0]⟩

end Sys2Proof.Machine

/-! PROOFS. Magnitudes that FP32 holds exactly, the S8 values, and the conversions (R24, R25, R27, R30). -/

namespace Sys2Proof.Machine

open Sys2Proof

/-- A magnitude of at most 2^24 units of a place that FP32 has is not changed by rounding. -/
theorem fDec_fRound_exact (s : Bool) {m : Nat} {e : Int} (hm : m ≠ 0) (hle : m ≤ 2 ^ 24) (he : -149 ≤ e) (hmax : e ≤ 103) :
    ∃ c p, fDec (fRound s m e false) = .fin s c p ∧ -149 ≤ p ∧ ∀ k : Nat, 149 ≤ k → c * 2 ^ (p + k).toNat = m * 2 ^ (e + k).toNat := by
  have hover : ¬ RoundsOver m e := by
    rw [roundsOver_iff (k := 149) hm (le_refl _) (by omega)]
    have hpow : 2 ^ (e + 149).toNat ≤ 2 ^ (103 + 149) := Nat.pow_le_pow_right (by decide) (by omega)
    have := Nat.mul_le_mul hle hpow
    push_cast
    omega
  have hself : ∀ k : Nat, 149 ≤ k → ∃ (c : Nat) (p : Int), -149 ≤ p ∧ c < 2 ^ 24 ∧ c * 2 ^ (p + k).toNat = m * 2 ^ (e + k).toNat := by
    intro k hk
    rcases Nat.lt_or_eq_of_le hle with hlt | rfl
    · exact ⟨m, e, he, hlt, rfl⟩
    · refine ⟨2 ^ 23, e + 1, by omega, by decide, ?_⟩
      rw [show e + 1 + k = (e + k) + 1 by omega, two_pow_toNat_add (by omega) (by decide)]
      simp only [Int.toNat_one, pow_one]; ring
  obtain ⟨c, p, hdec, hp, hval, -⟩ := fDec_fRound s hm hover
  refine ⟨c, p, hdec, hp, fun k hk => (hval k hk).trans ?_⟩
  obtain ⟨d, q, hq, hd, hy⟩ := hself k hk
  obtain ⟨hnear, -⟩ := roundSig_nearest (e := e) hm hk (by omega) hq hd
  rw [hy] at hnear
  omega

/-- The fields of an S8 pattern. -/
theorem s8Value_ofNat {p : Nat} (hp : p < 256) : s8Value (BitVec.ofNat 8 p) =
    if p % 128 = 127 then fNaN
    else if p / 8 % 16 = 0 then (if p % 8 = 0 then 0#32 else fRound (decide (128 ≤ p)) (p % 8) (-9) false)
    else fRound (decide (128 ≤ p)) (8 + p % 8) (((p / 8 % 16 : Nat) : Int) - 10) false := by
  have hs : bitAt p 7 = decide (128 ≤ p) := by
    unfold bitAt
    rw [Bool.eq_iff_iff, beq_iff_eq, decide_eq_true_eq]; norm_num; omega
  have he : bits p 6 3 = p / 8 % 16 := rfl
  have hm : bits p 2 0 = p % 8 := by simp [bits]
  simp only [s8Value, BitVec.toNat_ofNat, Nat.mod_eq_of_lt (show p < 2 ^ 8 by omega), hs, he, hm]
  congr 1
  rw [eq_iff_iff]; omega

/-- Settles O51: the magnitudes of S8 are few enough units of a place of FP32 to be exact there. -/
theorem s8Values : Obligations.S8Values := by
  intro p hp
  have hbits : p / 8 % 16 < 16 ∧ p % 8 < 8 := by omega
  refine ⟨fun h => by rw [s8Value_ofNat hp, if_pos h]; decide, fun h => ?_⟩
  rw [s8Value_ofNat hp, if_neg h]
  by_cases he : p / 8 % 16 = 0
  · rw [if_pos he]
    by_cases hm : p % 8 = 0
    · rw [if_pos hm]
      exact ⟨false, 0, -149, by decide, le_refl _, fun h => absurd rfl h, fun _ => by rw [hm]; rfl, fun h => absurd he h⟩
    · rw [if_neg hm]
      obtain ⟨c, q, hdec, hq, hval⟩ := fDec_fRound_exact (decide (128 ≤ p)) hm (by omega) (show (-149 : Int) ≤ -9 by decide) (by decide)
      refine ⟨_, c, q, hdec, hq, fun _ => rfl, fun _ => ?_, fun h => absurd he h⟩
      have hval' : c * 2 ^ (q + 149).toNat = p % 8 * 2 ^ 140 := hval 149 (le_refl _)
      rw [Nat.mul_assoc, hval']; omega
  · rw [if_neg he]
    obtain ⟨c, q, hdec, hq, hval⟩ := fDec_fRound_exact (decide (128 ≤ p)) (m := 8 + p % 8) (e := ((p / 8 % 16 : Nat) : Int) - 10)
      (by omega) (by omega) (by omega) (by omega)
    refine ⟨_, c, q, hdec, hq, fun _ => rfl, fun h => absurd h he, fun _ => ?_⟩
    have hval' : c * 2 ^ (q + 149).toNat = (8 + p % 8) * 2 ^ (p / 8 % 16 + 139) := by
      have := hval 149 (le_refl _)
      rwa [show (((p / 8 % 16 : Nat) : Int) - 10 + (149 : Nat)).toNat = p / 8 % 16 + 139 by omega] at this
    rw [Nat.mul_assoc 8, hval', pow_add]
    ring

/-! Conversions (R25, R27, R30). -/

/-- The magnitude that R25's rounding gives to m · 2^e: exact for a whole number, half way going up otherwise. -/
def awayMag (m : Nat) (e : Int) : Nat :=
  if 0 ≤ e then m * 2 ^ e.toNat else (m + 2 ^ ((-e).toNat - 1)) / 2 ^ (-e).toNat

theorem fRna_eq_awayMag {x : W32} {s : Bool} {m : Nat} {e : Int} (h : fDec x = .fin s m e) : fRna x = sgnInt s (awayMag m e) := by
  simp only [fRna, h, awayMag]

/-- Of a number in halves or smaller parts, the integer is within half a unit, and half way goes up. -/
theorem awayMag_spec (m : Nat) {e : Int} (he : e < 0) :
    (2 * (awayMag m e : Int) - 1) * 2 ^ (-e).toNat ≤ 2 * m ∧ (2 * m : Int) < (2 * awayMag m e + 1) * 2 ^ (-e).toNat := by
  obtain ⟨j, hj⟩ : ∃ j : Nat, (-e).toNat = j + 1 := ⟨(-e).toNat - 1, by omega⟩
  unfold awayMag
  rw [if_neg (by omega), hj, Nat.add_sub_cancel]
  have hdiv := Nat.div_add_mod (m + 2 ^ j) (2 ^ (j + 1))
  have hlt : (m + 2 ^ j) % 2 ^ (j + 1) < 2 ^ (j + 1) := Nat.mod_lt _ (by positivity)
  generalize (m + 2 ^ j) / 2 ^ (j + 1) = a at *
  generalize (m + 2 ^ j) % 2 ^ (j + 1) = r at *
  have hpow : ((2 ^ (j + 1) : Nat) : Int) = 2 * (2 ^ j : Nat) := by rw [pow_succ]; push_cast; ring
  have hcast : ((2 : Int) ^ (j + 1)) = ((2 ^ (j + 1) : Nat) : Int) := by push_cast; rfl
  have hlin : (2 * (a : Int) - 1) * (2 ^ (j + 1) : Nat) = 2 * ((2 ^ (j + 1) * a : Nat) : Int) - (2 ^ (j + 1) : Nat) ∧
      (2 * (a : Int) + 1) * (2 ^ (j + 1) : Nat) = 2 * ((2 ^ (j + 1) * a : Nat) : Int) + (2 ^ (j + 1) : Nat) := by
    constructor <;> push_cast <;> ring
  rw [hcast, hlin.1, hlin.2]
  omega

theorem rnaClamp_above {x : W32} {q : Nat} (h : fRna x > q) : rnaClamp x q = ((q : Int), true) := if_pos h

theorem rnaClamp_below {x : W32} {q : Nat} (h : fRna x < -(q : Int)) : rnaClamp x q = (-(q : Int), true) := by
  simp only [rnaClamp, if_neg (by omega : ¬ fRna x > q), if_pos h]

theorem rnaClamp_within {x : W32} {q : Nat} (hlo : -(q : Int) ≤ fRna x) (hhi : fRna x ≤ q) : rnaClamp x q = (fRna x, false) := by
  simp only [rnaClamp, if_neg (by omega : ¬ fRna x > q), if_neg (by omega : ¬ fRna x < -(q : Int))]

/-! The S8 scale rule: the values of the non-negative patterns rise with the pattern. -/

theorem fLt_eq_false {x y : W32} : fLt x y = false ↔ fKey y ≤ fKey x := by
  unfold fLt
  rw [decide_eq_false_iff_not, Int.not_lt]

theorem fKey_s8Value_succ : ∀ p < 0x7E, fKey (s8Value (BitVec.ofNat 8 p)) < fKey (s8Value (BitVec.ofNat 8 (p + 1))) := by decide

/-- The patterns with the sign bit have values that are not positive. -/
theorem fKey_s8Value_negative : ∀ p < 127, fKey (s8Value (BitVec.ofNat 8 (128 + p))) ≤ 0 := by decide

theorem fKey_s8Value_mono {p q : Nat} (hpq : p ≤ q) (hq : q ≤ 0x7E) :
    fKey (s8Value (BitVec.ofNat 8 p)) ≤ fKey (s8Value (BitVec.ofNat 8 q)) := by
  induction q, hpq using Nat.le_induction with
  | base => exact le_refl _
  | succ q _ ih => exact (ih (by omega)).trans (le_of_lt (fKey_s8Value_succ q (by omega)))

/-- The search passes over every pattern whose value is below the target, and stops at one whose value is not, or at its end. -/
theorem s8Search_spec (t : W32) (k : Nat) : ∀ p,
    p ≤ s8Search t k p ∧ s8Search t k p ≤ p + k ∧
      (∀ r, p ≤ r → r < s8Search t k p → fLt (s8Value (BitVec.ofNat 8 r)) t = true) ∧
      (s8Search t k p < p + k → fLt (s8Value (BitVec.ofNat 8 (s8Search t k p))) t = false) := by
  induction k with
  | zero =>
    intro p
    refine ⟨le_refl _, le_refl _, fun r h1 h2 => ?_, fun h => ?_⟩
    · exact absurd h2 (by unfold s8Search; omega)
    · exact absurd h (by unfold s8Search; omega)
  | succ k ih =>
    intro p
    unfold s8Search
    split_ifs with hp
    · obtain ⟨h1, h2, h3, h4⟩ := ih (p + 1)
      refine ⟨by omega, by omega, fun r hr hlt => ?_, fun h => h4 (by omega)⟩
      rcases Nat.eq_or_lt_of_le hr with rfl | hr
      · exact hp
      · exact h3 r hr hlt
    · exact ⟨le_refl _, by omega, fun r h1 h2 => absurd h2 (by omega), fun _ => Bool.eq_false_iff.mpr hp⟩

section Select

variable {t : W32}

theorem s8Select_above (h : fLt 0x43E00000#32 t = true) : s8Select t = (0x7E#8, true) := if_pos h

theorem s8Select_within (h : fLt 0x43E00000#32 t = false) : s8Select t = (BitVec.ofNat 8 (s8Search t 0x7E 0), false) :=
  if_neg (by simp [h])

/-- Up to 448 the scale selected is at least the target. -/
theorem s8Select_ge (h : fLt 0x43E00000#32 t = false) : fLt (s8Value (BitVec.ofNat 8 (s8Search t 0x7E 0))) t = false := by
  obtain ⟨-, hle, -, hstop⟩ := s8Search_spec t 0x7E 0
  rcases Nat.lt_or_eq_of_le hle with hlt | heq
  · exact hstop hlt
  · have hlast : s8Value (BitVec.ofNat 8 (0 + 0x7E)) = 0x43E00000#32 := by decide
    rw [heq, hlast, h]

/-- No S8 value that is at least the target is below the scale selected. -/
theorem s8Select_least (h0 : fLt t 0#32 = false) {p : Nat} (hp : p < 256) (hnan : p % 128 ≠ 127)
    (hge : fLt (s8Value (BitVec.ofNat 8 p)) t = false) :
    fLt (s8Value (BitVec.ofNat 8 p)) (s8Value (BitVec.ofNat 8 (s8Search t 0x7E 0))) = false := by
  obtain ⟨-, -, hpass, -⟩ := s8Search_spec t 0x7E 0
  have hzero : fKey 0#32 = 0 := by decide
  rw [fLt_eq_false] at *
  have hstart : ∀ q, fKey t ≤ fKey (s8Value (BitVec.ofNat 8 q)) → s8Search t 0x7E 0 ≤ q := by
    intro q hq
    by_contra hlow
    have := fLt_eq_false.mpr hq
    rw [hpass q (Nat.zero_le _) (by omega)] at this
    cases this
  by_cases hsign : p < 128
  · exact fKey_s8Value_mono (hstart p hge) (by omega)
  · have hneg := fKey_s8Value_negative (p - 128) (by omega)
    rw [Nat.add_sub_cancel' (by omega)] at hneg
    have hfirst : fKey (s8Value (BitVec.ofNat 8 0)) = 0 := by decide
    rw [Nat.le_zero.mp (hstart 0 (by omega)), hfirst]
    omega

theorem fKey_of_isZero (h : fIsZero t = true) : fKey t = 0 := by
  have h0 : bits t.toNat 30 0 = 0 := by simpa [fIsZero] using h
  simp [fKey, h0]

theorem s8Select_zero (h : fIsZero t = true) : s8Select t = (0#8, false) := by
  have hk := fKey_of_isZero h
  have hmax : fLt 0x43E00000#32 t = false := by rw [fLt_eq_false, hk]; decide
  have hfirst : fLt (s8Value (BitVec.ofNat 8 0)) t = false := by rw [fLt_eq_false, hk]; decide
  rw [s8Select_within hmax]
  simp only [s8Search, hfirst]
  rfl

end Select

/-! Sums of groups. -/

theorem foldl_add_natAbs {b : Nat} : ∀ (l : List Int) (a : Int), (∀ x ∈ l, x.natAbs ≤ b) → (l.foldl (· + ·) a).natAbs ≤ a.natAbs + l.length * b := by
  intro l
  induction l with
  | nil => intro a _; simp
  | cons x r ih =>
    intro a h
    have hx := h x (by simp)
    have hr := ih (a + x) (fun y hy => h y (List.mem_cons_of_mem _ hy))
    rw [List.foldl_cons, List.length_cons, Nat.succ_mul]
    omega

/-- A dot product is at most its length times the largest products. -/
theorem intDot_natAbs {b c : Nat} (w a : List Int) (hw : ∀ x ∈ w, x.natAbs ≤ b) (ha : ∀ x ∈ a, x.natAbs ≤ c) :
    (intDot w a).natAbs ≤ w.length * (b * c) := by
  have hprod : ∀ x ∈ List.zipWith (· * ·) w a, x.natAbs ≤ b * c := by
    intro x hx
    rw [← List.map_uncurry_zip_eq_zipWith, List.mem_map] at hx
    obtain ⟨⟨y, z⟩, hyz, rfl⟩ := hx
    obtain ⟨hy, hz⟩ := List.of_mem_zip hyz
    rw [Function.uncurry_apply_pair, Int.natAbs_mul]
    exact Nat.mul_le_mul (hw y hy) (ha z hz)
  calc (intDot w a).natAbs ≤ (0 : Int).natAbs + (List.zipWith (· * ·) w a).length * (b * c) := foldl_add_natAbs _ _ hprod
    _ ≤ w.length * (b * c) := by
      rw [List.length_zipWith, Int.natAbs_zero, Nat.zero_add]
      exact Nat.mul_le_mul_right _ (min_le_left _ _)

theorem sgnInt_mul (s : Bool) (m n : Nat) : sgnInt s (m * n) = sgnInt s m * n := by
  cases s <;> simp [sgnInt]

theorem sgnInt_natAbs (n : Int) : sgnInt (decide (n < 0)) n.natAbs = n := by
  unfold sgnInt
  split_ifs with h <;> rw [decide_eq_true_eq] at h <;> omega

/-- An integer of magnitude up to 2^24 becomes FP32 exactly. -/
theorem fDec_fOfInt_exact {n : Int} (h : n.natAbs ≤ 2 ^ 24) : ∃ (s : Bool) (m : Nat) (e : Int), fDec (fOfInt n 0) = .fin s m e ∧
    (e ≤ 0 → sgnInt s m = n * 2 ^ (-e).toNat) ∧ (0 < e → sgnInt s m * 2 ^ e.toNat = n) := by
  by_cases h0 : n = 0
  · subst h0
    exact ⟨false, 0, -149, by decide, fun _ => by simp [sgnInt], fun h => absurd h (by decide)⟩
  · obtain ⟨c, p, hdec, hp, hval⟩ := fDec_fRound_exact (decide (n < 0)) (m := n.natAbs) (by omega) h (show (-149 : Int) ≤ 0 by decide) (by decide)
    have hval' : c * 2 ^ (p + 149).toNat = n.natAbs * 2 ^ 149 := hval 149 (le_refl _)
    refine ⟨decide (n < 0), c, p, by rw [fOfInt, if_neg h0, hdec], fun hle => ?_, fun hlt => ?_⟩
    · have hpow : (2 : Nat) ^ 149 = 2 ^ (-p).toNat * 2 ^ (p + 149).toNat := by
        rw [← two_pow_toNat_add (by omega) (by omega)]; congr 1; omega
      rw [hpow, ← Nat.mul_assoc] at hval'
      rw [Nat.eq_of_mul_eq_mul_right (by positivity) hval', sgnInt_mul, sgnInt_natAbs]
      push_cast; rfl
    · have hpow : (2 : Nat) ^ (p + 149).toNat = 2 ^ p.toNat * 2 ^ 149 := two_pow_toNat_add (by omega) (by decide)
      rw [hpow, ← Nat.mul_assoc] at hval'
      have hsgn := sgnInt_natAbs n
      rw [← Nat.eq_of_mul_eq_mul_right (by positivity) hval', sgnInt_mul] at hsgn
      simpa using hsgn

/-- Settles O53: the rounding by its bound of half a unit, the scale rule by the order of the patterns' values, and the sums by their size. -/
theorem conversionsRound : Obligations.ConversionsRound := by
  refine ⟨fun x s m e q h => ?rna, fun op q v h => ?poison, fun t _ h0 => ?scale, fun w a hlen hw ha => ?sum, fun n h => fDec_fOfInt_exact h⟩
  case rna =>
    refine ⟨⟨awayMag m e, fRna_eq_awayMag h, fun he => if_pos he, fun he => awayMag_spec m he⟩, rnaClamp_above, rnaClamp_below, rnaClamp_within⟩
  case poison =>
    simp only [quantElem, h, Bool.not_false, if_true]
  case scale =>
    refine ⟨s8Select_above, fun hmax => ?_, s8Select_zero⟩
    obtain ⟨-, hle, -⟩ := s8Search_spec t 0x7E 0
    rw [s8Select_within hmax]
    refine ⟨rfl, ?_, s8Select_ge hmax, fun p hp hge => ?_⟩
    · rw [BitVec.toNat_ofNat]; omega
    · have hp' := s8Select_least h0 p.isLt hp
      rw [BitVec.ofNat_toNat, BitVec.setWidth_eq] at hp'
      exact hp' hge
  case sum =>
    exact (intDot_natAbs w a hw ha).trans (by omega)

end Sys2Proof.Machine

/-! PROOFS. What a write to memory stores within one line, and that clean bytes read back (R39, R120). -/

namespace Sys2Proof.Machine

open Sys2Proof

section Line

variable {s : State} {a : Nat} {bs : List PByte}

/-- Bytes of one line are one line write. -/
theorem pwrite_line (hne : bs ≠ []) (hfit : a % lineWidth a + bs.length ≤ lineWidth a) : pwrite s a bs = writeLine s a bs := by
  obtain ⟨b, r, rfl⟩ := List.exists_cons_of_ne_nil hne
  have htake : (b :: r).take (lineWidth a - a % lineWidth a) = b :: r := List.take_of_length_le (by omega)
  have hdrop : (b :: r).drop (lineWidth a - a % lineWidth a) = [] := List.drop_of_length_le (by omega)
  unfold pwrite
  simp only [pwriteGo, htake, hdrop, List.length_cons, Bool.or_false]

variable (hmap : remapAddr s a = a)
include hmap

theorem writeLine_poison (hp : anyPsn bs = true) : writeLine s a bs = (markLine s (a / lineWidth a * lineWidth a) (lineWidth a), false) := by
  simp only [writeLine, hmap, if_pos hp]

theorem writeLine_whole (hp : anyPsn bs = false) (hlen : bs.length = lineWidth a) :
    writeLine s a bs = (let t := clearLine s (a / lineWidth a * lineWidth a) (lineWidth a)
      { t with mm := { t.mm with mem := cellsWrite t.mm.mem a (rawBytes bs) } }, false) := by
  simp only [writeLine, hmap, hp, Bool.false_eq_true, if_false, if_pos hlen]

theorem writeLine_lost (hp : anyPsn bs = false) (hlen : bs.length < lineWidth a) (hl : linePsn s (a / lineWidth a * lineWidth a) = true) :
    writeLine s a bs = (s, addrClass (a / lineWidth a * lineWidth a) == .t1) := by
  simp only [writeLine, hmap, hp, Bool.false_eq_true, if_false, if_neg (Nat.ne_of_lt hlen), if_pos hl]

theorem writeLine_part (hp : anyPsn bs = false) (hlen : bs.length < lineWidth a) (hl : linePsn s (a / lineWidth a * lineWidth a) = false) :
    writeLine s a bs = ({ s with mm := { s.mm with mem := cellsWrite s.mm.mem a (rawBytes bs) } }, false) := by
  simp only [writeLine, hmap, hp, Bool.false_eq_true, if_false, if_neg (Nat.ne_of_lt hlen), hl]

end Line

theorem linePsn_markLine (s : State) (a w : Nat) : linePsn (markLine s a w) a = true := by
  unfold linePsn markLine
  simp only
  split_ifs <;> simp [NSet.has_add]

theorem linePsn_clearLine (s : State) (a w : Nat) : linePsn (clearLine s a w) a = false := by
  unfold linePsn clearLine
  simp only
  split_ifs <;> simp [NSet.has_del]

/-- Clean bytes written where no line is poisoned read back, clean. -/
theorem pread_pwrite_clean {s : State} {a : Nat} {bs : List PByte} (hmap : ∀ i, i < bs.length → remapAddr s (a + i) = a + i)
    (hpsn : ∀ i l, i < bs.length → (a + i) / 64 = l / 2 → NSet.has l s.mm.psn = false) (hp : anyPsn bs = false) :
    pread (pwrite s a bs).1 a bs.length = bs ∧ (pwrite s a bs).2 = false := by
  obtain ⟨hbytes, hlost⟩ := pwriteGo_clean (bs.length + 1) s a bs (Nat.lt_succ_self _) hmap hpsn hp
  refine ⟨?_, hlost⟩
  have hremap : (pwrite s a bs).1.mm.remap = s.mm.remap := by
    obtain ⟨m, p, h⟩ := pwrite_only s a bs
    rw [h]
  apply List.ext_getElem (pread_length _ _ _)
  intro i hi hi'
  have hclean : (bs[i]).2 = false := by
    simp only [anyPsn, List.any_eq_false, Bool.not_eq_true] at hp
    exact hp _ (List.getElem_mem hi')
  have hmark : NSet.has ((a + i) / 32) (pwrite s a bs).1.mm.psn = false :=
    pwriteGo_marks _ hp _ (hpsn i _ hi' (by omega))
  simp only [pread, rangeFrom, List.map_map, List.getElem_map, List.getElem_range, Function.comp, remapAddr_congr hremap, hmap i hi', linePsn, hmark]
  exact Prod.ext (hbytes i hi') hclean.symm

/-- Settles O54, from the frame of a write and the four cases of a line write. -/
theorem memoryWrites : Obligations.MemoryWrites := by
  intro s a bs r
  obtain ⟨hbytes, hmarks⟩ := pwriteGo_out (bs.length + 1) s a bs
  refine ⟨pwrite_wf a bs, pwrite_only s a bs, hbytes, hmarks, pread_pwrite_clean, fun hne hfit hmap => ?_⟩
  have hr : r = writeLine s a bs := pwrite_line hne hfit
  rw [hr]
  refine ⟨fun hp => ?_, fun hp hlen => ?_, fun hp hlen hl => ?_, fun hp hlen hl => ?_⟩
  · rw [writeLine_poison hmap hp]
    exact ⟨rfl, linePsn_markLine _ _ _, rfl⟩
  · rw [writeLine_whole hmap hp hlen]
    exact ⟨rfl, linePsn_clearLine s _ _, rfl⟩
  · rw [writeLine_lost hmap hp hlen hl]
    exact ⟨rfl, rfl⟩
  · rw [writeLine_part hmap hp hlen hl]
    exact ⟨rfl, rfl⟩

end Sys2Proof.Machine

/-! PROOFS. The retirement of a step op (R36, R174, R178, R181). -/

namespace Sys2Proof.Machine

open Sys2Proof

theorem ctx_setCtx_same (s : State) (h : Nat) (c : Ctx) : (s.setCtx h c).ctx? h = some c := Tab.find?_ins_same _ _ _

theorem ctx_setCtx_ne (s : State) {h g : Nat} (hne : g ≠ h) (c : Ctx) : (s.setCtx h c).ctx? g = s.ctx? g := Tab.find?_ins_ne hne _ _

/-! What retirement may change. -/

/-- The retirement of an op writes its context's record, or nothing. -/
theorem retireOp_cases (s : State) (h idx sat : Nat) (st : Status) : retireOp s h idx st sat = s ∨ ∃ d, retireOp s h idx st sat = s.setCtx h d := by
  cases hc : s.ctx? h with
  | none => exact .inl (by simp only [retireOp, hc])
  | some c =>
    right
    cases he : c.step with
    | none => simp only [retireOp, hc, he]; exact ⟨_, rfl⟩
    | some e =>
      simp only [retireOp, hc, he]
      split_ifs <;> exact ⟨_, rfl⟩

theorem wake_none {s : State} {h : Nat} (hc : s.ctx? h = none) : wake s h = s := by
  simp only [wake, hc]

theorem wake_some {s : State} {h : Nat} {c : Ctx} (hc : s.ctx? h = some c) : wake s h =
    if c.st ≠ .waiting ∨ heldByUnit s c ∨ s.sch.waiters.any (fun w => w.who == .ctx h) then s
    else ({ s with sch := { s.sch with idleTick := s.sch.idleTick + 1 } } : State).updCtx h
      (fun c => { c with st := .ready, idleSince := s.sch.idleTick + 1 }) := by
  simp only [wake, hc]

/-- Waking a context changes the scheduler's state only, and no other context. -/
theorem wake_frame (s : State) (h : Nat) : (∃ q, wake s h = { s with sch := q }) ∧ ∀ g, g ≠ h → (wake s h).ctx? g = s.ctx? g := by
  cases hc : s.ctx? h with
  | none =>
    rw [wake_none hc]
    exact ⟨⟨s.sch, rfl⟩, fun _ _ => rfl⟩
  | some c =>
    rw [wake_some hc]
    split_ifs
    · exact ⟨⟨s.sch, rfl⟩, fun _ _ => rfl⟩
    · exact ⟨⟨_, rfl⟩, fun g hg => ctx_updCtx_ne _ hg _⟩

theorem retire_frame (s : State) (h idx sat : Nat) (st : Status) :
    (∃ q, retire s h idx st sat = { s with sch := q }) ∧ ∀ g, g ≠ h → (retire s h idx st sat).ctx? g = s.ctx? g := by
  obtain ⟨⟨q, hq⟩, hctx⟩ := wake_frame (retireOp s h idx st sat) h
  unfold retire
  rcases retireOp_cases s h idx sat st with hr | ⟨d, hr⟩
  · rw [hr] at hq hctx ⊢
    exact ⟨⟨q, hq⟩, hctx⟩
  · rw [hr] at hq hctx ⊢
    exact ⟨⟨q, hq⟩, fun g hg => (hctx g hg).trans (ctx_setCtx_ne s hg d)⟩

/-! When a context wakes. -/

section Wake

variable {s : State} {h : Nat} {c : Ctx} (hc : s.ctx? h = some c)
include hc

theorem wake_stays (hstay : c.st ≠ .waiting ∨ heldByUnit s c = true ∨ s.sch.waiters.any (fun w => w.who == .ctx h) = true) : wake s h = s := by
  rw [wake_some hc, if_pos hstay]

theorem wake_ready (hst : c.st = .waiting) (hunit : heldByUnit s c = false) (hfree : s.sch.waiters.any (fun w => w.who == .ctx h) = false) :
    (wake s h).ctx? h = some { c with st := .ready, idleSince := s.sch.idleTick + 1 } := by
  rw [wake_some hc, if_neg (by simp [hst, hunit, hfree]), ctx_updCtx_same]
  exact congrArg (Option.map _) hc

end Wake

/-! How a status joins a step that is not stopped. -/

section Join

variable {s : State} {h idx sat : Nat} {st : Status} {c : Ctx} {e : Machine.Step} {q : Program} {p : Prog} {f : Phase}
  (hc : s.ctx? h = some c) (he : c.step = some e) (hq : progOf s c.program = some (q, p)) (hf : p.phases[c.phase]? = some f)
  (hgo : e.stopped = false)
include hc he hq hf hgo

/-- The record that retirement writes, by the status and the phase's RETRY. -/
theorem retireOp_running : retireOp s h idx st sat =
    let d := { c with sat := satTo (2 ^ 32 - 1) (c.sat + sat), inflight := NSet.del idx c.inflight }
    if st = .ok ∨ st = .poison ∨ st = .battLength then s.setCtx h { d with step := some { e with status := e.status.worse st } }
    else if (st = .horizon ∨ st = .epochStale) ∧ f.retry = true ∧ c.retries < 3 then s.setCtx h { d with step := some { e with retry := true } }
    else s.setCtx h { d with step := some { e with status := st, stopped := true }, faultPhase := c.phase, faultOp := idx } := by
  simp only [retireOp, hc, he, hq, hf, hgo, Bool.false_eq_true, if_false, Bool.not_false, Bool.and_true, Bool.and_eq_true, Bool.or_eq_true,
    beq_iff_eq, decide_eq_true_eq, and_assoc]

theorem retireOp_joins (hst : st = .ok ∨ st = .poison ∨ st = .battLength) : (retireOp s h idx st sat).ctx? h =
    some { c with sat := satTo (2 ^ 32 - 1) (c.sat + sat), inflight := NSet.del idx c.inflight,
                  step := some { e with status := e.status.worse st } } := by
  rw [retireOp_running hc he hq hf hgo]
  simp only [if_pos hst, ctx_setCtx_same]

theorem retireOp_retries (hst : st = .horizon ∨ st = .epochStale) (hr : f.retry = true) (hn : c.retries < 3) : (retireOp s h idx st sat).ctx? h =
    some { c with sat := satTo (2 ^ 32 - 1) (c.sat + sat), inflight := NSet.del idx c.inflight, step := some { e with retry := true } } := by
  have hgood : ¬ (st = .ok ∨ st = .poison ∨ st = .battLength) := by rcases hst with rfl | rfl <;> decide
  rw [retireOp_running hc he hq hf hgo]
  simp only [if_neg hgood, if_pos (And.intro hst (And.intro hr hn)), ctx_setCtx_same]

theorem retireOp_stops (hgood : ¬ (st = .ok ∨ st = .poison ∨ st = .battLength))
    (hretry : ¬ ((st = .horizon ∨ st = .epochStale) ∧ f.retry = true ∧ c.retries < 3)) : (retireOp s h idx st sat).ctx? h =
    some { c with sat := satTo (2 ^ 32 - 1) (c.sat + sat), inflight := NSet.del idx c.inflight,
                  step := some { e with status := st, stopped := true }, faultPhase := c.phase, faultOp := idx } := by
  rw [retireOp_running hc he hq hf hgo]
  simp only [if_neg hgood, if_neg hretry, ctx_setCtx_same]

end Join

/-! Ops that issue. -/

section Issued

variable {s : State} {k : OpCtx} {sel : Op → Bool} {u : State} {st : Status} {n : Nat} (hon : s.pow.st = .on) (i : Issues s sel k)
include hon i

/-- An op that issues and ends retires. -/
theorem issued_retires {body : OpCtx → State → OpOut} (h : body k (issued s k) = .done u st n) :
    act s (runOp s k.h sel body) = .next (finish (retire u k.h k.idx st n)) := by
  rw [act_on hon, runOp_issue i, h, settle]

/-- An op that issues and waits holds its context. -/
theorem issued_waits {body : OpCtx → State → OpOut} (h : body k (issued s k) = .wait u) :
    act s (runOp s k.h sel body) = .next (finish (holdCtx u k.h)) := by
  rw [act_on hon, runOp_issue i, h, settle]

end Issued

/-- Settles O46, by the record that retirement writes and what waking adds to it. -/
theorem retirementAndRecordFrames : Obligations.RetirementAndRecordFrames := by
  refine ⟨fun s h idx sat st => ⟨rfl, retire_frame s h idx sat st⟩, fun s h c hc => ⟨wake_stays hc, wake_ready hc⟩,
    fun s h idx sat st c e q p f hc he hq hf hgo => ⟨retireOp_joins hc he hq hf hgo, retireOp_retries hc he hq hf hgo, fun h1 h2 h3 hno => ?_⟩,
    fun s f r code c st res => ⟨quiet_deliver s f r c, quiet_raiseEvent s f code st res⟩⟩
  refine retireOp_stops hc he hq hf hgo (by tauto) ?_
  rintro ⟨hst, hr, hn⟩
  rcases hno with ⟨hh, hs⟩ | hr' | hn'
  · exact hst.elim hh hs
  · rw [hr] at hr'; cases hr'
  · omega

end Sys2Proof.Machine

/-! PROOFS. What each tile computes for the vector ops, copies, routing and sampling (R71, R73, R74, R179, R186, R372). -/

namespace Sys2Proof.Machine

open Sys2Proof

/-! One equation a part, given what its operands read as. -/

section Parts

variable {s u v : State} {k : OpCtx} {tile : Nat} {a b : Loc} {xs zs : List PElem} {c : PElem}

theorem elem2_reads (f : W32 → W32 → W32) {bx bz : Bool} (hx : tileVec s k bx k.o.src0 tile k.o.arg1 = some (xs, u))
    (hz : tileVec u k bz k.o.src1 tile k.o.arg1 = some (zs, v)) : elem2 f bx bz k tile s =
      vecOut v k tile (k.o.var / 8) (List.zipWith (fun (x z : PElem) => (f x.1 z.1, x.2 || z.2)) xs zs) := by
  simp only [elem2, hx, hz]

theorem elemScale_reads {bf : Bool} (hx : tileVec s k bf k.o.src0 tile k.o.arg1 = some (xs, u)) (hc : scaleValue u k tile = some (c, v)) :
    elemScale bf k tile s = vecOut v k tile (k.o.var / 8) (xs.map (fun x => (fMul x.1 c.1, x.2 || c.2))) := by
  simp only [elemScale, hx, hc]

theorem scaleValue_const (h : k.o.aux = 0xFFFF) : scaleValue s k tile = some ((BitVec.ofNat 32 k.o.arg0, false), s) := if_pos h

theorem elemConvert_fromF32 (hfmt : k.o.var / 8 ≠ 0) (hx : tileF32 s k k.o.src0 tile 0 k.o.arg1 = some (xs, u)) :
    elemConvert k tile s = vecOut u k tile (k.o.var / 8) xs := by
  simp only [elemConvert, if_neg hfmt, hx]

theorem elemConvert_fromBf16 (hfmt : k.o.var / 8 = 0) (ha : operand s k k.o.src0 tile 0 (2 * k.o.arg1) false = some a) :
    elemConvert k tile s = vecOut (locRead s k.h a (2 * k.o.arg1)).2 k tile 0 (elemsBf (locRead s k.h a (2 * k.o.arg1)).1) := by
  simp only [elemConvert, if_pos hfmt, ha]

theorem elemParts_reads (hx : tileF32 s k k.o.src0 tile 0 (k.o.arg2 * k.o.arg1) = some (xs, u)) (hc : scaleValue u k tile = some (c, v)) :
    elemParts k tile s = vecOut v k tile (k.o.var / 8) ((List.range k.o.arg1).map (fun i =>
      let e := (chunk k.o.arg1 xs).map (fun p => p.getD i (0#32, false))
      (fMul (serialSum (e.map (·.1))) c.1, e.any (·.2) || (c.2 || !fFinite c.1)))) := by
  simp only [elemParts, hx, hc]

theorem copyPart_reads (ha : operand s k k.o.src0 tile 0 k.o.arg0 false = some a) :
    copyPart k tile s = tileOut (locRead s k.h a k.o.arg0).2 k tile (locRead s k.h a k.o.arg0).1 (anyPsn (locRead s k.h a k.o.arg0).1) 0 := by
  simp only [copyPart, ha]

theorem gatherPart_ofToken {x : Ctx} (hsrc : k.o.src1 = 0xFFFF) (hx : s.ctx? k.h = some x)
    (ha : operand s k k.o.src0 tile (x.token * k.o.arg0) k.o.arg0 false = some a) :
    gatherPart k tile s = tileOut (locRead s k.h a k.o.arg0).2 k tile (locRead s k.h a k.o.arg0).1 (anyPsn (locRead s k.h a k.o.arg0).1) 0 := by
  simp only [gatherPart, if_pos hsrc, hx, Option.map_some, Option.getD_some, ha]

section Src1

variable (hsrc : k.o.src1 ≠ 0xFFFF) (hb : operand s k k.o.src1 tile 0 4 false = some b)
include hsrc hb

theorem gatherPart_poison (hp : anyPsn (locRead s k.h b 4).1 = true) :
    gatherPart k tile s = tileOut (locRead s k.h b 4).2 k tile (List.replicate k.o.arg0 (0#8, true)) true 0 := by
  simp only [gatherPart, if_neg hsrc, hb, hp]

theorem gatherPart_ofSrc1 (hp : anyPsn (locRead s k.h b 4).1 = false)
    (ha : operand (locRead s k.h b 4).2 k k.o.src0 tile (leNat (rawBytes (locRead s k.h b 4).1) * k.o.arg0) k.o.arg0 false = some a) :
    gatherPart k tile s = tileOut (locRead (locRead s k.h b 4).2 k.h a k.o.arg0).2 k tile (locRead (locRead s k.h b 4).2 k.h a k.o.arg0).1
      (anyPsn (locRead (locRead s k.h b 4).2 k.h a k.o.arg0).1) 0 := by
  simp only [gatherPart, if_neg hsrc, hb, hp, ha]

end Src1

theorem routePart_reads (hx : tileF32 s k k.o.src0 tile 0 k.o.arg1 = some (xs, u)) :
    let p := xs.any (fun x => x.2 || fIsNaN x.1)
    let r := routeTopK (xs.map (·.1)) k.o.arg0
    routePart k tile s = tileOut u k tile ((padTo (alignUp (2 * k.o.arg0) 4) (r.1.flatMap (fun i => leBytes 2 i)) ++
      r.2.flatMap (fun w => leBytes 4 w.toNat)).map (fun b => (b, p))) p 0 := by
  simp only [routePart, hx]

theorem tokenOut_bad {cs : List Cand} (h : candsBad cs = true) : tokenOut s k tile cs = tileOut s k tile (List.replicate 4 (0#8, true)) true 0 :=
  if_pos h

theorem tokenOut_good {cs : List Cand} (h : candsBad cs = false) :
    let tok := selectTok cs k.o.arg0 (k.o.var / 4) (BitVec.ofNat 32 k.o.arg1) (BitVec.ofNat 32 k.o.arg2) (draw k.c.seed k.c.stepCtr (bits k.o.arg4 23 20))
    tokenOut s k tile cs = tileOut (s.updCtx k.h (fun c => { c with token := tok })) k tile (cleanBytes (leBytes 4 tok)) false 0 :=
  if_neg (by simp [h])

theorem fullPart_reads (hx : tileF32 s k k.o.src0 tile 0 (bits k.o.arg4 19 0) = some (xs, u)) :
    fullPart k tile s = tokenOut u k tile (logitCands xs k.o.arg3) := by
  simp only [fullPart, hx]

theorem localPart_reads (hx : tileF32 s k k.o.src0 tile 0 (bits k.o.arg4 19 0) = some (xs, u)) :
    let cs := logitCands xs k.o.arg3
    localPart k tile s = tileOut u k tile ((topCands cs k.o.arg0).flatMap (fun b =>
      (leBytes 4 b.z.toNat ++ leBytes 4 b.id).map (fun x => (x, candsBad cs)))) (candsBad cs) 0 := by
  simp only [localPart, hx]

theorem selectPart_reads (ha : operand s k k.o.src0 tile 0 (8 * bits k.o.arg4 19 0) false = some a) :
    selectPart k tile s = tokenOut (locRead s k.h a (8 * bits k.o.arg4 19 0)).2 k tile (pairCands (locRead s k.h a (8 * bits k.o.arg4 19 0)).1) := by
  simp only [selectPart, ha]

end Parts

/-- Settles O14, an equation a part. -/
theorem tileParts : Obligations.TileParts := by
  refine ⟨?elem2, ?scale, ?const, ?fromF32, ?fromBf16, ?parts, ?copy, ?token, ?src1, ?route, ?logits, ?select⟩
  case elem2 => rintro s t u k bx bz n tile xs zs f rfl hx hz; exact elem2_reads f hx hz
  case scale => rintro s t u k bf n tile xs c rfl hx hc; exact elemScale_reads hx hc
  case const => exact fun s k tile h => scaleValue_const h
  case fromF32 => rintro s t k n tile xs rfl hfmt hx; exact elemConvert_fromF32 hfmt hx
  case fromBf16 => rintro s k n tile a rfl hfmt ha; exact elemConvert_fromBf16 hfmt ha
  case parts => rintro s t u k n tile xs c rfl hx hc; exact elemParts_reads hx hc
  case copy => exact fun s k tile a ha => copyPart_reads ha
  case token => exact fun s k tile c a hsrc hc ha => gatherPart_ofToken hsrc hc ha
  case src1 => exact fun s k tile a b hsrc hb => ⟨gatherPart_poison hsrc hb, gatherPart_ofSrc1 hsrc hb⟩
  case route => exact fun s t k tile xs hx => routePart_reads hx
  case logits =>
    intro s t k tile xs hx
    exact ⟨fun h => (fullPart_reads hx).trans (tokenOut_bad h), fun h => (fullPart_reads hx).trans (tokenOut_good h), localPart_reads hx⟩
  case select =>
    intro s k tile a ha
    exact ⟨fun h => (selectPart_reads ha).trans (tokenOut_bad h), fun h => (selectPart_reads ha).trans (tokenOut_good h)⟩

end Sys2Proof.Machine

/-! PROOFS. The frame of the tile ops: each ends, and changes nothing but what it stores at DST (R37, R39, R73, R178, R179, R186, R372). -/

namespace Sys2Proof.Machine

open Sys2Proof

/-! What storing leaves, with what has been read before it. -/

section Stores

variable {k : OpCtx} {len n fmt t sat m : Nat} {tok p : Bool} {s v u : State} {st : Status} {bs : List PByte} {es : List PElem} {ts : List Nat}

/-- An op that may set TOKEN need not. -/
theorem OpKeeps.withTok (a : OpKeeps k len false s u ts) (tok : Bool) : OpKeeps k len tok s u ts := by
  refine ⟨a.rest, a.others, fun c hc => ?_, a.bytes, a.marks⟩
  obtain ⟨d, hd, heq, htok, harea⟩ := a.own c hc
  exact ⟨d, hd, heq, fun _ => htok rfl, harea⟩

/-- What comes after reading changes what it changes of the state before. -/
theorem OpKeeps.afterRead (f : FreeOnly s v) (a : OpKeeps k len tok v u ts) : OpKeeps k len tok s u ts := (OpKeeps.ofFree f).append a

theorem tileOut_afterRead (f : FreeOnly s v) (hlen : bs.length = len) (h : tileOut v k t bs p sat = some (u, st, m)) :
    OpKeeps k len false s u [t] := by
  subst hlen
  exact (tileOut_keeps h).afterRead f

theorem vecOut_afterRead (hfmt : fmt ≤ 2) (f : FreeOnly s v) (hlen : es.length = n) (h : vecOut v k t fmt es = some (u, st, m)) :
    OpKeeps k (outBytes fmt n) false s u [t] :=
  tileOut_afterRead f (by rw [outVector_length hfmt, hlen]) h

/-- The context's TOKEN set. -/
theorem setToken_keeps (s : State) (k : OpCtx) (len x : Nat) : OpKeeps k len true s (s.updCtx k.h (fun c => { c with token := x })) [] where
  rest := rfl
  others := fun _ hh => ctx_updCtx_ne s hh _
  own := by
    intro c hc
    refine ⟨{ c with token := x }, by rw [ctx_updCtx_same, hc]; rfl, rfl, ?_, fun _ _ => rfl⟩
    intro h
    cases h
  bytes := fun _ _ => rfl
  marks := fun _ _ => rfl

theorem tokenOut_afterRead {cs : List Cand} (f : FreeOnly s v) (h : tokenOut v k t cs = some (u, st, m)) : OpKeeps k 4 true s u [t] := by
  cases hbad : candsBad cs with
  | true =>
    rw [tokenOut_bad hbad] at h
    exact (tileOut_afterRead f (by simp) h).withTok true
  | false =>
    rw [tokenOut_good hbad] at h
    refine OpKeeps.afterRead f ((setToken_keeps v k 4 _).append ((tileOut_afterRead (FreeOnly.refl _) ?_ h).withTok true))
    simp [cleanBytes]

end Stores

/-! Each tile's part. -/

/-- What a tile's part changes, where the op's context exists: the bytes of DST on that tile, `len` of them. -/
def PartKeeps (k : OpCtx) (len : Nat) (tok : Bool) (f : Nat → State → TilePart) : Prop :=
  ∀ (t : Nat) (s u : State) (st : Status) (n : Nat), (s.ctx? k.h).isSome = true → f t s = some (u, st, n) → OpKeeps k len tok s u [t]

theorem FreeOnly.ctxSome {s v : State} {h : Nat} (f : FreeOnly s v) (hc : (s.ctx? h).isSome = true) : (v.ctx? h).isSome = true := by
  rw [f.ctx]; exact hc

section Parts

variable (k : OpCtx)

theorem elem2_keeps (f : W32 → W32 → W32) (bx bz : Bool) (hfmt : k.o.var / 8 ≤ 2) :
    PartKeeps k (outBytes (k.o.var / 8) k.o.arg1) false (elem2 f bx bz k) := by
  intro t s u st n hc h
  cases hx : tileVec s k bx k.o.src0 t k.o.arg1 with
  | none => simp [elem2, hx] at h
  | some x =>
    obtain ⟨fx, lx⟩ := tileVec_only hx
    cases hz : tileVec x.2 k bz k.o.src1 t k.o.arg1 with
    | none => simp [elem2, hx, hz] at h
    | some z =>
      obtain ⟨fz, lz⟩ := tileVec_only hz
      rw [elem2_reads f hx hz] at h
      exact vecOut_afterRead hfmt (fx.trans fz) (by simp [lx hc, lz (fx.ctxSome hc)]) h

theorem elemScale_keeps (bf : Bool) (hfmt : k.o.var / 8 ≤ 2) : PartKeeps k (outBytes (k.o.var / 8) k.o.arg1) false (elemScale bf k) := by
  intro t s u st n hc h
  cases hx : tileVec s k bf k.o.src0 t k.o.arg1 with
  | none => simp [elemScale, hx] at h
  | some x =>
    obtain ⟨fx, lx⟩ := tileVec_only hx
    cases hs : scaleValue x.2 k t with
    | none => simp [elemScale, hx, hs] at h
    | some c =>
      rw [elemScale_reads hx hs] at h
      exact vecOut_afterRead hfmt (fx.trans (scaleValue_only hs)) (by simp [lx hc]) h

theorem elemConvert_keeps (hfmt : k.o.var / 8 ≤ 2) : PartKeeps k (outBytes (k.o.var / 8) k.o.arg1) false (elemConvert k) := by
  intro t s u st n hc h
  by_cases h0 : k.o.var / 8 = 0
  · cases ha : operand s k k.o.src0 t 0 (2 * k.o.arg1) false with
    | none => simp [elemConvert, h0, ha] at h
    | some a =>
      rw [elemConvert_fromBf16 h0 ha] at h
      rw [h0]
      exact vecOut_afterRead (by decide) (locRead_only s k.h a _) (elemsBf_length (locRead_length a _ hc)) h
  · cases hx : tileF32 s k k.o.src0 t 0 k.o.arg1 with
    | none => simp [elemConvert, h0, hx] at h
    | some x =>
      obtain ⟨fx, lx⟩ := tileF32_only hx
      rw [elemConvert_fromF32 h0 hx] at h
      exact vecOut_afterRead hfmt fx (lx hc) h

theorem elemParts_keeps (hfmt : k.o.var / 8 ≤ 2) : PartKeeps k (outBytes (k.o.var / 8) k.o.arg1) false (elemParts k) := by
  intro t s u st n _ h
  cases hx : tileF32 s k k.o.src0 t 0 (k.o.arg2 * k.o.arg1) with
  | none => simp [elemParts, hx] at h
  | some x =>
    cases hs : scaleValue x.2 k t with
    | none => simp [elemParts, hx, hs] at h
    | some c =>
      rw [elemParts_reads hx hs] at h
      exact vecOut_afterRead hfmt ((tileF32_only hx).1.trans (scaleValue_only hs)) (by simp) h

theorem copyPart_keeps : PartKeeps k k.o.arg0 false (copyPart k) := by
  intro t s u st n hc h
  cases ha : operand s k k.o.src0 t 0 k.o.arg0 false with
  | none => simp [copyPart, ha] at h
  | some a =>
    rw [copyPart_reads ha] at h
    exact tileOut_afterRead (locRead_only s k.h a _) (locRead_length a _ hc) h

theorem gatherPart_keeps : PartKeeps k k.o.arg0 false (gatherPart k) := by
  intro t s u st n hc h
  by_cases hsrc : k.o.src1 = 0xFFFF
  · obtain ⟨c, hctx⟩ := Option.isSome_iff_exists.mp hc
    cases ha : operand s k k.o.src0 t (c.token * k.o.arg0) k.o.arg0 false with
    | none => simp [gatherPart, hsrc, hctx, ha] at h
    | some a =>
      rw [gatherPart_ofToken hsrc hctx ha] at h
      exact tileOut_afterRead (locRead_only s k.h a _) (locRead_length a _ hc) h
  · cases hb : operand s k k.o.src1 t 0 4 false with
    | none => simp [gatherPart, hsrc, hb] at h
    | some b =>
      have fb := locRead_only s k.h b 4
      cases hp : anyPsn (locRead s k.h b 4).1 with
      | true =>
        rw [gatherPart_poison hsrc hb hp] at h
        exact tileOut_afterRead fb (by simp) h
      | false =>
        cases ha : operand (locRead s k.h b 4).2 k k.o.src0 t (leNat (rawBytes (locRead s k.h b 4).1) * k.o.arg0) k.o.arg0 false with
        | none => simp [gatherPart, hsrc, hb, hp, ha] at h
        | some a =>
          rw [gatherPart_ofSrc1 hsrc hb hp ha] at h
          exact tileOut_afterRead (fb.trans (locRead_only _ k.h a _)) (locRead_length a _ (fb.ctxSome hc)) h

theorem routeTopK_gates_length (ls : List W32) (n : Nat) : (routeTopK ls n).2.length = min n ls.length := by
  simp [routeTopK, rankAll_length]

theorem routePart_keeps : PartKeeps k (alignUp (2 * k.o.arg0) 4 + 4 * min k.o.arg0 k.o.arg1) false (routePart k) := by
  intro t s u st n hc h
  cases hx : tileF32 s k k.o.src0 t 0 k.o.arg1 with
  | none => simp [routePart, hx] at h
  | some x =>
    obtain ⟨fx, lx⟩ := tileF32_only hx
    rw [routePart_reads hx] at h
    refine tileOut_afterRead fx ?_ h
    simp [routeTopK_gates_length, lx hc, List.length_flatMap, Nat.mul_comm]

theorem fullPart_keeps : PartKeeps k 4 true (fullPart k) := by
  intro t s u st n _ h
  cases hx : tileF32 s k k.o.src0 t 0 (bits k.o.arg4 19 0) with
  | none => simp [fullPart, hx] at h
  | some x =>
    rw [fullPart_reads hx] at h
    exact tokenOut_afterRead (tileF32_only hx).1 h

theorem localPart_keeps : PartKeeps k (8 * min k.o.arg0 (bits k.o.arg4 19 0)) false (localPart k) := by
  intro t s u st n hc h
  cases hx : tileF32 s k k.o.src0 t 0 (bits k.o.arg4 19 0) with
  | none => simp [localPart, hx] at h
  | some x =>
    obtain ⟨fx, lx⟩ := tileF32_only hx
    rw [localPart_reads hx] at h
    refine tileOut_afterRead fx ?_ h
    simp [topCands_length, logitCands, lx hc, List.length_flatMap, Nat.mul_comm]

theorem selectPart_keeps : PartKeeps k 4 true (selectPart k) := by
  intro t s u st n _ h
  cases ha : operand s k k.o.src0 t 0 (8 * bits k.o.arg4 19 0) false with
  | none => simp [selectPart, ha] at h
  | some a =>
    rw [selectPart_reads ha] at h
    exact tokenOut_afterRead (locRead_only s k.h a _) h

theorem normVec_length {ss eps : W32} {n m : Nat} {xs gs bs : List PElem} {layer : Bool} (hx : xs.length = m) (hg : gs.length = m)
    (hb : layer = true → bs.length = m) : (normVec ss n eps xs gs bs layer).length = m := by
  unfold normVec
  cases layer with
  | false => simp [hx, hg]
  | true => simp [hx, hg, hb rfl]

/-- The bias of a layer norm; an RMS norm has none. -/
def normBias (s : State) (k : OpCtx) (t : Nat) : Option (List PElem × State) :=
  if k.o.varBit 0 then tileF32 s k k.o.aux t 0 k.o.arg1 else some ([], s)

theorem normBias_only {s : State} {k : OpCtx} {t : Nat} {b : List PElem × State} (h : normBias s k t = some b) :
    FreeOnly s b.2 ∧ (k.o.varBit 0 = true → (s.ctx? k.h).isSome = true → b.1.length = k.o.arg1) := by
  unfold normBias at h
  cases hl : k.o.varBit 0 with
  | false =>
    simp only [hl, Bool.false_eq_true, if_false, Option.some.injEq] at h
    subst h
    exact ⟨FreeOnly.refl s, fun h => nomatch h⟩
  | true =>
    simp only [hl, if_true] at h
    exact ⟨(tileF32_only h).1, fun _ => (tileF32_only h).2⟩

/-- The elements of a norm on a tile, given x, g and the bias. -/
def normTile (k : OpCtx) (xs gs bs : List PElem) : List PElem :=
  let vals := xs.map (·.1)
  let cs := if k.o.varBit 0 then vals.map (fun v => fSub v (layerMean vals k.o.arg1)) else vals
  poisonAll (xs.any (·.2)) (normVec (laneSumsq cs) k.o.arg1 (BitVec.ofNat 32 k.o.arg0)
    (List.zipWith (fun c (x : PElem) => (c, x.2)) cs xs) gs bs (k.o.varBit 0))

theorem normTile_length {k : OpCtx} {xs gs bs : List PElem} {m : Nat} (hx : xs.length = m) (hg : gs.length = m)
    (hb : k.o.varBit 0 = true → bs.length = m) : (normTile k xs gs bs).length = m := by
  unfold normTile poisonAll
  rw [List.length_map]
  refine normVec_length ?_ hg hb
  split <;> simp [hx]

theorem normPart_tile {s v w : State} {k : OpCtx} {bf : Bool} {t : Nat} {a : Loc} {gs bs : List PElem}
    (ha : operand s k k.o.src0 t 0 (vecBytes bf k.o.arg1) false = some a)
    (hg : tileF32 (locRead s k.h a (vecBytes bf k.o.arg1)).2 k k.o.src1 t 0 k.o.arg1 = some (gs, v)) (hb : normBias v k t = some (bs, w)) :
    normPart false bf k t s =
      vecOut w k t (k.o.var / 4 % 4) (normTile k (vecElems bf (locRead s k.h a (vecBytes bf k.o.arg1)).1) gs bs) := by
  unfold normBias at hb
  unfold normPart normTile
  simp only [ha, hg, hb]
  cases k.o.varBit 0 <;> rfl

theorem normPart_keeps (bf : Bool) (hfmt : k.o.var / 4 % 4 ≤ 2) :
    PartKeeps k (outBytes (k.o.var / 4 % 4) k.o.arg1) false (normPart false bf k) := by
  intro t s u st n hc h
  cases ha : operand s k k.o.src0 t 0 (vecBytes bf k.o.arg1) false with
  | none => simp [normPart, ha] at h
  | some a =>
    have fa := locRead_only s k.h a (vecBytes bf k.o.arg1)
    cases hg : tileF32 (locRead s k.h a (vecBytes bf k.o.arg1)).2 k k.o.src1 t 0 k.o.arg1 with
    | none => simp [normPart, ha, hg] at h
    | some g =>
      obtain ⟨fg, lg⟩ := tileF32_only hg
      cases hb : normBias g.2 k t with
      | none =>
        unfold normBias at hb
        simp [normPart, ha, hg, hb] at h
      | some b =>
        obtain ⟨fb, lb⟩ := normBias_only hb
        have hv := (fa.trans fg).ctxSome hc
        rw [normPart_tile ha hg hb] at h
        exact vecOut_afterRead hfmt ((fa.trans fg).trans fb)
          (normTile_length (vecElems_length (locRead_length a _ hc)) (lg (fa.ctxSome hc)) (fun hl => lb hl hv)) h

end Parts

/-! The whole op. -/

/-- One tile's part joined to those of the tiles before it. -/
def tileStep (f : Nat → State → TilePart) (acc : TilePart) (t : Nat) : TilePart :=
  match acc with
  | none => none
  | some (s, st, n) => (match f t s with
    | none => none
    | some (s, st', n') => some (s, st.worse st', n + n'))

theorem onTiles_free {s : State} {k : OpCtx} (hbusy : tilesBusy s k = false) (f : Nat → State → TilePart) : onTiles k s f =
    match k.tiles.foldl (tileStep f) (some (s, Status.ok, 0)) with
    | none => .done s .protection 0
    | some (t, st, n) => .done t st n := if_neg (by simp [hbusy])

theorem tileStep_foldl_none (f : Nat → State → TilePart) (ts : List Nat) : ts.foldl (tileStep f) none = none := by
  induction ts with
  | nil => rfl
  | cons t ts ih => exact ih

/-- The tiles one after another change the bytes of DST on each of them. -/
theorem tileStep_foldl_keeps {k : OpCtx} {len : Nat} {tok : Bool} {f : Nat → State → TilePart} (hf : PartKeeps k len tok f) (ts : List Nat) :
    ∀ {s u : State} {st st' : Status} {n n' : Nat}, (s.ctx? k.h).isSome = true →
      ts.foldl (tileStep f) (some (s, st, n)) = some (u, st', n') → OpKeeps k len tok s u ts := by
  induction ts with
  | nil =>
    rintro s u st st' n n' _ h
    cases h
    exact OpKeeps.ofFree (FreeOnly.refl s)
  | cons t ts ih =>
    intro s u st st' n n' hc h
    rw [List.foldl_cons] at h
    cases hp : f t s with
    | none =>
      rw [show tileStep f (some (s, st, n)) t = none by simp only [tileStep, hp], tileStep_foldl_none] at h
      cases h
    | some p =>
      rw [show tileStep f (some (s, st, n)) t = some (p.1, st.worse p.2.1, n + p.2.2) by simp only [tileStep, hp]] at h
      have hhead := hf t s p.1 p.2.1 p.2.2 hc hp
      exact hhead.append (ih (hhead.ctxSome hc) h)

/-- An op on tiles that are free ends, having changed the bytes of DST on its tiles, or nothing where an operand is out of reach. -/
theorem onTiles_keeps {s : State} {k : OpCtx} {len : Nat} {tok : Bool} {f : Nat → State → TilePart} (hbusy : tilesBusy s k = false)
    (hc : (s.ctx? k.h).isSome = true) (hf : PartKeeps k len tok f) : ∃ u st n, onTiles k s f = .done u st n ∧ OpKeeps k len tok s u k.tiles := by
  rw [onTiles_free hbusy]
  cases h : k.tiles.foldl (tileStep f) (some (s, Status.ok, 0)) with
  | none =>
    refine ⟨s, .protection, 0, rfl, rfl, fun _ _ => rfl, fun c hc => ⟨c, hc, rfl, fun _ => rfl, fun _ _ => rfl⟩, fun _ _ => rfl, fun _ _ => rfl⟩
  | some p => exact ⟨p.1, p.2.1, p.2.2, rfl, tileStep_foldl_keeps hf k.tiles hc h⟩

theorem ctx_issued (s : State) (k : OpCtx) : ((issued s k).ctx? k.h).isSome = true := by
  rw [issued, ctx_setCtx_same]; rfl

theorem ctx_errsMet (k : OpCtx) (e : Errs) (s : State) (h : Nat) : (errsMet k e s).ctx? h = s.ctx? h := by
  unfold State.ctx?
  rw [errsMet_sch]

/-- An op that issues, on tiles that are free once it has met its storage errors, retires after the failure events of its T0 words. -/
theorem runOp_onTiles_keeps {s : State} {sel : Op → Bool} {k : OpCtx} {e : Errs} {len : Nat} {tok : Bool} {f : OpCtx → Nat → State → TilePart}
    (hon : s.pow.st = .on) (i : Issues s sel k) (hbusy : tilesBusy (errsMet k e (issued s k)) k = false) (hf : PartKeeps k len tok (f k)) :
    ∃ u st n, act s (runOp s k.h sel (withErrs e (fun k s => onTiles k s (f k)))) =
        .next (finish (retire (t0Fails e.t0 (issued s k) u) k.h k.idx st n)) ∧
      OpKeeps k len tok (errsMet k e (issued s k)) u k.tiles := by
  obtain ⟨u, st, n, hdone, hkeeps⟩ := onTiles_keeps hbusy (by rw [ctx_errsMet]; exact ctx_issued s k) hf
  exact ⟨u, st, n, issued_retires hon i (withErrs_done hdone), hkeeps⟩

/-- A NORM that is not on the banks is an op on tiles. -/
theorem runOp_norm {s : State} {k : OpCtx} (i : Issues s (fun o => o.opcode == 0x08) k) (hbank : k.o.varBit 1 = false) (bf : Bool) (e : Errs) :
    runOp s k.h (fun o => o.opcode == 0x08) (withErrs e (normOp bf)) =
      runOp s k.h (fun o => o.opcode == 0x08) (withErrs e (fun k s => onTiles k s (normPart false bf k))) := by
  have hbody : ∀ v, normOp bf k v = onTiles k v (normPart false bf k) := fun v => if_neg (by simp [hbank])
  rw [runOp_issue i, runOp_issue i]
  simp only [withErrs, hbody]

/-- Settles O56: each op's part changes the bytes of DST on its tile, and the op is its parts one after another. -/
theorem tileOpsStore : Obligations.TileOpsStore := by
  intro s k bx bz e hon v hbusy keeps fmt
  refine ⟨?add, ?mul, ?scale, ?silu, ?convert, ?parts, ?norm, ?copy, ?gather, ?route, ?full, ?pairs, ?select⟩
  case add => exact fun i hfmt => runOp_onTiles_keeps hon i hbusy (elem2_keeps k fAdd bx bz hfmt)
  case mul => exact fun i hfmt => runOp_onTiles_keeps hon i hbusy (elem2_keeps k fMul bx bz hfmt)
  case scale => exact fun i hfmt => runOp_onTiles_keeps hon i hbusy (elemScale_keeps k bx hfmt)
  case silu => exact fun i hfmt => runOp_onTiles_keeps hon i hbusy (elem2_keeps k siluGate bx bz hfmt)
  case convert => exact fun i hfmt => runOp_onTiles_keeps hon i hbusy (elemConvert_keeps k hfmt)
  case parts => exact fun i hfmt => runOp_onTiles_keeps hon i hbusy (elemParts_keeps k hfmt)
  case norm =>
    intro i hbank hfmt
    obtain ⟨u, st, n, hrun, hkeeps⟩ := runOp_onTiles_keeps hon i hbusy (normPart_keeps k bx hfmt)
    exact ⟨u, st, n, (congrArg (act s) (runOp_norm i hbank bx e)).trans hrun, hkeeps⟩
  case copy => exact fun i => runOp_onTiles_keeps hon i hbusy (copyPart_keeps k)
  case gather => exact fun i => runOp_onTiles_keeps hon i hbusy (gatherPart_keeps k)
  case route => exact fun i => runOp_onTiles_keeps hon i hbusy (routePart_keeps k)
  case full => exact fun i => runOp_onTiles_keeps hon i hbusy (fullPart_keeps k)
  case pairs => exact fun i => runOp_onTiles_keeps hon i hbusy (localPart_keeps k)
  case select => exact fun i => runOp_onTiles_keeps hon i hbusy (selectPart_keeps k)

end Sys2Proof.Machine

/-! PROOFS. Products, stream hints, verification, streams, expanders and tile self-checks (R51, R54, R69, R75 to R80, R187). -/

namespace Sys2Proof.Machine

open Sys2Proof

/-! The matrix-vector product. -/

/-- The streams of a product claimed, on tiles where it has none. -/
def claimAll (k : OpCtx) (ts : List (Nat × Nat × TensorDesc)) (s : State) : State :=
  ts.foldl (fun u p => claimStream u p.1 (opBuf k) k.c.fn k.h p.2.1 p.2.2 (some (k.h, k.idx))) s

/-- The streams of a product run to their end. -/
def runAll (k : OpCtx) (ts : List (Nat × Nat × TensorDesc)) (s : State) : State :=
  ts.foldl (fun u p => runStream p.1 (bufKey p.1 (opBuf k)) (2 * p.2.2.batts + 2) u) s

/-- A product, written, ends. -/
theorem mvFinish_ends (k : OpCtx) (ts : List (Nat × Nat × TensorDesc)) (s : State) : ∃ t st n, mvFinish k ts s = .done t st n := by
  unfold mvFinish
  split <;> exact ⟨_, _, _, rfl⟩

/-- A product on one tile retires with what that tile's part answers. -/
theorem mvFinish_single {k : OpCtx} {t a n : Nat} {d : TensorDesc} {s u : State} {st : Status} (h : mvPart k d t s = some (u, st, n)) :
    mvFinish k [(t, a, d)] s = .done (mvRelease k (Status.ok.worse st) u) (Status.ok.worse st) 0 := by
  simp only [mvFinish, List.foldl_cons, List.foldl_nil, h]

theorem mvPart_reads {k : OpCtx} {d : TensorDesc} {t : Nat} {s : State} {la lb : Loc} {x : StreamSt} (ho : mvOperands s k t d = some (la, lb))
    (hx : stream? s (bufKey t (opBuf k)) = some x) :
    let r := locRead s k.h la (k.o.arg0 * actRowBytes d)
    let ys := (chunk (actRowBytes d) r.1).map (mvRow d x (k.o.varBit 0))
    let q := locWrite r.2 k.h lb (ys.flatMap (fun y => (outVector (bit k.mvBf) y).1))
    mvPart k d t s = some (q.1, x.status.worse (psnStatus (q.2 || ys.any (fun y => y.any (·.2)))), 0) := by
  simp only [mvPart, ho, hx]

section Product

variable {s : State} {k : OpCtx} {ts : List (Nat × Nat × TensorDesc)} (hfree : tilesBusy s k = false)
include hfree

/-- On free tiles a product that is not stepwise ends. -/
theorem mvTileOp_ends : ∃ t st n, mvTileOp false k s = .done t st n := by
  unfold mvTileOp
  rw [if_neg (by simp [hfree])]
  split
  · exact ⟨_, _, _, rfl⟩
  · split
    · exact ⟨_, _, _, rfl⟩
    · exact mvFinish_ends _ _ _

theorem mvTileOp_invalid (stepwise : Bool) (hts : opTensors s k = none) :
    mvTileOp stepwise k s = .done (mvRelease k .invalid s) .invalid 0 := by
  simp only [mvTileOp, hfree, Bool.false_and, Bool.false_eq_true, if_false, hts]

variable (hown : ∀ p ∈ ts, ownsStream s k p.1 = false) (hts : opTensors s k = some ts)
  (hreach : ts.all (fun p => (mvOperands s k p.1 p.2.2).isSome) = true)
include hown hts hreach

/-- A product with valid tensors and operands in reach claims its streams first. -/
theorem mvTileOp_claims (stepwise : Bool) : mvTileOp stepwise k s =
    if stepwise then
      if ts.all (fun p => streamDone (claimAll k ts s) (bufKey p.1 (opBuf k))) then mvFinish k ts (claimAll k ts s) else .wait (claimAll k ts s)
    else mvFinish k ts (runAll k ts (claimAll k ts s)) := by
  have hclaim : ts.foldl (fun u p => if ownsStream s k p.1 then u else claimStream u p.1 (opBuf k) k.c.fn k.h p.2.1 p.2.2 (some (k.h, k.idx))) s =
      claimAll k ts s := List.foldl_ext _ _ _ (fun u p hp => if_neg (by simp [hown p hp]))
  simp only [mvTileOp, hfree, Bool.false_and, Bool.false_eq_true, if_false, hts, hreach, Bool.not_true, hclaim, runAll]

theorem mvTileOp_runs : mvTileOp false k s = mvFinish k ts (runAll k ts (claimAll k ts s)) := by
  rw [mvTileOp_claims hfree hown hts hreach false, if_neg Bool.false_ne_true]

/-- Stepwise, a product waits while a stream it has claimed is not decoded. -/
theorem mvTileOp_waits (hmore : ts.all (fun p => streamDone (claimAll k ts s) (bufKey p.1 (opBuf k))) = false) :
    mvTileOp true k s = .wait (claimAll k ts s) := by
  rw [mvTileOp_claims hfree hown hts hreach true, if_pos rfl, hmore, if_neg Bool.false_ne_true]

end Product

section MvErrs

variable {body : OpCtx → State → OpOut} {k : OpCtx} {s u : State}

/-- A product that waits for its streams leaves the storage errors to them. -/
theorem mvErrs_waits {e : Errs} (h : body k (errsMet k { e with t0 := [] } s) = .wait u) : mvErrs e body k s = body k s := by
  simp only [mvErrs, h]

theorem mvErrs_ends {e : Errs} {st : Status} {n : Nat} (h : body k (errsMet k { e with t0 := [] } s) = .done u st n) :
    mvErrs e body k s = withErrs e body k s := by
  simp only [mvErrs, h]

/-- With no storage error a product does what its body does. -/
theorem mvErrs_none : mvErrs noErrs body k s = body k s := by
  have hmet : errsMet k { noErrs with t0 := [] } s = s := errsMet_none k s
  cases h : body k s with
  | wait t => rw [mvErrs_waits (by rw [hmet]; exact h), h]
  | done t st n =>
    rw [mvErrs_ends (by rw [hmet]; exact h), withErrs_done (by rw [errsMet_none]; exact h)]
    rfl

end MvErrs

section MvTile

variable {s : State} {k : OpCtx} (hon : s.pow.st = .on) (i : Issues s (fun o => o.opcode == 0x01) k)
include hon i

/-- Whatever storage errors a product meets, on free tiles it retires, after the failure events of its T0 words. -/
theorem exec_mvTile_retires {errs : Errs} (hfill : tilesBusy (errsMet k { errs with t0 := [] } (issued s k)) k = false)
    (hall : tilesBusy (errsMet k errs (issued s k)) k = false) : ∃ t st n, mvTileOp false k (errsMet k errs (issued s k)) = .done t st n ∧
      exec (.mvTile k.h false errs) s = .next (finish (retire (t0Fails errs.t0 (issued s k) t) k.h k.idx st n)) := by
  obtain ⟨_, _, _, hfirst⟩ := mvTileOp_ends hfill
  obtain ⟨t, st, n, hdone⟩ := mvTileOp_ends hall
  exact ⟨t, st, n, hdone, issued_retires hon i ((mvErrs_ends hfirst).trans (withErrs_done hdone))⟩

theorem exec_mvTile_done {stepwise : Bool} {t : State} {st : Status} {n : Nat} (h : mvTileOp stepwise k (issued s k) = .done t st n) :
    exec (.mvTile k.h stepwise noErrs) s = .next (finish (retire t k.h k.idx st n)) :=
  issued_retires hon i (mvErrs_none.trans h)

theorem exec_mvTile_wait {stepwise : Bool} {t : State} (h : mvTileOp stepwise k (issued s k) = .wait t) :
    exec (.mvTile k.h stepwise noErrs) s = .next (finish (holdCtx t k.h)) :=
  issued_waits hon i (mvErrs_none.trans h)

end MvTile

/-! Stream hints. -/

section Hint

variable {s : State} {k : OpCtx} (hgo : setDrains s k = false)
include hgo

theorem streamHintOp_invalid (hts : opTensors s k = none) : streamHintOp k s = .done s .invalid 0 := by
  simp only [streamHintOp, hgo, Bool.false_eq_true, if_false, hts]

variable {t a : Nat} {d : TensorDesc} (hts : opTensors s k = some [(t, a, d)])
include hts

/-- A hint on a buffer with no stream counts and starts one. -/
theorem streamHintOp_starts (hx : stream? s (bufKey t (opBuf k)) = none) :
    streamHintOp k s = .done (claimStream (s.incFld R.TILE_STREAM_CNT.HINTS 1 t) t (opBuf k) k.c.fn k.h a d none) .ok 0 := by
  have hx' : stream? (s.incFld R.TILE_STREAM_CNT.HINTS 1 t) (bufKey t (opBuf k)) = none := hx
  simp only [streamHintOp, hgo, Bool.false_eq_true, if_false, hts, List.foldl_cons, List.foldl_nil, hx']

/-- A hint on a buffer whose stream an op consumes counts and is queued. -/
theorem streamHintOp_queues {x : StreamSt} (hx : stream? s (bufKey t (opBuf k)) = some x) (hclaim : x.claim.isSome = true) :
    streamHintOp k s = .done (let u := s.incFld R.TILE_STREAM_CNT.HINTS 1 t
      { u with tl := { u.tl with hints := Tab.ins (bufKey t (opBuf k)) (a, k.c.fn, k.h) u.tl.hints } }) .ok 0 := by
  have hx' : stream? (s.incFld R.TILE_STREAM_CNT.HINTS 1 t) (bufKey t (opBuf k)) = some x := hx
  simp only [streamHintOp, hgo, Bool.false_eq_true, if_false, hts, List.foldl_cons, List.foldl_nil, hx', hclaim, if_true]

end Hint

/-! Verification. -/

/-- A verification whose operands are readable and clean. -/
theorem verifyOp_agrees {k : OpCtx} {u s0 s1 s2 : State} {a0 a1 a2 d : Loc} {b0 b1 b2 : List PByte} {n : Nat}
    (ha0 : operand u k k.o.src1 k.anyTile 0 4 false = some a0) (hr0 : locRead u k.h a0 4 = (b0, s0)) (hp0 : anyPsn b0 = false)
    (hn : leNat (rawBytes b0) = n) (hlo : 1 ≤ n) (hhi : n ≤ 15) (ha1 : operand s0 k k.o.src1 k.anyTile 4 (4 * n) false = some a1)
    (ha2 : operand s0 k k.o.src0 k.anyTile 0 (8 * bits k.o.arg3 19 0 * (n + 1)) false = some a2)
    (hd : operand s0 k k.o.dst k.anyTile 0 8 true = some d) (hr1 : locRead s0 k.h a1 (4 * n) = (b1, s1))
    (hr2 : locRead s1 k.h a2 (8 * bits k.o.arg3 19 0 * (n + 1)) = (b2, s2)) (hp1 : anyPsn b1 = false)
    (hbad : ((chunk (8 * bits k.o.arg3 19 0) b2).map pairCands).any candsBad = false) :
    let toks := ((chunk (8 * bits k.o.arg3 19 0) b2).map pairCands).zipIdx.map (fun l => selectTok l.1 k.o.arg0 (k.o.var / 4)
      (BitVec.ofNat 32 k.o.arg1) (BitVec.ofNat 32 k.o.arg2) (draw k.c.seed k.c.stepCtr l.2))
    let acc := agreeing toks ((chunk 4 (rawBytes b1)).map leNat)
    let q := locWrite s2 k.h d (cleanBytes (leBytes 2 acc ++ leBytes 2 n ++ leBytes 4 (toks.getD acc 0)))
    verifyOp k u = .done (q.1.updCtx k.h (fun c => { c with accepted := acc, token := toks.getD acc 0 })) (psnStatus q.2) 0 := by
  have hcount : (n == 0 || decide (15 < n)) = false := by
    rw [Bool.or_eq_false_iff, beq_eq_false_iff_ne, decide_eq_false_iff_not]; omega
  simp only [verifyOp, ha0, hr0, hp0, hn, hcount, Bool.not_false, Bool.true_and, Bool.false_eq_true, if_false, ha1, ha2, hd, hr1, hr2, hp1, hbad,
    Bool.or_false]

/-! The streaming engine and the expanders. -/

/-- The next batt of a stream, where the buffer has room for the whole of it. -/
theorem fillNext_room {s : State} {t key : Nat} {y : StreamSt} {d : TensorDesc} (hy : stream? s key = some y) (hd : descAt s y.fn y.desc = some d)
    (hmore : y.next < d.batts)
    (hroom : y.scales.length + (y.held.map (fun b => b.2.length)).foldl (· + ·) 0 + (battSpan s d.battBase y.next).2 ≤ bufBytes s t) :
    let p := battSpan s d.battBase y.next
    fillNext s t key = setStream (streamTraffic s p.1 p.2) key { y with next := y.next + 1, held := y.held ++ [(y.next, tread s p.1 p.2)] } := by
  simp only [fillNext, hy, hd]
  rw [if_neg (by omega)]

theorem doStreamFill_some {s : State} {t b : Nat} {x : StreamSt} (hx : stream? s (bufKey t b) = some x) (e : Errs) :
    doStreamFill t b e s = fillNext (errsOf x.fn { e with t0 := [] } s) t (bufKey t b) := by
  simp only [doStreamFill, hx]

theorem doExpanderDecode_unclaimed {s : State} {t b : Nat} {x : StreamSt} (hx : stream? s (bufKey t b) = some x) (hc : x.claim = none) (e : Errs) :
    doExpanderDecode t b e s = s := by
  simp only [doExpanderDecode, hx, hc]

/-- The decode of a stream that an op consumes ends the op with the last batt of its tiles. -/
theorem doExpanderDecode_claimed {s : State} {t b h i : Nat} {x : StreamSt} {c : OpCtx} {ts : List (Nat × Nat × TensorDesc)} {e : Errs}
    (hx : stream? s (bufKey t b) = some x) (hc : x.claim = some (h, i)) (hop : opCtxOf (decodeNext (t0Words e.t0 s) t (bufKey t b)) h i = some c)
    (hts : opTensors (decodeNext (t0Words e.t0 s) t (bufKey t b)) c = some ts) :
    let u := decodeNext (t0Words e.t0 s) t (bufKey t b)
    doExpanderDecode t b e s =
      if ts.all (fun p => streamDone u (bufKey p.1 (opBuf c))) then
        t0Fails e.t0 s (settle h i (mvFinish c ts (errsMet c { e with t0 := [] } u)))
      else t0Fails e.t0 s u := by
  simp only [doExpanderDecode, hx, hc, hop, hts]

/-- A table that is in a slot comes to the most recent place. -/
theorem useTable_hit {s : State} {t f id g : Nat} {e : SlotEnt}
    (h : (slotsOf s t).find? (fun e => e.fn == f && e.id == id && e.gen == g) = some e) :
    useTable s t f id g = setSlots s t ((slotsOf s t).filter (fun x => x != e) ++ [e]) := by
  simp only [useTable, h]

/-- A table that can be found and has a free slot comes to it, and the miss counts. -/
theorem useTable_miss {s : State} {t f id g k : Nat} (h : (slotsOf s t).find? (fun e => e.fn == f && e.id == id && e.gen == g) = none)
    (htab : (tableOf s f id g).isSome = true) (hk : (List.range 16).find? (fun k => !(slotsOf s t).any (fun e => e.slot == k)) = some k) :
    useTable s t f id g = setSlots (s.incFld R.EXP_FAULT_CNT.MISSES 1 t) t (slotsOf s t ++ [⟨k, f, id, g⟩]) := by
  have hnone : (tableOf s f id g).isNone = false := by rw [← Option.not_isSome, htab]; rfl
  simp only [useTable, h, hnone, Bool.false_eq_true, if_false, hk]

section Commands

variable {s : State} (hon : s.pow.st = .on)
include hon

theorem exec_streamFill_on (t b : Nat) (e : Errs) : exec (.streamFill t b e) s = .next (finish (doStreamFill t b e s)) := act_on hon _

theorem exec_expanderDecode_on (t b : Nat) (e : Errs) : exec (.expanderDecode t b e) s = .next (finish (doExpanderDecode t b e s)) := act_on hon _

theorem exec_tableMiss_on {t : Nat} (ht : t < 256) (f id g : Nat) : exec (.tableMiss t f id g) s = .next (finish (useTable s t f id g)) := by
  refine (act_on hon _).trans ?_
  rw [if_neg (by omega)]

theorem exec_tileSelfCheck_pass (t time : Nat) : exec (.tileSelfCheck t true time) s = .next (finish (atTime s time)) := by
  refine (act_on hon _).trans ?_
  rw [if_pos (Or.inr rfl)]

theorem exec_tileSelfCheck_fail {t : Nat} (ht : t < 256) (time : Nat) :
    exec (.tileSelfCheck t false time) s = .next (finish (tileFailure (atTime s time) t 0x08)) := by
  refine (act_on hon _).trans ?_
  rw [if_neg (by simp; omega)]

end Commands

/-- Settles O15, a clause a command and case. -/
theorem streamsAndProducts : Obligations.StreamsAndProducts := by
  refine ⟨?retires, ?invalid, ?product, ?single, ?stepwise, ?hintInvalid, ?hint, ?verify, ?fill, ?unclaimed, ?claimed, ?hit, ?miss, ?pass, ?fail⟩
  case retires => exact fun s k errs hon i hfill hall => exec_mvTile_retires hon i hfill hall
  case invalid => exact fun s k hon i hfree hts => exec_mvTile_done hon i (mvTileOp_invalid hfree false hts)
  case product =>
    intro s k ts hon i hfree hown hts hreach claimed
    obtain ⟨t, st, n, hdone⟩ := mvFinish_ends k ts (runAll k ts claimed)
    exact ⟨t, st, n, hdone, exec_mvTile_done hon i ((mvTileOp_runs hfree hown hts hreach).trans hdone)⟩
  case single =>
    intro s k t a d la lb x hon i hfree hown hts hreach u ho hx r ys q st
    have hruns := mvTileOp_runs hfree (by simpa using hown) hts (by simpa using hreach)
    exact exec_mvTile_done hon i (hruns.trans (mvFinish_single (mvPart_reads ho hx)))
  case stepwise =>
    intro s k ts hon i hfree hown hts hreach claimed hmore
    exact exec_mvTile_wait hon i (mvTileOp_waits hfree hown hts hreach hmore)
  case hintInvalid => exact fun s k hon i hgo hts => issued_retires hon i (streamHintOp_invalid hgo hts)
  case hint =>
    intro s k t a d hon i hgo hts u
    exact ⟨fun hx => issued_retires hon i (streamHintOp_starts hgo hts hx),
      fun x hx hclaim => issued_retires hon i (streamHintOp_queues hgo hts hx hclaim)⟩
  case verify =>
    intro s k errs a0 a1 a2 d b0 b1 b2 s0 s1 s2 n hon i u ha0 hr0 hp0 hn hlo hhi ha1 ha2 hd hr1 hr2 hp1 hbad toks acc q v
    exact issued_retires hon i (withErrs_done (verifyOp_agrees ha0 hr0 hp0 hn hlo hhi ha1 ha2 hd hr1 hr2 hp1 hbad))
  case fill =>
    intro s t b errs x y d hon hx u hy hd hmore hroom p
    rw [exec_streamFill_on hon, doStreamFill_some hx, fillNext_room hy hd hmore hroom]
  case unclaimed =>
    intro s t b errs x hon hx hc
    rw [exec_expanderDecode_on hon, doExpanderDecode_unclaimed hx hc]
  case claimed =>
    intro s t b h i errs x c ts hon hx hc u hop hts
    rw [exec_expanderDecode_on hon, doExpanderDecode_claimed hx hc hop hts]
    exact ⟨fun hmore => by rw [if_neg (by rw [hmore]; exact Bool.false_ne_true)], fun hlast => by rw [if_pos hlast]⟩
  case hit =>
    intro s t f id g e hon ht h
    rw [exec_tableMiss_on hon ht, useTable_hit h]
  case miss =>
    intro s t f id g k hon ht h htab hk
    rw [exec_tableMiss_on hon ht, useTable_miss h htab hk]
  case pass => exact fun s t time hon => exec_tileSelfCheck_pass hon t time
  case fail => exact fun s t time hon ht => exec_tileSelfCheck_fail hon ht time

end Sys2Proof.Machine

/-! PROOFS. The header CRC (R44): the model's step on numbers is the shift register on 16 bits. -/

namespace Sys2Proof.Machine

open Sys2Proof

/-- One bit taken into the CRC's register: XORed into the top bit, which moves out and brings in the polynomial when it was 1 (R44). -/
def crcShift (r : BitVec 16) (x : Bool) : BitVec 16 := if r.getLsbD 15 ^^ x then (r <<< 1) ^^^ 0x1021#16 else r <<< 1

/-- Bits from the top of a 16-bit word down. -/
def topBits : List Bool → BitVec 16
  | [] => 0#16
  | x :: xs => (if x then 0x8000#16 else 0#16) ^^^ (topBits xs >>> 1)

/-- At most 15 bits from the top down leave bit 0 clear. -/
theorem topBits_low_clear {xs : List Bool} {k : Nat} (h : xs.length + k < 16) : (topBits xs).getLsbD k = false := by
  induction xs generalizing k with
  | nil => exact BitVec.getLsbD_zero
  | cons x xs ih =>
    have hlen : xs.length + (1 + k) < 16 := by simp at h; omega
    have hx : (if x then 0x8000#16 else 0#16).getLsbD k = false := by
      have hk : k < 15 := by simp at h; omega
      cases x
      · exact BitVec.getLsbD_zero
      · interval_cases k <;> rfl
    rw [topBits, BitVec.getLsbD_xor, BitVec.getLsbD_ushiftRight, ih hlen, hx, Bool.false_xor]

/-- A word whose bit 0 is clear may be shifted down and up again. -/
theorem ushiftRight_shiftLeft_one {m : BitVec 16} (h : m.getLsbD 0 = false) : (m >>> 1) <<< 1 = m := by
  refine BitVec.eq_of_getLsbD_eq fun i hi => ?_
  rw [BitVec.getLsbD_shiftLeft, BitVec.getLsbD_ushiftRight]
  cases i with
  | zero => simpa using h
  | succ n => simp [Nat.add_comm 1 n, hi]

/-- A bit may be XORed into the register's top ahead of the step, and bits below it that many places higher than after it. -/
theorem crcShift_xor (r m : BitVec 16) (x : Bool) (h : m.getLsbD 0 = false) :
    crcShift (r ^^^ ((if x then 0x8000#16 else 0#16) ^^^ (m >>> 1))) false = crcShift r x ^^^ m := by
  have htop : (r ^^^ ((if x then 0x8000#16 else 0#16) ^^^ (m >>> 1))).getLsbD 15 = (r.getLsbD 15 ^^ x) := by
    have hm : (m >>> 1).getLsbD 15 = false := by rw [BitVec.getLsbD_ushiftRight]; exact BitVec.getLsbD_of_ge m 16 (by decide)
    have hx : (if x then 0x8000#16 else 0#16).getLsbD 15 = x := by cases x <;> rfl
    rw [BitVec.getLsbD_xor, BitVec.getLsbD_xor, hm, hx, Bool.xor_false]
  have hshift : (r ^^^ ((if x then 0x8000#16 else 0#16) ^^^ (m >>> 1))) <<< 1 = (r <<< 1) ^^^ m := by
    have hx : (if x then 0x8000#16 else 0#16) <<< 1 = 0#16 := by cases x <;> rfl
    rw [BitVec.shiftLeft_xor_distrib, BitVec.shiftLeft_xor_distrib, hx, ushiftRight_shiftLeft_one h, BitVec.zero_xor]
  unfold crcShift
  rw [htop, hshift, Bool.xor_false]
  split
  · rw [BitVec.xor_assoc, BitVec.xor_comm m, ← BitVec.xor_assoc]
  · rfl

/-- Bits taken one by one are the bits XORed in first and as many plain steps after. -/
theorem foldl_crcShift (xs : List Bool) (r : BitVec 16) (h : xs.length ≤ 16) :
    xs.foldl crcShift r = (List.replicate xs.length false).foldl crcShift (r ^^^ topBits xs) := by
  induction xs generalizing r with
  | nil => rw [topBits, BitVec.xor_zero]; rfl
  | cons x xs ih =>
    have hlen : xs.length + 0 < 16 := by simpa using h
    rw [List.foldl_cons, ih _ (by omega), List.length_cons, List.replicate_succ, List.foldl_cons, topBits,
      crcShift_xor r _ x (topBits_low_clear hlen)]

/-- The model's step of one bit is the register's with a bit 0. -/
theorem crcBit_toNat (r : BitVec 16) : crcBit r.toNat = (crcShift r false).toNat := by
  have htop : r.getLsbD 15 = decide (2 ^ 15 ≤ r.toNat) := by
    rw [← BitVec.msb_eq_decide r, BitVec.msb_eq_getLsbD_last]
  have hlt : r.toNat < 2 ^ 16 := r.isLt
  have hshift : (r <<< 1).toNat = r.toNat * 2 % 2 ^ 16 := by rw [BitVec.toNat_shiftLeft, Nat.shiftLeft_eq, Nat.pow_one]
  unfold crcBit crcShift
  rw [htop, Bool.xor_false]
  by_cases hc : r.toNat < 2 ^ 15
  · rw [if_pos hc, if_neg (by simp; omega), hshift]
    exact (Nat.mod_eq_of_lt (by omega)).symm
  · rw [if_neg hc, if_pos (by simp; omega), BitVec.toNat_xor, hshift]
    rfl

/-- The bits of a byte from the top of a 16-bit word down. -/
theorem topBits_byte (b : Byte) : topBits ([7, 6, 5, 4, 3, 2, 1, 0].map (fun i => b.getLsbD i)) = BitVec.ofNat 16 (b.toNat * 256) := by
  revert b
  decide

/-- The model's step of one byte is eight steps of the register, most significant bit first. -/
theorem crcByte_toNat (r : BitVec 16) (b : Byte) :
    crcByte r.toNat b = (([7, 6, 5, 4, 3, 2, 1, 0].map (fun i => b.getLsbD i)).foldl crcShift r).toNat := by
  have hin : Nat.xor r.toNat (b.toNat * 256) = (r ^^^ BitVec.ofNat 16 (b.toNat * 256)).toNat := by
    have hb : b.toNat < 256 := b.isLt
    rw [BitVec.toNat_xor, BitVec.toNat_ofNat, Nat.mod_eq_of_lt (by omega)]
    rfl
  rw [foldl_crcShift _ _ (by simp), topBits_byte]
  unfold crcByte
  simp only [hin, crcBit_toNat]
  rfl

/-- A byte more is one step of the register on the CRC so far. -/
theorem crc16_snoc (bs : List Byte) (b : Byte) :
    crc16 (bs ++ [b]) = (([7, 6, 5, 4, 3, 2, 1, 0].map (fun i => b.getLsbD i)).foldl crcShift (BitVec.ofNat 16 (crc16 bs))).toNat := by
  rw [← crcByte_toNat, BitVec.toNat_ofNat, Nat.mod_eq_of_lt (crc16_lt bs)]
  exact List.foldl_concat crcByte 0xFFFF b bs

/-- Settles O49, from the step of the register; the check value is computed. -/
theorem headerCrc : Obligations.HeaderCrc := by
  unfold Obligations.HeaderCrc
  exact ⟨rfl, crc16_snoc, by simp [crc16, crcByte, crcBit]⟩

end Sys2Proof.Machine

/-! PROOFS. A raw batt is decoded to the symbols it was made from (R42, R43, R47, R53, R54). -/

namespace Sys2Proof.Machine

open Sys2Proof

/-! The header, field by field. -/

/-- Past the first field of a layout, the bytes that are to be zero. -/
theorem zeroAt_skip (m v o n : Nat) (r : List Byte) (h : m ≤ o) : zeroAt (leBytes m v ++ r) o n = zeroAt r (o - m) n := by
  unfold zeroAt
  rw [drop_skip m v o r h]

/-- The bytes that are to be zero begin after a list. -/
theorem zeroAt_append (a r : List Byte) (n : Nat) : zeroAt (a ++ r) a.length n = zeroAt r 0 n := by
  unfold zeroAt
  rw [List.drop_left, List.drop_zero]

/-- A run of zero bytes is a field of value zero. -/
theorem leBytes_zero (n : Nat) : leBytes n 0 = List.replicate n 0#8 := by
  induction n with
  | zero => rfl
  | succ n ih => rw [leBytes, Nat.zero_div, ih]; rfl

/-- The TYPE byte of a raw batt (Table 4-2). -/
def rawType (wide final : Bool) (content : Nat) : Nat := 1 + 2 * bit wide + 4 * bit final + 8 * content

/-- The fields of TYPE stand in their bits. -/
theorem rawType_bits {content : Nat} (wide final : Bool) (h : content < 3) :
    let ty := rawType wide final content
    ty < 256 ∧ bitAt ty 0 = true ∧ bitAt ty 1 = wide ∧ bitAt ty 2 = final ∧ bits ty 4 3 = content ∧ bits ty 7 5 = 0 := by
  cases wide <;> cases final <;> interval_cases content <;> decide

/-- Bytes 0 to 29 of a raw batt's header. -/
def rawHead (wide final : Bool) (content n u : Nat) : List Byte :=
  leBytes 1 (rawType wide final content) ++ leBytes 1 1 ++ leBytes 2 0 ++ leBytes 2 0 ++ leBytes 2 n ++ leBytes 2 u ++ List.replicate 20 0#8

theorem rawHead_length (wide final : Bool) (content n u : Nat) : (rawHead wide final content n u).length = 30 := by simp [rawHead]

theorem headerBytes_raw (wide final : Bool) (content n u : Nat) :
    headerBytes true wide final content 0 0 n u = rawHead wide final content n u ++ leBytes 2 (crc16 (rawHead wide final content n u)) := rfl

theorem headerBytes_length (raw wide final : Bool) (content tid tgen n u : Nat) : (headerBytes raw wide final content tid tgen n u).length = 32 := by
  simp [headerBytes]

/-- The header of a raw batt is read as it was written, whatever follows it. -/
theorem parseHeader_raw {content n u : Nat} (wide final : Bool) (rest : List Byte) (hc : content < 3) (hn : n ≤ 16384) (hu : u < 65536) :
    parseHeader (headerBytes true wide final content 0 0 n u ++ rest) =
      { raw := true, wide := wide, final := final, content := content, tableId := 0, tableGen := 0, count := n, units := u, good := true } := by
  obtain ⟨hty, hraw, hwide, hfinal, hcontent, hres⟩ := rawType_bits wide final hc
  have hcrc : crc16 (padTo 30 (headerBytes true wide final content 0 0 n u ++ rest)) = crc16 (rawHead wide final content n u) := by
    rw [headerBytes_raw, List.append_assoc, padTo_ge (by simp [rawHead_length]),
      List.take_append_of_le_length (rawHead_length wide final content n u).ge, List.take_of_length_le (rawHead_length wide final content n u).le]
  have hcount : bits n 14 0 = n := by unfold bits; omega
  have htop : bitAt n 15 = false := by unfold bitAt; simp; omega
  unfold parseHeader
  rw [hcrc]
  have hlt := crc16_lt (rawHead wide final content n u)
  have hbytes := headerBytes_raw wide final content n u
  generalize crc16 (rawHead wide final content n u) = crc at hbytes hlt
  rw [hbytes, rawHead, ← leBytes_zero]
  simp only [List.append_assoc, fieldAt_skip, fieldAt_head, zeroAt_skip, Nat.reduceLeDiff, Nat.reduceSub, Nat.le_refl, Nat.sub_self]
  have hzero : zeroAt (leBytes 20 0 ++ (leBytes 2 crc ++ rest)) 0 20 = true := by rw [leBytes_zero]; exact zeroAt_replicate 0 20 20 _ (by omega)
  rw [hzero, Nat.mod_eq_of_lt (show rawType wide final content < 256 ^ 1 from hty), Nat.mod_eq_of_lt (show n < 256 ^ 2 by omega),
    Nat.mod_eq_of_lt (show u < 256 ^ 2 from hu), Nat.mod_eq_of_lt (show crc < 256 ^ 2 from hlt), hraw, hwide, hfinal, hcontent, hres, hcount, htop]
  have h3 : (content != 3) = true := by simp; omega
  simp [h3]

/-! The payload (R47). -/

/-- The bits of a symbol of a width. -/
def symWidth (wide : Bool) : Nat := if wide then 8 else 4

/-- The bytes that n symbols of a width fill. -/
def packLen (wide : Bool) (n : Nat) : Nat := ceilDiv (n * symWidth wide) 8

theorem packLen_wide (n : Nat) : packLen true n = n := by simp [packLen, symWidth, ceilDiv]; omega

theorem packLen_narrow (n : Nat) : packLen false n = (n + 1) / 2 := by simp [packLen, symWidth, ceilDiv]; omega

/-- The payload's units hold the packed symbols (R47). -/
theorem packLen_le_units (wide : Bool) (n : Nat) : packLen wide n ≤ 16 * rawUnits wide n := by
  cases wide
  · rw [packLen_narrow]; simp [rawUnits, ceilDiv]; omega
  · rw [packLen_wide]; simp [rawUnits, ceilDiv]; omega

theorem rawUnits_lt {n : Nat} (wide : Bool) (h : n ≤ 16384) : rawUnits wide n < 65536 := by
  cases wide <;> simp [rawUnits, ceilDiv] <;> omega

/-- 8-bit symbols are packed one to a byte. -/
theorem packSyms_wide (syms : List Nat) : packSyms true syms = syms.map (BitVec.ofNat 8) := by
  induction syms with
  | nil => rfl
  | cons a r ih =>
    cases r with
    | nil => rfl
    | cons b r => rw [packSyms, if_pos rfl, ih]; rfl

theorem packSyms_narrow_cons_cons (a b : Nat) (r : List Nat) :
    packSyms false (a :: b :: r) = BitVec.ofNat 8 (a % 16 + 16 * b) :: packSyms false r := by
  rw [packSyms, if_neg Bool.false_ne_true]

theorem packSyms_length (wide : Bool) (syms : List Nat) : (packSyms wide syms).length = packLen wide syms.length := by
  cases wide with
  | true => rw [packSyms_wide, packLen_wide, List.length_map]
  | false =>
    induction syms using List.twoStepInduction with
    | nil => rfl
    | singleton a => exact (packLen_narrow 1).symm
    | cons_cons a b r ih _ =>
      rw [packLen_narrow] at ih ⊢
      simp only [packSyms_narrow_cons_cons, List.length_cons, ih]
      omega

/-- The two 4-bit symbols of a byte, the low one first (R23). -/
def nibbles (b : Byte) : List Nat := [b.toNat % 16, b.toNat / 16]

theorem nibbles_pair {a b : Nat} (ha : a < 16) (hb : b < 16) : nibbles (BitVec.ofNat 8 (a % 16 + 16 * b)) = [a, b] := by
  have hlt : a % 16 + 16 * b < 2 ^ 8 := by omega
  simp only [nibbles, BitVec.toNat_ofNat, Nat.mod_eq_of_lt hlt]
  congr 1
  · omega
  · congr 1
    omega

/-- The nibbles of packed 4-bit symbols begin with the symbols. -/
theorem nibbles_packSyms {syms : List Nat} (h : ∀ x ∈ syms, x < 16) : ∃ t, syms ++ t = (packSyms false syms).flatMap nibbles := by
  induction syms using List.twoStepInduction with
  | nil => exact ⟨[], rfl⟩
  | singleton a =>
    have ha : a < 16 := h a (by simp)
    have hnib : nibbles (BitVec.ofNat 8 a) = [a, 0] := by simpa [Nat.mod_eq_of_lt ha] using nibbles_pair ha (show 0 < 16 by decide)
    exact ⟨[0], by simp [packSyms, hnib]⟩
  | cons_cons a b r ih _ =>
    have hpair := nibbles_pair (h a (by simp)) (h b (by simp))
    obtain ⟨t, ht⟩ := ih fun x hx => h x (by simp [hx])
    refine ⟨t, ?_⟩
    rw [packSyms_narrow_cons_cons, List.flatMap_cons, hpair, ← ht]
    rfl

/-- Symbols packed and followed by any bytes are read back (R47). -/
theorem rawSyms_packSyms {wide : Bool} {syms : List Nat} (rest : List Byte) (h : ∀ x ∈ syms, x < if wide then 256 else 16) :
    rawSyms wide syms.length (packSyms wide syms ++ rest) = syms := by
  cases wide with
  | true =>
    have hread : (syms.map (BitVec.ofNat 8)).map (·.toNat) = syms := by
      rw [List.map_map]
      exact (List.map_congr_left fun x hx => Nat.mod_eq_of_lt (h x hx)).trans (List.map_id syms)
    rw [rawSyms, if_pos rfl, packSyms_wide, List.take_append_of_le_length (by simp), List.take_of_length_le (by simp), hread]
  | false =>
    obtain ⟨t, ht⟩ := nibbles_packSyms h
    have hbytes : (packSyms false syms ++ rest).flatMap nibbles = syms ++ (t ++ rest.flatMap nibbles) := by
      rw [List.flatMap_append, ← ht, List.append_assoc]
    rw [rawSyms, if_neg Bool.false_ne_true]
    exact (congrArg (List.take syms.length) hbytes).trans List.take_left

/-- When N is odd, bits [7:4] of the last byte are zero (R47). -/
theorem packSyms_odd_last {syms : List Nat} (h : ∀ x ∈ syms, x < 16) (hodd : syms.length % 2 = 1) :
    ((packSyms false syms).getD (packLen false syms.length - 1) 0#8).toNat ≤ 15 := by
  rw [packLen_narrow]
  induction syms using List.twoStepInduction with
  | nil => simp at hodd
  | singleton a =>
    have ha : a < 16 := h a (by simp)
    simp [packSyms]
    omega
  | cons_cons a b r ih _ =>
    have hr : r.length % 2 = 1 := by simp at hodd; omega
    have hidx : ((a :: b :: r).length + 1) / 2 - 1 = (r.length + 1) / 2 - 1 + 1 := by simp; omega
    rw [packSyms_narrow_cons_cons, hidx, List.getD_cons_succ]
    exact ih (fun x hx => h x (by simp [hx])) hr

/-- The padding of a raw payload is zero. -/
theorem zeroAt_pad (a : List Byte) (n : Nat) : zeroAt (a ++ List.replicate n 0#8) a.length n = true := by
  rw [zeroAt_append]
  simpa using zeroAt_replicate 0 n n [] (by omega)

/-! The batt. -/

/-- A raw batt is its header and its payload, padded to whole units. -/
theorem encodeRaw_eq (wide final : Bool) (content : Nat) (syms : List Nat) :
    encodeRaw wide final content syms = headerBytes true wide final content 0 0 syms.length (rawUnits wide syms.length) ++
      (packSyms wide syms ++ List.replicate (16 * rawUnits wide syms.length - packLen wide syms.length) 0#8) := by
  have hle : (packSyms wide syms).length ≤ 16 * rawUnits wide syms.length := (packSyms_length wide syms).le.trans (packLen_le_units wide _)
  rw [← packSyms_length, ← padTo_le hle]
  rfl

theorem encodeRaw_length (wide final : Bool) (content : Nat) (syms : List Nat) :
    (encodeRaw wide final content syms).length = 32 + 16 * rawUnits wide syms.length := by
  simp [encodeRaw, headerBytes_length]

/-- A raw batt's header is read as it was written (R43, R53). -/
theorem parseHeader_encodeRaw {content : Nat} {syms : List Nat} (wide final : Bool) (rest : List Byte) (hc : content < 3)
    (hmax : syms.length ≤ 16384) :
    parseHeader (encodeRaw wide final content syms ++ rest) =
      { raw := true, wide := wide, final := final, content := content, tableId := 0, tableGen := 0, count := syms.length,
        units := rawUnits wide syms.length, good := true } := by
  rw [encodeRaw, List.append_assoc]
  exact parseHeader_raw wide final _ hc hmax (rawUnits_lt wide hmax)

/-- The payload that the decoder cuts out of a raw batt. -/
theorem padTo_drop_encodeRaw (wide final : Bool) (content : Nat) (syms : List Nat) (rest : List Byte) :
    padTo (16 * rawUnits wide syms.length) ((encodeRaw wide final content syms ++ rest).drop 32) =
      packSyms wide syms ++ List.replicate (16 * rawUnits wide syms.length - packLen wide syms.length) 0#8 := by
  have hle := packLen_le_units wide syms.length
  have hhead := headerBytes_length true wide final content 0 0 syms.length (rawUnits wide syms.length)
  rw [encodeRaw_eq, List.append_assoc, List.drop_left' hhead, padTo_ge (by simp [packSyms_length]; omega)]
  exact List.take_left' (by simp [packSyms_length]; omega)

/-- A header that says raw, fits what is wanted and has its units decodes to its symbols, with a fault of padding only (R54 to R57). -/
theorem decodeBatt_raw {want : BattWant} {look : Nat → Nat → Option CodeTable} {bs : List Byte} {u : Nat}
    (hh : parseHeader bs = ⟨true, want.wide, want.last, want.content, 0, 0, want.count, u, true⟩)
    (hn : want.count ≠ 0) (hmax : want.count ≤ 16384) (hu : u = rawUnits want.wide want.count) :
    decodeBatt want look bs =
      (rawSyms want.wide want.count (padTo (16 * u) (bs.drop 32)),
        if (!zeroAt (padTo (16 * u) (bs.drop 32)) (packLen want.wide want.count) (16 * u - packLen want.wide want.count) ||
          (!want.wide && want.count % 2 == 1 &&
            15 < ((padTo (16 * u) (bs.drop 32)).getD (packLen want.wide want.count - 1) 0#8).toNat))
        then some ⟨8, 0, 16384⟩ else none) := by
  unfold decodeBatt
  rw [hh]
  simp [hn, hmax, hu, packLen, symWidth]

/-- A raw batt decodes to its symbols without a fault, whatever bytes follow (R47, R54). -/
theorem decodeBatt_encodeRaw {wide : Bool} {content : Nat} {syms : List Nat} (final : Bool) (rest : List Byte)
    (look : Nat → Nat → Option CodeTable) (hc : content < 3) (hpos : 1 ≤ syms.length) (hmax : syms.length ≤ 16384)
    (hsym : ∀ x ∈ syms, x < if wide then 256 else 16) :
    decodeBatt ⟨wide, content, final, syms.length⟩ look (encodeRaw wide final content syms ++ rest) = (syms, none) := by
  have hlen := packSyms_length wide syms
  have hpad := zeroAt_pad (packSyms wide syms) (16 * rawUnits wide syms.length - packLen wide syms.length)
  have hodd : (!wide && syms.length % 2 == 1 && decide (15 < ((packSyms wide syms ++
      List.replicate (16 * rawUnits wide syms.length - packLen wide syms.length) 0#8).getD (packLen wide syms.length - 1) 0#8).toNat)) = false := by
    cases wide with
    | true => rfl
    | false =>
      by_cases hn : syms.length % 2 = 1
      · have hlast := packSyms_odd_last hsym hn
        rw [List.getD_append _ _ _ _ (by rw [hlen, packLen_narrow]; omega)]
        simpa [hn] using hlast
      · simp [hn]
  rw [hlen] at hpad
  refine (decodeBatt_raw (parseHeader_encodeRaw wide final rest hc hmax) (Nat.one_le_iff_ne_zero.mp hpos) hmax rfl).trans ?_
  rw [padTo_drop_encodeRaw, rawSyms_packSyms _ hsym, hpad, hodd]
  rfl

/-- Settles O48, from the header's fields and the packing of the payload. -/
theorem rawBattRoundTrip : Obligations.RawBattRoundTrip := by
  unfold Obligations.RawBattRoundTrip
  intro wide final content syms rest look hc hpos hmax hsym
  exact ⟨decodeBatt_encodeRaw final rest look hc hpos hmax hsym, parseHeader_encodeRaw wide final rest hc hmax,
    encodeRaw_length wide final content syms⟩

end Sys2Proof.Machine

/-! PROOFS. The records of the system area and who may read them (R44, R84, R94, R95, R173). -/

namespace Sys2Proof.Machine

open Sys2Proof

/-! Fields one after another, each with its width and its value. -/

/-- The bytes of fields laid out one after another. -/
def layout (fs : List (Nat × Nat)) : List Byte := fs.flatMap (fun f => leBytes f.1 f.2)

theorem layout_cons (n v : Nat) (fs : List (Nat × Nat)) : layout ((n, v) :: fs) = leBytes n v ++ layout fs := rfl

theorem layout_length (fs : List (Nat × Nat)) : (layout fs).length = (fs.map Prod.fst).sum := by
  induction fs with
  | nil => rfl
  | cons f fs ih => rw [layout_cons, List.length_append, leBytes_length, ih, List.map_cons, List.sum_cons]

/-- The fields with the bytes at which they stand, from byte `o` on. -/
def placed (o : Nat) : List (Nat × Nat) → List (Nat × Nat × Nat)
  | [] => []
  | f :: fs => (o, f.1, f.2) :: placed (o + f.1) fs

/-- A field placed reads as its value where that fits, wherever the layout begins. -/
theorem fieldAt_placed {fs : List (Nat × Nat)} {i o o' n v : Nat} (r : List Byte) (hf : (placed o fs)[i]? = some (o', n, v)) (hv : v < 256 ^ n) :
    o ≤ o' ∧ fieldAt (layout fs ++ r) (o' - o) n = v := by
  induction fs generalizing i o with
  | nil => simp [placed] at hf
  | cons f fs ih =>
    rw [layout_cons, List.append_assoc]
    cases i with
    | zero =>
      simp only [placed, List.getElem?_cons_zero, Option.some.injEq, Prod.mk.injEq] at hf
      obtain ⟨rfl, rfl, rfl⟩ := hf
      rw [Nat.sub_self, fieldAt_head, Nat.mod_eq_of_lt hv]
      exact ⟨le_rfl, rfl⟩
    | succ i =>
      obtain ⟨hle, hread⟩ := ih (by simpa [placed] using hf)
      rw [fieldAt_skip _ _ _ _ _ (by omega), Nat.sub_sub]
      exact ⟨by omega, hread⟩

/-- Field i of a layout reads as its value where that fits. -/
theorem fieldAt_layout {fs : List (Nat × Nat)} {o n v : Nat} {r : List Byte} (i : Nat) (hf : (placed 0 fs)[i]? = some (o, n, v))
    (hv : v < 256 ^ n) : fieldAt (layout fs ++ r) o n = v := (fieldAt_placed r hf hv).2

/-! A sealed record: its bytes and their CRC. -/

theorem sealed_length (b : List Byte) : (sealed b).length = b.length + 2 := by simp [sealed]

theorem sealed_crc {b : List Byte} {n : Nat} (h : b.length = n) : leBytes 2 (crc16 ((sealed b).take n)) = (sealed b).drop n := by
  rw [sealed, List.take_left' h, List.drop_left' h]

/-- A record begins with what was sealed. -/
theorem sealed_eq_append (b : List Byte) : ∃ crc, sealed b = b ++ crc := ⟨_, rfl⟩

/-! Span descriptors (Table 6-4). -/

/-- The fields of a span's descriptor ahead of the CRC. -/
def spanFields (n : Nat) (x : Span) : List (Nat × Nat) :=
  [(4, n + x.fn * 2 ^ 18 + x.st.code * 2 ^ 24), (4, x.maxTokens), (2, x.layerSlots), (1, x.kvHeads), (1, x.shape), (1, x.policy),
    (1, x.prot.code), (2, x.rowBytes % 65536), (8, x.base), (4, x.fixedPk), (4, x.fixedPv), (4, x.horizon), (4, x.gen), (4, x.appended),
    (2, x.tableGen), (2, x.start), (8, x.ptBase), (2, x.handoff), (4, 0)]

theorem spanRecord_eq (n : Nat) (x : Span) : spanRecord n x = sealed (layout (spanFields n x)) := by
  unfold spanRecord spanFields layout
  simp only [List.flatMap_cons, List.flatMap_nil, List.append_nil, List.append_assoc]

theorem spanFields_length (n : Nat) (x : Span) : (layout (spanFields n x)).length = 62 := by
  simp [layout_length, spanFields]

theorem spanRecord_length (n : Nat) (x : Span) : (spanRecord n x).length = 64 := by
  rw [spanRecord_eq, sealed_length, spanFields_length]

theorem bit_le_one (b : Bool) : bit b ≤ 1 := by cases b <;> decide

theorem SpanSt.code_lt (st : SpanSt) : st.code < 4 := by cases st <;> decide

theorem Prot.code_lt (p : Prot) : p.code < 3 := by cases p <;> decide

theorem Span.shape_lt (x : Span) : x.shape < 256 := by
  unfold Span.shape
  split_ifs <;> cases x.fmt <;> decide

theorem Span.policy_lt {x : Span} (h : x.ilog < 16) : x.policy < 256 := by
  have h1 := bit_le_one x.fixedScale
  have h2 := bit_le_one x.pin
  have h3 := bit_le_one x.t2Attn
  have h4 := bit_le_one x.holed
  unfold Span.policy
  omega

/-- The fields of a span's first word: number, function and STATE. -/
theorem spanWord_bits {n fn c : Nat} (hn : n < 2 ^ 18) (hfn : fn < 64) (hc : c < 4) :
    let w := n + fn * 2 ^ 18 + c * 2 ^ 24
    w < 2 ^ 32 ∧ bits w 17 0 = n ∧ bits w 23 18 = fn ∧ bits w 25 24 = c ∧ bits w 31 26 = 0 := by
  unfold bits
  refine ⟨?_, ?_, ?_, ?_, ?_⟩ <;> omega

/-! Page table entries (Table 6-5). -/

/-- The fields of a page table entry ahead of the CRC. -/
def pteFields (e : Pte) : List (Nat × Nat) :=
  [(4, e.pk), (4, e.pv), (1, e.st.code + 8 * bit e.mig + 16 * bit e.tent + 32 * bit e.psn + 64 * bit e.recalling), (1, e.age),
    (2, e.battGen), (4, if e.st = .t1 then e.frame else 0), (8, e.lower), (2, e.written.length), (4, 0)]

theorem pteRecord_eq (e : Pte) : pteRecord e = sealed (layout (pteFields e)) := by
  unfold pteRecord pteFields layout
  simp only [List.flatMap_cons, List.flatMap_nil, List.append_nil, List.append_assoc]

theorem pteFields_length (e : Pte) : (layout (pteFields e)).length = 30 := by
  simp [layout_length, pteFields]

theorem pteRecord_length (e : Pte) : (pteRecord e).length = 32 := by
  rw [pteRecord_eq, sealed_length, pteFields_length]

theorem PgSt.code_lt (st : PgSt) : st.code < 8 := by cases st <;> decide

/-- The fields of an entry's state byte: STATE and its five flags. -/
theorem pteByte_bits : ∀ (mig tent psn recalling : Bool), ∀ c < 8,
    let w := c + 8 * bit mig + 16 * bit tent + 32 * bit psn + 64 * bit recalling
    w < 256 ∧ bits w 2 0 = c ∧ bitAt w 3 = mig ∧ bitAt w 4 = tent ∧ bitAt w 5 = psn ∧ bitAt w 6 = recalling ∧ bitAt w 7 = false := by
  decide

/-! Parked contexts (Table 10-1). -/

/-- The fields of the first 64 bytes of a parked context's record. -/
def ctxFields (h prog : Nat) (c : Ctx) : List (Nat × Nat) :=
  [(4, h + c.fn * 2 ^ 19 + 5 * 2 ^ 25), (2, 0), (2, prog), (2, c.phase), (2, c.op), (2, c.iter), (1, c.home), (1, c.retries), (8, c.seed),
    (8, c.stepCtr), (4, c.position), (4, c.token), (4, c.sat), (2, c.accepted), (1, c.lastStatus.val), (1, 0), (2, c.faultPhase),
    (2, c.faultOp), (4, c.workKib), (8, c.t1Base)]

theorem ctxFields_length (h prog : Nat) (c : Ctx) : (layout (ctxFields h prog c)).length = 64 := by
  simp [layout_length, ctxFields]

/-- The bindings and the program area of a parked context's record, and the free bytes after them. -/
def ctxAreas (free : Nat) (c : Ctx) : List Byte :=
  padTo 128 (c.binds.flatMap bindRecord) ++ (padTo 1536 c.area ++ (rangeFrom free 318).map Config.freeByte)

theorem ctxAreas_length (free : Nat) (c : Ctx) : (ctxAreas free c).length = 1982 := by
  simp only [ctxAreas, rangeFrom, List.length_append, padTo_length, List.length_map, List.length_range]

theorem ctxRecord_good {c : Ctx} (free h prog : Nat) (hb : c.badRecord = false) (hf : c.failed = false) :
    ctxRecord free h prog c = sealed (layout (ctxFields h prog c) ++ ctxAreas free c) := by
  have hgood : ¬(c.badRecord = true ∨ c.failed = true) := by simp [hb, hf]
  unfold ctxRecord ctxFields ctxAreas layout
  rw [if_neg hgood]
  simp only [List.flatMap_cons, List.flatMap_nil, List.append_nil, List.append_assoc]

theorem ctxRecord_length (free h prog : Nat) (c : Ctx) : (ctxRecord free h prog c).length = 2048 := by
  by_cases hbad : c.badRecord = true ∨ c.failed = true
  · unfold ctxRecord
    rw [if_pos hbad, List.length_map, rangeFrom, List.length_map, List.length_range]
  · rw [ctxRecord_good free h prog (by simp_all) (by simp_all), sealed_length, List.length_append, ctxFields_length, ctxAreas_length]

/-- The fields of a context's first word: handle, function and STATE (parked). -/
theorem ctxWord_bits {h fn : Nat} (hh : h < 2 ^ 19) (hfn : fn < 64) :
    let w := h + fn * 2 ^ 19 + 5 * 2 ^ 25
    w < 2 ^ 32 ∧ bits w 18 0 = h ∧ bits w 24 19 = fn ∧ bits w 27 25 = 5 := by
  unfold bits
  refine ⟨?_, ?_, ?_, ?_⟩ <;> omega

/-! The tables of the area. -/

/-- One whole entry of a table is the entry. -/
theorem tableBytes_entry {z n : Nat} {entry : Nat → List Byte} (hz : 0 < z) (h : (entry n).length = z) : tableBytes z entry (z * n) z = entry n := by
  have hfirst : z * n / z = n := Nat.mul_div_cancel_left n hz
  have hlast : (z * n + z - 1) / z = n := by
    rw [Nat.add_sub_assoc hz, Nat.mul_add_div hz, Nat.div_eq_of_lt (by omega), Nat.add_zero]
  rw [tableBytes, hfirst, hlast, Nat.mul_mod_right, List.drop_zero, Nat.add_sub_cancel_left]
  simp [rangeFrom, ← h]

/-- A descriptor's bytes of the area are those of the descriptor table (its first 16 MiB). -/
theorem systemBytes_span {s : State} {n : Nat} (hn : n < 2 ^ 18) (hr : regionAt s (sysRegion.base + 64 * n) 64 = some sysRegion) :
    systemBytes s (sysRegion.base + 64 * n) 64 = spanEntry s n := by
  have hlen : (spanEntry s n).length = 64 := by
    unfold spanEntry
    split
    · exact spanRecord_length n _
    · exact List.length_replicate
  have ht : min 64 (0x1000000 - 64 * n) = 64 := by omega
  rw [systemBytes, hr]
  simp only [Nat.add_sub_cancel_left, areaBytes, ht]
  simp [rangeFrom, tableBytes_entry (by decide) hlen]

/-- A slot's bytes of the area are those of the save area (the 512 MiB after the descriptor table). -/
theorem systemBytes_slot {s : State} {n : Nat} (hn : n < 2 ^ 18) (hr : regionAt s (sysRegion.base + 2 ^ 24 + 2048 * n) 2048 = some sysRegion) :
    systemBytes s (sysRegion.base + 2 ^ 24 + 2048 * n) 2048 = slotEntry s n := by
  have hlen : (slotEntry s n).length = 2048 := by
    unfold slotEntry
    split
    · exact ctxRecord_length _ _ _ _
    · exact List.length_replicate
  have ho : sysRegion.base + 2 ^ 24 + 2048 * n - sysRegion.base = 0x1000000 + 2048 * n := by omega
  have ht : min 2048 (0x1000000 - (0x1000000 + 2048 * n)) = 0 := by omega
  have hv : min (2048 - 0) (0x21000000 - (0x1000000 + 2048 * n + 0)) = 2048 := by omega
  rw [systemBytes, hr]
  simp only [ho, areaBytes, ht, hv]
  simp [rangeFrom, tableBytes_entry (by decide) hlen]

/-! Accesses to the area. -/

section Access

variable {s : State} {a n : Nat} (hr : regionAt s a n = some sysRegion) (hcl : addrClass a = .t1)

include hr

/-- Bytes within the system region lie in the area. -/
theorem inSystem_of_regionAt : inSystem s a n = true := by
  have hkind : (sysRegion.kind == RegionKind.system) = true := rfl
  rw [inSystem, hr]
  simp [hkind]

/-- Bytes within the system region touch it. -/
theorem touchesSystem_of_regionAt (hn : 0 < n) : touchesSystem s a n = true := by
  have hin := List.find?_some hr
  simp only [Bool.and_eq_true, decide_eq_true_eq] at hin
  obtain ⟨hlo, hhi⟩ := hin
  have hany : s.mm.regions.any (fun r => r.kind == .system && decide (r.base < a + n) && decide (a < r.base + r.size)) = true := by
    refine List.any_eq_true.mpr ⟨sysRegion, List.mem_of_find?_eq_some hr, ?_⟩
    have hkind : (sysRegion.kind == RegionKind.system) = true := rfl
    rw [hkind, decide_eq_true (show sysRegion.base < a + n by omega), decide_eq_true (show a < sysRegion.base + sysRegion.size by omega)]
    rfl
  rw [touchesSystem, hany, Bool.true_or]

include hcl

/-- No function may use the area as bytes of its own (R84). -/
theorem localCheck_system (habs : absentIn s a n = false) (f : Nat) (w : Bool) : localCheck s f a n w = .protection := by
  rw [localCheck, habs, if_neg Bool.false_ne_true, hcl]
  simp only [hr]
  exact if_neg fun h => h.2.2.2.1 rfl

/-- No request reaches the area at its target (R84). -/
theorem targetBar_system (habs : absentIn s a n = false) (hn : 0 < n) (w : Bool) : targetBar s a n w = some .protection := by
  rw [targetBar, habs, if_neg Bool.false_ne_true, hcl]
  exact if_pos (touchesSystem_of_regionAt hr hn)

/-- A COPY side in the area is allowed to PF0 that reads, and to nobody else. -/
theorem sideCheck_system (habs : absentIn s a n = false) (f : Nat) (w : Bool) :
    sideCheck s f (.local_ a) n w = if f = 0 ∧ w = false then .ok else .protection := by
  simp only [sideCheck, localCheck_system hr hcl habs, inSystem_of_regionAt hr, and_true, Bool.not_eq_true']

omit hcl

/-- A COPY of PF0 from the area reads its bytes. -/
theorem copySource_system (bad : List (Nat × Nat × Byte)) :
    copySource s bad 0 (.local_ a) n = some (cleanBytes (systemBytes s a n), s.takeFree (2 ^ 41), .ok) :=
  if_pos ⟨rfl, inSystem_of_regionAt hr⟩

end Access

/-- Settles O55, a clause a record, a table of the area and the access. -/
theorem systemAreaRecords : Obligations.SystemAreaRecords := by
  unfold Obligations.SystemAreaRecords
  refine ⟨?span, ?pte, ?ctx, ?spans, ?slots, ?access⟩
  case span =>
    intro n x hn hfn hmax hslots hheads hilog hbase hpk hpv hhor hgen happ htab hstart hpt hhand
    obtain ⟨hword, hnum, hfunc, hstate, hzero⟩ := spanWord_bits hn hfn x.st.code_lt
    refine ⟨spanRecord_length n x, ?_⟩
    have hcrc := sealed_crc (spanFields_length n x)
    obtain ⟨crc, hb⟩ := sealed_eq_append (layout (spanFields n x))
    simp only [spanRecord_eq]
    rw [hb] at hcrc ⊢
    rw [fieldAt_layout 0 rfl hword]
    exact ⟨hnum, hfunc, hstate, hzero, fieldAt_layout 1 rfl hmax, fieldAt_layout 2 rfl hslots, fieldAt_layout 3 rfl hheads,
      fieldAt_layout 4 rfl x.shape_lt, fieldAt_layout 5 rfl (Span.policy_lt hilog),
      fieldAt_layout 6 rfl (x.prot.code_lt.trans (by decide)), fieldAt_layout 7 rfl (Nat.mod_lt _ (by decide)),
      fieldAt_layout 8 rfl hbase, fieldAt_layout 9 rfl hpk, fieldAt_layout 10 rfl hpv, fieldAt_layout 11 rfl hhor,
      fieldAt_layout 12 rfl hgen, fieldAt_layout 13 rfl happ, fieldAt_layout 14 rfl htab, fieldAt_layout 15 rfl hstart,
      fieldAt_layout 16 rfl hpt, fieldAt_layout 17 rfl hhand, fieldAt_layout 18 rfl (by decide), hcrc⟩
  case pte =>
    intro e hpk hpv hage hgen hframe hlower hwritten
    obtain ⟨hbyte, hstate, hmig, htent, hpsn, hrecall, hzero⟩ := pteByte_bits e.mig e.tent e.psn e.recalling e.st.code e.st.code_lt
    refine ⟨pteRecord_length e, ?_⟩
    have hcrc := sealed_crc (pteFields_length e)
    obtain ⟨crc, hb⟩ := sealed_eq_append (layout (pteFields e))
    have hplace : (if e.st = .t1 then e.frame else 0) < 2 ^ 32 := by split <;> omega
    simp only [pteRecord_eq]
    rw [hb] at hcrc ⊢
    rw [fieldAt_layout (n := 1) 2 rfl hbyte, fieldAt_layout (o := 12) 5 rfl hplace]
    exact ⟨fieldAt_layout 0 rfl hpk, fieldAt_layout 1 rfl hpv, hstate, hmig, htent, hpsn, hrecall, hzero, fieldAt_layout 3 rfl hage,
      fieldAt_layout 4 rfl hgen, fun hst => if_pos hst, fieldAt_layout 6 rfl hlower, fieldAt_layout 7 rfl hwritten,
      fieldAt_layout 8 rfl (by decide), hcrc⟩
  case ctx =>
    intro free h prog c hbad hfailed hh hfn hprog hseed hstep hpos htok hsat hwork hbase
    obtain ⟨hword, hhandle, hfunc, hstate⟩ := ctxWord_bits hh hfn
    have hlen := ctxFields_length h prog c
    have hcrc := sealed_crc (show (layout (ctxFields h prog c) ++ ctxAreas free c).length = 2046 by
      rw [List.length_append, hlen, ctxAreas_length])
    obtain ⟨crc, hb⟩ := sealed_eq_append (layout (ctxFields h prog c) ++ ctxAreas free c)
    refine ⟨ctxRecord_length free h prog c, ?_⟩
    simp only [ctxRecord_good free h prog hbad hfailed]
    rw [hb, List.append_assoc] at hcrc ⊢
    have hbinds : ((layout (ctxFields h prog c) ++ (ctxAreas free c ++ crc)).drop 64).take 128 = padTo 128 (c.binds.flatMap bindRecord) := by
      rw [List.drop_left' hlen, ctxAreas, List.append_assoc, List.take_left' (padTo_length 128 _)]
    have harea : ((layout (ctxFields h prog c) ++ (ctxAreas free c ++ crc)).drop 192).take 1536 = padTo 1536 c.area := by
      rw [show 192 = 64 + 128 from rfl, ← List.drop_drop, List.drop_left' hlen, ctxAreas, List.append_assoc,
        List.drop_left' (padTo_length 128 _), List.append_assoc, List.take_left' (padTo_length 1536 _)]
    rw [fieldAt_layout 0 rfl hword]
    exact ⟨hhandle, hfunc, hstate, fieldAt_layout 1 rfl (by decide), fieldAt_layout 2 rfl hprog, fieldAt_layout 8 rfl hseed,
      fieldAt_layout 9 rfl hstep, fieldAt_layout 10 rfl hpos, fieldAt_layout 11 rfl htok, fieldAt_layout 12 rfl hsat,
      fieldAt_layout 18 rfl hwork, fieldAt_layout 19 rfl hbase, hbinds, harea, hcrc⟩
  case spans =>
    intro s n hn hr
    rw [systemBytes_span hn hr, spanEntry]
    exact ⟨fun x hx => by rw [hx], fun hx => by rw [hx]⟩
  case slots =>
    intro s n hn hr
    rw [systemBytes_slot hn hr, slotEntry]
    exact ⟨fun p hp => by rw [hp], fun hp => by rw [hp]⟩
  case access =>
    intro s f a n w hr hcl habs hn
    exact ⟨localCheck_system hr hcl habs f w, targetBar_system hr hcl habs hn w, sideCheck_system hr hcl habs f w,
      fun bad => ⟨_, copySource_system hr bad⟩⟩

end Sys2Proof.Machine

/-! PROOFS. The tile ops issue, run their part on the tiles of their set, and retire (R63, R178, R179). -/

namespace Sys2Proof.Machine

open Sys2Proof

/-! An op on free tiles. -/

section OnTiles

variable {s : State} {k : OpCtx} (hbusy : tilesBusy s k = false)
include hbusy

/-- On free tiles an op ends. -/
theorem onTiles_ends (f : Nat → State → TilePart) : ∃ u st n, onTiles k s f = .done u st n := by
  rw [onTiles_free hbusy]
  cases k.tiles.foldl (tileStep f) (some (s, Status.ok, 0)) with
  | none => exact ⟨_, _, _, rfl⟩
  | some p => exact ⟨_, _, _, rfl⟩

/-- Where the first tile's operands are outside what the op may use, it ends with ST_PROTECTION in the state it found (R36). -/
theorem onTiles_protection {f : Nat → State → TilePart} {t : Nat} (hhead : k.tiles.head? = some t) (hpart : f t s = none) :
    onTiles k s f = .done s .protection 0 := by
  obtain ⟨ts, hts⟩ := List.head?_eq_some_iff.mp hhead
  have hfirst : tileStep f (some (s, Status.ok, 0)) t = none := by simp only [tileStep, hpart]
  rw [onTiles_free hbusy, hts, List.foldl_cons, hfirst, tileStep_foldl_none]

/-- On a set of one tile an op ends with what its part answers. -/
theorem onTiles_single {f : Nat → State → TilePart} {t n : Nat} {u : State} {st : Status} (htiles : k.tiles = [t])
    (hpart : f t s = some (u, st, n)) : onTiles k s f = .done u (Status.ok.worse st) n := by
  have hfirst : tileStep f (some (s, Status.ok, 0)) t = some (u, Status.ok.worse st, 0 + n) := by simp only [tileStep, hpart]
  rw [onTiles_free hbusy, htiles, List.foldl_cons, List.foldl_nil, hfirst, Nat.zero_add]

end OnTiles

/-- An op on tiles that issues, the tiles free once it has met its storage errors, runs its part and retires after the failure events of its T0 words. -/
theorem runOp_onTiles_ends {s : State} {sel : Op → Bool} {k : OpCtx} {e : Errs} (hon : s.pow.st = .on)
    (hbusy : tilesBusy (errsMet k e (issued s k)) k = false) (f : OpCtx → Nat → State → TilePart) (i : Issues s sel k) :
    ∃ u st n, onTiles k (errsMet k e (issued s k)) (f k) = .done u st n ∧
      act s (runOp s k.h sel (withErrs e (fun k s => onTiles k s (f k)))) =
        .next (finish (retire (t0Fails e.t0 (issued s k) u) k.h k.idx st n)) := by
  obtain ⟨u, st, n, hdone⟩ := onTiles_ends hbusy (f k)
  exact ⟨u, st, n, hdone, issued_retires hon i (withErrs_done hdone)⟩

/-- NORM on the banks, no stack of its set draining, ends with what its part answers. -/
theorem normOp_banks {s t : State} {k : OpCtx} {bf : Bool} {st : Status} {n : Nat} (hbank : k.o.varBit 1 = true)
    (hgo : maskDrains s k.o.unit_ = false) (hpart : normPart true bf k k.anyTile s = some (t, st, n)) : normOp bf k s = .done t st n := by
  unfold normOp
  rw [if_pos hbank, hgo, if_neg Bool.false_ne_true, hpart]

/-- Settles O13: each command is an op on tiles of its part. -/
theorem tileOpsRun : Obligations.TileOpsRun := by
  unfold Obligations.TileOpsRun
  refine ⟨?run, ?tiles, ?banks, fun s k hon i => issued_retires hon i rfl⟩
  case run =>
    intro s k bx bz n e hon v hbusy ends
    have run {sel : Op → Bool} (f : OpCtx → Nat → State → TilePart) (i : Issues s sel k) := runOp_onTiles_ends hon hbusy f i
    refine ⟨run (elem2 fAdd bx bz), run (elem2 fMul bx bz), run (elemScale bx), run (elem2 siluGate bx bz), run elemConvert, run elemParts,
      ?norm, run copyPart, run (actPart (n + 1)), run gatherPart, run routePart, run fullPart, run localPart, run selectPart⟩
    intro i hbank
    obtain ⟨u, st, m, hdone, hrun⟩ := run (normPart false bx) i
    exact ⟨u, st, m, hdone, (congrArg (act s) (runOp_norm i hbank bx e)).trans hrun⟩
  case tiles =>
    intro s k part hbusy
    refine ⟨?_, fun t u st n htiles hpart => onTiles_single hbusy htiles hpart⟩
    rintro ⟨t, hhead, hpart⟩
    exact onTiles_protection hbusy hhead hpart
  case banks => exact fun s t k bx e st n hon i hbank hgo hpart => issued_retires hon i (withErrs_done (normOp_banks hbank hgo hpart))

end Sys2Proof.Machine

/-! PROOFS. The tier paging engine: ageing, demotion, promotion, the switch of a migration, and waits for frames (R97 to R106). -/

namespace Sys2Proof.Machine

open Sys2Proof

/-! Page table entries and migrations read after writes. -/

theorem pte_setPte_same (s : State) (n p : Nat) (e : Pte) : (s.setPte n p e).pte n p = e := Tab.get_put_same _ _ _ _

/-- An entry is read from the page tables, and nothing else. -/
theorem pte_congr {s t : State} (h : t.pg = s.pg) (n p : Nat) : t.pte n p = s.pte n p := by
  unfold State.pte
  rw [h]

theorem migOf_congr {s t : State} (h : t.pg = s.pg) (n p : Nat) : migOf t n p = migOf s n p := by
  unfold migOf
  rw [h]

theorem migOf_setPte (s : State) (n p i q : Nat) (e : Pte) : migOf (s.setPte i q e) n p = migOf s n p := rfl

/-- A page whose migration is deleted does not migrate. -/
theorem migOf_deleted {s : State} {n p : Nat} {l : List (Nat × Mig)} (h : s.pg.migs = Tab.del (pageKey n p) l) : migOf s n p = none := by
  unfold migOf
  rw [h, Tab.find?_del_same]

/-! Ageing (R97). -/

theorem agePte_resident {n : Nat} {e : Pte} (h : e.st = .t1 ∨ e.st = .t2) :
    (agePte n e).age = (if e.accessed then 0 else min 7 (e.age + 1)) ∧ (agePte n e).accessed = false ∧ (agePte n e).st = e.st := by
  have hres : ¬(e.st ≠ .t1 ∧ e.st ≠ .t2) := fun hno => h.elim hno.1 hno.2
  unfold agePte
  rw [if_neg hres]
  exact ⟨rfl, rfl, rfl⟩

theorem agePte_away {n : Nat} {e : Pte} (h1 : e.st ≠ .t1) (h2 : e.st ≠ .t2) : agePte n e = e := if_pos ⟨h1, h2⟩

/-! Demotion (R99, R106). -/

/-- Demotion of a tier off: migration is off, or the free count is above the high water and not below the low. -/
theorem demotes_off {mig was : Bool} {free low high : Nat} (h : mig = false ∨ (low ≤ free ∧ high < free)) :
    (mig && (decide (free < low) || (was && decide (free ≤ high)))) = false := by
  rcases h with hmig | ⟨hlow, hhigh⟩
  · rw [hmig, Bool.false_and]
  · simp [Nat.not_lt.mpr hlow, Nat.not_le.mpr hhigh]

/-- Demotion of a tier on: migration is on and the free count is below the low water. -/
theorem demotes_on {mig was : Bool} {free low high : Nat} (hmig : mig = true) (hlow : free < low) :
    (mig && (decide (free < low) || (was && decide (free ≤ high)))) = true := by
  rw [hmig, decide_eq_true hlow]
  rfl

theorem demoteT1_off {s : State}
    (h : s.flag R.PAGE_CTL.MIG_ENABLE = false ∨ (s.fld R.PAGE_LOWATER.FRAMES ≤ t1Free s ∧ s.fld R.PAGE_HIWATER.FRAMES < t1Free s)) :
    demoteT1 s = { s with pg := { s.pg with demoting1 := false } } := by
  unfold demoteT1
  rw [demotes_off h]
  rfl

theorem demoteT2_off {s : State}
    (h : s.flag R.PAGE_CTL.MIG_ENABLE = false ∨ (s.fld R.PAGE_T2_WATER.LOW ≤ t2Free s ∧ s.fld R.PAGE_T2_WATER.HIGH < t2Free s)) :
    demoteT2 s = { s with pg := { s.pg with demoting2 := false } } := by
  unfold demoteT2
  rw [demotes_off h]
  rfl

/-- The state with demotion of T1 on. -/
def demotingT1 (s : State) : State := { s with pg := { s.pg with demoting1 := true } }

/-- The state with demotion of T2 on. -/
def demotingT2 (s : State) : State := { s with pg := { s.pg with demoting2 := true } }

/-- The pages of T2's twilight list whose functions may have more of T3. -/
def twilightT3 (s : State) : List (Nat × Pte) := (twilight s .t2).filter (fun p => t3May s p.1)

section DemoteT1

variable {s : State} (hmig : s.flag R.PAGE_CTL.MIG_ENABLE = true) (hlow : t1Free s < s.fld R.PAGE_LOWATER.FRAMES)
include hmig hlow

theorem demoteT1_none (hnone : oldest (twilight (demotingT1 s) .t1) = none) : demoteT1 s = demotingT1 s := by
  unfold demotingT1 at hnone
  simp only [demoteT1, demotes_on hmig hlow, Bool.not_true, Bool.false_eq_true, if_false, hnone, demotingT1]

/-- Below the low water the head of T1's twilight list starts on its way. -/
theorem demoteT1_starts {k : Nat} {e : Pte} {w : State} (hold : oldest (twilight (demotingT1 s) .t1) = some (k, e))
    (hstart : startDemoteT2 (demotingT1 s) (k / 2 ^ 31) (k % 2 ^ 31) = some w) : demoteT1 s = w := by
  unfold demotingT1 at hold hstart
  simp only [demoteT1, demotes_on hmig hlow, Bool.not_true, Bool.false_eq_true, if_false, hold, hstart, Option.getD_some]

end DemoteT1

section DemoteT2

variable {s : State} (hmig : s.flag R.PAGE_CTL.MIG_ENABLE = true) (hlow : t2Free s < s.fld R.PAGE_T2_WATER.LOW)
include hmig hlow

theorem demoteT2_none (hnone : oldest (twilightT3 (demotingT2 s)) = none ∨ t3Room (demotingT2 s) none = none) : demoteT2 s = demotingT2 s := by
  unfold twilightT3 demotingT2 at hnone
  simp only [demoteT2, demotes_on hmig hlow, Bool.not_true, Bool.false_eq_true, if_false, demotingT2]
  rcases hnone with hnone | hnone
  · simp only [hnone]
  · rw [hnone]
    split
    · contradiction
    · rfl

/-- Below the low water the head of T2's twilight list, of the functions that may have more of T3, starts on its way to a lender. -/
theorem demoteT2_starts {k node : Nat} {e : Pte} (hold : oldest (twilightT3 (demotingT2 s)) = some (k, e))
    (hroom : t3Room (demotingT2 s) none = some node) :
    demoteT2 s = startT3 (demotingT2 s) (k / 2 ^ 31) (k % 2 ^ 31) .t2t3 node := by
  unfold twilightT3 demotingT2 at hold
  unfold demotingT2 at hroom
  simp only [demoteT2, demotes_on hmig hlow, Bool.not_true, Bool.false_eq_true, if_false, hold, hroom, demotingT2]

end DemoteT2

/-- Within a function's ceiling there is room in T2. -/
theorem makeT2Room_within {s : State} {f n : Nat} (h : fnT2 s f + n ≤ s.fld R.FN_T2_CEIL f) : makeT2Room s f n = some s := by
  unfold makeT2Room makeT2RoomGo
  rw [if_pos h]

/-- A demotion to a run of T2 within its function's ceiling: the run is taken, the page migrates. -/
theorem startDemoteT2_within {s : State} {sp p g : Nat} {x : Span} (hx : s.span? sp = some x) :
    let y := withTable s x (s.pte sp p)
    let n := codedGranules s y (s.pte sp p)
    fnT2 s y.fn + n ≤ s.fld R.FN_T2_CEIL y.fn → findRun s n = some g →
    let w := useRun (s.takeFree.setSpan sp y) g n (.dest y.fn sp p)
    let w := w.setPte sp p { w.pte sp p with mig := true }
    startDemoteT2 s sp p = some { w with pg := { w.pg with migs := Tab.ins (pageKey sp p) ⟨.t1t2, 0, g, n, 0, 0⟩ w.pg.migs } } := by
  intro y n hroom hrun
  simp only [startDemoteT2, hx, makeT2Room_within hroom, hrun, y, n]

/-! Promotion (R101). -/

theorem doPromote_claims {s v : State} {span p f : Nat} {x : Span} (hx : s.span? span = some x) (hstill : (s.pte span p).mig = false)
    (hst : (s.pte span p).st = .t2 ∨ (s.pte span p).st = .t3) (hgood : (s.pte span p).crcBad = false)
    (hmig : s.flag R.PAGE_CTL.MIG_ENABLE = true) (hf : allocFrame s x.fn (rotIndex x p) = some (f, v)) :
    doPromote span p s = setMig (useFrame v f (.dest x.fn span p)) span p ⟨if (s.pte span p).st = .t3 then .t3t1 else .t2t1, f, 0, 0, 0, 0⟩ := by
  have hmay : ¬((s.pte span p).mig = true ∨ ((s.pte span p).st ≠ .t2 ∧ (s.pte span p).st ≠ .t3) ∨ (s.pte span p).crcBad = true ∨
      (!s.flag R.PAGE_CTL.MIG_ENABLE) = true) := by
    simp only [hstill, hgood, hmig, Bool.not_true, Bool.false_eq_true, false_or, or_false]
    exact fun hno => hst.elim hno.1 hno.2
  simp only [doPromote, hx, if_neg hmay, hf]

/-! The switch of a migration (R100). -/

theorem doSwitch_none {s : State} {span p : Nat} (h : migOf s span p = none) (bad : List (Nat × Byte)) : doSwitch span p bad s = s := by
  simp only [doSwitch, h]

theorem doSwitch_some {s : State} {span p : Nat} {m : Mig} (h : migOf s span p = some m) (bad : List (Nat × Byte)) :
    doSwitch span p bad s = ackRecalls (switchPage (if m.kind.decodes then poisonBatts s span p bad else s) span p m) := by
  simp only [doSwitch, h]

theorem countDemote_pg (s : State) (f : Nat) : (countDemote s f).pg = s.pg := by
  unfold countDemote
  split <;> rfl

/-- A page that has been switched: it does not migrate, and its entry is as `P` says. -/
structure Switched (t : State) (span p : Nat) (P : Pte → Prop) : Prop where
  still : (t.pte span p).mig = false
  forgotten : migOf t span p = none
  entry : P (t.pte span p)

section SwitchedFrame

variable {s : State} {span p : Nat} {P : Pte → Prop} (h : Switched s span p P)
include h

theorem Switched.congr {t : State} (hpg : t.pg = s.pg) : Switched t span p P := by
  obtain ⟨hstill, hforgotten, hentry⟩ := h
  constructor
  · rw [pte_congr hpg, hstill]
  · rw [migOf_congr hpg, hforgotten]
  · rw [pte_congr hpg]
    exact hentry

theorem Switched.incFld (f : Fld) : Switched (s.incFld f) span p P := h.congr rfl

theorem Switched.emit (o : Out) : Switched (s.emit o) span p P := h.congr rfl

theorem Switched.countDemote (f : Nat) : Switched (countDemote s f) span p P := h.congr (countDemote_pg s f)

end SwitchedFrame

/-- An entry written without MIG, where the migration has been forgotten. -/
theorem switched_setPte {s : State} {span p : Nat} {e : Pte} {l : List (Nat × Mig)} {P : Pte → Prop}
    (hmig : s.pg.migs = Tab.del (pageKey span p) l) (he : e.mig = false) (hP : P e) :
    Switched (s.setPte span p e) span p P := by
  constructor
  · rw [pte_setPte_same, he]
  · rw [migOf_setPte, migOf_deleted hmig]
  · rw [pte_setPte_same]
    exact hP

section SwitchPage

variable (s : State) (span p : Nat) {m : Mig}

theorem switchPage_toT2 (h : m.kind = .t1t2 ∨ m.kind = .t2t2 ∨ m.kind = .t3t2) :
    Switched (switchPage s span p m) span p (fun e => e.st = .t2 ∧ e.granule = m.granule ∧ e.count = m.count) := by
  rcases h with h | h | h
  · simp only [switchPage, h, if_true]
    refine Switched.countDemote (switched_setPte rfl rfl ?_) _
    exact ⟨rfl, rfl, rfl⟩
  all_goals
    simp only [switchPage, h]
    exact switched_setPte rfl rfl ⟨rfl, rfl, rfl⟩

theorem switchPage_toT3 (h : m.kind = .t2t3 ∨ m.kind = .t3t3) :
    Switched (switchPage s span p m) span p (fun e => e.st = .t3 ∧ e.node = m.node ∧ e.handle = m.handle) := by
  rcases h with h | h <;> cases hx : s.span? span
  · simp only [switchPage, h, hx, if_true]
    refine Switched.countDemote (switched_setPte rfl rfl ?_) _
    exact ⟨rfl, rfl, rfl⟩
  · simp only [switchPage, h, hx, if_true]
    refine Switched.countDemote (Switched.emit (switched_setPte rfl rfl ?_) _) _
    exact ⟨rfl, rfl, rfl⟩
  · simp only [switchPage, h, hx]
    exact switched_setPte rfl rfl ⟨rfl, rfl, rfl⟩
  · simp only [switchPage, h, hx]
    refine Switched.emit (switched_setPte rfl rfl ?_) _
    exact ⟨rfl, rfl, rfl⟩

theorem switchPage_toT1 (h : m.kind = .t2t1 ∨ m.kind = .t3t1) :
    Switched (switchPage s span p m) span p (fun e => e.st = .t1 ∧ e.frame = m.frame) := by
  rcases h with h | h
  all_goals
    simp only [switchPage, h]
    refine Switched.incFld (switched_setPte rfl rfl ?_) _
    exact ⟨rfl, rfl⟩

theorem switchPage_withinT1 (h : m.kind = .t1t1) : Switched (switchPage s span p m) span p (fun e => e.frame = m.frame) := by
  simp only [switchPage, h]
  exact switched_setPte rfl rfl rfl

/-- After a switch of any kind the page does not migrate. -/
theorem switchPage_ends (m : Mig) : ((switchPage s span p m).pte span p).mig = false ∧ migOf (switchPage s span p m) span p = none := by
  have ends {P : Pte → Prop} (w : Switched (switchPage s span p m) span p P) :
      ((switchPage s span p m).pte span p).mig = false ∧ migOf (switchPage s span p m) span p = none := ⟨w.still, w.forgotten⟩
  cases h : m.kind with
  | t1t2 | t2t2 | t3t2 => exact ends (switchPage_toT2 s span p (by simp [h]))
  | t2t3 | t3t3 => exact ends (switchPage_toT3 s span p (by simp [h]))
  | t2t1 | t3t1 => exact ends (switchPage_toT1 s span p (by simp [h]))
  | t1t1 => exact ends (switchPage_withinT1 s span p h)

end SwitchPage

/-! A borrower's page at its lender (R103, R104), and waits for frames (R102). -/

/-- A borrower's page within its lending, stored in a run of T2. -/
theorem doLentStore_keeps {s : State} {h g : Nat} {l : LentIn} {d : Lending} (hd : Tab.find? l.node s.pg.lendings = some d)
    (hkey : NSet.has (l.node * 64 + l.fn) s.pg.lentKeys = true) (hnew : Tab.find? h s.pg.lent = none)
    (hroom : s.pg.lent.countP (fun p => p.2.page.node == l.node) < d.gib * 16384) :
    let n := max 1 (min 17 (ceilDiv (battsLen l.batts) 4096))
    findRun s n = some g →
    let v := pwrite' (useRun s g n (.lent h)) (t2Base + g * 4096) (cleanBytes l.batts.flatten)
    doLentStore h l s = { v with pg := { v.pg with lent := Tab.ins h ⟨l, false, g, n, false⟩ v.pg.lent } } := by
  intro n hrun
  have hmay : ¬((!NSet.has (l.node * 64 + l.fn) s.pg.lentKeys) = true ∨ (Tab.find? h s.pg.lent).isSome = true ∨
      d.gib * 16384 ≤ s.pg.lent.countP (fun p => p.2.page.node == l.node)) := by
    simp [hkey, hnew, Nat.not_le.mpr hroom]
  simp only [doLentStore, hd, if_neg hmay, hrun, n]
  rfl

theorem frameTimeout_waiting {s : State} {w : Who} (h : s.pg.waits.any (fun p => p.1 == w) = true) :
    frameTimeout s w = endFrameWait s w .retryLater := if_pos h

theorem endFrameWait_ctx {s : State} {h i : Nat} {st : Status} (hi : frameOp (endWait s (.ctx h)) h = some i) :
    endFrameWait s (.ctx h) st = retire (endWait s (.ctx h)) h i st 0 := by
  simp only [endFrameWait, hi]

/-! The commands. -/

section Commands

variable {s : State} (hon : s.pow.st = .on)
include hon

theorem exec_demoteT1_on {e : Errs} {t : State} (h : demoteT1 (engineMet e s) = t) : exec (.demote false e) s = .next (finish t) :=
  h ▸ act_on hon _

theorem exec_demoteT2_on {e : Errs} {t : State} (h : demoteT2 (engineMet e s) = t) : exec (.demote true e) s = .next (finish t) :=
  h ▸ act_on hon _

theorem exec_promote_on {span p : Nat} {e : Errs} {t : State} (h : doPromote span p (poisonBatts (engineMet e s) span p (badOf e.batts p)) = t) :
    exec (.promote span p e) s = .next (finish t) := h ▸ act_on hon _

theorem exec_migrationSwitch_on {span p : Nat} {e : Errs} {t : State} (h : doSwitch span p (badOf e.batts p) (engineMet e s) = t) :
    exec (.migrationSwitch span p none e) s = .next (finish t) := h ▸ act_on hon _

theorem exec_migrationSwitch_lent {span p n : Nat} {l : LentIn} {e : Errs} {t : State} (h : doLentStore n l (engineMet e s) = t) :
    exec (.migrationSwitch span p (some (n, l)) e) s = .next (finish t) := h ▸ act_on hon _

theorem exec_frameWaitTimeout_desc (f r n : Nat) :
    exec (.frameWaitTimeout false f r n) s = .next (finish (frameTimeout s (.desc f r n))) := act_on hon _

theorem exec_frameWaitTimeout_ctx (h r n : Nat) : exec (.frameWaitTimeout true h r n) s = .next (finish (frameTimeout s (.ctx h))) := act_on hon _

end Commands

/-- Settles O22, a clause a command and case. -/
theorem pagingCommands : Obligations.PagingCommands := by
  unfold Obligations.PagingCommands
  refine ⟨fun s t hon => act_on hon _, fun n e => ⟨agePte_resident, agePte_away⟩, ?off, ?demote1, ?demote2, ?promote, ?switch, ?switched, ?lent,
    ?desc, ?ctx⟩
  case off => exact fun s e hon => ⟨fun h => exec_demoteT1_on hon (demoteT1_off h), fun h => exec_demoteT2_on hon (demoteT2_off h)⟩
  case demote1 =>
    intro s e hon u v hmig hlow
    refine ⟨fun hnone => exec_demoteT1_on hon (demoteT1_none hmig hlow hnone), ?_⟩
    intro k _ x g hold hx sp p y n hroom hrun
    exact exec_demoteT1_on hon (demoteT1_starts hmig hlow hold (startDemoteT2_within (s := v) hx hroom hrun))
  case demote2 =>
    intro s e hon u v l hmig hlow
    exact ⟨fun hnone => exec_demoteT2_on hon (demoteT2_none hmig hlow hnone),
      fun k _ node hold hroom => exec_demoteT2_on hon (demoteT2_starts hmig hlow hold hroom)⟩
  case promote =>
    intro s v span p f e x hon u hx _ hstill hst hgood hmig hf
    exact exec_promote_on hon (doPromote_claims hx hstill hst hgood hmig hf)
  case switch =>
    intro s span p e hon u
    exact ⟨fun h => exec_migrationSwitch_on hon (doSwitch_none h _), fun m h => exec_migrationSwitch_on hon (doSwitch_some h _)⟩
  case switched =>
    intro s span p m e
    obtain ⟨hstill, hforgotten⟩ := switchPage_ends s span p m
    exact ⟨hstill, hforgotten, fun h => (switchPage_toT2 s span p h).entry, fun h => (switchPage_toT3 s span p h).entry,
      fun h => (switchPage_toT1 s span p h).entry, fun h => (switchPage_withinT1 s span p h).entry⟩
  case lent =>
    intro s span p h g l d e hon u n hd hkey hnew hroom hrun v
    exact exec_migrationSwitch_lent hon (doLentStore_keeps hd hkey hnew hroom hrun)
  case desc =>
    intro s f r n hon hwait
    rw [exec_frameWaitTimeout_desc hon, frameTimeout_waiting hwait]
    rfl
  case ctx =>
    intro s h r n i hon hwait hi
    rw [exec_frameWaitTimeout_ctx hon, frameTimeout_waiting hwait, endFrameWait_ctx hi]

end Sys2Proof.Machine

/-! PROOFS. The idle step, the fields of a T1 address, and the places of a span's rows (R86, R89, R93, R346). -/

namespace Sys2Proof.Machine

open Sys2Proof

/-! The idle step. -/

theorem step_idle {s : State} (h : s.pending = []) : step s = .next (idleStep s) := by
  simp only [step, h]

/-- Settles O39, by what a scrub changes. -/
theorem idleStep_scrubs : Obligations.IdleStep := by
  unfold Obligations.IdleStep
  intro s hidle
  rw [step_idle hidle]
  refine ⟨fun hclean => ?_, fun hbusy => ?_⟩
  · simp only [idleStep, hclean, Bool.false_eq_true, if_false]
  · have hscrub : idleStep s = scrubAll s := if_pos hbusy
    obtain ⟨m, hm⟩ := scrubAll_only s
    exact ⟨m, by rw [hscrub, hm], by rw [hscrub]⟩

/-! T1 addresses (R86): 4 bits of stack, 9 of bank pair, 27 within the pair. -/

theorem stackOf_t1Base_add (o : Nat) : stackOf (t1Base + o) = bits o 39 36 := by
  simp only [stackOf, Nat.add_sub_cancel_left, bits, Nat.reduceAdd, Nat.reduceSub, Nat.reducePow]

theorem pairOf_t1Base_add (o : Nat) : pairOf (t1Base + o) = bits o 35 27 := by
  simp only [pairOf, Nat.add_sub_cancel_left, bits, Nat.reduceAdd, Nat.reduceSub, Nat.reducePow]

theorem pairAddr_bits {o : Nat} (h : o < 2 ^ 40) : pairAddr (bits o 39 36) (bits o 35 27) (bits o 26 0) = t1Base + o := by
  simp only [pairAddr, bits]
  omega

theorem frameAddr_bits {o : Nat} (h : o < 2 ^ 40) : frameAddr (bits o 39 16) + o % 65536 = t1Base + o := by
  simp only [frameAddr, bits]
  omega

/-- A byte of a frame is of the frame's stack and bank pair. -/
theorem place_frameAddr_add {n i : Nat} (hi : i < 65536) :
    stackOf (frameAddr n + i) = bits n 23 20 ∧ pairOf (frameAddr n + i) = bits n 19 11 := by
  rw [frameAddr, Nat.add_assoc, stackOf_t1Base_add, pairOf_t1Base_add]
  simp only [bits]
  omega

theorem frameAddr_eq_pairAddr {n : Nat} (h : n < 2 ^ 24) :
    frameAddr n = pairAddr (bits n 23 20) (bits n 19 11) (bits n 10 0 * 65536) := by
  simp only [frameAddr, pairAddr, bits]
  omega

/-- Settles O50, field by field. -/
theorem t1AddressLayout : Obligations.T1AddressLayout := by
  unfold Obligations.T1AddressLayout
  refine ⟨fun o ho => ⟨stackOf_t1Base_add o, pairOf_t1Base_add o, pairAddr_bits ho, frameAddr_bits ho⟩, fun n hn => ?_⟩
  obtain ⟨hstack, hpair⟩ : stackOf (frameAddr n) = bits n 23 20 ∧ pairOf (frameAddr n) = bits n 19 11 :=
    place_frameAddr_add (i := 0) (by decide)
  refine ⟨hstack, hpair, frameAddr_eq_pairAddr hn, Nat.mod_lt _ (by decide), fun i hi => ?_⟩
  rw [hstack, hpair]
  exact place_frameAddr_add hi

/-! Rows of a span (R89). A row's page is made of the layer slot, the group and the page within the group; its place in the page of the rest. -/

section Rows

variable {x : Span}

theorem Span.interleave_pos (x : Span) : 0 < x.interleave := Nat.two_pow_pos _

theorem Span.rpp_pos (hlo : 1 ≤ x.rowBytes) (hhi : x.rowBytes ≤ 65536) : 0 < x.rpp := Nat.div_pos hhi hlo

/-- The rows of a group lie in its own pages. -/
theorem Span.group_lt {r : Nat} (hpos : 0 < x.rpp) (hr : r < x.maxTokens) : r / (x.interleave * x.rpp) < x.groups := by
  have hgroup : 0 < x.interleave * x.rpp := Nat.mul_pos x.interleave_pos hpos
  have hlast : (x.maxTokens - 1) / (x.interleave * x.rpp) + 1 = x.groups := by
    rw [Span.groups, ceilDiv, show x.maxTokens + x.interleave * x.rpp - 1 = x.maxTokens - 1 + x.interleave * x.rpp by omega,
      Nat.add_div_right _ hgroup]
  have hle : r / (x.interleave * x.rpp) ≤ (x.maxTokens - 1) / (x.interleave * x.rpp) := Nat.div_le_div_right (by omega)
  omega

/-- The page of a row within its layer slot. -/
theorem Span.slotPage_lt {r : Nat} (hpos : 0 < x.rpp) (hr : r < x.maxTokens) :
    r / (x.interleave * x.rpp) * x.interleave + r % x.interleave < x.slotPages := by
  have hmod : r % x.interleave < x.interleave := Nat.mod_lt _ x.interleave_pos
  calc r / (x.interleave * x.rpp) * x.interleave + r % x.interleave
      < (r / (x.interleave * x.rpp) + 1) * x.interleave := by rw [Nat.add_one_mul]; omega
    _ ≤ x.slotPages := Nat.mul_le_mul_right _ (Span.group_lt hpos hr)

theorem Span.rowAt_page_lt {l r : Nat} (hpos : 0 < x.rpp) (hl : l < x.layerSlots) (hr : r < x.maxTokens) : (x.rowAt l r).1 < x.pages := by
  have hslot := Span.slotPage_lt hpos hr
  calc (x.rowAt l r).1 < (l + 1) * x.slotPages := by rw [Nat.add_one_mul]; simp only [Span.rowAt]; omega
    _ ≤ x.pages := Nat.mul_le_mul_right _ hl

theorem Span.rowAt_byte_le (hpos : 0 < x.rpp) (l r : Nat) : (x.rowAt l r).2 + x.rowBytes ≤ 65536 := by
  have hk : r / x.interleave % x.rpp < x.rpp := Nat.mod_lt _ hpos
  calc (x.rowAt l r).2 + x.rowBytes = (r / x.interleave % x.rpp + 1) * x.rowBytes := by rw [Nat.add_one_mul]; rfl
    _ ≤ x.rpp * x.rowBytes := Nat.mul_le_mul_right _ hk
    _ ≤ 65536 := Nat.div_mul_le_self _ _

/-- Two numbers a × n + b with b below n agree only where both parts do. -/
theorem mul_add_inj {n a b c d : Nat} (hb : b < n) (hd : d < n) (h : a * n + b = c * n + d) : a = c ∧ b = d := by
  have hpos : 0 < n := by omega
  have hb' : b = d := by
    have := congrArg (· % n) h
    simpa [Nat.mul_add_mod_self_right, Nat.mod_eq_of_lt hb, Nat.mod_eq_of_lt hd] using this
  exact ⟨Nat.eq_of_mul_eq_mul_right hpos (by omega), hb'⟩

/-- Rows with one page and one place in it are one row of one layer slot. -/
theorem Span.rowAt_inj {l r m q : Nat} (hpos : 0 < x.rpp) (hr : r < x.maxTokens) (hq : q < x.maxTokens)
    (hpage : (x.rowAt l r).1 = (x.rowAt m q).1) (hplace : r / x.interleave % x.rpp = q / x.interleave % x.rpp) : l = m ∧ r = q := by
  have hmod (n : Nat) : n % x.interleave < x.interleave := Nat.mod_lt _ x.interleave_pos
  simp only [Span.rowAt, Nat.add_assoc] at hpage
  obtain ⟨hslot, hrest⟩ := mul_add_inj (Span.slotPage_lt hpos hr) (Span.slotPage_lt hpos hq) hpage
  obtain ⟨hgroup, hcol⟩ := mul_add_inj (hmod r) (hmod q) hrest
  rw [← Nat.div_div_eq_div_mul, ← Nat.div_div_eq_div_mul] at hgroup
  have hdeal : r / x.interleave = q / x.interleave := by
    rw [← Nat.div_add_mod (r / x.interleave) x.rpp, ← Nat.div_add_mod (q / x.interleave) x.rpp, hgroup, hplace]
  exact ⟨hslot, by rw [← Nat.div_add_mod r x.interleave, ← Nat.div_add_mod q x.interleave, hdeal, hcol]⟩

/-- Pieces of `b` bytes at different multiples of `b` share no byte. -/
theorem mul_apart {b k j : Nat} (h : k ≠ j) : k * b + b ≤ j * b ∨ j * b + b ≤ k * b := by
  simp only [← Nat.add_one_mul]
  rcases Nat.lt_or_gt_of_ne h with hlt | hgt
  · exact .inl (Nat.mul_le_mul_right _ hlt)
  · exact .inr (Nat.mul_le_mul_right _ hgt)

/-- Different rows share no byte: they lie in different pages, or in different places of one page. -/
theorem Span.rowAddress_apart {l r m q : Nat} (hpos : 0 < x.rpp) (hr : r < x.maxTokens) (hq : q < x.maxTokens) (hne : l ≠ m ∨ r ≠ q) :
    x.rowAddress l r + x.rowBytes ≤ x.rowAddress m q ∨ x.rowAddress m q + x.rowBytes ≤ x.rowAddress l r := by
  have hfit := Span.rowAt_byte_le hpos l r
  have hfit' := Span.rowAt_byte_le hpos m q
  simp only [Span.rowAddress]
  by_cases hpage : (x.rowAt l r).1 = (x.rowAt m q).1
  · have hplace : r / x.interleave % x.rpp ≠ q / x.interleave % x.rpp := fun heq => by
      obtain ⟨hl, hrq⟩ := Span.rowAt_inj hpos hr hq hpage heq
      exact hne.elim (· hl) (· hrq)
    have hapart : (x.rowAt l r).2 + x.rowBytes ≤ (x.rowAt m q).2 ∨ (x.rowAt m q).2 + x.rowBytes ≤ (x.rowAt l r).2 := mul_apart hplace
    omega
  · omega

end Rows

/-- Settles O58, by the page and the place in it that a row's number is dealt to. -/
theorem rowsApart : Obligations.RowsApart := by
  unfold Obligations.RowsApart
  intro x hlo hhi
  have hpos := Span.rpp_pos hlo hhi
  refine ⟨fun l r => ?_, fun l r hl hr => ⟨Span.rowAt_page_lt hpos hl hr, Span.rowAt_byte_le hpos l r⟩,
    fun l r m q _ _ hr hq hne => Span.rowAddress_apart hpos hr hq hne⟩
  simp only [Span.rowAddress, Span.rowAt, Span.slotPages, Span.interleave, Span.rpp]
  ring

end Sys2Proof.Machine

/-! PROOFS. What the near-bank commands store and give to the chains, and what they leave (R97, R112, R114, R118, R120, R129). -/

namespace Sys2Proof.Machine

open Sys2Proof

/-! What a command's reads leave: ACCESSED bits of pages and free values drawn (R97). -/

/-- Page table entries differ in their ACCESSED bits at most. -/
def Aged (s t : State) : Prop := ∀ n p, { t.pte n p with accessed := false } = { s.pte n p with accessed := false }

/-- A state that has read: pages accessed, free values drawn, and nothing else. -/
def ReadOnly (s u : State) : Prop := ∃ m c, u = { s with pg := { s.pg with ptes := m }, freeCtr := c } ∧ Aged s u

theorem ReadOnly.refl (s : State) : ReadOnly s s := ⟨s.pg.ptes, s.freeCtr, rfl, fun _ _ => rfl⟩

theorem ReadOnly.takeFree {s u : State} (h : ReadOnly s u) (n : Nat) : ReadOnly s (u.takeFree n) := by
  obtain ⟨m, c, rfl, haged⟩ := h
  exact ⟨m, c + n, rfl, haged⟩

theorem ReadOnly.touchRange {s u : State} (h : ReadOnly s u) (a n : Nat) : ReadOnly s (touchRange u a n) := by
  obtain ⟨m, c, rfl, haged⟩ := h
  obtain ⟨m', heq, haged'⟩ := touchRange_only { s with pg := { s.pg with ptes := m }, freeCtr := c } a n
  refine ⟨m', c, heq, fun i p => ?_⟩
  rw [heq]
  exact (haged' i p).trans (haged i p)

/-- Touching pages leaves memory, the stacks and the free values. -/
theorem touchRange_reads (s : State) (a n : Nat) : (touchRange s a n).mm = s.mm ∧ (touchRange s a n).nbu = s.nbu ∧
    (touchRange s a n).freeCtr = s.freeCtr := by
  obtain ⟨m, heq, -⟩ := touchRange_only s a n
  rw [heq]
  exact ⟨rfl, rfl, rfl⟩

theorem pread_congr {s t : State} (h : t.mm = s.mm) (a n : Nat) : pread t a n = pread s a n := by
  simp only [pread, remapAddr, linePsn, h]

theorem bufRead_congr {s t : State} (hnbu : t.nbu = s.nbu) (hctr : t.freeCtr = s.freeCtr) (k o n : Nat) : bufRead t k o n = bufRead s k o n := by
  simp only [bufRead, State.stack, hnbu, hctr]

/-! Commands that store. -/

/-- What a command that stores `n` bytes from `b` on may have changed. -/
def StoreKeeps (s : State) (b n : Nat) (t : State) : Prop :=
  t = { s with mm := { s.mm with mem := t.mm.mem, psn := t.mm.psn, unfenced := t.mm.unfenced }, pg := { s.pg with ptes := t.pg.ptes },
               freeCtr := t.freeCtr } ∧
  Aged s t ∧
  (∀ x, (∀ i, i < n → remapAddr s (b + i) ≠ x) → Tab.get 0#8 x t.mm.mem = Tab.get 0#8 x s.mm.mem) ∧
  (∀ l, (∀ i, i < n → remapAddr s (b + i) / 64 ≠ l / 2) → NSet.has l t.mm.psn = NSet.has l s.mm.psn)

theorem StoreKeeps.refl (s : State) (b n : Nat) : StoreKeeps s b n s := ⟨rfl, fun _ _ => rfl, fun _ _ => rfl, fun _ _ => rfl⟩

/-- A store after reads. -/
theorem nbuStore_storeKeeps {s u : State} (h : ReadOnly s u) (c : NbuCmd) {b n : Nat} {bs : List PByte} (hlen : bs.length ≤ n) (lost : Bool) :
    StoreKeeps s b n (nbuStore u c b bs lost).1 := by
  obtain ⟨m, f, rfl, haged⟩ := h
  obtain ⟨⟨mem, psn, unf, heq⟩, hmem, hpsn⟩ := nbuStore_kept { s with pg := { s.pg with ptes := m }, freeCtr := f } c b n bs lost hlen
  refine ⟨by rw [heq], ?_, hmem, hpsn⟩
  rw [heq]
  exact haged

/-- A command answers what a store after reads does. -/
def Stores (s : State) (c : NbuCmd) (b : Nat) (bs : List PByte) (r : State × Status) : Prop :=
  ∃ u, ReadOnly s u ∧ r = nbuStore u c b bs false

theorem Stores.keeps {s : State} {c : NbuCmd} {b n : Nat} {bs : List PByte} {r : State × Status} (h : Stores s c b bs r) (hlen : bs.length ≤ n) :
    StoreKeeps s b n r.1 := by
  obtain ⟨u, hread, rfl⟩ := h
  exact nbuStore_storeKeeps hread c hlen false

/-- Whole clean sectors stored, where no frame is remapped, read back. -/
theorem Stores.reads {s : State} {c : NbuCmd} {b n : Nat} {bs : List PByte} {r : State × Status} (h : Stores s c b bs r) (hlen : bs.length = n)
    (hb : b % 32 = 0) (hn : 32 ∣ n) (hplain : ∀ i, i < n → addrClass (b + i) = .t1 ∧ remapAddr s (b + i) = b + i) (hclean : anyPsn bs = false) :
    pread r.1 b n = bs ∧ r.2 = .ok := by
  obtain ⟨u, ⟨m, f, rfl, -⟩, rfl⟩ := h
  exact nbuStore_reads hlen hb hn hplain hclean

theorem addr_aligned {c : NbuCmd} (h : c.row % 32 = 0) : c.addr % 32 = 0 := by
  simp only [NbuCmd.addr, pairAddr, t1Base]
  omega

section Stored

variable (s : State) (c : NbuCmd)

/-- What ELEMWISE stores (R112). -/
def elemwiseOut : List PByte :=
  bankBytes c.fmt (elemwise (c.arg0 % 4) (BitVec.ofNat 32 c.arg1) (bankElems c.fmt (pread s c.addr (32 * c.len)))
    (bankElems c.fmt (bufRead s c.stack c.operand (32 * c.len))))

/-- A vector as long as the command's sectors fills them. -/
theorem bankBytes_length_le {fmt len : Nat} {es : List PElem} (h : es.length ≤ (if fmt % 4 = 2 then 16 else 8) * len) :
    (bankBytes fmt es).length ≤ 32 * len := by
  rw [bankBytes_length]
  split_ifs at h ⊢ <;> omega

theorem elemwiseOut_length : (elemwiseOut s c).length = 32 * c.len := by
  have hx : (bankElems c.fmt (pread s c.addr (32 * c.len))).length = _ := bankElems_length (pread_length _ _ _)
  have hz : (bankElems c.fmt (bufRead s c.stack c.operand (32 * c.len))).length = _ := bankElems_length (bufRead_length _ _ _ _)
  rw [elemwiseOut, bankBytes_length, elemwise_length _ _ _ _ (hx.trans hz.symm), hx]
  split_ifs <;> omega

theorem doNbuElemwise_stores : Stores s c c.addr (elemwiseOut s c) (doNbuElemwise s c []) := by
  obtain ⟨hmm, hnbu, hctr⟩ := touchRange_reads s c.addr c.bytes
  have hread : ReadOnly s (touchRange s c.addr c.bytes) := (ReadOnly.refl s).touchRange _ _
  refine ⟨if c.arg0 % 4 = 0 then touchRange s c.addr c.bytes else (touchRange s c.addr c.bytes).takeFree (32 * c.len), ?_, ?_⟩
  · split_ifs
    · exact hread
    · exact hread.takeFree _
  · simp only [doNbuElemwise, sectorFaults, List.foldl_nil, elemwiseOut, pread_congr hmm, bufRead_congr hnbu hctr]
    rfl

/-- NORM_APPLY is refused, or stores no more than its sectors. -/
theorem doNormApply_cases : (doNormApply s c []).1 = s ∨ ∃ bs, bs.length ≤ 32 * c.len ∧ Stores s c c.addr bs (doNormApply s c []) := by
  unfold doNormApply
  dsimp only
  generalize 32 * c.len / (if c.fmt % 4 = 2 then 2 else 4) = w
  split_ifs
  · exact .inl rfl
  · exact .inl rfl
  · refine .inr ⟨_, ?_, _, (((ReadOnly.refl s).touchRange _ _).touchRange _ _).takeFree 8192, rfl⟩
    refine bankBytes_length_le ?_
    rw [List.length_zipWith, List.length_take, bankElems_length (pread_length _ _ _)]
    exact (Nat.min_le_left _ _).trans (Nat.min_le_right _ _)

/-- The destination of a LOCAL_COPY. -/
def copyTo : Nat := pairAddr c.home.1 c.home.2 (c.arg0 % 2 ^ 27)

/-- LOCAL_COPY is refused, or stores as many bytes as its sectors hold. -/
theorem doLocalCopy_cases : (doLocalCopy s c []).1 = s ∨ ∃ bs, bs.length ≤ 32 * c.len ∧ Stores s c (copyTo c) bs (doLocalCopy s c []) := by
  have hread := (ReadOnly.refl s).touchRange c.addr (32 * c.len)
  unfold doLocalCopy
  dsimp only
  split_ifs
  · exact .inl rfl
  · exact .inl rfl
  · exact .inr ⟨_, by simp [rangeFrom], _, hread.takeFree _, rfl⟩
  · exact .inr ⟨_, (pread_length _ _ _).le, _, hread, rfl⟩

/-- LOCAL_COPY between separate ranges stores what its source holds. -/
theorem doLocalCopy_stores (hbundle : inBundle s (copyTo c) (32 * c.len) = false) (hbarred : storeBarred s (copyTo c) (32 * c.len) = false)
    (halign : c.arg0 % 2 ^ 27 % 32 = 0) (hfit : c.arg0 % 2 ^ 27 + 32 * c.len ≤ 2 ^ 27) (howned : pairOwned s c.fn (copyTo c) (32 * c.len) = true)
    (hapart : copyTo c + 32 * c.len ≤ c.addr ∨ c.addr + 32 * c.len ≤ copyTo c) :
    Stores s c (copyTo c) (pread s c.addr (32 * c.len)) (doLocalCopy s c []) := by
  obtain ⟨hmm, -, -⟩ := touchRange_reads s c.addr (32 * c.len)
  refine ⟨touchRange s c.addr (32 * c.len), (ReadOnly.refl s).touchRange _ _, ?_⟩
  unfold copyTo at hbundle hbarred howned hapart
  have hlaps : (decide (pairAddr c.home.1 c.home.2 (c.arg0 % 2 ^ 27) < c.addr + 32 * c.len) &&
      decide (c.addr < pairAddr c.home.1 c.home.2 (c.arg0 % 2 ^ 27) + 32 * c.len)) = false := by
    simp only [Bool.and_eq_false_iff, decide_eq_false_iff_not]
    omega
  have hgood : ¬(c.arg0 % 2 ^ 27 % 32 ≠ 0 ∨ 2 ^ 27 < c.arg0 % 2 ^ 27 + 32 * c.len ∨
      (!pairOwned s c.fn (pairAddr c.home.1 c.home.2 (c.arg0 % 2 ^ 27)) (32 * c.len)) = true) := by
    rw [howned]
    rintro (h | h | h)
    · exact h halign
    · exact Nat.not_lt.mpr hfit h
    · exact Bool.false_ne_true h
  simp only [doLocalCopy, if_neg hgood, hbundle, hbarred, hlaps, Bool.or_self, Bool.false_eq_true, if_false, sectorFaults, List.foldl_nil,
    pread_congr hmm]
  rfl

/-! FILL. -/

/-- What FILL stores. -/
def fillBytes : List PByte := cleanBytes ((List.range (8 * c.len)).flatMap (fun _ => leBytes 4 c.arg0))

theorem doFill_stores : Stores s c c.addr (fillBytes c) (doFill s c) := ⟨s, ReadOnly.refl s, rfl⟩

theorem fillBytes_length : (fillBytes c).length = 32 * c.len := by
  simp only [fillBytes, cleanBytes, List.length_map, List.length_flatMap, leBytes_length, List.map_const', List.sum_replicate, List.length_range,
    smul_eq_mul]
  omega

theorem fillBytes_clean : anyPsn (fillBytes c) = false := by
  simp [fillBytes, cleanBytes, anyPsn]

end Stored

theorem leBytes_getElem? {n i : Nat} (h : i < n) (v : Nat) : (leBytes n v)[i]? = some (BitVec.ofNat 8 (v / 256 ^ i)) := by
  induction n generalizing i v with
  | zero => omega
  | succ n ih =>
    cases i with
    | zero => simp [leBytes]
    | succ i => rw [leBytes, List.getElem?_cons_succ, ih (by omega), Nat.div_div_eq_div_mul, pow_succ']

/-- A list repeated reads as the list over again. -/
theorem repeated_getElem? {α : Type} {w : List α} {n i : Nat} (h : i < n * w.length) :
    ((List.replicate n w).flatten)[i]? = w[i % w.length]? := by
  induction n generalizing i with
  | zero => omega
  | succ n ih =>
    rw [List.replicate_succ, List.flatten_cons]
    rw [Nat.add_one_mul] at h
    by_cases hi : i < w.length
    · rw [List.getElem?_append_left hi, Nat.mod_eq_of_lt hi]
    · rw [List.getElem?_append_right (Nat.not_lt.mp hi), ih (by omega), ← Nat.mod_eq_sub_mod (Nat.not_lt.mp hi)]

theorem fillBytes_getElem? {c : NbuCmd} {i : Nat} (h : i < 32 * c.len) :
    (fillBytes c)[i]? = some (BitVec.ofNat 8 (c.arg0 / 256 ^ (i % 4)), false) := by
  have hrep : (List.range (8 * c.len)).flatMap (fun _ => leBytes 4 c.arg0) = (List.replicate (8 * c.len) (leBytes 4 c.arg0)).flatten := by
    rw [List.flatMap_def, List.map_const', List.length_range]
  rw [fillBytes, cleanBytes, List.getElem?_map, hrep, repeated_getElem? (by rw [leBytes_length]; omega), leBytes_length,
    leBytes_getElem? (Nat.mod_lt _ (by decide))]
  rfl

/-- What a range reads as, byte by byte, where no frame is remapped. -/
theorem pread_getElem? {s : State} {a n i : Nat} (h : i < n) (hmap : remapAddr s (a + i) = a + i) :
    (pread s a n)[i]? = some (Tab.get 0#8 (a + i) s.mm.mem, linePsn s (a + i)) := by
  simp only [pread, rangeFrom, List.map_map, List.getElem?_map, List.getElem?_range h, Option.map_some, Function.comp, hmap]

/-- A store to whole sectors, none of them remapped, lists each of them as unfenced, with what it held (R118). -/
theorem nbuStore_lists {s : State} {c : NbuCmd} {a : Nat} {bs : List PByte} (ha : a % 32 = 0)
    (hmap : ∀ i, i < bs.length → remapAddr s (a + i) = a + i) {k : Nat} (hlo : a / 32 ≤ k) (hhi : k * 32 < a + bs.length) :
    ∃ w, Tab.find? k (nbuStore s c a bs false).1.mm.unfenced = some w ∧ (c.fn, c.h) ∈ w.by_ ∧
      (cellsRead s.mm.mem (k * 32) 32, NSet.has k s.mm.psn) ∈ w.olds := by
  have hunf : (nbuStore s c a bs false).1.mm.unfenced = (noteUnfenced s c.fn c.h a bs.length).mm.unfenced := by
    obtain ⟨m, p, u, heq, hu⟩ := nbuWrite_only s c.fn c.h a bs
    simp only [nbuStore, Bool.false_eq_true, if_false, heq, hu]
  have hne : bs.length ≠ 0 := by omega
  have hk : remapAddr s (k * 32) = k * 32 := by
    have h := hmap (k * 32 - a) (by omega)
    rwa [show a + (k * 32 - a) = k * 32 by omega] at h
  rw [hunf, noteUnfenced, if_neg hne]
  refine notes_find s c.fn c.h _ _ k (List.mem_map.2 ⟨k, List.mem_map.2 ⟨k - a / 32, List.mem_range.2 (by omega), by omega⟩, ?_⟩)
  rw [hk, Nat.mul_div_cancel _ (by decide)]

/-- What FILL leaves in its range (R112, R118, R120). -/
theorem doFill_fills {s : State} {c : NbuCmd} (ha : c.addr % 32 = 0)
    (hplain : ∀ i, i < 32 * c.len → addrClass (c.addr + i) = .t1 ∧ remapAddr s (c.addr + i) = c.addr + i) :
    (∀ i, i < 32 * c.len → Tab.get 0#8 (c.addr + i) (doFill s c).1.mm.mem = BitVec.ofNat 8 (c.arg0 / 256 ^ (i % 4)) ∧
      linePsn (doFill s c).1 (c.addr + i) = false) ∧
    (∀ k, c.addr / 32 ≤ k → k < c.addr / 32 + c.len → ∃ w, Tab.find? k (doFill s c).1.mm.unfenced = some w ∧ (c.fn, c.h) ∈ w.by_ ∧
      (cellsRead s.mm.mem (k * 32) 32, NSet.has k s.mm.psn) ∈ w.olds) := by
  have hlen := fillBytes_length c
  constructor
  · intro i hi
    obtain ⟨hread, -⟩ := (doFill_stores s c).reads hlen ha ⟨c.len, rfl⟩ hplain (fillBytes_clean c)
    obtain ⟨hkept, -⟩ := (doFill_stores s c).keeps hlen.le
    have hremap : (doFill s c).1.mm.remap = s.mm.remap := congrArg (fun t => t.mm.remap) hkept
    have hmap : remapAddr (doFill s c).1 (c.addr + i) = c.addr + i := by
      rw [remapAddr_congr hremap, (hplain i hi).2]
    have hbyte := pread_getElem? hi hmap
    rw [hread, fillBytes_getElem? hi] at hbyte
    simp only [Option.some.injEq, Prod.mk.injEq] at hbyte
    exact ⟨hbyte.1.symm, hbyte.2.symm⟩
  · intro k hlo hhi
    exact nbuStore_lists ha (fun i hi => (hplain i (by rwa [← hlen])).2) hlo (by rw [show (cleanBytes _).length = _ from hlen]; omega)

/-! Commands that give to the chains (R114). -/

/-- What a command that gives to the chains of some stacks may have changed. -/
def ChainKeeps (s t : State) (touched : Nat → Prop) : Prop :=
  t = { s with nbu := { s.nbu with perStack := t.nbu.perStack }, pg := { s.pg with ptes := t.pg.ptes }, freeCtr := t.freeCtr } ∧
  Aged s t ∧ ∀ k, ¬ touched k → t.stack k = s.stack k

theorem stack_setStack_ne (s : State) {k j : Nat} (h : j ≠ k) (x : StackSt) : (s.setStack k x).stack j = s.stack j := Tab.get_put_ne h _ _ _ _

section Chains

variable {s t : State} {touched : Nat → Prop}

theorem ReadOnly.chainKeeps (h : ReadOnly s t) : ChainKeeps s t touched := by
  obtain ⟨m, f, rfl, haged⟩ := h
  exact ⟨rfl, haged, fun _ _ => rfl⟩

theorem ChainKeeps.setStack (h : ChainKeeps s t touched) {k : Nat} (hk : touched k) (x : StackSt) : ChainKeeps s (t.setStack k x) touched := by
  obtain ⟨heq, haged, hstack⟩ := h
  refine ⟨congrArg (fun v => v.setStack k x) heq, haged, fun j hj => ?_⟩
  have hne : j ≠ k := fun e => hj (e ▸ hk)
  rw [stack_setStack_ne _ hne, hstack j hj]

theorem ChainKeeps.takeFree (h : ChainKeeps s t touched) (n : Nat) : ChainKeeps s (t.takeFree n) touched := by
  obtain ⟨heq, haged, hstack⟩ := h
  exact ⟨congrArg (fun v => v.takeFree n) heq, haged, hstack⟩

end Chains

/-- The NBUs listed by a run over segments are those that hold one. -/
theorem mem_places {α β : Type} [BEq β] [LawfulBEq β] (f : α → β) (l : List α) {u : β} :
    ∀ {acc : List β}, u ∈ l.foldl (fun acc x => if acc.contains (f x) then acc else acc ++ [f x]) acc → u ∈ acc ∨ ∃ x ∈ l, f x = u := by
  induction l with
  | nil => exact fun h => .inl h
  | cons a r ih =>
    intro acc h
    rcases ih h with h | ⟨x, hx, hu⟩
    · dsimp only at h
      split_ifs at h
      · exact .inl h
      · rcases List.mem_append.1 h with h | h
        · exact .inl h
        · exact .inr ⟨a, List.mem_cons_self, (List.mem_singleton.1 h).symm⟩
    · exact .inr ⟨x, List.mem_cons_of_mem _ hx, hu⟩

/-- A run over places, each of which gives to its own stack's chain. -/
theorem chainKeeps_foldl {s : State} {touched : Nat → Prop} {f : State × Status → Nat × Nat → State × Status} (l : List (Nat × Nat))
    (hl : ∀ u ∈ l, touched u.1) (hf : ∀ r u, ∃ x, (f r u).1 = r.1.setStack u.1 x) :
    ∀ {r : State × Status}, ChainKeeps s r.1 touched → ChainKeeps s (l.foldl f r).1 touched := by
  induction l with
  | nil => exact fun h => h
  | cons u l ih =>
    intro r h
    obtain ⟨x, hx⟩ := hf r u
    refine ih (fun v hv => hl v (List.mem_cons_of_mem _ hv)) ?_
    rw [hx]
    exact h.setStack (hl u List.mem_cons_self) x

/-- MV_SLICE gives to the chains of the stacks that hold its segments. -/
theorem doMvSlice_keeps (s : State) (c : NbuCmd) :
    ChainKeeps s (doMvSlice s c []).1 (fun k => ∃ x ∈ parseSegs c.fmt c.arg0 0 (pread s c.addr (32 * c.len)), (segPlace s c x).1 = k) := by
  obtain ⟨hmm, -, -⟩ := touchRange_reads s c.addr c.bytes
  have hplace (x : Seg) : segPlace (touchRange s c.addr c.bytes) c x = segPlace s c x := by
    simp only [segPlace, remapAddr_congr (congrArg Memory.remap hmm)]
  refine ChainKeeps.takeFree ?_ 8192
  simp only [mvSlice, sectorFaults, List.foldl_nil, pread_congr hmm, hplace]
  refine chainKeeps_foldl _ (fun u hu => ?_) (fun r u => ⟨_, rfl⟩) ((ReadOnly.refl s).touchRange _ _).chainKeeps
  rcases mem_places (segPlace s c) _ hu with h | ⟨x, hx, rfl⟩
  · exact absurd h List.not_mem_nil
  · exact ⟨x, hx, rfl⟩

/-- SUMSQ gives to the chain of its own stack. -/
theorem doSumsq_keeps (s : State) (c : NbuCmd) : ChainKeeps s (doSumsq s c []).1 (fun k => k = c.stack) :=
  (((ReadOnly.refl s).touchRange c.addr c.bytes).chainKeeps (touched := fun k => k = c.stack)).setStack rfl _

/-- Settles O57: each command that stores is one store after reads, each that gives to a chain a change of stacks after reads. -/
theorem nearBankStores : Obligations.NearBankStores := by
  unfold Obligations.NearBankStores
  intro s c a n e d aged kept chain plain
  refine ⟨(doFill_stores s c).keeps (fillBytes_length c).le, (doNbuElemwise_stores s c).keeps (elemwiseOut_length s c).le, ?norm, ?copy,
    doMvSlice_keeps s c, doSumsq_keeps s c, ?content, ?copied⟩
  case norm =>
    rcases doNormApply_cases s c with h | ⟨bs, hlen, h⟩
    · rw [h]
      exact StoreKeeps.refl s a n
    · exact h.keeps hlen
  case copy =>
    rcases doLocalCopy_cases s c with h | ⟨bs, hlen, h⟩
    · rw [h]
      exact StoreKeeps.refl s d n
    · exact h.keeps hlen
  case content =>
    intro hrow hplain
    have ha := addr_aligned hrow
    obtain ⟨hbytes, hlisted⟩ := doFill_fills ha hplain
    exact ⟨hbytes, hlisted, fun hclean => (doNbuElemwise_stores s c).reads (elemwiseOut_length s c) ha ⟨c.len, rfl⟩ hplain hclean⟩
  case copied =>
    intro hbundle hbarred halign hfit howned hapart hplain hclean
    have hd : d % 32 = 0 := by
      simp only [d, pairAddr, t1Base]
      omega
    exact (doLocalCopy_stores s c hbundle hbarred halign hfit howned hapart).reads (pread_length _ _ _) hd ⟨c.len, rfl⟩ hplain hclean

end Sys2Proof.Machine

/-! PROOFS. Lending, recall and release of lent pages (R92, R93, R103, R105, R300, R301). -/

namespace Sys2Proof.Machine

open Sys2Proof

/-! Lendings and offers (R103, R300, R301). -/

section LendingSetup

variable {node gib : Nat} {t1 : Bool} {fns : List Nat} {s : State}

/-- The lent keys that a lending of functions needs, with those held already. -/
def keysWith (s : State) (node : Nat) (fns : List Nat) : List Nat := fns.foldl (fun l f => NSet.add (node * 64 + f) l) s.pg.lentKeys

theorem doLendingSetup_lends (h : (keysWith s node fns).length ≤ 1024) : doLendingSetup true node gib t1 fns s =
    { s with pg := { s.pg with lendings := Tab.ins node ⟨node, gib, t1⟩ s.pg.lendings, lentKeys := keysWith s node fns } } :=
  if_neg (Nat.not_lt.mpr h)

theorem doLendingSetup_refused (h : 1024 < (keysWith s node fns).length) : doLendingSetup true node gib t1 fns s = s := if_pos h

theorem doLendingSetup_offers (h : 0 < gib) : doLendingSetup false node gib t1 fns s = { s with pg := { s.pg with
    offers := Tab.ins node ⟨node, gib, t1⟩ s.pg.offers, t3keys := fns.foldl (fun l f => NSet.add f l) s.pg.t3keys } } := by
  simp only [doLendingSetup, Bool.false_eq_true, if_false, if_neg (Nat.ne_of_gt h)]

end LendingSetup

/-! A recall's deadline at the borrower (R103, R105). -/

section Deadline

variable {s : State} {node t : Nat}

/-- Is a recall notice of a lender past its deadline? -/
def recallOver (node : Nat) (s : State) (r : RecallIn) : Bool := r.node == node && decide (r.deadline ≤ s.now)

/-- The notices past their deadline forgotten. -/
def forgetRecalls (node : Nat) (s : State) : State :=
  { s with pg := { s.pg with recallsIn := s.pg.recallsIn.filter (fun r => !recallOver node s r) } }

/-- A page discarded at its lender: displaced here, where it is still there and recalled. -/
def loseRecalled (node : Nat) (s : State) (k : Nat) : State :=
  let e := s.pte (k / 2 ^ 31) (k % 2 ^ 31)
  if e.st = .t3 ∧ e.node = node ∧ e.recalling then
    let s := match migOf s (k / 2 ^ 31) (k % 2 ^ 31) with
      | some m => dropMig (freeDest s m) (k / 2 ^ 31) (k % 2 ^ 31)
      | none => s
    displaceAs s (k / 2 ^ 31) (k % 2 ^ 31) false
  else s

theorem doRecallDeadline_eq (node t : Nat) (s : State) : doRecallDeadline node t s =
    (((atTime s t).pg.recallsIn.filter (recallOver node (atTime s t))).flatMap (·.pages)).foldl (loseRecalled node)
      (forgetRecalls node (atTime s t)) := by
  have hdue : (fun r : RecallIn => decide (r.node = node ∧ r.deadline ≤ (atTime s t).now)) = recallOver node (atTime s t) := by
    funext r
    rw [recallOver, Bool.decide_and, beq_eq_decide]
  simp only [doRecallDeadline, hdue]
  rfl

theorem doRecallDeadline_none (h : ∀ r ∈ (atTime s t).pg.recallsIn, recallOver node (atTime s t) r = false) :
    doRecallDeadline node t s = forgetRecalls node (atTime s t) := by
  have hnone : (atTime s t).pg.recallsIn.filter (recallOver node (atTime s t)) = [] :=
    List.filter_eq_nil_iff.2 (fun r hr => Bool.eq_false_iff.1 (h r hr))
  rw [doRecallDeadline_eq, hnone, List.flatMap_nil, List.foldl_nil]

/-- The only notice, past its deadline and naming one page. -/
theorem doRecallDeadline_one {r : RecallIn} {k : Nat} (honly : (atTime s t).pg.recallsIn = [r]) (hnode : r.node = node)
    (hover : r.deadline ≤ (atTime s t).now) (hpages : r.pages = [k]) : doRecallDeadline node t s =
      loseRecalled node { (atTime s t) with pg := { (atTime s t).pg with recallsIn := [] } } k := by
  have hr : recallOver node (atTime s t) r = true := by simp [recallOver, hnode, hover]
  have hforgot : forgetRecalls node (atTime s t) = { (atTime s t) with pg := { (atTime s t).pg with recallsIn := [] } } := by
    simp only [forgetRecalls, honly, List.filter_cons, hr, Bool.not_true, Bool.false_eq_true, if_false, List.filter_nil]
  rw [doRecallDeadline_eq, hforgot, honly, List.filter_cons, if_pos hr, List.filter_nil, List.flatMap_singleton, hpages, List.foldl_cons,
    List.foldl_nil]

variable {k : Nat}

theorem loseRecalled_displaces (hst : (s.pte (k / 2 ^ 31) (k % 2 ^ 31)).st = .t3) (hnode : (s.pte (k / 2 ^ 31) (k % 2 ^ 31)).node = node)
    (hrec : (s.pte (k / 2 ^ 31) (k % 2 ^ 31)).recalling = true) (hmig : migOf s (k / 2 ^ 31) (k % 2 ^ 31) = none) :
    loseRecalled node s k = displaceAs s (k / 2 ^ 31) (k % 2 ^ 31) false := by
  simp only [loseRecalled, if_pos (And.intro hst (And.intro hnode hrec)), hmig]

theorem loseRecalled_gone (h : (s.pte (k / 2 ^ 31) (k % 2 ^ 31)).st ≠ .t3 ∨ (s.pte (k / 2 ^ 31) (k % 2 ^ 31)).node ≠ node ∨
    (s.pte (k / 2 ^ 31) (k % 2 ^ 31)).recalling = false) : loseRecalled node s k = s := by
  refine if_neg (fun ⟨hst, hnode, hrec⟩ => ?_)
  rcases h with h | h | h
  · exact h hst
  · exact h hnode
  · exact Bool.false_ne_true (h.symm.trans hrec)

end Deadline

/-! Recall at the lender (R103). -/

section Recall

variable {s : State} {node : Nat} {hs : List Nat}

theorem recallDue_length_le (s : State) (node : Nat) (hs : List Nat) : (recallDue s node hs).length ≤ s.fld R.PAGE_RECALL.RECALL_TRANCHE :=
  List.length_take_le _ _

theorem doRecall_none (h : recallDue s node hs = []) : doRecall node hs s = s := by
  simp only [doRecall, h, List.isEmpty_nil, if_true]

theorem doRecall_some (h : recallDue s node hs ≠ []) : doRecall node hs s =
    ({ s with pg := { s.pg with lent := s.pg.lent.map (fun (p : Nat × LentPage) =>
      (p.1, if (recallDue s node hs).contains p.1 then { p.2 with recalled := true } else p.2)) } } : State).emit
        (.recallNotice node (recallDue s node hs)) := by
  have hne : (recallDue s node hs).isEmpty = false := List.isEmpty_eq_false_iff.2 h
  simp only [doRecall, hne, Bool.false_eq_true, if_false]

/-! Pages freed at the lender (R92, R93, R103). -/

theorem freeLent_gone (s : State) (node : Nat) (hs : List Nat) : ∀ p ∈ (freeLent s node hs).pg.lent, ¬(p.2.page.node = node ∧ p.1 ∈ hs) := by
  intro p hp hmine
  have hkept := (List.mem_filter.1 hp).2
  simp [hmine.1, hmine.2] at hkept

theorem doRecallAck_pages (s : State) (node : Nat) (hs : List Nat) : doRecallAck node hs false s = freeLent s node hs := rfl

/-- The loan's end waits while a page of it is left. -/
theorem doRecallAck_left (h : ∃ p ∈ (freeLent s node hs).pg.lent, p.2.page.node = node) : doRecallAck node hs true s = freeLent s node hs := by
  have hany : (freeLent s node hs).pg.lent.any (fun p => p.2.page.node == node) = true := by
    obtain ⟨p, hp, hnode⟩ := h
    exact List.any_eq_true.2 ⟨p, hp, beq_iff_eq.2 hnode⟩
  simp only [doRecallAck, hany, Bool.not_true, Bool.and_false, Bool.false_eq_true, if_false]

theorem doRecallAck_ends (h : ∀ p ∈ (freeLent s node hs).pg.lent, p.2.page.node ≠ node) : doRecallAck node hs true s =
    (let u := freeLent s node hs
     { u with pg := { u.pg with lendings := Tab.del node u.pg.lendings, lentKeys := u.pg.lentKeys.filter (fun k => k / 64 ≠ node) } }) := by
  have hany : (freeLent s node hs).pg.lent.any (fun p => p.2.page.node == node) = false :=
    List.any_eq_false.2 (fun p hp => by simpa using h p hp)
  simp only [doRecallAck, hany, Bool.not_false, Bool.and_true, if_true]

end Recall

/-! What each command does while the module is on. -/

section Commands

variable {s : State} (hon : s.pow.st = .on)
include hon

theorem exec_lendingSetup_on (lender : Bool) (node gib : Nat) (t1 : Bool) (fns : List Nat) :
    exec (.lendingSetup lender node gib t1 fns) s = .next (finish (doLendingSetup lender node gib t1 fns s)) := act_on hon _

theorem exec_recallNotice_on (node : Nat) (hs : List Nat) (t : Nat) :
    exec (.recallNotice node hs t) s = .next (finish (doRecallNotice node hs t s)) := act_on hon _

theorem exec_recallDeadline_borrower (node t : Nat) : exec (.recallDeadline false node t) s = .next (finish (doRecallDeadline node t s)) :=
  act_on hon _

theorem exec_recallDeadline_lender (node t : Nat) : exec (.recallDeadline true node t) s =
    .next (finish (freeLent (atTime s t) node ((s.pg.lent.filter (fun p => p.2.recalled)).map (·.1)))) := act_on hon _

theorem exec_recall_on (node : Nat) (hs : List Nat) : exec (.recall node hs) s = .next (finish (doRecall node hs s)) := act_on hon _

theorem exec_recallAcknowledgement_on (node : Nat) (hs : List Nat) (last : Bool) :
    exec (.recallAcknowledgement node hs last) s = .next (finish (doRecallAck node hs last s)) := act_on hon _

theorem exec_lentPageRelease_on (node : Nat) (hs : List Nat) : exec (.lentPageRelease node hs) s = .next (finish (freeLent s node hs)) :=
  act_on hon _

theorem exec_borrowerFlrNotice_on (node fn : Nat) : exec (.borrowerFlrNotice node fn) s =
    .next (finish { s with pg := { s.pg with lentKeys := NSet.del (node * 64 + fn) s.pg.lentKeys } }) := act_on hon _

end Commands

/-- Settles O23, a clause a command and case. -/
theorem lendingCommands : Obligations.LendingCommands := by
  unfold Obligations.LendingCommands
  refine ⟨?setup, fun s node t hs hon => exec_recallNotice_on hon node hs t, ?due, ?one, fun s node t hon => exec_recallDeadline_lender hon node t,
    ?tranche, ?ack, fun s node fn hon => exec_borrowerFlrNotice_on hon node fn⟩
  case setup =>
    intro s node gib t1 fns hon keys
    rw [exec_lendingSetup_on hon, exec_lendingSetup_on hon]
    exact ⟨fun h => by rw [doLendingSetup_lends h]; rfl, fun h => by rw [doLendingSetup_refused h], fun h => by rw [doLendingSetup_offers h]⟩
  case due =>
    intro s node t hon u due v hnone
    rw [exec_recallDeadline_borrower hon, doRecallDeadline_none hnone]
    rfl
  case one =>
    intro s node t k r hon honly hnode hover hpages v e
    rw [exec_recallDeadline_borrower hon, doRecallDeadline_one honly hnode hover hpages]
    exact ⟨fun hst hn hrec hmig => by rw [loseRecalled_displaces hst hn hrec hmig], fun hgone => by rw [loseRecalled_gone hgone]⟩
  case tranche =>
    intro s node hs hon due mark
    rw [exec_recall_on hon]
    exact ⟨fun h => by rw [doRecall_none h], fun h => by rw [doRecall_some h], recallDue_length_le s node hs⟩
  case ack =>
    intro s node hs hon
    rw [exec_recallAcknowledgement_on hon, exec_recallAcknowledgement_on hon]
    exact ⟨rfl, ⟨fun h => by rw [doRecallAck_left h], fun h => by rw [doRecallAck_ends h]⟩, exec_lentPageRelease_on hon node hs, freeLent_gone s node hs⟩

end Sys2Proof.Machine

/-! PROOFS. Spans from the host: SPAN_CREATE, SPAN_FREE, SPAN_PROTECT, KV_WRITE, KV_COMMIT and KV_REWIND (R88, R91, R92, R96, R146, R209, R319). -/

namespace Sys2Proof.Machine

open Sys2Proof

/-! Descriptors and rights are the same with poisoned host bytes met (R198). -/

@[simp] theorem takeDesc_withTlp (l : List (Nat × Nat)) (s : State) (f r n op : Nat) : takeDesc (withTlp l s) f r n op = takeDesc s f r n op := rfl

@[simp] theorem spanFor_withTlp (l : List (Nat × Nat)) (s : State) (f n : Nat) : spanFor (withTlp l s) f n = spanFor s f n := rfl

/-- A span on which a function may act, with parameters in range. -/
theorem spanIf_ok {s : State} {f n : Nat} {x : Span} (h : spanFor s f n = .ok x) {p : Span → Bool} (hp : p x = true) : spanIf s f n p = .ok x := by
  simp only [spanIf, spanFor_span h, hp, Bool.true_eq_false, and_false, if_false, h]

/-! SPAN_CREATE (R88, R96). -/

/-- A span asked for begins OPEN and empty, and is the asking function's. -/
theorem parseSpan_fresh {f : Nat} {d : List Byte} {x : Span} (h : parseSpan f d = some x) :
    x.st = .open ∧ x.fn = f ∧ x.horizon = 0 ∧ x.appended = 0 ∧ x.gen = 0 := by
  unfold parseSpan at h
  dsimp only at h
  split at h
  · split_ifs at h
    cases h
    exact ⟨rfl, rfl, rfl, rfl, rfl⟩
  · cases h

section Create

variable {s : State} {f r n span base k a : Nat} {d : List Byte} {x : Span}

theorem doSpanCreate_makes (hd : takeDesc s f r n 0x08 = some d) (hx : parseSpan f d = some x)
    (hpin : x.pin = false ∨ pinnedOf s f + x.pages ≤ s.fld R.FN_PIN_BUDGET f) (hk : pickFree s.pg.spans 0 262144 span = some k)
    (ha : findExtent s (x.pages * 65536) base = some a) : doSpanCreate f r n span base s =
      complete (s.setSpan k { x with base := a, start := placementStart s }) f r n .ok 0 (leBytes 4 k ++ List.replicate 4 0#8 ++ leBytes 8 a) := by
  have hroom : (x.pin && decide (s.fld R.FN_PIN_BUDGET f < pinnedOf s f + x.pages)) = false := by
    rcases hpin with h | h
    · rw [h, Bool.false_and]
    · rw [decide_eq_false (Nat.not_lt.mpr h), Bool.and_false]
  simp only [doSpanCreate, hd, hx, hroom, Bool.false_eq_true, if_false, hk, ha]

end Create

/-! SPAN_FREE (R92). -/

/-- A span freed is gone. -/
theorem span?_freeSpan (s : State) (n : Nat) : (freeSpan s n).span? n = none := Tab.find?_del_same _ _

theorem doSpanFree_frees {s : State} {f r n : Nat} {d : List Byte} {x : Span} (hd : takeDesc s f r n 0x09 = some d)
    (hk : fieldAt d 8 4 < 2 ^ 18) (hz : zeroAt d 12 52 = true) (hx : s.span? (fieldAt d 8 4) = some x) (hst : x.st ≠ .freeing) (hfn : x.fn = f) :
    doSpanFree f r n s = complete (freeSpan s (fieldAt d 8 4)) f r n .ok := by
  have hgood : ¬(2 ^ 18 ≤ fieldAt d 8 4 ∨ (!zeroAt d 12 52) = true) := by
    rw [hz]
    exact not_or.2 ⟨Nat.not_le.mpr hk, Bool.false_ne_true⟩
  simp only [doSpanFree, hd, if_neg hgood, hx, if_neg hst, hfn, ne_eq, not_true_eq_false, if_false]

/-! SPAN_PROTECT (R319). -/

section Protect

variable {s : State} {f r n k : Nat} {mode : Prot} {d : List Byte} {x : Span}

/-- The members that a SPAN_PROTECT descriptor lists. -/
def protFields (d : List Byte) : List Nat := (List.range 9).map (fun i => fieldAt d (16 + 2 * i) 2)

theorem protWant_le (mode : Prot) : protWant mode ≤ 9 := by cases mode <;> decide

/-- The members named by the mode, and zeros behind them. -/
theorem protFields_good {want : Nat} (hwant : want ≤ 9) (hzero : ∀ i, want ≤ i → i < 9 → fieldAt d (16 + 2 * i) 2 = 0)
    (hnode : ∀ i, i < want → fieldAt d (16 + 2 * i) 2 < 32768) :
    ((protFields d).drop want).any (· != 0) = false ∧ (protFields d).any (fun m => 32768 ≤ m) = false ∧
      (protFields d).take want = (List.range want).map (fun i => fieldAt d (16 + 2 * i) 2) := by
  refine ⟨?_, ?_, ?_⟩
  · simp only [List.any_eq_false, protFields, ← List.map_drop, List.mem_map]
    rintro _ ⟨i, hi, rfl⟩
    obtain ⟨j, hj, rfl⟩ := List.mem_iff_getElem.1 hi
    simp only [List.length_drop, List.length_range] at hj
    simp [hzero (want + j) (by omega) (by omega)]
  · simp only [List.any_eq_false, protFields, List.mem_map, List.mem_range, decide_eq_true_eq]
    rintro _ ⟨i, hi, rfl⟩
    by_cases h : i < want
    · exact Nat.not_le.mpr (hnode i h)
    · rw [hzero i (Nat.not_lt.mp h) hi]
      decide
  · rw [protFields, ← List.map_take, List.take_range, Nat.min_eq_left hwant]

/-- The members that answer: those of the present mode when protection ends, else those named. -/
def protNamed (s : State) (k : Nat) (mode : Prot) (d : List Byte) : List Nat :=
  if mode = .none then (Tab.find? k s.pg.prot).getD [] else (List.range (protWant mode)).map (fun i => fieldAt d (16 + 2 * i) 2)

/-- The state in which every member has been asked and has agreed. -/
def protAgreed (s : State) (k : Nat) (mode : Prot) (x : Span) (named : List Nat) : State :=
  let u := (named.foldl (fun s m => s.emit (.protect m k (protWant mode) x.maxTokens x.layerSlots x.rowBytes)) s).setSpan k { x with prot := mode }
  { u with pg := { u.pg with prot := if mode = .none then Tab.del k u.pg.prot else Tab.ins k named u.pg.prot } }

theorem doSpanProtect_agreed (hd : takeDesc s f r n 0x0A = some d) (hfield : fieldAt d 8 4 = k) (hk : k < 2 ^ 18)
    (hmode : protOf (fieldAt d 12 1) = some mode) (hz13 : zeroAt d 13 1 = true) (hz34 : zeroAt d 34 30 = true)
    (hcount : fieldAt d 14 2 = protWant mode) (hzero : ∀ i, protWant mode ≤ i → i < 9 → fieldAt d (16 + 2 * i) 2 = 0)
    (hnode : ∀ i, i < protWant mode → fieldAt d (16 + 2 * i) 2 < 32768) (hspan : spanFor s f k = .ok x)
    (hchange : mode = .none ∨ x.prot = .none ∨ x.prot = mode) : doSpanProtect f r n 0 s =
      complete (sendRows (protAgreed s k mode x (protNamed s k mode d)) k 0 x.horizon (List.range x.layerSlots)) f r n .ok := by
  obtain ⟨hrest, hsmall, htake⟩ := protFields_good (protWant_le mode) hzero hnode
  have hgood : ¬(2 ^ 18 ≤ fieldAt d 8 4 ∨ (!zeroAt d 13 1) = true ∨ (!zeroAt d 34 30) = true ∨ fieldAt d 14 2 ≠ protWant mode ∨
      ((protFields d).drop (fieldAt d 14 2)).any (· != 0) = true ∨ (protFields d).any (fun m => 32768 ≤ m) = true) := by
    rw [hfield, hz13, hz34, hcount, hrest, hsmall]
    simpa using hk
  have hmay : ¬(mode ≠ .none ∧ x.prot ≠ .none ∧ x.prot ≠ mode) := by
    rintro ⟨h1, h2, h3⟩
    rcases hchange with h | h | h
    · exact h1 h
    · exact h2 h
    · exact h3 h
  have hanswer (l : List Nat) : (if l.isEmpty then Status.ok else protAnswer 0) = .ok := ite_self _
  unfold protFields at hgood htake
  simp only [doSpanProtect, hd, hmode]
  rw [if_neg hgood]
  simp only [hfield, hspan, if_neg hmay, hcount, htake, hanswer, ne_eq, not_true_eq_false, if_false]
  rfl

end Protect

/-! KV_WRITE (R209). -/

section Write

variable {s : State} {f r n k : Nat} {errs : Errs} {d : List Byte} {bs : List PByte} {x : Span}

/-- KV_WRITE with its fields in range, once its source has been read. -/
theorem doKvWrite_reads (hd : takeDesc s f r n 0x10 = some d) (hfield : fieldAt d 8 4 = k) (hk : k < 2 ^ 18) (hl : fieldAt d 12 2 < 2 ^ 9)
    (hsrc : fieldAt d 14 1 ≤ 2) (hz15 : zeroAt d 15 1 = true) (hz40 : zeroAt d 40 24 = true) (hspan : spanFor s f k = .ok x)
    (hok : kvWriteOk x d = true) (hread : hostReadP s f (fieldAt d 24 8) (fieldAt d 32 8) = some bs) : doKvWrite f r n errs s =
      if fieldAt d 14 1 = 2 then kvRestore f r n k x (errs.batts.map (·.2)) bs (errsOf f errs s)
      else kvWriteRows f r n k (fieldAt d 12 2) (fieldAt d 16 4) (fieldAt d 20 4) x (fieldAt d 14 1 = 1) bs
        ((kvWritePages x (fieldAt d 12 2) (fieldAt d 16 4) (fieldAt d 20 4)).foldl (fun s p => poisonBatts s k p (badOf errs.batts p))
          (errsOf f errs s)) := by
  have hgood : ¬(2 ^ 18 ≤ fieldAt d 8 4 ∨ 2 ^ 9 ≤ fieldAt d 12 2 ∨ 3 ≤ fieldAt d 14 1 ∨ (!zeroAt d 15 1) = true ∨ (!zeroAt d 40 24) = true) := by
    rw [hfield, hz15, hz40]
    simp only [Bool.not_true, Bool.false_eq_true, or_false]
    omega
  have hmay : spanIf s f k (fun x => kvWriteOk x d) = .ok x := spanIf_ok hspan hok
  simp only [doKvWrite, hd]
  rw [if_neg hgood]
  simp only [hfield, hmay, hread]

theorem kvWriteOk_rows (hsrc : fieldAt d 14 1 ≤ 1) (hl : fieldAt d 12 2 < x.layerSlots) (hrows : fieldAt d 16 4 ≤ fieldAt d 20 4)
    (hlast : fieldAt d 20 4 ≤ x.maxTokens)
    (hlen : fieldAt d 32 8 = (fieldAt d 20 4 - fieldAt d 16 4) * (if fieldAt d 14 1 = 0 then x.kvHeads * 8 * x.dim else x.rowBytes))
    (happ : x.appended = x.horizon) (hfirst : fieldAt d 16 4 ≤ x.horizon) (hscale : fieldAt d 14 1 = 0 ∨ x.fmt = .bf16 ∨ x.fixedScale = true) :
    kvWriteOk x d = true := by
  have hne : fieldAt d 14 1 ≠ 2 := by omega
  rw [kvWriteOk, if_neg hne]
  simp only [hl, hrows, hlast, hlen, happ, hfirst, decide_true, beq_self_eq_true, Bool.true_and, Bool.and_true, Bool.or_eq_true, beq_iff_eq,
    or_assoc]
  exact hscale

theorem kvWriteOk_archive (hsrc : fieldAt d 14 1 = 2) (hfirst : fieldAt d 16 4 = 0) (hlast : fieldAt d 20 4 = 0) : kvWriteOk x d = true := by
  rw [kvWriteOk, if_pos hsrc, hfirst, hlast]
  rfl

end Write

/-! KV_COMMIT and KV_REWIND (R146). -/

section Counters

variable {s : State} {f r n k m op : Nat} {d : List Byte} {x : Span}

theorem doCounterOp_applies (apply : State → Nat → Span → Nat → State × Status) (hd : takeDesc s f r n op = some d) (hfield : fieldAt d 8 4 = k)
    (hk : k < 2 ^ 18) (hcount : fieldAt d 12 4 = m) (hm : m < 2 ^ 23) (hz : zeroAt d 16 48 = true) (hspan : spanFor s f k = .ok x) :
    doCounterOp f r n op apply s =
      complete (apply s k x m).1 f r n (apply s k x m).2 0 (counterResult (apply s k x m).1 k) := by
  have hgood : ¬(2 ^ 18 ≤ fieldAt d 8 4 ∨ 2 ^ 23 ≤ fieldAt d 12 4 ∨ (!zeroAt d 16 48) = true) := by
    rw [hfield, hcount, hz]
    simp only [Bool.not_true, Bool.false_eq_true, or_false]
    omega
  simp only [doCounterOp, hd]
  rw [if_neg hgood]
  simp only [hfield, hcount, hspan]

theorem kvCommitTo_raises (hlo : x.horizon < m) (hhi : m ≤ x.appended) : kvCommitTo s k x m = (commitTo s k x m, .ok) := by
  rw [kvCommitTo, if_neg (Nat.not_lt.mpr hhi), if_neg (Nat.not_le.mpr hlo)]

/-- When a rewind is applied: at once, or 16 ns after the span's last. -/
def rewindAt (s : State) (x : Span) : Nat :=
  match x.lastRewind with
  | some t => max s.now (t + 16)
  | none => s.now

theorem now_le_rewindAt (s : State) (x : Span) : s.now ≤ rewindAt s x := by
  unfold rewindAt
  split
  · exact Nat.le_max_left _ _
  · exact Nat.le_refl _

theorem lastRewind_le_rewindAt (s : State) {x : Span} {t : Nat} (h : x.lastRewind = some t) : t + 16 ≤ rewindAt s x := by
  simp only [rewindAt, h]
  exact Nat.le_max_right _ _

theorem kvRewindTo_lowers (hlo : x.horizon ≤ m) (hhi : m ≤ x.appended) : kvRewindTo s k x m =
    (setCounters s k { x with appended := m, gen := (x.gen + 1) % 2 ^ 32, lastRewind := some (rewindAt s x) }, .ok) :=
  if_neg (not_or.2 ⟨Nat.not_lt.mpr hlo, Nat.not_lt.mpr hhi⟩)

end Counters

/-! What each command does while the module is on. -/

section Commands

variable {s : State} (hon : s.pow.st = .on) (f r n : Nat)
include hon

theorem exec_spanCreate_on (span base : Nat) : exec (.spanCreate f r n span base) s = .next (finish (doSpanCreate f r n span base s)) :=
  act_on hon _

theorem exec_spanFree_on : exec (.spanFree f r n) s = .next (finish (doSpanFree f r n s)) := act_on hon _

theorem exec_spanProtect_on (answer : Nat) : exec (.spanProtect f r n answer) s = .next (finish (doSpanProtect f r n answer s)) := act_on hon _

theorem exec_kvWrite_on (errs : Errs) : exec (.kvWrite f r n errs) s = .next (finish (doKvWrite f r n errs (withTlp errs.host s))) := act_on hon _

theorem exec_kvCommit_on : exec (.kvCommit f r n) s = .next (finish (doCounterOp f r n 0x11 kvCommitTo s)) := act_on hon _

theorem exec_kvRewind_on : exec (.kvRewind f r n) s = .next (finish (doCounterOp f r n 0x12 kvRewindTo s)) := act_on hon _

end Commands

/-- Settles O4, a clause a command. -/
theorem spansFromTheHost : Obligations.SpansFromTheHost := by
  unfold Obligations.SpansFromTheHost
  refine ⟨?create, ?free, ?protect, ?rows, ?archive, ?commit, ?rewind⟩
  case create =>
    intro s f r n span base k a d x hon hd hx hpin hk ha
    refine ⟨?_, parseSpan_fresh hx⟩
    rw [exec_spanCreate_on hon, doSpanCreate_makes hd hx hpin hk ha]
  case free =>
    intro s f r n d x hon hd hk hz hx hst hfn
    refine ⟨?_, span?_freeSpan s _⟩
    rw [exec_spanFree_on hon, doSpanFree_frees hd hk hz hx hst hfn]
  case protect =>
    intro s f r n k want mode d x hon hd hfield hk hmode hz13 hz34 hcount hwant hzero hnode hspan hchange
    subst hwant
    dsimp only
    rw [exec_spanProtect_on hon, doSpanProtect_agreed hd hfield hk hmode hz13 hz34 hcount hzero hnode hspan hchange]
    rfl
  case rows =>
    intro s f r n k l first last errs d bs x hon hd hfield hk hl hlt hsrc hz15 hz40 hfirst hlast hspan hslot hrows hmax hlen happ hhor hscale hread u
    subst hl hfirst hlast
    rw [exec_kvWrite_on hon, doKvWrite_reads (s := withTlp errs.host s) hd hfield hk hlt (by omega) hz15 hz40 hspan
      (kvWriteOk_rows hsrc hslot hrows hmax hlen happ hhor hscale) hread, if_neg (by omega)]
  case archive =>
    intro s f r n k errs d bs x hon hd hfield hk hl hsrc hz15 hz40 hfirst hlast hspan hread
    rw [exec_kvWrite_on hon, doKvWrite_reads (s := withTlp errs.host s) hd hfield hk hl hsrc.le hz15 hz40 hspan
      (kvWriteOk_archive hsrc hfirst hlast) hread, if_pos hsrc]
  case commit =>
    intro s f r n k m d x hon hd hfield hk hcount hm hz hspan hlo hhi
    rw [exec_kvCommit_on hon, doCounterOp_applies kvCommitTo hd hfield hk hcount hm hz hspan, kvCommitTo_raises hlo hhi]
  case rewind =>
    intro s f r n k m d x hon hd hfield hk hcount hm hz hspan hlo hhi
    refine ⟨rewindAt s x, now_le_rewindAt s x, fun t ht => lastRewind_le_rewindAt s ht, ?_⟩
    rw [exec_kvRewind_on hon, doCounterOp_applies kvRewindTo hd hfield hk hcount hm hz hspan, kvRewindTo_lowers hlo hhi]

end Sys2Proof.Machine

/-! PROOFS. COPY, SEND and bulk copy lists (R91, R201, R211, R213, R263 to R265, R279). -/

namespace Sys2Proof.Machine

open Sys2Proof

/-! The sides of a COPY, and what may be done with them, with poisoned host bytes met or not (R198). -/

theorem sideOf_host {a : Nat} (h : bitAt a 63 = false) : sideOf a false = .host a := by
  simp only [sideOf, h, Bool.false_eq_true, if_false]

theorem sideOf_local {a : Nat} (h : bitAt a 63 = false) : sideOf a true = .local_ a := by
  simp only [sideOf, h, Bool.false_eq_true, if_false, if_true]

theorem sideOf_fabric {a : Nat} (h : bitAt a 63 = true) (l : Bool) : sideOf a l = .fabric (a / 2 ^ 48 % 2 ^ 15) (a % 2 ^ 48) := if_pos h

/-- The check of KV space reads the span table alone. -/
theorem kvCheck_withTlp (l : List (Nat × Nat)) (s : State) (f : Nat) : ∀ k a n, kvCheck (withTlp l s) f k a n = kvCheck s f k a n
  | 0, _, _ => rfl
  | k + 1, a, n => by
    have hspan : spanOfAddr (withTlp l s) a = spanOfAddr s a := rfl
    simp only [kvCheck, hspan, kvCheck_withTlp l s f k]

theorem localCheck_withTlp (l : List (Nat × Nat)) (s : State) (f a n : Nat) (w : Bool) :
    localCheck (withTlp l s) f a n w = localCheck s f a n w := by
  unfold localCheck
  rw [kvCheck_withTlp]
  rfl

theorem sideCheck_withTlp (l : List (Nat × Nat)) (s : State) (f : Nat) (x : Side) (n : Nat) (w : Bool) :
    sideCheck (withTlp l s) f x n w = sideCheck s f x n w := by
  cases x with
  | host a => rfl
  | local_ a =>
    simp only [sideCheck, localCheck_withTlp]
    rfl
  | fabric m a => rfl

theorem worse_ok {a b : Status} (ha : a = .ok) (hb : b = .ok) : a.worse b = .ok := by
  rw [ha, hb]
  rfl

/-- A copy descriptor that may start, with its fields in range. -/
structure GoodCopy (s : State) (f r n : Nat) (d : List Byte) (fl a b len : Nat) : Prop where
  taken : takeDesc s f r n 0x28 = some d
  idle : descWork s f r n = false
  bytes : fieldAt d 24 8 = len
  pos : 0 < len
  bound : len ≤ 2 ^ 40
  flags : fieldAt d 32 1 = fl
  known : fl < 4
  reserved : zeroAt d 33 31 = true
  src : fieldAt d 8 8 = a
  dst : fieldAt d 16 8 = b

section Sides

variable {s : State} {f r n a b len : Nat} {d : List Byte} {errs : Errs}

theorem GoodCopy.inRange {fl : Nat} (g : GoodCopy s f r n d fl a b len) :
    ¬(len = 0 ∨ 2 ^ 40 < len ∨ 4 ≤ fl ∨ (!zeroAt d 33 31) = true) := by
  rw [g.reserved]
  rintro (h | h | h | h)
  · exact Nat.ne_of_gt g.pos h
  · exact Nat.not_lt.mpr g.bound h
  · exact Nat.not_le.mpr g.known h
  · exact Bool.false_ne_true h

/-- FLAGS 2: from host memory to local memory. -/
theorem doCopy_hostLocal (g : GoodCopy s f r n d 2 a b len) (ha : bitAt a 63 = false) (hb : bitAt b 63 = false) :
    doCopy f r n errs s = copyHere s f r n (.host a) (.local_ b) len errs := by
  have hsrc : sideOf a (bitAt 2 0) = .host a := sideOf_host ha
  have hdst : sideOf b (bitAt 2 1) = .local_ b := sideOf_local hb
  simp only [doCopy, g.taken, g.idle, g.bytes, g.flags, g.src, g.dst, if_neg g.inRange, hsrc, hdst]

/-- FLAGS 1: from local memory to host memory. -/
theorem doCopy_localHost (g : GoodCopy s f r n d 1 a b len) (ha : bitAt a 63 = false) (hb : bitAt b 63 = false) :
    doCopy f r n errs s = copyHere s f r n (.local_ a) (.host b) len errs := by
  have hsrc : sideOf a (bitAt 1 0) = .local_ a := sideOf_local ha
  have hdst : sideOf b (bitAt 1 1) = .host b := sideOf_host hb
  simp only [doCopy, g.taken, g.idle, g.bytes, g.flags, g.src, g.dst, if_neg g.inRange, hsrc, hdst]

/-- From a node to local memory. -/
theorem doCopy_fabricLocal (g : GoodCopy s f r n d 2 a b len) (ha : bitAt a 63 = true) (hb : bitAt b 63 = false) :
    doCopy f r n errs s = copyIn s f r n (a / 2 ^ 48 % 2 ^ 15) (a % 2 ^ 48) (.local_ b) len := by
  have hsrc := sideOf_fabric ha (bitAt 2 0)
  have hdst : sideOf b (bitAt 2 1) = .local_ b := sideOf_local hb
  simp only [doCopy, g.taken, g.idle, g.bytes, g.flags, g.src, g.dst, if_neg g.inRange, hsrc, hdst]

/-- From local memory to a node. -/
theorem doCopy_localFabric (g : GoodCopy s f r n d 1 a b len) (ha : bitAt a 63 = false) (hb : bitAt b 63 = true) :
    doCopy f r n errs s = copyOut s f r n (.local_ a) (b / 2 ^ 48 % 2 ^ 15) (b % 2 ^ 48) len errs := by
  have hsrc : sideOf a (bitAt 1 0) = .local_ a := sideOf_local ha
  have hdst := sideOf_fabric hb (bitAt 1 1)
  simp only [doCopy, g.taken, g.idle, g.bytes, g.flags, g.src, g.dst, if_neg g.inRange, hsrc, hdst]

end Sides

/-! Copies on this module (R211). -/

section Here

variable {s t : State} {f r n len node a : Nat} {src dst : Side} {errs : Errs} {st : Status} {bs : List PByte}

theorem copyHere_barred (h : (sideCheck s f src len false).worse (sideCheck s f dst len true) = st) (hst : st ≠ .ok) :
    copyHere s f r n src dst len errs = complete s f r n st 0 (copyResult 0) := by
  unfold copyHere
  rw [h]
  split
  · exact absurd rfl hst
  · rfl

theorem copyHere_copies (hsrc : sideCheck s f src len false = .ok) (hdst : sideCheck s f dst len true = .ok)
    (hread : copySource (errsOf f errs (endWait s (.desc f r n))) errs.batts f src len = some (bs, t, st)) (hne : bs ≠ []) :
    copyHere s f r n src dst len errs =
      complete (copyDest t f dst len bs).2.1 f r n (st.worse (copyDest t f dst len bs).2.2) 0 (copyResult (copyDest t f dst len bs).1) := by
  have hsome : bs.isEmpty = false := List.isEmpty_eq_false_iff.2 hne
  simp only [copyHere, worse_ok hsrc hdst, hread, hsome, Bool.false_eq_true, if_false]

theorem copyOut_barred (h : (sideCheck s f src len false).worse (fabricCheck s f node a len .write) = st) (hst : st ≠ .ok) :
    copyOut s f r n src node a len errs = complete s f r n st 0 (copyResult 0) := by
  unfold copyOut
  rw [h]
  split
  · exact absurd rfl hst
  · rfl

/-- A copy to a node posts its WRITE packets (R263). -/
theorem copyOut_posts (hsrc : sideCheck s f src len false = .ok) (hdst : fabricCheck s f node a len .write = .ok)
    (hread : copySource (errsOf f errs (endWait s (.desc f r n))) errs.batts f src len = some (bs, t, st)) (hlen : len ≤ bs.length) :
    copyOut s f r n src node a len errs =
      (let ps := (cutPieces bs).map (fun p => (p.1, flowPkt t 1 node (a + p.1) (rawBytes p.2) (anyPsn p.2)))
       let w := newWork (markStarted t f r n) ⟨.desc f r n, 0, f, 1, ps.length, st, false, 0, [], 0⟩
       post w.2 (.flow node) w.1 ps) := by
  simp only [copyOut, worse_ok hsrc hdst, hread, if_neg (Nat.not_lt.mpr hlen)]

/-- A copy from a node posts its reads (R263). -/
theorem copyIn_posts {b : Nat} (hsrc : fabricCheck s f node a len .read = .ok) (hdst : localCheck s f b len true = .ok) :
    copyIn s f r n node a (.local_ b) len =
      (let ps := (cutLens len).map (fun p => (p.1, flowPkt s 3 node (a + p.1) (leBytes 4 p.2) false))
       let w := newWork (markStarted s f r n) ⟨.desc f r n, 0, f, 1, ps.length, .ok, false, b, [], 0⟩
       post w.2 (.flow node) w.1 ps) := by
  have hside : sideCheck s f (.local_ b) len true = .ok := by
    simpa only [sideCheck, Bool.not_true, Bool.false_eq_true, false_and, and_false, if_false] using hdst
  simp only [copyIn, worse_ok hsrc hside]

theorem copySource_host {bad : List (Nat × Nat × Byte)} (h : hostReadP s f a len = some bs) :
    copySource s bad f (.host a) len = some (bs, s, psnStatus (anyPsn bs)) := by
  simp only [copySource, h]

/-- Local memory outside the system area is read at once. -/
theorem copySource_mem {bad : List (Nat × Nat × Byte)} (hsys : inSystem s a len = false) (hmay : localCheck s f a len false = .ok)
    (hcl : addrClass a = .t1 ∨ addrClass a = .t2) :
    copySource s bad f (.local_ a) len = some ((preadCtl s a len).1, (preadCtl s a len).2, psnStatus (anyPsn (preadCtl s a len).1)) := by
  simp only [copySource, hsys, Bool.false_eq_true, and_false, if_false, hmay, localRead_mem bad len hcl]

/-- The end of a wait bars no access to T1 and T2. -/
theorem localCheck_endWait (w : Who) (hcl : addrClass a = .t1 ∨ addrClass a = .t2) (wr : Bool) :
    localCheck (endWait s w) f a len wr = localCheck s f a len wr := by
  unfold localCheck
  rcases hcl with h | h
  all_goals
    rw [h]
    rfl

theorem sideCheck_host_read (h : sideCheck s f (.host a) len false = .ok) : (hostUp s f && winOk s f a len false) = true := by
  by_contra hno
  rw [sideCheck, if_neg hno] at h
  cases h

end Here

theorem ne_nil_of_length_eq {α : Type} {l : List α} {n : Nat} (h : l.length = n) (hn : 0 < n) : l ≠ [] :=
  List.length_pos_iff.1 (h ▸ hn)

/-! SEND (R263, R264, R279). -/

/-- The packets of an op with some posted. -/
theorem sendPkts_posts {s : State} {k : OpCtx} {node : Nat} {st : Status} {ps : List (Nat × Pkt)} (h : ps ≠ []) : sendPkts s k node st ps =
    (let w := newWork s ⟨.ctx k.h, k.idx, k.c.fn, 2, ps.length, st, false, 0, [], 0⟩
     .wait (post w.2 (.flow node) w.1 ps)) := by
  have hsome : ps.isEmpty = false := List.isEmpty_eq_false_iff.2 h
  simp only [sendPkts, hsome, Bool.false_eq_true, if_false]

theorem withCadd_ne {cadd : Bool} {counter : Nat} {ps : List (Nat × Pkt)} (h : ps ≠ []) : withCadd cadd counter ps ≠ [] := by
  unfold withCadd
  split
  · split_ifs
    · simp
    · exact h
  · rename_i hnil
    exact absurd (List.reverse_eq_nil_iff.1 hnil) h

section Send

variable {v : State} {k : OpCtx} {remote act : Nat} {tab : Nat × Nat} (hidle : workOf v k.h k.idx = false)
include hidle

theorem sendOp_empty (h : k.o.arg2 = 0) : sendOp remote act tab k v = .done v .ok 0 := by
  simp only [sendOp, hidle, Bool.false_eq_true, if_false, h, if_true]

variable {l : Loc} (hsome : k.o.arg2 ≠ 0) (hl : operand v k k.o.src0 k.anyTile 0 k.o.arg2 false = some l)
include hsome hl

theorem sendOp_barred {st : Status} (hq : queueAt remote = none)
    (h : fabricCheck v k.c.fn (k.o.arg0 % 2 ^ 15) remote (sendBody v k act tab (locRead v k.h l k.o.arg2).1).length .write = st) (hst : st ≠ .ok) :
    sendOp remote act tab k v = .done v st 0 := by
  simp only [sendOp, hidle, Bool.false_eq_true, if_false, if_neg hsome, hl, hq, Option.isSome_none, h]

theorem sendOp_memory (hq : queueAt remote = none)
    (h : fabricCheck v k.c.fn (k.o.arg0 % 2 ^ 15) remote (sendBody v k act tab (locRead v k.h l k.o.arg2).1).length .write = .ok)
    (hne : sendBody v k act tab (locRead v k.h l k.o.arg2).1 ≠ []) : sendOp remote act tab k v =
      (let x := locRead v k.h l k.o.arg2
       let ps := withCadd (k.o.varBit 1) k.o.aux ((cutPieces (sendBody v k act tab x.1)).map (fun p => (p.1,
         { flowPkt x.2 1 (k.o.arg0 % 2 ^ 15) (remote + p.1) (rawBytes p.2) (anyPsn p.2) with combine := k.o.varBit 0 })))
       let w := newWork x.2 ⟨.ctx k.h, k.idx, k.c.fn, 2, ps.length, psnStatus (anyPsn x.1), false, 0, [], 0⟩
       .wait (post w.2 (.flow (k.o.arg0 % 2 ^ 15)) w.1 ps)) := by
  simp only [sendOp, hidle, Bool.false_eq_true, if_false, if_neg hsome, hl, hq, Option.isSome_none, h]
  exact sendPkts_posts (withCadd_ne (mt List.map_eq_nil_iff.1 (cutPieces_ne hne)))

theorem sendOp_queue {qn : Nat} (hq : queueAt remote = some qn) (h : fabricCheck v k.c.fn (k.o.arg0 % 2 ^ 15) remote 16 .write = .ok)
    (hne : groupRecords (k.o.varBit 0) (splitRecords (k.o.arg2 + 1) (rawBytes (locRead v k.h l k.o.arg2).1)) ≠ []) : sendOp remote act tab k v =
      (let x := locRead v k.h l k.o.arg2
       let ps := (groupRecords (k.o.varBit 0) (splitRecords (k.o.arg2 + 1) (rawBytes x.1))).map (fun g => (0,
         { flowPkt x.2 7 (k.o.arg0 % 2 ^ 15) remote g (anyPsn x.1) with combine := k.o.varBit 0 }))
       let w := newWork x.2 ⟨.ctx k.h, k.idx, k.c.fn, 2, ps.length, psnStatus (anyPsn x.1), false, 0, [], 0⟩
       .wait (post w.2 (.flow (k.o.arg0 % 2 ^ 15)) w.1 ps)) := by
  simp only [sendOp, hidle, Bool.false_eq_true, if_false, if_neg hsome, hl, hq, Option.isSome_some, if_true, h]
  exact sendPkts_posts (mt List.map_eq_nil_iff.1 hne)

end Send

/-! Bulk copy lists (R265). -/

section BulkList

variable {v t u y : State} {k : OpCtx} {bad : List (Nat × Nat × Byte)} {l m : Loc} {hb lb : List PByte} {cnt node c : Nat} {ps : List (Nat × Pkt)} {st : Status}
  (hidle : workOf v k.h k.idx = false) (hl : operand v k k.o.src0 k.anyTile 0 32 false = some l) (hhead : locRead v k.h l 32 = (hb, t))
include hidle hl hhead

theorem listOp_poison (hp : anyPsn hb = true) : listOp bad k v = .done v .poison 0 := by
  simp only [listOp, hidle, Bool.false_eq_true, if_false, hl, hhead, hp, if_true]

theorem listOp_posts (hclean : anyPsn hb = false) (hcnt : fieldAt (rawBytes hb) 0 2 = cnt) (hnode : fieldAt (rawBytes hb) 2 2 = node)
    (hc : fieldAt (rawBytes hb) 4 4 = c) (hlo : 1 ≤ cnt) (hhi : cnt ≤ 16) (hto : node < 32768) (hbits : bits c 30 17 = 0)
    (hz : zeroAt (rawBytes hb) 8 24 = true) (hm : operand v k k.o.src0 k.anyTile 32 (24 * cnt) false = some m)
    (hlist : locRead t k.h m (24 * cnt) = (lb, u)) (hgood : anyPsn lb = false)
    (hps : listPkts bad k.c.fn node (segmentsOf (rawBytes lb) cnt) (endWait u (.ctx k.h)) = some (.ok ps, y, st)) (hne : ps ≠ []) :
    listOp bad k v =
      (let qs := withCadd (bitAt c 31) (c % 2 ^ 17) ps
       let w := newWork y ⟨.ctx k.h, k.idx, k.c.fn, 2, qs.length, st, false, 0, [], 0⟩
       .wait (post w.2 (.flow node) w.1 qs)) := by
  have hrange : ¬(cnt = 0 ∨ 16 < cnt ∨ 32768 ≤ node ∨ bits c 30 17 ≠ 0 ∨ (!zeroAt (rawBytes hb) 8 24) = true) := by
    rw [hz, hbits]
    simp only [Bool.not_true, Bool.false_eq_true, ne_eq, not_true_eq_false, or_false]
    omega
  simp only [listOp, hidle, Bool.false_eq_true, if_false, hl, hhead, hclean, hcnt, hnode, hc]
  rw [if_neg hrange]
  simp only [hm, hlist, hgood, Bool.false_eq_true, if_false, hps]
  exact sendPkts_posts (withCadd_ne hne)

end BulkList

theorem segmentsOf_ne (b : List Byte) {n : Nat} (h : 1 ≤ n) : segmentsOf b n ≠ [] := ne_nil_of_length_eq (by simp [segmentsOf]) h

/-! What each command does while the module is on. -/

theorem exec_copy_on {s : State} (hon : s.pow.st = .on) (f r n : Nat) (errs : Errs) :
    exec (.copy f r n errs) s = .next (finish (doCopy f r n errs (withTlp errs.host s))) := act_on hon _

section Ops

variable {s u v : State} {k : OpCtx} {errs : Errs} {st : Status} {n : Nat} (hon : s.pow.st = .on)
include hon

/-- SEND, from what it does in the state that the storage errors it meets leave. -/
theorem exec_send_done (i : Issues s (fun o => o.opcode == 0x12 && !o.varBit 2) k) {remote act tab gen : Nat}
    (h : sendOp remote act (tab, gen) k (errsMet k errs (issued s k)) = .done u st n) :
    exec (.send k.h remote act tab gen errs) s = .next (finish (retire (t0Fails errs.t0 (issued s k) u) k.h k.idx st n)) :=
  issued_retires hon i (readErrs_done h)

theorem exec_send_wait (i : Issues s (fun o => o.opcode == 0x12 && !o.varBit 2) k) {remote act tab gen : Nat}
    (h : sendOp remote act (tab, gen) k (errsMet k errs (issued s k)) = .wait u) :
    exec (.send k.h remote act tab gen errs) s = .next (finish (holdCtx (t0Fails errs.t0 (issued s k) u) k.h)) :=
  issued_waits hon i (readErrs_wait h)

theorem exec_bulkCopyList_done (i : Issues s (fun o => o.opcode == 0x12 && o.varBit 2) k)
    (h : listOp errs.batts k (errsMet k errs (issued s k)) = .done u st n) :
    exec (.bulkCopyList k.h errs) s = .next (finish (retire (t0Fails errs.t0 (issued s k) u) k.h k.idx st n)) :=
  issued_retires hon i (readErrs_done h)

theorem exec_bulkCopyList_wait (i : Issues s (fun o => o.opcode == 0x12 && o.varBit 2) k)
    (h : listOp errs.batts k (errsMet k errs (issued s k)) = .wait u) :
    exec (.bulkCopyList k.h errs) s = .next (finish (holdCtx (t0Fails errs.t0 (issued s k) u) k.h)) :=
  issued_waits hon i (readErrs_wait h)

end Ops

/-- Settles O8, a clause a command and case. -/
theorem copiesAndSends : Obligations.CopiesAndSends := by
  unfold Obligations.CopiesAndSends
  refine ⟨?hostLocal, ?hostLocalReads, ?localHost, ?localHostReads, ?barred, ?copyIn, ?copyOut, ?copyOutBarred, ?sendEmpty, ?sendBarred,
    ?sendMemory, ?sendQueue, ?listPoison, ?listPosts, ?listReads⟩
  case hostLocal =>
    intro s f r n a b len errs d bs hon hd hidle hbytes hpos hbound hflags hz hsrc hdst ha hb hmayRead hmayWrite u hread w
    rw [← sideCheck_withTlp errs.host] at hmayRead hmayWrite
    have g : GoodCopy (withTlp errs.host s) f r n d 2 a b len := ⟨hd, hidle, hbytes, hpos, hbound, hflags, by decide, hz, hsrc, hdst⟩
    rw [exec_copy_on hon, doCopy_hostLocal g ha hb, copyHere_copies hmayRead hmayWrite (copySource_host hread)
      (ne_nil_of_length_eq (hostReadP_length hread) hpos)]
    rfl
  case hostLocalReads =>
    intro s f r n a b len tlp d hon hd hidle hbytes hpos hbound hflags hz hsrc hdst ha hb hmayRead hmayWrite u
    rw [← sideCheck_withTlp tlp] at hmayRead hmayWrite
    have g : GoodCopy (withTlp tlp s) f r n d 2 a b len := ⟨hd, hidle, hbytes, hpos, hbound, hflags, by decide, hz, hsrc, hdst⟩
    obtain ⟨bs, hread⟩ := hostReadP_some (s := u) (sideCheck_host_read hmayRead)
    refine ⟨bs, hread, ?_⟩
    rw [exec_copy_on hon, doCopy_hostLocal g ha hb, copyHere_copies (errs := { noErrs with host := tlp }) hmayRead hmayWrite (copySource_host hread)
      (ne_nil_of_length_eq (hostReadP_length hread) hpos)]
    rfl
  case localHost =>
    intro s t f r n a b len errs d bs st hon hd hidle hbytes hpos hbound hflags hz hsrc hdst ha hb hmayRead hmayWrite hread hne w
    rw [← sideCheck_withTlp errs.host] at hmayRead hmayWrite
    have g : GoodCopy (withTlp errs.host s) f r n d 1 a b len := ⟨hd, hidle, hbytes, hpos, hbound, hflags, by decide, hz, hsrc, hdst⟩
    rw [exec_copy_on hon, doCopy_localHost g ha hb, copyHere_copies hmayRead hmayWrite hread hne]
    rfl
  case localHostReads =>
    intro s f r n a b len tlp d hon hd hidle hbytes hpos hbound hflags hz hsrc hdst ha hb hmay hsys hcl hup hwin u bs w
    have g : GoodCopy (withTlp tlp s) f r n d 1 a b len := ⟨hd, hidle, hbytes, hpos, hbound, hflags, by decide, hz, hsrc, hdst⟩
    have hmayTlp := (localCheck_withTlp tlp s f a len false).trans hmay
    have hread := copySource_mem (s := u) (bad := []) hsys ((localCheck_endWait _ hcl false).trans hmayTlp) hcl
    have hmayRead : sideCheck (withTlp tlp s) f (.local_ a) len false = .ok := ite_eq_left_iff.2 (fun _ => hmayTlp)
    have hmayWrite : sideCheck (withTlp tlp s) f (.host b) len true = .ok := by
      rw [sideCheck_withTlp]
      exact if_pos (Bool.and_eq_true_iff.2 ⟨hup, hwin⟩)
    rw [exec_copy_on hon, doCopy_localHost g ha hb, copyHere_copies (errs := { noErrs with host := tlp }) hmayRead hmayWrite hread
      (ne_nil_of_length_eq (preadCtl_length _ _ _) hpos)]
    rfl
  case barred =>
    intro s f r n a b len errs d st hon hd hidle hbytes hpos hbound hflags hz hsrc hdst ha hb hst hne
    rw [← sideCheck_withTlp errs.host, ← sideCheck_withTlp errs.host] at hst
    have g : GoodCopy (withTlp errs.host s) f r n d 2 a b len := ⟨hd, hidle, hbytes, hpos, hbound, hflags, by decide, hz, hsrc, hdst⟩
    rw [exec_copy_on hon, doCopy_hostLocal g ha hb, copyHere_barred hst hne]
    rfl
  case copyIn =>
    intro s f r n a len errs d hon hd hidle hbytes hpos hbound hflags hz hsrc ha hb hmayRead hmayWrite u ps w
    rw [← localCheck_withTlp errs.host] at hmayWrite
    have g : GoodCopy (withTlp errs.host s) f r n d 2 a _ len := ⟨hd, hidle, hbytes, hpos, hbound, hflags, by decide, hz, hsrc, rfl⟩
    rw [exec_copy_on hon, doCopy_fabricLocal g ha hb, copyIn_posts (s := withTlp errs.host s) hmayRead hmayWrite]
  case copyOut =>
    intro s t f r n a b len errs d bs st hon hd hidle hbytes hpos hbound hflags hz hsrc ha hdst hb hmayRead hmayWrite hread hlen ps w
    rw [← sideCheck_withTlp errs.host] at hmayRead
    have g : GoodCopy (withTlp errs.host s) f r n d 1 a b len := ⟨hd, hidle, hbytes, hpos, hbound, hflags, by decide, hz, hsrc, hdst⟩
    rw [exec_copy_on hon, doCopy_localFabric g ha hb, copyOut_posts hmayRead hmayWrite hread hlen]
  case copyOutBarred =>
    intro s f r n b len errs d hon hd hidle hbytes hpos hbound hflags hz ha hdst hb st hne
    have hst := congrArg (·.worse (fabricCheck s f (b / 2 ^ 48 % 2 ^ 15) (b % 2 ^ 48) len .write))
      (sideCheck_withTlp errs.host s f (.local_ (fieldAt d 8 8)) len false)
    have g : GoodCopy (withTlp errs.host s) f r n d 1 _ b len := ⟨hd, hidle, hbytes, hpos, hbound, hflags, by decide, hz, rfl, hdst⟩
    rw [exec_copy_on hon, doCopy_localFabric g ha hb, copyOut_barred hst hne]
    rfl
  case sendEmpty => exact fun s k remote act tab gen errs hon i hidle h0 => exec_send_done hon i (sendOp_empty hidle h0)
  case sendBarred =>
    exact fun s k remote act tab gen errs l st hon i hidle hsome hl hq h hst => exec_send_done hon i (sendOp_barred hidle hsome hl hq h hst)
  case sendMemory =>
    exact fun s k remote act tab gen errs l hon i hidle hsome hl hq h hne => exec_send_wait hon i (sendOp_memory hidle hsome hl hq h hne)
  case sendQueue =>
    intro s k remote qn act tab gen errs l hon i v hidle hsome hl hq h x ps hne w
    exact exec_send_wait hon i (sendOp_queue hidle hsome hl hq h (mt List.map_eq_nil_iff.2 hne))
  case listPoison =>
    exact fun s k errs l hon i hidle hl hp => exec_bulkCopyList_done hon i (listOp_poison hidle hl rfl hp)
  case listPosts =>
    intro s t u k errs l m hb lb cnt node c ps y st hon i v hidle hl hhead hclean hcnt hnode hc hlo hhi hto hbits hz hm hlist hgood hps hne qs w
    exact exec_bulkCopyList_wait hon i (listOp_posts hidle hl hhead hclean hcnt hnode hc hlo hhi hto hbits hz hm hlist hgood hps hne)
  case listReads =>
    intro s k l m cnt node c hon i hidle hl h hclean hcnt hnode hc hlo hhi hto hbits hz hm b u hgood hsegs
    obtain ⟨ps, y, st, hps, hne⟩ := listPkts_mem [] k.c.fn node (segmentsOf (rawBytes b.1) cnt) hsegs
    have hsome := hne (segmentsOf_ne _ hlo)
    refine ⟨ps, y, st, hps, hsome, ?_⟩
    exact exec_bulkCopyList_wait (errs := noErrs) hon i (listOp_posts hidle hl rfl hclean hcnt hnode hc hlo hhi hto hbits hz hm rfl hgood hps hsome)

end Sys2Proof.Machine

/-! PROOFS. The near-bank commands by name, scrub, self-checks and retirement (R111 to R114, R122, R125, R127 to R129, R138). -/

namespace Sys2Proof.Machine

open Sys2Proof

/-! The pieces of a command's range (R129). -/

@[simp] theorem NbuCmd.piece_op (s : State) (c : NbuCmd) (p : Nat × Nat) : (c.piece s p).op = c.op := by
  unfold NbuCmd.piece
  dsimp only
  split_ifs <;> rfl

theorem NbuCmd.placed_op {s : State} {c d : NbuCmd} (h : d ∈ c.placed s) : d.op = c.op := by
  obtain ⟨p, -, rfl⟩ := List.mem_map.1 h
  exact NbuCmd.piece_op s c p

section Piece

variable {s : State} {c : NbuCmd} (fs : List (Nat × Nat))

theorem nbuPiece_elemwise (h : c.op = 4) : nbuPiece s c fs = doNbuElemwise s c fs := by simp only [nbuPiece, h]
theorem nbuPiece_sumsq (h : c.op = 5) : nbuPiece s c fs = doSumsq s c fs := by simp only [nbuPiece, h]
theorem nbuPiece_normApply (h : c.op = 6) : nbuPiece s c fs = doNormApply s c fs := by simp only [nbuPiece, h]
theorem nbuPiece_localCopy (h : c.op = 7) : nbuPiece s c fs = doLocalCopy s c fs := by simp only [nbuPiece, h]
theorem nbuPiece_fill (h : c.op = 8) : nbuPiece s c fs = doFill s c := by simp only [nbuPiece, h]

end Piece

/-- Pieces run in order, each as `f` runs it: the state, and the worst status. -/
def runPieces (f : State → NbuCmd → State × Status) (l : List NbuCmd) (s : State) : State × Status :=
  l.foldl (fun r d => ((f r.1 d).1, r.2.worse (f r.1 d).2)) (s, .ok)

theorem runPieces_state (f : State → NbuCmd → State × Status) (l : List NbuCmd) (s : State) :
    (runPieces f l s).1 = l.foldl (fun t d => (f t d).1) s :=
  (List.foldl_hom Prod.fst (fun _ _ => rfl)).symm

theorem runPieces_congr {f g : State → NbuCmd → State × Status} {l : List NbuCmd} (h : ∀ t, ∀ d ∈ l, f t d = g t d) (s : State) :
    runPieces f l s = runPieces g l s :=
  List.foldl_ext _ _ _ (fun r d hd => by rw [h r.1 d hd])

/-- A command on its range, of one of the opcodes 4 to 8, runs piece after piece (R129). -/
theorem nbuRun_placed {s : State} {c : NbuCmd} (hlo : 4 ≤ c.op) (hhi : c.op ≤ 8) (fs fails : List (Nat × Nat)) :
    let r := runPieces (fun t d => nbuPiece t d (fs.map (fun f => (remapAddr s f.1, f.2)))) (c.placed s) s
    nbuRun s c fs fails = some (r.1, r.2, 0) := by
  unfold nbuRun
  split
  case h_5 => rfl
  all_goals omega

/-! Commands of their own names (R111). -/

section Alone

variable {s : State} {c : NbuCmd} {fs : List (Nat × Nat)}

theorem nbuAlone_notIssued (h : notIssued s c.stack c.pair = true) : nbuAlone s c fs = s := by
  simp only [nbuAlone, h, Bool.true_or, if_true]

/-- A command that is not valid, or that a bundle or a page bars, changes nothing. -/
theorem nbuAlone_bad (h : ¬(cmdValid s c = true ∧ cmdBarred s c = false)) : nbuAlone s c fs = s := by
  refine if_pos ?_
  by_cases hv : cmdValid s c = true
  · have hb : cmdBarred s c = true := eq_true_of_ne_false (fun hb => h ⟨hv, hb⟩)
    rw [hb, Bool.or_true]
  · rw [eq_false_of_ne_true hv, Bool.not_false, Bool.or_true, Bool.true_or]

variable (hto : notIssued s c.stack c.pair = false) (hgood : cmdValid s c = true ∧ cmdBarred s c = false)
include hto hgood

theorem nbuAlone_runs {t : State} {q : Status × Nat} (hrun : nbuRun s c fs [] = some (t, q)) : nbuAlone s c fs = t := by
  obtain ⟨hv, hb⟩ := hgood
  simp only [nbuAlone, hto, hv, hb, hrun, Bool.not_true, Bool.or_self, Bool.false_eq_true, if_false]

/-- A command on its range has the effect of its kind `f` on each of its pieces. -/
theorem nbuAlone_pieces {f : State → NbuCmd → State × Status} {n : Nat} (hop : c.op = n) (hlo : 4 ≤ n) (hhi : n ≤ 8)
    (hf : ∀ t d, d.op = n → nbuPiece t d (fs.map (fun f => (remapAddr s f.1, f.2))) = f t d) :
    nbuAlone s c fs = (c.placed s).foldl (fun t d => (f t d).1) s := by
  subst hop
  rw [nbuAlone_runs hto hgood (nbuRun_placed hlo hhi fs []), runPieces_congr (fun t d hd => hf t d (NbuCmd.placed_op hd)), runPieces_state]

end Alone

/-- A draining stack takes no command. -/
theorem notIssued_of_drains {s : State} {k : Nat} (h : drains s k = true) (p : Nat) : notIssued s k p = true := by
  simp only [notIssued, h, Bool.true_or]

section Append

variable {s : State} {k p fn hw span slot row o q : Nat} {fs : List (Nat × Nat)}

theorem doNbuAppendCmd_notIssued (h : notIssued s k p = true) : doNbuAppendCmd k p fn hw span slot row o q fs s = s := if_pos h

variable (hto : notIssued s k p = false)
include hto

theorem doNbuAppendCmd_appends {t : State} {st : Status} {n : Nat}
    (h : doNbuAppend s (mkCmd s 2 k p fn hw 0 0 0 0 0 o q) span slot row fs = some (t, st, n)) :
    doNbuAppendCmd k p fn hw span slot row o q fs s = addSats t fn (mkCmd s 2 k p fn hw 0 0 0 0 0 o q).h n := by
  simp only [doNbuAppendCmd, hto, Bool.false_eq_true, if_false, h]

theorem doNbuAppendCmd_waits (h : doNbuAppend s (mkCmd s 2 k p fn hw 0 0 0 0 0 o q) span slot row fs = none) :
    doNbuAppendCmd k p fn hw span slot row o q fs s = s := by
  simp only [doNbuAppendCmd, hto, Bool.false_eq_true, if_false, h]

end Append

/-! Self-checks (R128). -/

/-- The times in the window of an NBU after it fails its self-check. -/
def nbuFailTimes (s : State) (k n : Nat) : List Nat := within s.now (Tab.get [] (k * 512 + n) s.flt.nbuFails) ++ [s.now]

/-- A failed self-check of an NBU entered in its window and in the module's event log. -/
def nbuFailNoted (s : State) (k n : Nat) : State :=
  let u := { s with flt := { s.flt with nbuFails := Tab.put [] (k * 512 + n) (nbuFailTimes s k n) s.flt.nbuFails } }
  logModule u { entry0 u 0x0D .ok 0 with unitKind := 2, unit_ := k * 512 + n }

theorem checkNbu_pass (s : State) (k n : Nat) : checkNbu s k n true = s := rfl

theorem checkNbu_fail (s : State) (k n : Nat) : checkNbu s k n false =
    if (nbuFailNoted s k n).fld R.NBU_SELFCHECK.FAIL_LIMIT ≤ (nbuFailTimes s k n).length then retireNbu (nbuFailNoted s k n) k n
    else nbuFailNoted s k n := rfl

/-! The retirement of a pseudo-channel (R129). -/

@[simp] theorem flt_atTime (s : State) (t : Nat) : (atTime s t).flt = s.flt := by
  unfold atTime
  split <;> rfl

/-- A pseudo-channel that is to retire, with the frames evacuated that found a place. -/
def pcEvacuated (s : State) (pc : Nat) : State :=
  let u := { s with flt := { s.flt with retPcs := NSet.add pc s.flt.retPcs } }
  (pcFrames u pc).foldl evacuateFrame u

/-- An empty pseudo-channel reported retired. -/
def pcReported (s : State) (pc : Nat) : State :=
  let u := syncRetired ((s.setFld R.NBU_PC_STAT.PC_RETIRED (s.fld R.NBU_PC_STAT.PC_RETIRED (pc / 32) + 2 ^ (pc % 32)) (pc / 32)).setFld
    R.NBU_ERR.RETIRE_EVENT 1 (pc / 32))
  logModule u { entry0 u 0x0F .ok 0 with flags := 3, unitKind := 3, unit_ := pc }

/-- A pseudo-channel in service that is to retire, because it was asked for or for its failed rows, is evacuated, and reported once empty. -/
theorem doPcRetire_retires {s u : State} {pc t : Nat} (hu : atTime s t = u) (hpc : pc < 512)
    (hin : bitAt (u.fld R.NBU_PC_STAT.PC_RETIRED (pc / 32)) (pc % 32) = false)
    (hdue : NSet.has pc u.flt.retPcs = true ∨ pcRowCount u pc ≥ u.fld R.NBU_SELFCHECK.PC_UE_LIMIT) :
    doPcRetire pc t s =
      if (pcFrames (pcEvacuated u pc) pc).isEmpty then pcReported (pcEvacuated u pc) pc else pcEvacuated u pc := by
  subst hu
  refine if_neg ?_
  rintro (h | h | ⟨hnot, hfew⟩)
  · exact Nat.not_le.mpr hpc h
  · rw [hin] at h
    exact Bool.false_ne_true h
  · exact hdue.elim (by simpa using hnot) (Nat.not_le.mpr hfew)

/-! What each command does while the module is on. -/

section Commands

variable {s : State} (hon : s.pow.st = .on) (k p fn hw fmt row len a b o q : Nat) (fs : List (Nat × Nat))
include hon

theorem exec_mvSlice_on : exec (.mvSlice k p fn hw fmt row len a b o q fs) s =
    .next (finish (nbuAlone s (mkCmd s 3 k p fn hw fmt row len a b o q) fs)) := act_on hon _

theorem exec_nbuElemwise_on : exec (.nbuElemwise k p fn hw fmt row len a b o q fs) s =
    .next (finish (nbuAlone s (mkCmd s 4 k p fn hw fmt row len a b o q) fs)) := act_on hon _

theorem exec_sumsq_on : exec (.sumsq k p fn hw fmt row len a q fs) s =
    .next (finish (nbuAlone s (mkCmd s 5 k p fn hw fmt row len a 0 0 q) fs)) := act_on hon _

theorem exec_normApply_on : exec (.normApply k p fn hw fmt row len a b o q fs) s =
    .next (finish (nbuAlone s (mkCmd s 6 k p fn hw fmt row len a b o q) fs)) := act_on hon _

theorem exec_localCopy_on : exec (.localCopy k p fn hw row len a q fs) s =
    .next (finish (nbuAlone s (mkCmd s 7 k p fn hw 0 row len a 0 0 q) fs)) := act_on hon _

theorem exec_fill_on : exec (.fill k p fn hw row len a q) s =
    .next (finish (nbuAlone s (mkCmd s 8 k p fn hw 0 row len a 0 0 q) [])) := act_on hon _

theorem exec_nbuKvAppend_on (span slot : Nat) : exec (.nbuKvAppend k p fn hw span slot row o q fs) s =
    .next (finish (doNbuAppendCmd k p fn hw span slot row o q fs s)) := act_on hon _

theorem exec_selfCheck_on {k n : Nat} (hk : k < 16) (hn : n < 512) (pass : Bool) (t : Nat) : exec (.selfCheck k n pass t) s =
    .next (finish (checkNbu (atTime s t) k n pass)) := by
  refine (act_on hon _).trans ?_
  rw [if_neg (by omega)]

/-- A slice of an attention operation on a stack that takes commands. -/
theorem exec_attnSlice_on (hto : notIssued s k p = false) (span slot head kvs n sq pq pb ps w sk sg : Nat) (tent fresh : Bool) :
    let u := if fresh then clearChain s k else s
    exec (.attnSlice k p fn hw span slot head kvs n o q sq pq pb ps w sk sg a b tent fresh fs) s = .next (finish (doAttnSlice u
      (mkCmd u 1 k p fn hw 0 0 0 0 0 o q) span (sliceReq fn span slot head sq pq pb ps w sk sg a b tent) kvs n fs).1) := by
  refine (act_on hon _).trans ?_
  rw [doAttnSliceCmd, if_neg (by rw [hto]; exact Bool.false_ne_true)]

theorem exec_pseudoChannelRetire_on (pc t : Nat) : exec (.pseudoChannelRetire pc t) s = .next (finish (doPcRetire pc t s)) := act_on hon _

end Commands

/-- Settles O16, a clause a command and case. -/
theorem bankCommands : Obligations.BankCommands := by
  unfold Obligations.BankCommands
  refine ⟨?byName, ?drained, ?append, ?slice, fun s fs t hon => act_on hon _, ?pass, ?fail, fun s t hon => act_on hon _, ?channel⟩
  case byName =>
    intro s k p fn hw fmt row len a b o q fs hon hto good gs run c3 c4 c5 c6 c7 c8
    rw [exec_mvSlice_on hon, exec_nbuElemwise_on hon, exec_sumsq_on hon, exec_normApply_on hon, exec_localCopy_on hon, exec_fill_on hon]
    refine ⟨fun h => ?mv, fun h => ?elemwise, fun h => ?sumsq, fun h => ?norm, fun h => ?copy, fun h => ?fill,
      fun h => ?_, fun h => ?_, fun h => ?_, fun h => ?_, fun h => ?_, fun h => ?_⟩
    case mv => rw [nbuAlone_runs hto h (c := c3) rfl]
    case elemwise => rw [nbuAlone_pieces hto h (c := c4) (n := 4) rfl (by decide) (by decide) (fun t d hd => nbuPiece_elemwise _ hd)]
    case sumsq => rw [nbuAlone_pieces hto h (c := c5) (n := 5) rfl (by decide) (by decide) (fun t d hd => nbuPiece_sumsq _ hd)]
    case norm => rw [nbuAlone_pieces hto h (c := c6) (n := 6) rfl (by decide) (by decide) (fun t d hd => nbuPiece_normApply _ hd)]
    case copy => rw [nbuAlone_pieces hto h (c := c7) (n := 7) rfl (by decide) (by decide) (fun t d hd => nbuPiece_localCopy _ hd)]
    case fill => rw [nbuAlone_pieces hto h (c := c8) (n := 8) rfl (by decide) (by decide) (fun t d hd => nbuPiece_fill _ hd)]
    all_goals rw [nbuAlone_bad h]
  case drained =>
    intro s k p fn hw fmt row len a b o q fs hon hdrains
    have hnot := notIssued_of_drains hdrains p
    rw [exec_mvSlice_on hon, exec_nbuElemwise_on hon, exec_sumsq_on hon, exec_normApply_on hon, exec_localCopy_on hon, exec_fill_on hon,
      exec_nbuKvAppend_on hon, doNbuAppendCmd_notIssued hnot]
    simp only [nbuAlone_notIssued (c := mkCmd ..) hnot, and_self]
  case append =>
    intro s t k p fn hw span slot row o q n st fs hon hto c
    rw [exec_nbuKvAppend_on hon]
    exact ⟨fun h => by rw [doNbuAppendCmd_appends hto h], fun h => by rw [doNbuAppendCmd_waits hto h]⟩
  case slice =>
    intro s k p fn hw span slot head kvs n o q sq pq pb ps w sk sg a b tent fresh fs hon hto u
    exact exec_attnSlice_on hon k p fn hw a b o q fs hto span slot head kvs n sq pq pb ps w sk sg tent fresh
  case pass =>
    intro s k n t hon hk hn
    rw [exec_selfCheck_on hon hk hn, checkNbu_pass]
  case fail =>
    intro s k n t hon hk hn u l v
    have hcheck : checkNbu u k n false = if v.fld R.NBU_SELFCHECK.FAIL_LIMIT ≤ l.length then retireNbu v k n else v := checkNbu_fail u k n
    rw [exec_selfCheck_on hon hk hn, hcheck]
    exact ⟨fun h => by rw [if_neg (Nat.not_le.mpr h)], fun h => by rw [if_pos h]⟩
  case channel =>
    intro s pc t hon hpc hin hdue u v w
    rw [← flt_atTime s t] at hdue
    have hretire : doPcRetire pc t s = if (pcFrames v pc).isEmpty then pcReported v pc else v := doPcRetire_retires rfl hpc hin hdue
    rw [exec_pseudoChannelRetire_on hon, hretire]
    exact ⟨fun h => by rw [h, if_neg Bool.false_ne_true], fun h => by rw [if_pos h]; rfl⟩

end Sys2Proof.Machine

/-! PROOFS. The step ops of the near-bank units (R111, R112, R114, R116, R119, R178). -/

namespace Sys2Proof.Machine

open Sys2Proof

/-! A list of commands run in order (R111). -/

section Cmds

variable {fails : List (Nat × Nat)} {fs : List (Nat × Nat × Nat)} {c : NbuCmd} {l : List (Option NbuCmd)} {r q : State × Status × Nat}

theorem runCmds_nil : runCmds fails fs [] r = some r := by cases fs <;> rfl

theorem runCmds_invalid : runCmds fails fs (none :: l) r = runCmds fails fs l (r.1, r.2.1.worse .invalid, r.2.2) := by simp only [runCmds]

theorem runCmds_barred (h : cmdBarred r.1 c = true) :
    runCmds fails fs (some c :: l) r = runCmds fails fs l (r.1, r.2.1.worse .protection, r.2.2) := by
  simp only [runCmds, h, if_true]

theorem runCmds_runs (h : cmdBarred r.1 c = false) (hrun : nbuRun r.1 c ((fs.filter c.meets).map (fun f => (f.1, f.2.1))) fails = some q) :
    runCmds fails fs (some c :: l) r =
      runCmds fails (fs.filter (fun f => !c.meets f)) l (q.1, r.2.1.worse q.2.1, r.2.2 + q.2.2) := by
  simp only [runCmds, h, Bool.false_eq_true, if_false, hrun]

/-- A command other than KV_APPEND waits for no frame. -/
theorem nbuRun_some {s : State} {c : NbuCmd} (h : c.op ≠ 2) (fs fails : List (Nat × Nat)) : ∃ q, nbuRun s c fs fails = some q := by
  unfold nbuRun
  split
  case h_2 hop => exact absurd hop h
  all_goals exact ⟨_, rfl⟩

/-- So a list without KV_APPEND comes to its end. -/
theorem runCmds_some (fails : List (Nat × Nat)) (l : List (Option NbuCmd)) : ∀ (fs : List (Nat × Nat × Nat)) (r : State × Status × Nat),
    (∀ c, some c ∈ l → c.op ≠ 2) → ∃ t, runCmds fails fs l r = some t := by
  induction l with
  | nil => exact fun fs r _ => ⟨r, runCmds_nil⟩
  | cons x l ih =>
    intro fs r h
    have hrest : ∀ c, some c ∈ l → c.op ≠ 2 := fun c hc => h c (List.mem_cons_of_mem _ hc)
    cases x with
    | none => rw [runCmds_invalid]; exact ih _ _ hrest
    | some c =>
      cases hbar : cmdBarred r.1 c with
      | true => rw [runCmds_barred hbar]; exact ih _ _ hrest
      | false =>
        obtain ⟨q, hrun⟩ := nbuRun_some (s := r.1) (h c List.mem_cons_self) ((fs.filter c.meets).map (fun f => (f.1, f.2.1))) fails
        rw [runCmds_runs hbar hrun]
        exact ih _ _ hrest

end Cmds

/-! BANK_CMDS (R111, R116). -/

section BankCmds

variable {t1 : List (Nat × Nat × Nat)} {fails : List (Nat × Nat)} {k : OpCtx} {v : State} {n : Nat}
  (hn : k.o.arg0 * (if k.o.varBit 0 then 16 else 32) = n)
include hn

theorem bankCmdsOp_unreachable (h : operand v k k.o.src0 k.anyTile 0 n false = none) : bankCmdsOp t1 fails k v = .done v .protection 0 := by
  simp only [bankCmdsOp, hn, h]

variable {a : Loc} (ha : operand v k k.o.src0 k.anyTile 0 n false = some a)
include ha

theorem bankCmdsOp_poison (h : anyPsn (locRead v k.h a n).1 = true) : bankCmdsOp t1 fails k v = .done (locRead v k.h a n).2 .poison 0 := by
  simp only [bankCmdsOp, hn, ha, h, if_true]

/-- On stacks that do not drain the commands run on cleared chains. -/
theorem bankCmdsOp_runs {cs : List (Option NbuCmd)} {t : State × Status × Nat} (hclean : anyPsn (locRead v k.h a n).1 = false)
    (hcs : parseCmds v k (k.o.varBit 0) (rawBytes (locRead v k.h a n).1) = cs)
    (hmask : maskDrains v k.o.unit_ = false) (hgo : ∀ c, some c ∈ cs → drains v c.stack = false)
    (hrun : let u := (maskStacks k.o.unit_).foldl clearChain (locRead v k.h a n).2
      runCmds fails t1 cs (if k.o.varBit 0 then u.takeFree else u, .ok, 0) = some t) :
    bankCmdsOp t1 fails k v = .done (endWait t.1 (.ctx k.h)) t.2.1 t.2.2 := by
  have hany : (cs.filterMap id).any (fun c => drains v c.stack) = false := by
    rw [List.any_eq_false]
    intro c hc
    obtain ⟨x, hx, rfl⟩ := List.mem_filterMap.1 hc
    rw [hgo c hx]
    exact Bool.false_ne_true
  simp only [bankCmdsOp, hn, ha, hclean, hcs, hmask, hany, hrun, Bool.or_self, Bool.false_eq_true, if_false]

end BankCmds

/-! MV_BANK (R114). -/

section MvBank

variable {ws : List (List Nat)} {fs : List (Nat × Nat × Nat)} {k : OpCtx} {v : State} (hmask : maskDrains v k.o.unit_ = false)
include hmask

theorem mvBankOp_short (h : wsetFits k = false) : mvBankOp ws fs k v = .done v .protection 0 := by
  simp only [mvBankOp, hmask, h, Bool.not_false, Bool.false_eq_true, if_false, if_true]

/-- On stacks that do not drain a product in the banks ends. -/
theorem mvBankOp_ends (ws : List (List Nat)) (fs : List (Nat × Nat × Nat)) : ∃ t st, mvBankOp ws fs k v = .done t st 0 := by
  unfold mvBankOp
  dsimp only
  rw [if_neg (by rw [hmask]; exact Bool.false_ne_true)]
  split
  · exact ⟨_, _, rfl⟩
  · split
    · exact ⟨_, _, rfl⟩
    · split <;> exact ⟨_, _, rfl⟩

end MvBank

/-! ELEMWISE_BANK (R112, R122). -/

/-- The sectors that an op's near-bank units met in error, each with how it was found. -/
def metSectors (fs : List (Nat × Nat × Nat)) : List (Nat × Nat) := fs.map (fun f => (f.1, f.2.1))

/-- The end of an ELEMWISE_BANK op with results `ys`: the vector at `a` written back, poison where a sector was lost. -/
def bankWriteBack (u : State) (k : OpCtx) (a : Loc) (fmt : Nat) (gs : List (Nat × Nat)) (ys : List PElem) : OpOut :=
  let out := lossy gs a (bankBytes fmt ys)
  let r := chainStore u k a out
  .done r.1 (psnStatus (r.2 || anyPsn out)) 0

section Elem

variable {kind : Nat} {bf bz : Bool} {fs : List (Nat × Nat × Nat)} {k : OpCtx} {v y : State} (hmask : maskDrains v k.o.unit_ = false)
include hmask

theorem elemBankOp_unreachable (h : operand v k k.o.src0 k.anyTile 0 (vecBytes bf k.o.arg1) true = none) :
    elemBankOp kind bf bz fs k v = .done v .protection 0 := by
  simp only [elemBankOp, hmask, Bool.false_eq_true, if_false, h]

variable {a : Loc} (ha : operand v k k.o.src0 k.anyTile 0 (vecBytes bf k.o.arg1) true = some a)
include ha

theorem elemBankOp_src1Unreachable (hkind : kind ≠ 0) (h : operand v k k.o.src1 k.anyTile 0 (vecBytes bz k.o.arg1) false = none) :
    elemBankOp kind bf bz fs k v = .done v .protection 0 := by
  simp only [elemBankOp, hmask, Bool.false_eq_true, if_false, ha, hkind, h]

variable (hy : sectorFaults v ⟨4, k.c.fn, k.c.hw, false, k.idx⟩ (metSectors fs) = y)
include hy

/-- SCALE takes a constant and no second vector. -/
theorem elemBankOp_scale : let x := locRead y k.h a (vecBytes bf k.o.arg1)
    elemBankOp 0 bf bz fs k v = bankWriteBack x.2 k a (if bf then 2 else 3) (metSectors fs)
      (elemwise 0 (BitVec.ofNat 32 k.o.arg0) (bankElems (if bf then 2 else 3) x.1) []) := by
  subst hy
  simp only [elemBankOp, hmask, Bool.false_eq_true, if_false, ha, if_true, elemwise, bankWriteBack, metSectors]

/-- ADD and MUL broadcast a second vector to the stacks of the op. -/
theorem elemBankOp_vector (hkind : kind ≠ 0) {b : Loc} (hb : operand v k k.o.src1 k.anyTile 0 (vecBytes bz k.o.arg1) false = some b) :
    let x := locRead y k.h a (vecBytes bf k.o.arg1)
    let z := locRead x.2 k.h b (vecBytes bz k.o.arg1)
    let u := (List.range 16).foldl (fun s j => if bitAt k.o.unit_ j then broadcast s j z.1 (s.stack j).scale else s) z.2
    elemBankOp kind bf bz fs k v = bankWriteBack u k a (if bf then 2 else 3) (metSectors fs)
      (elemwise kind (BitVec.ofNat 32 k.o.arg0) (bankElems (if bf then 2 else 3) x.1) (vecElems bz z.1)) := by
  subst hy
  simp only [elemBankOp, hmask, Bool.false_eq_true, if_false, ha, hkind, hb, bankWriteBack, metSectors]

end Elem

/-! What each op does when it issues while the module is on. -/

section Ops

variable {s u : State} {k : OpCtx} {errs : Errs} {st : Status} {n : Nat} (hon : s.pow.st = .on)
include hon

/-- An op that expands into near-bank commands, from what it does in the state that the controller's own storage errors leave. -/
theorem issued_withErrs {sel : Op → Bool} (i : Issues s sel k) {body : OpCtx → State → OpOut}
    (h : body k (errsMet k (ctlErrs errs) (issued s k)) = .done u st n) :
    act s (runOp s k.h sel (withErrs (ctlErrs errs) body)) = .next (finish (retire (t0Fails errs.t0 (issued s k) u) k.h k.idx st n)) :=
  issued_retires hon i (withErrs_done h)

theorem exec_bankCmds_done (i : Issues s (fun o => o.opcode == 0x03) k) {fails : List (Nat × Nat)}
    (h : bankCmdsOp (errs.t1.filter (fun f => f.2.2 != 0)) fails k (errsMet k (ctlErrs errs) (issued s k)) = .done u st n) :
    exec (.bankCmds k.h errs fails) s = .next (finish (retire (t0Fails errs.t0 (issued s k) u) k.h k.idx st n)) :=
  issued_withErrs hon i h

theorem exec_nbuFence_done (i : Issues s (fun o => o.opcode == 0x04) k) : exec (.nbuFence k.h) s =
    .next (finish (retire (fenceSectors (issued s k) (fun u => u.1 == k.c.fn && u.2 == k.h)) k.h k.idx .ok 0)) :=
  issued_retires hon i rfl

theorem exec_mvBank_done (i : Issues s (fun o => o.opcode == 0x02) k) {ws : List (List Nat)}
    (h : mvBankOp ws (errs.t1.filter (fun f => f.2.2 == 3)) k (errsMet k (ctlErrs errs) (issued s k)) = .done u st n) :
    exec (.mvBank k.h ws errs) s = .next (finish (retire (t0Fails errs.t0 (issued s k) u) k.h k.idx st n)) :=
  issued_withErrs hon i h

theorem exec_elemwiseBankScale_done (i : Issues s (fun o => o.opcode == 0x0A && o.var == 0) k) {bf : Bool}
    (h : elemBankOp 0 bf false (errs.t1.filter (fun f => f.2.2 == 4)) k (errsMet k (ctlErrs errs) (issued s k)) = .done u st n) :
    exec (.elemwiseBankScale k.h bf errs) s = .next (finish (retire (t0Fails errs.t0 (issued s k) u) k.h k.idx st n)) :=
  issued_withErrs hon i h

theorem exec_elemwiseBankAdd_done (i : Issues s (fun o => o.opcode == 0x0A && o.var == 1) k) {bf bz : Bool}
    (h : elemBankOp 1 bf bz (errs.t1.filter (fun f => f.2.2 == 4)) k (errsMet k (ctlErrs errs) (issued s k)) = .done u st n) :
    exec (.elemwiseBankAdd k.h bf bz errs) s = .next (finish (retire (t0Fails errs.t0 (issued s k) u) k.h k.idx st n)) :=
  issued_withErrs hon i h

theorem exec_elemwiseBankMul_done (i : Issues s (fun o => o.opcode == 0x0A && o.var == 2) k) {bf bz : Bool}
    (h : elemBankOp 2 bf bz (errs.t1.filter (fun f => f.2.2 == 4)) k (errsMet k (ctlErrs errs) (issued s k)) = .done u st n) :
    exec (.elemwiseBankMul k.h bf bz errs) s = .next (finish (retire (t0Fails errs.t0 (issued s k) u) k.h k.idx st n)) :=
  issued_withErrs hon i h

end Ops

/-- Settles O17, a clause an op and case. -/
theorem bankStepOps : Obligations.BankStepOps := by
  unfold Obligations.BankStepOps
  refine ⟨?cmds, ?list, fun s k hon i => exec_nbuFence_done hon i, ?product, ?elemwise⟩
  case cmds =>
    intro s k errs fails hon i v k6 n ends
    refine ⟨fun h => exec_bankCmds_done hon i (bankCmdsOp_unreachable rfl h), fun a ha => ?_⟩
    intro r cs cleared u t1
    refine ⟨fun h => exec_bankCmds_done hon i (bankCmdsOp_poison rfl ha h), fun hclean hmask hgo => ?_⟩
    have hends : ∀ t, runCmds fails t1 cs (u, .ok, 0) = some t → ends (endWait t.1 (.ctx k.h)) t.2.1 t.2.2 :=
      fun t hrun => exec_bankCmds_done hon i (bankCmdsOp_runs rfl ha hclean rfl hmask hgo hrun)
    refine ⟨hends, fun hno => ?_⟩
    obtain ⟨t, hrun⟩ := runCmds_some fails cs t1 (u, .ok, 0) hno
    exact ⟨t, hrun, hends t hrun⟩
  case list => exact fun fails fs c l r q => ⟨runCmds_nil, runCmds_invalid, runCmds_barred, runCmds_runs⟩
  case product =>
    intro s k ws errs hon i v hmask
    obtain ⟨t, st, hdone⟩ := mvBankOp_ends hmask ws (errs.t1.filter (fun f => f.2.2 == 3))
    exact ⟨⟨t, st, hdone, exec_mvBank_done hon i hdone⟩, fun h => exec_mvBank_done hon i (mvBankOp_short hmask h)⟩
  case elemwise =>
    intro s k bf bz errs hon v hmask gs fmt c y ends
    refine ⟨fun h => ?unreachable, fun a ha => ⟨?scale, fun h => ?src1, fun b hb => ?vector⟩⟩
    case unreachable =>
      exact ⟨fun i => exec_elemwiseBankScale_done hon i (elemBankOp_unreachable hmask h),
        fun i => exec_elemwiseBankAdd_done hon i (elemBankOp_unreachable hmask h),
        fun i => exec_elemwiseBankMul_done hon i (elemBankOp_unreachable hmask h)⟩
    case scale => exact fun i => exec_elemwiseBankScale_done hon i (elemBankOp_scale hmask ha rfl)
    case src1 =>
      exact ⟨fun i => exec_elemwiseBankAdd_done hon i (elemBankOp_src1Unreachable hmask ha one_ne_zero h),
        fun i => exec_elemwiseBankMul_done hon i (elemBankOp_src1Unreachable hmask ha two_ne_zero h)⟩
    case vector =>
      exact ⟨fun i => exec_elemwiseBankAdd_done hon i (elemBankOp_vector hmask ha rfl one_ne_zero hb),
        fun i => exec_elemwiseBankMul_done hon i (elemBankOp_vector hmask ha rfl two_ne_zero hb)⟩

end Sys2Proof.Machine

/-! PROOFS. Refresh postponement and the traffic governor (R124, R126, R127). -/

namespace Sys2Proof.Machine

open Sys2Proof

/-! Refreshes (R124). -/

section Refresh

variable {s : State} {k p m : Nat} (hk : k < 16) (hp : p < 512)
include hk hp

theorem doRefreshDue_postponed (h : Tab.get 0 (k * 512 + p) s.nbu.postponed < s.fld R.NBU_REF_CTL.POSTPONE_MAX k) : doRefreshDue k p 0 s =
    { s with nbu := { s.nbu with
      postponed := Tab.put 0 (k * 512 + p) (Tab.get 0 (k * 512 + p) s.nbu.postponed + 1) s.nbu.postponed } } := by
  have hunit : ¬(16 ≤ k ∨ 512 ≤ p) := by omega
  simp only [doRefreshDue, hunit, h, if_false, if_true]

theorem doRefreshDue_suspends (h : s.fld R.NBU_REF_CTL.POSTPONE_MAX k ≤ Tab.get 0 (k * 512 + p) s.nbu.postponed) : doRefreshDue k p 0 s =
    { s with nbu := { s.nbu with
      suspensions := Tab.put 0 (k * 512 + p) (satTo (2 ^ 32 - 1) (Tab.get 0 (k * 512 + p) s.nbu.suspensions + 1)) s.nbu.suspensions } } := by
  have hunit : ¬(16 ≤ k ∨ 512 ≤ p) := by omega
  simp only [doRefreshDue, hunit, Nat.not_lt.mpr h, if_false, if_true]

theorem doRefreshDue_issued (hm : 1 ≤ m) : doRefreshDue k p m s =
    { s with nbu := { s.nbu with
      postponed := Tab.put 0 (k * 512 + p) (Tab.get 0 (k * 512 + p) s.nbu.postponed - 1) s.nbu.postponed } } := by
  have hunit : ¬(16 ≤ k ∨ 512 ≤ p) := by omega
  simp only [doRefreshDue, hunit, Nat.ne_of_gt hm, if_false]

end Refresh

/-! What a window admits (R126, R127). -/

theorem govDemand_nil (c : Bool) : govDemand c [] = 0 := rfl

theorem govDemand_cons (c d : Bool) (n : Nat) (l : List (Bool × Nat)) :
    govDemand c ((d, n) :: l) = (if d = c then n * govCost c else 0) + govDemand c l := by
  unfold govDemand
  by_cases h : d = c
  · simp [h]
  · simp [h]

theorem govDemand_append (c : Bool) (l r : List (Bool × Nat)) : govDemand c (l ++ r) = govDemand c l + govDemand c r := by
  simp only [govDemand, List.filter_append, List.map_append, List.sum_append]

/-- The units that a class asks for are its sectors at their cost. -/
theorem govDemand_eq (c : Bool) (l : List (Bool × Nat)) : govDemand c l = govCost c * ((l.filter (fun p => p.1 == c)).map (·.2)).sum := by
  simp only [govDemand, Nat.mul_comm _ (govCost c), List.sum_map_mul_left]

/-- The sectors admitted of a transfer are some of its own, and cost no more than what is left: none where its class already waits. -/
theorem admitted_le (waits : Bool) (n left keep cost : Nat) :
    (if waits then 0 else min n ((left - keep) / cost)) ≤ n ∧ (if waits then 0 else min n ((left - keep) / cost)) * cost ≤ left := by
  cases waits with
  | true => exact ⟨Nat.zero_le n, (Nat.zero_mul cost).le.trans (Nat.zero_le left)⟩
  | false =>
    have hfits : (left - keep) / cost * cost ≤ left := (Nat.div_mul_le_self _ _).trans (Nat.sub_le _ _)
    exact ⟨Nat.min_le_left _ _, (Nat.mul_le_mul_right _ (Nat.min_le_right _ _)).trans hfits⟩

/-- One transfer of a window: `k` of its sectors are admitted, and the rest stays held. -/
theorem govAdmit_cons (allow : Nat) (fl : Nat × Nat) (c : Bool) (n : Nat) (l : List (Bool × Nat)) (e i : Nat) (bl : Bool × Bool)
    (held : List (Bool × Nat)) : ∃ k bl', k ≤ n ∧ k * govCost c ≤ allow - (e + i) ∧ govAdmit allow fl ((c, n) :: l) (e, i) bl held =
      govAdmit allow fl l (if c then (e + k * 41, i) else (e, i + k * 12)) bl' (if k < n then held ++ [(c, n - k)] else held) := by
  obtain ⟨hsome, hfits⟩ := admitted_le (if c then bl.1 else bl.2) n (allow - (e + i)) (if c then fl.2 - i else fl.1 - e) (govCost c)
  exact ⟨_, _, hsome, hfits, rfl⟩

/-- Sectors that a transfer leaves behind, in the units they ask for. -/
theorem govDemand_held (c d : Bool) {k n : Nat} (h : k ≤ n) (held : List (Bool × Nat)) :
    govDemand c (if k < n then held ++ [(d, n - k)] else held) + (if d = c then k * govCost c else 0) =
      govDemand c held + (if d = c then n * govCost c else 0) := by
  obtain ⟨m, rfl⟩ := Nat.exists_eq_add_of_le h
  split_ifs with hlt heq heq
  · rw [govDemand_append, govDemand_cons, if_pos heq, govDemand_nil, Nat.add_sub_cancel_left, Nat.add_mul]
    omega
  · rw [govDemand_append, govDemand_cons, if_neg heq, govDemand_nil]
  · have hm : m = 0 := by omega
    rw [hm, Nat.add_zero]
  · rfl

/-- From a spending within the allowance a window ends within it, and each class's units are spent or asked for by what stays held. -/
theorem govAdmit_conserves (allow : Nat) (fl : Nat × Nat) (l : List (Bool × Nat)) : ∀ (e i : Nat) (bl : Bool × Bool) (held : List (Bool × Nat)),
    e + i ≤ allow →
    let r := govAdmit allow fl l (e, i) bl held
    r.1 + r.2.1 ≤ allow ∧ r.1 + govDemand true r.2.2 = e + govDemand true held + govDemand true l ∧
      r.2.1 + govDemand false r.2.2 = i + govDemand false held + govDemand false l := by
  induction l with
  | nil => exact fun e i bl held h => ⟨h, rfl, rfl⟩
  | cons x l ih =>
    obtain ⟨c, n⟩ := x
    intro e i bl held h
    obtain ⟨k, bl', hkn, hcost, hstep⟩ := govAdmit_cons allow fl c n l e i bl held
    have hext := govDemand_held true c hkn held
    have hint := govDemand_held false c hkn held
    rw [hstep, govDemand_cons, govDemand_cons]
    cases c with
    | true =>
      have hleft : e + k * 41 + i ≤ allow := by
        have hunits : k * 41 ≤ allow - (e + i) := hcost
        omega
      obtain ⟨hle, hE, hI⟩ := ih (e + k * 41) i bl' _ hleft
      simp only [govCost, if_true, Bool.true_eq_false, if_false] at hext hint hle hE hI ⊢
      exact ⟨hle, by omega, by omega⟩
    | false =>
      have hleft : e + (i + k * 12) ≤ allow := by
        have hunits : k * 12 ≤ allow - (e + i) := hcost
        omega
      obtain ⟨hle, hE, hI⟩ := ih e (i + k * 12) bl' _ hleft
      simp only [govCost, if_true, Bool.false_eq_true, if_false] at hext hint hle hE hI ⊢
      exact ⟨hle, by omega, by omega⟩

/-- A window spends at most its allowance, and what asked for units is admitted or held. -/
theorem govWindow_conserves (allow fE fI : Nat) (l : List (Bool × Nat)) :
    let r := govWindow allow fE fI l
    r.1 + r.2.1 ≤ allow ∧ r.1 + govDemand true r.2.2 = govDemand true l ∧ r.2.1 + govDemand false r.2.2 = govDemand false l := by
  obtain ⟨hle, hE, hI⟩ := govAdmit_conserves allow (min fE (govDemand true l), min fI (govDemand false l)) l 0 0 (false, false) [] (Nat.zero_le _)
  rw [govDemand_nil, Nat.add_zero, Nat.zero_add] at hE hI
  exact ⟨hle, hE, hI⟩

/-- A window of a stack that exists keeps what stays held, and counts where something does. -/
theorem doGovernorWindow_eq {s : State} {k : Nat} (hk : k < 16) (a : Nat) (arrivals : List (Bool × Nat)) :
    let r := govWindow a (govFloor s k a true) (govFloor s k a false) ((s.stack k).held ++ arrivals)
    let u := ((s.setStack k { s.stack k with held := r.2.2 }).setFld R.NBU_GOV_LAST.EXT_SECTORS (r.1 / 41) k).setFld
      R.NBU_GOV_LAST.INT_SECTORS (r.2.1 / 12) k
    doGovernorWindow k a arrivals s = if r.2.2.isEmpty then u else u.incFld R.NBU_GOV_STAT.HELD_WINDOWS 1 k :=
  if_neg (Nat.not_le.mpr hk)

section Commands

variable {s : State} (hon : s.pow.st = .on)
include hon

theorem exec_refreshDue_on (k p m : Nat) : exec (.refreshDue k p m) s = .next (finish (doRefreshDue k p m s)) := act_on hon _

theorem exec_governorWindow_on (k : Nat) (arrivals : List (Bool × Nat)) :
    exec (.governorWindow k arrivals) s = .next (finish (doGovernorWindow k (allowanceOf s k) arrivals s)) := act_on hon _

theorem exec_nbuModeChange_on {k : Nat} (hk : k < 16) (src v : Nat) :
    exec (.nbuModeChange src k v) s = .next (finish (regWrite src (0x300000 + 0x100 * k) 4 v s)) := by
  refine (act_on hon _).trans ?_
  rw [if_pos hk]

end Commands

/-- Settles O18: refreshes case by case, and the window by what each transfer of it spends and leaves held. -/
theorem governorAndRefresh : Obligations.GovernorAndRefresh := by
  unfold Obligations.GovernorAndRefresh
  refine ⟨?refresh, ?window, ?conserves, fun s src k v hon hk => exec_nbuModeChange_on hon hk src v⟩
  case refresh =>
    intro s k p hon hk hp u n
    refine ⟨fun h => ?_, fun h => ?_, fun m hm => ?_⟩
    · rw [exec_refreshDue_on hon, doRefreshDue_postponed hk hp h]
    · rw [exec_refreshDue_on hon, doRefreshDue_suspends hk hp h]
    · rw [exec_refreshDue_on hon, doRefreshDue_issued hk hp hm]
  case window =>
    intro s k arrivals hon hk a r u
    have hdo : doGovernorWindow k a arrivals s = if r.2.2.isEmpty then u else u.incFld R.NBU_GOV_STAT.HELD_WINDOWS 1 k :=
      doGovernorWindow_eq hk a arrivals
    rw [exec_governorWindow_on hon, hdo]
    exact ⟨fun h => by rw [if_pos (List.isEmpty_iff.2 h)], fun h => by rw [if_neg (mt List.isEmpty_iff.1 h)]⟩
  case conserves =>
    intro allow fE fI l r
    obtain ⟨hle, hE, hI⟩ := govWindow_conserves allow fE fI l
    rw [govDemand_eq] at hE hI
    refine ⟨hle, ?_, ?_⟩
    · simpa only [govCost, if_true, beq_true] using hE
    · simpa only [govCost, Bool.false_eq_true, if_false, beq_false] using hI

end Sys2Proof.Machine

/-! PROOFS. The bias entry of a row, and rows beyond the query (R132, R134, R135, R137). -/

namespace Sys2Proof.Machine

open Sys2Proof

/-! The bucket of a distance (R134). -/

theorem bucket_near {d : Nat} (h : d < 16) : bucket d = d := if_pos h

/-- From 16 on the bucket counts quarters of octaves. -/
theorem bucket_octave {e d : Nat} (he : 4 ≤ e) (hlo : 2 ^ e ≤ d) (hhi : d < 2 ^ (e + 1)) :
    bucket d = min 63 (16 + 4 * (e - 4) + (d - 2 ^ e) / 2 ^ (e - 2)) := by
  have h16 : 2 ^ 4 ≤ 2 ^ e := Nat.pow_le_pow_right (by omega) he
  have hlog : Nat.log2 d = e := (Nat.log2_eq_iff (by omega)).2 ⟨hlo, hhi⟩
  rw [bucket, if_neg (by omega), hlog]

/-- An octave has four quarters. -/
theorem quarter_lt_four {e d : Nat} (he : 4 ≤ e) (hhi : d < 2 ^ (e + 1)) : (d - 2 ^ e) / 2 ^ (e - 2) < 4 := by
  have hquarter : 2 ^ e = 4 * 2 ^ (e - 2) := by
    rw [show (4 : Nat) = 2 ^ 2 from rfl, ← Nat.pow_add]
    congr 1
    omega
  rw [Nat.pow_succ] at hhi
  exact Nat.div_lt_of_lt_mul (by omega)

/-- From the last quarter of the octave of 2^15 on every distance has the last bucket. -/
theorem bucket_far {d : Nat} (h : 57344 ≤ d) : bucket d = 63 := by
  have hne : d ≠ 0 := by omega
  obtain ⟨hlo, hhi⟩ := (Nat.log2_eq_iff hne).1 rfl
  have h15 : 15 ≤ Nat.log2 d := (Nat.le_log2 hne).2 (by omega)
  rw [bucket_octave (by omega) hlo hhi]
  rcases Nat.eq_or_lt_of_le h15 with heq | hlt
  · rw [← heq]
    omega
  · exact Nat.min_eq_left (Nat.le_add_right_of_le (by omega))

/-! Masked rows (R135). -/

theorem maskedAt_future {q : AttnReq} {pos : Nat} (h : q.posQ < pos) : maskedAt q pos = true := by
  simp only [maskedAt, h, decide_true, Bool.true_or]

/-- A masked row leaves the maximum, the sum and the output of a partial. -/
theorem foldRow_masked {q : AttnReq} {r : Nat} (h : maskedAt q (posOf q r) = true) (x : Span) (e : Pte) (b : Bool) (hr : HeadRec) (qh : QHead)
    (p : Partial) : (foldRow x q e b r hr qh p).m = p.m ∧ (foldRow x q e b r hr qh p).l = p.l ∧ (foldRow x q e b r hr qh p).o = p.o := by
  simp only [foldRow, h, if_true, and_self]

/-- Settles O59: buckets octave by octave, and a row after the query by its mask. -/
theorem biasBuckets : Obligations.BiasBuckets :=
  ⟨fun _ _ _ _ _ _ _ => rfl, fun _ => bucket_near, fun _ _ he hlo hhi => ⟨bucket_octave he hlo hhi, quarter_lt_four he hhi⟩, fun _ => bucket_far,
    fun x _ e b _ hr h p hpos => ⟨maskedAt_future hpos, foldRow_masked (maskedAt_future hpos) x e b hr h p⟩⟩

end Sys2Proof.Machine

/-! PROOFS. Spans from step programs: KV_APPEND and HZN (R146, R149, R178, R180, R184, R188). -/

namespace Sys2Proof.Machine

open Sys2Proof

/-! KV_APPEND. -/

theorem decodeStored_t1 {s : State} {n p : Nat} (h : (s.pte n p).st = .t1) (ctx : Nat) (bad : List (Nat × Byte)) :
    decodeStored s ctx n p bad = (s, []) := by
  rw [decodeStored, if_pos (by simp [h])]

/-- Whether a page's stack drains is seen where the page lies and in the registers. -/
theorem pageDrains_congr {s t : State} {n p : Nat} (hregs : t.regs = s.regs)
    (hpte : ((t.pte n p).st, (t.pte n p).frame) = ((s.pte n p).st, (s.pte n p).frame)) : pageDrains t n p = pageDrains s n p := by
  obtain ⟨hst, hframe⟩ := Prod.mk.inj hpte
  simp only [pageDrains, drains, State.flag, State.fld_congr hregs, hst, hframe]

theorem worse_poisonIf {st : Status} (h : st = .ok ∨ st = .poison) (c : Bool) :
    st.worse (if c && st == .ok then .poison else st) = .ok ∨ st.worse (if c && st == .ok then .poison else st) = .poison := by
  rcases h with rfl | rfl <;> cases c <;> decide

section Append

variable {v t u : State} {k : OpCtx} {bad : List (Nat × Nat × Byte)} {b : Binding} {x : Span} (hb : k.binding k.o.aux = some b)
  (hx : spanFor v k.c.fn b.span = .ok x)
include hb hx

/-- A position of another member's needs no row here. -/
theorem kvAppendOp_skips (h : (k.c.position + bits k.o.arg0 12 9) % 2 ^ 32 < b.posBase ∨
      ((k.c.position + bits k.o.arg0 12 9) % 2 ^ 32 - b.posBase) % b.posStride ≠ 0) : kvAppendOp bad k v = .done v .ok 0 := by
  simp only [kvAppendOp, hb, hx, if_pos h]

/-- A position of the binding's is appended as the row that it is. -/
theorem kvAppendOp_appends {p a sat : Nat} {loc : Loc} {bs : List PByte} {st : Status} (hp : p = (k.c.position + bits k.o.arg0 12 9) % 2 ^ 32)
    (hbase : b.posBase ≤ p) (hrow : p - b.posBase = a * b.posStride) (hstride : 0 < b.posStride)
    (hloc : operand v k k.o.src0 k.anyTile 0 (x.kvHeads * 8 * x.dim) false = some loc) (hread : locRead v k.h loc (x.kvHeads * 8 * x.dim) = (bs, t))
    (hdone : kvAppendRow (decodeStored t k.h b.span (x.rowAt k.layer a).1 (badOf bad (x.rowAt k.layer a).1)).1 k.c.fn b.span k.layer a (elemsOf bs)
      (k.o.varBit 0) k.h = .done u st sat)
    (hruns : pageDrains u b.span (x.rowAt k.layer a).1 = false) :
    kvAppendOp bad k v = .done (endWait u (.ctx k.h)) (st.worse (if anyPsn bs && st == .ok then .poison else st)) sat := by
  have hown : ¬(p < b.posBase ∨ (p - b.posBase) % b.posStride ≠ 0) := by
    rw [hrow, Nat.mul_mod_left]
    omega
  have hdiv : (p - b.posBase) / b.posStride = a := by rw [hrow, Nat.mul_div_cancel a hstride]
  rw [hp] at hown hdiv
  simp only [kvAppendOp, hb, hx, if_neg hown, hloc, hread, hdiv, hdone, hruns, Bool.false_eq_true, if_false]

/-- A row of a page that lies in T1, does not migrate and whose stack does not drain is appended at once. -/
theorem kvAppendOp_t1 {p a : Nat} {loc : Loc} (hp : p = (k.c.position + bits k.o.arg0 12 9) % 2 ^ 32)
    (hbase : b.posBase ≤ p) (hrow : p - b.posBase = a * b.posStride) (hstride : 0 < b.posStride)
    (hloc : operand v k k.o.src0 k.anyTile 0 (x.kvHeads * 8 * x.dim) false = some loc) (hslot : k.layer < x.layerSlots) (happ : a ≤ x.appended)
    (hmax : a < x.maxTokens) (ht1 : (v.pte b.span (x.rowAt k.layer a).1).st = .t1) (hmig : migOf v b.span (x.rowAt k.layer a).1 = none)
    (hruns : pageDrains v b.span (x.rowAt k.layer a).1 = false) :
    ∃ u st sat, kvAppendOp bad k v = .done u st sat ∧ (st = .ok ∨ st = .poison) ∧
      (u.span? b.span).map (·.appended) = some (max x.appended (a + 1)) := by
  rcases hread : locRead v k.h loc (x.kvHeads * 8 * x.dim) with ⟨bs, w⟩
  have hfree : FreeOnly v w := by
    have h := locRead_only v k.h loc (x.kvHeads * 8 * x.dim)
    rwa [hread] at h
  obtain ⟨c, rfl⟩ := hfree
  obtain ⟨u, st, sat, hdone, hst, hcover, hregs, hpte⟩ := kvAppendRow_t1 (s := { v with freeCtr := c }) (nbu := k.h) (elemsOf bs) (k.o.varBit 0)
    hx hslot happ hmax ht1 hmig
  exact ⟨_, _, _, kvAppendOp_appends hb hx hp hbase hrow hstride hloc hread (by rw [decodeStored_t1 (s := { v with freeCtr := c }) ht1]; exact hdone)
    ((pageDrains_congr hregs (hpte _)).trans hruns), worse_poisonIf hst _, hcover⟩

end Append

/-! HZN. -/

section Horizon

variable {s : State} {k : OpCtx} {bs : List Binding} (hmask : maskBinds k k.o.arg0 = some bs)
include hmask

theorem hznOp_applies (apply : State → Nat → Span → Nat → State × Status) :
    hznOp apply k s = .done (hznEach apply k.c.fn (k.c.position + 1 + k.o.arg1) bs s .ok).1
      (hznEach apply k.c.fn (k.c.position + 1 + k.o.arg1) bs s .ok).2 0 := by
  simp only [hznOp, hmask]

/-- ACCEPT with a good verify result: `a` of `n` drafts accepted. -/
theorem hznAcceptOp_accepts {t : State} {loc : Loc} {v : List PByte} {a n : Nat} (hloc : operand s k k.o.src0 k.anyTile 0 4 false = some loc)
    (hread : locRead s k.h loc 4 = (v, t)) (hclean : anyPsn v = false) (ha : fieldAt (rawBytes v) 0 2 = a) (hn : fieldAt (rawBytes v) 2 2 = n)
    (hlo : 1 ≤ n) (hhi : n ≤ 15) (hle : a ≤ n) :
    let c := hznEach kvCommitTo k.c.fn (k.c.position + 1 + a) bs t .ok
    let q := if a < n then hznEach kvRewindTo k.c.fn (k.c.position + 1 + a) bs c.1 c.2 else c
    hznAcceptOp k s = .done (q.1.updCtx k.h (fun c => { c with accepted := a })) q.2 0 := by
  have hgood : ¬(n < 1 ∨ 15 < n ∨ n < a) := by omega
  simp only [hznAcceptOp, hmask, hloc, hread, hclean, ha, hn, Bool.false_eq_true, if_false, if_neg hgood]

end Horizon

/-- One span of a mask that the operation is applied to. -/
theorem hznEach_one {apply : State → Nat → Span → Nat → State × Status} {s t : State} {f n : Nat} {b : Binding} {x : Span}
    (hx : spanFor s f b.span = .ok x) (h : apply s b.span x (rowsBelowPos n b x.maxTokens) = (t, .ok)) :
    hznEach apply f n [b] s .ok = (t, .ok) := by
  simp only [hznEach, hx, h]
  rfl

/-! What each op does while the module is on and it may issue. -/

section Ops

variable {s u : State} {k : OpCtx} {st : Status} {n : Nat} (hon : s.pow.st = .on)
include hon

/-- KV_APPEND, from what it does in the state that the storage errors it meets leave. -/
theorem exec_kvAppend_done {errs : Errs} (i : Issues s (fun o => o.opcode == 0x14) k)
    (h : kvAppendOp errs.batts k (errsMet k errs (issued s k)) = .done u st n) :
    exec (.kvAppend k.h errs) s = .next (finish (retire (t0Fails errs.t0 (issued s k) u) k.h k.idx st n)) :=
  issued_retires hon i (withErrs_done h)

theorem exec_hznCommit_done (i : Issues s (fun o => o.opcode == 0x15 && o.var == 0) k) (h : hznOp kvCommitTo k (issued s k) = .done u st n) :
    exec (.hznCommit k.h) s = .next (finish (retire u k.h k.idx st n)) := issued_retires hon i h

theorem exec_hznRewind_done (i : Issues s (fun o => o.opcode == 0x15 && o.var == 1) k) (h : hznOp kvRewindTo k (issued s k) = .done u st n) :
    exec (.hznRewind k.h) s = .next (finish (retire u k.h k.idx st n)) := issued_retires hon i h

theorem exec_hznAccept_done (i : Issues s (fun o => o.opcode == 0x15 && o.var == 2) k) (h : hznAcceptOp k (issued s k) = .done u st n) :
    exec (.hznAccept k.h) s = .next (finish (retire u k.h k.idx st n)) := issued_retires hon i h

end Ops

/-- Settles O5, a clause an op and case. -/
theorem spansFromPrograms : Obligations.SpansFromPrograms := by
  unfold Obligations.SpansFromPrograms
  refine ⟨?skip, ?append, ?appendHere, ?commit, ?rewind, ?one, ?accept⟩
  case skip => exact fun s k errs b x hon i hb hx h => exec_kvAppend_done hon i (kvAppendOp_skips hb hx h)
  case append =>
    intro s t u k errs b x p a sat loc bs st hon v pg w i hb hx hp hbase hrow hstride hloc hread hdone hruns
    exact exec_kvAppend_done hon i (kvAppendOp_appends hb hx hp hbase hrow hstride hloc hread hdone hruns)
  case appendHere =>
    intro s k b x p a loc hon pg i hb hx hp hbase hrow hstride hloc hslot happ hmax ht1 hmig hruns
    obtain ⟨u, st, sat, hop, hst, hcover⟩ := kvAppendOp_t1 (v := issued s k) (bad := []) hb hx hp hbase hrow hstride hloc hslot happ hmax ht1 hmig hruns
    exact ⟨u, st, sat, exec_kvAppend_done (errs := noErrs) hon i hop, hst, hcover⟩
  case commit => exact fun s k bs hon i hmask => exec_hznCommit_done hon i (hznOp_applies hmask kvCommitTo)
  case rewind => exact fun s k bs hon i hmask => exec_hznRewind_done hon i (hznOp_applies hmask kvRewindTo)
  case one =>
    intro s k b x hon hmask hx m
    refine ⟨fun i hlo hhi => ?_, fun i hlo hhi => ?_⟩
    · have hop := hznOp_applies (s := issued s k) hmask kvCommitTo
      rw [hznEach_one (s := issued s k) hx (kvCommitTo_raises hlo hhi)] at hop
      exact ⟨_, exec_hznCommit_done hon i hop, span?_commitTo _ _ _ _⟩
    · have hop := hznOp_applies (s := issued s k) hmask kvRewindTo
      rw [hznEach_one (s := issued s k) hx (kvRewindTo_lowers hlo hhi)] at hop
      exact ⟨_, _, exec_hznRewind_done hon i hop, span?_setCounters _ _ _, rfl, rfl, rfl⟩
  case accept =>
    intro s t k bs loc v a n hon i hmask hloc hread hclean ha hn hlo hhi hle
    exact exec_hznAccept_done hon i (hznAcceptOp_accepts hmask hloc hread hclean ha hn hlo hhi hle)

end Sys2Proof.Machine

/-! PROOFS. ATTN_MERGE and REMOTE_TIMEOUT (R139, R142, R145, R149, R168). -/

namespace Sys2Proof.Machine

open Sys2Proof

/-! The end of a merge op. -/

/-- A merge op that ends retires without saturations. -/
theorem endMerge_done (s : State) (k : OpCtx) (m : MergeSt) : ∃ t st, endMerge s k m = .done t st 0 := by
  unfold endMerge
  refine List.foldlRecOn (motive := fun o => ∃ t st, o = OpOut.done t st 0) _ _ ⟨_, _, rfl⟩ ?_
  rintro _ ⟨t, st, rfl⟩ ⟨h, p⟩ _
  cases p with
  | none => exact ⟨t, st, rfl⟩
  | some q =>
    dsimp only
    split <;> exact ⟨_, _, rfl⟩

/-- On a single head whose merged output has a place, the op stores it there and ends with its status. -/
theorem endMerge_one {s v : State} {k : OpCtx} {m : MergeSt} {p : Partial × PartRec} {a : Loc} (hone : k.o.arg1 = 1) (hst : m.status = .ok)
    (hp : mergedHead k m 0 = some p) (hv : v = { s with attn := { s.attn with merges := Tab.del (mergeKey k.h k.idx) s.attn.merges } })
    (ha : operand v k k.o.dst k.anyTile 0 (mergeOut k 0 p).length true = some a) :
    let r := locWrite v k.h a (mergeOut k 0 p)
    endMerge s k m = .done r.1 (if r.2 then (partStatus p.1).worse .poison else partStatus p.1) 0 := by
  have hworse (st : Status) : Status.ok.worse st = st := by cases st <;> rfl
  simp only [endMerge, ← hv, hone, List.range_one, List.map_cons, List.map_nil, List.foldl_cons, List.foldl_nil, hp, hst, hworse, Nat.zero_mul, ha]

/-! Records taken up (R149). -/

theorem judge_accepts {s : State} {ref came : Nat} {m : MergeSt} {r : PartRec} (hepoch : r.epoch = m.epoch)
    (hgen : r.gen % 2 ^ 24 = ref) : judge s ref m r came = (s, { m with got := m.got ++ [r], count := m.count + r.contrib }) := by
  have hdelta : (ref + 2 ^ 24 - r.gen % 2 ^ 24) % 2 ^ 24 = 0 := by rw [hgen, Nat.add_sub_cancel_left, Nat.mod_self]
  simp only [judge, hepoch, hdelta, ne_eq, not_true_eq_false, if_false, if_true]

/-- Items that are records of the present epoch and the reference generation are all kept, and their contributions counted. -/
theorem mergeItems_accept {s : State} {ref h : Nat} : ∀ {items : List QItem} {rs : List PartRec} {m : MergeSt},
    items.map (fun i => parseRecord i.node i.contrib i.psn i.bytes) = rs.map some →
    (∀ r ∈ rs, r.qhead < h ∧ r.epoch = m.epoch ∧ r.gen % 2 ^ 24 = ref) →
    items.foldl (mergeItem ref h) (s, m) = (s, { m with got := m.got ++ rs, count := (rs.map (·.contrib)).foldl (· + ·) m.count })
  | [], [], m, _, _ => by simp
  | [], _ :: _, _, hmap, _ => by cases hmap
  | _ :: _, [], _, hmap, _ => by cases hmap
  | i :: items, r :: rs, m, hmap, hgood => by
    obtain ⟨hr, hmap⟩ := List.cons.inj hmap
    obtain ⟨⟨hhead, hepoch, hgen⟩, hgood⟩ := List.forall_mem_cons.1 hgood
    have hitem : mergeItem ref h (s, m) i = (s, { m with got := m.got ++ [r], count := m.count + r.contrib }) := by
      simp only [mergeItem, hr, if_pos hhead, judge_accepts hepoch hgen]
    rw [List.foldl_cons, hitem, mergeItems_accept (m := { m with got := m.got ++ [r], count := m.count + r.contrib }) hmap hgood]
    simp only [List.append_assoc, List.singleton_append, List.map_cons, List.foldl_cons]

/-- Items that all read as records are none of them markers. -/
theorem records_unmarked {items : List QItem} {rs : List PartRec}
    (h : items.map (fun i => (i.marker, parseRecord i.node i.contrib i.psn i.bytes)) = rs.map (fun r => (false, some r))) :
    (∀ i ∈ items, i.marker = false) ∧ items.map (fun i => parseRecord i.node i.contrib i.psn i.bytes) = rs.map some := by
  constructor
  · intro i hi
    have hmem := List.mem_map_of_mem (f := fun i : QItem => (i.marker, parseRecord i.node i.contrib i.psn i.bytes)) hi
    rw [h] at hmem
    obtain ⟨r, -, hr⟩ := List.mem_map.1 hmem
    exact (Prod.mk.inj hr).1.symm
  · simpa only [List.map_map, Function.comp_def] using congrArg (List.map Prod.snd) h

/-! ATTN_MERGE. -/

section Merge

variable {s : State} {k : OpCtx} {q ref : Nat} {x : Queue}

theorem attnMergeOp_invalid (h : recvQueue k k.o.src0 = none ∨ mergeRef s k = none) : attnMergeOp k s = .done s .invalid 0 := by
  rcases h with h | h
  · simp only [attnMergeOp, h]
  · unfold attnMergeOp
    rw [h]
    cases recvQueue k k.o.src0 <;> rfl

variable (hq : recvQueue k k.o.src0 = some q) (href : mergeRef s k = some ref) (hx : s.queue? q = some x)
include hq href hx

theorem attnMergeOp_flushed {i : QItem} {l : List QItem} (hwait : x.waiting = i :: l) (hmark : i.marker = true) :
    attnMergeOp k s = .done { s.setQueue q (x.take s.now) with
      attn := { s.attn with merges := Tab.del (mergeKey k.h k.idx) s.attn.merges } } .flushed 0 := by
  simp only [attnMergeOp, hq, href, hx, hwait, hmark, if_true]

/-- Without a marker in the queue all that waits is taken up. -/
theorem attnMergeOp_noMarker (hmark : ∀ i ∈ x.waiting, i.marker = false) : attnMergeOp k s = attnMergeOp.attnMergeGo k s q x ref := by
  simp only [attnMergeOp, hq, href, hx]
  cases hwait : x.waiting with
  | nil => rfl
  | cons i l =>
    have hi : i.marker = false := hmark i (by rw [hwait]; exact List.mem_cons_self)
    simp only [hi, Bool.false_eq_true, if_false]

end Merge

/-- A merge op in no progress yet, whose queue holds records that it all accepts: it ends where their contributions reach what it expects. -/
theorem attnMergeGo_accepts {s : State} {k : OpCtx} {q ref : Nat} {x : Queue} {rs : List PartRec}
    (hmark : ∀ i ∈ x.waiting, i.marker = false)
    (hmap : x.waiting.map (fun i => parseRecord i.node i.contrib i.psn i.bytes) = rs.map some)
    (hgood : ∀ r ∈ rs, r.qhead < k.o.arg1 ∧ r.epoch = s.epoch ∧ r.gen % 2 ^ 24 = ref)
    (hnew : Tab.find? (mergeKey k.h k.idx) s.attn.merges = none) :
    let u := s.setQueue q (takeAll s.now x.waiting.length x)
    let n := (rs.map (·.contrib)).foldl (· + ·) 0
    let m : MergeSt := ⟨rs, [], .ok, [], n, s.epoch⟩
    attnMergeOp.attnMergeGo k s q x ref = if k.o.arg0 * k.o.arg1 ≤ n then endMerge u k m
      else .wait { u with attn := { u.attn with merges := Tab.ins (mergeKey k.h k.idx) m u.attn.merges } } := by
  intro u n m
  have hall : x.waiting.takeWhile (fun i => !i.marker) = x.waiting :=
    List.takeWhile_eq_self_iff.2 (fun i hi => by rw [hmark i hi]; rfl)
  have htaken := mergeItems_accept (s := u) (m := ⟨[], [], .ok, [], 0, s.epoch⟩) hmap hgood
  simp only [attnMergeOp.attnMergeGo, hnew, hall, Option.getD_none, List.foldl_nil]
  rw [htaken]
  rfl

/-! REMOTE_TIMEOUT. -/

section Timeout

variable {s : State}

theorem partialTimeout_due {id key : Nat} {w : AttnWait} (hw : waitOf s id = some (key, w))
    (h : w.since + s.fld R.ATTN_CTL.REMOTE_TIMEOUT * 1000 ≤ s.now) :
    partialTimeout s id = endAttn s key { w with status := w.status.worse .timeout } := by
  simp only [partialTimeout, hw, if_neg (Nat.not_lt.mpr h)]

theorem partialTimeout_early {id key : Nat} {w : AttnWait} (hw : waitOf s id = some (key, w))
    (h : s.now < w.since + s.fld R.ATTN_CTL.REMOTE_TIMEOUT * 1000) : partialTimeout s id = s := by
  simp only [partialTimeout, hw, if_pos h]

variable {h i : Nat} {m : MergeSt} {k : OpCtx} (hm : Tab.find? (mergeKey h i) s.attn.merges = some m) (hk : opCtxOf s h i = some k)
include hm hk

theorem mergeTimeout_due (hlate : ∃ r ∈ m.newer, ¬ s.now < r.2 + s.fld R.ATTN_CTL.REMOTE_TIMEOUT * 1000) :
    mergeTimeout s h i = settle h i (endMerge s k { m with newer := [], status := m.status.worse .timeout }) := by
  have hany : ¬m.newer.all (fun r => decide (s.now < r.2 + s.fld R.ATTN_CTL.REMOTE_TIMEOUT * 1000)) = true := by
    obtain ⟨r, hr, hlate⟩ := hlate
    exact fun hall => hlate (of_decide_eq_true (List.all_eq_true.1 hall r hr))
  simp only [mergeTimeout, hm, hk, if_neg hany]

theorem mergeTimeout_early (hfresh : ∀ r ∈ m.newer, s.now < r.2 + s.fld R.ATTN_CTL.REMOTE_TIMEOUT * 1000) : mergeTimeout s h i = s := by
  have hall : m.newer.all (fun r => decide (s.now < r.2 + s.fld R.ATTN_CTL.REMOTE_TIMEOUT * 1000)) = true :=
    List.all_eq_true.2 (fun r hr => decide_eq_true (hfresh r hr))
  simp only [mergeTimeout, hm, hk, if_pos hall]

end Timeout

/-! What each command does while the module is on. -/

section Commands

variable {s u : State} {k : OpCtx} {st : Status} {n : Nat} (hon : s.pow.st = .on)
include hon

theorem exec_attnMerge_done (i : Issues s (fun o => o.opcode == 0x11) k) (h : attnMergeOp k (issued s k) = .done u st n) :
    exec (.attnMerge k.h) s = .next (finish (retire u k.h k.idx st n)) := issued_retires hon i h

theorem exec_attnMerge_wait (i : Issues s (fun o => o.opcode == 0x11) k) (h : attnMergeOp k (issued s k) = .wait u) :
    exec (.attnMerge k.h) s = .next (finish (holdCtx u k.h)) := issued_waits hon i h

theorem exec_remoteTimeout_partial (id t : Nat) : exec (.remoteTimeout 0 id t) s = .next (finish (partialTimeout (atTime s t) id)) :=
  act_on hon _

/-- The key of a merge op names its context and op. -/
theorem exec_remoteTimeout_merge {i : Nat} (hi : i < 65536) (h t : Nat) :
    exec (.remoteTimeout 1 (mergeKey h i) t) s = .next (finish (mergeTimeout (atTime s t) h i)) := by
  have hctx : mergeKey h i / 65536 = h := by unfold mergeKey; omega
  have hop : mergeKey h i % 65536 = i := by unfold mergeKey; omega
  have hrun : exec (.remoteTimeout 1 (mergeKey h i) t) s =
      .next (finish (mergeTimeout (atTime s t) (mergeKey h i / 65536) (mergeKey h i % 65536))) := act_on hon _
  rw [hrun, hctx, hop]

end Commands

/-- Settles O19: a merge op by what its queue holds, and each timeout by its deadline. -/
theorem mergeOps : Obligations.MergeOps := by
  unfold Obligations.MergeOps
  refine ⟨?invalid, ?flushed, ?records, ?remote, ?held⟩
  case invalid => exact fun s k hon i h => exec_attnMerge_done hon i (attnMergeOp_invalid h)
  case flushed =>
    exact fun s k q ref x i l hon hi hq href hx hwait hmark => exec_attnMerge_done hon hi (attnMergeOp_flushed hq href hx hwait hmark)
  case records =>
    intro s k q ref x rs hon i hq href _ hx hmap hgood hnew u n m ends
    obtain ⟨hmark, hrecs⟩ := records_unmarked hmap
    have hop : attnMergeOp k (issued s k) = if k.o.arg0 * k.o.arg1 ≤ n then endMerge u k m
        else .wait { u with attn := { u.attn with merges := Tab.ins (mergeKey k.h k.idx) m u.attn.merges } } :=
      (attnMergeOp_noMarker hq href hx hmark).trans (attnMergeGo_accepts hmark hrecs hgood hnew)
    refine ⟨fun hfull => ?_, fun hshort => ?_, ?_⟩
    · obtain ⟨t, st, hend⟩ := endMerge_done u k m
      rw [if_pos hfull, hend] at hop
      exact ⟨t, st, hend, exec_attnMerge_done hon i hop⟩
    · rw [if_neg (Nat.not_le.mpr hshort)] at hop
      exact exec_attnMerge_wait hon i hop
    · intro p a hone hfull hp bs v ha r
      rw [if_pos (by rwa [hone, Nat.mul_one]), endMerge_one hone rfl hp rfl ha] at hop
      exact exec_attnMerge_done hon i hop
  case remote =>
    intro s id t key w hon hw u due
    rw [exec_remoteTimeout_partial hon]
    exact ⟨fun h => by rw [partialTimeout_due hw h], fun h => by rw [partialTimeout_early hw h]⟩
  case held =>
    intro s h i t m k hon hi hm hk u fresh
    rw [exec_remoteTimeout_merge hon hi]
    exact ⟨fun hlate => by rw [mergeTimeout_due hm hk hlate], fun hfresh => by rw [mergeTimeout_early hm hk hfresh]⟩

end Sys2Proof.Machine

/-! PROOFS. ATTN, ATTN_QUERY, and remote partials as lender and as borrower (R131, R144, R145, R148, R152, R184, R210, R214, R301). -/

namespace Sys2Proof.Machine

open Sys2Proof

/-! The ATTN op (R184). -/

/-- An ATTN op's queries as it reads them. -/
def attnRead (v : State) (k : OpCtx) (bf : Bool) (x : Span) (l : Loc) : List PByte × State :=
  locRead v k.h l (vecBytes bf ((bits k.o.arg0 20 15 + 1) * x.dim))

/-- An ATTN op's query heads and the saturations of their quantisation: the queries at `l`, the bias tables at `a`. -/
def attnHeads (v : State) (k : OpCtx) (bf : Bool) (x : Span) (l : Loc) (a : Nat) : List QHead × Nat :=
  makeHeads x (vecElems bf (attnRead v k bf x l).1) (biasTables (attnRead v k bf x l).2 a (bits k.o.arg0 20 15 + 1))

/-- The operation of an ATTN op on the queries it reads. -/
def attnAsked (v : State) (k : OpCtx) (bf : Bool) (b : Binding) (x : Span) (l : Loc) (a : Nat) : AttnReq :=
  attnReqOf v k b x (attnHeads v k bf x l a).1

section Attn

variable {v u : State} {k : OpCtx} {bf chain : Bool} {bad : List (Nat × Nat × Byte)} {b : Binding} {x : Span} {l : Loc} {a : Nat} {bb : Buf}
  {own : List Partial} {w : State × Status}
  (hidle : v.attn.waits.find? (fun p => p.2.who == .ctx k.h && p.2.idx == k.idx) = none) (hb : k.binding k.o.aux = some b)
  (hx : spanIf v k.c.fn b.span (attnOk k) = .ok x)
  (hl : operand v k k.o.src0 k.anyTile 0 (vecBytes bf ((bits k.o.arg0 20 15 + 1) * x.dim)) false = some l)
  (ha : operand v k k.o.src1 k.anyTile 0 (128 * (bits k.o.arg0 20 15 + 1)) false = some (.mem a)) (hbuf : k.p.bufs[k.o.src1]? = some bb)
  (hkind : bb.kind ≤ 1)
include hidle hb hx hl ha hbuf hkind

/-- An op whose dispatch asks no lender is delivered and ends. -/
theorem attnOp_delivers (hgo : dispatchAttn (attnRead v k bf x l).2 b.span x (attnAsked v k bf b x l a) k.h bad = .go u own [] chain)
    (hdel : deliverAttn u k ⟨.ctx k.h, k.idx, attnAsked v k bf b x l a, own, [], .ok, v.now, (attnHeads v k bf x l a).2, chain⟩ own = some w) :
    attnOp bf bad k v = .done (endWait w.1 (.ctx k.h)) w.2 (attnHeads v k bf x l a).2 := by
  unfold attnAsked attnHeads attnRead at hgo hdel
  simp only [attnOp, hidle, hb, hx, queryElems, hl, ha, hbuf, if_neg (Nat.not_lt.mpr hkind), hgo, goAttn, List.isEmpty_nil, if_true, hdel]
  rfl

/-- An op over pages all at hand computes its partials itself. -/
theorem attnOp_here {t : State} {st : Status} (hhere : ∀ p ∈ pagesRead x (attnAsked v k bf b x l a), PageHere (attnRead v k bf x l).2 x b.span p.1)
    (hdel : deliverAttn (readHere (attnRead v k bf x l).2 b.span k.h bad (pagesRead x (attnAsked v k bf b x l a))) k
      ⟨.ctx k.h, k.idx, attnAsked v k bf b x l a,
        partsHere (attnRead v k bf x l).2 b.span k.h x (attnAsked v k bf b x l a) bad (pagesRead x (attnAsked v k bf b x l a)), [], .ok, v.now,
        (attnHeads v k bf x l a).2, (pagesRead x (attnAsked v k bf b x l a)).any (fun p => ((attnRead v k bf x l).2.pte b.span p.1).st == .t1)⟩
      (partsHere (attnRead v k bf x l).2 b.span k.h x (attnAsked v k bf b x l a) bad (pagesRead x (attnAsked v k bf b x l a))) = some (t, st)) :
    attnOp bf bad k v = .done (endWait t (.ctx k.h)) st (attnHeads v k bf x l a).2 :=
  attnOp_delivers hidle hb hx hl ha hbuf hkind (dispatchPages_here _ bad hhere) hdel

end Attn

/-! ATTN_QUERY (R210). -/

/-- A query's heads and the saturations of their quantisation, from its bytes. -/
def queryHeads (u : State) (x : Span) (d : List Byte) (bs : List PByte) : List QHead × Nat :=
  makeHeads x (elemsOf bs) (biasTables u (fieldAt d 48 6) (bits (fieldAt d 14 1) 5 0 + 1))

section Query

variable {s u : State} {f r n k : Nat} {errs : Errs} {d : List Byte} {bs : List PByte} {x : Span} {own : List Partial} {chain : Bool}

/-- A query whose dispatch asks no lender is finished. -/
theorem doAttnQuery_finishes (hd : takeDesc s f r n 0x18 = some d) (hidle : s.attn.waits.any (fun p => p.2.who == .desc f r n) = false)
    (hfield : fieldAt d 8 4 = k) (hk : k < 2 ^ 18) (hx : spanIf s f k (fun x => queryOk x d) = .ok x)
    (hbias : biasOk s f (fieldAt d 48 6) (128 * (bits (fieldAt d 14 1) 5 0 + 1)) = true)
    (hread : hostReadP s f (fieldAt d 56 8) (4 * (bits (fieldAt d 14 1) 5 0 + 1) * x.dim) = some bs)
    (hgo : dispatchAttn (errsOf f errs s) k x (queryReq s f x d (queryHeads (errsOf f errs s) x d bs).1) (2 ^ 19 - 1) errs.batts = .go u own [] chain) :
    doAttnQuery f r n errs s =
      finishQuery ((endWait u (.desc f r n)).incFld R.FN_SAT_CNT (queryHeads (errsOf f errs s) x d bs).2 f) f r n d
        ⟨.desc f r n, 0, queryReq s f x d (queryHeads (errsOf f errs s) x d bs).1, own, [], .ok, s.now, (queryHeads (errsOf f errs s) x d bs).2, chain⟩
        own := by
  unfold queryHeads at hgo
  simp only [doAttnQuery, hd, hidle, hfield, Bool.false_eq_true, if_false, if_neg (Nat.not_le.mpr hk), hx, hbias, Bool.not_true, hread, hgo]
  rfl

/-- What a function may write to host memory does not follow the end of a wait and the saturations counted. -/
theorem mayWrite_satCnt (hf : f < 64) (w : Who) (v a len : Nat) :
    (hostUp ((endWait s w).incFld R.FN_SAT_CNT v f) f && winOk ((endWait s w).incFld R.FN_SAT_CNT v f) f a len true) =
      (hostUp s f && winOk s f a len true) := by
  rw [hostUp_satCnt, winOk_satCnt _ hf]
  rfl

end Query

/-! The lender (R145, R301). -/

/-- Handles that each name a page, of which something holds, name a list of such pages. -/
theorem handles_named {P : LentPage → Prop} {f : Nat → Option LentPage} : ∀ {handles : List Nat}, (∀ h ∈ handles, ∃ l, f h = some l ∧ P l) →
    ∃ ls : List LentPage, handles.map f = ls.map some ∧ ∀ l ∈ ls, P l
  | [], _ => ⟨[], rfl, fun _ h => absurd h List.not_mem_nil⟩
  | _ :: _, hall => by
    obtain ⟨⟨l, hl, hp⟩, hall⟩ := List.forall_mem_cons.1 hall
    obtain ⟨ls, hls, hps⟩ := handles_named hall
    exact ⟨l :: ls, by rw [List.map_cons, hl, hls, List.map_cons], List.forall_mem_cons.2 ⟨hp, hps⟩⟩

section Lend

variable {s : State} {node id h : Nat} {req : AttnReq} {errs : Errs} {l : LentPage}

/-- A request for pages that are all lent to its node, with their keys held, is answered with records. -/
theorem doAttnReq_serves {handles : List Nat} (hepoch : req.epoch = s.epoch)
    (hlent : ∀ h ∈ handles, ∃ l, Tab.find? h s.pg.lent = some l ∧ l.page.node = node ∧ NSet.has (node * 64 + l.page.fn) s.pg.lentKeys = true) :
    ∃ tot st, doAttnReq node id handles req errs s =
      ((errsModule errs s).emit (.partialData node id st (headRecords { req with tent := false } tot))).incFld R.ATTN_REMOTE_SRV_CNT.COUNT := by
  obtain ⟨ls, hls, hall⟩ := handles_named hlent
  have hheld : (ls.map some).filterMap (fun p => p) = ls := by simp
  have hknown : (ls.map some).any (·.isNone) = false := by simp
  have hnode : ls.any (fun l => l.page.node != node) = false := by
    simp only [List.any_eq_false, bne_iff_ne, not_not]
    exact fun l hl => (hall l hl).1
  have hkeys : ls.any (fun l => !NSet.has (node * 64 + l.page.fn) s.pg.lentKeys) = false := by
    simp only [List.any_eq_false, Bool.not_eq_true', Bool.not_eq_false]
    exact fun l hl => (hall l hl).2
  simp only [doAttnReq, hepoch, ne_eq, not_true_eq_false, false_and, if_false, hls, hheld, hnode, hknown, hkeys, Bool.false_eq_true]
  exact ⟨_, _, rfl⟩

theorem doAttnReq_stale {handles : List Nat} (hepoch : req.epoch ≠ s.epoch) (hsteady : s.flag R.MER_STAT.DRAINING = false) :
    doAttnReq node id handles req errs s = s.emit (.answer node id .epochStale) := by
  rw [doAttnReq, if_pos ⟨hepoch, by simp [hsteady]⟩]

section One

variable (hepoch : req.epoch = s.epoch)
include hepoch

theorem doAttnReq_noHandle (hl : Tab.find? h s.pg.lent = none) :
    doAttnReq node id [h] req errs s = s.emit (.answer node id .retryLater) := by
  simp [doAttnReq, hepoch, hl]

variable (hl : Tab.find? h s.pg.lent = some l)
include hl

theorem doAttnReq_otherNode (hnode : l.page.node ≠ node) : doAttnReq node id [h] req errs s = s.emit (.answer node id .protection) := by
  simp [doAttnReq, hepoch, hl, hnode]

variable (hnode : l.page.node = node)
include hnode

theorem doAttnReq_noKey (hkey : NSet.has (node * 64 + l.page.fn) s.pg.lentKeys = false) :
    doAttnReq node id [h] req errs s = s.emit (.answer node id .keyUnavailable) := by
  simp [doAttnReq, hepoch, hl, hnode, hkey]

/-- The partials of one page go back as they are. -/
theorem doAttnReq_one (hkey : NSet.has (node * 64 + l.page.fn) s.pg.lentKeys = true) :
    let p := lentParts (errsModule errs s) req l (badOf errs.batts h)
    let st := if p.2 then Status.battLength else psnStatus (p.1.any (·.psn))
    doAttnReq node id [h] req errs s =
      ((errsModule errs s).emit (.partialData node id st (headRecords { req with tent := false } p.1))).incFld R.ATTN_REMOTE_SRV_CNT.COUNT := by
  simp [doAttnReq, hepoch, hl, hnode, hkey]

end One

end Lend

/-! The borrower (R145, R152). -/

theorem doPartialData_unknown {s : State} {id : Nat} (h : waitOf s id = none) (st : Nat) (recs : List (List Byte)) :
    doPartialData id st recs s = s := by
  simp only [doPartialData, h]

/-- An answer to a request that has none is taken up, and its invalid records are counted. -/
theorem doPartialData_takes {s : State} {id key : Nat} {w : AttnWait} {r : Nat × RemoteReq} (hw : waitOf s id = some (key, w))
    (hr : w.remotes.find? (fun r => r.1 == id) = some r) (hnone : r.2.answer = none) (st : Nat) (recs : List (List Byte)) :
    doPartialData id st recs s =
      (let ps := recs.map (fun b => (parseRecord r.2.node 1 false b).filter (fun p => p.part.o.length == w.req.dim))
       let q := takeAnswer ((ps.filter (·.isNone)).foldl (fun s _ => s.incFld R.ATTN_BAD_CNT.COUNT) s) (statusOfNat st) (ps.filterMap (fun p => p)) w r.2
       let w' := { w.put id q.2 with status := (w.put id q.2).status.worse (if ps.any (·.isNone) then .invalid else .ok) }
       let u := { q.1 with attn := { q.1.attn with waits := Tab.ins key w' q.1.attn.waits } }
       if w'.remotes.all (fun r => r.2.answer.isSome) then endAttn u key w' else u) := by
  obtain ⟨i, r⟩ := r
  have hnone : r.answer = none := hnone
  simp only [doPartialData, hw, hr, hnone, Option.isSome_none, Bool.false_eq_true, if_false]

/-! What each command does while the module is on. -/

section Commands

variable {s : State} (hon : s.pow.st = .on)
include hon

/-- ATTN, from what it does in the state that the storage errors it meets leave. -/
theorem exec_attn_done {u : State} {k : OpCtx} {st : Status} {n : Nat} {bf : Bool} {errs : Errs} (i : Issues s (fun o => o.opcode == 0x10) k)
    (h : attnOp bf errs.batts k (errsMet k errs (issued s k)) = .done u st n) :
    exec (.attn k.h bf errs) s = .next (finish (retire (t0Fails errs.t0 (issued s k) u) k.h k.idx st n)) :=
  issued_retires hon i (withErrs_done h)

theorem exec_attn_noErrs {u : State} {k : OpCtx} {st : Status} {n : Nat} {bf : Bool} (i : Issues s (fun o => o.opcode == 0x10) k)
    (h : attnOp bf [] k (issued s k) = .done u st n) : exec (.attn k.h bf noErrs) s = .next (finish (retire u k.h k.idx st n)) := by
  simpa only [t0Fails_none] using exec_attn_done (errs := noErrs) hon i h

theorem exec_attnQuery_on (f r n : Nat) (errs : Errs) :
    exec (.attnQuery f r n errs) s = .next (finish (doAttnQuery f r n errs (withTlp errs.host s))) := act_on hon _

theorem exec_attnReq_on (node id : Nat) (handles : List Nat) (req : AttnReq) (errs : Errs) :
    exec (.attnReq node id handles req errs) s = .next (finish (doAttnReq node id handles req errs s)) := act_on hon _

theorem exec_partialData_on (id st : Nat) (recs : List (List Byte)) :
    exec (.partialData id st recs) s = .next (finish (doPartialData id st recs s)) := act_on hon _

end Commands

/-- Settles O9, a clause a command and case. -/
theorem attentionRuns : Obligations.AttentionRuns := by
  unfold Obligations.AttentionRuns
  refine ⟨?stores, ?sends, ?delivers, ?query, ?serves, ?one, ?stale, ?refuses, ?unknown, ?takes⟩
  case stores =>
    intro s k b x l0 l a bb bf hon i hidle hb hx hl0 ha hbuf hkind r hs q ps hhere u own st hdst bs hl w
    have hop := attnOp_here (v := issued s k) (bad := []) hidle hb hx hl0 ha hbuf hkind hhere (deliverAttn_store hdst hl)
    exact exec_attn_noErrs hon i hop
  case sends =>
    intro s k b x l0 a bb bf hon i hidle hb hx hl0 ha hbuf hkind r hs q ps hhere u own st hdst hnode hlost w
    have hop := attnOp_here (v := issued s k) (bad := []) hidle hb hx hl0 ha hbuf hkind hhere (deliverAttn_send hdst hnode hlost)
    exact exec_attn_noErrs hon i hop
  case delivers =>
    intro s u k b x l0 a bb bf chain errs own w hon i v hidle hb hx hl0 ha hbuf hkind r hs q hgo hdel
    have hop := attnOp_delivers hidle hb hx hl0 ha hbuf hkind hgo hdel
    exact exec_attn_done hon i hop
  case query =>
    intro s f r n k tlp d bs x hon hd hidle hf hfield hk hx hbias u hread hs q ps hhere own out t hmay
    have hquery : doAttnQuery f r n { noErrs with host := tlp } u = _ :=
      doAttnQuery_finishes (s := u) (errs := { noErrs with host := tlp }) hd hidle hfield hk hx hbias hread (dispatchPages_here q [] hhere)
    obtain ⟨m, hm⟩ := finishQuery_ok (s := t) r n (d := d) (ps := own)
      (w := ⟨.desc f r n, 0, q, own, [], .ok, u.now, hs.2, ps.any (fun p => (u.pte k p.1).st == .t1)⟩) rfl ((mayWrite_satCnt hf _ _ _ _).trans hmay)
    exact ⟨m, (exec_attnQuery_on hon f r n _).trans (congrArg (fun y => Host.Outcome.next (finish y)) (hquery.trans hm))⟩
  case serves =>
    intro s node id handles req errs hon hepoch hlent
    obtain ⟨tot, st, h⟩ := doAttnReq_serves (errs := errs) (id := id) hepoch hlent
    exact ⟨tot, st, by rw [exec_attnReq_on hon, h]⟩
  case one =>
    intro s node id h req errs l hon hepoch hl hnode hkey p st
    rw [exec_attnReq_on hon, doAttnReq_one hepoch hl hnode hkey]
  case stale =>
    intro s node id handles req errs hon hepoch hsteady
    rw [exec_attnReq_on hon, doAttnReq_stale hepoch hsteady]
  case refuses =>
    intro s node id h req errs hon hepoch
    rw [exec_attnReq_on hon]
    exact ⟨fun hl => by rw [doAttnReq_noHandle hepoch hl], fun l hl hnode => by rw [doAttnReq_otherNode hepoch hl hnode],
      fun l hl hnode hkey => by rw [doAttnReq_noKey hepoch hl hnode hkey]⟩
  case unknown =>
    intro s id st recs hon h
    rw [exec_partialData_on hon, doPartialData_unknown h]
  case takes =>
    intro s id key st recs w r hon hw hr hnone ps q w' u
    have hdo : doPartialData id st recs s = if w'.remotes.all (fun r => r.2.answer.isSome) = true then endAttn u key w' else u :=
      doPartialData_takes hw hr hnone st recs
    rw [exec_partialData_on hon, hdo]
    exact ⟨fun h => by rw [if_pos h], fun h => by rw [if_neg (by rw [h]; exact Bool.false_ne_true)]⟩

end Sys2Proof.Machine

/-! PROOFS. Ring mode: the RING op, the ring's pages, closes and notices, its end and its timeout (R157 to R164, R314). -/

namespace Sys2Proof.Machine

open Sys2Proof

/-! The RING op (R157, R158). -/

section Start

variable {v : State} {k : OpCtx} {p : RingParams} {bad : List (Nat × Nat × Byte)} (hidle : Tab.find? k.h v.attn.rings = none)
include hidle

theorem ringStart_outOfRange (hok : ringOk p = false) : ringStart p bad k v = ringFail k.h p v .invalid := by
  simp only [ringStart, hidle, hok, Bool.not_false, if_true]

variable (hok : ringOk p = true)
include hok

theorem ringStart_otherSpan {st : Status} (hx : spanIf v k.c.fn p.span (shapeOk p) = .error st) :
    ringStart p bad k v = ringFail k.h p v st := by
  simp only [ringStart, hidle, hok, Bool.not_true, Bool.false_eq_true, if_false, hx]

variable {x : Span} (hx : spanIf v k.c.fn p.span (shapeOk p) = .ok x)
include hx

theorem ringStart_staleEpoch (hepoch : epochAccepted v p.epoch = false) : ringStart p bad k v = ringFail k.h p v .epochStale := by
  simp only [ringStart, hidle, hok, Bool.not_true, Bool.false_eq_true, if_false, hx, hepoch, Bool.not_false, if_true]

variable (hepoch : epochAccepted v p.epoch = true)
include hepoch

theorem ringStart_lostNeighbour (hlost : p.both.any (nodeLost v) = true) : ringStart p bad k v = ringFail k.h p v .displaced := by
  simp only [ringStart, hidle, hok, Bool.not_true, Bool.false_eq_true, if_false, hx, hepoch, hlost, if_true]

variable (hlost : p.both.any (nodeLost v) = false)
include hlost

theorem ringStart_otherPlaces (hplaces : ringPlaces v k.c.fn p = false) : ringStart p bad k v = ringFail k.h p v .protection := by
  simp only [ringStart, hidle, hok, Bool.not_true, Bool.false_eq_true, if_false, hx, hepoch, hlost, hplaces, Bool.not_false, if_true]

variable (hplaces : ringPlaces v k.c.fn p = true)
include hplaces

theorem ringStart_noQueries (ha : operand v k k.o.src0 k.anyTile 0 (4 * (p.queries * p.kvHeads * p.hPerKv * p.dim)) false = none) :
    ringStart p bad k v = ringFail k.h p v .protection := by
  simp only [ringStart, hidle, hok, Bool.not_true, Bool.false_eq_true, if_false, hx, hepoch, hlost, hplaces, ha]

theorem ringStart_goes {a : Loc}
    (ha : operand v k k.o.src0 k.anyTile 0 (4 * (p.queries * p.kvHeads * p.hPerKv * p.dim)) false = some a) :
    ringStart p bad k v = ringGo p bad k x a v := by
  simp only [ringStart, hidle, hok, Bool.not_true, Bool.false_eq_true, if_false, hx, hepoch, hlost, hplaces, ha]

end Start

section Go

variable {v : State} {k : OpCtx} {p : RingParams} {bad : List (Nat × Nat × Byte)} {x : Span} {a : Loc} {lim : Nat} {pages : List Nat}
  (hlim : (snapshot x p.tentative).1 = lim) (hpages : ringBlock v x p lim = pages)
include hlim hpages

theorem ringGo_pageGone (hgone : pages.any (pageGone v p.span) = true) : ringGo p bad k x a v = ringFail k.h p v .displaced := by
  simp only [ringGo, hlim, hpages, hgone, if_true]

variable (hgone : pages.any (pageGone v p.span) = false) (hhere : ∀ q ∈ pages, (v.pte p.span q).st ≠ .t3)
include hgone hhere

/-- A block of which no page lies in T3 needs no promotion: the ring turns on the size of its halves. -/
theorem ringGo_here : ringGo p bad k x a v =
    if (ringHalves v p x lim x.gen pages).any (fun l => decide (p.slotBytes < halfSize l)) = true then ringFail k.h p v .invalid
    else .wait (ringBegin p bad k x a pages [] (ringHalves v p x lim x.gen pages).flatten v) := by
  have hnone : pages.filter (fun q => (v.pte p.span q).st == .t3) = [] :=
    List.filter_eq_nil_iff.2 (fun q hq => by simpa using hhere q hq)
  simp only [ringGo, hlim, hpages, hgone, Bool.false_eq_true, if_false, hnone, promoteAll]

theorem ringGo_halfTooLong (hlong : ∃ l ∈ ringHalves v p x lim x.gen pages, p.slotBytes < halfSize l) :
    ringGo p bad k x a v = ringFail k.h p v .invalid := by
  rw [ringGo_here hlim hpages hgone hhere, if_pos (by simpa using hlong)]

theorem ringGo_begins (hfit : ∀ l ∈ ringHalves v p x lim x.gen pages, halfSize l ≤ p.slotBytes) :
    ringGo p bad k x a v = .wait (ringBegin p bad k x a pages [] (ringHalves v p x lim x.gen pages).flatten v) := by
  rw [ringGo_here hlim hpages hgone hhere, if_neg (by simpa using hfit)]

end Go

/-! A ring in progress. -/

/-- The rings do not follow the time. -/
@[simp] theorem attn_atTime (s : State) (t : Nat) : (atTime s t).attn = s.attn := by
  unfold atTime
  split <;> rfl

theorem find_ringPump (s : State) (h : Nat) (g : RingSt) :
    ∃ g', Tab.find? h (ringPump s h g).attn.rings = some g' ∧ g'.idx = g.idx ∧ g'.par = g.par :=
  ⟨_, Tab.find?_ins_same h _ _, rfl, rfl⟩

/-- A ring that begins is in progress, for its op and with its parameters. -/
theorem find_ringBegin (s : State) (x : Span) (k : OpCtx) (p : RingParams) (bad : List (Nat × Nat × Byte)) (a : Loc) (pages : List Nat)
    (f1 : List (Nat × Nat)) (halves : List RingSend) :
    ∃ g, Tab.find? k.h (ringBegin p bad k x a pages f1 halves s).attn.rings = some g ∧ g.idx = k.idx ∧ g.par = p :=
  find_ringPump _ _ _

/-- Notices change nothing but what is sent. -/
theorem ringAbortOut_only (s : State) (p : RingParams) : ∃ o, ringAbortOut s p = { s with out := o } := emits_only _ _ s

/-- A ring that ends takes from the attention state its ring and what was held for it. -/
theorem attn_ringEnd (s : State) (h : Nat) (p : RingParams) (st : Status) : (ringEnd s h p st).attn =
    { s.attn with rings := Tab.del h s.attn.rings, ringIn := s.attn.ringIn.filter (fun m => m.2.1 != h) } := by
  have hout (t : State) : (ringAbortOut t p).attn = t.attn := by
    obtain ⟨o, ho⟩ := ringAbortOut_only t p
    rw [ho]
  have hnotice (t : State) : (if ringNotifies st then ringAbortOut t p else t).attn = t.attn := by
    split_ifs
    exacts [hout t, rfl]
  unfold ringEnd
  dsimp only
  rw [hnotice]
  split_ifs <;> rfl

/-! Messages (R159, R161, R162, R314). -/

section Messages

variable {s : State} {h : Nat} {hd table : List Byte} {batts : List (List Byte × Bool)} {o gen e : Nat}

theorem ringArrive_page_noRing (hnone : Tab.find? h s.attn.rings = none) :
    ringArrive s h (.page hd table batts) = ringHold s h (.page hd table batts) := by
  simp only [ringArrive, hnone]

theorem ringArrive_close_noRing (hnone : Tab.find? h s.attn.rings = none) : ringArrive s h (.close o gen e) = s := by
  simp only [ringArrive, hnone]

variable {g : RingSt} (hg : Tab.find? h s.attn.rings = some g)

section Arrive
include hg

theorem ringArrive_page_badHeader (hbad : ringHeaderOk g.par hd = false) :
    ringArrive s h (.page hd table batts) = ringFails s h g .invalid := by
  simp only [ringArrive, hg, hbad, Bool.not_false, if_true]

theorem ringArrive_page (hgood : ringHeaderOk g.par hd = true) : ringArrive s h (.page hd table batts) =
    if epochNewer s (fieldAt hd 8 2) = true then ringHold s h (.page hd table batts) else ringMsg s h g (.page hd table batts) := by
  simp only [ringArrive, hg, hgood, Bool.not_true, Bool.false_eq_true, if_false]
  rfl

theorem ringArrive_close : ringArrive s h (.close o gen e) =
    if epochNewer s e = true then ringHold s h (.close o gen e) else ringMsg s h g (.close o gen e) := by
  simp only [ringArrive, hg]
  rfl

end Arrive

theorem ringMsg_stale {m : RingMsg} (hepoch : epochAccepted s m.epoch = false ∨ m.epoch ≠ g.par.epoch) :
    ringMsg s h g m = ringStale s h g m.epoch :=
  if_pos (hepoch.imp_left (fun hacc => by rw [hacc, Bool.not_false]))

section Current

/-- The guard of `ringMsg` against a message of another epoch. -/
theorem ringMsg_current {m : RingMsg} (hacc : epochAccepted s m.epoch = true) (hepoch : m.epoch = g.par.epoch) :
    ¬((!epochAccepted s m.epoch) = true ∨ m.epoch ≠ g.par.epoch) := by
  rintro (hrefused | hother)
  · simp [hacc] at hrefused
  · exact hother hepoch

theorem ringMsg_close (hacc : epochAccepted s e = true) (hepoch : e = g.par.epoch) :
    ringMsg s h g (.close o gen e) = ringCloseMsg s h g o gen := by
  unfold ringMsg
  rw [if_neg (ringMsg_current (m := .close o gen e) hacc hepoch)]

variable (hacc : epochAccepted s (fieldAt hd 8 2) = true) (hepoch : fieldAt hd 8 2 = g.par.epoch)
include hacc hepoch

theorem ringMsg_page_noSpan (hx : s.span? g.par.span = none) : ringMsg s h g (.page hd table batts) = ringFails s h g .aborted := by
  unfold ringMsg
  rw [if_neg (ringMsg_current (m := .page hd table batts) hacc hepoch), hx]

variable {x : Span} (hx : s.span? g.par.span = some x)
include hx

/-- A page of the ring's own epoch is taken where its half's slot has room for it. -/
theorem ringMsg_page : ringMsg s h g (.page hd table batts) =
    let dir := bits (fieldAt hd 2 1) 6 6
    if g.par.slotBytes < ringFilled g (ringStep g.par (bits (fieldAt hd 2 1) 5 0) dir) dir + ringSize table batts then ringFails s h g .invalid
    else ringTake s h g x hd table batts := by
  unfold ringMsg
  rw [if_neg (ringMsg_current (m := .page hd table batts) hacc hepoch), hx]

end Current

end Messages

/-! Closes (R161). -/

/-- Where the close of an origin is passed on to: away from it, each way as far as half the ring. -/
def ringOnward (p : RingParams) (o : Nat) : List Nat :=
  let f := ringStep p o 0
  if f < p.n / 2 then [p.next 0] else if p.n / 2 < f ∧ p.n - f < p.n / 2 then [p.next 1] else []

section Close

variable {s : State} {h : Nat} {g : RingSt} {o gen : Nat}

/-- A close of an unknown origin, of this member itself, or that has come before, is dropped. -/
theorem ringCloseMsg_drops (hdrop : g.par.n ≤ o ∨ o = g.par.position ∨ g.closes.any (fun c => c.1 == o) = true) :
    ringCloseMsg s h g o gen = s := by
  rw [ringCloseMsg, if_pos hdrop]

/-- The two ways round, told apart at half the ring. -/
theorem ringOnward_eq (p : RingParams) (o : Nat) : ringOnward p o =
    if ringStep p o 0 ≤ p.n / 2 then (if ringStep p o 0 < p.n / 2 then [p.next 0] else [])
    else (if p.n - ringStep p o 0 < p.n / 2 then [p.next 1] else []) := by
  unfold ringOnward
  dsimp only
  by_cases hle : ringStep p o 0 ≤ p.n / 2
  · simp only [if_pos hle, Nat.not_lt.2 hle, false_and, if_false]
  · have hlt : p.n / 2 < ringStep p o 0 := Nat.lt_of_not_le hle
    simp only [if_neg hle, if_neg (Nat.lt_asymm hlt), hlt, true_and]

/-- The first close of another member is noted, and passed on. -/
theorem ringCloseMsg_notes (hknown : o < g.par.n) (hother : o ≠ g.par.position) (hfirst : g.closes.any (fun c => c.1 == o) = false) :
    ringCloseMsg s h g o gen =
      ringNext ((ringOnward g.par o).foldl (fun s n => s.emit (.ringClose n o gen g.par.epoch)) s) h
        { g with closes := Tab.ins o gen g.closes, last := s.now } := by
  have hgo : ¬(g.par.n ≤ o ∨ o = g.par.position ∨ g.closes.any (fun c => c.1 == o) = true) := by simp [hknown, hother, hfirst]
  have hnow : ∀ l : List Nat, (l.foldl (fun s n => s.emit (.ringClose n o gen g.par.epoch)) s).now = s.now := fun l => by
    obtain ⟨out, hout⟩ := emits_only (fun _ n => Out.ringClose n o gen g.par.epoch) l s
    rw [hout]
    rfl
  rw [ringCloseMsg, if_neg hgo, ringOnward_eq]
  dsimp only
  rw [hnow]

end Close

/-! The end of a ring (R161, R163). -/

/-- Does a close show another generation than the pages of its origin did? -/
def ringDiffers (g : RingSt) : Bool :=
  g.gens.any (fun o => match Tab.find? o.1 g.closes with
    | some c => decide ((c % 2 ^ 24 + 2 ^ 24 - o.2) % 2 ^ 24 ≠ 0)
    | none => false)

/-- The merged partials of a ring, page by page in the order of R160. -/
def ringTotal (g : RingSt) : List Partial :=
  ((g.rows.foldl (fun l r => ringIns r l) []).map (·.parts)).foldl mergeHeads
    (List.replicate (g.par.queries * g.par.kvHeads * g.par.hPerKv) (emptyPart g.par.dim 0))

/-- The outputs of a ring as they are stored. -/
def ringOut (g : RingSt) : List PByte := (ringTotal g).flatMap (fun p => outBytesOf false p.psn (finishPart p))

section Finish

variable {s : State} {h : Nat} {g : RingSt} {k : OpCtx} (hk : opCtxOf s h g.idx = some k)
include hk

theorem ringFinish_differs (hdiff : ringDiffers g = true) : ringFinish s h g = ringFails s h g .horizon := by
  rw [ringFinish, hk]
  exact if_pos hdiff

variable (hsame : ringDiffers g = false)
include hsame

theorem ringFinish_unreachable (ha : operand s k k.o.dst k.anyTile 0 (ringOut g).length true = none) :
    ringFinish s h g = ringFails s h g .protection := by
  rw [ringFinish, hk]
  refine (if_neg (ne_true_of_eq_false hsame)).trans ?_
  unfold ringOut ringTotal at ha
  simp only [ha]
  rfl

theorem ringFinish_writes {a : Loc} (ha : operand s k k.o.dst k.anyTile 0 (ringOut g).length true = some a) :
    let r := locWrite s h a (ringOut g)
    let st := (ringTotal g).foldl (fun a p => a.worse (partStatus p)) .ok
    ringFinish s h g = ringFails r.1 h g (if r.2 then st.worse .poison else st) := by
  rw [ringFinish, hk]
  refine (if_neg (ne_true_of_eq_false hsame)).trans ?_
  unfold ringOut ringTotal at ha
  simp only [ha]
  rfl

end Finish

section Timeout

variable {s : State} {h : Nat} {g : RingSt} (hg : Tab.find? h s.attn.rings = some g)
include hg

theorem ringTimeout_due (hdue : g.last + s.fld R.ATTN_CTL.REMOTE_TIMEOUT * 1000 ≤ s.now) : ringTimeout s h = ringFails s h g .timeout := by
  simp only [ringTimeout, hg, if_neg (Nat.not_lt.mpr hdue)]

theorem ringTimeout_early (hearly : s.now < g.last + s.fld R.ATTN_CTL.REMOTE_TIMEOUT * 1000) : ringTimeout s h = s := by
  simp only [ringTimeout, hg, if_pos hearly]

end Timeout

/-! What each command does while the module is on. -/

/-- The RING command that carries a ring's parameters, with the code of its span's format. -/
def ringInstr (h : Nat) (p : RingParams) (code : Nat) (errs : Errs) : Instr :=
  .ring h p.members p.position p.bothWays p.span p.slot p.kvHeads p.dim code p.ilog p.strided p.length p.queries p.hPerKv p.posQ0 p.sQk.toNat
    p.bias p.window p.sinks p.segStart p.oBf16 p.tentative p.epoch p.slots p.slotBytes p.creditFwd p.creditBwd errs

theorem exec_ringInstr {p : RingParams} {code : Nat} (hcode : fmtOfCode code = p.fmt) (h : Nat) (errs : Errs) (s : State) :
    exec (ringInstr h p code errs) s =
      act s (ringReplay (runOp s h (fun o => o.opcode == 0x13) (readErrs errs (ringStart p errs.batts))) (some h)) := by
  have hp : { p with fmt := fmtOfCode code, sQk := BitVec.ofNat 32 p.sQk.toNat } = p := by
    rw [hcode, BitVec.ofNat_toNat, BitVec.setWidth_eq]
  calc exec (ringInstr h p code errs) s
      = act s (ringReplay (runOp s h (fun o => o.opcode == 0x13)
          (readErrs errs (ringStart { p with fmt := fmtOfCode code, sQk := BitVec.ofNat 32 p.sQk.toNat } errs.batts))) (some h)) := rfl
    _ = _ := by rw [hp]

section Commands

variable {s : State} (hon : s.pow.st = .on)
include hon

section Ring

variable {k : OpCtx} (i : Issues s (fun o => o.opcode == 0x13) k) {p : RingParams} {code : Nat} (hcode : fmtOfCode code = p.fmt) {errs : Errs}
include i hcode

theorem exec_ring_fails {st : Status}
    (h : ringStart p errs.batts k (errsMet k errs (issued s k)) = ringFail k.h p (errsMet k errs (issued s k)) st) :
    exec (ringInstr k.h p code errs) s = .next (finish (ringReplay
      (retire (t0Fails errs.t0 (issued s k) (ringEnd (errsMet k errs (issued s k)) k.h p st)) k.h k.idx st 0) (some k.h))) := by
  rw [exec_ringInstr hcode, act_on hon, runOp_issue i, readErrs_done h, settle]

theorem exec_ring_waits {u : State} (h : ringStart p errs.batts k (errsMet k errs (issued s k)) = .wait u) :
    exec (ringInstr k.h p code errs) s =
      .next (finish (ringReplay (holdCtx (t0Fails errs.t0 (issued s k) u) k.h) (some k.h))) := by
  rw [exec_ringInstr hcode, act_on hon, runOp_issue i, readErrs_wait h, settle]

end Ring

theorem exec_ringPage_on (h : Nat) (hd table : List Byte) (batts : List (List Byte × Bool)) (t : Nat) :
    exec (.ringPage h hd table batts t) s = .next (finish (ringArrive (atTime s t) h (.page hd table batts))) := act_on hon _

theorem exec_ringClose_on (h o gen epoch t : Nat) :
    exec (.ringClose h o gen epoch t) s = .next (finish (ringArrive (atTime s t) h (.close o gen epoch))) := act_on hon _

theorem exec_ringAbortNotice_none {h : Nat} (hnone : Tab.find? h s.attn.rings = none) :
    exec (.ringAbortNotice h) s = .next (finish s) := by
  refine (act_on hon _).trans ?_
  rw [hnone]

theorem exec_ringAbortNotice_some {h : Nat} {g : RingSt} (hg : Tab.find? h s.attn.rings = some g) :
    exec (.ringAbortNotice h) s = .next (finish (ringFails s h g .aborted)) := by
  refine (act_on hon _).trans ?_
  rw [hg]

theorem exec_remoteTimeout_ring (h t : Nat) : exec (.remoteTimeout 2 h t) s = .next (finish (ringTimeout (atTime s t) h)) := act_on hon _

end Commands

/-- Settles O20: the op by its checks in their order, a message by its header, epoch and room, and the end by what the closes show. -/
theorem mergeAndRing : Obligations.MergeAndRing := by
  unfold Obligations.MergeAndRing
  refine ⟨?op, find_ringBegin, ?page, ?close, ?noRing, ?timeout, ?finish, ?ends⟩
  case op =>
    intro s k p code errs hon i hcode v hidle run ends n
    have hfails : ∀ {st}, ringStart p errs.batts k v = ringFail k.h p v st → run = ends st := exec_ring_fails hon i hcode
    refine ⟨fun hok => hfails (ringStart_outOfRange hidle hok), fun st hok hx => hfails (ringStart_otherSpan hidle hok hx), fun x hok hx => ?_⟩
    refine ⟨fun hepoch => hfails (ringStart_staleEpoch hidle hok hx hepoch),
      fun hepoch hlost => hfails (ringStart_lostNeighbour hidle hok hx hepoch hlost), fun hepoch hlost => ?_⟩
    refine ⟨fun hplaces => hfails (ringStart_otherPlaces hidle hok hx hepoch hlost hplaces),
      fun hplaces ha => hfails (ringStart_noQueries hidle hok hx hepoch hlost hplaces ha), fun a hplaces ha => ?_⟩
    intro lim pages halves
    have hgoes : ringStart p errs.batts k v = ringGo p errs.batts k x a v := ringStart_goes hidle hok hx hepoch hlost hplaces ha
    refine ⟨fun hgone => hfails (hgoes.trans (ringGo_pageGone rfl rfl hgone)), fun hgone hhere => ?_⟩
    exact ⟨fun hlong => hfails (hgoes.trans (ringGo_halfTooLong rfl rfl hgone hhere hlong)),
      fun hfit => exec_ring_waits hon i hcode (hgoes.trans (ringGo_begins rfl rfl hgone hhere hfit))⟩
  case page =>
    intro s h t hd table batts hon u m run
    have hrun : run = .next (finish (ringArrive u h m)) := exec_ringPage_on hon h hd table batts t
    rw [hrun, ← attn_atTime s t]
    refine ⟨fun hnone => by rw [ringArrive_page_noRing hnone], fun g hg => ?_⟩
    intro dir step
    refine ⟨fun hbad => by rw [ringArrive_page_badHeader hg hbad], fun hgood hnew => by rw [ringArrive_page hg hgood, if_pos hnew],
      fun hgood hcame => ?_⟩
    rw [ringArrive_page hg hgood, if_neg (ne_true_of_eq_false hcame)]
    refine ⟨fun hstale => by rw [ringMsg_stale (m := m) hstale]; rfl, fun hacc hepoch => ⟨fun hx => by rw [ringMsg_page_noSpan hacc hepoch hx],
      fun x hx => ?_⟩⟩
    rw [ringMsg_page hacc hepoch hx]
    exact ⟨fun hfull => by rw [if_pos hfull], fun hroom => by rw [if_neg (Nat.not_lt.2 hroom)]⟩
  case close =>
    intro s h o gen epoch t g hon hg u run
    rw [← attn_atTime s t] at hg
    have hrun : run = .next (finish (ringArrive u h (.close o gen epoch))) := exec_ringClose_on hon h o gen epoch t
    rw [hrun, ringArrive_close hg]
    refine ⟨fun hnew => by rw [if_pos hnew], fun hcame hstale => ?_, fun hcame hacc hepoch => ?_⟩
    · rw [if_neg (ne_true_of_eq_false hcame), ringMsg_stale (m := .close o gen epoch) hstale]
      rfl
    · rw [if_neg (ne_true_of_eq_false hcame), ringMsg_close hacc hepoch]
      exact ⟨fun hdrop => by rw [ringCloseMsg_drops hdrop], fun hknown hother hfirst => by rw [ringCloseMsg_notes hknown hother hfirst]; rfl⟩
  case noRing =>
    intro s h o gen epoch t hon hnone
    refine ⟨?_, exec_ringAbortNotice_none hon hnone⟩
    rw [exec_ringClose_on hon, ringArrive_close_noRing (by rwa [attn_atTime])]
  case timeout =>
    intro s h t g hon hg u due
    have hu : Tab.find? h u.attn.rings = some g := by rwa [attn_atTime]
    rw [exec_remoteTimeout_ring hon]
    exact ⟨exec_ringAbortNotice_some hon hg, fun hdue => by rw [ringTimeout_due hu hdue], fun hearly => by rw [ringTimeout_early hu hearly]⟩
  case finish =>
    intro s h g k hk stale ps tot st bs
    exact ⟨ringFinish_differs hk, ringFinish_unreachable hk, fun a hsame ha => ringFinish_writes hk hsame ha⟩
  case ends =>
    intro s h p st
    rw [attn_ringEnd]
    exact ⟨Tab.find?_del_same h _, rfl⟩

end Sys2Proof.Machine

/-! PROOFS. The step sequencers: selection, quanta, the end of an iteration, and fixed slots (R178, R181, R189 to R192). -/

namespace Sys2Proof.Machine

open Sys2Proof

/-- Time that moves forward leaves the contexts, counters and slots. -/
@[simp] theorem sch_atTime (s : State) (t : Nat) : (atTime s t).sch = s.sch := by
  unfold atTime
  split_ifs
  · exact State.setFld_sch s _ _ _ _
  · rfl

/-! Selection (R189). -/

section Select

variable {s t : State} {die q h : Nat}

/-- A READY context put on a sequencer, and the switch counted (R189). -/
def runContext (t : State) (h seq : Nat) : State :=
  (t.updCtx h (fun c => { c with st := .running, sequencer := some seq, quantumOver := false })).incFld R.SCHED_SWITCH_CNT.COUNT

theorem ctx_runContext_same (t : State) (h seq : Nat) : (runContext t h seq).ctx? h =
    (t.ctx? h).map (fun c => { c with st := .running, sequencer := some seq, quantumOver := false }) :=
  ctx_updCtx_same t h _

theorem ctx_runContext_ne (t : State) {g h : Nat} (hne : g ≠ h) (seq : Nat) : (runContext t h seq).ctx? g = t.ctx? g :=
  ctx_updCtx_ne t hne _

/-- The count of switches goes one up, held at all ones (R7). -/
theorem switches_runContext (t : State) (h seq : Nat) :
    (runContext t h seq).fld R.SCHED_SWITCH_CNT.COUNT = satTo (2 ^ 32 - 1) (t.fld R.SCHED_SWITCH_CNT.COUNT + 1) := by
  have hmax : R.SCHED_SWITCH_CNT.COUNT.max = 2 ^ 32 - 1 := rfl
  rw [runContext, fld_incFld_same, hmax]
  exact min_def _ _

theorem doSelect_runs (hdie : die < 4) (hq : q < 16) (hfree : s.sch.ctxs.any (fun p => p.2.sequencer == some (die * 16 + q)) = false)
    (hnext : nextReady s die = some (h, t)) : doSelect die q s = runContext t h (die * 16 + q) := by
  have hmay : ¬(4 ≤ die ∨ 16 ≤ q ∨ s.sch.ctxs.any (fun p => p.2.sequencer == some (die * 16 + q)) = true) := by
    rw [hfree]
    simp only [Bool.false_eq_true, or_false]
    omega
  simp only [doSelect, if_neg hmay, hnext]
  rfl

end Select

/-! Quanta (R190). -/

section Quantum

variable {s : State} {h : Nat} {c : Ctx} (hc : s.ctx? h = some c)
include hc

theorem doQuantumExpiry_switches (hst : c.st = .running) (hgoing : iterDone s c = false)
    (hother : s.sch.ctxs.any (fun p => p.2.st == .ready && p.2.home == c.home) = true) :
    doQuantumExpiry h s = (toReady s h).incFld R.SCHED_QUANTUM_CNT.COUNT := by
  have hmay : ¬(c.st ≠ .running ∨ iterDone s c = true) := by simp [hst, hgoing]
  simp only [doQuantumExpiry, hc, if_neg hmay, if_pos hother]

theorem ctx_toReady : (toReady s h).ctx? h =
    some { c with st := .ready, sequencer := none, quantumOver := false, idleSince := s.sch.idleTick + 1 } :=
  (ctx_updCtx_same _ h _).trans (congrArg (Option.map _) hc)

end Quantum

/-! The end of an iteration (R178, R181). -/

section Iteration

variable {s : State} {h : Nat} {c : Ctx} {e : Machine.Step} {q : Program} {p : Prog} (hc : s.ctx? h = some c) (he : c.step = some e)
  (hp : progOf s c.program = some (q, p)) (hst : c.st ≠ .aborting) (hdone : iterDone s c = true)
include hc he hp hst hdone

theorem doIterationEnd_stopped (hstop : e.stopped = true) : doIterationEnd h s = startNext (endStep s h) h := by
  simp [doIterationEnd, hc, he, hp, hst, hdone, hstop]

theorem doIterationEnd_retries (hstop : e.stopped = false) (hretry : e.retry = true) :
    doIterationEnd h s = goTo s h c.phase c.iter (c.retries + 1) := by
  simp [doIterationEnd, hc, he, hp, hst, hdone, hstop, hretry]

/-- A good iteration is followed by the next of its phase, by the next phase, or by the end of the step. -/
theorem doIterationEnd_advances {f : Phase} (hstop : e.stopped = false) (hretry : e.retry = false) (hf : p.phases[c.phase]? = some f) :
    doIterationEnd h s =
      if c.iter + 1 < f.repeat_ then goTo s h c.phase (c.iter + 1) 0
      else if f.next ≠ 0xFFFF then goTo s h f.next 0 0
      else startNext (endStep s h) h := by
  simp [doIterationEnd, hc, he, hp, hst, hdone, hstop, hretry, hf]

end Iteration

/-! Fixed slots (R191). -/

section Slots

variable {s : State} {t : Nat} (hpol : (atTime s t).flag R.SCHED_CTL.POLICY = true)
include hpol

theorem doSlotBoundary_fixed : doSlotBoundary t s = takeSlot (if (atTime s t).now < s.sch.slotEnd then atTime s t
    else (atTime s t).incFld R.SCHED_OVERRUN_CNT.COUNT (runningOps (atTime s t))) := by
  simp only [doSlotBoundary, hpol, Bool.not_true, Bool.false_eq_true, if_false, sch_atTime]

theorem doSlotGuard_begins (hnear : s.sch.slotEnd ≤ (atTime s t).now + (atTime s t).fld R.SCHED_GUARD.GUARD) :
    doSlotGuard t s = { atTime s t with sch := { (atTime s t).sch with guard := true } } := by
  simp only [doSlotGuard, hpol, sch_atTime, decide_eq_true hnear, Bool.and_self, if_true]

end Slots

/-! What each command does while the module is on. -/

section Commands

variable {s : State} (hon : s.pow.st = .on)
include hon

theorem exec_sequencerSelect_on (die q : Nat) : exec (.sequencerSelect die q) s = .next (finish (doSelect die q s)) := act_on hon _

theorem exec_quantumExpiry_on (h : Nat) : exec (.quantumExpiry h) s = .next (finish (doQuantumExpiry h s)) := act_on hon _

theorem exec_phaseIterationEnd_on (h : Nat) : exec (.phaseIterationEnd h) s = .next (finish (doIterationEnd h s)) := act_on hon _

theorem exec_slotBoundary_on (t : Nat) : exec (.slotBoundary t) s = .next (finish (doSlotBoundary t s)) := act_on hon _

theorem exec_slotGuard_on (t : Nat) : exec (.slotGuard t) s = .next (finish (doSlotGuard t s)) := act_on hon _

end Commands

/-- Settles O12, a clause a command: what the policy answers is run, and an iteration that is done is followed as its step and phase say. -/
theorem sequencersRun : Obligations.SequencersRun := by
  unfold Obligations.SequencersRun
  refine ⟨?select, ?ready, ?quantum, ?advance, ?stopped, ?retry, ?boundary, ?overrun, ?guard⟩
  case select =>
    intro s t die q h hon hdie hq hfree hnext
    rw [exec_sequencerSelect_on hon, doSelect_runs hdie hq hfree hnext]
    rfl
  case ready =>
    intro s die q h c hon hdie hq hfree hpol hmem hst hhome hfn
    obtain ⟨k, e, d, hnext, hk, hready, hdie'⟩ := nextReady_some hpol hmem hst hhome hfn
    refine ⟨k, e, runContext { s with sch := { s.sch with deficits := d } } k (die * 16 + q), hk, hready, hdie', ?_, ctx_runContext_same _ k _,
      fun j hj => ctx_runContext_ne _ hj _, switches_runContext _ k _⟩
    rw [exec_sequencerSelect_on hon, doSelect_runs hdie hq hfree hnext]
  case quantum =>
    intro s h c hon hc hst hgoing hother
    refine ⟨?_, _, ctx_toReady hc, rfl, rfl, rfl, rfl⟩
    rw [exec_quantumExpiry_on hon, doQuantumExpiry_switches hc hst hgoing hother]
  case advance =>
    intro s h c e q p f hon hc he hp hst hdone hstop hretry hf
    rw [exec_phaseIterationEnd_on hon, doIterationEnd_advances hc he hp hst hdone hstop hretry hf]
    refine ⟨fun hmore => ?_, fun hlast hnext => ?_, fun hlast hend => ?_⟩
    · rw [if_pos hmore]
    · rw [if_neg (Nat.not_lt.2 hlast), if_pos hnext]
    · rw [if_neg (Nat.not_lt.2 hlast), if_neg (not_not_intro hend)]
  case stopped =>
    intro s h c e q p hon hc he hp hst hdone hstop
    rw [exec_phaseIterationEnd_on hon, doIterationEnd_stopped hc he hp hst hdone hstop]
  case retry =>
    intro s h c e q p hon hc he hp hst hdone hstop hretry
    rw [exec_phaseIterationEnd_on hon, doIterationEnd_retries hc he hp hst hdone hstop hretry]
  case boundary =>
    intro s t hon hpol hearly
    rw [exec_slotBoundary_on hon, doSlotBoundary_fixed hpol, if_pos hearly]
    rfl
  case overrun =>
    intro s t hon hpol hlate
    rw [exec_slotBoundary_on hon, doSlotBoundary_fixed hpol, if_neg (Nat.not_lt.2 hlate)]
  case guard =>
    intro s t hon hpol hnear
    rw [exec_slotGuard_on hon, doSlotGuard_begins hpol hnear]

end Sys2Proof.Machine

/-! PROOFS. The sync counters: SYNC_OP descriptors, the counter step ops, timeouts of waits and the firing of triggers (R193 to R196, R208, R255, R263). -/

namespace Sys2Proof.Machine

open Sys2Proof

/-! Adds, sets and arming (R194, R196). -/

section Counters

variable {s : State} {c v : Nat}

/-- A counter set to a value. -/
def setCounter (s : State) (c v : Nat) : State := { s with sch := { s.sch with counters := Tab.put 0 c v s.sch.counters } }

theorem counterVal_setCounter (s : State) (c v : Nat) : counterVal (setCounter s c v) c = v := Tab.get_put_same 0 c v _

theorem syncAdd_fits (h : counterVal s c + v < 2 ^ 64) : syncAdd s c v = (releaseMet (setCounter s c (counterVal s c + v)) c, .ok) :=
  if_neg (Nat.not_le.2 h)

theorem syncAdd_overflows (h : 2 ^ 64 ≤ counterVal s c + v) : syncAdd s c v = (s.setFld R.SYNC_ERR.OVERFLOW 1, .invalid) := if_pos h

theorem syncSet_free (h : counterBusy s c = false) : syncSet s c v = (setCounter s c (v % 2 ^ 64), .ok) := if_neg (ne_true_of_eq_false h)

theorem syncSet_busy (h : counterBusy s c = true) : syncSet s c v = (s.setFld R.SYNC_ERR.SET_REJECT 1, .invalid) := if_pos h

/-- A trigger armed, behind those already armed. -/
def armTrigger (s : State) (g : Trigger) : State :=
  { s with sch := { s.sch with triggers := Tab.ins s.sch.armTick g s.sch.triggers, armTick := s.sch.armTick + 1 } }

theorem syncArm_arms {f kind : Nat} {ctx : Option Nat} {body : List Byte} {ep : Bool} (hform : bodyFormOk s f kind body ep = true)
    (hceil : armedOf s f < s.fld R.FN_TRIG_CEIL f) (hdie : armedOn s (c / 65536) < 32768) :
    syncArm s f ctx (some c) v kind body ep = (armTrigger s ⟨f, ctx, c, v, kind, body⟩, .ok) := by
  have hroom : ¬(s.fld R.FN_TRIG_CEIL f ≤ armedOf s f ∨ 32768 ≤ armedOn s (c / 65536)) := by omega
  simp only [syncArm, hform, Bool.not_true, Bool.false_eq_true, if_false, if_neg hroom]
  rfl

theorem fnCounter_outside {f i : Nat} (h : s.fld R.SYNC_FN_COUNT.SYNC_COUNT f ≤ i) : fnCounter s f i = none := if_neg (Nat.not_lt.2 h)

end Counters

/-! SYNC_OP descriptors (R208). -/

section SyncOps

variable {s : State} {f r n c : Nat} {d : List Byte}

section OnCounter

variable {kind : Nat} (hd : takeSync s f r n kind = some d) (hok : syncFieldsOk d kind = true)
include hd hok

/-- A SYNC_OP in order acts on the counter it names. -/
theorem onCounter_acts (hc : fnCounter s f (fieldAt d 12 4) = some c) (run : List Byte → Nat → State → State) :
    onCounter f r n kind run s = run d c s := by
  simp only [onCounter, hd, hok, hc, Bool.not_true, Bool.false_eq_true, if_false]

/-- One that names a counter beyond its function's is refused (R193). -/
theorem onCounter_outside (hout : s.fld R.SYNC_FN_COUNT.SYNC_COUNT f ≤ fieldAt d 12 4) (run : List Byte → Nat → State → State) :
    onCounter f r n kind run s = complete s f r n .protection := by
  simp only [onCounter, hd, hok, fnCounter_outside hout, Bool.not_true, Bool.false_eq_true, if_false]

end OnCounter

/-- SYNC_OP ARM does what SYNC_ARM does, for no context. -/
theorem doSyncOpArm_acts (hd : takeSync s f r n 3 = some d) (hok : syncFieldsOk d 3 = true)
    (hc : fnCounter s f (fieldAt d 12 4) = some c) :
    let a := syncArm s f none (some c) (fieldAt d 16 8) (fieldAt d 9 1) ((d.drop 32).take 32) (postBodyOk ((d.drop 32).take 32))
    doSyncOpArm f r n s = syncDone a.1 f r n c a.2 := by
  simp only [doSyncOpArm, hd, hok, hc, Bool.not_true, Bool.false_eq_true, if_false]

end SyncOps

section HostCommands

variable {s : State} (hon : s.pow.st = .on) (f r n : Nat)
include hon

theorem exec_syncOpAdd_on : exec (.syncOpAdd f r n) s = .next (finish (doSyncOpAdd f r n s)) := act_on hon _

theorem exec_syncOpWait_on : exec (.syncOpWait f r n) s = .next (finish (doSyncOpWait f r n s)) := act_on hon _

theorem exec_syncOpSet_on : exec (.syncOpSet f r n) s = .next (finish (doSyncOpSet f r n s)) := act_on hon _

theorem exec_syncOpArm_on : exec (.syncOpArm f r n) s = .next (finish (doSyncOpArm f r n s)) := act_on hon _

theorem exec_syncOpRead_on : exec (.syncOpRead f r n) s = .next (finish (doSyncOpRead f r n s)) := act_on hon _

end HostCommands

/-- Settles O6: each SYNC_OP acts on the counter it names, and what it does there is an add, a wait, a set, an arming or a read. -/
theorem countersFromTheHost : Obligations.CountersFromTheHost := by
  unfold Obligations.CountersFromTheHost
  refine ⟨?add, ?overflow, ?met, ?wait, ?set, ?busy, ?arm, ?read, ?outside⟩
  case add =>
    intro s f r n c d hon hd hok hc hsum
    refine ⟨?_, counterVal_setCounter s c _⟩
    rw [exec_syncOpAdd_on hon, doSyncOpAdd, onCounter_acts hd hok hc]
    simp only [syncAdd_fits hsum]
    rfl
  case overflow =>
    intro s f r n c d hon hd hok hc hsum
    rw [exec_syncOpAdd_on hon, doSyncOpAdd, onCounter_acts hd hok hc]
    simp only [syncAdd_overflows hsum]
  case met =>
    intro s f r n c d hon hd hok hc hmet
    rw [exec_syncOpWait_on hon, doSyncOpWait, onCounter_acts hd hok hc, if_pos hmet]
  case wait =>
    intro s f r n c d hon hd hok hc hbelow
    rw [exec_syncOpWait_on hon, doSyncOpWait, onCounter_acts hd hok hc, if_neg (Nat.not_le.2 hbelow)]
  case set =>
    intro s f r n c d hon hd hok hc hfree
    refine ⟨?_, counterVal_setCounter s c _⟩
    rw [exec_syncOpSet_on hon, doSyncOpSet, onCounter_acts hd hok hc]
    simp only [syncSet_free hfree]
    rfl
  case busy =>
    intro s f r n c d hon hd hok hc hbusy
    rw [exec_syncOpSet_on hon, doSyncOpSet, onCounter_acts hd hok hc]
    simp only [syncSet_busy hbusy]
  case arm =>
    intro s f r n c d hon hd hok hc hform hceil hdie
    rw [exec_syncOpArm_on hon, doSyncOpArm_acts hd hok hc, syncArm_arms hform hceil hdie]
    rfl
  case read =>
    intro s f r n c d hon hd hok hc
    rw [exec_syncOpRead_on hon, doSyncOpRead, onCounter_acts hd hok hc]
    rfl
  case outside =>
    intro s f r n d hon hd hok hout
    rw [exec_syncOpRead_on hon, doSyncOpRead, onCounter_outside hd hok hout]

/-! The counter step ops (R193, R194, R196, R263). -/

section StepOps

variable {s v : State} {k : OpCtx} {c : Nat}

section Add

variable (hnew : workOf v k.h k.idx = false) (hc : fnCounter v k.c.fn k.o.arg0 = some c)
include hnew hc

theorem syncAddOp_local (hhere : k.o.aux = 0xFFFF) :
    syncAddOp k v = .done (syncAdd v c k.o.arg1).1 (syncAdd v c k.o.arg1).2 0 := by
  simp only [syncAddOp, hnew, hc, Bool.false_eq_true, if_false, if_pos hhere]

theorem syncAddOp_posts (haway : k.o.aux ≠ 0xFFFF)
    (hwin : fabricCheck v k.c.fn (k.o.aux % 2 ^ 15) (counterAddr c) 8 .atomic = .ok) :
    let w := newWork v ⟨.ctx k.h, k.idx, k.c.fn, 3, 1, .ok, false, 0, [], 0⟩
    syncAddOp k v = .wait (post w.2 (.flow (k.o.aux % 2 ^ 15)) w.1 [(0, remoteAdd w.2 (k.o.aux % 2 ^ 15) c k.o.arg1)]) := by
  simp only [syncAddOp, hnew, hc, Bool.false_eq_true, if_false, if_neg haway, hwin]

end Add

/-- The 64-bit argument of a counter op: a threshold, or a value to set (Table 10-6). -/
def OpCtx.wide (k : OpCtx) : Nat := k.o.arg1 + k.o.arg2 * 2 ^ 32

section Wait

variable (hnew : v.sch.waiters.any (fun w => w.who == .ctx k.h) = false) (hc : fnCounter v k.c.fn k.o.arg0 = some c)
include hnew hc

theorem syncWaitOp_met (hmet : k.wide ≤ counterVal v c) : syncWaitOp k v = .done v .ok 0 := by
  simp only [syncWaitOp, hnew, hc, Bool.false_eq_true, if_false]
  exact if_pos hmet

/-- The state in which a context waits for a counter. -/
def waitsFor (v : State) (k : OpCtx) (c : Nat) : State :=
  ({ v with sch := { v.sch with waiters := v.sch.waiters ++ [⟨.ctx k.h, c, k.wide, k.o.arg3⟩] } } : State).updCtx k.h
    (fun c => { c with st := .waiting, sequencer := none })

theorem syncWaitOp_waits (hbelow : counterVal v c < k.wide) : syncWaitOp k v = .wait (waitsFor v k c) := by
  simp only [syncWaitOp, hnew, hc, Bool.false_eq_true, if_false]
  exact if_neg (Nat.not_le.2 hbelow)

end Wait

theorem ctx_waitsFor {d : Ctx} (hd : v.ctx? k.h = some d) (c : Nat) :
    (waitsFor v k c).ctx? k.h = some { d with st := .waiting, sequencer := none } :=
  (ctx_updCtx_same _ k.h _).trans (congrArg (Option.map _) hd)

/-- The record of a context whose op has issued. -/
theorem ctx_issued_eq (s : State) (k : OpCtx) :
    (issued s k).ctx? k.h = some { k.c with op := k.c.op + 1, inflight := NSet.add k.c.op k.c.inflight } := ctx_setCtx_same s k.h _

/-- A context that is not RUNNING has no sequencer to give up. -/
theorem holdCtx_idle {h : Nat} {d : Ctx} (hd : s.ctx? h = some d) (hst : d.st ≠ .running) : holdCtx s h = s := by
  simp only [holdCtx, hd, hst, false_and, if_false]

theorem syncSetOp_sets (hc : fnCounter v k.c.fn k.o.arg0 = some c) :
    syncSetOp k v = .done (syncSet v c k.wide).1 (syncSet v c k.wide).2 0 := by
  simp only [syncSetOp, hc]
  rfl

theorem syncArmOp_arms {t : State} {l : Loc} {bs : List PByte} (hc : fnCounter v k.c.fn k.o.arg0 = some c)
    (hl : operand v k k.o.src0 k.anyTile 0 32 false = some l) (hread : locRead v k.h l 32 = (bs, t)) (hclean : anyPsn bs = false) :
    let a := syncArm t k.c.fn (some k.h) c k.wide (k.o.var % 4) (rawBytes bs) (postBodyOk (rawBytes bs))
    syncArmOp k v = .done a.1 a.2 0 := by
  simp only [syncArmOp, hc, hl, hread, hclean, Bool.false_eq_true, if_false]
  rfl

end StepOps

section StepCommands

variable {s u : State} {k : OpCtx} {st : Status} {n : Nat} (hon : s.pow.st = .on)
include hon

theorem exec_syncAdd_done (i : Issues s (fun o => o.opcode == 0x20) k) (h : syncAddOp k (issued s k) = .done u st n) :
    exec (.syncAdd k.h) s = .next (finish (retire u k.h k.idx st n)) := issued_retires hon i h

theorem exec_syncAdd_wait (i : Issues s (fun o => o.opcode == 0x20) k) (h : syncAddOp k (issued s k) = .wait u) :
    exec (.syncAdd k.h) s = .next (finish (holdCtx u k.h)) := issued_waits hon i h

theorem exec_syncWait_done (i : Issues s (fun o => o.opcode == 0x21) k) (h : syncWaitOp k (issued s k) = .done u st n) :
    exec (.syncWait k.h) s = .next (finish (retire u k.h k.idx st n)) := issued_retires hon i h

theorem exec_syncWait_wait (i : Issues s (fun o => o.opcode == 0x21) k) (h : syncWaitOp k (issued s k) = .wait u) :
    exec (.syncWait k.h) s = .next (finish (holdCtx u k.h)) := issued_waits hon i h

theorem exec_syncSet_done (i : Issues s (fun o => o.opcode == 0x23) k) (h : syncSetOp k (issued s k) = .done u st n) :
    exec (.syncSet k.h) s = .next (finish (retire u k.h k.idx st n)) := issued_retires hon i h

theorem exec_syncArm_done (i : Issues s (fun o => o.opcode == 0x22) k) (h : syncArmOp k (issued s k) = .done u st n) :
    exec (.syncArm k.h) s = .next (finish (retire u k.h k.idx st n)) := issued_retires hon i h

theorem exec_syncWaitTimeout_on (isDesc : Bool) (a b c : Nat) : exec (.syncWaitTimeout isDesc a b c) s =
    .next (finish (waitTimeout s (if isDesc then .desc a b c else .ctx a))) := act_on hon _

theorem exec_triggerFire_on (c : Nat) (bad : Bool) : exec (.triggerFire c bad) s = .next (finish (fireTrigger c bad s)) := act_on hon _

end StepCommands

/-! Timeouts of waits (R194). -/

section Timeouts

variable {s : State} {who : Who} {w : Waiter} (hw : s.sch.waiters.find? (fun x => x.who == who && x.timeout != 0) = some w)
include hw

/-- The waits of a waiter taken off the list. -/
def forgetWaits (s : State) (who : Who) : State := { s with sch := { s.sch with waiters := s.sch.waiters.filter (fun x => x.who != who) } }

theorem waitTimeout_below (hbelow : counterVal s w.counter < w.threshold) :
    waitTimeout s who = releaseWaiter ((forgetWaits s who).incFld R.SYNC_TIMEOUT_CNT.COUNT) w .timeout := by
  simp only [waitTimeout, hw]
  exact if_neg (Nat.not_le.2 hbelow)

theorem waitTimeout_met (hmet : w.threshold ≤ counterVal s w.counter) : waitTimeout s who = releaseWaiter (forgetWaits s who) w .ok := by
  simp only [waitTimeout, hw]
  exact if_pos hmet

end Timeouts

/-! Firing (R196). -/

section Firing

variable {s u : State} {n key c : Nat} {bad : Bool} {g : Trigger}

/-- The state in which a trigger fires: it is disarmed and counted. -/
def firing (s : State) (key : Nat) : State :=
  ({ s with sch := { s.sch with triggers := Tab.del key s.sch.triggers } } : State).incFld R.SYNC_FIRE_CNT.COUNT

section Kinds

variable (hg : s.sch.triggers.find? (fun t => t.2.counter == n && decide (t.2.threshold ≤ counterVal s n)) = some (key, g))
include hg

theorem fireTrigger_add (hkind : g.kind = 0) : fireTrigger n bad s = fireAdd (firing s key) g := by
  simp only [fireTrigger, hg, hkind]
  rfl

theorem fireTrigger_step (hkind : g.kind = 1) : fireTrigger n bad s = fireStep (firing s key) g bad := by
  simp only [fireTrigger, hg, hkind]
  rfl

theorem fireTrigger_post (hkind : g.kind = 2) : fireTrigger n bad s = firePost (firing s key) key g := by
  simp only [fireTrigger, hg, hkind]
  rfl

end Kinds

theorem fireAdd_local (hc : fnCounter u g.fn (fieldAt g.body 12 4) = some c) (hhere : fieldAt g.body 10 2 = 0xFFFF)
    (hsum : counterVal u c + fieldAt g.body 16 4 < 2 ^ 64) :
    fireAdd u g = releaseMet (setCounter u c (counterVal u c + fieldAt g.body 16 4)) c := by
  simp only [fireAdd, hc, if_pos hhere, syncAdd_fits hsum, if_true]

theorem fireStep_asks {d : Ctx} {q : Program} {p : Prog} (hd : u.ctx? (fieldAt g.body 0 4) = some d) (hfn : d.fn = g.fn)
    (hst : d.st ≠ .aborting) (hgood : d.failed = false) (hp : progOf u d.program = some (q, p))
    (hphase : fieldAt g.body 4 2 = 0xFFFF ∨ fieldAt g.body 4 2 < p.hdr.phases) :
    fireStep u g bad = askStep u (fieldAt g.body 0 4) ⟨.trigger g.fn g.counter, fieldAt g.body 4 2, none⟩ bad := by
  have hok : ¬(fieldAt g.body 4 2 ≠ 0xFFFF ∧ p.hdr.phases ≤ fieldAt g.body 4 2) := by omega
  simp only [fireStep, hd, hp, if_neg (not_not_intro hfn), if_neg hst, if_neg hok, hgood, Bool.false_eq_true, if_false]

end Firing

/-- Settles O7: the ops by what they answer in the state issued, and timeouts and triggers by what they find listed. -/
theorem countersFromPrograms : Obligations.CountersFromPrograms := by
  unfold Obligations.CountersFromPrograms
  refine ⟨?add, ?post, ?met, ?wait, ?set, ?arm, ?timeout, ?late, ?fireAdd, ?fire⟩
  case add =>
    intro s k c hon i hnew hc hhere
    exact exec_syncAdd_done hon i (syncAddOp_local hnew hc hhere)
  case post =>
    intro s k c hon i hnew hc haway hwin
    exact exec_syncAdd_wait hon i (syncAddOp_posts hnew hc haway hwin)
  case met =>
    intro s k c hon i hnew hc hmet
    exact exec_syncWait_done hon i (syncWaitOp_met hnew hc hmet)
  case wait =>
    intro s k c hon i hnew hc hbelow
    have hctx := ctx_waitsFor (ctx_issued_eq s k) c
    refine ⟨waitsFor (issued s k) k c, ?_, rfl, ⟨_, hctx, rfl, rfl, rfl⟩, rfl, rfl⟩
    rw [exec_syncWait_wait hon i (syncWaitOp_waits hnew hc hbelow), holdCtx_idle hctx (by simp)]
  case set =>
    intro s k c hon i hc
    exact exec_syncSet_done hon i (syncSetOp_sets hc)
  case arm =>
    intro s t k c l bs hon i hc hl hread hclean
    exact exec_syncArm_done hon i (syncArmOp_arms hc hl hread hclean)
  case timeout =>
    intro s isDesc a b c w hon who hw hbelow
    rw [exec_syncWaitTimeout_on hon, waitTimeout_below hw hbelow]
    rfl
  case late =>
    intro s isDesc a b c w hon who hw hmet
    rw [exec_syncWaitTimeout_on hon, waitTimeout_met hw hmet]
    rfl
  case fireAdd =>
    intro s n key c bad g hon hg hkind u hc hhere hsum
    refine ⟨?_, counterVal_setCounter u c _⟩
    rw [exec_triggerFire_on hon, fireTrigger_add hg hkind, fireAdd_local (u := firing s key) hc hhere hsum]
    rfl
  case fire =>
    intro s n key bad g hon hg u
    refine ⟨fun c q p hkind hc hfn hst hgood hp hphase => ?_, fun hkind => ?_⟩
    · rw [exec_triggerFire_on hon, fireTrigger_step hg hkind, fireStep_asks (u := firing s key) hc hfn hst hgood hp hphase]
      rfl
    · rw [exec_triggerFire_on hon, fireTrigger_post hg hkind]
      rfl

end Sys2Proof.Machine

/-! PROOFS. Programs and contexts: PROGRAM_LOAD, CTX_OPEN, CTX_STEP, CTX_CLOSE, unparking and the end of an abort (R102, R173, R175 to R177, R181, R279). -/

namespace Sys2Proof.Machine

open Sys2Proof

/-- With no poisoned TLP met no host byte comes with poison (R198). -/
theorem hostPsn_withTlp_nil (s : State) (a n : Nat) : hostPsn (withTlp [] s) a n = false :=
  List.any_eq_false.2 fun _ _ => Bool.false_ne_true

/-! PROGRAM_LOAD (R177). -/

section Load

variable {s t : State} {f r n pick a : Nat} {d img : List Byte} {p : Prog}

/-- The state in which the region of an image is listed, on the frames picked for it. -/
def imageRegion (s : State) (f pick size slot : Nat) : State :=
  { s with mm := { s.mm with regions := s.mm.regions ++ [⟨frameAddr pick, size, f, .image, slot⟩] } }

theorem makeRegion_image {slot : Nat} (hne : img ≠ []) (hceil : fnT1 s f + ceilDiv img.length 65536 ≤ s.fld R.FN_T1_CEIL f)
    (hframes : framesFree s pick (ceilDiv img.length 65536) = true) :
    makeRegion s f img.length .image slot pick = some (frameAddr pick, imageRegion s f pick img.length slot) :=
  makeRegion_picked (mt List.length_eq_zero_iff.1 hne) hceil hframes

/-- A program as it is listed. -/
def loaded (s : State) (f a : Nat) (img : List Byte) (p : Prog) : Program :=
  ⟨f, p.hdr.id, a, img.length, (memberGroups s p).map (fun g => (g.1.id, g.2))⟩

/-- The state in which an image lies at its place in T1 and its program is listed. -/
def programPlaced (t : State) (f slot a : Nat) (img : List Byte) (p : Prog) : State :=
  let u := pwrite' t a (cleanBytes img)
  { u with sch := { u.sch with programs := Tab.ins slot (loaded u f a img p) u.sch.programs }
           tl := { u.tl with dir := u.tl.dir ++ progTables f a p } }

/-- The RESULT of a PROGRAM_LOAD: PROGRAM_ID and the bytes of T1 taken. -/
def loadResult (img : List Byte) (p : Prog) : List Byte :=
  leBytes 2 p.hdr.id ++ List.replicate 6 0#8 ++ leBytes 8 (ceilDiv img.length 65536 * 65536)

theorem placeProgram_places (hnew : (fnPrograms s f).any (fun q => q.2.id == p.hdr.id) = false) (hslot : s.sch.programs.length < 256)
    (hcomb : combReserved s + ((memberGroups s p).map (·.1.depth)).foldl (· + ·) 0 ≤ 2048)
    (hregion : makeRegion s f img.length .image (Tab.freeFrom 0 s.sch.programs) pick = some (a, t)) :
    placeProgram s f img p pick = some (programPlaced t f (Tab.freeFrom 0 s.sch.programs) a img p, .ok, loadResult img p) := by
  have hroom : ¬(256 ≤ s.sch.programs.length ∨ 2048 < combReserved s + ((memberGroups s p).map (·.1.depth)).foldl (· + ·) 0) := by omega
  simp only [placeProgram, hnew, Bool.false_eq_true, if_false, if_neg hroom, hregion]
  rfl

theorem doProgramLoad_places (hd : takeDesc s f r n 0x20 = some d) (hz : zeroAt d 20 44 = true)
    (hread : hostRead s f (fieldAt d 8 8) (fieldAt d 16 4) = some img) (hclean : hostPsn s (fieldAt d 8 8) (fieldAt d 16 4) = false)
    (hvalid : validProg img = some p) {res : List Byte} (hplace : placeProgram s f img p pick = some (t, .ok, res)) :
    doProgramLoad f r n pick s = complete (endWait t (.desc f r n)) f r n .ok 0 res := by
  simp only [doProgramLoad, hd, hz, hread, hclean, hvalid, hplace, Bool.not_true, Bool.false_eq_true, if_false]

/-- An image written to T1 changes bytes and poison marks only: regions, registers and contexts stay, and the program listed has the groups
that the state before gives it. -/
theorem programPlaced_lists (t : State) (f slot a : Nat) (img : List Byte) (p : Prog) :
    Tab.find? slot (programPlaced t f slot a img p).sch.programs = some (loaded t f a img p) ∧
    (programPlaced t f slot a img p).mm.regions = t.mm.regions ∧ (programPlaced t f slot a img p).regs = t.regs ∧
    (programPlaced t f slot a img p).sch.ctxs = t.sch.ctxs := by
  obtain ⟨m, x, hwrite⟩ := pwrite_only t a (cleanBytes img)
  unfold programPlaced pwrite'
  rw [hwrite]
  exact ⟨Tab.find?_ins_same _ _ _, rfl, rfl, rfl⟩

end Load

/-! CTX_OPEN (R176). -/

section Open

variable {s : State} {f r n handle region slot : Nat} {queues : List Nat} {d bb pa : List Byte} {q : Program} {p : Prog} {bs : List Binding}

/-- What a CTX_OPEN descriptor asks for. -/
def openReq (s : State) (slot : Nat) (p : Prog) (d pa : List Byte) (bs : List Binding) : OpenReq :=
  ⟨slot, p, fieldAt d 10 2, fieldAt d 16 8, fieldAt d 24 4, fieldAt d 28 4, bs, padTo 1536 pa, areaLost s (fieldAt d 48 8) (fieldAt d 40 2)⟩

/-- A CTX_OPEN descriptor of a listed program, with its fields in range (Table 11-4), its bindings and area read from the host, its spans its
function's own, and the quota of contexts not full. -/
structure OpenGood (s : State) (f r n slot : Nat) (d bb pa : List Byte) (q : Program) (p : Prog) (bs : List Binding) : Prop where
  taken : takeDesc s f r n 0x01 = some d
  found : (fnPrograms s f).find? (fun q => q.2.id == fieldAt d 8 2) = some (slot, q)
  prog : progOf s slot = some (q, p)
  fields : ¬(8 < fieldAt d 12 1 ∨ 1536 < fieldAt d 40 2 ∨ !zeroAt d 13 3 ∨ !zeroAt d 42 6 ∨ !zeroAt d 56 8 ∨ fieldAt d 10 2 % 64 ≠ 0 ∨
    fieldAt d 10 2 < p.hdr.workKib ∨ 8192 - 256 * p.hdr.winSize < fieldAt d 10 2)
  bindings : hostRead s f (fieldAt d 32 8) (16 * fieldAt d 12 1) = some bb
  area : hostRead s f (fieldAt d 48 8) (fieldAt d 40 2) = some pa
  parsed : parseBindings bb (fieldAt d 12 1) = some bs
  own : foreignBinding s f bs = false
  quota : residentOf s f + parkedOf s f < s.fld R.FN_CTX_HW_CEIL f + s.fld R.FN_CTX_PARK_CEIL f

theorem openFields_good (hbinds : fieldAt d 12 1 ≤ 8) (harea : fieldAt d 40 2 ≤ 1536) (hz13 : zeroAt d 13 3 = true)
    (hz42 : zeroAt d 42 6 = true) (hz56 : zeroAt d 56 8 = true) (halign : fieldAt d 10 2 % 64 = 0) (hlow : p.hdr.workKib ≤ fieldAt d 10 2)
    (hhigh : fieldAt d 10 2 ≤ 8192 - 256 * p.hdr.winSize) :
    ¬(8 < fieldAt d 12 1 ∨ 1536 < fieldAt d 40 2 ∨ !zeroAt d 13 3 ∨ !zeroAt d 42 6 ∨ !zeroAt d 56 8 ∨ fieldAt d 10 2 % 64 ≠ 0 ∨
      fieldAt d 10 2 < p.hdr.workKib ∨ 8192 - 256 * p.hdr.winSize < fieldAt d 10 2) := by
  simp only [hz13, hz42, hz56, Bool.not_true, Bool.false_eq_true, false_or]
  omega

theorem doCtxOpen_makes (g : OpenGood s f r n slot d bb pa q p bs) (hclean : hostPsn s (fieldAt d 32 8) (16 * fieldAt d 12 1) = false)
    {t : State} {st : Status} {res : List Byte} (hmake : makeCtx s f r handle region queues (openReq s slot p d pa bs) = some (t, st, res)) :
    doCtxOpen f r n handle region queues s = complete (endWait t (.desc f r n)) f r n
      (st.worse (psnStatus (!(areaLost s (fieldAt d 48 8) (fieldAt d 40 2)).isEmpty))) 0 res := by
  have hmay : ¬(foreignBinding s f bs = true ∨
      s.fld R.FN_CTX_HW_CEIL f + s.fld R.FN_CTX_PARK_CEIL f ≤ residentOf s f + parkedOf s f) := by
    rw [g.own]
    simpa using g.quota
  unfold openReq at hmake
  simp only [doCtxOpen, g.taken, g.found, g.prog, Option.bind_some, Option.map_some]
  rw [if_neg g.fields]
  simp only [g.bindings, g.area, hclean, g.parsed, Bool.false_eq_true, if_false]
  rw [if_neg hmay]
  simp only [hmake]

/-- With no poisoned TLP met the initial PROGRAM_AREA comes whole. -/
theorem areaLost_withTlp_nil (s : State) (a n : Nat) : areaLost (withTlp [] s) a n = [] := by
  simp [areaLost, hostPsn_withTlp_nil]

/-- A context's T1 region below the ceiling of its function: none where it takes no byte, else on the frames picked (R83, R106). -/
theorem makeRegion_context {size owner : Nat} {kind : RegionKind} (hceil : fnT1 s f + ceilDiv size 65536 ≤ s.fld R.FN_T1_CEIL f)
    (hframes : framesFree s region (ceilDiv size 65536) = true) :
    ∃ m, makeRegion s f size kind owner region = some (if size = 0 then 0 else frameAddr region, { s with mm := m }) := by
  by_cases hsize : size = 0
  · subst hsize
    exact ⟨s.mm, makeRegion_none (by omega)⟩
  · rw [if_neg hsize]
    exact ⟨_, makeRegion_picked hsize hceil hframes⟩

end Open

/-! CTX_CLOSE (R176). -/

section Close

variable {s : State} {f r n : Nat} {a : AccDesc} {c : Ctx}

/-- The state in which a CTX_CLOSE has aborted its context. -/
def closing (s : State) (f r n : Nat) (d : List Byte) : State :=
  beginAbort (markStarted s f r n) (fieldAt d 8 4) (fieldAt d 12 1 == 1) (some (.desc f r n))

/-- The earlier CTX_STEPs of a context complete with ST_ABORTED. -/
def abortSteps (s : State) (f : Nat) (l : List (Nat × Nat)) : State :=
  l.foldl (fun s p => complete s f p.1 p.2 .aborted (2 ^ 32 - 1)) s

theorem doCtxClose_aborts (ha : findDesc s f r n = some a) (hd : takeDesc s f r n 0x02 = some a.bytes)
    (hh : fieldAt a.bytes 8 4 < 2 ^ 19) (hflag : fieldAt a.bytes 12 1 ≤ 1) (hz : zeroAt a.bytes 13 51 = true)
    (hc : s.ctx? (fieldAt a.bytes 8 4) = some c) (hfn : c.fn = f) (hst : c.st ≠ .aborting) :
    doCtxClose f r n s = abortSteps (closing s f r n a.bytes) f (earlierSteps (closing s f r n a.bytes) f (fieldAt a.bytes 8 4) a.order) := by
  have hgood : ¬(2 ^ 19 ≤ fieldAt a.bytes 8 4 ∨ 1 < fieldAt a.bytes 12 1 ∨ (!zeroAt a.bytes 13 51) = true) := by
    rw [hz]
    simp only [Bool.not_true, Bool.false_eq_true, or_false]
    omega
  simp only [doCtxClose, ha, hd]
  rw [if_neg hgood]
  simp only [hc, if_neg (not_not_intro hfn), if_neg hst]
  rfl

/-- Completions change no context, no memory and no queue. -/
theorem abortSteps_kept (s : State) (f : Nat) (l : List (Nat × Nat)) :
    (∀ h, (abortSteps s f l).ctx? h = s.ctx? h) ∧ (abortSteps s f l).mm = s.mm ∧ (abortSteps s f l).qm = s.qm := by
  obtain ⟨-, hmm, hqm, -, -⟩ := completes_kept (fun p : Nat × Nat => (f, p.1, p.2, Status.aborted, 2 ^ 32 - 1)) l s
  exact ⟨completes_ctx (fun p : Nat × Nat => (f, p.1, p.2, Status.aborted, 2 ^ 32 - 1)) l s, hmm, hqm⟩

end Close

/-! CTX_STEP and unparking (R175, R181). -/

section Steps

variable {s : State} {f r n h : Nat} {bad : Bool} {a : AccDesc} {d : List Byte} {c : Ctx} {q : Program} {p : Prog}

/-- The step that a CTX_STEP descriptor asks for. -/
def stepAsked (f r n : Nat) (d : List Byte) : QStep :=
  ⟨.desc f r n, fieldAt d 12 2, if fieldAt d 14 1 = 1 then some (fieldAt d 16 4) else none⟩

/-- The token asked for, or the one there is where none is. -/
theorem token_stepAsked (f r n : Nat) (d : List Byte) (x : Nat) :
    (stepAsked f r n d).token.getD x = if fieldAt d 14 1 = 1 then fieldAt d 16 4 else x := by
  unfold stepAsked
  split_ifs <;> rfl

theorem doCtxStep_asks (ha : findDesc s f r n = some a) (hd : takeDesc s f r n 0x03 = some d) (hh : fieldAt d 8 4 < 2 ^ 19)
    (hflag : fieldAt d 14 1 ≤ 1) (hz15 : zeroAt d 15 1 = true) (hz20 : zeroAt d 20 44 = true) (hc : s.ctx? (fieldAt d 8 4) = some c)
    (hfn : c.fn = f) (hp : progOf s c.program = some (q, p)) (hphase : fieldAt d 12 2 = 0xFFFF ∨ fieldAt d 12 2 < p.hdr.phases)
    (hst : c.st ≠ .aborting) (hgood : c.failed = false) (hfirst : earlierSteps s f (fieldAt d 8 4) a.order = []) :
    doCtxStep f r n bad s = askStep (markStarted s f r n) (fieldAt d 8 4) (stepAsked f r n d) bad := by
  have hfields : ¬(2 ^ 19 ≤ fieldAt d 8 4 ∨ 1 < fieldAt d 14 1 ∨ (!zeroAt d 15 1) = true ∨ (!zeroAt d 20 44) = true) := by
    rw [hz15, hz20]
    simp only [Bool.not_true, Bool.false_eq_true, or_false]
    omega
  have hok : ¬(fieldAt d 12 2 ≠ 0xFFFF ∧ p.hdr.phases ≤ fieldAt d 12 2) := by omega
  simp only [doCtxStep, hd]
  rw [if_neg hfields]
  simp only [hc, hp, if_neg (not_not_intro hfn), if_neg hok, if_neg hst, hgood, ha, Option.map_some, Option.getD_some, hfirst,
    List.isEmpty_nil, Bool.not_true, Bool.false_eq_true, if_false]
  rfl

/-- A context that is not parked has nothing to unpark. -/
theorem tryUnpark_open (hc : s.ctx? h = some c) (hst : c.st ≠ .parked) : tryUnpark s h bad = s := by
  simp only [tryUnpark, hc, hst, not_false_eq_true, ne_eq, true_or, if_true]

theorem entryOf_some (hp : progOf s c.program = some (q, p)) : entryOf s c.program = p.hdr.entry := by
  simp only [entryOf, hp]

/-- A step asked of an idle resident context with nothing waiting starts at once (R181). -/
theorem askStep_idle {x : QStep} (hc : s.ctx? h = some c) (hst : c.st = .idle) (hres : c.resident = true) (hq : c.queued = []) :
    (askStep s h x bad).ctx? h = some { c with
      st := .ready, phase := if x.phase = 0xFFFF then entryOf s c.program else x.phase, op := 0, iter := 0, retries := 0, accepted := 0,
      faultPhase := 0xFFFF, faultOp := 0xFFFF, step := some ⟨x.src, .ok, false, false⟩, inflight := [],
      idleSince := s.sch.idleTick + 1, sequencer := none, quantumOver := false, token := x.token.getD c.token } ∧
    (askStep s h x bad).regs = s.regs ∧ (askStep s h x bad).mm = s.mm ∧ (askStep s h x bad).qm = s.qm := by
  have hlisted : (s.updCtx h (fun c => { c with queued := c.queued ++ [x] })).ctx? h = some { c with queued := [x] } := by
    rw [ctx_updCtx_same, hc, Option.map_some, hq]
    rfl
  obtain ⟨hctx, hregs, hmm, hqm, -⟩ := startNext_idle hlisted rfl hst hres
  rw [askStep, tryUnpark_open hctx (by simp)]
  refine ⟨?_, hregs, hmm, hqm⟩
  rw [hctx, ← hq]
  rfl

/-- A parked context whose record has been judged, and found good (R173). -/
def judgeRecord (s : State) (h : Nat) : State := s.updCtx h (fun c => { c with judged := true })

/-- A parked context found good is judged, and becomes resident. -/
theorem tryUnpark_resident {t : State} (hc : s.ctx? h = some c) (hst : c.st = .parked) (hrec : c.badRecord = false) (hq : c.queued ≠ [])
    (hres : makeResident (judgeRecord s h) h = some t) : tryUnpark s h false = startNext (t.incFld R.SCHED_UNPARK_CNT.COUNT) h := by
  have hwaits : ¬(c.st ≠ .parked ∨ c.queued.isEmpty = true) := by simp [hst, hq]
  unfold judgeRecord at hres
  simp only [tryUnpark, hc, if_neg hwaits, hrec, Bool.or_self, Bool.and_false, Bool.false_eq_true, if_false, hres]

/-- A judged context is given the resources that it could be given before. -/
theorem makeResident_judged {hw : Nat} (hc : s.ctx? h = some c) (hheld : s.flag R.LVL_STAT.ADMIT_HELD = false)
    (hceil : residentOf s c.fn < s.fld R.FN_CTX_HW_CEIL c.fn) (hhw : freeHw s = some hw) (hp : progOf s c.program = some (q, p))
    (htiles : ∀ t ∈ progTiles p, tileRetired s t = false ∧ (findSlice s t (c.workKib * 1024)).isSome = true) :
    ∃ t hw', makeResident (judgeRecord s h) h = some t ∧
      t.ctx? h = some { c with judged := true, resident := true, hw := hw', st := .idle, unparkSince := none } := by
  obtain ⟨hcount, hfree⟩ : residentOf (judgeRecord s h) c.fn = residentOf s c.fn ∧ freeHw (judgeRecord s h) = freeHw s :=
    updCtx_counts s h (fun c => { c with judged := true }) (fun _ => rfl) (fun _ => rfl) (fun _ => rfl) c.fn
  have hj : (judgeRecord s h).ctx? h = some { c with judged := true } := (ctx_updCtx_same s h _).trans (congrArg (Option.map _) hc)
  have hbelow : residentOf (judgeRecord s h) c.fn < s.fld R.FN_CTX_HW_CEIL c.fn := hcount ▸ hceil
  obtain ⟨t, ht⟩ := Option.isSome_iff_exists.1 (makeResident_some (s := judgeRecord s h) hheld hj hbelow (hfree.trans hhw) hp htiles)
  obtain ⟨hw', hctx⟩ := makeResident_ctx ht hj
  exact ⟨t, hw', ht, hctx⟩

theorem doUnparkWaitExpiry_refuses {t since : Nat} {x : QStep} {rest : List QStep} (hc : s.ctx? h = some c) (hst : c.st = .parked)
    (hq : c.queued = x :: rest) (hsince : c.unparkSince = some since)
    (hdue : since + (atTime s t).fld R.SCHED_GUARD.UNPARK_WAIT * 1000 ≤ (atTime s t).now) :
    doUnparkWaitExpiry h t s = (refuseStep (atTime s t) c x.src .retryLater).updCtx h (fun d =>
      { d with queued := rest, unparkSince := if rest.isEmpty then none else some (refuseStep (atTime s t) c x.src .retryLater).now }) := by
  have hpast : ¬(c.st ≠ .parked ∨ (atTime s t).now < since + (atTime s t).fld R.SCHED_GUARD.UNPARK_WAIT * 1000) := by
    simp [hst, hdue]
  have hat : (atTime s t).ctx? h = some c := by rw [State.ctx?, sch_atTime]; exact hc
  simp only [doUnparkWaitExpiry, hat, hq, hsince, if_neg hpast]

end Steps

/-! The end of an abort (R176). -/

section AbortDone

variable {s : State} {h : Nat} {c : Ctx}

/-- A freed context's T1 region given back, where it has one. -/
def freeT1 (s : State) (c : Ctx) : State := if c.t1Base = 0 then s else freeRegion s c.t1Base

/-- The sectors that a context wrote without a fence belong to no context any more. -/
def disownSectors (s : State) (h : Nat) : State :=
  { s with mm := { s.mm with unfenced := s.mm.unfenced.map (fun (p : Nat × Unfenced) =>
    (p.1, { p.2 with by_ := p.2.by_.map (fun (w : Nat × Nat) => if w.2 = h then (w.1, 2 ^ 20) else w) })) } }

/-- The state in which all that a context holds has been given back. -/
def released (s : State) (h : Nat) (c : Ctx) : State := disownSectors (freeQueues (freeT1 (freeSlices s h) c) c.queues) h

/-- The state in which the record is gone too, and the descriptors that came late have completed. -/
def freed (s : State) (h : Nat) (c : Ctx) : State :=
  let u := released s h c
  endLate { u with sch := { u.sch with ctxs := Tab.del h u.sch.ctxs } } c.fn h (if c.abort then .aborted else .invalid)

theorem doContextAbortDone_frees {f r n : Nat} (hc : s.ctx? h = some c) (hst : c.st = .aborting) (hcloser : c.closer = some (.desc f r n)) :
    doContextAbortDone h s = complete (freed s h c) f r n .ok := by
  simp only [doContextAbortDone, hc, if_neg (not_not_intro hst), hcloser]
  rfl

theorem sch_freeT1 (s : State) (c : Ctx) : (freeT1 s c).sch = s.sch := by
  unfold freeT1
  split_ifs
  · rfl
  · exact (freeRegion_gone s c.t1Base).2.1

theorem regions_freeT1 (hbase : c.t1Base ≠ 0) : ∀ x ∈ (freeT1 s c).mm.regions, x.base ≠ c.t1Base := by
  rw [freeT1, if_neg hbase]
  exact (freeRegion_gone s c.t1Base).1

theorem queues_freeQueues (s : State) (qs : List Nat) : ∀ q ∈ qs, (freeQueues s qs).qm.queues.all (fun p => p.1 != q) = true := by
  intro q hq
  refine List.all_eq_true.2 fun p hp => ?_
  have hkept : (!qs.contains p.1) = true := (List.mem_filter.1 hp).2
  have hne : p.1 ≠ q := by
    rintro rfl
    simp [hq] at hkept
  exact bne_iff_ne.2 hne

/-- The state that an abort ends in lists the context, its slices, its T1 region and its queues no more. -/
theorem freed_lists_none (s : State) (h : Nat) (c : Ctx) : (freed s h c).ctx? h = none ∧
    (∀ e ∈ (freed s h c).sch.slices, ∀ p ∈ e.2, p.1 / 256 ≠ h) ∧
    (c.t1Base ≠ 0 → ∀ x ∈ (freed s h c).mm.regions, x.base ≠ c.t1Base) ∧
    (∀ q ∈ c.queues, (freed s h c).qm.queues.all (fun p => p.1 != q) = true) := by
  obtain ⟨hsch, hmm, hqm⟩ := endLate_kept { released s h c with sch := { (released s h c).sch with ctxs := Tab.del h (released s h c).sch.ctxs } }
    c.fn h (if c.abort then .aborted else .invalid)
  have hslices : (freed s h c).sch.slices = (freeSlices s h).sch.slices := by
    rw [freed, hsch, ← sch_freeT1 (freeSlices s h) c]
    rfl
  refine ⟨?_, ?_, fun hbase => ?_, ?_⟩
  · rw [freed, endLate_ctx]
    exact Tab.find?_del_same h _
  · rw [hslices]
    exact freeSlices_gone s h
  · rw [freed, hmm]
    exact regions_freeT1 hbase
  · rw [freed, hqm]
    exact queues_freeQueues (freeT1 (freeSlices s h) c) c.queues

end AbortDone

/-! What each command does while the module is on. -/

section Commands

variable {s : State} (hon : s.pow.st = .on) (f r n : Nat)
include hon

theorem exec_programLoad_on (pick : Nat) (tlp : List (Nat × Nat)) : exec (.programLoad f r n pick tlp) s =
    .next (finish (doProgramLoad f r n pick (withTlp tlp s))) := act_on hon _

theorem exec_ctxOpen_on (handle region : Nat) (queues : List Nat) (tlp : List (Nat × Nat)) :
    exec (.ctxOpen f r n handle region queues tlp) s = .next (finish (doCtxOpen f r n handle region queues (withTlp tlp s))) := act_on hon _

theorem exec_ctxClose_on : exec (.ctxClose f r n) s = .next (finish (doCtxClose f r n s)) := act_on hon _

theorem exec_ctxStep_on (bad : Bool) : exec (.ctxStep f r n bad) s = .next (finish (doCtxStep f r n bad s)) := act_on hon _

theorem exec_unpark_on (h : Nat) (bad : Bool) : exec (.unpark h bad) s = .next (finish (tryUnpark s h bad)) := act_on hon _

theorem exec_unparkWaitExpiry_on (h t : Nat) : exec (.unparkWaitExpiry h t) s = .next (finish (doUnparkWaitExpiry h t s)) := act_on hon _

theorem exec_contextAbortDone_on (h : Nat) : exec (.contextAbortDone h) s = .next (finish (doContextAbortDone h s)) := act_on hon _

end Commands

/-- Settles O3, a clause a command: each is given by the checks it passes and the state those leave. -/
theorem contextsOpenRunClose : Obligations.ContextsOpenRunClose := by
  unfold Obligations.ContextsOpenRunClose
  refine ⟨?load, ?loadPicked, ?make, ?openPicked, ?close, ?closeIdle, ?step, ?stepIdle, ?unpark, ?unparkPicked, ?expiry, ?abortDone⟩
  case load =>
    intro s t f r n pick a tlp d img p hon hd hz hread hclean hvalid hnew hslot hcomb hregion
    have hplace := placeProgram_places (s := withTlp tlp s) hnew hslot hcomb hregion
    rw [exec_programLoad_on hon, doProgramLoad_places (s := withTlp tlp s) hd hz hread hclean hvalid hplace]
    rfl
  case loadPicked =>
    intro s f r n pick tlp d img p hon hd hz hread hclean hvalid hne hnew hslot hcomb hceil hframes slot
    have hplace := placeProgram_places (s := withTlp tlp s) hnew hslot hcomb (makeRegion_image hne hceil hframes)
    obtain ⟨hlisted, hkept⟩ := programPlaced_lists (imageRegion (withTlp tlp s) f pick img.length slot) f slot (frameAddr pick) img p
    refine ⟨endWait (programPlaced (imageRegion (withTlp tlp s) f pick img.length slot) f slot (frameAddr pick) img p) (.desc f r n),
      ?_, hlisted, hkept⟩
    rw [exec_programLoad_on hon, doProgramLoad_places (s := withTlp tlp s) hd hz hread hclean hvalid hplace]
    rfl
  case make =>
    intro s f r n handle region slot queues tlp d bb pa q p bs t st res hon hd hfind hprog hbinds harea hz13 hz42 hz56 halign hlow hhigh hbb hpa
      hclean hparse hown hquota bad hmake
    have hgood : OpenGood (withTlp tlp s) f r n slot d bb pa q p bs := ⟨hd, hfind, hprog,
      openFields_good hbinds harea hz13 hz42 hz56 halign hlow hhigh, hbb, hpa, hparse, hown, hquota⟩
    rw [exec_ctxOpen_on hon, doCtxOpen_makes hgood hclean hmake]
  case openPicked =>
    intro s f r n handle region slot h queues d bb pa q p bs hon hd hfind hprog hbinds harea hz13 hz42 hz56 halign hlow hhigh hbb hpa hparse hown
      hquota hpick hrecv hsave hceil hframes
    obtain ⟨m, hregion⟩ := makeRegion_context (s := withTlp [] s) (owner := h) (kind := .context) hceil hframes
    obtain ⟨u, c, b, hmake, hc, hfn, hst, hslot, hpos, htoken, hseed, hwork, hbase, hbs, harea', hrest⟩ :=
      makeCtx_ok (s := withTlp [] s) (ring := r) (picks := queues) (q := openReq (withTlp [] s) slot p d pa bs) hpick hregion hrecv hsave
    refine ⟨endWait u (.desc f r n), c, b, ?_, hc, hfn, hst, hslot, hpos, htoken, hseed, hwork, hbs, harea', hbase, hrest⟩
    have hgood : OpenGood (withTlp [] s) f r n slot d bb pa q p bs := ⟨hd, hfind, hprog,
      openFields_good hbinds harea hz13 hz42 hz56 halign hlow hhigh, hbb, hpa, hparse, hown, hquota⟩
    rw [exec_ctxOpen_on hon, doCtxOpen_makes hgood (hostPsn_withTlp_nil s _ _) hmake, areaLost_withTlp_nil]
    rfl
  case close =>
    intro s f r n a c hon ha hd hh hflag hz hc hfn hst
    rw [exec_ctxClose_on hon, doCtxClose_aborts ha hd hh hflag hz hc hfn hst]
    rfl
  case closeIdle =>
    intro s f r n a c hon ha hd hh hflag hz hc hfn hst hstep hqueued hstreams hring
    obtain ⟨hctx, hmm, hqm⟩ := beginAbort_idle (s := markStarted s f r n) (w := some (.desc f r n)) hc hstep hqueued hstreams hring
    have hclosing : closing s f r n a.bytes = beginAbort (markStarted s f r n) (fieldAt a.bytes 8 4) false (some (.desc f r n)) := by
      rw [closing, hflag]
      rfl
    obtain ⟨hctxs, hmm', hqm'⟩ := abortSteps_kept (closing s f r n a.bytes) f
      (earlierSteps (closing s f r n a.bytes) f (fieldAt a.bytes 8 4) a.order)
    rw [hclosing] at hctxs hmm' hqm'
    refine ⟨_, ?_, (hctxs _).trans (hctx.trans ?_), hmm'.trans hmm, hqm'.trans hqm⟩
    · rw [exec_ctxClose_on hon, doCtxClose_aborts ha hd hh (by omega) hz hc hfn hst, hclosing]
    · rw [hqueued]
  case step =>
    intro s f r n bad a d c q p hon ha hd hh hflag hz15 hz20 hc hfn hp hphase hst hgood hfirst
    rw [exec_ctxStep_on hon, doCtxStep_asks ha hd hh hflag hz15 hz20 hc hfn hp hphase hst hgood hfirst]
    rfl
  case stepIdle =>
    intro s f r n bad a d c q p hon ha hd hh hflag hz15 hz20 hc hfn hp hphase hst hres hgood hqueued hfirst
    obtain ⟨hctx, hkept⟩ := askStep_idle (s := markStarted s f r n) (x := stepAsked f r n d) (bad := bad) hc hst hres hqueued
    refine ⟨_, ?_, hctx.trans ?_, hkept⟩
    · rw [exec_ctxStep_on hon, doCtxStep_asks ha hd hh hflag hz15 hz20 hc hfn hp hphase (by simp [hst]) hgood hfirst]
    · rw [← entryOf_some hp, hqueued, token_stepAsked]
      rfl
  case unpark =>
    intro s t h c hon hc hst hq hrec hres
    rw [exec_unpark_on hon, tryUnpark_resident hc hst hrec hq hres]
  case unparkPicked =>
    intro s h hw c q p hon hc hst hq hrec hheld hceil hhw hp htiles
    obtain ⟨t, hw', hres, hctx⟩ := makeResident_judged hc hheld hceil hhw hp htiles
    obtain ⟨x, rest, hqueued⟩ := List.exists_cons_of_ne_nil hq
    obtain ⟨hstarted, -⟩ := startNext_idle (s := t.incFld R.SCHED_UNPARK_CNT.COUNT) hctx hqueued rfl rfl
    refine ⟨t, _, hw', ?_, rfl, hctx, ?_, ?_⟩
    · rw [exec_unpark_on hon, tryUnpark_resident hc hst hrec hq hres]
    · rw [hstarted]
      rfl
    · rw [hstarted, hqueued]
      rfl
  case expiry =>
    intro s h time since c x rest hon hc hst hq hsince hdue u
    rw [exec_unparkWaitExpiry_on hon, doUnparkWaitExpiry_refuses hc hst hq hsince hdue]
  case abortDone =>
    intro s h f r n c hon hc hst hcloser
    refine ⟨freed s h c, ?_, freed_lists_none s h c⟩
    rw [exec_contextAbortDone_on hon, doContextAbortDone_frees hc hst hcloser]

end Sys2Proof.Machine

/-! PROOFS. Doorbells, rings, completion records, and what the resets leave (R119, R200, R203 to R208, R212, R215, R217 to R219, R294, R343, R347). -/

namespace Sys2Proof.Machine

open Sys2Proof

/-! Rings and fields read after updates of other parts of the state. -/

@[simp] theorem State.ring_setFld (s : State) (x : Fld) (v i j f r : Nat) : (s.setFld x v i j).ring f r = s.ring f r := rfl
@[simp] theorem State.ring_emit (s : State) (o : Out) (f r : Nat) : (s.emit o).ring f r = s.ring f r := rfl
@[simp] theorem State.fld_setRing (s : State) (f r : Nat) (g : Ring) (x : Fld) (i j : Nat) : (s.setRing f r g).fld x i j = s.fld x i j := rfl
@[simp] theorem State.fld_setFnHost (s : State) (f : Nat) (h : FnHost) (x : Fld) (i j : Nat) : (s.setFnHost f h).fld x i j = s.fld x i j := rfl

/-- Two fields of one register have different places at every entry. -/
theorem Fld.key_ne_of_lo (x y : Fld) (haddr : x.addr = y.addr) (hs1 : x.s1 = y.s1) (hs2 : x.s2 = y.s2) (hlo : x.lo ≠ y.lo) (i j : Nat) :
    x.key i j ≠ y.key i j := by
  simp only [Fld.key, haddr, hs1, hs2]
  omega

/-! Doorbells (R205). -/

section Doorbells

variable {s : State} {f r n v : Nat}

theorem dbFormOk_good (hv : v < 2 ^ 32) (hen : s.flag R.HI_RING_CTL.ENABLE f r = true) (hreset : (s.fnHost f).resetting = none) :
    dbFormOk s f r 8 v = true := by
  simp only [dbFormOk, hv, hen, hreset, beq_self_eq_true, decide_true, Option.isNone_none, Bool.and_self]

/-- A doorbell of a bad size or with reserved bits, of a ring that is not enabled, or of a function in reset (R219). -/
theorem dbFormOk_bad (h : n ≠ 8 ∨ 2 ^ 32 ≤ v ∨ s.flag R.HI_RING_CTL.ENABLE f r = false ∨ (s.fnHost f).resetting.isSome = true) :
    dbFormOk s f r n v = false := by
  refine eq_false_of_ne_true fun hok => ?_
  simp only [dbFormOk, Bool.and_eq_true, beq_iff_eq, decide_eq_true_eq, Option.isNone_iff_eq_none] at hok
  obtain ⟨⟨⟨hn, hv⟩, hen⟩, hreset⟩ := hok
  rcases h with hbad | hbad | hbad | hbad
  · exact hbad hn
  · exact absurd hv (Nat.not_lt.2 hbad)
  · simp [hen] at hbad
  · simp [hreset] at hbad

/-- A doorbell's form and bounds do not all hold where one of them fails. -/
theorem doorbell_refused {form : Bool} {ahead half used size : Nat} (h : form = false ∨ half ≤ ahead ∨ size < used) :
    ¬(form && decide (ahead < half) && decide (used ≤ size)) = true := by
  simp only [Bool.and_eq_true, decide_eq_true_eq]
  rintro ⟨⟨hform, hahead⟩, hroom⟩
  rcases h with hbad | hback | hover
  · exact absurd hform (by simp [hbad])
  · exact absurd hahead (Nat.not_lt.2 hback)
  · exact absurd hroom (Nat.not_le.2 hover)

theorem doSqTail_taken (hform : dbFormOk s f r n v = true) (hahead : (v + 2 ^ 32 - (s.ring f r).tail) % 2 ^ 32 < 2 ^ 31)
    (hroom : (v + 2 ^ 32 - (s.ring f r).fetched) % 2 ^ 32 ≤ 2 ^ s.fld R.HI_SQ_BASE.SQ_LOG2 f r) :
    doSqTail f r n v s = s.setRing f r { s.ring f r with tail := v } := by
  simp only [doSqTail, hform, hahead, hroom, decide_true, Bool.and_self, if_true]

theorem doSqTail_discarded (h : dbFormOk s f r n v = false ∨ 2 ^ 31 ≤ (v + 2 ^ 32 - (s.ring f r).tail) % 2 ^ 32 ∨
    2 ^ s.fld R.HI_SQ_BASE.SQ_LOG2 f r < (v + 2 ^ 32 - (s.ring f r).fetched) % 2 ^ 32) : doSqTail f r n v s = dbReject s f r :=
  if_neg (doorbell_refused h)

theorem doCqHead_taken (hform : dbFormOk s f r n v = true) (hahead : (v + 2 ^ 32 - (s.ring f r).head) % 2 ^ 32 < 2 ^ 31)
    (hroom : ((s.ring f r).produced + 2 ^ 32 - v) % 2 ^ 32 ≤ 2 ^ s.fld R.HI_CQ_BASE.CQ_LOG2 f r) :
    doCqHead f r n v s = s.setRing f r { s.ring f r with head := v } := by
  simp only [doCqHead, hform, hahead, hroom, decide_true, Bool.and_self, if_true]

theorem doCqHead_discarded (h : dbFormOk s f r n v = false ∨ 2 ^ 31 ≤ (v + 2 ^ 32 - (s.ring f r).head) % 2 ^ 32 ∨
    2 ^ s.fld R.HI_CQ_BASE.CQ_LOG2 f r < ((s.ring f r).produced + 2 ^ 32 - v) % 2 ^ 32) : doCqHead f r n v s = dbReject s f r :=
  if_neg (doorbell_refused h)

/-- The reasons to discard a doorbell: its form, or one of the two bounds. -/
theorem dbBad_cases {p q : Prop} (h : n ≠ 8 ∨ 2 ^ 32 ≤ v ∨ s.flag R.HI_RING_CTL.ENABLE f r = false ∨ (s.fnHost f).resetting.isSome = true ∨
    p ∨ q) : dbFormOk s f r n v = false ∨ p ∨ q := by
  rcases h with h | h | h | h | h
  · exact .inl (dbFormOk_bad (.inl h))
  · exact .inl (dbFormOk_bad (.inr (.inl h)))
  · exact .inl (dbFormOk_bad (.inr (.inr (.inl h))))
  · exact .inl (dbFormOk_bad (.inr (.inr (.inr h))))
  · exact .inr h

theorem exec_sqTail_on (hon : s.pow.st = .on) : exec (.sqTail f r n v) s = .next (finish (doSqTail f r n v s)) := act_on hon _

theorem exec_cqHead_on (hon : s.pow.st = .on) : exec (.cqHead f r n v) s = .next (finish (doCqHead f r n v s)) := act_on hon _

end Doorbells

/-- Settles O1: a doorbell is taken where its form and both bounds hold, and discarded where one of them fails. -/
theorem doorbellsPost : Obligations.DoorbellsPost := by
  unfold Obligations.DoorbellsPost
  refine ⟨?tail, ?head, ?badTail, ?badHead⟩
  case tail =>
    intro s f r v hon hv hen hreset hahead hroom
    rw [exec_sqTail_on hon, doSqTail_taken (dbFormOk_good hv hen hreset) hahead hroom]
  case head =>
    intro s f r v hon hv hen hreset hahead hroom
    rw [exec_cqHead_on hon, doCqHead_taken (dbFormOk_good hv hen hreset) hahead hroom]
  case badTail =>
    intro s f r n v hon hbad
    rw [exec_sqTail_on hon, doSqTail_discarded (dbBad_cases hbad)]
    rfl
  case badHead =>
    intro s f r n v hon hbad
    rw [exec_cqHead_on hon, doCqHead_discarded (dbBad_cases hbad)]
    rfl

/-! The 32 bytes of a record (Table 11-5). -/

section RecordBytes

variable (c : Rec) (ovf : Bool) (n lg dt : Nat)

/-- The fields of a record ahead of RESULT. -/
def recFields : List (Nat × Nat) :=
  [(4, c.tag), (4, c.seq), (1, c.status.val), (1, c.opcode), (1, bit c.event + 2 * bit ovf + 128 * ((n / 2 ^ lg + 1) % 2)), (1, 0), (4, dt)]

theorem recBytes_eq : recBytes c ovf n lg dt = layout (recFields c ovf n lg dt) ++ padTo 16 c.result := by
  unfold recBytes recFields layout
  simp only [List.flatMap_cons, List.flatMap_nil, List.append_nil, List.append_assoc]

theorem recFields_length : (layout (recFields c ovf n lg dt)).length = 16 := by
  simp [layout_length, recFields]

theorem recBytes_length : (recBytes c ovf n lg dt).length = 32 := by
  rw [recBytes_eq, List.length_append, recFields_length, padTo_length]

theorem Status.val_lt (st : Status) : st.val < 256 := by cases st <;> decide

/-- The fields of a record's FLAGS byte: EVENT, OVF, and PHASE at the top. -/
theorem recFlags_bits : ∀ (event ovf : Bool), ∀ phase < 2,
    let w := bit event + 2 * bit ovf + 128 * phase
    w < 256 ∧ bitAt w 0 = event ∧ bitAt w 1 = ovf ∧ bits w 6 2 = 0 ∧ bits w 7 7 = phase := by
  decide

end RecordBytes

/-! Delivery of a record (R215, R217, R218). -/

/-- A record held on its ring's overflow list, and reported over Barnopa while the link is down. -/
def holdRec (f r : Nat) (c : Rec) (s : State) : State :=
  if linkDownFor s f then (s.setRing f r { s.ring f r with held := (s.ring f r).held ++ [c] }).emit (.heldReport f r c.tag c.status)
  else s.setRing f r { s.ring f r with held := (s.ring f r).held ++ [c] }

section Delivery

variable {s : State} {f r : Nat} {c : Rec}

theorem held_holdRec : ((holdRec f r c s).ring f r).held = (s.ring f r).held ++ [c] := by
  unfold holdRec
  split <;> simp

theorem hostMem_holdRec : (holdRec f r c s).host.hostMem = s.host.hostMem := by
  unfold holdRec
  split <;> rfl

theorem fld_holdRec (x : Fld) (i j : Nat) : (holdRec f r c s).fld x i j = s.fld x i j := by
  unfold holdRec
  split <;> rfl

theorem out_holdRec_down (h : linkDownFor s f = true) : (holdRec f r c s).out = s.out ++ [.heldReport f r c.tag c.status] := by
  simp only [holdRec, h, if_true, State.emit_out, State.setRing_out]

theorem out_holdRec_up (h : linkDownFor s f = false) : (holdRec f r c s).out = s.out := by
  simp only [holdRec, h, Bool.false_eq_true, if_false, State.setRing_out]

/-- A slot is free on an enabled ring with the link up and room between HEAD and PRODUCED. -/
theorem slotFree_iff : slotFree s f r = true ↔ hostUp s f = true ∧ s.flag R.HI_RING_CTL.ENABLE f r = true ∧
    ((s.ring f r).produced + 2 ^ 32 - (s.ring f r).head) % 2 ^ 32 < 2 ^ s.fld R.HI_CQ_BASE.CQ_LOG2 f r := by
  simp only [slotFree, Bool.and_eq_true, decide_eq_true_eq, and_assoc]

/-- The interrupt of a record changes the count of unsignalled records at most. -/
theorem recIrq_keeps (s : State) (f r : Nat) (c : Rec) : (∃ k, (recIrq s f r c).ring f r = { s.ring f r with unsig := k }) ∧
    (recIrq s f r c).host.hostMem = s.host.hostMem := by
  have hvec : ∀ (t : State) (v : Nat), (signalVec t f v).ring f r = t.ring f r ∧ (signalVec t f v).host.hostMem = t.host.hostMem := by
    intro t v
    unfold signalVec
    split <;> exact ⟨rfl, rfl⟩
  have hring : (signalRing s f r).ring f r = { s.ring f r with unsig := 0 } ∧ (signalRing s f r).host.hostMem = s.host.hostMem := by
    obtain ⟨hr, hm⟩ := hvec (s.setRing f r { s.ring f r with unsig := 0 }) (s.fld R.HI_RING_CTL.VECTOR f r)
    exact ⟨hr.trans (State.ring_setRing_same ..), hm⟩
  unfold recIrq
  simp only
  split
  · exact ⟨⟨0, hring.1⟩, hring.2⟩
  · exact ⟨⟨_, rfl⟩, rfl⟩

/-- The host address of the record that a ring produces next. -/
def slotAddr (s : State) (f r : Nat) : Nat :=
  s.fld R.HI_CQ_BASE.ADDR f r * 4096 + (s.ring f r).produced % 2 ^ s.fld R.HI_CQ_BASE.CQ_LOG2 f r * 32

/-- The bytes of a record as its ring's next; an event carries the events lost before it (R217). -/
def nextBytes (s : State) (f r : Nat) (c : Rec) (ovf : Bool) : List Byte :=
  recBytes c ovf (s.ring f r).produced (s.fld R.HI_CQ_BASE.CQ_LOG2 f r) (if c.event then (s.fnHost f).lost else c.detail)

section Free

variable (hfree : slotFree s f r = true)
include hfree

/-- With a slot free it is the window alone that decides about a record. -/
theorem putRec_free (ovf : Bool) : putRec s f r c ovf = (hostWrite s f (slotAddr s f r) (nextBytes s f r c ovf)).map (fun t =>
    let u := t.setRing f r { s.ring f r with produced := ((s.ring f r).produced + 1) % 2 ^ 32, unsig := (s.ring f r).unsig + 1 }
    if c.event then u.setFnHost f { s.fnHost f with lost := 0 } else u) := by
  obtain ⟨-, hen, hroom⟩ := slotFree_iff.1 hfree
  have hgo : ¬(!s.flag R.HI_RING_CTL.ENABLE f r ||
      decide (2 ^ s.fld R.HI_CQ_BASE.CQ_LOG2 f r ≤ ((s.ring f r).produced + 2 ^ 32 - (s.ring f r).head) % 2 ^ 32)) = true := by
    simp only [hen, Bool.not_true, Bool.false_or, decide_eq_true_eq]
    exact Nat.not_le.2 hroom
  unfold putRec
  simp only [if_neg hgo]
  unfold slotAddr nextBytes
  split <;> rename_i h <;> rw [h] <;> rfl

theorem putRec_inside {ovf : Bool} (hwin : winOk s f (slotAddr s f r) (nextBytes s f r c ovf).length true = true) :
    ∃ t, putRec s f r c ovf = some t ∧ t.host.hostMem = cellsWrite s.host.hostMem (slotAddr s f r) (nextBytes s f r c ovf) ∧
      t.ring f r = { s.ring f r with produced := ((s.ring f r).produced + 1) % 2 ^ 32, unsig := (s.ring f r).unsig + 1 } := by
  obtain ⟨hup, -, -⟩ := slotFree_iff.1 hfree
  rw [putRec_free hfree, hostWrite, if_pos (by simp [hup, hwin])]
  refine ⟨_, rfl, ?_⟩
  by_cases hev : c.event = true <;> simp [hev]

theorem putRec_outside {ovf : Bool} (hwin : winOk s f (slotAddr s f r) (nextBytes s f r c ovf).length true = false) :
    putRec s f r c ovf = none := by
  rw [putRec_free hfree, hostWrite, if_neg (by simp [hwin])]
  rfl

end Free

/-- A record that finds others held, or no slot free, joins them. -/
theorem deliver_holds (h : (s.ring f r).held ≠ [] ∨ slotFree s f r = false) : deliver s f r c = holdRec f r c s := by
  have hhold : (!(s.ring f r).held.isEmpty || !slotFree s f r) = true := by
    rcases h with h | h <;> simp [h]
  exact if_pos hhold

section Direct

variable (hheld : (s.ring f r).held = []) (hfree : slotFree s f r = true)
include hheld hfree

/-- With none held and a slot free a record is tried on its ring: written there it interrupts as its ring says. -/
theorem deliver_written {t : State} (h : putRec s f r c false = some t) : deliver s f r c = recIrq t f r c := by
  have htry : ¬(!(s.ring f r).held.isEmpty || !slotFree s f r) = true := by simp [hheld, hfree]
  simp only [deliver, if_neg htry, h]

/-- Refused by the window it is held, and FETCH_ERR is set. -/
theorem deliver_refused (h : putRec s f r c false = none) :
    deliver s f r c = holdRec f r c (s.setFld R.HI_RING_STAT.FETCH_ERR 1 f r) := by
  have htry : ¬(!(s.ring f r).held.isEmpty || !slotFree s f r) = true := by simp [hheld, hfree]
  simp only [deliver, if_neg htry, h]
  rfl

theorem deliver_inside (hwin : winOk s f (slotAddr s f r) (nextBytes s f r c false).length true = true) :
    (deliver s f r c).host.hostMem = cellsWrite s.host.hostMem (slotAddr s f r) (nextBytes s f r c false) ∧
      ((deliver s f r c).ring f r).held = [] ∧ ((deliver s f r c).ring f r).produced = ((s.ring f r).produced + 1) % 2 ^ 32 := by
  obtain ⟨t, hput, hmem, hring⟩ := putRec_inside hfree hwin
  obtain ⟨⟨k, hirq⟩, hkept⟩ := recIrq_keeps t f r c
  simp only [deliver_written hheld hfree hput, hirq, hring, hkept, hmem, hheld, and_self]

theorem deliver_outside (hwin : winOk s f (slotAddr s f r) (nextBytes s f r c false).length true = false) :
    (deliver s f r c).host.hostMem = s.host.hostMem ∧ ((deliver s f r c).ring f r).held = [c] ∧
      (deliver s f r c).fld R.HI_RING_STAT.FETCH_ERR f r = 1 := by
  have hset := State.fld_setFld_same s R.HI_RING_STAT.FETCH_ERR 1 f r
  simp only [deliver_refused hheld hfree (putRec_outside hfree hwin), hostMem_holdRec, held_holdRec, fld_holdRec, State.ring_setFld, hheld, hset]
  exact ⟨rfl, rfl, rfl⟩

end Direct

/-- While its function is reset a completed descriptor is counted, and its record discarded (R219). -/
theorem complete_resetting {n k : Nat} {d : AccDesc} (h : findDesc s f r n = some d) (hr : (s.fnHost f).resetting = some k)
    (st : Status) (dt : Nat) (res : List Byte) : complete s f r n st dt res =
      (s.setRing f r { s.ring f r with acc := (s.ring f r).acc.filter (fun x => x.num != n) }).setFnHost f
        { s.fnHost f with resetting := some (k + 1) } := by
  simp only [complete, h, State.fnHost_setRing, hr]

end Delivery

/-- Settles O45: the bytes field by field, and delivery by what is held, free and admitted. -/
theorem completionRecords : Obligations.CompletionRecords := by
  unfold Obligations.CompletionRecords
  refine ⟨?bytes, ?held, ?direct, ?completed⟩
  case bytes =>
    intro c ovf n lg dt htag hseq hop hdt hres
    obtain ⟨hflags, hev, hovf, hres0, hphase⟩ := recFlags_bits c.event ovf _ (Nat.mod_lt (n / 2 ^ lg + 1) two_pos)
    have hresult : (recBytes c ovf n lg dt).drop 16 = c.result ++ List.replicate (16 - c.result.length) 0#8 := by
      rw [recBytes_eq, List.drop_left' (recFields_length ..), padTo_le hres]
    have hfield : ∀ {o w v : Nat} (i : Nat), (placed 0 (recFields c ovf n lg dt))[i]? = some (o, w, v) → v < 256 ^ w →
        fieldAt (recBytes c ovf n lg dt) o w = v := fun i hf hv => by rw [recBytes_eq]; exact fieldAt_layout i hf hv
    have hbyte : fieldAt (recBytes c ovf n lg dt) 10 1 = bit c.event + 2 * bit ovf + 128 * ((n / 2 ^ lg + 1) % 2) := hfield 4 rfl hflags
    simp only [hbyte]
    exact ⟨recBytes_length .., hfield 0 rfl htag, hfield 1 rfl hseq, hfield 2 rfl (Status.val_lt _), hfield 3 rfl hop, hev, hovf, hres0, hphase,
      hfield 5 rfl (by decide), hfield 6 rfl hdt, hresult⟩
  case held =>
    intro s f r c h
    rw [deliver_holds h]
    exact ⟨held_holdRec, hostMem_holdRec, out_holdRec_down, out_holdRec_up⟩
  case direct =>
    intro s f r c hheld hfree
    exact ⟨deliver_inside hheld hfree, deliver_outside hheld hfree⟩
  case completed =>
    intro s f r n dt st res
    exact ⟨fun h => complete_none h st dt res, fun d h hr => complete_some h hr st dt res, fun d k h hr => complete_resetting h hr st dt res⟩

/-! What the resets leave (R219, R294, R343, R347). -/

section Resets

/-- A module reset and Off take every part but the host side, the logs, the security state, power and pins to what it is after reset. -/
theorem cleared_fresh (s : State) (st : PowSt) (cause : Nat) :
    let t := cleared s st cause
    t.mm = State.reset.mm ∧ t.pg = State.reset.pg ∧ t.sch = State.reset.sch ∧ t.qm = State.reset.qm ∧ t.tr = State.reset.tr ∧
    t.attn = State.reset.attn ∧ t.nbu = State.reset.nbu ∧ t.tl = State.reset.tl ∧ t.fab = State.reset.fab ∧ t.mer = State.reset.mer ∧
    t.regs = State.reset.regs := ⟨rfl, rfl, rfl, rfl, rfl, rfl, rfl, rfl, rfl, rfl, rfl⟩

/-- The faults that survive: the retirement tables and the kept log entries. -/
theorem cleared_faults (s : State) (st : PowSt) (cause : Nat) :
    let t := cleared s st cause
    t.flt.retTiles = s.flt.retTiles ∧ t.flt.retNbus = s.flt.retNbus ∧ t.flt.retPcs = s.flt.retPcs ∧
    t.flt.retRanks = s.flt.retRanks ∧ t.flt.retLanes = s.flt.retLanes ∧ t.flt.kept = s.flt.kept := ⟨rfl, rfl, rfl, rfl, rfl, rfl⟩

/-- The security state that survives; every release is lost (R294). -/
theorem cleared_security (s : State) (st : PowSt) (cause : Nat) :
    let t := cleared s st cause
    t.sec.slots = s.sec.slots ∧ t.sec.svn = s.sec.svn ∧ t.sec.claimed = s.sec.claimed ∧ t.sec.anchors = s.sec.anchors ∧
    t.sec.sealed = s.sec.sealed.map (fun p => (p.1, { p.2 with released := false })) := ⟨rfl, rfl, rfl, rfl, rfl⟩

theorem goOff_off {s : State} (h : s.pow.st = .off) (cause : Nat) (persist : Bool) : goOff cause persist s = s := if_pos h

/-- Off drops PWR_GOOD and leaves what a clear leaves. -/
theorem goOff_clears {s : State} (h : s.pow.st ≠ .off) (cause : Nat) (persist : Bool) :
    let t := cleared (if persist then persistWork s else s) .off cause
    goOff cause persist s = { t with pins := { t.pins with pwrGood := false } } := if_neg h

/-- The host side after a host reset (R200, R343): every ring disabled but for its accepted and held work, MSI-X and virtual functions at
default, and the link down. -/
def unhosted (h : HostIf) : HostIf :=
  { h with
    fns := (h.fns.map (fun p => (p.1, { p.2 with ringUp := false }))).filter (fun p => p.2 != fnHost0)
    rings := (h.rings.map (fun p => (p.1, { ring0 with acc := p.2.acc, held := p.2.held, pass := p.2.pass }))).filter (fun p => p.2 != ring0)
    msix := [], msixPba := [], numVfs := 0, linkDown := true }

/-- The set-up of a function at default changes the registers alone. -/
theorem defaultPage_only (s : State) (f : Nat) : ∃ q, defaultPage s f = { s with regs := q } := by
  unfold defaultPage State.defaultRange
  split <;> exact ⟨_, rfl⟩

/-- With no function in reset a host reset changes the registers and the host side alone. -/
theorem hostReset_only {s : State} (h : ∀ f, (s.fnHost f).resetting = none) :
    ∃ q, hostReset s = { s with regs := q, host := unhosted s.host } := by
  have hnone : (List.range 64).filter (fun f => (s.fnHost f).resetting.isSome) = [] := by simp [h]
  obtain ⟨q, hq⟩ := defaultPage_only (s.defaultRange 0x700000 0x800000) 0
  unfold hostReset
  simp only [hnone, List.foldl_nil, hq]
  exact ⟨_, rfl⟩

/-- A function-level reset in progress is not begun again. -/
theorem flrBegin_begun {s : State} {f n : Nat} (h : (s.fnHost f).resetting = some n) : flrBegin f s = s :=
  if_pos (Option.isSome_of_eq_some h)

end Resets

/-- Settles O33, from what a clear leaves, what Off adds to it, and the parts that a host reset changes. -/
theorem resetLeaves : Obligations.ResetLeaves := by
  unfold Obligations.ResetLeaves
  refine ⟨?clear, ?off, ?host, fun s f n h => flrBegin_begun h⟩
  case clear =>
    intro s st cause
    obtain ⟨hmm, hpg, hsch, hqm, htr, hattn, hnbu, htl, hfab, hmer, hregs⟩ := cleared_fresh s st cause
    obtain ⟨htiles, hnbus, hpcs, hranks, hlanes, hkept⟩ := cleared_faults s st cause
    obtain ⟨hslots, hsvn, hclaimed, hanchors, hsealed⟩ := cleared_security s st cause
    exact ⟨hmm, hpg, hsch, hqm, htr, hattn, hnbu, htl, hfab, hmer, hregs, htiles, hnbus, hpcs, hranks, hlanes, hkept, rfl, rfl, hslots, hsvn,
      hclaimed, hanchors, hsealed, rfl, rfl⟩
  case off =>
    intro s cause persist
    refine ⟨fun h => goOff_off h cause persist, fun h => ⟨st_goOff cause persist s, ?_⟩⟩
    rw [goOff_clears h]
    exact ⟨rfl, rfl⟩
  case host =>
    intro s h
    obtain ⟨q, hq⟩ := hostReset_only h
    rw [hq]
    exact ⟨rfl, rfl, rfl, rfl, rfl, rfl, rfl, rfl, rfl, rfl, rfl⟩

/-! Descriptor fetch (R206). -/

section Fetch

variable {s : State} {f r : Nat} {b : List Byte}

/-- The host address of the descriptor that a ring fetches next. -/
def fetchAddr (s : State) (f r : Nat) : Nat :=
  s.fld R.HI_SQ_BASE.ADDR f r * 4096 + (s.ring f r).fetched % 2 ^ s.fld R.HI_SQ_BASE.SQ_LOG2 f r * 64

/-- The next descriptor of a ring accepted. -/
def acceptDesc (s : State) (f r : Nat) (b : List Byte) : State :=
  let t := s.setRing f r { s.ring f r with
    fetched := ((s.ring f r).fetched + 1) % 2 ^ 32
    acc := (s.ring f r).acc ++ [⟨(s.ring f r).pass * 2 ^ 32 + (s.ring f r).fetched, b, s.host.accepted, false⟩] }
  { t with host := { t.host with accepted := t.host.accepted + 1 } }

theorem ring_acceptDesc : (acceptDesc s f r b).ring f r = { s.ring f r with
    fetched := ((s.ring f r).fetched + 1) % 2 ^ 32
    acc := (s.ring f r).acc ++ [⟨(s.ring f r).pass * 2 ^ 32 + (s.ring f r).fetched, b, s.host.accepted, false⟩] } :=
  State.ring_setRing_same ..

variable (hmay : mayFetch s f r = true) (hread : hostRead s f (fetchAddr s f r) 64 = some b)
include hmay hread

theorem doFetch_accepts (hknown : descKnown b = true) : doFetch f r false s = acceptDesc s f r b := by
  unfold fetchAddr at hread
  simp only [doFetch, hmay, hread, hknown, Bool.not_true, Bool.true_or, Bool.false_eq_true, if_false, if_true]
  rfl

/-- A descriptor whose read meets an error stops its ring. -/
theorem doFetch_fails : doFetch f r true s = fetchFails s f r .deviceFault := by
  unfold fetchAddr at hread
  simp only [doFetch, hmay, hread, Bool.not_true, Bool.false_eq_true, if_false, if_true]

end Fetch

/-! HI_RING_CTL (R204, R206, R218). -/

section RingCtl

variable {s : State} {f r v : Nat}

theorem bitAt_zero_eq_mod (v : Nat) : bitAt v 0 = (v % 2 == 1) := by simp [bitAt]

theorem bitAt_eq_false_of_lt {b : Nat} (h : v < 2 ^ b) : bitAt v b = false := by
  simp [bitAt, Nat.div_eq_of_lt h]

/-- A value with its bit 0 written as it is. -/
theorem setBits_zero_mod (v : Nat) : setBits v 0 0 (v % 2) = v := by
  unfold setBits bits
  omega

@[simp] theorem ring_setRingCtl : (setRingCtl s f r v).ring f r = s.ring f r := rfl

/-- ENABLE is none of the fields that setting the rest of HI_RING_CTL writes. -/
theorem enable_setRingCtl : (setRingCtl s f r v).flag R.HI_RING_CTL.ENABLE f r = s.flag R.HI_RING_CTL.ENABLE f r := by
  have hvector := Fld.key_ne_of_lo R.HI_RING_CTL.ENABLE R.HI_RING_CTL.VECTOR rfl rfl rfl (by decide) f r
  have hcount := Fld.key_ne_of_lo R.HI_RING_CTL.ENABLE R.HI_RING_CTL.COAL_COUNT rfl rfl rfl (by decide) f r
  have htime := Fld.key_ne_of_lo R.HI_RING_CTL.ENABLE R.HI_RING_CTL.COAL_TIME rfl rfl rfl (by decide) f r
  simp only [State.flag, setRingCtl]
  rw [State.fld_setFld_ne _ htime, State.fld_setFld_ne _ hcount, State.fld_setFld_ne _ hvector]

theorem ring_startRing (s : State) (f r : Nat) : (startRing s f r).ring f r =
    { s.ring f r with fetched := 0, tail := 0, head := 0, produced := 0, stopped := false, unsig := 0,
                      pass := if (s.ring f r).acc.isEmpty then 0 else (s.ring f r).pass + 1 } :=
  State.ring_setRing_same ..

theorem enable_startRing (s : State) (f r : Nat) : (startRing s f r).flag R.HI_RING_CTL.ENABLE f r = true := by
  unfold State.flag startRing
  rw [State.fld_setRing, State.fld_setFnHost, State.fld_setFld_same]
  rfl

section Written

variable (hvec : bits v 11 1 < vectorsOf s f) (hv : v < 2 ^ 30)
include hvec hv

/-- A stopped ring below RINGS_MAX starts where ENABLE is written with 1; events that waited for a ring follow (R217). -/
theorem ringCtlWrite_starts (hmax : r < s.fld R.HI_FN_LIMIT.RINGS_MAX f) (hen : s.flag R.HI_RING_CTL.ENABLE f r = false) (hodd : v % 2 = 1) :
    ringCtlWrite f r v s = flushEvents (startRing (setRingCtl s f r v) f r) f := by
  have hgood : ¬(vectorsOf s f ≤ bits v 11 1 || (bitAt v 0 && decide (s.fld R.HI_FN_LIMIT.RINGS_MAX f ≤ r))) = true := by
    simp [hvec, hmax]
  have hset : bitAt v 0 = true := by simp [bitAt_zero_eq_mod, hodd]
  have hstopped : (setRingCtl s f r v).flag R.HI_RING_CTL.ENABLE f r = false := enable_setRingCtl.trans hen
  unfold ringCtlWrite
  rw [if_neg hgood]
  simp only [bitAt_eq_false_of_lt hv, hset, hstopped, Bool.not_true, Bool.false_eq_true, if_false]

theorem ringCtlWrite_stops (heven : v % 2 = 0) : ringCtlWrite f r v s = (setRingCtl s f r v).setFld R.HI_RING_CTL.ENABLE 0 f r := by
  have hclear : bitAt v 0 = false := by simp [bitAt_zero_eq_mod, heven]
  have hgood : ¬(vectorsOf s f ≤ bits v 11 1 || (bitAt v 0 && decide (s.fld R.HI_FN_LIMIT.RINGS_MAX f ≤ r))) = true := by
    simp [hvec, hclear]
  unfold ringCtlWrite
  rw [if_neg hgood]
  simp only [bitAt_eq_false_of_lt hv, hclear, Bool.not_false, Bool.false_eq_true, if_false, if_true]

end Written

end RingCtl

/-! The host link (R18, R200). -/

section Link

variable {s : State} {rate width : Nat}

/-- CLK_STAT lies before HI_STAT. -/
theorem fld_linkTrained_hostRef : (linkTrained rate width true s).fld R.CLK_STAT.HOST_REF = 1 := by
  have hwidth : R.CLK_STAT.HOST_REF.key 0 0 ≠ R.HI_STAT.WIDTH.key 0 0 := by decide
  have hrate : R.CLK_STAT.HOST_REF.key 0 0 ≠ R.HI_STAT.RATE.key 0 0 := by decide
  have hup : R.CLK_STAT.HOST_REF.key 0 0 ≠ R.HI_STAT.LINK_UP.key 0 0 := by decide
  simp only [linkTrained, Bool.not_true, Bool.false_eq_true, if_false]
  rw [State.fld_setFld_ne _ hwidth, State.fld_setFld_ne _ hrate, State.fld_setFld_ne _ hup]
  exact State.fld_setFld_same _ R.CLK_STAT.HOST_REF 1 0 0

theorem flag_linkTrained_up : (linkTrained rate width true s).flag R.HI_STAT.LINK_UP = true := by
  have hwidth : R.HI_STAT.LINK_UP.key 0 0 ≠ R.HI_STAT.WIDTH.key 0 0 := by decide
  have hrate : R.HI_STAT.LINK_UP.key 0 0 ≠ R.HI_STAT.RATE.key 0 0 := by decide
  simp only [linkTrained, Bool.not_true, Bool.false_eq_true, if_false, State.flag]
  rw [State.fld_setFld_ne _ hwidth, State.fld_setFld_ne _ hrate, State.fld_setFld_same]
  rfl

theorem fld_linkTrained_rate : (linkTrained rate width true s).fld R.HI_STAT.RATE = rate % 2 ^ R.HI_STAT.RATE.wd := by
  have hwidth : R.HI_STAT.RATE.key 0 0 ≠ R.HI_STAT.WIDTH.key 0 0 := by decide
  simp only [linkTrained, Bool.not_true, Bool.false_eq_true, if_false]
  rw [State.fld_setFld_ne _ hwidth, State.fld_setFld_same]

theorem fld_linkTrained_width : (linkTrained rate width true s).fld R.HI_STAT.WIDTH = width % 2 ^ R.HI_STAT.WIDTH.wd :=
  State.fld_setFld_same ..

/-- Without its reference the link does not train (R18). -/
theorem linkTrained_noRef : linkTrained rate width false s = hostRefIs s false := rfl

theorem fld_hostRefIs_false : (hostRefIs s false).fld R.CLK_STAT.HOST_REF = 0 := State.fld_setFld_same ..

theorem fld_hostRefIs_ne {x : Fld} (h : x.key 0 0 ≠ R.CLK_STAT.HOST_REF.key 0 0) (ok : Bool) : (hostRefIs s ok).fld x = s.fld x :=
  State.fld_setFld_ne _ h _

end Link

/-! NOP and FENCE (R119, R207, R208). -/

section Fences

variable {s : State} {f r n : Nat} {b : List Byte}

theorem doNop_completes (hd : takeDesc s f r n 0x3F = some b) (hz : zeroAt b 8 56 = true) : doNop f r n s = complete s f r n .ok := by
  obtain ⟨d, hfind, rfl, hop, hknown, hstart⟩ := takeDesc_some hd
  simp only [doNop, hfind, hop, hknown, hstart, hz, Bool.not_true, Bool.false_eq_true, ne_eq, not_true_eq_false, if_false, if_true]

section Fence

variable (hd : takeDesc s f r n 0x3E = some b) (hz : zeroAt b 9 55 = true)
include hd hz

theorem doFence_nbu (hnbu : fieldAt b 8 1 = 1) : doFence f r n s = complete (fenceSectors s (fun u => u.1 == f)) f r n .ok := by
  obtain ⟨d, hfind, rfl, hop, hknown, hstart⟩ := takeDesc_some hd
  simp [doFence, hfind, hop, hknown, hstart, hz, hnbu]

theorem doFence_plain (hnbu : fieldAt b 8 1 = 0) : doFence f r n s = complete s f r n .ok := by
  obtain ⟨d, hfind, rfl, hop, hknown, hstart⟩ := takeDesc_some hd
  simp [doFence, hfind, hop, hknown, hstart, hz, hnbu]

end Fence

/-- No sector that a fence covers stays unfenced. -/
theorem fenceSectors_uncovered {covers : Nat × Nat → Bool} {p : Nat × Unfenced} (hp : p ∈ (fenceSectors s covers).mm.unfenced) {w : Nat × Nat}
    (hw : w ∈ p.2.by_) : covers w = false := by
  have hnone : p.2.by_.any covers = false := by simpa using (List.mem_filter.1 hp).2
  exact eq_false_of_ne_true (List.any_eq_false.1 hnone w hw)

end Fences

/-! What each command does while the module is on. -/

section Commands

variable {s : State} (hon : s.pow.st = .on) (f r n v : Nat)
include hon

theorem exec_descriptorFetch_on (e : Bool) : exec (.descriptorFetch f r e) s = .next (finish (doFetch f r e s)) := act_on hon _

theorem exec_heldRecordDrain_on : exec (.heldRecordDrain f r) s = .next (finish (flushEvents (drainHeld s f r) f)) := act_on hon _

theorem exec_ringEnable_on : exec (.ringEnable f r v) s = .next (finish (ringCtlWrite f r (setBits v 0 0 1) s)) := act_on hon _

theorem exec_ringDisable_on : exec (.ringDisable f r v) s = .next (finish (ringCtlWrite f r (setBits v 0 0 0) s)) := act_on hon _

theorem exec_resume_on : exec (.resume f r) s = .next (finish (resumeRing s f r)) := act_on hon _

theorem exec_winSync_on : exec (.winSync f) s = .next (finish (s.setFld R.HI_WIN_SYNC.SYNC 0 f)) := act_on hon _

/-- A ring with COAL_TIME set and records not yet signalled is signalled when that time has passed. -/
theorem exec_coalTimeExpiry_signals (htime : s.fld R.HI_RING_CTL.COAL_TIME f r ≠ 0) (hunsig : (s.ring f r).unsig ≠ 0) :
    exec (.coalTimeExpiry f r) s = .next (finish (signalRing s f r)) := by
  have hdue : ¬(s.fld R.HI_RING_CTL.COAL_TIME f r = 0 ∨ (s.ring f r).unsig = 0) := not_or.2 ⟨htime, hunsig⟩
  have h : exec (.coalTimeExpiry f r) s = .next (finish (if s.fld R.HI_RING_CTL.COAL_TIME f r = 0 ∨ (s.ring f r).unsig = 0 then s
      else signalRing s f r)) := act_on hon _
  rw [h, if_neg hdue]

theorem exec_linkTrained_on (rate width : Nat) (ok : Bool) :
    exec (.linkTrained rate width ok) s = .next (finish (linkTrained rate width ok s)) := act_on hon _

theorem exec_nop_on : exec (.nop f r n) s = .next (finish (doNop f r n s)) := act_on hon _

theorem exec_fence_on : exec (.fence f r n) s = .next (finish (doFence f r n s)) := act_on hon _

end Commands

/-- Settles O2, a clause a command and case. -/
theorem ringsRun : Obligations.RingsRun := by
  unfold Obligations.RingsRun
  refine ⟨?fetch, ?fetchError, fun s f r hon => exec_heldRecordDrain_on hon f r, ?enable, ?disable, fun s f r hon => exec_resume_on hon f r,
    fun s f hon => exec_winSync_on hon f, fun s f r hon htime hunsig => exec_coalTimeExpiry_signals hon f r htime hunsig, ?trained, ?noRef, ?nop,
    ?fenceNbu, ?fence⟩
  case fetch =>
    intro s f r b hon hmay hread hknown
    refine ⟨acceptDesc s f r b, ?_, ring_acceptDesc, rfl, rfl, rfl, rfl⟩
    rw [exec_descriptorFetch_on hon, doFetch_accepts hmay hread hknown]
  case fetchError =>
    intro s f r b hon hmay hread
    rw [exec_descriptorFetch_on hon, doFetch_fails hmay hread]
    rfl
  case enable =>
    intro s f r v hon hvec hmax hen hv hodd
    refine ⟨?_, ring_startRing _ f r, enable_startRing _ f r⟩
    have hsame : setBits v 0 0 1 = v := hodd ▸ setBits_zero_mod v
    rw [exec_ringEnable_on hon, hsame, ringCtlWrite_starts hvec hv hmax hen hodd]
  case disable =>
    intro s f r v hon hvec hv heven
    have hsame : setBits v 0 0 0 = v := heven ▸ setBits_zero_mod v
    rw [exec_ringDisable_on hon, hsame, ringCtlWrite_stops hvec hv heven]
  case trained =>
    intro s rate width hon
    exact ⟨_, exec_linkTrained_on hon rate width true, rfl, flag_linkTrained_up, fld_linkTrained_rate, fld_linkTrained_width,
      fld_linkTrained_hostRef⟩
  case noRef =>
    intro s rate width hon
    refine ⟨hostRefIs s false, ?_, rfl, fld_hostRefIs_false, fld_hostRefIs_ne (by decide) false⟩
    rw [exec_linkTrained_on hon, linkTrained_noRef]
  case nop =>
    intro s f r n b hon hd hz
    rw [exec_nop_on hon, doNop_completes hd hz]
  case fenceNbu =>
    intro s f r n b hon hd hnbu hz
    refine ⟨?_, fun p hp w hw => by simpa using fenceSectors_uncovered hp hw⟩
    rw [exec_fence_on hon, doFence_nbu hd hz hnbu]
  case fence =>
    intro s f r n b hon hd hnbu hz
    rw [exec_fence_on hon, doFence_plain hd hz hnbu]

end Sys2Proof.Machine

/-! PROOFS. Flits and their codewords, link words, and the NAK timer (R222, R224 to R228, R240). -/

namespace Sys2Proof.Machine

open Sys2Proof

/-- What a command's operation comes to is what the command ends in. -/
theorem completes {c : Instr} {s x y : State} (hexec : exec c s = .next (finish x)) (hxy : x = y) : exec c s = .next (finish y) :=
  hxy ▸ hexec

/-! Ports read after updates. -/

@[simp] theorem State.port_setPort_same (s : State) (p : Nat) (x : Port) : (s.setPort p x).port p = x := Tab.get_put_same ..
@[simp] theorem State.port_setQueue (s : State) (q : Nat) (x : Queue) (p : Nat) : (s.setQueue q x).port p = s.port p := rfl

/-! Codewords (R222). -/

section Codewords

variable (s : State) (p n : Nat) (cw : Codewords)

theorem fecCount_unreported : fecCount s p ((n, false) :: cw) = fecCount s p cw := rfl

theorem fecCount_clean : fecCount s p ((0, true) :: cw) = fecCount s p cw := rfl

variable {n}

theorem fecCount_corrected (hlow : 1 ≤ n) (hhigh : n ≤ 13) :
    fecCount s p ((n, true) :: cw) = fecCount (s.incFld R.PORT_FEC_CNT.CORRECTED 1 p) p cw := by
  simp [fecCount, Nat.one_le_iff_ne_zero.1 hlow, hhigh]

theorem fecCount_uncorrectable (hmany : 13 < n) : fecCount s p ((n, true) :: cw) =
    fecCount (logModule (s.incFld R.PORT_FEC_CNT.UNCORRECTABLE 1 p) { entry0 s 0x04 .ok 0 with unitKind := 6, unit_ := p }) p cw := by
  have hsome : n ≠ 0 := by omega
  simp [fecCount, hsome, Nat.not_le.2 hmany]

end Codewords

/-! Data flits (R222, R227). -/

section DataFlits

variable {s c : State} {p v t : Nat} {fill : Bool} {cw : Codewords} {b : List Byte}

theorem doDataFlit_down (hdown : portUp (atTime s t) p = false) : doDataFlit p v fill cw b t s = atTime s t := by
  simp [doDataFlit, hdown]

section Up

variable (hc : fecCount (atTime s t) p cw = c) (hup : portUp (atTime s t) p = true) (hv : v < 8)
include hc hup hv

/-- On a port that is up a flit first has its codewords counted; what follows turns on them, on the NAK and on the replay. -/
theorem doDataFlit_up : doDataFlit p v fill cw b t s =
    if !fecOk cw then (if (c.port p).nak then c else sendNak (c.updPort p (fun x => { x with nak := true })) p)
    else if (c.port p).nak then c
    else if 0 < (c.port p).drop then c.updPort p (fun x => { x with drop := x.drop - 1, lastFlit := c.now })
    else acceptFlit c p v fill b := by
  subst hc
  simp only [doDataFlit, hup, Bool.not_true, Bool.false_or, decide_eq_true_eq, if_neg (Nat.not_le.2 hv)]

theorem doDataFlit_rejected (hbad : fecOk cw = false) (hnak : (c.port p).nak = false) :
    doDataFlit p v fill cw b t s = sendNak (c.updPort p (fun x => { x with nak := true })) p := by
  simp [doDataFlit_up hc hup hv, hbad, hnak]

/-- While a NAK is out no flit is accepted, and none is answered by another NAK. -/
theorem doDataFlit_nakOut (hnak : (c.port p).nak = true) : doDataFlit p v fill cw b t s = c := by
  simp [doDataFlit_up hc hup hv, hnak]

variable (hok : fecOk cw = true) (hnak : (c.port p).nak = false)
include hok hnak

/-- A replay repeats a flit that was accepted before it. -/
theorem doDataFlit_repeated (hdrop : 0 < (c.port p).drop) :
    doDataFlit p v fill cw b t s = c.updPort p (fun x => { x with drop := x.drop - 1, lastFlit := c.now }) := by
  simp [doDataFlit_up hc hup hv, hok, hnak, hdrop]

theorem doDataFlit_accepted (hdrop : (c.port p).drop = 0) : doDataFlit p v fill cw b t s = acceptFlit c p v fill b := by
  simp [doDataFlit_up hc hup hv, hok, hnak, hdrop]

end Up

end DataFlits

/-! Control flits (R225). -/

section ControlFlits

variable {s : State} {p ty t : Nat} {cw : Codewords} {b : List Byte} {f : List Byte → Bool} {g : State → State}

/-- A well-formed control flit is of its TYPE. -/
theorem type_of_controlOk (h : controlOk b ty f = true) : fieldAt b 0 1 = ty := by
  simp only [controlOk, Bool.and_eq_true, beq_iff_eq] at h
  obtain ⟨⟨⟨_, hty⟩, _⟩, _⟩ := h
  exact hty

theorem onControl_rejected (hbad : fecOk cw = false) : onControl p ty cw b t f g s = fecCount (atTime s t) p cw := by
  simp [onControl, hbad]

/-- A flit of another TYPE is another command's. -/
theorem onControl_otherType (hty : fieldAt b 0 1 ≠ ty) (hknown : fieldAt b 0 1 < 4) :
    onControl p ty cw b t f g s = fecCount (atTime s t) p cw := by
  simp [onControl, hty, hknown]

theorem onControl_wellFormed (hok : fecOk cw = true) (hform : controlOk b ty f = true) : onControl p ty cw b t f g s =
    g ((fecCount (atTime s t) p cw).updPort p (fun x => { x with lastFlit := (fecCount (atTime s t) p cw).now })) := by
  simp [onControl, hok, hform, type_of_controlOk hform]

theorem onControl_malformed (hok : fecOk cw = true) (hform : controlOk b ty f = false) (hty : fieldAt b 0 1 = ty ∨ 4 ≤ fieldAt b 0 1) :
    onControl p ty cw b t f g s = controlBad (fecCount (atTime s t) p cw) p := by
  have hmine : ¬(fieldAt b 0 1 ≠ ty ∧ fieldAt b 0 1 < 4) := by omega
  simp only [onControl, hok, hform, Bool.not_true, Bool.false_or, Bool.and_eq_true, bne_iff_ne, decide_eq_true_eq, if_neg hmine,
    Bool.false_eq_true, if_false]

/-- The four outcomes of a control flit's command. -/
theorem controlFlit_outcomes {c : Instr} (hexec : exec c s = .next (finish (onControl p ty cw b t f g s))) :
    let u := fecCount (atTime s t) p cw
    (fecOk cw = false → exec c s = .next (finish u)) ∧
    (fecOk cw = true → fieldAt b 0 1 ≠ ty → fieldAt b 0 1 < 4 → exec c s = .next (finish u)) ∧
    (fecOk cw = true → controlOk b ty f = true → exec c s = .next (finish (g (u.updPort p (fun x => { x with lastFlit := u.now }))))) ∧
    (fecOk cw = true → controlOk b ty f = false → fieldAt b 0 1 = ty ∨ 4 ≤ fieldAt b 0 1 → exec c s = .next (finish (controlBad u p))) :=
  ⟨fun hbad => completes hexec (onControl_rejected hbad),
   fun _ hty hknown => completes hexec (onControl_otherType hty hknown),
   fun hok hform => completes hexec (onControl_wellFormed hok hform),
   fun hok hform hty => completes hexec (onControl_malformed hok hform hty)⟩

end ControlFlits

/-! REPLAY (Table 12-5). -/

theorem takeReplay_resumes {s : State} {p f : Nat} (h : ((s.port p).rxSeq + 4096 - f) % 4096 < 2048) :
    takeReplay p f s = s.setPort p { s.port p with nak := false, drop := ((s.port p).rxSeq + 4096 - f) % 4096 } := if_pos h

theorem takeReplay_discarded {s : State} {p f : Nat} (h : 2048 ≤ ((s.port p).rxSeq + 4096 - f) % 4096) : takeReplay p f s = s :=
  if_neg (Nat.not_lt.2 h)

/-! Link words (R226 to R228). -/

section LinkWords

variable {s u : State} {p w : Nat} {r : Bool}

theorem doLinkWord_down (hdown : portUp s p = false) : doLinkWord p w r s = s := by
  simp [doLinkWord, hdown]

section Up

variable (hu : s.updPort p (fun x => { x with words := (x.words + 1) % 4 }) = u) (hup : portUp s p = true)
include hu hup

theorem doLinkWord_bad (hbad : r = true ∨ crc8 (w % 2 ^ 88) ≠ w / 2 ^ 88) : doLinkWord p w r s = u.incFld R.PORT_ERR_CNT.WORD_BAD 1 p := by
  subst hu
  have hdiscard : (r || crc8 (w % 2 ^ 88) != w / 2 ^ 88) = true := by simpa using hbad
  simp only [doLinkWord, hup, Bool.not_true, Bool.false_eq_true, if_false, hdiscard, if_true]

/-- A good word applies its acknowledgement, the credits of its two VCs, and its NAK, in that order. -/
theorem doLinkWord_good (hr : r = false) (hcrc : crc8 (w % 2 ^ 88) = w / 2 ^ 88) : doLinkWord p w r s =
    let a := if bitAt w 12 then takeAck p (w % 4096) u else u
    let c := takeCredits p ((2 * (s.port p).words + 1) % 8) (bits w 47 32) (takeCredits p (2 * (s.port p).words % 8) (bits w 31 16) a)
    pumpFabric (if bitAt w 13 then replay c p else c) := by
  subst hu hr
  have hgood : (false || crc8 (w % 2 ^ 88) != w / 2 ^ 88) = false := by simpa using hcrc
  simp only [doLinkWord, hup, Bool.not_true, Bool.false_eq_true, if_false, hgood]

end Up

/-! Acknowledgements (R227). -/

/-- Marks move in the queues, not in the ports. -/
theorem port_releaseMarks (l : List (Nat × Nat)) (s : State) (p : Nat) : (releaseMarks s l).port p = s.port p := by
  induction l generalizing s with
  | nil => rfl
  | cons e l ih =>
    refine (ih _).trans ?_
    dsimp only
    split
    · exact State.port_setQueue ..
    · rfl

/-- Where no flit is held an acknowledgement names none. -/
theorem takeAck_nothingHeld (q : Nat) (h : (s.port p).unacked = []) : takeAck p q s = s.incFld R.PORT_RETRY_CNT.BAD_ACK 1 p := by
  refine if_pos ?_
  rw [h, List.length_nil]
  exact Nat.eq_zero_or_pos _

/-- An acknowledgement of `n` of the flits held lets go of the `n` oldest. -/
theorem unacked_takeAck {q n : Nat} (hn : (q + 1 + 4096 - ((s.port p).txSeq + 4096 - (s.port p).unacked.length % 4096) % 4096) % 4096 = n)
    (hpos : 0 < n) (hheld : n ≤ (s.port p).unacked.length) : ((takeAck p q s).port p).unacked = (s.port p).unacked.drop n := by
  subst hn
  have hgood := not_or.2 ⟨Nat.pos_iff_ne_zero.1 hpos, Nat.not_lt.2 hheld⟩
  unfold takeAck
  rw [if_neg hgood, port_releaseMarks, State.port_setPort_same]

end LinkWords

/-! What each command does while the module is on. -/

section Commands

variable {s : State} (hon : s.pow.st = .on) (p : Nat)
include hon

theorem exec_dataFlit_on (v t : Nat) (fill : Bool) (cw : Codewords) (b : List Byte) :
    exec (.dataFlit p v fill cw b t) s = .next (finish (doDataFlit p v fill cw b t s)) := act_on hon _

theorem exec_idle_on (cw : Codewords) (b : List Byte) (t : Nat) :
    exec (.idle p cw b t) s = .next (finish (onControl p 0 cw b t (fun b => zeroAt b 1 251) id s)) := act_on hon _

theorem exec_replay_on (cw : Codewords) (b : List Byte) (t : Nat) : exec (.replay p cw b t) s = .next (finish
    (onControl p 1 cw b t (fun b => decide (fieldAt b 1 2 < 4096) && zeroAt b 3 249)
      (fun s => if portUp s p then takeReplay p (fieldAt b 1 2) s else s) s)) := act_on hon _

theorem exec_sync_on (cw : Codewords) (b : List Byte) (a : Nat) : exec (.sync p cw b a) s = .next (finish
    (onControl p 2 cw b (a / 256) (fun b => zeroAt b 1 7 && decide (fieldAt b 32 1 < 64) && decide (fieldAt b 33 1 < 2) && zeroAt b 34 218)
      (takeSyncFlit p a b) s)) := act_on hon _

theorem exec_hello_on (cw : Codewords) (b : List Byte) (t : Nat) : exec (.hello p cw b t) s = .next (finish
    (onControl p 3 cw b t (fun b => decide (fieldAt b 1 2 < 32768) && decide (fieldAt b 3 1 < 16) && decide (fieldAt b 4 1 < 64) &&
      zeroAt b 5 3 && zeroAt b 24 228) (takeHello p b) s)) := act_on hon _

theorem exec_linkWord_on (sb : List Nat) (r : Bool) : exec (.linkWord p sb r) s = .next (finish (doLinkWord p (wordOfSb sb) r s)) :=
  act_on hon _

theorem exec_replayWaitExpiry_on : exec (.replayWaitExpiry p) s =
    .next (finish (if (s.port p).nak && portUp s p then sendNak s p else s)) := act_on hon _

end Commands

/-- Settles O27, a clause a kind of flit, from what its operation does in each case. -/
theorem linkFlits : Obligations.LinkFlits := by
  unfold Obligations.LinkFlits
  refine ⟨?data, ?codewords, ?control, fun s p f => ⟨takeReplay_resumes, takeReplay_discarded⟩, ?word,
    fun s p q => takeAck_nothingHeld q, fun s p q => unacked_takeAck rfl, ?nakTimer⟩
  case data =>
    intro s p v t fill cw b hon
    have hexec := exec_dataFlit_on hon p v t fill cw b
    exact ⟨fun hdown => completes hexec (doDataFlit_down hdown),
      fun hup hv hbad => ⟨fun hnak => completes hexec (doDataFlit_nakOut rfl hup hv hnak),
        fun hnak => completes hexec (doDataFlit_rejected rfl hup hv hbad hnak)⟩,
      fun hup hv _ hnak => completes hexec (doDataFlit_nakOut rfl hup hv hnak),
      fun hup hv hok hnak hdrop => completes hexec (doDataFlit_repeated rfl hup hv hok hnak hdrop),
      fun hup hv hok hnak hdrop => completes hexec (doDataFlit_accepted rfl hup hv hok hnak hdrop)⟩
  case codewords =>
    intro s p n cw
    refine ⟨rfl, fecCount_unreported s p n cw, ?_, fecCount_corrected s p cw, fecCount_uncorrectable s p cw⟩
    rintro rfl
    exact fecCount_clean s p cw
  case control =>
    intro s p a cw b hon
    exact ⟨controlFlit_outcomes (exec_idle_on hon p cw b a), controlFlit_outcomes (exec_replay_on hon p cw b a),
      controlFlit_outcomes (exec_sync_on hon p cw b a), controlFlit_outcomes (exec_hello_on hon p cw b a)⟩
  case word =>
    intro s p sb r hon
    have hexec := exec_linkWord_on hon p sb r
    exact ⟨fun hdown => completes hexec (doLinkWord_down hdown), fun hup hbad => completes hexec (doLinkWord_bad rfl hup hbad),
      fun hup hr hcrc => completes hexec (doLinkWord_good rfl hup hr hcrc)⟩
  case nakTimer =>
    intro s p hon
    have hexec := exec_replayWaitExpiry_on hon p
    exact ⟨fun hnak hup => completes hexec (if_pos (Bool.and_eq_true_iff.2 ⟨hnak, hup⟩)),
      fun hno => completes hexec (if_neg (ne_true_of_eq_false (Bool.and_eq_false_iff.2 hno)))⟩

end Sys2Proof.Machine

/-! PROOFS. Lanes, training, ports going down, and fabric time's own commands (R221, R225, R230 to R232, R239, R240, R343). -/

namespace Sys2Proof.Machine

open Sys2Proof

/-! Lanes (R230, R231). -/

section Lanes

variable {s a : State} {p l m t : Nat} {lost : Bool}

/-- No more symbol errors than BURST_SYM, and the lane's signal there, are no burst. -/
theorem doLaneBurst_none (ha : atTime s t = a) (hlost : lost = false) (hfew : m ≤ a.fld R.PORT_LANE_CFG.BURST_SYM p) :
    doLaneBurst p l m lost t s = a := by
  subst ha hlost
  simp [doLaneBurst, hfew]

section Burst

variable {u : State} {recent : List Nat} (ha : atTime s t = a)
  (hu : logModule a { entry0 a 0x01 .ok 0 with unitKind := 5, unit_ := p * 4 + l } = u)
  (hrecent : (Tab.get [] l (u.port p).retrains).filter (fun v => decide (u.now ≤ v + 10000000)) = recent)
  (hlive : portUp a p = true ∨ portHalted a p = true) (hin : bitAt (lanesOf a p) l = true) (hl : l < 4)
  (hburst : lost = true ∨ a.fld R.PORT_LANE_CFG.BURST_SYM p < m)
include ha hu hrecent hlive hin hl hburst

/-- A burst on a lane in service is logged; the lane's retrains of the last 10 ms decide the rest. -/
theorem doLaneBurst_logged : doLaneBurst p l m lost t s = if 3 ≤ recent.length then retireLane u p l
    else (u.updPort p (fun x => { x with halted := NSet.add l x.halted })).setFld R.PORT_STAT.STATE 3 p := by
  subst ha hu hrecent
  have hlive' : (portUp (atTime s t) p || portHalted (atTime s t) p) = true := by simpa using hlive
  have hburst' : (!lost && decide (m ≤ (atTime s t).fld R.PORT_LANE_CFG.BURST_SYM p)) = false := by
    simpa [Nat.not_le, or_iff_not_imp_left] using hburst
  simp only [doLaneBurst, hlive', hin, Nat.not_le.2 hl, hburst', decide_false, Bool.not_true, Bool.or_self, Bool.false_eq_true, if_false]

theorem doLaneBurst_halts (hfew : recent.length < 3) : doLaneBurst p l m lost t s =
    (u.updPort p (fun x => { x with halted := NSet.add l x.halted })).setFld R.PORT_STAT.STATE 3 p :=
  (doLaneBurst_logged ha hu hrecent hlive hin hl hburst).trans (if_neg (Nat.not_le.2 hfew))

theorem doLaneBurst_retires (hmany : 3 ≤ recent.length) : doLaneBurst p l m lost t s = retireLane u p l :=
  (doLaneBurst_logged ha hu hrecent hlive hin hl hburst).trans (if_pos hmany)

end Burst

section Retrain

variable {u : State} (hu : atTime s t = u) (hhalted : (u.port p).halted.contains l = true) (hport : portHalted u p = true)
include hu hhalted hport

theorem doRetrainDone_resumes : doRetrainDone p l t s = resumePort ((u.updPort p (fun x =>
      { x with halted := x.halted.filter (· != l), fails := Tab.del l x.fails
               retrains := Tab.ins l (u.now :: (Tab.get [] l x.retrains).take 7) x.retrains })).incFld R.PORT_RETRAIN_CNT.RETRAINS 1 p) p := by
  subst hu
  simp only [doRetrainDone, hport, hhalted, Bool.not_true, Bool.or_self, Bool.false_eq_true, if_false]

/-- The third failure in a row retires the lane. -/
theorem doRetrainTimeout_retires (hfails : 2 ≤ Tab.get 0 l (u.port p).fails) : doRetrainTimeout p l t s = retireLane u p l := by
  subst hu
  simp only [doRetrainTimeout, hport, hhalted, Bool.not_true, Bool.or_self, Bool.false_eq_true, if_false,
    if_pos (Nat.succ_le_succ hfails)]

theorem doRetrainTimeout_counts (hfails : Tab.get 0 l (u.port p).fails < 2) : doRetrainTimeout p l t s =
    u.updPort p (fun x => { x with fails := Tab.ins l (Tab.get 0 l (u.port p).fails + 1) x.fails }) := by
  subst hu
  simp only [doRetrainTimeout, hport, hhalted, Bool.not_true, Bool.or_self, Bool.false_eq_true, if_false,
    if_neg (Nat.not_le.2 (Nat.succ_lt_succ hfails))]

end Retrain

end Lanes

/-! Reform (R231). -/

section Reform

variable {s u : State} {p t lanes v : Nat} {c : List Nat} (hu : atTime s t = u) (hhello : (u.port p).hello = some (lanes, v, c))
  (hport : portHalted u p = true) (hreform : (u.port p).reform = true)
include hu hhello hport hreform

/-- The port resumes at the widest width usable at both ends. -/
theorem doReformDone_resumes {w : Nat} (hw : widthOf (Nat.land lanes (lanesOf u p)) (u.fld R.PORT_CTL.MAX_WIDTH p) = some w) :
    doReformDone p t s = resumePort ((u.updPort p (fun x => { x with reform := false })).setFld R.PORT_STAT.WIDTH w p) p := by
  subst hu
  simp only [doReformDone, hhello, hport, hreform, hw, Bool.not_true, Bool.or_self, Bool.false_eq_true, if_false]

/-- Without a usable width the port is retired. -/
theorem doReformDone_retires (hw : widthOf (Nat.land lanes (lanesOf u p)) (u.fld R.PORT_CTL.MAX_WIDTH p) = none) :
    doReformDone p t s = downPort u p 4 := by
  subst hu
  simp only [doReformDone, hhello, hport, hreform, hw, Bool.not_true, Bool.or_self, Bool.false_eq_true, if_false]

end Reform

/-! Ports going down, and attempts to train (R232, R343). -/

section Ports

variable {s u : State} {p t : Nat}

theorem doNoFlitTimeout_downs (hu : atTime s t = u) (hup : portUp u p = true) (hquiet : (u.port p).lastFlit + 10000 ≤ u.now) :
    doNoFlitTimeout p t s = downPort u p 0 := by
  subst hu
  simp [doNoFlitTimeout, hup, hquiet]

theorem doNoFlitTimeout_early (hu : atTime s t = u) (hearly : u.now < (u.port p).lastFlit + 10000) : doNoFlitTimeout p t s = u := by
  subst hu
  simp [doNoFlitTimeout, Nat.not_le.2 hearly]

/-- A port trains where it is enabled and down. -/
def tryTraining (u : State) (p : Nat) : State :=
  if u.flag R.PORT_CTL.ENABLE p && u.fld R.PORT_STAT.STATE p == 0 then startTraining u p else u

theorem tryTraining_starts (hen : u.flag R.PORT_CTL.ENABLE p = true) (hdown : u.fld R.PORT_STAT.STATE p = 0) :
    tryTraining u p = startTraining u p := by
  simp [tryTraining, hen, hdown]

theorem tryTraining_disabled (hen : u.flag R.PORT_CTL.ENABLE p = false) : tryTraining u p = u := by
  simp [tryTraining, hen]

end Ports

/-! The end of training (R221, R234). -/

section Training

variable {s u : State} {p t : Nat} {ok : Bool} (hu : atTime s t = u)
include hu

theorem doTrainingDone_notTraining (hst : u.fld R.PORT_STAT.STATE p ≠ 1) : doTrainingDone p ok t s = u := by
  subst hu
  simp only [doTrainingDone, if_pos hst]

variable (hst : u.fld R.PORT_STAT.STATE p = 1)
include hst

theorem doTrainingDone_noHello (hhello : (u.port p).hello = none) : doTrainingDone p ok t s = trainFails u p false := by
  subst hu
  simp only [doTrainingDone, hst, hhello, ne_eq, not_true_eq_false, if_false]

section Hello

variable {lanes v : Nat} {c : List Nat} (hhello : (u.port p).hello = some (lanes, v, c))
include hhello

theorem doTrainingDone_notConverged : doTrainingDone p false t s = trainFails u p false := by
  subst hu
  simp only [doTrainingDone, hst, hhello, ne_eq, not_true_eq_false, if_false, Bool.not_false, Bool.true_or, if_true]

theorem doTrainingDone_otherVariant (hv : v ≠ u.fld R.PORT_CTL.VARIANT p) : doTrainingDone p ok t s = trainFails u p false := by
  subst hu
  simp [doTrainingDone, hst, hhello, hv]

variable (hv : v = u.fld R.PORT_CTL.VARIANT p)
include hv

theorem doTrainingDone_miswired (hwire : miswired u p = true) : doTrainingDone p true t s = trainFails u p true := by
  subst hu
  simp [doTrainingDone, hst, hhello, hv, hwire]

variable (hwire : miswired u p = false)
include hwire

theorem doTrainingDone_up {w : Nat} (hw : widthOf (Nat.land lanes (lanesOf u p)) (u.fld R.PORT_CTL.MAX_WIDTH p) = some w) :
    doTrainingDone p true t s = bringUp u p w c := by
  subst hu
  simp only [doTrainingDone, hst, hhello, hv, hwire, hw, ne_eq, not_true_eq_false, if_false, Bool.not_true, Bool.false_or, bne_self_eq_false,
    Bool.false_eq_true]

theorem doTrainingDone_noWidth (hw : widthOf (Nat.land lanes (lanesOf u p)) (u.fld R.PORT_CTL.MAX_WIDTH p) = none) :
    doTrainingDone p true t s = trainFails u p false := by
  subst hu
  simp only [doTrainingDone, hst, hhello, hv, hwire, hw, ne_eq, not_true_eq_false, if_false, Bool.not_true, Bool.false_or, bne_self_eq_false,
    Bool.false_eq_true]

end Hello

end Training

/-! SYNC and holdover (R225, R240). -/

section Time

variable {s u : State} {p t : Nat}

/-- A SYNC flit sent: the module's time, the times of the peer's last SYNC, and the HOPS and LOCKED it says of itself. -/
def sendSync (u : State) (p hops locked : Nat) : State :=
  sendIdles (emitControl u p 0x02
    (leBytes 7 0 ++ leBytes 8 u.time256 ++ leBytes 8 (u.port p).syncTx ++ leBytes 8 (u.port p).syncRx ++ leBytes 1 hops ++ leBytes 1 locked)) p

theorem doSyncPeriod_down (hu : atTime s t = u) (hdown : portUp u p = false) : doSyncPeriod p t s = u := by
  subst hu
  simp [doSyncPeriod, hdown]

section Up

variable (hu : atTime s t = u) (hup : portUp u p = true)
include hu hup

/-- The root is locked, at no hops from itself. -/
theorem doSyncPeriod_root (hroot : u.flag R.TIME_CTL.ROOT = true) : doSyncPeriod p t s = sendSync u p 0 1 := by
  subst hu
  simp only [doSyncPeriod, sendSync, hup, hroot, Bool.not_true, Bool.false_eq_true, if_false, if_true, Bool.true_or, bit]

variable (hroot : u.flag R.TIME_CTL.ROOT = false)
include hroot

theorem doSyncPeriod_locked (hlocked : u.flag R.TIME_STAT.LOCKED = true) :
    doSyncPeriod p t s = sendSync u p (u.fld R.TIME_STAT.HOPS) 1 := by
  subst hu
  simp only [doSyncPeriod, sendSync, hup, hroot, hlocked, Bool.not_true, Bool.false_eq_true, if_false, if_true, Bool.false_or, bit]

theorem doSyncPeriod_unlocked (hlocked : u.flag R.TIME_STAT.LOCKED = false) : doSyncPeriod p t s = sendSync u p 63 0 := by
  subst hu
  simp only [doSyncPeriod, sendSync, hup, hroot, hlocked, Bool.not_true, Bool.false_eq_true, if_false, Bool.or_self, bit]

end Up

theorem doHoldoverExpiry_due {a : Nat} (hu : atTime s t = u) (ha : u.fab.holdover = some a) (hflag : u.flag R.TIME_STAT.HOLDOVER = true)
    (hdue : a + 1000000 ≤ u.now) : doHoldoverExpiry t s = u.setFld R.TIME_STAT.IN_SPEC 0 := by
  subst hu
  simp only [doHoldoverExpiry, ha, hflag, hdue, and_self, if_true]

theorem doHoldoverExpiry_none (hu : atTime s t = u) (hnone : u.fab.holdover = none) : doHoldoverExpiry t s = u := by
  subst hu
  simp only [doHoldoverExpiry, hnone]

end Time

/-! What each command does while the module is on. -/

section Commands

variable {s : State} (hon : s.pow.st = .on) (p l t : Nat)
include hon

theorem exec_laneBurst_on (m : Nat) (lost : Bool) : exec (.laneBurst p l m lost t) s = .next (finish (doLaneBurst p l m lost t s)) :=
  act_on hon _

theorem exec_retrainDone_on : exec (.retrainDone p l t) s = .next (finish (doRetrainDone p l t s)) := act_on hon _

theorem exec_retrainTimeout_on : exec (.retrainTimeout p l t) s = .next (finish (doRetrainTimeout p l t s)) := act_on hon _

theorem exec_reformDone_on : exec (.reformDone p t) s = .next (finish (doReformDone p t s)) := act_on hon _

theorem exec_lossOfSignal_on : exec (.lossOfSignal p t) s =
    .next (finish (if portLive s p then downPort (atTime s t) p 0 else atTime s t)) := act_on hon _

theorem exec_noFlitTimeout_on : exec (.noFlitTimeout p t) s = .next (finish (doNoFlitTimeout p t s)) := act_on hon _

theorem exec_trainingAttempt_on : exec (.trainingAttempt p t) s = .next (finish (tryTraining (atTime s t) p)) := act_on hon _

theorem exec_portReset_on : exec (.portReset p t) s = .next (finish (tryTraining
    (if portLive (atTime s t) p then downPort (atTime s t) p 0 else atTime s t) p)) := act_on hon _

theorem exec_trainingDone_on (ok : Bool) : exec (.trainingDone p ok t) s = .next (finish (doTrainingDone p ok t s)) := act_on hon _

theorem exec_syncPeriod_on : exec (.syncPeriod p t) s = .next (finish (doSyncPeriod p t s)) := act_on hon _

theorem exec_helloRepeat_on : exec (.helloRepeat p) s = .next (finish
    (if ((s.fld R.PORT_STAT.STATE p == 1) || (portHalted s p && (s.port p).reform)) && (s.port p).hello.isNone then sendHello s p else s)) :=
  act_on hon _

theorem exec_holdoverExpiry_on : exec (.holdoverExpiry t) s = .next (finish (doHoldoverExpiry t s)) := act_on hon _

end Commands

/-- Settles O28, a clause a command, from what its operation does in each case. -/
theorem portsAndTime : Obligations.PortsAndTime := by
  unfold Obligations.PortsAndTime
  refine ⟨?burst, ?retrain, ?reform, ?ports, ?hello, ?training, ?sync, ?helloRepeat, ?holdover⟩
  case burst =>
    intro s p l m t lost hon hlive hin hl
    have hexec := exec_laneBurst_on hon p l t m lost
    exact ⟨fun hlost hfew => completes hexec (doLaneBurst_none rfl hlost hfew),
      fun hburst hfew => completes hexec (doLaneBurst_halts rfl rfl rfl hlive hin hl hburst hfew),
      fun hburst hmany => completes hexec (doLaneBurst_retires rfl rfl rfl hlive hin hl hburst hmany)⟩
  case retrain =>
    intro s p l t hon hhalted hport
    have htimeout := exec_retrainTimeout_on hon p l t
    exact ⟨completes (exec_retrainDone_on hon p l t) (doRetrainDone_resumes rfl hhalted hport),
      fun hfails => completes htimeout (doRetrainTimeout_retires rfl hhalted hport hfails),
      fun hfails => completes htimeout (doRetrainTimeout_counts rfl hhalted hport hfails)⟩
  case reform =>
    intro s p t lanes v c hon hhello hport hreform
    have hexec := exec_reformDone_on hon p t
    exact ⟨fun w hw => completes hexec (doReformDone_resumes rfl hhello hport hreform hw),
      fun hw => completes hexec (doReformDone_retires rfl hhello hport hreform hw)⟩
  case ports =>
    intro s p t hon
    have hloss := exec_lossOfSignal_on hon p t
    have hquiet := exec_noFlitTimeout_on hon p t
    have hattempt := exec_trainingAttempt_on hon p t
    have hreset := exec_portReset_on hon p t
    refine ⟨fun hlive => completes hloss (if_pos hlive), fun hdead => completes hloss (if_neg (ne_true_of_eq_false hdead)),
      fun hup hlong => completes hquiet (doNoFlitTimeout_downs rfl hup hlong), fun hearly => completes hquiet (doNoFlitTimeout_early rfl hearly),
      fun hen hdown => completes hattempt (tryTraining_starts hen hdown), fun hen => completes hattempt (tryTraining_disabled hen),
      fun hlive hen hdown => ?downFirst, fun hdead hen => ?disabled⟩
    case downFirst =>
      rw [if_pos hlive] at hreset
      exact completes hreset (tryTraining_starts hen hdown)
    case disabled =>
      rw [if_neg (ne_true_of_eq_false hdead)] at hreset
      exact completes hreset (tryTraining_disabled hen)
  case hello =>
    intro s p t lanes v c hon hst hhello
    have hexec := exec_trainingDone_on hon p t true
    exact ⟨fun hv => completes hexec (doTrainingDone_otherVariant rfl hst hhello hv),
      completes (exec_trainingDone_on hon p t false) (doTrainingDone_notConverged rfl hst hhello),
      fun hv hwire => completes hexec (doTrainingDone_miswired rfl hst hhello hv hwire),
      fun w hv hwire hw => completes hexec (doTrainingDone_up rfl hst hhello hv hwire hw),
      fun hv hwire hw => completes hexec (doTrainingDone_noWidth rfl hst hhello hv hwire hw)⟩
  case training =>
    intro s p t ok hon
    have hexec := exec_trainingDone_on hon p t ok
    exact ⟨fun hst hhello => completes hexec (doTrainingDone_noHello rfl hst hhello),
      fun hst => completes hexec (doTrainingDone_notTraining rfl hst)⟩
  case sync =>
    intro s p t hon
    have hexec := exec_syncPeriod_on hon p t
    exact ⟨fun hdown => completes hexec (doSyncPeriod_down rfl hdown),
      fun hup hroot => completes hexec (doSyncPeriod_root rfl hup hroot),
      fun hup hroot hlocked => completes hexec (doSyncPeriod_locked rfl hup hroot hlocked),
      fun hup hroot hlocked => completes hexec (doSyncPeriod_unlocked rfl hup hroot hlocked)⟩
  case helloRepeat =>
    intro s p hon
    have hexec := exec_helloRepeat_on hon p
    refine ⟨fun htrains hnone => completes hexec (if_pos ?_), fun h hsome => completes hexec (if_neg ?_)⟩
    · simpa [hnone] using htrains
    · simp [hsome]
  case holdover =>
    intro s t hon
    have hexec := exec_holdoverExpiry_on hon t
    exact ⟨fun a ha hflag hdue => completes hexec (doHoldoverExpiry_due rfl ha hflag hdue),
      fun hnone => completes hexec (doHoldoverExpiry_none rfl hnone)⟩

end Sys2Proof.Machine

/-! PROOFS. An ABSORB is admitted, and runs besides the fenced requests that it lets go (R252, R267). -/

namespace Sys2Proof.Machine

open Sys2Proof

section Absorb

variable {s u : State} {port vc t : Nat} {h d : List Byte} {p : Pkt} (hon : s.pow.st = .on) (hu : atTime s t = u)
  (hparse : parsePkt h d = some p) (hty : p.ty = 6) (hdst : p.dst = u.node) (htrunc : p.trunc = false)
include hu hparse hty hdst htrunc

/-- An untruncated ABSORB for this node is admitted, and then the streams that it lists run the fenced requests that EXP has reached by it. -/
theorem arrive_absorb : arrive [6] port vc h d t s =
    fencedOf ((admitReq u (port / 8) { p with copy := none }).getD u) (chunk 24 p.data) := by
  subst hu
  have hknown : 6 ∈ knownTypes := by decide
  have hresponse : isResponse 6 = false := by decide
  simp [arrive, arriveWith, hparse, hty, hdst, htrunc, hknown, hresponse]

include hon

theorem exec_absorb_on : exec (.absorb port vc h d t) s =
    .next (finish (fencedOf ((admitReq u (port / 8) { p with copy := none }).getD u) (chunk 24 p.data))) :=
  completes (act_on hon _) (arrive_absorb hu hparse hty hdst htrunc)

/-- The statement has it admitted and no more. -/
theorem exec_absorb_of_packetsArrive (hstated : Obligations.PacketsArrive) : exec (.absorb port vc h d t) s =
    .next (finish ((admitReq u (port / 8) { p with copy := none }).getD u)) := by
  subst hu
  unfold Obligations.PacketsArrive at hstated
  obtain ⟨_, hvalid⟩ := hstated
  obtain ⟨_, _, _, _, _, habsorb, _⟩ := hvalid s port vc t h d none noErrs p hon hparse
  exact completes (habsorb hty) ((if_pos hdst).trans (if_neg (ne_true_of_eq_false htrunc)))

end Absorb

/-! A module on which a fenced WRITE_IMM of node 3, of PSN 11, waits for PSN 10, and an ABSORB of node 2 that lists PSN 10 of node 3 with ST_OK. -/

/-- The request that waits. -/
def fencedImm : Pkt :=
  { ty := 2, combine := false, poison := false, trunc := false, detoured := false, detours := 0, epLayer := false, fence := true, dst := 0, src := 3,
    epoch := 0, contrib := 1, status := 0, ep := 0, psn := 11, key := 0, addr := 0, data := leBytes 4 0 }

/-- The hidden flow from node 3 expects PSN 10. -/
def fencedWaits : State :=
  { State.reset with tr := { State.reset.tr with flows := [(3, { conn0 with exp := 10, fenced := [fencedImm] })] } }

/-- The ABSORB: its one entry names node 3, the hidden flow, PSN 10 and ST_OK. -/
def absorbPkt : Pkt :=
  { ty := 6, combine := false, poison := false, trunc := false, detoured := false, detours := 0, epLayer := false, fence := false, dst := 0, src := 2,
    epoch := 0, contrib := 1, status := 0, ep := 0, psn := 0, key := 0, addr := 0,
    data := leBytes 2 3 ++ leBytes 2 0 ++ leBytes 4 0 ++ leBytes 4 10 ++ leBytes 4 0 ++ leBytes 8 0 }

theorem parsePkt_absorbPkt : parsePkt (absorbPkt.bytes.take 32) absorbPkt.data = some absorbPkt := by decide

/-- The module once the ABSORB is admitted. -/
def absorbAdmitted : State := (admitReq fencedWaits (0 / 8) { absorbPkt with copy := none }).getD fencedWaits

/-- The PSNs of the fenced requests that wait on the hidden flow from a node. -/
def fencedPsns (s : State) (node : Nat) : List Nat := (Tab.get conn0 node s.tr.flows).fenced.map (·.psn)

theorem fencedPsns_finish (s : State) (node : Nat) : fencedPsns (finish s) node = fencedPsns s node := by
  simp only [fencedPsns, (quiet_finish s).tr]

/-- Admission moves EXP to 11 and leaves the request of PSN 11 waiting. -/
theorem fencedPsns_absorbAdmitted : fencedPsns absorbAdmitted 3 = [11] := by decide

/-- The streams that the ABSORB lists then run it. -/
theorem fencedPsns_fencedOf : fencedPsns (fencedOf absorbAdmitted (chunk 24 absorbPkt.data)) 3 = [] := by decide

/-- Refutes O29 in its clause for ABSORB: by the statement an ABSORB is admitted and no more, where the model then runs the fenced requests of the
streams that it lists, as R252 has them run once EXP reaches them. Here the request of PSN 11 runs; by the statement it would still wait. -/
theorem not_packetsArrive : ¬ Obligations.PacketsArrive := by
  intro hstated
  have hon : fencedWaits.pow.st = .on := rfl
  have hnow : atTime fencedWaits 0 = fencedWaits := if_neg (Nat.not_lt_zero _)
  have hhere : absorbPkt.dst = fencedWaits.node := by decide
  have hmodel := exec_absorb_on (port := 0) (vc := 0) hon hnow parsePkt_absorbPkt rfl hhere rfl
  have hadmits := exec_absorb_of_packetsArrive (port := 0) (vc := 0) hon hnow parsePkt_absorbPkt rfl hhere rfl hstated
  have hsame : finish (fencedOf absorbAdmitted (chunk 24 absorbPkt.data)) = finish absorbAdmitted :=
    Host.Outcome.next.inj (hmodel.symm.trans hadmits)
  have hpsns : fencedPsns (fencedOf absorbAdmitted (chunk 24 absorbPkt.data)) 3 = fencedPsns absorbAdmitted 3 := by
    rw [← fencedPsns_finish, hsame, fencedPsns_finish]
  rw [fencedPsns_fencedOf, fencedPsns_absorbAdmitted] at hpsns
  exact absurd hpsns (by decide)

end Sys2Proof.Machine

/-! PROOFS. What every step keeps: a command's answer, the alert tree, and the state after reset (R310, R326, R355). -/

namespace Sys2Proof.Machine

open Sys2Proof

/-! The answer of a command, of a step, and of the idle step. -/

/-- A command ends, or it is one that the module takes only while it is on. -/
theorem exec_eq_done_or_act (c : Instr) (s : State) : ∃ t, exec c s = done t ∨ exec c s = act s t := by
  cases c with
  | tlsConnect | claim | releaseClaim | firmwareInstall | commitSvn | clearRetirement | watchdogExpiry | operatorConfigurationChange
  | moduleReset | resetN | powerOff | perstN | perstNRelease | coldStart | pwrEnFall | inputFault | leakN | thermalTrip | thermTripRelease
  | smbusStateRead | smbusFruRead | smbusPowerRead | smbusWrite | fabricReferenceReturn => exact ⟨_, .inl rfl⟩
  | _ => exact ⟨_, .inr rfl⟩

/-- While the module is on, every command ends. -/
theorem exec_on {s : State} (hon : s.pow.st = .on) (c : Instr) : ∃ t, exec c s = .next (finish t) := by
  obtain ⟨t, h | h⟩ := exec_eq_done_or_act c s
  · exact ⟨t, h⟩
  · exact ⟨t, h.trans (act_on hon t)⟩

/-- A command leaves the state as it is, or ends. -/
theorem exec_stays_or_ends (c : Instr) (s : State) : exec c s = .next s ∨ ∃ t, exec c s = .next (finish t) := by
  by_cases hon : s.pow.st = .on
  · exact .inr (exec_on hon c)
  · obtain ⟨t, h | h⟩ := exec_eq_done_or_act c s
    · exact .inr ⟨t, h⟩
    · exact .inl (h.trans (act_off hon t))

theorem step_cons (c : Instr) (rest : List Instr) (s : State) : step { s with pending := c :: rest } = exec c { s with pending := rest } := rfl

theorem step_waiting {s : State} {c : Instr} {rest : List Instr} (h : s.pending = c :: rest) : step s = exec c { s with pending := rest } := by
  simp only [step, h]

/-- The idle step changes the memory alone. -/
theorem idleStep_only (s : State) : ∃ m, idleStep s = { s with mm := m } := by
  unfold idleStep
  split_ifs
  · exact scrubAll_only s
  · exact ⟨s.mm, rfl⟩

theorem runsOn (c : Instr) (s : State) : RunsOn c s := by
  rcases exec_stays_or_ends c s with h | ⟨t, h⟩ <;> exact ⟨_, h⟩

theorem stepsOn (s : State) : StepsOn s := by
  cases h : s.pending with
  | nil => exact ⟨_, step_idle h⟩
  | cons c rest =>
    obtain ⟨t, ht⟩ := runsOn c { s with pending := rest }
    exact ⟨t, (step_waiting h).trans ht⟩

/-! The alert tree reads the registers, the pin and the power state alone. -/

theorem AlertInv.congr {s t : State} (h : AlertInv s) (hregs : t.regs = s.regs) (hpins : t.pins = s.pins) (hpow : t.pow = s.pow) : AlertInv t where
  blocks := by simpa only [State.fld, alertBits, hregs] using h.blocks
  pin := by simpa only [State.fld, alertLow, hregs, hpins, hpow] using h.pin

theorem AlertInv.exec {s t : State} {c : Instr} (h : AlertInv s) (ht : exec c s = .next t) : AlertInv t := by
  rcases exec_stays_or_ends c s with hs | ⟨u, hu⟩
  · rwa [← Host.Outcome.next.inj (hs.symm.trans ht)]
  · rw [← Host.Outcome.next.inj (hu.symm.trans ht)]
    exact finish_alertInv u

theorem AlertInv.step {s t : State} (h : AlertInv s) (ht : step s = .next t) : AlertInv t := by
  cases hp : s.pending with
  | nil =>
    obtain ⟨m, hm⟩ := idleStep_only s
    rw [← Host.Outcome.next.inj ((step_idle hp).symm.trans ht), hm]
    exact h.congr rfl rfl rfl
  | cons c rest => exact AlertInv.exec (s := { s with pending := rest }) (h.congr rfl rfl rfl) ((step_waiting hp).symm.trans ht)

/-- After reset the register store is empty, and no leaf is at 1. -/
theorem reset_alertInv : AlertInv State.reset where
  blocks := by decide
  pin := by decide

/-- Settles O43: every command that ends brings up the tree, and what leaves the state as it is, or scrubs, leaves the tree. -/
theorem alertTreeKept : Obligations.AlertTreeKept := by
  unfold Obligations.AlertTreeKept
  refine ⟨fun s t h ht => h.step ht, fun c s t hon ht => ?_⟩
  obtain ⟨u, hu⟩ := exec_on hon c
  rw [← Host.Outcome.next.inj (hu.symm.trans ht)]
  exact finish_alertInv u

/-- Settles O44. -/
theorem endOfCommandFrame : Obligations.EndOfCommandFrame := quiet_finish

/-- Settles O40. -/
theorem resetInvariants : Obligations.ResetInvariants := ⟨reset_alertInv, reset_mem_wf.1, reset_mem_wf.2, rfl⟩

/-- Settles O41. -/
theorem everyCommandAnswers : Obligations.EveryCommandAnswers := ⟨exec_stays_or_ends, stepsOn, runsOn⟩

/-- Settles O38. -/
theorem stepRunsFront : Obligations.StepRunsFront := step_cons

end Sys2Proof.Machine

/-! PROOFS. A packet's bytes: the header's fields where Table 13-2 puts them, and the packet read back from them (R244). -/

namespace Sys2Proof.Machine

open Sys2Proof

/-- The fields of a packet's header (Table 13-2). -/
def pktFields (p : Pkt) : List (Nat × Nat) :=
  [(1, p.ty), (1, p.flags), (2, p.len), (2, p.dst), (2, p.src), (2, p.epoch), (1, p.contrib), (1, p.status), (4, p.ep), (3, p.psn), (1, 0),
    (4, p.key), (8, p.addr)]

theorem pktFields_length (p : Pkt) : (layout (pktFields p)).length = 32 := by
  simp [layout_length, pktFields]

theorem Pkt.bytes_eq_layout (p : Pkt) : p.bytes = layout (pktFields p) ++ p.data := by
  simp only [Pkt.bytes, layout, pktFields, List.flatMap_cons, List.flatMap_nil, List.append_nil, List.append_assoc]

/-- Field i of the header is read back from a packet's bytes. -/
theorem Pkt.fieldAt_bytes {p : Pkt} {o n v : Nat} (i : Nat) (hf : (placed 0 (pktFields p))[i]? = some (o, n, v)) (hv : v < 256 ^ n) :
    fieldAt p.bytes o n = v := by
  rw [p.bytes_eq_layout]
  exact fieldAt_layout i hf hv

/-- Each flag of a FLAGS byte. -/
theorem flagsByte_bits : ∀ (c p t d e f : Bool), ∀ n < 4,
    let w := bit c + 2 * bit p + 4 * bit t + 8 * bit d + 16 * n + 64 * bit e + 128 * bit f
    w < 256 ∧ bitAt w 0 = c ∧ bitAt w 1 = p ∧ bitAt w 2 = t ∧ bitAt w 3 = d ∧ bits w 5 4 = n ∧ bitAt w 6 = e ∧ bitAt w 7 = f := by
  decide

/-- The flags of a packet stand in its FLAGS byte. -/
theorem Pkt.flags_bits (p : Pkt) : p.flags < 256 ∧ bitAt p.flags 0 = p.combine ∧ bitAt p.flags 1 = p.poison ∧ bitAt p.flags 2 = p.trunc ∧
    bitAt p.flags 3 = p.detoured ∧ bits p.flags 5 4 = p.detours % 4 ∧ bitAt p.flags 6 = p.epLayer ∧ bitAt p.flags 7 = p.fence :=
  flagsByte_bits p.combine p.poison p.trunc p.detoured p.epLayer p.fence (p.detours % 4) (Nat.mod_lt _ (by decide))

/-- Settles O47: each field of the header is read back at its place, and the payload after them. -/
theorem packetBytesRoundTrip : Obligations.PacketBytesRoundTrip := by
  unfold Obligations.PacketBytesRoundTrip
  intro p hty hdet hdst hsrc hepoch hcontrib hstatus hep hpsn hkey haddr hlen
  obtain ⟨hflags, hcombine, hpoison, htrunc, hdetoured, hdetours, heplayer, hfence⟩ := p.flags_bits
  have rty : fieldAt p.bytes 0 1 = p.ty := Pkt.fieldAt_bytes 0 rfl hty
  have rflags : fieldAt p.bytes 1 1 = p.flags := Pkt.fieldAt_bytes 1 rfl hflags
  have rlen : fieldAt p.bytes 2 2 = 32 + p.data.length := Pkt.fieldAt_bytes 2 rfl (show 32 + p.data.length < 2 ^ 16 by omega)
  have rdst : fieldAt p.bytes 4 2 = p.dst := Pkt.fieldAt_bytes 3 rfl hdst
  have rsrc : fieldAt p.bytes 6 2 = p.src := Pkt.fieldAt_bytes 4 rfl hsrc
  have repoch : fieldAt p.bytes 8 2 = p.epoch := Pkt.fieldAt_bytes 5 rfl hepoch
  have rcontrib : fieldAt p.bytes 10 1 = p.contrib := Pkt.fieldAt_bytes 6 rfl hcontrib
  have rstatus : fieldAt p.bytes 11 1 = p.status := Pkt.fieldAt_bytes 7 rfl hstatus
  have rep : fieldAt p.bytes 12 4 = p.ep := Pkt.fieldAt_bytes 8 rfl hep
  have rpsn : fieldAt p.bytes 16 3 = p.psn := Pkt.fieldAt_bytes 9 rfl hpsn
  have rzero : fieldAt p.bytes 19 1 = 0 := Pkt.fieldAt_bytes 10 rfl (by decide)
  have rkey : fieldAt p.bytes 20 4 = p.key := Pkt.fieldAt_bytes 11 rfl hkey
  have raddr : fieldAt p.bytes 24 8 = p.addr := Pkt.fieldAt_bytes 12 rfl haddr
  refine ⟨?parsed, ?length, rty, rlen, rdst, rsrc, repoch, rcontrib, rstatus, rep, rpsn, rzero, rkey, raddr⟩
  case parsed =>
    have hdata : p.bytes.drop 32 = p.data := by rw [p.bytes_eq_layout, List.drop_left' (pktFields_length p)]
    simp only [pktOf, rty, rflags, rdst, rsrc, repoch, rcontrib, rstatus, rep, rpsn, rkey, raddr, hdata, hcombine, hpoison, htrunc, hdetoured,
      hdetours, heplayer, hfence, Nat.mod_eq_of_lt hdet]
  case length => rw [p.bytes_eq_layout, List.length_append, pktFields_length]

end Sys2Proof.Machine

/-! PROOFS. The field of the coded group: its product is associative, and gf_inv inverts (R320). -/

namespace Sys2Proof.Machine

open Sys2Proof

/-! Numbers under XOR: a map that distributes over it is known below 2^n by its values at the n bits. -/

/-- A map of the numbers below 2^n that distributes over XOR. -/
def Additive (n : Nat) (f : Nat → Nat) : Prop := ∀ a < 2 ^ n, ∀ b < 2 ^ n, f (a ^^^ b) = f a ^^^ f b

theorem Additive.zero {n : Nat} {f : Nat → Nat} (h : Additive n f) : f 0 = 0 := by
  have h0 := h 0 (by positivity) 0 (by positivity)
  rwa [Nat.xor_self, Nat.xor_self] at h0

theorem Additive.comp {n : Nat} {f g : Nat → Nat} (hf : Additive n f) (hg : Additive n g) (hlt : ∀ a < 2 ^ n, g a < 2 ^ n) :
    Additive n (fun a => f (g a)) := by
  intro a ha b hb
  simp only [hg a ha b hb, hf _ (hlt a ha) _ (hlt b hb)]

/-- Clearing its top bit makes a number smaller than that bit. -/
theorem xor_two_pow_lt {m x : Nat} (hlo : 2 ^ m ≤ x) (hhi : x < 2 ^ (m + 1)) : x ^^^ 2 ^ m < 2 ^ m := by
  refine Nat.lt_pow_two_of_testBit _ fun i hi => ?_
  rw [Nat.testBit_xor, Nat.testBit_two_pow]
  rcases Nat.eq_or_lt_of_le hi with rfl | hlt
  · have htop : x.testBit m = true := by
      rw [Nat.testBit_eq_decide_div_mod_eq, Nat.div_eq_of_lt_le (k := 1) (by omega) (by rw [pow_succ] at hhi; omega)]
      decide
    simp [htop]
  · have hzero : x.testBit i = false := Nat.testBit_lt_two_pow (lt_of_lt_of_le hhi (Nat.pow_le_pow_right (by decide) hlt))
    simp [hzero, hlt.ne]

theorem Additive.ext {n : Nat} {f g : Nat → Nat} (hf : Additive n f) (hg : Additive n g) (hbits : ∀ k < n, f (2 ^ k) = g (2 ^ k)) :
    ∀ x < 2 ^ n, f x = g x := by
  have hbelow : ∀ m ≤ n, ∀ x < 2 ^ m, f x = g x := by
    intro m
    induction m with
    | zero =>
      intro _ x hx
      rw [Nat.lt_one_iff.mp hx, hf.zero, hg.zero]
    | succ m ih =>
      intro hm x hx
      have hlow := ih (by omega)
      rcases Nat.lt_or_ge x (2 ^ m) with hlt | hge
      · exact hlow x hlt
      · have hrest := xor_two_pow_lt hge hx
        have htop : 2 ^ m < 2 ^ n := Nat.pow_lt_pow_right (by decide) hm
        have hsplit : x = 2 ^ m ^^^ (x ^^^ 2 ^ m) := by rw [Nat.xor_comm x, ← Nat.xor_assoc, Nat.xor_self, Nat.zero_xor]
        rw [hsplit, hf _ htop _ (hrest.trans htop), hg _ htop _ (hrest.trans htop), hbits m hm, hlow _ hrest]
  exact hbelow n le_rfl

/-! The product distributes over its first factor too. -/

/-- A number of the field times 2. -/
def gfTwice (a : Nat) : Nat := if 256 ≤ 2 * a then 2 * a ^^^ 0x11D else 2 * a

theorem gfMulGo_succ (k a b : Nat) : gfMulGo (k + 1) a b = (if b % 2 = 1 then a else 0) ^^^ gfMulGo k (gfTwice a) (b / 2) := rfl

theorem gfTwice_eq_gfMul (a : Nat) : gfTwice a = gfMul a 2 := by simp [gfMul, gfMulGo, gfTwice]

theorem gfTwice_lt {a : Nat} (h : a < 256) : gfTwice a < 256 := gfTwice_eq_gfMul a ▸ gfMul_lt 2 h

theorem gfTwice_eq {a : Nat} (h : a < 256) : gfTwice a = 2 * a ^^^ (if a.testBit 7 then 0x11D else 0) := by
  have hbit : a.testBit 7 = decide (256 ≤ 2 * a) := by
    rw [Nat.testBit_eq_decide_div_mod_eq, decide_eq_decide]
    omega
  simp only [gfTwice, hbit, decide_eq_true_eq]
  split_ifs
  · rfl
  · rw [Nat.xor_zero]

theorem two_mul_xor (a b : Nat) : 2 * (a ^^^ b) = 2 * a ^^^ 2 * b := by
  have h := Nat.shiftLeft_xor_distrib (a := a) (b := b) (i := 1)
  simpa only [Nat.shiftLeft_eq, pow_one, Nat.mul_comm _ 2] using h

theorem gfTwice_additive : Additive 8 gfTwice := by
  intro a ha b hb
  have hbit : (if (a ^^^ b).testBit 7 then 0x11D else 0) = (if a.testBit 7 then 0x11D else 0) ^^^ (if b.testBit 7 then 0x11D else 0) := by
    rw [Nat.testBit_xor]
    cases a.testBit 7 <;> cases b.testBit 7 <;> rfl
  rw [gfTwice_eq ha, gfTwice_eq hb, gfTwice_eq (Nat.xor_lt_two_pow ha hb), hbit, two_mul_xor]
  ac_rfl

theorem gfMulGo_additive_left (k : Nat) : ∀ c, Additive 8 (fun a => gfMulGo k a c) := by
  induction k with
  | zero => exact fun c a _ b _ => (Nat.xor_self 0).symm
  | succ k ih =>
    intro c a ha b hb
    have hrest := (ih (c / 2)).comp gfTwice_additive (fun _ => gfTwice_lt) a ha b hb
    simp only [gfMulGo_succ] at hrest ⊢
    rw [hrest]
    split_ifs
    · ac_rfl
    · simp only [Nat.zero_xor]

theorem gfMul_additive_left (c : Nat) : Additive 8 (fun a => gfMul a c) := gfMulGo_additive_left 8 c

theorem gfMul_xor_left {a b : Nat} (ha : a < 256) (hb : b < 256) (c : Nat) : gfMul (a ^^^ b) c = gfMul a c ^^^ gfMul b c :=
  gfMul_additive_left c a ha b hb

theorem gfMul_additive_right (c : Nat) : Additive 8 (gfMul c) := fun a _ b _ => gfMul_xor c a b

/-! Both distribute, so a law of the product holds where it holds for the bits. -/

theorem one_gfMul {a : Nat} (h : a < 256) : gfMul 1 a = a :=
  (gfMul_additive_right 1).ext (g := id) (fun _ _ _ _ => rfl) (by decide) a h

theorem gfMul_one {a : Nat} (h : a < 256) : gfMul a 1 = a :=
  (gfMul_additive_left 1).ext (g := id) (fun _ _ _ _ => rfl) (by decide) a h

theorem gfMul_assoc_bits : ∀ i < 8, ∀ j < 8, ∀ k < 8, gfMul (gfMul (2 ^ i) (2 ^ j)) (2 ^ k) = gfMul (2 ^ i) (gfMul (2 ^ j) (2 ^ k)) := by
  decide +kernel

theorem gfMul_assoc {a b c : Nat} (ha : a < 256) (hb : b < 256) (hc : c < 256) : gfMul (gfMul a b) c = gfMul a (gfMul b c) := by
  have hleft : ∀ x y, ∀ u < 2 ^ 8, gfMul (gfMul u x) y < 2 ^ 8 := fun x y u hu => gfMul_lt _ (gfMul_lt _ hu)
  have inFirst : ∀ j < 8, ∀ k < 8, ∀ x < 2 ^ 8, gfMul (gfMul x (2 ^ j)) (2 ^ k) = gfMul x (gfMul (2 ^ j) (2 ^ k)) := fun j hj k hk =>
    ((gfMul_additive_left _).comp (gfMul_additive_left _) (fun _ => gfMul_lt _)).ext (gfMul_additive_left _)
      fun i hi => gfMul_assoc_bits i hi j hj k hk
  have inSecond : ∀ k < 8, ∀ y < 2 ^ 8, gfMul (gfMul a y) (2 ^ k) = gfMul a (gfMul y (2 ^ k)) := fun k hk =>
    ((gfMul_additive_left _).comp (gfMul_additive_right _) (fun _ _ => gfMul_lt _ ha)).ext
      ((gfMul_additive_right _).comp (gfMul_additive_left _) (fun _ => gfMul_lt _)) fun j hj => inFirst j hj k hk a ha
  exact (gfMul_additive_right (gfMul a b)).ext ((gfMul_additive_right a).comp (gfMul_additive_right b) (fun _ _ => gfMul_lt _ hb))
    (fun k hk => inSecond k hk b hb) c hc

/-! Powers. -/

theorem gfPow_lt (a n : Nat) : gfPow a n < 256 := by
  induction n with
  | zero => exact (by decide : 1 < 256)
  | succ n ih => exact gfMul_lt _ ih

theorem gfPow_add {a : Nat} (h : a < 256) (m n : Nat) : gfPow a (m + n) = gfMul (gfPow a m) (gfPow a n) := by
  induction n with
  | zero => exact (gfMul_one (gfPow_lt a m)).symm
  | succ n ih =>
    change gfMul (gfPow a (m + n)) a = gfMul (gfPow a m) (gfMul (gfPow a n) a)
    rw [ih, gfMul_assoc (gfPow_lt a m) (gfPow_lt a n) h]

/-- A byte to the power 2^(n+1) - 1, by squaring and multiplying. -/
def gfOnes (a : Nat) : Nat → Nat
  | 0 => a
  | n + 1 => gfMul (gfMul (gfOnes a n) (gfOnes a n)) a

theorem gfOnes_eq_gfPow {a : Nat} (h : a < 256) (n : Nat) : gfOnes a n = gfPow a (2 ^ (n + 1) - 1) := by
  induction n with
  | zero => exact (one_gfMul h).symm
  | succ n ih =>
    have hsum : 2 ^ (n + 1 + 1) - 1 = (2 ^ (n + 1) - 1 + (2 ^ (n + 1) - 1)) + 1 := by
      have hpos : 0 < 2 ^ (n + 1) := by positivity
      rw [pow_succ]
      omega
    rw [hsum, gfOnes, gfPow, gfPow_add h, ih]

/-- gf_inv's 254 is twice 127. -/
theorem gfInv_eq_gfOnes {a : Nat} (h : a < 256) : gfInv a = gfMul (gfOnes a 6) (gfOnes a 6) := by
  rw [gfOnes_eq_gfPow h]
  exact gfPow_add h 127 127

theorem gfOnes_inverts : ∀ a < 256, a ≠ 0 → gfMul (gfMul (gfOnes a 6) (gfOnes a 6)) a = 1 := by
  decide +kernel

theorem gfInv_lt (a : Nat) : gfInv a < 256 := gfPow_lt a 254

theorem gfInv_gfMul {a : Nat} (h : a < 256) (hne : a ≠ 0) : gfMul (gfInv a) a = 1 := by
  rw [gfInv_eq_gfOnes h]
  exact gfOnes_inverts a h hne

/-- A byte times a constant, then times its inverse. -/
theorem gfByte_gfInv {c : Nat} (h : c < 256) (hne : c ≠ 0) (b : Byte) : gfByte (gfInv c) (gfByte c b) = b := by
  have hb : (gfByte c b).toNat = gfMul c b.toNat := Nat.mod_eq_of_lt (gfMul_lt _ h)
  rw [gfByte, hb, ← gfMul_assoc (gfInv_lt c) h b.isLt, gfInv_gfMul h hne, one_gfMul b.isLt, BitVec.ofNat_toNat, BitVec.setWidth_eq]

theorem gfByte_xor_left {c d : Nat} (hc : c < 256) (hd : d < 256) (b : Byte) : gfByte (c ^^^ d) b = gfByte c b ^^^ gfByte d b := by
  unfold gfByte
  rw [gfMul_xor_left hc hd]
  exact BitVec.eq_of_toNat_eq (by simp)

/-! The data members' coefficients are bytes, none 0, and no two the same. -/

theorem gfPow_two_lt (i : Nat) : gfPow 2 i < 256 := gfPow_lt 2 i

theorem gfPow_two_ne_zero : ∀ i < 8, gfPow 2 i ≠ 0 := by decide

theorem gfPow_two_sum_ne_zero : ∀ i < 8, ∀ j < 8, i ≠ j → gfPow 2 i ^^^ gfPow 2 j ≠ 0 := by decide

end Sys2Proof.Machine

/-! PROOFS. The coded group: parity as a sum of rows, and what the other members give of the lost ones (R320, R322). -/

namespace Sys2Proof.Machine

open Sys2Proof

/-! Rows of one length under XOR. -/

@[simp] theorem rowXor_length (a b : List Byte) : (rowXor a b).length = min a.length b.length := List.length_zipWith

@[simp] theorem rowMul_length (c : Nat) (a : List Byte) : (rowMul c a).length = a.length := List.length_map _

theorem rowXor_comm (a b : List Byte) : rowXor a b = rowXor b a := List.zipWith_comm_of_comm (fun x y => BitVec.xor_comm x y)

theorem rowXor_assoc (a b c : List Byte) : rowXor (rowXor a b) c = rowXor a (rowXor b c) := by
  unfold rowXor
  induction a generalizing b c with
  | nil => rfl
  | cons x a ih =>
    cases b with
    | nil => rfl
    | cons y b =>
      cases c with
      | nil => rfl
      | cons z c => simp only [List.zipWith_cons_cons, ih, BitVec.xor_assoc]

theorem rowXor_right_comm (a b c : List Byte) : rowXor (rowXor a b) c = rowXor (rowXor a c) b := by
  rw [rowXor_assoc, rowXor_comm b c, ← rowXor_assoc]

/-- The row of n zeros adds nothing. -/
theorem zero_rowXor {a : List Byte} {n : Nat} (h : a.length = n) : rowXor (List.replicate n 0#8) a = a := by
  subst h
  unfold rowXor
  induction a with
  | nil => rfl
  | cons x a ih => simp only [List.length_cons, List.replicate_succ, List.zipWith_cons_cons, ih, BitVec.zero_xor]

/-- A row added twice goes. -/
theorem rowXor_cancel {a b : List Byte} (h : a.length = b.length) : rowXor (rowXor a b) b = a := by
  unfold rowXor
  induction a generalizing b with
  | nil => rfl
  | cons x a ih =>
    cases b with
    | nil => simp at h
    | cons y b =>
      simp only [List.length_cons, Nat.add_right_cancel_iff] at h
      simp only [List.zipWith_cons_cons, ih h, BitVec.xor_assoc, BitVec.xor_self, BitVec.xor_zero]

theorem rowMul_rowXor (c : Nat) (a b : List Byte) : rowMul c (rowXor a b) = rowXor (rowMul c a) (rowMul c b) := by
  unfold rowMul rowXor
  rw [List.map_zipWith, List.zipWith_map]
  simp only [gfByte_xor]

theorem rowMul_xor {c d : Nat} (hc : c < 256) (hd : d < 256) (a : List Byte) : rowMul (c ^^^ d) a = rowXor (rowMul c a) (rowMul d a) := by
  unfold rowMul rowXor
  rw [List.zipWith_map, List.zipWith_self]
  exact List.map_congr_left fun b _ => gfByte_xor_left hc hd b

theorem rowMul_gfInv {c : Nat} (h : c < 256) (hne : c ≠ 0) (a : List Byte) : rowMul (gfInv c) (rowMul c a) = a := by
  unfold rowMul
  rw [List.map_map]
  exact (List.map_congr_left fun b _ => gfByte_gfInv h hne b).trans (List.map_id a)

theorem zipWith_rowMul (c : Nat) (a b : List Byte) : List.zipWith (fun y x => y ^^^ gfByte c x) a b = rowXor a (rowMul c b) :=
  (List.zipWith_map_right ..).symm

/-! Sums of rows. -/

/-- The rows of a list added to a row. -/
def rowSum (a : List Byte) (rs : List (List Byte)) : List Byte := rs.foldl rowXor a

theorem rowSum_cons (a r : List Byte) (rs : List (List Byte)) : rowSum a (r :: rs) = rowSum (rowXor a r) rs := rfl

theorem rowSum_append (a : List Byte) (rs rs' : List (List Byte)) : rowSum a (rs ++ rs') = rowSum (rowSum a rs) rs' := List.foldl_append

theorem rowSum_perm {rs rs' : List (List Byte)} (h : rs.Perm rs') (a : List Byte) : rowSum a rs = rowSum a rs' :=
  h.foldl_eq' (fun x _ y _ z => rowXor_right_comm z x y) a

theorem rowSum_rowXor (a r : List Byte) (rs : List (List Byte)) : rowSum (rowXor a r) rs = rowXor (rowSum a rs) r := by
  induction rs generalizing a with
  | nil => rfl
  | cons x rs ih => rw [rowSum_cons, rowSum_cons, rowXor_right_comm, ih]

theorem rowSum_length {a : List Byte} {rs : List (List Byte)} (h : ∀ r ∈ rs, r.length = a.length) : (rowSum a rs).length = a.length := by
  induction rs generalizing a with
  | nil => rfl
  | cons r rs ih =>
    obtain ⟨hr, hrs⟩ := List.forall_mem_cons.mp h
    have hlen : (rowXor a r).length = a.length := by rw [rowXor_length, hr, Nat.min_self]
    rw [rowSum_cons, ih (fun x hx => (hrs x hx).trans hlen.symm), hlen]

/-- Rows added twice go. -/
theorem rowSum_cancel {a : List Byte} {rs : List (List Byte)} (h : ∀ r ∈ rs, r.length = a.length) : rowSum (rowSum a rs) rs = a := by
  induction rs with
  | nil => rfl
  | cons r rs ih =>
    obtain ⟨hr, hrs⟩ := List.forall_mem_cons.mp h
    rw [rowSum_cons, rowSum_cons, rowSum_rowXor a, rowXor_cancel ((rowSum_length hrs).trans hr.symm), ih hrs]

/-! The members of a group. -/

/-- The rows of members, as P0 adds them. -/
def plainRows (l : List (Nat × List Byte)) : List (List Byte) := l.map (·.2)

/-- The rows of members, as P1 adds them. -/
def scaledRows (l : List (Nat × List Byte)) : List (List Byte) := l.map (fun q => rowMul (gfPow 2 q.1) q.2)

/-- Members of a coded group whose rows have n bytes. -/
def Members (n : Nat) (l : List (Nat × List Byte)) : Prop := ∀ q ∈ l, q.1 < 8 ∧ q.2.length = n

/-- The parity rows that parity_update gives from zero rows. -/
def groupParity (n : Nat) (l : List (Nat × List Byte)) : List Byte × List Byte :=
  l.foldl (fun p q => parityUpdate p.1 p.2 q.1 q.2) (List.replicate n 0#8, List.replicate n 0#8)

theorem foldl_parityUpdate (l : List (Nat × List Byte)) : ∀ a b : List Byte,
    l.foldl (fun p q => parityUpdate p.1 p.2 q.1 q.2) (a, b) = (rowSum a (plainRows l), rowSum b (scaledRows l)) := by
  induction l with
  | nil => exact fun _ _ => rfl
  | cons q l ih => exact fun a b => ih _ _

theorem groupParity_eq (n : Nat) (l : List (Nat × List Byte)) :
    groupParity n l = (rowSum (List.replicate n 0#8) (plainRows l), rowSum (List.replicate n 0#8) (scaledRows l)) := foldl_parityUpdate l _ _

theorem groupParity_perm {n : Nat} {l l' : List (Nat × List Byte)} (h : l.Perm l') : groupParity n l = groupParity n l' := by
  rw [groupParity_eq, groupParity_eq, plainRows, plainRows, scaledRows, scaledRows, rowSum_perm (h.map _), rowSum_perm (h.map _)]

theorem Members.plain_length {n : Nat} {l : List (Nat × List Byte)} (h : Members n l) : ∀ r ∈ plainRows l, r.length = n := by
  intro r hr
  obtain ⟨q, hq, rfl⟩ := List.mem_map.mp hr
  exact (h q hq).2

theorem Members.scaled_length {n : Nat} {l : List (Nat × List Byte)} (h : Members n l) : ∀ r ∈ scaledRows l, r.length = n := by
  intro r hr
  obtain ⟨q, hq, rfl⟩ := List.mem_map.mp hr
  exact (rowMul_length _ _).trans (h q hq).2

theorem Members.append {n : Nat} {l l' : List (Nat × List Byte)} : Members n (l ++ l') ↔ Members n l ∧ Members n l' := List.forall_mem_append

theorem groupParity_length {n : Nat} {l : List (Nat × List Byte)} (h : Members n l) :
    (groupParity n l).1.length = n ∧ (groupParity n l).2.length = n := by
  have hzero : (List.replicate n 0#8).length = n := List.length_replicate
  rw [groupParity_eq]
  exact ⟨(rowSum_length fun r hr => (h.plain_length r hr).trans hzero.symm).trans hzero,
    (rowSum_length fun r hr => (h.scaled_length r hr).trans hzero.symm).trans hzero⟩

/-- Taking the survivors' rows from the parity of a group leaves the parity of the lost members. -/
theorem groupParity_less {n : Nat} {lost l : List (Nat × List Byte)} (hlost : Members n lost) (hl : Members n l) :
    rowSum (groupParity n (lost ++ l)).1 (plainRows l) = (groupParity n lost).1 ∧
    rowSum (groupParity n (lost ++ l)).2 (scaledRows l) = (groupParity n lost).2 := by
  obtain ⟨hplain, hscaled⟩ := groupParity_length hlost
  rw [groupParity_eq] at hplain hscaled
  rw [groupParity_eq, groupParity_eq, plainRows, scaledRows, List.map_append, List.map_append, rowSum_append, rowSum_append]
  exact ⟨rowSum_cancel fun r hr => (hl.plain_length r hr).trans hplain.symm,
    rowSum_cancel fun r hr => (hl.scaled_length r hr).trans hscaled.symm⟩

theorem groupParity_one {n : Nat} {i : Nat} {d : List Byte} (hd : d.length = n) : groupParity n [(i, d)] = (d, rowMul (gfPow 2 i) d) := by
  have hscaled : (rowMul (gfPow 2 i) d).length = n := (rowMul_length _ _).trans hd
  rw [groupParity_eq]
  exact Prod.ext (zero_rowXor hd) (zero_rowXor hscaled)

theorem groupParity_two {n : Nat} {i j : Nat} {d e : List Byte} (hd : d.length = n) : groupParity n [(i, d), (j, e)] =
    (rowXor d e, rowXor (rowMul (gfPow 2 i) d) (rowMul (gfPow 2 j) e)) := by
  change parityUpdate (groupParity n [(i, d)]).1 (groupParity n [(i, d)]).2 j e = _
  rw [groupParity_one hd]
  rfl

theorem groupParity_cons (n i : Nat) (d : List Byte) (l : List (Nat × List Byte)) :
    groupParity n ((i, d) :: l) = parityUpdate (groupParity n l).1 (groupParity n l).2 i d := by
  rw [groupParity_perm (List.perm_append_singleton (i, d) l).symm, groupParity, List.foldl_append]
  rfl

/-- parity_update with the XOR of a member's old and new rows gives the parity of the changed group. -/
theorem parityUpdate_change {n i : Nat} {d d' : List Byte} {l : List (Nat × List Byte)} (h : Members n ((i, d) :: l)) :
    parityUpdate (groupParity n ((i, d) :: l)).1 (groupParity n ((i, d) :: l)).2 i (rowXor d d') = groupParity n ((i, d') :: l) := by
  obtain ⟨hlen0, hlen1⟩ := groupParity_length (n := n) (l := l) fun q hq => h q (List.mem_cons_of_mem _ hq)
  have hd : d.length = n := (h (i, d) List.mem_cons_self).2
  have hscaled : (rowMul (gfPow 2 i) d).length = n := (rowMul_length _ _).trans hd
  rw [groupParity_cons, groupParity_cons]
  simp only [parityUpdate, rowMul_rowXor]
  rw [← rowXor_assoc, rowXor_cancel (hlen0.trans hd.symm), ← rowXor_assoc, rowXor_cancel (hlen1.trans hscaled.symm)]

/-! What R320's functions give back, from the parity of a group of lost members and survivors. -/

theorem foldl_plain (a : List Byte) (l : List (Nat × List Byte)) : l.foldl (fun a d => rowXor a d.2) a = rowSum a (plainRows l) :=
  List.foldl_map.symm

theorem foldl_scaled (a : List Byte) (l : List (Nat × List Byte)) :
    l.foldl (fun a d => rowXor a (rowMul (gfPow 2 d.1) d.2)) a = rowSum a (scaledRows l) := List.foldl_map.symm

theorem rebuildOne_parity {n i : Nat} {d : List Byte} {l : List (Nat × List Byte)} (h : Members n ((i, d) :: l)) :
    rebuildOne (groupParity n ((i, d) :: l)).1 (plainRows l) = d := by
  obtain ⟨hone, hl⟩ := Members.append (l := [(i, d)]).mp h
  have hd : d.length = n := (h (i, d) List.mem_cons_self).2
  exact (groupParity_less hone hl).1.trans (by rw [groupParity_one hd])

theorem rebuildP1_parity {n i : Nat} {d : List Byte} {l : List (Nat × List Byte)} (h : Members n ((i, d) :: l)) :
    rebuildP1 (groupParity n ((i, d) :: l)).2 l i = d := by
  obtain ⟨hone, hl⟩ := Members.append (l := [(i, d)]).mp h
  obtain ⟨hi, hd⟩ := h (i, d) List.mem_cons_self
  have hless : rowSum (groupParity n ((i, d) :: l)).2 (scaledRows l) = rowMul (gfPow 2 i) d :=
    (groupParity_less hone hl).2.trans (by rw [groupParity_one hd])
  rw [rebuildP1, foldl_scaled, hless, rowMul_gfInv (gfPow_two_lt i) (gfPow_two_ne_zero i hi)]

theorem rebuildTwo_parity {n i j : Nat} {d e : List Byte} {l : List (Nat × List Byte)} (h : Members n ((i, d) :: (j, e) :: l)) (hne : i ≠ j) :
    rebuildTwo (groupParity n ((i, d) :: (j, e) :: l)).1 (groupParity n ((i, d) :: (j, e) :: l)).2 l i j = (d, e) := by
  obtain ⟨htwo, hl⟩ := Members.append (l := [(i, d), (j, e)]).mp h
  obtain ⟨hi, hd⟩ := h (i, d) List.mem_cons_self
  obtain ⟨hj, he⟩ := h (j, e) (List.mem_cons_of_mem _ List.mem_cons_self)
  obtain ⟨hless0, hless1⟩ := groupParity_less htwo hl
  rw [groupParity_two hd] at hless0 hless1
  have hcoef : Nat.xor (gfPow 2 i) (gfPow 2 j) = gfPow 2 i ^^^ gfPow 2 j := rfl
  have hmix : List.zipWith (fun y x => y ^^^ gfByte (gfPow 2 j) x) (rowXor (rowMul (gfPow 2 i) d) (rowMul (gfPow 2 j) e)) (rowXor d e) =
      rowMul (gfPow 2 i ^^^ gfPow 2 j) d := by
    have hlen : (rowXor (rowMul (gfPow 2 i) d) (rowMul (gfPow 2 j) d)).length = (rowMul (gfPow 2 j) e).length := by simp [hd, he]
    rw [zipWith_rowMul, rowMul_rowXor, ← rowXor_assoc, rowXor_right_comm _ _ (rowMul (gfPow 2 j) d), rowXor_cancel hlen,
      rowMul_xor (gfPow_two_lt i) (gfPow_two_lt j)]
  have hlt : gfPow 2 i ^^^ gfPow 2 j < 256 := Nat.xor_lt_two_pow (n := 8) (gfPow_two_lt i) (gfPow_two_lt j)
  have hrow : rowMul (gfInv (gfPow 2 i ^^^ gfPow 2 j)) (rowMul (gfPow 2 i ^^^ gfPow 2 j) d) = d :=
    rowMul_gfInv hlt (gfPow_two_sum_ne_zero i hi j hj hne) d
  have hrest : rowXor (rowXor d e) d = e := by rw [rowXor_comm d e, rowXor_cancel (he.trans hd.symm)]
  simp only [rebuildTwo, foldl_plain, foldl_scaled, hcoef]
  rw [show ((i, d) :: (j, e) :: l) = [(i, d), (j, e)] ++ l from rfl, hless0, hless1, hmix, hrow, hrest]

/-! The row that REBUILD recovers from what the members sent (R322). -/

/-- The row that member i sent. -/
def sentRow (got : List (Nat × List Byte)) (i : Nat) : List Byte := ((got.find? (fun g => g.1 == i)).map (·.2)).getD []

/-- What the data members sent. -/
def sentData (got : List (Nat × List Byte)) : List (Nat × List Byte) := got.filter (fun g => g.1 < 8)

theorem recoverRow_one {i : Nat} (hi : i < 8) (got : List (Nat × List Byte)) :
    recoverRow [i] got = rebuildOne (sentRow got 8) (plainRows (sentData got)) := by
  have hne : 8 ≠ i := by omega
  simp [recoverRow, hi, hne, sentRow, sentData, plainRows]

theorem recoverRow_one_p0 {i : Nat} (hi : i < 8) (got : List (Nat × List Byte)) :
    recoverRow [i, 8] got = rebuildP1 (sentRow got 9) (sentData got) i := by
  simp [recoverRow, hi, sentRow, sentData]

theorem recoverRow_two {i j : Nat} (hi : i < 8) (hj : j < 8) (got : List (Nat × List Byte)) :
    recoverRow [i, j] got = (rebuildTwo (sentRow got 8) (sentRow got 9) (sentData got) i j).1 := by
  simp [recoverRow, hi, hj, sentRow, sentData]

/-- A member's row is found where it sent one alone. -/
theorem sentRow_eq {got : List (Nat × List Byte)} {i : Nat} {r : List Byte} (hmem : (i, r) ∈ got) (honly : ∀ q ∈ got, q.1 = i → q.2 = r) :
    sentRow got i = r := by
  cases hfind : got.find? (fun g => g.1 == i) with
  | none => exact absurd (List.find?_eq_none.mp hfind _ hmem) (by simp)
  | some q =>
    have hq : q.1 = i := by simpa using List.find?_some hfind
    simp only [sentRow, hfind, Option.map_some, Option.getD_some]
    exact honly q (List.mem_of_find?_eq_some hfind) hq

section Sent

variable {n : Nat} {l got : List (Nat × List Byte)} (hl : Members n l)
include hl

theorem sentData_members : sentData l = l := List.filter_eq_self.mpr fun q hq => decide_eq_true (hl q hq).1

/-- Beside the data members' rows, P1 sent its own. -/
theorem sent_one_parity {b : List Byte} (hgot : got.Perm ((9, b) :: l)) : sentRow got 9 = b ∧ (sentData got).Perm l := by
  refine ⟨sentRow_eq (hgot.mem_iff.mpr List.mem_cons_self) fun q hq h9 => ?_, ?_⟩
  · rcases List.mem_cons.mp (hgot.mem_iff.mp hq) with rfl | hmem
    · rfl
    · have := (hl q hmem).1
      omega
  · have hfilter := hgot.filter (fun g : Nat × List Byte => decide (g.1 < 8))
    rwa [List.filter_cons_of_neg (by simp), ← sentData, ← sentData, sentData_members hl] at hfilter

/-- Beside the data members' rows, both parity members sent theirs. -/
theorem sent_both_parities {a b : List Byte} (hgot : got.Perm ((8, a) :: (9, b) :: l)) :
    sentRow got 8 = a ∧ sentRow got 9 = b ∧ (sentData got).Perm l := by
  have hcases : ∀ q ∈ got, q = (8, a) ∨ q = (9, b) ∨ q.1 < 8 := fun q hq => by
    rcases List.mem_cons.mp (hgot.mem_iff.mp hq) with h | hmem
    · exact .inl h
    · exact .inr ((List.mem_cons.mp hmem).imp_right fun hin => (hl q hin).1)
  refine ⟨sentRow_eq (hgot.mem_iff.mpr List.mem_cons_self) fun q hq h8 => ?_,
    sentRow_eq (hgot.mem_iff.mpr (List.mem_cons_of_mem _ List.mem_cons_self)) fun q hq h9 => ?_, ?_⟩
  · rcases hcases q hq with rfl | rfl | hlt
    · rfl
    · exact absurd h8 (by simp)
    · omega
  · rcases hcases q hq with rfl | rfl | hlt
    · exact absurd h9 (by simp)
    · rfl
    · omega
  · have hfilter := hgot.filter (fun g : Nat × List Byte => decide (g.1 < 8))
    rwa [List.filter_cons_of_neg (by simp), List.filter_cons_of_neg (by simp), ← sentData, ← sentData, sentData_members hl] at hfilter

end Sent

theorem Members.perm {n : Nat} {l l' : List (Nat × List Byte)} (h : Members n l) (hp : l.Perm l') : Members n l' :=
  fun q hq => h q (hp.mem_iff.mpr hq)

/-- Settles O37: parity is a sum of rows, so the survivors' rows taken from it leave the parity of the lost members, which their coefficients
give back. -/
theorem rebuildRecovers : Obligations.RebuildRecovers := by
  unfold Obligations.RebuildRecovers
  intro n ms hms parity p0 p1
  have hparity : ∀ {l}, ms.Perm l → p0 = (groupParity n l).1 ∧ p1 = (groupParity n l).2 := fun hp => by
    have h := groupParity_perm (n := n) hp
    exact ⟨congrArg Prod.fst h, congrArg Prod.snd h⟩
  refine ⟨fun ms' hp => groupParity_perm hp, ?update, ?one, ?two⟩
  case update =>
    intro i d d' others hp _
    rw [(hparity hp).1, (hparity hp).2]
    exact parityUpdate_change (Members.perm hms hp)
  case one =>
    intro i d others hp
    have hm : Members n ((i, d) :: others) := Members.perm hms hp
    have hi : i < 8 := (hm (i, d) List.mem_cons_self).1
    have hothers : Members n others := fun q hq => hm q (List.mem_cons_of_mem _ hq)
    refine ⟨?_, fun got hgot => ?_, fun got hgot => ?_⟩
    · rw [(hparity hp).1]
      exact rebuildOne_parity hm
    · obtain ⟨h8, -, hdata⟩ := sent_both_parities hothers hgot
      have hp' : ms.Perm ((i, d) :: sentData got) := hp.trans (hdata.symm.cons _)
      rw [recoverRow_one hi, h8, (hparity hp').1]
      exact rebuildOne_parity (Members.perm hms hp')
    · obtain ⟨h9, hdata⟩ := sent_one_parity hothers hgot
      have hp' : ms.Perm ((i, d) :: sentData got) := hp.trans (hdata.symm.cons _)
      rw [recoverRow_one_p0 hi, h9, (hparity hp').2]
      exact rebuildP1_parity (Members.perm hms hp')
  case two =>
    intro i j d e others hp hne
    have hm : Members n ((i, d) :: (j, e) :: others) := Members.perm hms hp
    have hi : i < 8 := (hm (i, d) List.mem_cons_self).1
    have hj : j < 8 := (hm (j, e) (List.mem_cons_of_mem _ List.mem_cons_self)).1
    have hothers : Members n others := fun q hq => hm q (List.mem_cons_of_mem _ (List.mem_cons_of_mem _ hq))
    refine ⟨?_, fun got hgot => ?_⟩
    · rw [(hparity hp).1, (hparity hp).2]
      exact rebuildTwo_parity hm hne
    · obtain ⟨h8, h9, hdata⟩ := sent_both_parities hothers hgot
      have hp' : ms.Perm ((i, d) :: (j, e) :: sentData got) := hp.trans ((hdata.symm.cons _).cons _)
      have hq' : ms.Perm ((j, e) :: (i, d) :: sentData got) := hp'.trans (List.Perm.swap ..)
      refine ⟨?_, ?_⟩
      · rw [recoverRow_two hi hj, h8, h9, (hparity hp').1, (hparity hp').2, rebuildTwo_parity (Members.perm hms hp') hne]
      · rw [recoverRow_two hj hi, h8, h9, (hparity hq').1, (hparity hq').2, rebuildTwo_parity (Members.perm hms hq') hne.symm]

end Sys2Proof.Machine

/-! PROOFS. A request at its stream: numbered, executed once, and judged by its epoch (R243, R247, R249, R257, R258, R260, R269, R314). -/

namespace Sys2Proof.Machine

open Sys2Proof

/-! A request at a stream whose state is resident, by its distance above EXP. -/

section AtStream

variable {s u : State} {i : ConnId} {e : Option Endpoint} {p : Pkt} {c : Conn} {d : Nat} (hu : touchConn s i = u) (hc : getConn u i = some c)
  (hd : psnSub p.psn c.exp = d)
include hu hc hd

section New

variable (hnew : Tab.find? p.psn c.ran = none)
include hnew

theorem handleReq_beyond (hfar : 128 ≤ d) : handleReq s i e p = some (u.incFld R.EP_WINDOW_DROP_CNT.COUNT) := by
  subst hu hd
  simp only [handleReq, hc, hnew, hfar, if_true]

theorem handleReq_fenced (hnear : d < 128) (hfence : p.fence = true) (hne : d ≠ 0) :
    handleReq s i e p = some (setConn u i { c with fenced := c.fenced.filter (fun q => q.psn != p.psn) ++ [p] }) := by
  subst hu hd
  simp only [handleReq, hc, hnew, if_neg (not_le.mpr hnear), hfence, hne, ne_eq, not_false_eq_true, and_self, if_true]

theorem handleReq_runs (hnear : d < 128) (hdue : p.fence = false ∨ d = 0) :
    handleReq s i e p = (runReq u i e p).map (runFenced i 256) := by
  subst hu hd
  have hgo : ¬ (p.fence = true ∧ psnSub p.psn c.exp ≠ 0) := by
    rintro ⟨hfence, hne⟩
    rcases hdue with h | h
    · exact absurd (h.symm.trans hfence) Bool.false_ne_true
    · exact hne h
  simp only [handleReq, hc, hnew, if_neg (not_le.mpr hnear), if_neg hgo]

end New

section Ran

variable {st : Status} (hran : Tab.find? p.psn c.ran = some st)
include hran

theorem handleReq_duplicate (hin : d < 128 ∨ 2 ^ 24 - 128 ≤ d) : handleReq s i e p = some (answerDup u i e p c st) := by
  subst hu hd
  simp only [handleReq, hc, hran]
  exact if_pos hin

theorem handleReq_forgotten (hfar : 128 ≤ d) (hold : d < 2 ^ 24 - 128) : handleReq s i e p = some (u.incFld R.EP_WINDOW_DROP_CNT.COUNT) := by
  subst hu hd
  simp only [handleReq, hc, hran]
  exact if_neg (not_or.mpr ⟨not_lt.mpr hfar, not_le.mpr hold⟩)

end Ran

end AtStream

/-! A request of the endpoint layer that reaches no endpoint of its peer. -/

section Admission

variable {s : State} {die : Nat} {p : Pkt} (hlayer : p.epLayer = true)
include hlayer

theorem admitReq_noEndpoint (h : s.endp? (p.ep % 2 ^ 20) = none) : admitReq s die p = some (answerGone s p) := by
  simp only [admitReq, hlayer, h, Bool.not_true, Bool.false_eq_true, if_false]

variable {e : Endpoint} (he : s.endp? (p.ep % 2 ^ 20) = some e)
include he

theorem admitReq_otherGeneration (hgen : e.gen ≠ p.ep / 2 ^ 20) : admitReq s die p = some (answerGone s p) := by
  simp only [admitReq, hlayer, he, Bool.not_true, Bool.false_eq_true, if_false, if_pos hgen]

theorem admitReq_otherPeer (hgen : e.gen = p.ep / 2 ^ 20) (hnode : e.node ≠ p.src) : admitReq s die p = some s := by
  simp only [admitReq, hlayer, he, Bool.not_true, Bool.false_eq_true, if_false, if_neg (not_not.mpr hgen), if_pos hnode]

end Admission

/-! The epoch of a request against the module's (Table 16-4). -/

/-- How far an epoch lies above the module's. -/
def epochAhead (s : State) (r : Nat) : Nat := (r + 2 ^ 16 - s.epoch) % 2 ^ 16

theorem epochAhead_eq_zero {s : State} {r : Nat} (hr : r < 2 ^ 16) (hs : s.epoch < 2 ^ 16) : epochAhead s r = 0 ↔ r = s.epoch := by
  unfold epochAhead
  omega

theorem epochSays_eq (s : State) (r : Nat) : epochSays s r =
    if epochAhead s r = 0 then .run
    else if r = s.fld R.MER_CUR.PREV then (if s.flag R.MER_STAT.DRAINING then .run else .stalePrev)
    else if epochAhead s r ≤ 2 ^ 15 then .hold else .stale := rfl

theorem epochSays_previous {s : State} {r : Nat} (hne : epochAhead s r ≠ 0) (hprev : r = s.fld R.MER_CUR.PREV) :
    epochSays s r = if s.flag R.MER_STAT.DRAINING then .run else .stalePrev := by
  rw [epochSays_eq, if_neg hne, if_pos hprev]

theorem epochSays_newer {s : State} {r : Nat} (hprev : r ≠ s.fld R.MER_CUR.PREV) (hlo : 1 ≤ epochAhead s r) (hhi : epochAhead s r ≤ 2 ^ 15) :
    epochSays s r = .hold := by
  rw [epochSays_eq, if_neg (Nat.one_le_iff_ne_zero.mp hlo), if_neg hprev, if_pos hhi]

theorem epochSays_older {s : State} {r : Nat} (hprev : r ≠ s.fld R.MER_CUR.PREV) (hlo : 2 ^ 15 < epochAhead s r) : epochSays s r = .stale := by
  have hne : epochAhead s r ≠ 0 := by omega
  rw [epochSays_eq, if_neg hne, if_neg hprev, if_neg (not_le.mpr hlo)]

/-! RETRY answers (R261). -/

theorem takeRetry_ends {s : State} {i : ConnId} {x : SentPkt} {hint : Nat} (hlimit : s.fld R.EP_TIMING.RNR_LIMIT ≠ 15)
    (hlast : s.fld R.EP_TIMING.RNR_LIMIT ≤ x.rnr + 1) : takeRetry s i x hint = takeStatus s i x .retryLater :=
  if_pos ⟨hlimit, hlast⟩

theorem takeRetry_backsOff {s : State} {i : ConnId} {x : SentPkt} {hint : Nat}
    (hmore : s.fld R.EP_TIMING.RNR_LIMIT = 15 ∨ x.rnr + 1 < s.fld R.EP_TIMING.RNR_LIMIT) : takeRetry s i x hint =
      updConn s i (fun c => { c with sent := c.sent.map (fun (y : SentPkt) =>
        if y.pkt.psn = x.pkt.psn then { y with rnr := y.rnr + 1, hold := some (s.now + hint * 1000) } else y) }) := by
  have hgo : ¬ (s.fld R.EP_TIMING.RNR_LIMIT ≠ 15 ∧ s.fld R.EP_TIMING.RNR_LIMIT ≤ x.rnr + 1) := by
    rintro ⟨hlimit, hlast⟩
    rcases hmore with h | h
    · exact hlimit h
    · omega
  exact if_neg hgo

/-- Settles O30, a clause a check of Tables 13-5 and 16-4. -/
theorem requestsOnce : Obligations.RequestsOnce := by
  unfold Obligations.RequestsOnce
  refine ⟨?stream, ?admission, ?epoch, ?retry⟩
  case stream =>
    intro s i e p c hc
    exact ⟨fun hnew hfar => handleReq_beyond rfl hc rfl hnew hfar, fun st hran hfar hold => handleReq_forgotten rfl hc rfl hran hfar hold,
      fun st hran hin => handleReq_duplicate rfl hc rfl hran hin, fun hnew hnear hfence hne => handleReq_fenced rfl hc rfl hnew hnear hfence hne,
      fun hnew hnear hdue => handleReq_runs rfl hc rfl hnew hnear hdue⟩
  case admission =>
    intro s die p hlayer
    exact ⟨admitReq_noEndpoint hlayer, fun e he => admitReq_otherGeneration hlayer he, fun e he => admitReq_otherPeer hlayer he⟩
  case epoch =>
    intro s r hr hs
    have hne : r ≠ s.epoch → epochAhead s r ≠ 0 := fun h h0 => h ((epochAhead_eq_zero hr hs).mp h0)
    refine ⟨fun h => ?_, fun h hprev hdrain => ?_, fun h hprev hdrain => ?_, epochSays_newer, epochSays_older⟩
    · rw [epochSays_eq, if_pos ((epochAhead_eq_zero hr hs).mpr h)]
    · rw [epochSays_previous (hne h) hprev, hdrain, if_pos rfl]
    · rw [epochSays_previous (hne h) hprev, hdrain, if_neg Bool.false_ne_true]
  case retry => exact fun s i x hint => ⟨takeRetry_ends, takeRetry_backsOff⟩

end Sys2Proof.Machine

/-! PROOFS. REBUILD on its target under a map that names protection members: the messages that the statement leaves out (R322). -/

namespace Sys2Proof.Machine

open Sys2Proof

/-- The end of a command keeps what was sent out first. -/
theorem head?_out_finish {s : State} {o : Out} (h : s.out.head? = some o) : (finish s).out.head? = some o := by
  obtain ⟨l, hl⟩ := (quiet_finish s).out
  rw [hl, List.head?_append, h]
  rfl

theorem exec_rebuild_on {s : State} (hon : s.pow.st = .on) (node old fn : Nat) (body : List Byte) (gen mode : Nat) (mems lost : List Nat)
    (rows : List ((Nat × Nat) × List (Nat × List Byte))) (scales : List (Nat × (Nat × Nat))) (span base : Nat) :
    exec (.rebuild false node old fn body gen mode mems lost rows scales span base) s =
      .next (finish (rebuildSpan s node old fn body gen mode mems lost rows scales span base)) := act_on hon _

/-! Span 2 of the lost node 3, mirrored on node 5, is rebuilt here as span 7, with no rows. -/

/-- Bytes 8 and on of the span's SPAN_CREATE: 16 tokens, one layer slot, one head. -/
def rebuiltBody : List Byte := leBytes 4 16 ++ leBytes 2 1 ++ leBytes 1 1

/-- The span as those bytes make it. -/
def parsedSpan : Span :=
  { fn := 0, st := .open, maxTokens := 16, layerSlots := 1, kvHeads := 1, dim := 64, fmt := .kv8, ilog := 0, fixedScale := false, pin := false,
    t2Attn := false, holed := false, prot := .none, base := 0, fixedPk := 0, fixedPv := 0, horizon := 0, gen := 0, appended := 0, tableGen := 0,
    start := 0, ptBase := 0, handoff := 0, lastRewind := none, tables := [] }

theorem parseSpan_rebuiltBody : parseSpan 0 (List.replicate 8 0#8 ++ padTo 56 rebuiltBody) = some parsedSpan := by decide

/-- The rows that every layer slot holds of it: none. -/
def rebuiltRows : Nat := rowsInAll parsedSpan.layerSlots [] parsedSpan.maxTokens 0

/-- The span as it is placed. -/
def rebuiltSpan : Span :=
  { parsedSpan with base := kvBase, start := placementStart State.reset, pin := false, prot := .mirror, horizon := rebuiltRows,
                    appended := rebuiltRows, gen := (0 + 1) % 2 ^ 32 }

/-- What the statement has the module be at the end: the span placed and its copies noted, and 0x1F logged. -/
def rebuiltStated : State :=
  let u := setScales (State.reset.setSpan 7 rebuiltSpan) 7 []
  let v : State := { u with pg := { u.pg with prot := Tab.ins 7 [5] u.pg.prot } }
  let e : LogEntry := { entry0 v 0x1F .ok 0 with object := 7, detail := leBytes 2 3 ++ leBytes 4 2 ++ leBytes 4 7 }
  sendRows (logFn v 0 e) 7 0 rebuiltRows (List.range parsedSpan.layerSlots)

/-- The model first asks node 5 to hold the span's copy. -/
theorem rebuildSpan_asks : (rebuildSpan State.reset 3 2 0 rebuiltBody 0 1 [5] [] [] [] 7 0).out.head? = some (.protect 5 7 1 16 1 132) := by decide

/-- By the statement the log's event alone is sent out. -/
theorem rebuiltStated_tells : rebuiltStated.out.head? = some (.heldReport 0 0 2 .ok) := by decide

theorem exec_rebuild_of_epochCommands (h : Obligations.EpochCommands) :
    exec (.rebuild false 3 2 0 rebuiltBody 0 1 [5] [] [] [] 7 0) State.reset = .next (finish rebuiltStated) := by
  unfold Obligations.EpochCommands at h
  obtain ⟨_, _, _, hrebuild, _⟩ := h
  obtain ⟨_, _, htarget⟩ := hrebuild State.reset 3 2 0 0 1 7 0 rebuiltBody [5] [] [] [] rfl
  have hplaced := (htarget parsedSpan .mirror 7 kvBase parseSpan_rebuiltBody rfl (by decide) (by decide)).2 (State.reset.setSpan 7 rebuiltSpan) rfl
  simp only [ite_self, reduceCtorEq, if_false, List.map_nil, List.filter_nil] at hplaced
  exact hplaced

/-- Refutes O36 in its clause for REBUILD on the target: by the statement the module sends out nothing about the members that will hold the span's
copies, where the model asks each of them to (R322 has the span protected as before). Here node 5 is asked first; by the statement nothing comes
before the event of the log. -/
theorem not_epochCommands : ¬ Obligations.EpochCommands := by
  intro h
  have hmodel := exec_rebuild_on (s := State.reset) rfl 3 2 0 rebuiltBody 0 1 [5] [] [] [] 7 0
  have hsame : finish (rebuildSpan State.reset 3 2 0 rebuiltBody 0 1 [5] [] [] [] 7 0) = finish rebuiltStated :=
    Host.Outcome.next.inj (hmodel.symm.trans (exec_rebuild_of_epochCommands h))
  have hasks := head?_out_finish rebuildSpan_asks
  rw [hsame, head?_out_finish rebuiltStated_tells] at hasks
  exact absurd hasks (by decide)

end Sys2Proof.Machine

/-! PROOFS. The queue commands: producers, the consumer's operations, stale timeouts and samples, gates, buckets and the injection window
(R272 to R284, R303). -/

namespace Sys2Proof.Machine

open Sys2Proof

theorem queue?_setQueue (s : State) (q : Nat) (x : Queue) : (s.setQueue q x).queue? q = some x := by
  have hfind : Tab.find? q (s.setQueue q x).qm.queues = some x := Tab.find?_ins_same ..
  rw [State.queue?, hfind]

/-! Producers. -/

section Append

variable {s : State} {q h node contrib t : Nat} {bs : List Byte} {psn first last opEnd : Bool}

/-- What follows once a producer's bytes are in: a send queue packetises them. -/
def afterAppend (q : Nat) (force : Bool) (u : State) : State :=
  if (match u.queue? q with | some x => x.action == 0 | none => false) then packetise q force 20 u else pumpFabric u

theorem afterAppend_send {u : State} {force : Bool} (h : (u.queue? q).map (·.action) = some 0) : afterAppend q force u = packetise q force 20 u := by
  obtain ⟨x, hx, hact⟩ := Option.map_eq_some_iff.mp h
  simp only [afterAppend, hx, hact, beq_self_eq_true, if_true]

theorem afterAppend_other {u : State} {force : Bool} (h : ∀ y, u.queue? q = some y → y.action ≠ 0) : afterAppend q force u = pumpFabric u := by
  unfold afterAppend
  cases hx : u.queue? q with
  | none => exact if_neg Bool.false_ne_true
  | some x => exact if_neg (by simpa using h x hx)

theorem doQueueAppend_listed {u : State} {x : Queue} (hx : (atTime s t).queue? q = some x)
    (hu : appendBytes (atTime s t) q bs psn first last node contrib = some u) :
    doQueueAppend q h bs psn first last opEnd false node contrib t s = afterAppend q (last && opEnd) u := by
  simp only [doQueueAppend, hx, hu, Bool.false_eq_true, if_false]
  rfl

theorem doQueueAppend_opens {u v : State} (hx : (atTime s t).queue? q = none) (hu : openSend (atTime s t) q h = some u)
    (hv : appendBytes u q bs psn first last node contrib = some v) :
    doQueueAppend q h bs psn first last opEnd false node contrib t s = afterAppend q (last && opEnd) v := by
  simp only [doQueueAppend, hx, hu, hv, Bool.false_eq_true, if_false]
  rfl

/-- The queue with a whole item behind the items there. -/
def Queue.withItem (x : Queue) (now : Nat) (bs : List Byte) (psn : Bool) (node contrib : Nat) : Queue :=
  let e := x.nextStart + x.slotBytes + bs.length
  { x.growTo now e with dropping := false, items := x.items ++ [⟨bs, psn, node, contrib, x.nextStart, e - x.nextStart, false⟩] }

theorem appendBytes_whole {u : State} {x : Queue} (hx : u.queue? q = some x) (hopen : x.openItem = none) (hne : bs ≠ []) (hlen : bs.length ≤ 1048576)
    (hmay : mayAppend u q x (x.cellsTo (x.nextStart + x.slotBytes + bs.length)) = true) :
    appendBytes u q bs psn true true node contrib = some (u.setQueue q (x.withItem u.now bs psn node contrib)) := by
  have hfits : (!mayAppend u q x (x.cellsTo (x.nextStart + x.slotBytes + bs.length)) || (true && (bs.isEmpty || decide (1048576 < bs.length)))) =
      false := by
    simp [hmay, hne, hlen]
  simp only [appendBytes, hx, hopen, Option.isSome_none, hfits, Bool.false_eq_true, if_false, if_true]
  rfl

theorem afterAppend_withItem {u : State} {x : Queue} {force : Bool} :
    afterAppend q force (u.setQueue q (x.withItem u.now bs psn node contrib)) =
      if x.action = 0 then packetise q force 20 (u.setQueue q (x.withItem u.now bs psn node contrib))
      else pumpFabric (u.setQueue q (x.withItem u.now bs psn node contrib)) := by
  have hqueue := queue?_setQueue u q (x.withItem u.now bs psn node contrib)
  split_ifs with hact
  · exact afterAppend_send (by rw [hqueue]; exact congrArg some hact)
  · refine afterAppend_other fun y hy => ?_
    rw [hqueue] at hy
    exact Option.some.inj hy ▸ hact

variable {x : Queue} (hx : (atTime s t).queue? q = some x)
include hx

theorem doQueueAppend_flushes (hopen : x.openItem ≠ none) :
    doQueueAppend q h bs psn first last opEnd true node contrib t s = pumpFabric (flushQueue (atTime s t) q) := by
  have hsome : (((atTime s t).queue? q).bind (·.openItem)).isSome = true := by
    rw [hx]
    exact Option.isSome_iff_ne_none.mpr hopen
  simp only [doQueueAppend, hsome, if_true]

theorem doQueueAppend_noItem (hopen : x.openItem = none) : doQueueAppend q h bs psn first last opEnd true node contrib t s = atTime s t := by
  have hnone : (((atTime s t).queue? q).bind (·.openItem)).isSome = false := by
    rw [hx]
    exact Option.isSome_eq_false_iff.mpr (Option.isNone_iff_eq_none.mpr hopen)
  simp only [doQueueAppend, hnone, Bool.false_eq_true, if_false, if_true]

end Append

/-! The consumer's operations, on the queue (Table 14-5). -/

namespace Queue

variable {x : Queue} {now : Nat}

theorem take_some {i : QItem} {r : List QItem} (h : x.waiting = i :: r) : x.take now =
    ({ x with head := i.start + i.size, restart := now, headSince := now } : Queue).trim := by
  simp only [take, h]

theorem take_none (h : x.waiting = []) : x.take now = x := by
  simp only [take, h]

/-- After a trim no item lies before the oldest byte held. -/
theorem oldest_le_of_mem_trim {i : QItem} (h : i ∈ x.trim.items) : x.oldest ≤ i.start := of_decide_eq_true (List.mem_filter.mp h).2

theorem le_start_of_mem_release (hmarked : x.marked = true) {pos : Nat} {i : QItem} (h : i ∈ (x.release now pos).items) : pos ≤ i.start := by
  have hle := oldest_le_of_mem_trim (x := { x with mark := pos, restart := now }) h
  rwa [oldest, if_pos hmarked] at hle

theorem head_le_start_of_mem_unmark {i : QItem} (h : i ∈ x.unmark.items) : x.head ≤ i.start :=
  oldest_le_of_mem_trim (x := { x with marked := false }) h

end Queue

/-- What the stale timer of a queue does once it is counted (Table 14-7). -/
def staleAction (action q : Nat) (u : State) : State :=
  match action with
  | 0 => packetise q true 20 u
  | 1 => flushQueue u q
  | _ => (logModule (u.setFld R.QM_ERR.STALE 1) { entry0 (u.setFld R.QM_ERR.STALE 1) 0x18 .ok 0 with object := q }).emit (.staleQueue q)

/-! The consumer's operations, on the module. -/

section Consumer

variable {s : State} {q t : Nat} {x : Queue}

theorem consume_changes (hx : s.queue? q = some x) (f : Queue → Queue) : consume s q f = pumpFabric (s.setQueue q (f x)) := by
  simp only [consume, hx]

variable (hx : (atTime s t).queue? q = some x)
include hx

theorem doRewind_marked (hmarked : x.marked = true) : doRewind q t s = pumpFabric ((atTime s t).setQueue q (x.rewind (atTime s t).now)) := by
  simp only [doRewind, hx, hmarked, if_true]

theorem doRewind_noMark (hmarked : x.marked = false) : doRewind q t s = (atTime s t).setFld R.QM_ERR.NO_MARK 1 := by
  simp only [doRewind, hx, hmarked, Bool.false_eq_true, if_false]

theorem doRelease_releases {pos : Nat} (hmarked : x.marked = true) (hlo : x.mark ≤ pos) (hhi : pos ≤ x.head) :
    doRelease q pos t s = pumpFabric ((atTime s t).setQueue q (x.release (atTime s t).now pos)) := by
  simp only [doRelease, hx]
  exact if_pos ⟨hmarked, hlo, hhi⟩

/-! Stale timeouts. -/

variable (hstale : staleNow (atTime s t) x = true) {u : State}
  (hu : ((atTime s t).setQueue q { x with restart := (atTime s t).now }).incFld R.QM_TIMEOUT_CNT.COUNT = u)
include hstale hu

theorem doStaleTimeout_fires : doStaleTimeout q t s = staleAction x.action q u := by
  subst hu
  simp only [doStaleTimeout, hx, hstale, Bool.not_true, Bool.false_eq_true, if_false]
  rfl

theorem doStaleTimeout_packetises (hact : x.action = 0) : doStaleTimeout q t s = packetise q true 20 u :=
  (doStaleTimeout_fires hx hstale hu).trans (congrArg (staleAction · q u) hact)

theorem doStaleTimeout_flushes (hact : x.action = 1) : doStaleTimeout q t s = flushQueue u q :=
  (doStaleTimeout_fires hx hstale hu).trans (congrArg (staleAction · q u) hact)

theorem doStaleTimeout_notifies (hact : 2 ≤ x.action) : doStaleTimeout q t s =
    (logModule (u.setFld R.QM_ERR.STALE 1) { entry0 (u.setFld R.QM_ERR.STALE 1) 0x18 .ok 0 with object := q }).emit (.staleQueue q) := by
  obtain ⟨n, hn⟩ := Nat.exists_eq_add_of_le' hact
  exact (doStaleTimeout_fires hx hstale hu).trans (congrArg (staleAction · q u) hn)

end Consumer

/-! Samples and gates. -/

theorem doTelemetrySample_samples {s : State} {t : Nat} (h : (atTime s t).now % 1024 = 0) : doTelemetrySample t s =
    let u := putListed (listMiss (atTime s t))
    { u with qm := { u.qm with queues := u.qm.queues.map (fun p => (p.1, p.2.sample (atTime s t).now)), ticks := u.qm.ticks + 1 } } :=
  if_neg (not_not.mpr h)

theorem doGateCycleStart_swaps {s : State} {p t : Nat} (hp : p < 16) (hswap : (atTime s t).flag R.SHP_GATE_CTL.SWAP p = true)
    (hstart : cycleStarts (atTime s t) p (otherList (atTime s t) p) = true) : doGateCycleStart p t s =
      pumpFabric (((atTime s t).setFld R.SHP_GATE_CTL.ACTIVE (otherList (atTime s t) p) p).setFld R.SHP_GATE_CTL.SWAP 0 p) := by
  simp only [doGateCycleStart, hp, hswap, hstart, and_self, if_true]

theorem doGateCycleStart_noSwap {s : State} {p t : Nat} (hswap : (atTime s t).flag R.SHP_GATE_CTL.SWAP p = false) :
    doGateCycleStart p t s = pumpFabric (atTime s t) := by
  simp only [doGateCycleStart, hswap, Bool.false_eq_true, false_and, and_false, if_false]

section Commands

variable {s : State} (hon : s.pow.st = .on)
include hon

theorem exec_queueAppend_on (q h : Nat) (bs : List Byte) (psn first last opEnd abandon : Bool) (node contrib t : Nat) :
    exec (.queueAppend q h bs psn first last opEnd abandon node contrib t) s =
      .next (finish (doQueueAppend q h bs psn first last opEnd abandon node contrib t s)) := act_on hon _

theorem exec_take_on (q t : Nat) : exec (.take q t) s = .next (finish (doTake q t s)) := act_on hon _

theorem exec_mark_on (q : Nat) : exec (.mark q) s = .next (finish (doMark q s)) := act_on hon _

theorem exec_rewind_on (q t : Nat) : exec (.rewind q t) s = .next (finish (doRewind q t s)) := act_on hon _

theorem exec_release_on (q pos t : Nat) : exec (.release q pos t) s = .next (finish (doRelease q pos t s)) := act_on hon _

theorem exec_unmark_on (q : Nat) : exec (.unmark q) s = .next (finish (doUnmark q s)) := act_on hon _

theorem exec_staleTimeout_on (q t : Nat) : exec (.staleTimeout q t) s = .next (finish (doStaleTimeout q t s)) := act_on hon _

theorem exec_telemetrySample_on (t : Nat) : exec (.telemetrySample t) s = .next (finish (doTelemetrySample t s)) := act_on hon _

theorem exec_gateCycleStart_on (p t : Nat) : exec (.gateCycleStart p t) s = .next (finish (doGateCycleStart p t s)) := act_on hon _

end Commands

/-- Settles O11, a clause a command, from what its operation does in each case. -/
theorem queueCommands : Obligations.QueueCommands := by
  unfold Obligations.QueueCommands
  refine ⟨?send, ?other, ?whole, ?opens, ?abandon, ?take, ?mark, ?rewind, ?noMark, ?release, ?unmark, ?stale, ?sample, ?swap, ?noSwap,
    fun s t hon => act_on hon _, fun s t hon => act_on hon _⟩
  case send =>
    intro s u q h node contrib t x bs psn first last opEnd hon hx hu hact
    exact completes (exec_queueAppend_on hon ..) ((doQueueAppend_listed hx hu).trans (afterAppend_send hact))
  case other =>
    intro s u q h node contrib t x bs psn first last opEnd hon hx hu hact
    exact completes (exec_queueAppend_on hon ..) ((doQueueAppend_listed hx hu).trans (afterAppend_other hact))
  case whole =>
    intro s q h node contrib t x bs psn opEnd hon hx hopen hne hlen e hmay
    exact completes (exec_queueAppend_on hon ..)
      ((doQueueAppend_listed hx (appendBytes_whole hx hopen hne hlen hmay)).trans afterAppend_withItem)
  case opens =>
    intro s u v q h node contrib t bs psn first last opEnd hon hx hu hv hact
    exact completes (exec_queueAppend_on hon ..) ((doQueueAppend_opens hx hu hv).trans (afterAppend_send hact))
  case abandon =>
    intro s q h node contrib t x bs psn first last opEnd hon hx
    have hexec := exec_queueAppend_on hon q h bs psn first last opEnd true node contrib t
    exact ⟨fun hopen => completes hexec (doQueueAppend_flushes hx hopen), fun hopen => completes hexec (doQueueAppend_noItem hx hopen)⟩
  case take =>
    intro s q t x hon hx
    refine ⟨completes (exec_take_on hon q t) (consume_changes hx _), fun i r hwait => ?_, Queue.take_none⟩
    rw [Queue.take_some hwait]
    exact ⟨rfl, rfl, rfl, rfl⟩
  case mark =>
    intro s q x hon hx
    exact ⟨completes (exec_mark_on hon q) (consume_changes hx _), rfl, rfl, rfl, rfl⟩
  case rewind =>
    intro s q t x hon hx hmarked
    exact ⟨completes (exec_rewind_on hon q t) (doRewind_marked hx hmarked), rfl, rfl, hmarked, rfl, rfl⟩
  case noMark =>
    intro s q t x hon hx hmarked
    exact completes (exec_rewind_on hon q t) (doRewind_noMark hx hmarked)
  case release =>
    intro s q pos t x hon hx hmarked hlo hhi
    exact ⟨completes (exec_release_on hon q pos t) (doRelease_releases hx hmarked hlo hhi), rfl, rfl, rfl,
      fun i hi => Queue.le_start_of_mem_release hmarked hi⟩
  case unmark =>
    intro s q x hon hx
    exact ⟨completes (exec_unmark_on hon q) (consume_changes hx _), rfl, rfl, rfl, fun i hi => Queue.head_le_start_of_mem_unmark hi⟩
  case stale =>
    intro s q t x hon hx hstale
    have hexec := exec_staleTimeout_on hon q t
    exact ⟨fun hact => completes hexec (doStaleTimeout_packetises hx hstale rfl hact),
      fun hact => completes hexec (doStaleTimeout_flushes hx hstale rfl hact),
      fun hact => ⟨_, rfl, rfl, completes hexec (doStaleTimeout_notifies hx hstale rfl hact)⟩⟩
  case sample =>
    intro s t hon htime
    exact completes (exec_telemetrySample_on hon t) (doTelemetrySample_samples htime)
  case swap =>
    intro s p t hon hp hswap hstart
    exact completes (exec_gateCycleStart_on hon p t) (doGateCycleStart_swaps hp hswap hstart)
  case noSwap =>
    intro s p t hon hswap
    exact completes (exec_gateCycleStart_on hon p t) (doGateCycleStart_noSwap hswap)

end Sys2Proof.Machine

/-! PROOFS. Sessions, the claim, constellations and their releases, firmware and the operator's configuration (R287 to R309). -/

namespace Sys2Proof.Machine

open Sys2Proof

/-! Sessions and the claim (R290, R291). -/

section Claim

variable {s : State} {terms certOk codeOk : Bool} {anchor : Nat} {anchors : List Nat}

theorem doTls_closes : doTls true terms anchor certOk s = s.updSec (fun x => { x with sessions := x.sessions - 1 }) := rfl

theorem doTls_refused (h : s.sec.claimed = false ∨ terms = false ∨ 4 ≤ s.sec.sessions) :
    doTls false terms anchor certOk s = answerOp s false := by
  have hbad : (!s.sec.claimed || !terms || decide (4 ≤ s.sec.sessions)) = true := by
    rcases h with h | h | h <;> simp [h]
  simp only [doTls, hbad, Bool.false_eq_true, if_false, if_true]

section Terms

variable (hclaimed : s.sec.claimed = true) (hterms : terms = true) (hroom : s.sec.sessions < 4)
include hclaimed hterms hroom

theorem doTls_judged : doTls false terms anchor certOk s =
    if !certOk || !s.sec.anchors.contains anchor then authFail s
    else answerOp (reportSlot (s.updSec (fun x => { x with sessions := x.sessions + 1 }))) true := by
  have hgood : (!s.sec.claimed || !terms || decide (4 ≤ s.sec.sessions)) = false := by simp [hclaimed, hterms, hroom]
  simp only [doTls, hgood, Bool.false_eq_true, if_false]

theorem doTls_authFails (h : certOk = false ∨ s.sec.anchors.contains anchor = false) : doTls false terms anchor certOk s = authFail s := by
  rw [doTls_judged hclaimed hterms hroom]
  exact if_pos (Bool.or_eq_true_iff.mpr (h.imp (by simp [·]) fun hc => by rw [hc]; rfl))

theorem doTls_opens (hcert : certOk = true) (hanchor : s.sec.anchors.contains anchor = true) : doTls false terms anchor certOk s =
    answerOp (reportSlot (s.updSec (fun x => { x with sessions := x.sessions + 1 }))) true := by
  rw [doTls_judged hclaimed hterms hroom, hcert, hanchor]
  exact if_neg Bool.false_ne_true

end Terms

theorem doClaim_refused (h : s.sec.claimed = true ∨ codeOk = false) : doClaim codeOk anchors certOk s = authFail s :=
  if_pos (Bool.or_eq_true_iff.mpr (h.imp_right (by simp [·])))

section Code

variable (hfree : s.sec.claimed = false) (hcode : codeOk = true)
include hfree hcode

theorem doClaim_badAnchors (h : anchors = [] ∨ 4 < anchors.length) : doClaim codeOk anchors certOk s = answerOp (reportSlot s) false := by
  have hbad : (anchors.isEmpty || decide (4 < anchors.length)) = true := by
    rcases h with h | h <;> simp [h]
  simp only [doClaim, hfree, hcode, hbad, Bool.not_true, Bool.or_self, Bool.false_eq_true, if_false, if_true]

theorem doClaim_claims (hne : anchors ≠ []) (hlen : anchors.length ≤ 4) (hcert : certOk = true) : doClaim codeOk anchors certOk s =
    answerOp (((reportSlot s).emit .aliasRequest).updSec (fun x => { x with claimed := true, anchors := anchors, alias_ := true })) true := by
  have hgood : (anchors.isEmpty || decide (4 < anchors.length)) = false := by simp [hne, hlen]
  simp only [doClaim, hfree, hcode, hcert, hgood, Bool.not_true, Bool.or_self, Bool.false_eq_true, if_false]

end Code

end Claim

/-! The ceremony and the releases (R292 to R295). -/

section Ceremony

variable {s : State} {id : Nat} {members : List Nat}

theorem doCeremony_failed (rekey : Bool) : doCeremony id members rekey false s = answerOp s false := rfl

variable (hne : members ≠ []) (hlen : members.length ≤ 32768) (hid : id < 2 ^ 32)
include hne hlen hid

/-- The ceremony's operands are good. -/
theorem ceremony_good : (!true || members.isEmpty || decide (32768 < members.length) || decide (2 ^ 32 ≤ id)) = false := by
  simpa [hne, hlen] using hid

theorem doCeremony_seals {k : Nat} (hnew : s.sec.sealed.find? (fun c => c.2.id == id) = none) (hk : pickFree s.sec.sealed 0 16 0 = some k) :
    doCeremony id members false true s = answerOp (s.updSec (fun x => { x with sealed := Tab.ins k ⟨id, 1, members, false⟩ x.sealed })) true := by
  simp only [doCeremony, ceremony_good hne hlen hid, hnew, hk, Bool.false_eq_true, if_false]

theorem doCeremony_unknown (hnew : s.sec.sealed.find? (fun c => c.2.id == id) = none) : doCeremony id members true true s = answerOp s false := by
  simp only [doCeremony, ceremony_good hne hlen hid, hnew, Bool.false_eq_true, if_false]

variable {k : Nat} {c : Constellation} (hold : s.sec.sealed.find? (fun c => c.2.id == id) = some (k, c))
include hold

theorem doCeremony_rekeys : doCeremony id members true true s =
    answerOp (s.updSec (fun x => { x with sealed := Tab.ins k ⟨id, c.keyGen + 1, members, false⟩ x.sealed,
                                          sent := if 2 ^ 64 ≤ x.sent + 1 then 0 else x.sent })) true := by
  simp only [doCeremony, ceremony_good hne hlen hid, hold, Bool.false_eq_true, if_false]

theorem doCeremony_known : doCeremony id members false true s = answerOp s false := by
  simp only [doCeremony, ceremony_good hne hlen hid, hold, Bool.false_eq_true, if_false]

end Ceremony

section Release

variable {s : State} {id gen : Nat} {sigOk idOk : Bool} {blocks : List (List Nat)}

theorem doReleaseToken_releases (hblocks : blocks = [1, 2, 3, 4, 5, 6].map (measurement s)) (hsealed : (sealedSlot s id gen).isSome = true) :
    doReleaseToken id gen true true blocks s = answerOp (setRelease s (fun c => c.id == id && c.keyGen == gen) true) true := by
  have hsame : (blocks == [1, 2, 3, 4, 5, 6].map (measurement s)) = true := beq_iff_eq.mpr hblocks
  simp only [doReleaseToken, hsame, hsealed, Bool.and_self, if_true]

theorem doReleaseToken_otherMeasurements (hblocks : blocks ≠ [1, 2, 3, 4, 5, 6].map (measurement s)) :
    doReleaseToken id gen sigOk idOk blocks s = answerOp s false := by
  have hdiffer : (blocks == [1, 2, 3, 4, 5, 6].map (measurement s)) = false := beq_eq_false_iff_ne.mpr hblocks
  simp only [doReleaseToken, hdiffer, Bool.and_false, Bool.false_and, Bool.false_eq_true, if_false]

theorem doReleaseToken_unsigned (h : sigOk = false ∨ idOk = false) : doReleaseToken id gen sigOk idOk blocks s = answerOp s false := by
  have hbad : (sigOk && idOk) = false := Bool.and_eq_false_iff.mpr h
  simp only [doReleaseToken, hbad, Bool.false_and, Bool.false_eq_true, if_false]

theorem released_loseReleases {q : Nat × Constellation} (h : q ∈ (loseReleases s).sec.sealed) : q.2.released = false := by
  obtain ⟨p, -, rfl⟩ := List.mem_map.mp h
  rfl

end Release

section Commands

variable {s : State}

theorem exec_tlsConnect (close terms : Bool) (anchor : Nat) (certOk : Bool) :
    exec (.tlsConnect close terms anchor certOk) s = .next (finish (doTls close terms anchor certOk s)) := rfl

theorem exec_claim (codeOk : Bool) (anchors : List Nat) (certOk : Bool) :
    exec (.claim codeOk anchors certOk) s = .next (finish (doClaim codeOk anchors certOk s)) := rfl

theorem exec_releaseClaim : exec .releaseClaim s =
    .next (finish (if s.sec.claimed then answerOp (s.updSec (fun x => { x with releaseAsked := true })) true else answerOp s false)) := rfl

/-- The operator's configuration as a change leaves it. -/
def configChanged (s : State) (a : Option (List Nat)) (p : Option (List (Nat × Nat))) (c : Option (List (Nat × (Nat × Nat)))) : State :=
  s.updSec (fun x => { x with anchors := a.getD x.anchors, publishers := p.getD x.publishers, config := c.getD x.config })

theorem exec_operatorConfigurationChange (a : Option (List Nat)) (p : Option (List (Nat × Nat))) (c : Option (List (Nat × (Nat × Nat)))) :
    exec (.operatorConfigurationChange a p c) s = .next (finish (if !storageOk a p then answerOp s false
      else answerOp (if operatorConfig (configChanged s a p c).sec = operatorConfig s.sec then configChanged s a p c
                     else loseReleases (configChanged s a p c)) true)) := rfl

variable (hon : s.pow.st = .on)
include hon

theorem exec_constellationCeremony_on (id : Nat) (members : List Nat) (rekey stepsOk : Bool) :
    exec (.constellationCeremony id members rekey stepsOk) s = .next (finish (doCeremony id members rekey stepsOk s)) := act_on hon _

theorem exec_constellationMemberRemoval_on (id : Nat) : exec (.constellationMemberRemoval id) s = .next (finish
    (if s.sec.sealed.any (fun c => c.2.id == id) then
      answerOp (s.updSec (fun x => { x with sealed := x.sealed.filter (fun c => c.2.id != id) })) true
     else answerOp s false)) := act_on hon _

theorem exec_releaseToken_on (id gen : Nat) (sigOk idOk : Bool) (blocks : List (List Nat)) :
    exec (.releaseToken id gen sigOk idOk blocks) s = .next (finish (doReleaseToken id gen sigOk idOk blocks s)) := act_on hon _

theorem exec_releaseRevoke_on (id : Nat) : exec (.releaseRevoke id) s = .next (finish
    (if s.sec.sealed.any (fun c => c.2.id == id) then answerOp (setRelease s (fun c => c.id == id) false) true else answerOp s false)) :=
  act_on hon _

end Commands

/-- Settles O34, a clause a command, from what its operation does in each case. -/
theorem securityCommands : Obligations.SecurityCommands := by
  unfold Obligations.SecurityCommands
  refine ⟨?tls, ?claim, ?ceremony, ?sealed, ?unsealed, ?token, ?config, fun s v n o => ⟨rfl, rfl⟩, ?svn, fun s => ⟨_, rfl, rfl⟩⟩
  case tls =>
    intro s t c a
    have hexec := exec_tlsConnect (s := s) false t a c
    exact ⟨exec_tlsConnect true t a c, fun h => completes hexec (doTls_refused h),
      fun hclaimed hterms hroom h => completes hexec (doTls_authFails hclaimed hterms hroom h),
      fun hclaimed hterms hroom hcert hanchor => completes hexec (doTls_opens hclaimed hterms hroom hcert hanchor)⟩
  case claim =>
    intro s c o l
    have hexec := exec_claim (s := s) o l c
    exact ⟨fun h => completes hexec (doClaim_refused h), fun hfree hcode h => completes hexec (doClaim_badAnchors hfree hcode h),
      fun hfree hcode hne hlen hcert => completes hexec (doClaim_claims hfree hcode hne hlen hcert),
      fun hclaimed => completes exec_releaseClaim (if_pos hclaimed)⟩
  case ceremony =>
    intro s id k m hon hne hlen hid
    have hnew := exec_constellationCeremony_on hon id m false true
    have hrekey := exec_constellationCeremony_on hon id m true true
    exact ⟨fun hfree hk => completes hnew (doCeremony_seals hne hlen hid hfree hk),
      fun c hold => completes hrekey (doCeremony_rekeys hne hlen hid hold), fun c hold => completes hnew (doCeremony_known hne hlen hid hold),
      fun hfree => completes hrekey (doCeremony_unknown hne hlen hid hfree),
      fun q => completes (exec_constellationCeremony_on hon id m q false) (doCeremony_failed q)⟩
  case sealed =>
    intro s id hon hany
    exact ⟨completes (exec_constellationMemberRemoval_on hon id) (if_pos hany), completes (exec_releaseRevoke_on hon id) (if_pos hany)⟩
  case unsealed =>
    intro s id hon hnone
    have hno := ne_true_of_eq_false hnone
    exact ⟨completes (exec_constellationMemberRemoval_on hon id) (if_neg hno), completes (exec_releaseRevoke_on hon id) (if_neg hno)⟩
  case token =>
    intro s id g b hon
    exact ⟨fun hblocks hsealed => completes (exec_releaseToken_on hon id g true true b) (doReleaseToken_releases hblocks hsealed),
      fun hblocks => completes (exec_releaseToken_on hon id g true true b) (doReleaseToken_otherMeasurements hblocks),
      completes (exec_releaseToken_on hon id g false true b) (doReleaseToken_unsigned (.inl rfl)),
      completes (exec_releaseToken_on hon id g true false b) (doReleaseToken_unsigned (.inr rfl))⟩
  case config =>
    intro s a p c t
    have hexec := exec_operatorConfigurationChange (s := s) a p c
    have hok : storageOk a p = true → ¬ (!storageOk a p) = true := fun h => by simp [h]
    exact ⟨fun hbad => completes hexec (if_pos (by rw [hbad]; rfl)),
      fun hgood hsame => completes hexec ((if_neg (hok hgood)).trans (congrArg (answerOp · true) (if_pos hsame))),
      fun hgood hother => ⟨completes hexec ((if_neg (hok hgood)).trans (congrArg (answerOp · true) (if_neg hother))),
        fun q => released_loseReleases⟩⟩
  case svn =>
    intro s hle
    exact ⟨rfl, le_min hle (le_max_left _ _)⟩

end Sys2Proof.Machine

/-! PROOFS. The SPDM responder, replicas and bundle pieces (R288, R289, R297, R299). -/

namespace Sys2Proof.Machine

open Sys2Proof

/-! The sides of a replica transfer (R299). -/

section Replica

variable {s : State} {f node id g base : Nat} {ps : List (List Byte × Bool × Bool)} {r : Region}

theorem takeReplica_noKey (hkey : keyStatus s id g ≠ .ok) :
    takeReplica f node id g base ps s = s.emit (.restored node 0 .keyUnavailable) := if_pos hkey

theorem takeReplica_noFrames (hkey : keyStatus s id g = .ok)
    (hnew : makeRegion s f ((ps.map (fun p => p.1.length)).foldl (· + ·) 0) .bundle 0 base = none) :
    takeReplica f node id g base ps s = s.emit (.restored node 0 .retryLater) := by
  simp only [takeReplica, hkey, hnew, ne_eq, not_true_eq_false, if_false]

theorem takeReplica_places {a : Nat} {t : State} (hkey : keyStatus s id g = .ok)
    (hnew : makeRegion s f ((ps.map (fun p => p.1.length)).foldl (· + ·) 0) .bundle 0 base = some (a, t)) :
    takeReplica f node id g base ps s = (pwrite' t a (ps.flatMap (fun p => p.1.map (fun b => (b, !p.2.1 || p.2.2))))).emit
      (.restored node a (if ps.all (fun p => p.2.1) then psnStatus (ps.any (fun p => p.2.2)) else .invalid)) := by
  simp only [takeReplica, hkey, hnew, ne_eq, not_true_eq_false, if_false]

theorem sendReplica_noRegion (hr : s.mm.regions.find? (fun r => r.base == base && r.kind == .bundle) = none) :
    sendReplica node id g base s = s.emit (.restored node base .protection) := by
  simp only [sendReplica, hr]

variable (hr : s.mm.regions.find? (fun r => r.base == base && r.kind == .bundle) = some r)
include hr

theorem sendReplica_noKey (hkey : keyStatus s id g ≠ .ok) : sendReplica node id g base s = s.emit (.restored node base .keyUnavailable) := by
  simp only [sendReplica, hr]
  exact if_pos hkey

theorem sendReplica_sends (hkey : keyStatus s id g = .ok) : sendReplica node id g base s =
    (sendLink node id g (cutPackets (r.size + 1) (pread s base r.size)) s).1.emit (.restored node base
      ((sendLink node id g (cutPackets (r.size + 1) (pread s base r.size)) s).2.worse (psnStatus (anyPsn (pread s base r.size))))) := by
  simp only [sendReplica, hr]
  exact if_neg (not_not.mpr hkey)

end Replica

/-! The descriptor of a bundle piece (R297). -/

/-- The bundle that a piece with descriptor `d` belongs to: a new one under the handle picked, or the function's own under the handle given. -/
def PieceOf (s : State) (f pick : Nat) (d : List Byte) (h : Nat) (u : BundleSt) : Prop :=
  (fieldAt d 32 4 = 0 ∧ pickFree s.sec.bundles 1 (2 ^ 32) pick = some h ∧ u = ⟨f, [], false, 0, []⟩) ∨
  (fieldAt d 32 4 ≠ 0 ∧ h = fieldAt d 32 4 ∧ Tab.find? (fieldAt d 32 4) s.sec.bundles = some u ∧ u.fn = f)

/-- The rest of BUNDLE_LOAD once a good descriptor `d` names bundle `h`, which stands at `u`. -/
def takePiece (f r n h : Nat) (u : BundleSt) (d : List Byte) (so uo : Bool) (secs : List (Bool × List Byte)) (fs : List Nat) (s : State) : State :=
  if fieldAt d 24 8 ≠ u.bytes.length then complete (abandonBundle s h) f r n .invalid
  else
    match hostRead s f (fieldAt d 8 8) (fieldAt d 16 8) with
    | none => complete s f r n .protection
    | some bs =>
      if hostPsn s (fieldAt d 8 8) (fieldAt d 16 8) then complete s f r n .poison else
      let b := u.bytes ++ bs
      let t := s.updSec (fun c => { c with bundles := Tab.ins h { u with bytes := b } c.bundles })
      match checkPiece f h (fieldAt d 24 8) b u.checked (fieldAt d 36 1 == 1) so uo secs fs t with
      | .failed st => complete (endWait (abandonBundle t h) (.desc f r n)) f r n st
      | .noRoom => waitFrame s (.desc f r n) false []
      | .taken t =>
        let t := if fieldAt d 36 1 == 1 then finishBundle t h else t
        complete (endWait t (.desc f r n)) f r n .ok 0 (leBytes 4 h ++ List.replicate 4 0#8 ++ leBytes 8 b.length)

section Piece

variable {s : State} {f r n pick : Nat} {so uo : Bool} {secs : List (Bool × List Byte)} {fs : List Nat} {d : List Byte}

section Descriptor

variable (hd : takeDesc s f r n 0x21 = some d)
include hd

theorem doBundleLoad_badDesc (hbad : 1 < fieldAt d 36 1 ∨ zeroAt d 37 27 = false) :
    doBundleLoad f r n pick so uo secs fs s = complete s f r n .invalid := by
  have hbad' : (decide (1 < fieldAt d 36 1) || !zeroAt d 37 27) = true := by
    rcases hbad with h | h <;> simp [h]
  simp only [doBundleLoad, hd, hbad', if_true]

variable (hlast : fieldAt d 36 1 ≤ 1) (hzero : zeroAt d 37 27 = true)
include hlast hzero

omit hd in
/-- The descriptor's own fields are good. -/
theorem piece_good : (decide (1 < fieldAt d 36 1) || !zeroAt d 37 27) = false := by simp [hlast, hzero]

theorem doBundleLoad_unknown (hgiven : fieldAt d 32 4 ≠ 0) (hnone : Tab.find? (fieldAt d 32 4) s.sec.bundles = none) :
    doBundleLoad f r n pick so uo secs fs s = complete s f r n .invalid := by
  simp only [doBundleLoad, hd, piece_good hlast hzero, hgiven, hnone, Bool.false_eq_true, if_false, Option.map_none]

theorem doBundleLoad_piece {h : Nat} {u : BundleSt} (hu : PieceOf s f pick d h u) :
    doBundleLoad f r n pick so uo secs fs s = takePiece f r n h u d so uo secs fs s := by
  rcases hu with ⟨hgiven, hpick, rfl⟩ | ⟨hgiven, rfl, hfind, rfl⟩
  · simp only [doBundleLoad, hd, piece_good hlast hzero, hgiven, hpick, Bool.false_eq_true, if_false, if_true]
    rfl
  · simp only [doBundleLoad, hd, piece_good hlast hzero, hgiven, hfind, Bool.false_eq_true, if_false, if_true, Option.map_some, Option.getD_some]
    rfl

end Descriptor

/-! What becomes of a piece of bundle `h`. -/

variable {h : Nat} {u : BundleSt}

theorem takePiece_badOffset (hoff : fieldAt d 24 8 ≠ u.bytes.length) :
    takePiece f r n h u d so uo secs fs s = complete (abandonBundle s h) f r n .invalid := if_pos hoff

section Offset

variable (hoff : fieldAt d 24 8 = u.bytes.length)
include hoff

theorem takePiece_unreadable (hread : hostRead s f (fieldAt d 8 8) (fieldAt d 16 8) = none) :
    takePiece f r n h u d so uo secs fs s = complete s f r n .protection := by
  simp only [takePiece, hoff, hread, ne_eq, not_true_eq_false, if_false]

variable {bs : List Byte} (hread : hostRead s f (fieldAt d 8 8) (fieldAt d 16 8) = some bs)
include hread

theorem takePiece_poisoned (hpsn : hostPsn s (fieldAt d 8 8) (fieldAt d 16 8) = true) :
    takePiece f r n h u d so uo secs fs s = complete s f r n .poison := by
  simp only [takePiece, hoff, hread, hpsn, ne_eq, not_true_eq_false, if_false, if_true]

variable (hpsn : hostPsn s (fieldAt d 8 8) (fieldAt d 16 8) = false)
include hpsn

theorem takePiece_failed {st : Status}
    (hend : checkPiece f h u.bytes.length (u.bytes ++ bs) u.checked (fieldAt d 36 1 == 1) so uo secs fs
      (s.updSec (fun c => { c with bundles := Tab.ins h { u with bytes := u.bytes ++ bs } c.bundles })) = .failed st) :
    takePiece f r n h u d so uo secs fs s = complete (endWait (abandonBundle
      (s.updSec (fun c => { c with bundles := Tab.ins h { u with bytes := u.bytes ++ bs } c.bundles })) h) (.desc f r n)) f r n st := by
  simp only [takePiece, hoff, hread, hpsn, hend, ne_eq, not_true_eq_false, Bool.false_eq_true, if_false]

theorem takePiece_noRoom
    (hend : checkPiece f h u.bytes.length (u.bytes ++ bs) u.checked (fieldAt d 36 1 == 1) so uo secs fs
      (s.updSec (fun c => { c with bundles := Tab.ins h { u with bytes := u.bytes ++ bs } c.bundles })) = .noRoom) :
    takePiece f r n h u d so uo secs fs s = waitFrame s (.desc f r n) false [] := by
  simp only [takePiece, hoff, hread, hpsn, hend, ne_eq, not_true_eq_false, Bool.false_eq_true, if_false]

theorem takePiece_taken {v : State}
    (hend : checkPiece f h u.bytes.length (u.bytes ++ bs) u.checked (fieldAt d 36 1 == 1) so uo secs fs
      (s.updSec (fun c => { c with bundles := Tab.ins h { u with bytes := u.bytes ++ bs } c.bundles })) = .taken v) :
    takePiece f r n h u d so uo secs fs s = complete (endWait (if fieldAt d 36 1 == 1 then finishBundle v h else v) (.desc f r n)) f r n .ok 0
      (leBytes 4 h ++ List.replicate 4 0#8 ++ leBytes 8 (u.bytes ++ bs).length) := by
  simp only [takePiece, hoff, hread, hpsn, hend, ne_eq, not_true_eq_false, Bool.false_eq_true, if_false]

end Offset

end Piece

/-! The checks of a piece (Table 15-6). -/

section Checks

variable {s : State} {f h old : Nat} {b : List Byte} {wc last so uo : Bool} {secs : List (Bool × List Byte)} {fs : List Nat}

theorem checkPiece_badHeader (hlen : 256 ≤ b.length) (hbad : Machine.headerOk b = false) :
    checkPiece f h old b wc last so uo secs fs s = .failed .invalid := if_pos (.inl ⟨hlen, by simp [hbad]⟩)

theorem checkPiece_headerWaits (hlen : b.length < 256) (hmore : last = false) : checkPiece f h old b wc last so uo secs fs s = .taken s := by
  have hshort : ¬ 256 ≤ b.length := not_le.mpr hlen
  simp only [checkPiece, hshort, hlen, hmore, false_and, or_self, true_or, Bool.false_eq_true, if_false, if_true]

theorem checkPiece_keyUnavailable (hlen : 256 ≤ b.length) (hgood : Machine.headerOk b = true) (hfits : b.length ≤ fieldAt b 72 8)
    (hman : manifestEnd b ≤ b.length) (hmanOk : manifestOk b = true)
    (hpub : (Tab.find? (fieldAt b 68 1) s.sec.publishers).isSome = true) (hkey : keyStatus s (fieldAt b 16 4) (fieldAt b 20 4) ≠ .ok) :
    checkPiece f h old b false false true uo secs fs s = .failed .keyUnavailable := by
  have hheader : ¬ ((256 ≤ b.length ∧ (!Machine.headerOk b) = true) ∨ (256 ≤ b.length ∧ fieldAt b 72 8 < b.length)) := by
    simp [hgood, hfits]
  have hmore : ¬ (b.length < 256 ∨ b.length < manifestEnd b) := by omega
  simp only [checkPiece, if_neg hheader, if_neg hmore, hmanOk, hpub, if_pos hkey, Bool.not_true, Bool.and_self, Bool.false_eq_true, and_false,
    false_and, if_false]

end Checks

/-! The commands while the module is on. -/

section Commands

variable {s : State} (hon : s.pow.st = .on)
include hon

theorem exec_getCertificate_on (f k : Nat) : exec (.getCertificate f k) s =
    .next (finish (s.emit (.spdm f (if certSlot s k then .certificate k else .invalid)))) := act_on hon _

theorem exec_challenge_on (f k n : Nat) : exec (.challenge f k n) s =
    .next (finish (s.emit (.spdm f (if certSlot s k then .challengeAuth k n else .invalid)))) := act_on hon _

/-- The measurement blocks that an index asks for (R289). -/
def measuredBlocks (i : Nat) : List Nat := if i = 255 then [1, 2, 3, 4, 5, 6, 7] else if 1 ≤ i ∧ i ≤ 7 then [i] else []

omit hon in
theorem measuredBlocks_one {i : Nat} (hlo : 1 ≤ i) (hhi : i ≤ 7) : measuredBlocks i = [i] :=
  (if_neg (by omega)).trans (if_pos ⟨hlo, hhi⟩)

omit hon in
theorem measuredBlocks_none {i : Nat} (hout : i = 0 ∨ 7 < i) (hall : i ≠ 255) : measuredBlocks i = [] :=
  (if_neg hall).trans (if_neg (by omega))

theorem exec_getMeasurements_on (f i : Nat) (g : Bool) (n : Nat) : exec (.getMeasurements f i g n) s =
    .next (finish (s.emit (.spdm f (if (measuredBlocks i).isEmpty then .invalid
      else .measurements g n ((measuredBlocks i).map (fun i => (i, measurement s i))))))) := act_on hon _

theorem exec_sendFromReplica_on (f node id g base : Nat) (ps : List (List Byte × Bool × Bool)) :
    exec (.restoreFromReplica true f node id g base ps) s = .next (finish (sendReplica node id g base s)) := act_on hon _

theorem exec_restoreFromReplica_on (f node id g base : Nat) (ps : List (List Byte × Bool × Bool)) :
    exec (.restoreFromReplica false f node id g base ps) s = .next (finish (takeReplica f node id g base ps s)) := act_on hon _

theorem exec_bundleLoad_on (f r n pick : Nat) (so uo : Bool) (secs : List (Bool × List Byte)) (fs : List Nat) (tlp : List (Nat × Nat)) :
    exec (.bundleLoad f r n pick so uo secs fs tlp) s = .next (finish (doBundleLoad f r n pick so uo secs fs (withTlp tlp s))) := act_on hon _

end Commands

/-- Settles O35, a clause a command, from what its operation does in each case. -/
theorem attestationAndReplicas : Obligations.AttestationAndReplicas := by
  unfold Obligations.AttestationAndReplicas
  refine ⟨?spdm, ?send, ?receive, ?piece, ?checks⟩
  case spdm =>
    intro s f hon
    have hcert := exec_getCertificate_on hon f
    have hchal := exec_challenge_on hon f
    have hmeas := exec_getMeasurements_on hon f
    refine ⟨act_on hon _, act_on hon _, act_on hon _, act_on hon _, fun k hk => completes (hcert k) (by rw [if_pos hk]),
      fun k hk => completes (hcert k) (by rw [hk, if_neg Bool.false_ne_true]), fun k n hk => completes (hchal k n) (by rw [if_pos hk]),
      fun k n hk => completes (hchal k n) (by rw [hk, if_neg Bool.false_ne_true]),
      fun i g n hlo hhi => completes (hmeas i g n) (by rw [measuredBlocks_one hlo hhi]; rfl), fun g n => hmeas 255 g n,
      fun i g n hout hall => completes (hmeas i g n) (by rw [measuredBlocks_none hout hall]; rfl), act_on hon _⟩
  case send =>
    intro s f node id g base ps r hon
    have hsend := exec_sendFromReplica_on hon f node id g base ps
    exact ⟨fun hkey => completes (exec_restoreFromReplica_on hon f node id g base ps) (takeReplica_noKey hkey),
      fun hr => completes hsend (sendReplica_noRegion hr), fun hr hkey => completes hsend (sendReplica_noKey hr hkey),
      fun hr hkey => completes hsend (sendReplica_sends hr hkey)⟩
  case receive =>
    intro s f node id g base ps hon hkey
    have htake := exec_restoreFromReplica_on hon f node id g base ps
    exact ⟨fun hnew => completes htake (takeReplica_noFrames hkey hnew), fun a t hnew => completes htake (takeReplica_places hkey hnew)⟩
  case piece =>
    intro s f r n pick so uo secs fs tlp d hon htake
    have hexec := exec_bundleLoad_on hon f r n pick so uo secs fs tlp
    have hd : takeDesc (withTlp tlp s) f r n 0x21 = some d := htake
    refine ⟨fun hbad => completes hexec (doBundleLoad_badDesc hd hbad),
      fun hlast hzero hgiven hnone => completes hexec (doBundleLoad_unknown hd hlast hzero hgiven hnone), fun h u hlast hzero hu => ?_⟩
    have hpiece := completes hexec (doBundleLoad_piece hd hlast hzero (h := h) (u := u) hu)
    exact ⟨fun hoff => completes hpiece (takePiece_badOffset hoff), fun hoff => ⟨fun hread => completes hpiece (takePiece_unreadable hoff hread),
      fun bs hread => ⟨fun hpsn => completes hpiece (takePiece_poisoned hoff hread hpsn), fun hpsn =>
        ⟨fun st hend => completes hpiece (takePiece_failed hoff hread hpsn hend), fun hend => completes hpiece (takePiece_noRoom hoff hread hpsn hend),
          fun v hend => completes hpiece (takePiece_taken hoff hread hpsn hend)⟩⟩⟩⟩
  case checks =>
    intro f h old b wc last so uo secs fs s
    refine ⟨checkPiece_badHeader, checkPiece_headerWaits, ?_⟩
    rintro hlen hgood hfits hman hmanOk rfl rfl rfl hpub hkey
    exact checkPiece_keyUnavailable hlen hgood hfits hman hmanOk hpub hkey

end Sys2Proof.Machine

/-! PROOFS. Endpoints, work requests and regions (R245 to R255). -/

namespace Sys2Proof.Machine

open Sys2Proof

/-! The descriptors of endpoints (R245, R246). -/

section Endpoints

variable {s : State} {f r n k : Nat} {d : List Byte} {e : Endpoint}

theorem doEpCreate_creates {pick : Nat} (hd : takeDesc s f r n 0x38 = some d) (hparse : parseEpCreate f d = some e)
    (hok : epCreateStatus s f e = .ok) (hk : pickFree s.tr.eps 0 1048576 pick = some k) :
    doEpCreate f r n pick s = complete (touchConn (bringIn (State.setEndp
      { s with tr := { s.tr with gens := Tab.put 0 k ((Tab.get 0 k s.tr.gens + 1) % 256) s.tr.gens } } k
      { e with gen := (Tab.get 0 k s.tr.gens + 1) % 256, ctr := (fnCounter s f e.ctr).getD 0, conn := { conn0 with resident := false } })
        (.ep k)) (.ep k)) f r n .ok 0 (leBytes 4 (k + (Tab.get 0 k s.tr.gens + 1) % 256 * 2 ^ 20)) := by
  simp only [doEpCreate, hd, hparse, hok, hk]

theorem doEpDestroy_destroys (hd : takeDesc s f r n 0x39 = some d) (hname : fieldAt d 8 4 < 2 ^ 28) (hzero : zeroAt d 12 52 = true)
    (he : namedEp s f (fieldAt d 8 4) = .ok (k, e)) : doEpDestroy f r n s = complete (destroyEp s k) f r n .ok := by
  have hgood : ¬ (2 ^ 28 ≤ fieldAt d 8 4 ∨ (!zeroAt d 12 52) = true) := by simp [hzero]; omega
  simp only [doEpDestroy, hd, if_neg hgood, he]

end Endpoints

/-! The local bytes of a work request (R251). -/

section Data

variable {s : State} {f a n : Nat}

/-- An endpoint reaches local bytes of T1 and T2 only. -/
theorem addrClass_of_epLocal {w : Bool} (h : epLocal s f a n w = .ok) : addrClass a = .t1 ∨ addrClass a = .t2 := by
  revert h
  unfold epLocal
  cases addrClass a <;> simp

theorem epLocal_withTlp (l : List (Nat × Nat)) (s : State) (f a n : Nat) (w : Bool) : epLocal (withTlp l s) f a n w = epLocal s f a n w := by
  unfold epLocal
  rw [localCheck_withTlp]
  rfl

theorem errsOf_noErrs (f : Nat) (l : List (Nat × Nat)) (s : State) : errsOf f { noErrs with host := l } s = s := rfl

theorem postData_host {errs : Errs} {bs : List PByte} (hpos : n ≠ 0) (hread : hostReadP s f a n = some bs) :
    postData s errs f true a n = .ok (bs, s) := by
  simp only [postData, if_neg hpos, if_true, hread]

theorem postData_local {l : List (Nat × Nat)} (hpos : n ≠ 0) (hmay : epLocal s f a n false = .ok) :
    postData s { noErrs with host := l } f false a n = .ok (preadCtl s a n) := by
  simp only [postData, if_neg hpos, Bool.false_eq_true, if_false, hmay, errsOf_noErrs, localRead_mem _ n (addrClass_of_epLocal hmay)]

/-- Whatever a window admits, or the function may read locally, is read (R201, R251). -/
theorem postData_reads {l : List (Nat × Nat)} {host : Bool} (hpos : n ≠ 0)
    (hmay : (if host then hostUp s f && winOk s f a n false else epLocal s f a n false == .ok) = true) :
    ∃ bs t, (host = true → hostReadP (withTlp l s) f a n = some bs ∧ t = withTlp l s) ∧ (host = false → (bs, t) = preadCtl (withTlp l s) a n) ∧
      postData (withTlp l s) { noErrs with host := l } f host a n = .ok (bs, t) := by
  cases host with
  | true =>
    obtain ⟨bs, hread⟩ := hostReadP_some (s := withTlp l s) (f := f) (a := a) (n := n) hmay
    exact ⟨bs, _, fun _ => ⟨hread, rfl⟩, nofun, postData_host hpos hread⟩
  | false =>
    have hmay' : epLocal (withTlp l s) f a n false = .ok := (epLocal_withTlp l s f a n false).trans (eq_of_beq hmay)
    exact ⟨_, _, nofun, fun _ => rfl, postData_local hpos hmay'⟩

end Data

/-! Work requests (R251, R255). -/

/-- The packets `ps` of descriptor `d`, cut in state `u`, posted on endpoint `k` as one work request. -/
def postWork (f r n k : Nat) (d : List Byte) (ps : List (Nat × Pkt)) (u : State) : State :=
  let w := newWork (markStarted u f r n) ⟨.desc f r n, 0, f, 0, ps.length, psnStatus (ps.any (·.2.poison)), bitAt (fieldAt d 13 1) 0,
    fieldAt d 16 8, [], 0⟩
  post w.2 (.ep k) w.1 ps

/-- The packets of a READ descriptor (R251). -/
def readPkts (s : State) (e : Endpoint) (d : List Byte) : List (Nat × Pkt) :=
  (cutLens (fieldAt d 36 4)).map (fun p => (p.1, epPkt s e 3 (fieldAt d 24 8 + p.1) (fieldAt d 32 4) (bitAt (fieldAt d 13 1) 2)
    (bitAt (fieldAt d 13 1) 3) (leBytes 4 p.2) false))

/-- The packet of a descriptor of an atomic (R251). -/
def atomicPkt (s : State) (e : Endpoint) (d : List Byte) : Pkt :=
  epPkt s e 4 (fieldAt d 24 8) (fieldAt d 32 4) (bitAt (fieldAt d 13 1) 2) (bitAt (fieldAt d 13 1) 3)
    (atomicPayload (fieldAt d 12 1 - 3) (fieldAt d 56 8) (fieldAt d 40 8)) false

/-- A READ asks for bytes: none of its packets carries poison. -/
theorem readPkts_clean (s : State) (e : Endpoint) (d : List Byte) : (readPkts s e d).any (·.2.poison) = false := by
  refine List.any_eq_false.mpr fun q hq => ?_
  obtain ⟨p, -, rfl⟩ := List.mem_map.mp hq
  exact Bool.false_ne_true

section Start

variable {s t : State} {errs : Errs} {f r n k : Nat} {e : Endpoint} {d : List Byte} {bs : List PByte} {st : Status}

theorem startPost_inError (herr : e.err = true) : startPost s errs f r n k e d = complete s f r n .timeout := if_pos herr

variable (herr : e.err = false) (hlost : nodeLost s e.node = false)
include herr hlost

theorem startPost_write (hop : fieldAt d 12 1 = 0)
    (hdata : postData s errs f (bitAt (fieldAt d 13 1) 0) (fieldAt d 16 8) (fieldAt d 36 4) = .ok (bs, t)) :
    startPost s errs f r n k e d = postWork f r n k d
      (writePkts t e (fieldAt d 24 8) (fieldAt d 32 4) (bitAt (fieldAt d 13 1) 2) (bitAt (fieldAt d 13 1) 3) bs) t := by
  simp only [startPost, herr, hlost, hop, hdata, Except.map, postWork, Bool.false_eq_true, if_false]

theorem startPost_writeBarred (hop : fieldAt d 12 1 = 0)
    (hdata : postData s errs f (bitAt (fieldAt d 13 1) 0) (fieldAt d 16 8) (fieldAt d 36 4) = .error st) :
    startPost s errs f r n k e d = complete s f r n st := by
  simp only [startPost, herr, hlost, hop, hdata, Except.map, Bool.false_eq_true, if_false]

theorem startPost_writeImm (hop : fieldAt d 12 1 = 2)
    (hdata : postData s errs f (bitAt (fieldAt d 13 1) 0) (fieldAt d 16 8) (fieldAt d 36 4) = .ok (bs, t)) :
    startPost s errs f r n k e d = postWork f r n k d
      (writeImmPkts t e (fieldAt d 24 8) (fieldAt d 32 4) (fieldAt d 40 4) (bitAt (fieldAt d 13 1) 2) (bitAt (fieldAt d 13 1) 3) bs) t := by
  simp only [startPost, herr, hlost, hop, hdata, Except.map, postWork, Bool.false_eq_true, if_false]

theorem startPost_read (hop : fieldAt d 12 1 = 1)
    (hmay : answerCheck s f (bitAt (fieldAt d 13 1) 0) (fieldAt d 16 8) (fieldAt d 36 4) = .ok) :
    startPost s errs f r n k e d = postWork f r n k d (readPkts s e d) s := by
  simp only [startPost, herr, hlost, hop, hmay, postWork, readPkts, Bool.false_eq_true, if_false]

theorem startPost_readBarred (hop : fieldAt d 12 1 = 1)
    (hst : answerCheck s f (bitAt (fieldAt d 13 1) 0) (fieldAt d 16 8) (fieldAt d 36 4) = st) (hne : st ≠ .ok) :
    startPost s errs f r n k e d = complete s f r n st := by
  simp only [startPost, herr, hlost, hop, hst, Bool.false_eq_true, if_false]

theorem startPost_atomic (hop : 3 ≤ fieldAt d 12 1) (hmay : answerCheck s f (bitAt (fieldAt d 13 1) 0) (fieldAt d 16 8) 8 = .ok) :
    startPost s errs f r n k e d = postWork f r n k d [(0, atomicPkt s e d)] s := by
  obtain ⟨m, hm⟩ := Nat.exists_eq_add_of_le' hop
  simp only [startPost, herr, hlost, hm, hmay, postWork, atomicPkt, Bool.false_eq_true, if_false]

end Start

section Post

variable {s : State} {errs : Errs} {op f r n k : Nat} {e : Endpoint} {d : List Byte}

/-- Descriptor `d` of a ring is an EP_POST of an OP, with good fields, that has not started and names endpoint `e` of its function. -/
structure GoodPost (s : State) (op f r n : Nat) (d : List Byte) (k : Nat) (e : Endpoint) : Prop where
  taken : takeDesc s f r n 0x3A = some d
  idle : (findDesc s f r n).map (·.started) = some false
  op_eq : fieldAt d 12 1 = op
  fields : postFieldsOk d = true
  named : namedEp s f (fieldAt d 8 4) = .ok (k, e)

theorem GoodPost.withTlp (g : GoodPost s op f r n d k e) (l : List (Nat × Nat)) : GoodPost (withTlp l s) op f r n d k e :=
  ⟨g.taken, g.idle, g.op_eq, g.fields, g.named⟩

theorem doEpPost_starts (g : GoodPost s op f r n d k e) (hnow : bitAt (fieldAt d 13 1) 1 = false) :
    doEpPost op f r n errs s = startPost s errs f r n k e d := by
  obtain ⟨htake, hidle, hop, hok, hname⟩ := g
  simp only [doEpPost, htake, hidle, hop, hok, hname, hnow, ne_eq, not_true_eq_false, Bool.not_true, Bool.false_eq_true, if_false]

theorem doEpPost_triggered (g : GoodPost s op f r n d k e) (hlater : bitAt (fieldAt d 13 1) 1 = true) :
    doEpPost op f r n errs s = prePost s errs f r n k e d := by
  obtain ⟨htake, hidle, hop, hok, hname⟩ := g
  simp only [doEpPost, htake, hidle, hop, hok, hname, hlater, ne_eq, not_true_eq_false, Bool.not_true, Bool.false_eq_true, if_false, if_true]

section Trigger

variable {c t : Nat} {q : PrePost} (hc : fnCounter s f (fieldAt d 48 4) = some c)
include hc

theorem prePost_waits (hfired : s.tr.fired.find? (fun p => p.fn == f && p.counter == c && p.ep == fieldAt d 8 4 && p.tag == fieldAt d 4 4) = none)
    (harmed : preTrigger s f c (fieldAt d 8 4) (fieldAt d 4 4) = some t) (hfree : s.tr.pre.any (fun p => p.trigger == t) = false)
    (hceil : s.tr.pre.countP (fun p => p.fn == f) < s.fld R.FN_PREPOST_CEIL f) :
    prePost s errs f r n k e d = { markStarted s f r n with tr := { (markStarted s f r n).tr with
      pre := (markStarted s f r n).tr.pre ++ [⟨f, r, n, fieldAt d 8 4, fieldAt d 4 4, c, t⟩] } } := by
  simp only [prePost, hc, hfired, harmed, hfree, if_neg (not_le.mpr hceil), Bool.false_eq_true, if_false]

theorem prePost_starts
    (hfired : s.tr.fired.find? (fun p => p.fn == f && p.counter == c && p.ep == fieldAt d 8 4 && p.tag == fieldAt d 4 4) = some q) :
    prePost s errs f r n k e d =
      startPost { s with tr := { s.tr with fired := s.tr.fired.filter (fun p => p.trigger != q.trigger) } } errs f r n k e d := by
  simp only [prePost, hc, hfired]

end Trigger

end Post

/-! Regions (R248). -/

section Regions

variable {s : State} {f r n : Nat} {d : List Byte}

/-- Entry `i` of function `f`'s regions set. -/
def putRegion (s : State) (f i : Nat) (e : RegEnt) : State := { s with tr := { s.tr with regions := Tab.ins (f * 2 ^ 24 + i) e s.tr.regions } }

theorem region?_putRegion (s : State) (f i : Nat) (e : RegEnt) : region? (putRegion s f i e) f i = some e := Tab.find?_ins_same _ _ _

/-- The fields of a REGION_SET descriptor of kind `kind` are good (R248). -/
structure GoodRegion (d : List Byte) (kind : Nat) : Prop where
  pd : fieldAt d 8 4 < 2 ^ 16
  flags : bits (fieldAt d 13 1) 3 1 = 0
  kinds : (bitAt (fieldAt d 13 1) 0 && bitAt (fieldAt d 13 1) 4) = false
  zero14 : zeroAt d 14 2 = true
  index : fieldAt d 32 4 < 2 ^ 24
  kind_eq : (if bitAt (fieldAt d 13 1) 4 then 2 else bit (bitAt (fieldAt d 13 1) 0)) = kind
  span : kind = 2 → fieldAt d 16 8 < 2 ^ 18
  pos : 1 ≤ fieldAt d 56 8
  small : fieldAt d 56 8 ≤ 2 ^ 48
  zero52 : zeroAt d 52 4 = true

/-- None of REGION_SET's reasons to refuse the descriptor itself holds. -/
theorem GoodRegion.notBad {kind : Nat} (g : GoodRegion d kind) :
    ¬ (2 ^ 16 ≤ fieldAt d 8 4 ∨ bits (fieldAt d 13 1) 3 1 ≠ 0 ∨ (bitAt (fieldAt d 13 1) 0 = true ∧ bitAt (fieldAt d 13 1) 4 = true) ∨
      (!zeroAt d 14 2) = true ∨ 2 ^ 24 ≤ fieldAt d 32 4 ∨ fieldAt d 56 8 = 0 ∨ 2 ^ 48 < fieldAt d 56 8 ∨
      (kind = 2 ∧ 2 ^ 18 ≤ fieldAt d 16 8) ∨ (!zeroAt d 52 4) = true) := by
  obtain ⟨hpd, hflags, hkinds, hz14, hindex, -, hspan, hpos, hsmall, hz52⟩ := g
  rw [← Bool.and_eq_true, hkinds, hz14, hz52]
  simp only [hflags, ne_eq, not_true_eq_false, Bool.not_true, Bool.false_eq_true, false_or, or_false]
  omega

theorem doRegionSet_sets {kind g : Nat} (hd : takeDesc s f r n 0x3A = some d) (hop : fieldAt d 12 1 = 5) (hgood : GoodRegion d kind)
    (hfree : ∀ e, region? s f (fieldAt d 32 4) = some e → e.used = false) (hmax : fieldAt d 32 4 < s.fld R.FN_REGIONS_MAX f)
    (hin : regionInside s f kind (fieldAt d 16 8) (fieldAt d 56 8) (bits (fieldAt d 13 1) 7 5) = true)
    (hg : (if ((region? s f (fieldAt d 32 4)).map (·.gen)).getD 0 = 255 then 1 else ((region? s f (fieldAt d 32 4)).map (·.gen)).getD 0 + 1) = g) :
    doRegionSet f r n s = complete (putRegion s f (fieldAt d 32 4)
      ⟨true, g, kind, fieldAt d 8 2, bits (fieldAt d 13 1) 7 5, fieldAt d 16 8, fieldAt d 56 8⟩) f r n .ok 0
      (leBytes 4 (fieldAt d 32 4 + g * 2 ^ 24)) := by
  have hroom : ¬ s.fld R.FN_REGIONS_MAX f ≤ fieldAt d 32 4 := not_le.mpr hmax
  have hnotBad := hgood.notBad
  subst hg
  rw [doRegionSet, hd]
  simp only [hgood.kind_eq, hop, if_neg hnotBad, hin, ne_eq, not_true_eq_false, Bool.not_true, Bool.false_eq_true, if_false]
  cases hold : region? s f (fieldAt d 32 4) with
  | none => simp [hroom, putRegion]
  | some e => simp [hroom, hfree e hold, putRegion]

theorem doRegionClear_clears {e : RegEnt} (hd : takeDesc s f r n 0x3A = some d) (hop : fieldAt d 12 1 = 6) (hz8 : zeroAt d 8 4 = true)
    (hz13 : zeroAt d 13 11 = true) (hz52 : zeroAt d 52 12 = true) (hr : region? s f (fieldAt d 32 4 % 2 ^ 24) = some e) (hused : e.used = true)
    (hgen : e.gen = fieldAt d 32 4 / 2 ^ 24) :
    doRegionClear f r n s = complete (putRegion s f (fieldAt d 32 4 % 2 ^ 24) { e with used := false }) f r n .ok := by
  simp only [doRegionClear, putRegion, hd, hop, hz8, hz13, hz52, hr, hused, hgen, ne_eq, not_true_eq_false, Bool.not_true, Bool.false_eq_true, or_self,
    if_false]

end Regions

/-! The commands while the module is on. -/

section Commands

variable {s : State} (hon : s.pow.st = .on)
include hon

theorem exec_epCreate_on (f r n pick : Nat) : exec (.epCreate f r n pick) s = .next (finish (doEpCreate f r n pick s)) := act_on hon _

theorem exec_epDestroy_on (f r n : Nat) : exec (.epDestroy f r n) s = .next (finish (doEpDestroy f r n s)) := act_on hon _

theorem exec_epPostWrite_on (f r n : Nat) (errs : Errs) :
    exec (.epPostWrite f r n errs) s = .next (finish (doEpPost 0 f r n errs (withTlp errs.host s))) := act_on hon _

theorem exec_epPostRead_on (f r n : Nat) : exec (.epPostRead f r n) s = .next (finish (doEpPost 1 f r n noErrs s)) := act_on hon _

theorem exec_epPostWriteImm_on (f r n : Nat) (errs : Errs) :
    exec (.epPostWriteImm f r n errs) s = .next (finish (doEpPost 2 f r n errs (withTlp errs.host s))) := act_on hon _

theorem exec_epPostFetchAdd_on (f r n : Nat) : exec (.epPostFetchAdd f r n) s = .next (finish (doEpPost 3 f r n noErrs s)) := act_on hon _

theorem exec_epPostCompareSwap_on (f r n : Nat) : exec (.epPostCompareSwap f r n) s = .next (finish (doEpPost 4 f r n noErrs s)) := act_on hon _

theorem exec_regionSet_on (f r n : Nat) : exec (.regionSet f r n) s = .next (finish (doRegionSet f r n s)) := act_on hon _

theorem exec_regionClear_on (f r n : Nat) : exec (.regionClear f r n) s = .next (finish (doRegionClear f r n s)) := act_on hon _

end Commands

/-- Settles O10, a clause a descriptor and case, from what its operation does there. -/
theorem endpointsAndRegions : Obligations.EndpointsAndRegions := by
  unfold Obligations.EndpointsAndRegions
  refine ⟨?create, ?destroy, ?write, ?writeReads, ?read, ?writeImm, ?writeImmReads, ?fetchAdd, ?compareSwap, ?inError, ?writeBarred, ?waits,
    ?fired, ?readBarred, ?regionSet, ?regionClear⟩
  case create =>
    intro s f r n pick k d e hon hd hparse hok hk
    exact completes (exec_epCreate_on hon f r n pick) (doEpCreate_creates hd hparse hok hk)
  case destroy =>
    intro s f r n k d e hon hd hname hzero he
    exact completes (exec_epDestroy_on hon f r n) (doEpDestroy_destroys hd hname hzero he)
  case write =>
    intro s t f r n k errs d e bs hon hd hidle hop hok he hnow herr hlost hdata
    have g : GoodPost s 0 f r n d k e := ⟨hd, hidle, hop, hok, he⟩
    exact completes (exec_epPostWrite_on hon f r n errs)
      ((doEpPost_starts (g.withTlp _) hnow).trans (startPost_write herr hlost hop hdata))
  case writeReads =>
    intro s f r n k tlp d e hon hd hidle hop hok he hnow herr hlost hpos hmay
    have g : GoodPost s 0 f r n d k e := ⟨hd, hidle, hop, hok, he⟩
    obtain ⟨bs, t, hhost, hlocal, hdata⟩ := postData_reads (l := tlp) hpos hmay
    exact ⟨bs, t, hhost, hlocal, completes (exec_epPostWrite_on hon f r n _)
      ((doEpPost_starts (g.withTlp _) hnow).trans (startPost_write herr hlost hop hdata))⟩
  case read =>
    intro s f r n k d e hon hd hidle hop hok he hnow herr hlost hmay
    have g : GoodPost s 1 f r n d k e := ⟨hd, hidle, hop, hok, he⟩
    refine completes (exec_epPostRead_on hon f r n) ((doEpPost_starts g hnow).trans ((startPost_read herr hlost hop hmay).trans ?_))
    rw [postWork, readPkts_clean]
    rfl
  case writeImm =>
    intro s t f r n k errs d e bs hon hd hidle hop hok he hnow herr hlost hdata
    have g : GoodPost s 2 f r n d k e := ⟨hd, hidle, hop, hok, he⟩
    exact completes (exec_epPostWriteImm_on hon f r n errs)
      ((doEpPost_starts (g.withTlp _) hnow).trans (startPost_writeImm herr hlost hop hdata))
  case writeImmReads =>
    intro s f r n k tlp d e hon hd hidle hop hok he hnow herr hlost hpos hmay
    have g : GoodPost s 2 f r n d k e := ⟨hd, hidle, hop, hok, he⟩
    obtain ⟨bs, t, hhost, hlocal, hdata⟩ := postData_reads (l := tlp) hpos hmay
    exact ⟨bs, t, hhost, hlocal, completes (exec_epPostWriteImm_on hon f r n _)
      ((doEpPost_starts (g.withTlp _) hnow).trans (startPost_writeImm herr hlost hop hdata))⟩
  case fetchAdd =>
    intro s f r n k d e hon hd hidle hop hok he hnow herr hlost hmay
    have g : GoodPost s 3 f r n d k e := ⟨hd, hidle, hop, hok, he⟩
    refine completes (exec_epPostFetchAdd_on hon f r n) ((doEpPost_starts g hnow).trans ((startPost_atomic herr hlost hop.ge hmay).trans ?_))
    rw [atomicPkt, hop]
    rfl
  case compareSwap =>
    intro s f r n k d e hon hd hidle hop hok he hnow herr hlost hmay
    have g : GoodPost s 4 f r n d k e := ⟨hd, hidle, hop, hok, he⟩
    refine completes (exec_epPostCompareSwap_on hon f r n)
      ((doEpPost_starts g hnow).trans ((startPost_atomic herr hlost (by omega) hmay).trans ?_))
    rw [atomicPkt, hop]
    rfl
  case inError =>
    intro s f r n k d e hon hd hidle hop hok he hnow herr
    have g : GoodPost s 0 f r n d k e := ⟨hd, hidle, hop, hok, he⟩
    exact completes (exec_epPostWrite_on hon f r n noErrs) ((doEpPost_starts (g.withTlp _) hnow).trans (startPost_inError herr))
  case writeBarred =>
    intro s f r n k errs d e st hon hd hidle hop hok he hnow herr hlost hdata
    have g : GoodPost s 0 f r n d k e := ⟨hd, hidle, hop, hok, he⟩
    exact completes (exec_epPostWrite_on hon f r n errs)
      ((doEpPost_starts (g.withTlp _) hnow).trans (startPost_writeBarred herr hlost hop hdata))
  case waits =>
    intro s f r n k c t d e hon hd hidle hop hok he hlater hc hfired harmed hfree hceil
    have g : GoodPost s 3 f r n d k e := ⟨hd, hidle, hop, hok, he⟩
    exact completes (exec_epPostFetchAdd_on hon f r n) ((doEpPost_triggered g hlater).trans (prePost_waits hc hfired harmed hfree hceil))
  case fired =>
    intro s f r n k c d e q hon hd hidle hop hok he hlater hc hfired herr hlost hmay u
    have g : GoodPost s 3 f r n d k e := ⟨hd, hidle, hop, hok, he⟩
    have hmayU : answerCheck u f (bitAt (fieldAt d 13 1) 0) (fieldAt d 16 8) 8 = .ok := hmay
    refine completes (exec_epPostFetchAdd_on hon f r n) ((doEpPost_triggered g hlater).trans
      ((prePost_starts hc hfired).trans ((startPost_atomic (s := u) herr hlost hop.ge hmayU).trans ?_)))
    rw [atomicPkt, hop]
    rfl
  case readBarred =>
    intro s f r n k d e st hon hd hidle hop hok he hnow herr hlost hst hne
    have g : GoodPost s 1 f r n d k e := ⟨hd, hidle, hop, hok, he⟩
    exact completes (exec_epPostRead_on hon f r n) ((doEpPost_starts g hnow).trans (startPost_readBarred herr hlost hop hst hne))
  case regionSet =>
    rintro s f r n _ _ kind g d hon hd hop hpd rfl hflags hkinds hz14 rfl hindex hkind hspan hpos hsmall hz52 hfree hmax hin hg
    have hgood : GoodRegion d kind := ⟨hpd, hflags, hkinds, hz14, hindex, hkind, hspan, hpos, hsmall, hz52⟩
    exact ⟨completes (exec_regionSet_on hon f r n) (doRegionSet_sets hd hop hgood hfree hmax hin hg), region?_putRegion _ _ _ _⟩
  case regionClear =>
    rintro s f r n _ d e hon hd hop hz8 hz13 hz52 rfl hr hused hgen
    exact ⟨completes (exec_regionClear_on hon f r n) (doRegionClear_clears hd hop hz8 hz13 hz52 hr hused hgen), region?_putRegion _ _ _ _⟩

end Sys2Proof.Machine
